-- ==== Sys2Proof/Word.lean ====
section
/-! DEFINITION. The word types of the Dordor: scalar registers are 64 bits wide (R18), an instruction is one 32-bit
word (R71), memory is addressed by byte. -/

namespace Sys2Proof

/-- A scalar register's contents (R18). -/
abbrev Word := BitVec 64

/-- One instruction word (R71). -/
abbrev Word32 := BitVec 32

/-- One byte of memory. -/
abbrev Byte := BitVec 8

end Sys2Proof
end

