-- ==== Sys2Proof/Syntax.lean ====
section
/-! DEFINITION. The instruction set: one constructor for every row of the opcode table.  The first 280 are instruction
words, those of the vector queue before those of the scalar front; `k` is the convoy bit K, `d a b` are the register fields, `m` is M, and the other fields carry the names of the
table.  The rest are the steps of the machine that have no encoding (R1 to R16, 95_what_each_step_holds.md); their arguments say which
unit steps and what arrives with the step. -/

namespace Sys2Proof

/-- A temperature sensor of the package (R401); units are indexed as R417 gives them. -/
inductive Sensor
  | anvilLayer (core layer : Nat)
  | laneDie (cluster : Nat)
  | registerDie (cluster : Nat)
  | ceilingLayer (tower layer : Nat)
  | stack (n : Nat)
  | ioDie (n : Nat)
  deriving DecidableEq, Repr

/-- Where a storage error strikes (R411). -/
inductive Storage
  | vectorFile (core reg : Nat)
  | bufferW (core : Nat)
  | bufferA (core : Nat)
  | bufferC (core : Nat)
  | scaleFile (hart : Nat)
  | soundingRegs (hart : Nat)
  | translation (core : Nat)
  | scalarL1 (core line : Nat)
  | ceilingLine (line : Nat)
  | hbmLine (line : Nat)
  deriving DecidableEq, Repr

/-- A pipeline with parity (R411). -/
inductive Pipeline
  | front (core : Nat)
  | lanes (core : Nat)
  | anvil (core layer : Nat)
  | crossbar (cluster : Nat)
  | adders (stack : Nat)
  deriving DecidableEq, Repr

/-- A unit that power gates (R263). -/
inductive GateUnit
  | core (c : Nat)
  | cluster (cl : Nat)
  deriving DecidableEq, Repr

/-- What a transport packet carries (R443, R451): endpoint, window offset and length of the whole request, the offset of this
packet in it, a counter and bytes; a read request asks for `n` bytes. -/
inductive PacketBody
  | write (rep roff len off rctr : Nat) (data : List (BitVec 8))
  | read (rep roff len off n : Nat)
  | readData (off : Nat) (data : List (BitVec 8))
  /-- Cut short on the way (R440). -/
  | trimmed
  deriving DecidableEq, Repr

/-- A transport packet (R443): peer entry it arrives from, delivery mode, PSN, the lowest PSN its sender still waits for, and the
sender's number of the request it belongs to. -/
structure Packet where
  peer : Nat
  rod : Bool
  psn : Nat
  low : Nat
  req : Nat
  body : PacketBody
  deriving DecidableEq, Repr

/-- What a frame carries above MACsec (R440, R458 to R460, R469): a message of the transport or of Jetstream, or the pauses of IEEE 802.1Qbb
as (traffic class, quanta). -/
inductive Carried
  | nothing
  | packet (pkt : Packet)
  | sack (peer : Nat) (rod : Bool) (base bitmap : Nat) (nak : Option (Nat × Nat))
  | line (comm peer lane chunk line : Nat) (data : List (BitVec 8))
  | credit (comm peer lane chunk : Nat)
  | reduce (comm peer lane chunk tag off fmt : Nat) (half : Bool) (scale : Nat) (data : List (BitVec 8))
  | pause (classes : List (Nat × Nat))
  deriving DecidableEq, Repr

/-- What link-layer retry says of a frame (R442): nothing, its sequence, or that the far end has taken frames up to one or asks for those
from one on. -/
inductive Retry
  | off
  | frame (seq : Nat)
  | taken (seq : Nat)
  | again (seq : Nat)
  deriving DecidableEq, Repr

/-- What stands in a frame: what retry says and what it carries. -/
structure FrameBody where
  retry : Retry
  msg : Carried
  deriving DecidableEq, Repr

/-- One step of the package: an instruction word of a hart, or a step of a unit. -/
inductive Instr
  /-- R148. Element-wise float add with tangents. -/
  | vadd (k : Bool) (d a b : BitVec 7) (m : Bool)
  /-- R148. Element-wise float subtract. -/
  | vsub (k : Bool) (d a b : BitVec 7) (m : Bool)
  /-- R148. Element-wise float multiply. -/
  | vmul (k : Bool) (d a b : BitVec 7) (m : Bool)
  /-- R148. Element-wise float divide. -/
  | vdiv (k : Bool) (d a b : BitVec 7) (m : Bool)
  /-- R148. Element-wise float minimum. -/
  | vmin (k : Bool) (d a b : BitVec 7) (m : Bool)
  /-- R148. Element-wise float maximum. -/
  | vmax (k : Bool) (d a b : BitVec 7) (m : Bool)
  /-- R148. Float add with a broadcast scalar. -/
  | vaddVx (k : Bool) (d a b : BitVec 7) (m : Bool)
  /-- R148. Float subtract of a broadcast scalar. -/
  | vsubVx (k : Bool) (d a b : BitVec 7) (m : Bool)
  /-- R148. Float multiply by a broadcast scalar. -/
  | vmulVx (k : Bool) (d a b : BitVec 7) (m : Bool)
  /-- R148. Float divide by a broadcast scalar. -/
  | vdivVx (k : Bool) (d a b : BitVec 7) (m : Bool)
  /-- R148. Float minimum with a broadcast scalar. -/
  | vminVx (k : Bool) (d a b : BitVec 7) (m : Bool)
  /-- R148. Float maximum with a broadcast scalar. -/
  | vmaxVx (k : Bool) (d a b : BitVec 7) (m : Bool)
  /-- R149. Fused a·b + d per element. -/
  | vfma (k : Bool) (d a b : BitVec 7) (m : Bool)
  /-- R149. Fused a·b - d per element. -/
  | vfms (k : Bool) (d a b : BitVec 7) (m : Bool)
  /-- R149. Fused -(a·b) + d per element. -/
  | vfnma (k : Bool) (d a b : BitVec 7) (m : Bool)
  /-- R149. Fused -(a·b) - d per element. -/
  | vfnms (k : Bool) (d a b : BitVec 7) (m : Bool)
  /-- R149. vfma with a scalar b. -/
  | vfmaVx (k : Bool) (d a b : BitVec 7) (m : Bool)
  /-- R149. vfms with a scalar b. -/
  | vfmsVx (k : Bool) (d a b : BitVec 7) (m : Bool)
  /-- R149. vfnma with a scalar b. -/
  | vfnmaVx (k : Bool) (d a b : BitVec 7) (m : Bool)
  /-- R149. vfnms with a scalar b. -/
  | vfnmsVx (k : Bool) (d a b : BitVec 7) (m : Bool)
  /-- R150. Correctly rounded square root per element. -/
  | vsqrt (k : Bool) (d a : BitVec 7) (m : Bool)
  /-- R150. Reciprocal square root per element. -/
  | vrsqrt (k : Bool) (d a : BitVec 7) (m : Bool)
  /-- R150. Exponential per element. -/
  | vexp (k : Bool) (d a : BitVec 7) (m : Bool)
  /-- R150. Natural logarithm per element. -/
  | vlog (k : Bool) (d a : BitVec 7) (m : Bool)
  /-- R150. Hyperbolic tangent per element. -/
  | vtanh (k : Bool) (d a : BitVec 7) (m : Bool)
  /-- R150. Logistic sigmoid per element. -/
  | vsigmoid (k : Bool) (d a : BitVec 7) (m : Bool)
  /-- R150. Floor per element with +0 tangents. -/
  | vfloor (k : Bool) (d a : BitVec 7) (m : Bool)
  /-- R150. Round to nearest integer, ties to even, per element. -/
  | vround (k : Bool) (d a : BitVec 7) (m : Bool)
  /-- R151. Clears the sign bit per element. -/
  | vabs (k : Bool) (d a : BitVec 7) (m : Bool)
  /-- R151. Inverts the sign bit per element. -/
  | vneg (k : Bool) (d a : BitVec 7) (m : Bool)
  /-- R151. Rectified linear unit per element. -/
  | vrelu (k : Bool) (d a : BitVec 7) (m : Bool)
  /-- R151. Copies values and tangents bit for bit. -/
  | vmov (k : Bool) (d a : BitVec 7) (m : Bool)
  /-- R152. Writes mask bits where elements are equal. -/
  | veq (k : Bool) (d : BitVec 3) (a b : BitVec 7) (m : Bool)
  /-- R152. Writes mask bits where elements differ. -/
  | vne (k : Bool) (d : BitVec 3) (a b : BitVec 7) (m : Bool)
  /-- R152. Writes mask bits where a < b. -/
  | vlt (k : Bool) (d : BitVec 3) (a b : BitVec 7) (m : Bool)
  /-- R152. Writes mask bits where a <= b. -/
  | vle (k : Bool) (d : BitVec 3) (a b : BitVec 7) (m : Bool)
  /-- R152. Compare equal against a scalar. -/
  | veqVx (k : Bool) (d : BitVec 3) (a b : BitVec 7) (m : Bool)
  /-- R152. Compare not equal against a scalar. -/
  | vneVx (k : Bool) (d : BitVec 3) (a b : BitVec 7) (m : Bool)
  /-- R152. Compare less than against a scalar. -/
  | vltVx (k : Bool) (d : BitVec 3) (a b : BitVec 7) (m : Bool)
  /-- R152. Compare less or equal against a scalar. -/
  | vleVx (k : Bool) (d : BitVec 3) (a b : BitVec 7) (m : Bool)
  /-- R153. Selects each element from va or vb by q[VT.MSEL]. -/
  | vsel (k : Bool) (d a b : BitVec 7)
  /-- R154. Once-acting AND of two whole masks. -/
  | qand (k : Bool) (d a b : BitVec 3)
  /-- R154. Once-acting OR of two whole masks. -/
  | qor (k : Bool) (d a b : BitVec 3)
  /-- R154. Once-acting XOR of two whole masks. -/
  | qxor (k : Bool) (d a b : BitVec 3)
  /-- R154. Once-acting qa AND NOT qb. -/
  | qsub (k : Bool) (d a b : BitVec 3)
  /-- R154. Once-acting complement of a mask. -/
  | qnot (k : Bool) (d a : BitVec 3)
  /-- R154. Once-acting copy of a mask. -/
  | qcpy (k : Bool) (d a : BitVec 3)
  /-- R155. Integer add per element, wrapping or saturating. -/
  | viadd (k : Bool) (d a b : BitVec 7) (m : Bool)
  /-- R155. Integer subtract per element. -/
  | visub (k : Bool) (d a b : BitVec 7) (m : Bool)
  /-- R155. Integer multiply per element. -/
  | vimul (k : Bool) (d a b : BitVec 7) (m : Bool)
  /-- R155. High half of the integer product per element. -/
  | vimulh (k : Bool) (d a b : BitVec 7) (m : Bool)
  /-- R155. Integer minimum per element. -/
  | vimin (k : Bool) (d a b : BitVec 7) (m : Bool)
  /-- R155. Integer maximum per element. -/
  | vimax (k : Bool) (d a b : BitVec 7) (m : Bool)
  /-- R155. Integer divide per element, all ones and DZ for a zero divisor. -/
  | vidiv (k : Bool) (d a b : BitVec 7) (m : Bool)
  /-- R155. Integer remainder per element. -/
  | virem (k : Bool) (d a b : BitVec 7) (m : Bool)
  /-- R156. Bitwise AND per element. -/
  | vand (k : Bool) (d a b : BitVec 7) (m : Bool)
  /-- R156. Bitwise OR per element. -/
  | vor (k : Bool) (d a b : BitVec 7) (m : Bool)
  /-- R156. Bitwise XOR per element. -/
  | vxor (k : Bool) (d a b : BitVec 7) (m : Bool)
  /-- R156. Shift left per element. -/
  | vsll (k : Bool) (d a b : BitVec 7) (m : Bool)
  /-- R156. Logical shift right per element. -/
  | vsrl (k : Bool) (d a b : BitVec 7) (m : Bool)
  /-- R156. Arithmetic shift right per element. -/
  | vsra (k : Bool) (d a b : BitVec 7) (m : Bool)
  /-- R156. Integer add of a scalar per element. -/
  | viaddVx (k : Bool) (d a b : BitVec 7) (m : Bool)
  /-- R156. Integer multiply by a scalar per element. -/
  | vimulVx (k : Bool) (d a b : BitVec 7) (m : Bool)
  /-- R156. Bitwise AND with a scalar. -/
  | vandVx (k : Bool) (d a b : BitVec 7) (m : Bool)
  /-- R156. Bitwise OR with a scalar. -/
  | vorVx (k : Bool) (d a b : BitVec 7) (m : Bool)
  /-- R156. Bitwise XOR with a scalar. -/
  | vxorVx (k : Bool) (d a b : BitVec 7) (m : Bool)
  /-- R156. Shift left by a scalar. -/
  | vsllVx (k : Bool) (d a b : BitVec 7) (m : Bool)
  /-- R156. Logical shift right by a scalar. -/
  | vsrlVx (k : Bool) (d a b : BitVec 7) (m : Bool)
  /-- R156. Arithmetic shift right by a scalar. -/
  | vsraVx (k : Bool) (d a b : BitVec 7) (m : Bool)
  /-- R157. Converts elements from EW to the named format, scaling FP8 sides. -/
  | vcvtTo (k : Bool) (d a : BitVec 7) (f : BitVec 4) (m : Bool)
  /-- R157. Converts elements from the named format to EW. -/
  | vcvtFrom (k : Bool) (d a : BitVec 7) (f : BitVec 4) (m : Bool)
  /-- R158. Tree-sums elements 0..VL-1 into element 0, committing as a whole. -/
  | vredsum (k : Bool) (d a : BitVec 7) (m : Bool)
  /-- R158. Tree maximum into element 0. -/
  | vredmax (k : Bool) (d a : BitVec 7) (m : Bool)
  /-- R158. Tree minimum into element 0. -/
  | vredmin (k : Bool) (d a : BitVec 7) (m : Bool)
  /-- R158. Tree AND of integer elements into element 0. -/
  | vredand (k : Bool) (d a : BitVec 7) (m : Bool)
  /-- R158. Tree OR of integer elements into element 0. -/
  | vredor (k : Bool) (d a : BitVec 7) (m : Bool)
  /-- R158. Tree XOR of integer elements into element 0. -/
  | vredxor (k : Bool) (d a : BitVec 7) (m : Bool)
  /-- R159. Sets each element's value to its index. -/
  | vid (k : Bool) (d : BitVec 7) (m : Bool)
  /-- R160. Slides va up by a scalar count. -/
  | vslideup (k : Bool) (d a b : BitVec 7) (m : Bool)
  /-- R160. Slides va down by a scalar count, filling with zero. -/
  | vslidedn (k : Bool) (d a b : BitVec 7) (m : Bool)
  /-- R160. Permutes va by indices in vb. -/
  | vshuf (k : Bool) (d a b : BitVec 7) (m : Bool)
  /-- R160. Packs selected elements of va to the low positions of vd. -/
  | vcompress (k : Bool) (d a : BitVec 7)
  /-- R159. Broadcasts a scalar element to every active element. -/
  | vbcast (k : Bool) (d a : BitVec 7) (m : Bool)
  /-- R161. Fills elements with raw Hail bits. -/
  | vhail (k : Bool) (d a : BitVec 7) (m : Bool)
  /-- R162. Writes Bernoulli mask bits from Hail. -/
  | vbern (k : Bool) (d : BitVec 3) (a b : BitVec 7)
  /-- R163. Writes tangent plane k with Rademacher, one-hot or zero values. -/
  | vseed (k : Bool) (d a b : BitVec 7) (m : Bool)
  /-- R164. Writes +0 to every tangent of active elements. -/
  | vtclr (k : Bool) (d : BitVec 7) (m : Bool)
  /-- R165. Moves tangent plane k into the value. -/
  | vtget (k : Bool) (d a b : BitVec 7) (m : Bool)
  /-- R165. Moves the value into tangent plane k. -/
  | vtset (k : Bool) (d a b : BitVec 7) (m : Bool)
  /-- R166. Applies a forward-gradient update from regenerated Rademacher directions. -/
  | vfgu (k : Bool) (d a b : BitVec 7) (m : Bool)
  /-- R172. Unit-stride vector load. -/
  | vld (k : Bool) (d a : BitVec 7) (m : Bool)
  /-- R172. Strided vector load. -/
  | vlds (k : Bool) (d a b : BitVec 7) (m : Bool)
  /-- R172. Indexed vector load. -/
  | vldx (k : Bool) (d a b : BitVec 7) (m : Bool)
  /-- R173. Unit-stride ordered vector store. -/
  | vst (k : Bool) (d a : BitVec 7) (m : Bool)
  /-- R173. Unit-stride unordered vector store. -/
  | vstU (k : Bool) (d a : BitVec 7) (m : Bool)
  /-- R173. Strided ordered vector store. -/
  | vsts (k : Bool) (d a b : BitVec 7) (m : Bool)
  /-- R173. Indexed ordered vector store. -/
  | vstx (k : Bool) (d a b : BitVec 7) (m : Bool)
  /-- R173. Indexed unordered vector store. -/
  | vstxU (k : Bool) (d a b : BitVec 7) (m : Bool)
  /-- R175. Loads elements from the core's W buffer, optionally transposing or waiting on full-empty bits. -/
  | vldw (k : Bool) (d a : BitVec 7) (p e : BitVec 2) (m : Bool)
  /-- R175. Stores elements to the W buffer. -/
  | vstw (k : Bool) (d a : BitVec 7) (e m : Bool)
  /-- R175. Loads from a local or remote A buffer. -/
  | vlda (k : Bool) (d a : BitVec 7) (r : Bool) (p e : BitVec 2) (m : Bool)
  /-- R175. Stores to a local or remote A buffer. -/
  | vsta (k : Bool) (d a : BitVec 7) (r e m : Bool)
  /-- R175. Loads from a local or remote C buffer. -/
  | vldc (k : Bool) (d a : BitVec 7) (r : Bool) (p e : BitVec 2) (m : Bool)
  /-- R175. Stores to a local or remote C buffer. -/
  | vstc (k : Bool) (d a : BitVec 7) (r e m : Bool)
  /-- R179. Unordered indexed atomic add per element. -/
  | vaadd (k : Bool) (d a b : BitVec 7) (m : Bool)
  /-- R179. Unordered indexed atomic swap. -/
  | vaswap (k : Bool) (d a b : BitVec 7) (m : Bool)
  /-- R179. Unordered indexed atomic signed maximum. -/
  | vamax (k : Bool) (d a b : BitVec 7) (m : Bool)
  /-- R179. Unordered indexed atomic signed minimum. -/
  | vamin (k : Bool) (d a b : BitVec 7) (m : Bool)
  /-- R179. Unordered indexed atomic natural maximum. -/
  | vamaxn (k : Bool) (d a b : BitVec 7) (m : Bool)
  /-- R179. Unordered indexed atomic natural minimum. -/
  | vaminn (k : Bool) (d a b : BitVec 7) (m : Bool)
  /-- R179. Unordered indexed atomic AND. -/
  | vaand (k : Bool) (d a b : BitVec 7) (m : Bool)
  /-- R179. Unordered indexed atomic OR. -/
  | vaor (k : Bool) (d a b : BitVec 7) (m : Bool)
  /-- R180. Ordered indexed atomic add, each element performed before the next. -/
  | vaaddO (k : Bool) (d a b : BitVec 7) (m : Bool)
  /-- R180. Ordered indexed atomic swap. -/
  | vaswapO (k : Bool) (d a b : BitVec 7) (m : Bool)
  /-- R180. Ordered indexed atomic signed maximum. -/
  | vamaxO (k : Bool) (d a b : BitVec 7) (m : Bool)
  /-- R180. Ordered indexed atomic signed minimum. -/
  | vaminO (k : Bool) (d a b : BitVec 7) (m : Bool)
  /-- R180. Ordered indexed atomic natural maximum. -/
  | vamaxnO (k : Bool) (d a b : BitVec 7) (m : Bool)
  /-- R180. Ordered indexed atomic natural minimum. -/
  | vaminnO (k : Bool) (d a b : BitVec 7) (m : Bool)
  /-- R180. Ordered indexed atomic AND. -/
  | vaandO (k : Bool) (d a b : BitVec 7) (m : Bool)
  /-- R180. Ordered indexed atomic OR. -/
  | vaorO (k : Bool) (d a b : BitVec 7) (m : Bool)
  /-- R183. Loads records through a strip handle and advances POS. -/
  | vsld (k : Bool) (d : BitVec 7) (a : BitVec 5) (m : Bool)
  /-- R183. Stores records through a strip handle and advances POS. -/
  | vsst (k : Bool) (d : BitVec 7) (a : BitVec 5) (m : Bool)
  /-- R183. Loads through a handle and binds the register to it. -/
  | vbind (k : Bool) (d : BitVec 7) (a : BitVec 5)
  /-- R183. Writes the bound register back to its strip and unbinds it. -/
  | vunbind (k : Bool) (d : BitVec 7) (a : BitVec 5)
  /-- R182. Loads a 32-byte strip descriptor into a handle. -/
  | hset (k : Bool) (a : BitVec 5) (b : BitVec 7)
  /-- R184. Loads scale-file entries from memory. -/
  | vscl (k : Bool) (a b : BitVec 7)
  /-- R185. Loads a nested-plane tensor at q of P planes into float elements. -/
  | vldnp (k : Bool) (d a : BitVec 7) (p : BitVec 3) (q : BitVec 4) (m : Bool)
  /-- R220. Acquires, reshapes or releases the Anvil at issue and writes the grant. -/
  | mshape (k : Bool) (d a : BitVec 7)
  /-- R222. Loads the next stationary plane from the W allocation and makes it active. -/
  | mlds (k : Bool) (a : BitVec 7)
  /-- R232. Sets a tile group to +0. -/
  | mzero (k : Bool) (d : BitVec 4)
  /-- R233. Waits for older matrix words and writes Anvil status to x[d]. -/
  | mstat (k : Bool) (d : BitVec 7)
  /-- R224. Accumulates a dense BF16 product into tile groups. -/
  | mmulBf16 (k : Bool) (d : BitVec 4) (a b : BitVec 7) (s : Bool)
  /-- R224. Accumulates a dense E4M3 product. -/
  | mmulE4m3 (k : Bool) (d : BitVec 4) (a b : BitVec 7) (s : Bool)
  /-- R224. Accumulates a dense E5M2 product. -/
  | mmulE5m2 (k : Bool) (d : BitVec 4) (a b : BitVec 7) (s : Bool)
  /-- R224. Accumulates an NP4 by I8 product. -/
  | mmulNp4 (k : Bool) (d : BitVec 4) (a b : BitVec 7) (s : Bool)
  /-- R224. Accumulates an NP2 by I8 product. -/
  | mmulNp2 (k : Bool) (d : BitVec 4) (a b : BitVec 7) (s : Bool)
  /-- R224. Accumulates a sparse BF16 product. -/
  | mmulSpBf16 (k : Bool) (d : BitVec 4) (a b : BitVec 7) (s : Bool)
  /-- R224. Accumulates a sparse E4M3 product. -/
  | mmulSpE4m3 (k : Bool) (d : BitVec 4) (a b : BitVec 7) (s : Bool)
  /-- R224. Accumulates a sparse E5M2 product. -/
  | mmulSpE5m2 (k : Bool) (d : BitVec 4) (a b : BitVec 7) (s : Bool)
  /-- R224. Sparse NP4 form, refused with OPND since sparsity excludes it. -/
  | mmulSpNp4 (k : Bool) (d : BitVec 4) (a b : BitVec 7) (s : Bool)
  /-- R224. Sparse NP2 form, refused with OPND since sparsity excludes it. -/
  | mmulSpNp2 (k : Bool) (d : BitVec 4) (a b : BitVec 7) (s : Bool)
  /-- R231. Stores tile elements at unit stride through the vector store unit. -/
  | mdrain (k : Bool) (d : BitVec 4) (a : BitVec 7) (m : Bool)
  /-- R231. Stores tile rows at a stride. -/
  | mdrainS (k : Bool) (d : BitVec 4) (a b : BitVec 7) (m : Bool)
  /-- R231. Stores tile elements at indexed addresses. -/
  | mdrainX (k : Bool) (d : BitVec 4) (a b : BitVec 7) (m : Bool)
  /-- R239. Once-acting write of one copy-program register. -/
  | cpl (k : Bool) (d : BitVec 3) (a b : BitVec 7)
  /-- R241. Checks and accepts a copy into memory or buffers. -/
  | cpgo (k : Bool) (a b : BitVec 7)
  /-- R241. Checks and accepts a copy into a register group, clearing landed bits. -/
  | cpv (k : Bool) (d a b : BitVec 7)
  /-- R323. Requests a tile move from a descriptor and returns the arbiter's answer. -/
  | dmove (k : Bool) (d a : BitVec 7)
  /-- R324. Resolves a pointer through drift marks. -/
  | dfix (k : Bool) (d a : BitVec 7)
  /-- R325. Repairs an index vector through drift marks. -/
  | vdfix (k : Bool) (d a b : BitVec 7)
  /-- R327. Sweeps the launch's marks below the horizon and counts those left. -/
  | dsweep (k : Bool) (d : BitVec 7)
  /-- R326. Sets TEPOCH := DEPOCH. -/
  | dack (k : Bool) (d : BitVec 7)
  /-- R328. Reports Drift state by selector. -/
  | dstat (k : Bool) (d a b : BitVec 7)
  /-- R447. Stages one work-request word SWn. -/
  | nwr (k : Bool) (d : BitVec 3) (a : BitVec 7)
  /-- R448. Checks and posts the staged work request to the launch's send queue. -/
  | npost (k : Bool) (d : BitVec 7)
  /-- R449. Waits until a completion counter falls to a value, then acquires. -/
  | nwait (k : Bool) (d a b : BitVec 7)
  /-- R450. Reads, sets or adds to a completion counter. -/
  | nctr (k : Bool) (d a b : BitVec 7)
  /-- R473. Loads a chunk graph into the graph store, or frees a graph handle. -/
  | cgload (k : Bool) (d a b : BitVec 7)
  /-- R474. Releases and starts a new instance of a loaded graph with a run block. -/
  | cgrun (k : Bool) (d a b : BitVec 7)
  /-- R475. Waits for or polls a graph instance's end, then acquires. -/
  | cgwait (k : Bool) (d a b : BitVec 7)
  /-- R476. Reads Jetstream state by selector. -/
  | cgstat (k : Bool) (d a b : BitVec 7)
  /-- R114. Writes x[d] := x[a] + x[b], wrapping modulo 2^64. -/
  | add (k : Bool) (d a b : BitVec 7)
  /-- R114. Writes x[d] := x[a] - x[b], wrapping modulo 2^64. -/
  | sub (k : Bool) (d a b : BitVec 7)
  /-- R114. Writes the bitwise AND of x[a] and x[b] to x[d]. -/
  | and (k : Bool) (d a b : BitVec 7)
  /-- R114. Writes the bitwise OR of x[a] and x[b] to x[d]. -/
  | or (k : Bool) (d a b : BitVec 7)
  /-- R114. Writes the bitwise XOR of x[a] and x[b] to x[d]. -/
  | xor (k : Bool) (d a b : BitVec 7)
  /-- R114. Shifts x[a] left by x[b][5:0] into x[d]. -/
  | sll (k : Bool) (d a b : BitVec 7)
  /-- R114. Shifts x[a] logically right by x[b][5:0] into x[d]. -/
  | srl (k : Bool) (d a b : BitVec 7)
  /-- R114. Shifts x[a] arithmetically right by x[b][5:0] into x[d]. -/
  | sra (k : Bool) (d a b : BitVec 7)
  /-- R114. Writes 1 to x[d] if x[a] < x[b] signed, else 0. -/
  | slt (k : Bool) (d a b : BitVec 7)
  /-- R114. Writes 1 to x[d] if x[a] < x[b] natural, else 0. -/
  | sltn (k : Bool) (d a b : BitVec 7)
  /-- R114. Writes 1 to x[d] if x[a] = x[b], else 0. -/
  | seq (k : Bool) (d a b : BitVec 7)
  /-- R114. Writes 1 to x[d] if x[a] differs from x[b], else 0. -/
  | sne (k : Bool) (d a b : BitVec 7)
  /-- R121. Adds two FP32 scalars under VT.RM and ORs value events into FV. -/
  | fadd (k : Bool) (d a b : BitVec 7)
  /-- R121. Subtracts two FP32 scalars under VT.RM. -/
  | fsub (k : Bool) (d a b : BitVec 7)
  /-- R121. Multiplies two FP32 scalars under VT.RM. -/
  | fmul (k : Bool) (d a b : BitVec 7)
  /-- R121. Divides two FP32 scalars under VT.RM, raising DZ or NV as R122 gives. -/
  | fdiv (k : Bool) (d a b : BitVec 7)
  /-- R121. Computes x[a]·x[b] + x[d] in FP32 with one rounding. -/
  | ffma (k : Bool) (d a b : BitVec 7)
  /-- R121. Writes the rounded FP32 square root of x[a] to x[d]. -/
  | fsqrt (k : Bool) (d a : BitVec 7)
  /-- R121. Writes the lesser FP32 operand, bit for bit, to x[d]. -/
  | fmin (k : Bool) (d a b : BitVec 7)
  /-- R121. Writes the greater FP32 operand, bit for bit, to x[d]. -/
  | fmax (k : Bool) (d a b : BitVec 7)
  /-- R121. Writes 1 to x[d] if the FP32 operands are equal. -/
  | feq (k : Bool) (d a b : BitVec 7)
  /-- R121. Writes 1 to x[d] if FP32 x[a] < x[b]; raises NV on any NaN. -/
  | flt (k : Bool) (d a b : BitVec 7)
  /-- R121. Writes 1 to x[d] if FP32 x[a] <= x[b]; raises NV on any NaN. -/
  | fle (k : Bool) (d a b : BitVec 7)
  /-- R121. Converts FP32 x[a] to I64 in x[d] under R61. -/
  | fcvtI (k : Bool) (d a : BitVec 7)
  /-- R121. Converts FP32 x[a] to N64 in x[d] under R61. -/
  | fcvtN (k : Bool) (d a : BitVec 7)
  /-- R121. Converts I64 x[a] to FP32 in x[d]. -/
  | fcvtFi (k : Bool) (d a : BitVec 7)
  /-- R121. Converts N64 x[a] to FP32 in x[d]. -/
  | fcvtFn (k : Bool) (d a : BitVec 7)
  /-- R114. Writes the low 64 bits of x[a]·x[b] to x[d]. -/
  | mul (k : Bool) (d a b : BitVec 7)
  /-- R114. Writes the high 64 bits of the signed 128-bit product to x[d]. -/
  | mulh (k : Bool) (d a b : BitVec 7)
  /-- R114. Writes the high 64 bits of the natural 128-bit product to x[d]. -/
  | mulhn (k : Bool) (d a b : BitVec 7)
  /-- R115. Writes the signed quotient toward zero, all ones for a zero divisor. -/
  | div (k : Bool) (d a b : BitVec 7)
  /-- R115. Writes the natural quotient, all ones for a zero divisor. -/
  | divn (k : Bool) (d a b : BitVec 7)
  /-- R115. Writes the signed remainder, x[a] for a zero divisor. -/
  | rem (k : Bool) (d a b : BitVec 7)
  /-- R115. Writes the natural remainder, x[a] for a zero divisor. -/
  | remn (k : Bool) (d a b : BitVec 7)
  /-- R116. Writes x[a] + sign-extended imm11 to x[d]. -/
  | addi (k : Bool) (d a : BitVec 7) (i : BitVec 11)
  /-- R116. Writes x[a] AND sign-extended imm8 to x[d]. -/
  | andi (k : Bool) (d a : BitVec 7) (i : BitVec 8)
  /-- R116. Writes x[a] OR sign-extended imm8 to x[d]. -/
  | ori (k : Bool) (d a : BitVec 7) (i : BitVec 8)
  /-- R116. Writes x[a] XOR sign-extended imm8 to x[d]. -/
  | xori (k : Bool) (d a : BitVec 7) (i : BitVec 8)
  /-- R116. Writes 1 if x[a] < imm8 signed, else 0. -/
  | slti (k : Bool) (d a : BitVec 7) (i : BitVec 8)
  /-- R116. Writes 1 if x[a] < sign-extended imm8 natural, else 0. -/
  | sltni (k : Bool) (d a : BitVec 7) (i : BitVec 8)
  /-- R116. Shifts x[a] left by the immediate amount. -/
  | slli (k : Bool) (d a : BitVec 7) (h : BitVec 6)
  /-- R116. Shifts x[a] logically right by the immediate amount. -/
  | srli (k : Bool) (d a : BitVec 7) (h : BitVec 6)
  /-- R116. Shifts x[a] arithmetically right by the immediate amount. -/
  | srai (k : Bool) (d a : BitVec 7) (h : BitVec 6)
  /-- R119. Links PC + 4 in x[d] and jumps to (x[a] + imm11) with bits [1:0] cleared. -/
  | jalr (k : Bool) (d a : BitVec 7) (i : BitVec 11)
  /-- R117. Writes sext(imm18)·2^11 to x[d]. -/
  | lim (k : Bool) (d : BitVec 7) (i : BitVec 18)
  /-- R117. Writes PC + sext(imm18)·2^11 to x[d]. -/
  | apc (k : Bool) (d : BitVec 7) (i : BitVec 18)
  /-- R118. Branches to PC + 4·offset if x[a] = x[b]. -/
  | beq (k : Bool) (a b : BitVec 7) (o : BitVec 11)
  /-- R118. Branches if x[a] differs from x[b]. -/
  | bne (k : Bool) (a b : BitVec 7) (o : BitVec 11)
  /-- R118. Branches if x[a] < x[b] signed. -/
  | blt (k : Bool) (a b : BitVec 7) (o : BitVec 11)
  /-- R118. Branches if x[a] >= x[b] signed. -/
  | bge (k : Bool) (a b : BitVec 7) (o : BitVec 11)
  /-- R118. Branches if x[a] < x[b] natural. -/
  | bltn (k : Bool) (a b : BitVec 7) (o : BitVec 11)
  /-- R118. Branches if x[a] >= x[b] natural. -/
  | bgen (k : Bool) (a b : BitVec 7) (o : BitVec 11)
  /-- R119. Writes PC + 4 to x1 and jumps to PC + 4·offset. -/
  | jal (k : Bool) (o : BitVec 25)
  /-- R123. Loads 8 bytes at x[a] + offset into x[d], checking ALIGN, SACC and page fault in order. -/
  | ld64 (k : Bool) (d a : BitVec 7) (i : BitVec 11)
  /-- R123. Loads 4 bytes sign-extended into x[d]. -/
  | ld32 (k : Bool) (d a : BitVec 7) (i : BitVec 11)
  /-- R123. Loads 4 bytes zero-extended into x[d]. -/
  | ld32n (k : Bool) (d a : BitVec 7) (i : BitVec 11)
  /-- R123. Loads 2 bytes sign-extended into x[d]. -/
  | ld16 (k : Bool) (d a : BitVec 7) (i : BitVec 11)
  /-- R123. Loads 2 bytes zero-extended into x[d]. -/
  | ld16n (k : Bool) (d a : BitVec 7) (i : BitVec 11)
  /-- R123. Loads 1 byte sign-extended into x[d]. -/
  | ld8 (k : Bool) (d a : BitVec 7) (i : BitVec 11)
  /-- R123. Loads 1 byte zero-extended into x[d]. -/
  | ld8n (k : Bool) (d a : BitVec 7) (i : BitVec 11)
  /-- R123. Stores 8 bytes of x[b] at x[a] + offset. -/
  | st64 (k : Bool) (a b : BitVec 7) (o : BitVec 11)
  /-- R123. Stores the low 4 bytes of x[b] at x[a] + offset. -/
  | st32 (k : Bool) (a b : BitVec 7) (o : BitVec 11)
  /-- R123. Stores the low 2 bytes of x[b] at x[a] + offset. -/
  | st16 (k : Bool) (a b : BitVec 7) (o : BitVec 11)
  /-- R123. Stores the low byte of x[b] at x[a] + offset. -/
  | st8 (k : Bool) (a b : BitVec 7) (o : BitVec 11)
  /-- R129. Loads 64 bits at the home and sets the hart's reservation on the block. -/
  | lrx (k : Bool) (d a : BitVec 7)
  /-- R129. Stores 64 bits if the reservation holds, writing 0 or 1 to x[d], and clears the reservation. -/
  | scx (k : Bool) (d a b : BitVec 7)
  /-- R127. Atomically swaps a 64-bit location with x[b] at its home. -/
  | aswap (k : Bool) (d a b : BitVec 7)
  /-- R127. Atomically adds x[b] to a 64-bit location, returning the old value. -/
  | aadd (k : Bool) (d a b : BitVec 7)
  /-- R127. Atomically ANDs x[b] into a 64-bit location. -/
  | aand (k : Bool) (d a b : BitVec 7)
  /-- R127. Atomically ORs x[b] into a 64-bit location. -/
  | aor (k : Bool) (d a b : BitVec 7)
  /-- R127. Atomically XORs x[b] into a 64-bit location. -/
  | axor (k : Bool) (d a b : BitVec 7)
  /-- R127. Atomically stores the signed maximum into a 64-bit location. -/
  | amax (k : Bool) (d a b : BitVec 7)
  /-- R127. Atomically stores the signed minimum into a 64-bit location. -/
  | amin (k : Bool) (d a b : BitVec 7)
  /-- R127. Atomically stores the natural maximum into a 64-bit location. -/
  | amaxn (k : Bool) (d a b : BitVec 7)
  /-- R127. Atomically stores the natural minimum into a 64-bit location. -/
  | aminn (k : Bool) (d a b : BitVec 7)
  /-- R127. Atomically stores x[b] if the 64-bit location equals x[d]. -/
  | acas (k : Bool) (d a b : BitVec 7)
  /-- R128. Atomically increments a 64-bit location, wrapping to 0 at the bound. -/
  | ainc (k : Bool) (d a b : BitVec 7)
  /-- R128. Atomically adds up to a bound in a 64-bit location, setting FV.SAT when old exceeds the bound. -/
  | afab (k : Bool) (d a b : BitVec 7)
  /-- R129. 32-bit lrx: loads sign-extended and sets the reservation. -/
  | lrx32 (k : Bool) (d a : BitVec 7)
  /-- R129. 32-bit store-conditional. -/
  | scx32 (k : Bool) (d a b : BitVec 7)
  /-- R127. 32-bit atomic swap. -/
  | aswap32 (k : Bool) (d a b : BitVec 7)
  /-- R127. 32-bit atomic add. -/
  | aadd32 (k : Bool) (d a b : BitVec 7)
  /-- R127. 32-bit atomic AND. -/
  | aand32 (k : Bool) (d a b : BitVec 7)
  /-- R127. 32-bit atomic OR. -/
  | aor32 (k : Bool) (d a b : BitVec 7)
  /-- R127. 32-bit atomic XOR. -/
  | axor32 (k : Bool) (d a b : BitVec 7)
  /-- R127. 32-bit atomic signed maximum. -/
  | amax32 (k : Bool) (d a b : BitVec 7)
  /-- R127. 32-bit atomic signed minimum. -/
  | amin32 (k : Bool) (d a b : BitVec 7)
  /-- R127. 32-bit atomic natural maximum. -/
  | amaxn32 (k : Bool) (d a b : BitVec 7)
  /-- R127. 32-bit atomic natural minimum. -/
  | aminn32 (k : Bool) (d a b : BitVec 7)
  /-- R127. 32-bit atomic compare and swap. -/
  | acas32 (k : Bool) (d a b : BitVec 7)
  /-- R128. 32-bit atomic bounded increment. -/
  | ainc32 (k : Bool) (d a b : BitVec 7)
  /-- R128. 32-bit atomic fetch-and-add to a bound. -/
  | afab32 (k : Bool) (d a b : BitVec 7)
  /-- R136. Drains as vdrain, saves the task for placement elsewhere and takes the hart out of service. -/
  | halt (k : Bool)
  /-- R135. Takes a pre-emption stop if the scheduler holds a ready task for this hart. -/
  | yield (k : Bool)
  /-- R137. Invalidates TLB and walk-cache entries package-wide, serialising as an unmap at a movable tile's arbiter. -/
  | tlbinv (k : Bool) (a : BitVec 7)
  /-- R138. Writes the cluster's arithmetic-clock cycle count to x[d]. -/
  | rdcyc (k : Bool) (d : BitVec 7)
  /-- R138. Writes the 1 GHz package timebase to x[d]. -/
  | rdtime (k : Bool) (d : BitVec 7)
  /-- R138. Writes core event counter n to x[d]. -/
  | rdctr (k : Bool) (d : BitVec 7) (n : BitVec 4)
  /-- R132. Waits for an empty vector queue and for every older vector-side effect to be performed at system scope. -/
  | vdrain (k : Bool)
  /-- R130. Orders older scalar loads and atomics before younger scalar accesses at a scope. -/
  | fenceAcq (k : Bool) (s : BitVec 3)
  /-- R130. Orders older scalar accesses before younger stores and atomics at a scope. -/
  | fenceRel (k : Bool) (s : BitVec 3)
  /-- R130. Acts as both acquire and release fence at a scope. -/
  | fence (k : Bool) (s : BitVec 3)
  /-- R134. Raises cause TRAP with EVAL := x[a]. -/
  | trap (k : Bool) (a : BitVec 7)
  /-- R46. Waits for an empty queue, restores VT, VL, WB, renegotiates lanes, clears INH and reissues the dump. -/
  | tret (k : Bool)
  /-- R134. Makes a Contrail stop if a debugger is attached, else raises EBRK. -/
  | ebrk (k : Bool)
  /-- R133. Reads the selected control register into x[d], waiting for an empty queue where R26 requires. -/
  | cget (k : Bool) (d : BitVec 7) (s : BitVec 8)
  /-- R133. Writes x[a] into the selected control register under its access codes, trapping PRIV for S-write fields. -/
  | cset (k : Bool) (a : BitVec 7) (s : BitVec 8)
  /-- R140. Waits for an empty queue and loads VT, clamping VL and returning VLMAX. -/
  | vcfg (k : Bool) (d a : BitVec 7)
  /-- R141. Sets VL, closes and opens a strip and requests lane groups. -/
  | vgrant (k : Bool) (d a : BitVec 7)
  /-- R142. Moves the vector window base, trapping OPND if illegal. -/
  | wbase (k : Bool) (a : BitVec 7)
  /-- R253. Releases and counts arrivals at a barrier, advancing or over-arriving. -/
  | barArrive (k : Bool) (d a b : BitVec 7)
  /-- R254. Reports latched traps, waits for the next phase and acquires. -/
  | barWait (k : Bool) (d a b : BitVec 7)
  /-- R259. Defines a named task on a freshly allocated dependence counter. -/
  | tskDef (k : Bool) (d a b : BitVec 7)
  /-- R260. Releases and decrements a dependence counter, creating its task at zero. -/
  | tskDec (k : Bool) (d a : BitVec 7)
  /-- R380. Releases and admits a launch record or graph instance from device code. -/
  | lnch (k : Bool) (d a b : BitVec 7)
  /-- R381. Waits for or polls a launch or instance's end, then acquires. -/
  | lwait (k : Bool) (d a b : BitVec 7)
  /-- R390. Claims the next range of permutation positions at the device combiner. -/
  | sndClaim (k : Bool) (d : BitVec 7)
  /-- R391. Folds one sample into the hart's Sounding registers, sending them when OUT reaches 0. -/
  | sndGive (k : Bool) (d a : BitVec 7)
  /-- R396. Reads Sounding state or Perm(j) by selector. -/
  | sndStat (k : Bool) (d a b : BitVec 7)
  /-- R37. The convoy at CP commits one element group of all its members, with once-acting members acting at the first. -/
  | convoyCommit (h : Nat)
  /-- R198. Each cycle the bucket leaks and ready convoys are released in priority order while they fit. -/
  | gustCycle (c : Nat)
  /-- R249. A remote element or atomic request is performed at the owning bank and replied to. -/
  | remoteBufferMessage (c : Nat)
  /-- R249. A reply to a remote buffer message returns to the issuing core. -/
  | remoteReply (c : Nat)
  /-- R227. An Anvil layer-pass granted by the slew limiter runs and accumulates into tiles. -/
  | layerPass (c : Nat)
  /-- R216. The Anvil becomes free once a releasing mshape and older matrix words complete. -/
  | anvilFree (c : Nat)
  /-- R229. A layer's temperature report skips or readmits it for later words. -/
  | layerTempReport (c layer t : Nat)
  /-- R269. At each step boundary the slew limiter lowers its level and grants pending layer-pass starts. -/
  | slewStep (cl : Nat)
  /-- R240. The copy sequencer performs one run of an accepted copy. -/
  | copyRun (c i : Nat)
  /-- R353. An indirect-stream engine performs one gather record. -/
  | gatherRecord (g : Nat)
  /-- R308. The Drift engine copies one line of a moving tile to its destination. -/
  | driftCopyLine (tw n : Nat)
  /-- R309. The move switches: DEPOCH advances, the mark is installed and the destination leaves arrival state. -/
  | switch (tw n : Nat)
  /-- R312. Compression completes, the move reaches phase 3 and its counter is decremented. -/
  | chainCompression (tw n : Nat)
  /-- R366. A free hart takes the best eligible UNSTARTED or READY task. -/
  | taskDispatch (h : Nat)
  /-- R368. The scheduler stops a task for a higher or aged equal priority task. -/
  | preemption (h : Nat)
  /-- R368. A ready task's AGEW expires, making it eligible to pre-empt an equal. -/
  | ageWindowExpiry (tid : Nat)
  /-- R369. A wait passes SPIN cycles; the task stops, is saved and is parked on its wake condition. -/
  | spinBudgetExpiry (h : Nat)
  /-- R369. A parked task's wake condition holds and it becomes READY. -/
  | wake (tid : Nat)
  /-- R374. A fetch at address 0 ends the task after drains, releasing its Anvil, strip, latches and resources. -/
  | taskEnd (h : Nat)
  /-- R375. Once all tasks, requests, instances and records are done, the launch ends with a release at system scope. -/
  | launchEnd (lno : Nat)
  /-- R383. A graph node launches when its predecessors have ended and an LNO is free. -/
  | graphNodeLaunch (gid gen node : Nat)
  /-- R393. A tower combiner slice forwards its partial to the device combiner. -/
  | soundingSliceForward (tw lno : Nat)
  /-- R393. The device combiner merges a partial, reduces X and runs the interval test. -/
  | soundingMerge (lno : Nat)
  /-- R427. Boot ROM digests and accepts the flash image, then runs it or the recovery loader. -/
  | packageReset
  /-- R407. Self-test of a tower completes, admitting placement or sending the tower OFFLINE. -/
  | selfTest (tw : Nat) (pass : Bool) (faulty : List (Nat × Nat))
  /-- R430. Power is lost, leaving STAGED = 0 if a flash write was in progress. -/
  | powerLoss
  /-- R419. Writes a package report taken at one cut. -/
  | summary
  /-- R417. Returns health records from a sequence number. -/
  | logread
  /-- R417. Reads a Barometer-reached register. -/
  | regr
  /-- R417. Writes a Barometer-reached register without behaviour of its own. -/
  | regw
  /-- R402. Writes the thermal limits, refused with BADARG if misordered. -/
  | thcfgWrite (v : BitVec 64)
  /-- R341. Writes a prime-zone register, refused on overlap or overrun. -/
  | primeZoneWrite (ceiling : Bool) (tw n : Nat) (v : BitVec 64)
  /-- R417. Sets the frame pool, refused with STATE while any task is live. -/
  | fpoolWrite (v : BitVec 64)
  /-- R477. Sets how many chunk engines take operations, at each engine's next chunk boundary. -/
  | jscfgWrite (v : BitVec 64)
  /-- R415. Moves an ONLINE tower to SERVICE by pre-empting and migrating its tasks. -/
  | service
  /-- R415. Returns a tower in SERVICE to ONLINE. -/
  | resume
  /-- R417. Pre-empts a task and copies its frame to the response buffer. -/
  | tdump
  /-- R417. Attaches or detaches a Contrail debugger to harts. -/
  | dbgset
  /-- R417. Resumes harts held in a Contrail stop. -/
  | dbggo
  /-- R417. Returns halted harts to service. -/
  | harton
  /-- R430. Checks an image in host memory and writes it to flash. -/
  | fwstage
  /-- R431. Applies the staged image to the masked towers one at a time. -/
  | fwapply
  /-- R431. One tower is serviced, loaded, self-tested and resumed during an apply. -/
  | firmwareTowerApply (tw : Nat) (pass : Bool)
  /-- R444. Makes the network engine take the edited peer and endpoint tables. -/
  | netsync
  /-- R457. Accepts communicator entries, restarting changed ones' rings. -/
  | commsync
  /-- R377. A write of LQTAIL announces entries, clearing EN on overrun. -/
  | doorbell (q : Nat) (v : BitVec 64)
  /-- R379. A queue entry admits a launch record and answers ADMIT. -/
  | launch (q : Nat)
  /-- R382. A queue entry checks and copies a graph descriptor into a slot. -/
  | gdef (q : Nat)
  /-- R383. A queue entry replaces a slot's descriptor when no instance is live. -/
  | gedit (q : Nat)
  /-- R383. A queue entry starts a new graph instance. -/
  | grun (q : Nat)
  /-- R382. A queue entry empties a graph slot. -/
  | gfree (q : Nat)
  /-- R379. A queue entry stops every task of a live launch and ends it. -/
  | kill (q : Nat)
  /-- R6. A write to a register with no row of its own, under its access codes. -/
  | registerWrite (off : Nat) (v : BitVec 64)
  /-- R422. A host read or write over CXL.mem reaches HBM at its home. -/
  | hostMemAccess (write : Bool) (o len : Nat) (data : List (BitVec 8))
  /-- R423. A host snoop is answered by the I/O-die CXL.cache. -/
  | hostSnoop (line : Nat) (data : List (BitVec 8))
  /-- R351. An ATS Invalidate Request completes once accesses using the translation are performed. -/
  | atsInvalidate (page : Nat)
  /-- R349. A Page Request Message is sent once a pending-table slot is free. -/
  | pageRequest
  /-- R350. A Success response makes every waiting walk run again. -/
  | prgSuccess (slot : Nat)
  /-- R350. An Invalid Request response terminates every waiter with PGFAIL. -/
  | prgInvalidRequest (slot : Nat)
  /-- R350. A Response Failure fails the waiters and disables page requests. -/
  | prgResponseFailure (slot : Nat)
  /-- R433. SPDM GET_VERSION request. -/
  | getVersion
  /-- R433. SPDM GET_CAPABILITIES request. -/
  | getCapabilities (flags : Nat)
  /-- R433. SPDM NEGOTIATE_ALGORITHMS request. -/
  | negotiateAlgorithms (offer : Nat)
  /-- R433. SPDM GET_DIGESTS request. -/
  | getDigests
  /-- R433. SPDM GET_CERTIFICATE request for slot 0 or 1. -/
  | getCertificate (slot off len : Nat)
  /-- R433. SPDM CHALLENGE request. -/
  | challenge (slot nonce : Nat)
  /-- R434. SPDM GET_MEASUREMENTS returns signed measurement digests. -/
  | getMeasurements (slot index nonce : Nat)
  /-- R433. SPDM KEY_EXCHANGE request. -/
  | keyExchange (slot key : Nat)
  /-- R433. SPDM FINISH request. -/
  | finish (mac : Nat)
  /-- R433. SPDM END_SESSION request. -/
  | endSession
  /-- R435. Installs a MACsec key on an Ethernet port inside a session. -/
  | keyset (port an sak ssci salt : Nat)
  /-- R401. A periodic thermal reading is compared against the limits. -/
  | sensorReading (sensor : Sensor) (t : Nat)
  /-- R404. Once contexts are saved, barrier state moves to the router, compute power goes off and tasks migrate. -/
  | shelterPowerOff (tw : Nat)
  /-- R405. A shelter not at step 5 within 5 ms is handled as a trip. -/
  | shelterBoundExpiry (tw : Nat)
  /-- R407. After SDWELL below the exit limit, the tower powers up and self-tests. -/
  | shelterReturn (tw : Nat) (pass : Bool)
  /-- R408. A compute-domain watchdog expires. -/
  | watchdogExpiry (tw : Nat)
  /-- R411. A pipeline parity error is replayed, becoming a logic fault if replays fail. -/
  | parityError (unit : Pipeline) (replaysFail : Bool)
  /-- R409. A memory-domain loss stops everything, logs, signals AER and resets the package. -/
  | fatalFault (tw : Nat)
  /-- R411. A storage soft error is corrected or becomes uncorrectable or poison. -/
  | eccError (site : Storage) (corrected : Bool)
  /-- R411. The daily patrol scrub corrects and writes back memory lines. -/
  | patrolScrub (line : Nat)
  /-- R413. Every 2^SPER cycles a hart writes a trace sample record. -/
  | contrailSample (h : Nat)
  /-- R267. Every 1 µs the loop reads the least margin and trims VCODE. -/
  | dewpointSample (cl mm : Nat)
  /-- R263. After GIDLE idle cycles a core begins gate entry. -/
  | coreGate (c : Nat)
  /-- R264. Gate entry finishes after 256 cycles and the core or cluster gates. -/
  | gateEntryComplete (unit : GateUnit)
  /-- R264. A gated unit woken by a message finishes its 2 µs wake and serves held messages. -/
  | wakeComplete (unit : GateUnit)
  /-- R266. A lane-group LDO settles 1 µs after an NTMASK change and serves elements again. -/
  | ldoSettle (c g : Nat)
  /-- R439. A Benlar flit arrives, is CRC-checked and acknowledged or replayed. -/
  | benlarFlit (port : Nat) (flit : List (BitVec 8))
  /-- R439. A link failing three retrains leaves every route mask. -/
  | benlarLinkLoss (port : Nat)
  /-- R441. An Ethernet frame is received through LLR and MACsec checks. -/
  | ethernetFrame (port key pn : Nat) (frame : List (BitVec 8)) (pkt : FrameBody)
  /-- R451. The network engine sends the next packet of a work request. -/
  | packetSend
  /-- R443. A transport packet is placed at the target or dropped as a duplicate. -/
  | transportPacket (pkt : Packet)
  /-- R443. A selective acknowledgement arrives, completing or triggering retransmission. -/
  | sack (peer : Nat) (rod : Bool) (base bitmap : Nat) (nak : Option (Nat × Nat))
  /-- R443. A packet's retransmission timeout expires and it is resent. -/
  | retransmissionTimeout (peer : Nat) (rod : Bool) (psn : Nat)
  /-- R443. A silent peer fails every outstanding request with TIMEOUT. -/
  | peerTimeout (peer : Nat)
  /-- R454. A negatively acknowledged packet is resent every 100 µs. -/
  | nakRetransmit (peer : Nat) (rod : Bool) (psn : Nat)
  /-- R468. A free chunk engine takes the next startable operation. -/
  | chunkStart
  /-- R463. A chunk operation completes, freeing slots and successors. -/
  | chunkEnd (e : Nat)
  /-- R458. A flagged chunk line arrives and is written into its channel slot. -/
  | chunkLine (comm peer lane chunk line : Nat) (data : List (BitVec 8))
  /-- R460. A credit arrives, freeing a slot for the sender. -/
  | credit (comm peer lane chunk : Nat)
  /-- R467. A base-die adder performs one RRED line. -/
  | adderLine (e : Nat)
  /-- R469. A tagged reduce-store arrives and is accepted or dropped by its tag. -/
  | rstrArrive (comm peer lane chunk tag off fmt : Nat) (half : Bool) (scale : Nat) (data : List (BitVec 8))
  /-- R470. An operation unstartable for 10 s fails its instance with TIMEOUT. -/
  | jetstreamTimeout (gid run op : Nat)
  /-- R89. The hart issues a word that is an unassigned or malformed pattern and raises ILL with EVAL holding the word. -/
  | notAnInstruction (w : BitVec 32)
  /-- R120. A fetch at PC cannot be served and raises SACC or goes to page wait before any word is known. -/
  | instructionFetchFault (h : Nat)
  /-- R416. A write of BMCMD with an unassigned command code completes with status BADCMD. -/
  | badcmd (code : Nat)
  /-- R378. A launch-queue entry with an unassigned KIND is answered BADREC and the queue moves on. -/
  | badrecEntry (q : Nat)
  deriving DecidableEq, Repr

end Sys2Proof
end

