-- ==== Sys2Proof/Config.lean ====
section
/-! DEFINITION. What the spec leaves open and every run may find different: free values.  Each is an opaque constant, so no
proof can see a value of it; a function of `n` is applied to `State.fresh`, a counter that the model advances at each draw. -/

namespace Sys2Proof.Config

/-- Arithmetic-clock cycles that pass with one step (rates are not modelled; log 6). -/
opaque cycles : Nat → Nat

/-- Timebase ticks (1 ns, R138) that pass with one step (log 6). -/
opaque ticks : Nat → Nat

/-- Whether two accesses that program order does not keep apart are performed the other way round (R277, R331; log 126). -/
opaque reorder : Nat → Bool

/-- Which of several harts that can issue issues next, of those that R192 leaves open (log 7). -/
opaque pick : Nat → Nat

/-- A choice among n alternatives that the spec leaves to the device (which LNO, which victim, which order). -/
opaque choice : Nat → Nat

/-- How many elements, less one and up to the size of a group, one CONVOY_COMMIT commits (R194, R39; log 13). -/
opaque groupLength : Nat → Nat

/-- Bank conflicts that an element group meets (R208; log 100). -/
opaque conflicts : Nat → Nat

/-- A byte the spec leaves undefined: the destination of an aborted move (R308; log 28). -/
opaque freeByte : Nat → Byte

/-- The bytes of a vector register that lost its power (R404, R408; log 2). -/
opaque freeRegister : Nat → Nat

/-- A yes or no that the spec leaves to the device (logs 9, 28, 29, 30, 31). -/
opaque freeBool : Nat → Bool

/-- The result bits of a transcendental function that the enclosure of Machine/Transcend.lean does not decide: function code,
format code, rounding mode, random bits, operand bits (log 14). -/
opaque transcendental : Nat → Nat → Nat → Nat → Nat → Nat

/-- The flag events that go with `transcendental` (log 14). -/
opaque transcendentalEvents : Nat → Nat → Nat → Nat → Nat → Nat

/-- Whether a signature over a digest verifies under a fused key (R428; log 16): 2·slot + algorithm, digest, signature. -/
opaque signatureValid : Nat → List Byte → List Byte → Bool

/-- The image that the package comes with (log 16). -/
opaque shippedImage : List Byte

/-- The unique secret in the fuses (R432), and the bytes of boot ROM (R434; log 101). -/
opaque fusedSecret : List Byte
opaque bootRom : List Byte

/-- The private identity key, of Ed25519 (0) or ML-DSA-65 (1), that comes from the derived value (R432; log 101). -/
opaque identityKey : Nat → List Byte → List Byte

/-- The manufacturing certificate chain that certifies a slot's alias key, from the private key (R432, R433; log 101). -/
opaque certificateChain : Nat → List Byte → List Byte

/-- The signature of a slot's identity key over an SPDM transcript (R433; log 101). -/
opaque signature : Nat → List Byte → List Nat → List Byte

/-- The tower part (0), and the I/O-die and Barometer parts (1), of an image, whose places the spec does not give (R431, R434; log 16). -/
opaque imagePart : Nat → List Byte → List Byte

/-- Key identifiers in the fuses (R428): key slot, and 0 for Ed25519 or 1 for ML-DSA-65 (log 16). -/
opaque fusedKeyId : Nat → Nat → Nat

/-- Version of an image as DEVSTAT reports it (R425), whose place in the image the spec does not give (log 16). -/
opaque imageVersion : List Byte → Nat

/-- A row of SUMMARY whose fields the spec names and does not place (R419): offset of its table, then its fields (log 46). -/
opaque summaryRow : Nat → List Nat → Nat

/-- A replica-path monitor reads below EMERG between two samples of the Dewpoint loop, or in a gated core (R267; log 103): draw, cluster. -/
opaque monitorLow : Nat → Nat → Bool

/-- The content of an SPDM response that the spec does not lay out: request code, transcript (log 15). -/
opaque spdmBody : Nat → List Nat → Nat

/-- The CRC-64 of a flit, whose polynomial the spec does not give (R438; log 17). -/
opaque crc64 : List Byte → Nat

/-- Whether the link's own check of a frame passes (R442; log 17). -/
opaque checkOk : List Byte → Bool

/-- The transport headers of a message, given by its numbers, as they travel in the payload of a head flit (R439, R440; log 64). -/
opaque headBytes : List Nat → List Byte

/-- The message that the payload bytes from a package make up, once it is whole (R439, R440; log 64). -/
opaque messageOf : Nat → List Byte → Option Instr

/-- Flits that each virtual channel of a Benlar link may have on the way (R439; log 94). -/
opaque vcCredits : Nat

/-- Payload of a credit flit that returns credits, and the credits that such a payload returns (R439; log 94). -/
opaque creditBytes : Nat → List Byte
opaque creditsOf : List Byte → Nat

/-- The bytes of the frame in which a message, given by its numbers, leaves an Ethernet port (R440 to R442; log 17). -/
opaque frameBytes : List Nat → List Byte

/-- How far towards a new sample the smoothed round trip moves (R443), and the packets that congestion control lets fly after an
acknowledgement, by ECN and round trip (R440), neither of which the spec gives (log 121). -/
opaque smoothing : Nat → Nat
opaque congestion : Nat → Nat

/-- Decryption of a MACsec frame under a key (log 17). -/
opaque macsecOpen : Nat → List Byte → Option (List Byte)

end Sys2Proof.Config
end

