-- ==== Sys2Proof/Machine/Bits.lean ====
section
/-! DEFINITION. Bit fields, sign extension and byte order, once for the whole model.  Formats whose width varies with
VT.EW, memory addresses and record fields are held as natural numbers; a field [hi:lo] is written `bits n hi lo`. -/

namespace Sys2Proof.Machine

open Sys2Proof

/-- Bits [hi:lo] of n. -/
def bits (n hi lo : Nat) : Nat := n / 2 ^ lo % 2 ^ (hi + 1 - lo)

/-- Bit i of n. -/
def bit (n i : Nat) : Bool := n / 2 ^ i % 2 = 1

/-- n with bits [hi:lo] replaced by v (v taken modulo the field's size). -/
def setBits (n hi lo v : Nat) : Nat :=
  n - bits n hi lo * 2 ^ lo + v % 2 ^ (hi + 1 - lo) * 2 ^ lo

/-- The natural number of one bit. -/
def b2n (b : Bool) : Nat := if b then 1 else 0

/-- The low w bits of n as a two's complement integer. -/
def toS (w n : Nat) : Int :=
  let m := n % 2 ^ w
  if 2 * m < 2 ^ w then (m : Int) else (m : Int) - 2 ^ w

/-- An integer modulo 2^w. -/
def ofS (w : Nat) (z : Int) : Nat := (z % (2 ^ w : Int)).toNat

/-- The 64-bit word of a natural number, modulo 2^64. -/
def word (n : Nat) : Word := BitVec.ofNat 64 n

/-- The 64-bit word of an integer, modulo 2^64. -/
def wordS (z : Int) : Word := BitVec.ofInt 64 z

/-- Sign extension of the low w bits of n to 64 bits. -/
def sext (w n : Nat) : Word := wordS (toS w n)

/-- A signed field of an instruction word extended to 64 bits (R72). -/
def sx {w : Nat} (v : BitVec w) : Word := v.signExtend 64

/-- The k bytes of n, little-endian (R52, R71). -/
def toBytes : Nat → Nat → List Byte
  | 0, _ => []
  | k + 1, n => BitVec.ofNat 8 n :: toBytes k (n / 256)

/-- The number of a little-endian list of bytes. -/
def ofBytes : List Byte → Nat
  | [] => 0
  | b :: bs => b.toNat + 256 * ofBytes bs

/-- ⌈a / b⌉. -/
def cdiv (a b : Nat) : Nat := (a + b - 1) / b

/-- Number of set bits of n among its low k bits. -/
def popcount : Nat → Nat → Nat
  | 0, _ => 0
  | k + 1, n => n % 2 + popcount k (n / 2)

/-- The lowest index below k whose bit of n is set. -/
def lowestSet (k n : Nat) : Option Nat := (List.range k).find? (fun i => bit n i)

/-- floor of the base-2 logarithm, 0 for 0. -/
def log2 (n : Nat) : Nat := Nat.log2 n

/-- The least power of two that is at least n, and 1 for n ≤ 1 (R63). -/
def pow2Ceil (n : Nat) : Nat := if n ≤ 1 then 1 else 2 ^ (log2 (n - 1) + 1)

/-- Bytes [off, off + w) of a wide register read as one little-endian number. -/
def getAt (r off w : Nat) : Nat := r / 2 ^ (8 * off) % 2 ^ (8 * w)

/-- A wide register with bytes [off, off + w) replaced by the little-endian bytes of v. -/
def putAt (r off w v : Nat) : Nat := setBits r (8 * (off + w) - 1) (8 * off) v

end Sys2Proof.Machine
end

