-- ==== Sys2Proof/Machine/Hail.lean ====
section
/-! DEFINITION. The counter-based generator and the bits drawn from it (R10, R11, R68 to R70). -/

namespace Sys2Proof.Machine

/-- One round of Mix. -/
def mixRound (z : Word) : Word := (z ^^^ (z >>> 32)) * 0xB7E151628AED2A6B#64

/-- Mix (R10). -/
def mix (z : Word) : Word :=
  let z := mixRound (mixRound z)
  z ^^^ (z >>> 32)

/-- Hail (R11): stream · constant and ctr · constant wrap before the exclusive or. -/
def hail (key stream ctr : Word) : Word :=
  mix (key ^^^ (stream * 0x9E3779B97F4A7C15#64) ^^^ (ctr * 0xB7E151628AED2A6B#64))

/-- The 16 bits of an SR draw (R12): index i of sequence SRQ. -/
def srBits (key stream srq : Word) (i : Nat) : Nat :=
  (hail key stream (srq * (2 ^ 40 : Nat) + word i) >>> 48).toNat

/-- The Rademacher sign of plane k at direction index j (R68): true for -1. -/
def radNeg (key stream : Word) (k j : Nat) : Bool :=
  (hail key stream (word (k * 2 ^ 40 + j % 2 ^ 40))).msb

/-- A Bernoulli bit (R69). -/
def bern (key stream : Word) (p24 : Nat) (c : Word) : Bool :=
  decide ((hail key stream c >>> 40).toNat < p24)

end Sys2Proof.Machine
end

