-- ==== Sys2Proof/Machine/Fp.lean ====
section
/-! DEFINITION. Numbers, Round and the exact arithmetic under it (R12, R50 to R61, 02_numbers.md).  An operand is decoded to an exact
value, the operation is exact, and one rounding follows. -/

namespace Sys2Proof.Machine

/-- An exact value: a NaN (signalling or quiet), a signed infinity, or a signed ratio n/d of naturals, d > 0 (n = 0 is a
signed zero). -/
inductive Num
  | nan (signalling : Bool)
  | inf (neg : Bool)
  | fin (neg : Bool) (n d : Nat)
  deriving DecidableEq, Repr

/-- The event classes of R30 as the bits of FV and FT. -/
abbrev Ev := Nat

/-- Invalid operation. -/
def evNV : Ev := 1
/-- Division by zero. -/
def evDZ : Ev := 2
/-- Overflow. -/
def evOF : Ev := 4
/-- Underflow. -/
def evUF : Ev := 8
/-- Inexact. -/
def evNX : Ev := 16
/-- A result saturated. -/
def evSAT : Ev := 32

/-- The event if the condition holds. -/
def evIf (c : Bool) (e : Ev) : Ev := if c then e else 0

/-- Rounding modes (R12, VT.RM of R27). -/
inductive Rm
  | rne | rtz | rdn | rup | sr
  deriving DecidableEq, Repr

/-- VT.RM codes (R27); codes above 4 are never held. -/
def Rm.ofCode : Nat → Rm
  | 0 => .rne
  | 1 => .rtz
  | 2 => .rdn
  | 3 => .rup
  | _ => .sr

/-- A floating-point format (R50): width, mantissa bits, bias; `ocp` marks E4M3, which has no infinity and one NaN code a
sign; `fp8` marks the two 8-bit formats, whose overflow follows VT.SAT (R57). -/
structure Fmt where
  width : Nat
  man : Nat
  bias : Nat
  ocp : Bool
  fp8 : Bool
  deriving DecidableEq, Repr

/-- IEEE binary32. -/
def fp32 : Fmt := { width := 32, man := 23, bias := 127, ocp := false, fp8 := false }
/-- IEEE binary16. -/
def fp16 : Fmt := { width := 16, man := 10, bias := 15, ocp := false, fp8 := false }
/-- BF16. -/
def bf16 : Fmt := { width := 16, man := 7, bias := 127, ocp := false, fp8 := false }
/-- OCP E4M3. -/
def e4m3 : Fmt := { width := 8, man := 3, bias := 7, ocp := true, fp8 := true }
/-- OCP E5M2. -/
def e5m2 : Fmt := { width := 8, man := 2, bias := 15, ocp := false, fp8 := true }
/-- IEEE binary64, used by Sounding (R386) and its moments only. -/
def fp64 : Fmt := { width := 64, man := 52, bias := 1023, ocp := false, fp8 := false }

/-- All ones of the exponent field. -/
def Fmt.emaxField (f : Fmt) : Nat := 2 ^ (f.width - 1 - f.man) - 1

/-- The exponent of the least significant bit of the subnormal range: 1 - bias - m (R58). -/
def Fmt.qmin (f : Fmt) : Int := 1 - (f.bias : Int) - f.man

/-- The code of the sign bit. -/
def Fmt.signBit (f : Fmt) (neg : Bool) : Nat := if neg then 2 ^ (f.width - 1) else 0

/-- The canonical NaN (R51). -/
def Fmt.qnan (f : Fmt) : Nat :=
  if f.ocp then 0x7F else f.emaxField * 2 ^ f.man + 2 ^ (f.man - 1)

/-- The code of an infinity (formats that have one). -/
def Fmt.infCode (f : Fmt) (neg : Bool) : Nat := f.signBit neg + f.emaxField * 2 ^ f.man

/-- The code of the largest finite value, without its sign (R50). -/
def Fmt.maxCode (f : Fmt) : Nat := if f.ocp then 0x7E else f.emaxField * 2 ^ f.man - 1

/-- The largest finite value of a sign. -/
def Fmt.maxFinite (f : Fmt) (neg : Bool) : Nat := f.signBit neg + f.maxCode

/-- m · 2^e as a ratio. -/
def pow2Ratio (m : Nat) (e : Int) : Nat × Nat :=
  if 0 ≤ e then (m * 2 ^ e.toNat, 1) else (m, 2 ^ (-e).toNat)

/-- The exact value of a code (R50, R51). -/
def Fmt.decode (f : Fmt) (c : Nat) : Num :=
  let neg := bit c (f.width - 1)
  let e := bits c (f.width - 2) f.man
  let m := c % 2 ^ f.man
  if f.ocp && e == f.emaxField && m == 7 then .nan false
  else if !f.ocp && e == f.emaxField then
    if m == 0 then .inf neg else .nan (m < 2 ^ (f.man - 1))
  else if e == 0 then
    let r := pow2Ratio m f.qmin
    .fin neg r.1 r.2
  else
    let r := pow2Ratio (2 ^ f.man + m) (f.qmin + (e : Int) - 1)
    .fin neg r.1 r.2

/-- The value is a signalling NaN. -/
def Num.isSNaN : Num → Bool
  | .nan s => s
  | _ => false

/-- The value is a NaN. -/
def Num.isNaN : Num → Bool
  | .nan _ => true
  | _ => false

/-- The sign of a value that is no NaN. -/
def Num.neg : Num → Bool
  | .nan _ => false
  | .inf s => s
  | .fin s _ _ => s

/-- The value is a zero. -/
def Num.isZero : Num → Bool
  | .fin _ 0 _ => true
  | _ => false

/-- The value is an infinity. -/
def Num.isInf : Num → Bool
  | .inf _ => true
  | _ => false

/-- The negated value. -/
def Num.negate : Num → Num
  | .nan s => .nan s
  | .inf s => .inf (!s)
  | .fin s n d => .fin (!s) n d

/-- floor(log2(n/d)) for n, d > 0. -/
def ilog2 (n d : Nat) : Int :=
  let e : Int := (log2 n : Int) - log2 d
  let below := if 0 ≤ e then n < d * 2 ^ e.toNat else n * 2 ^ (-e).toNat < d
  if below then e - 1 else e

/-- (n/d) / 2^q as numerator and denominator. -/
def scaleBy (n d : Nat) (q : Int) : Nat × Nat :=
  if 0 ≤ q then (n, d * 2 ^ q.toNat) else (n * 2 ^ (-q).toNat, d)

/-- The natural number that a rounding mode gives for n/d of a sign; r holds the 16 bits of SR (R12). -/
def roundNat (rm : Rm) (r : Nat) (neg : Bool) (n d : Nat) : Nat :=
  let fl := n / d
  let rem := n % d
  match rm with
  | .rtz => fl
  | .rdn => if neg && rem != 0 then fl + 1 else fl
  | .rup => if !neg && rem != 0 then fl + 1 else fl
  | .rne => if 2 * rem > d || (2 * rem == d && fl % 2 == 1) then fl + 1 else fl
  | .sr => (n * 65536 / d + r % 65536) / 65536

/-- a · 2^p > b · 2^q. -/
def gtPow (a : Nat) (p : Int) (b : Nat) (q : Int) : Bool :=
  if q ≤ p then a * 2 ^ (p - q).toNat > b else a > b * 2 ^ (q - p).toNat

/-- The overflow table of R57. -/
def overflowCode (f : Fmt) (sat : Bool) (rm : Rm) (neg : Bool) : Nat × Ev :=
  if f.fp8 && sat then (f.maxFinite neg, evOF ||| evNX ||| evSAT)
  else
    let toInf := match rm with
      | .rne | .sr => true
      | .rtz => false
      | .rdn => neg
      | .rup => !neg
    if f.ocp then
      match rm with
      | .rne | .sr => (f.qnan, evOF ||| evNX ||| evNV)
      | _ => (f.maxFinite neg, evOF ||| evNX)
    else if toInf then (f.infCode neg, evOF ||| evNX)
    else (f.maxFinite neg, evOF ||| evNX)

/-- Round a nonzero finite n/d of a sign (R12, R57 to R60). -/
def roundFinite (f : Fmt) (sat : Bool) (rm : Rm) (r : Nat) (neg : Bool) (n d : Nat) : Nat × Ev :=
  let e := ilog2 n d
  let qt := e - f.man                          -- LSB weight with unbounded exponent
  let st := scaleBy n d qt
  let t := roundNat rm r neg st.1 st.2
  let maxMan := if f.ocp then 14 else 2 ^ (f.man + 1) - 1
  let maxExp : Int := f.qmin + (f.maxCode / 2 ^ f.man : Nat) - 1
  if gtPow t qt maxMan maxExp then overflowCode f sat rm neg
  else
    let q := if qt < f.qmin then f.qmin else qt
    let sc := scaleBy n d q
    let c := roundNat rm r neg sc.1 sc.2
    let exact := c * sc.2 == sc.1
    let tiny := !(gtPow (2 * t + 1) (qt - 1) (2 ^ f.man) f.qmin)   -- |t| < 2^(qmin + m)
    let code := f.signBit neg + ((q - f.qmin).toNat * 2 ^ f.man + c)
    (code, evIf (!exact) evNX ||| evIf (tiny && !exact) evUF)

/-- Round an exact value into a format (R12, R57): a NaN gives the canonical NaN, an infinity stays or follows R57 in E4M3. -/
def roundNum (f : Fmt) (sat : Bool) (rm : Rm) (r : Nat) : Num → Nat × Ev
  | .nan _ => (f.qnan, 0)
  | .inf neg =>
    if f.ocp then (if sat then (f.maxFinite neg, evSAT) else (f.qnan, evNV))
    else (f.infCode neg, 0)
  | .fin neg 0 _ => (f.signBit neg, 0)
  | .fin neg (n + 1) d => roundFinite f sat rm r neg (n + 1) d

/-- NV if an operand is a signalling NaN (R51). -/
def snanEv (xs : List Num) : Ev := evIf (xs.any Num.isSNaN) evNV

/-- a + b, exact, with the events of the addition (R122, R148).  An exact zero sum is +0, and -0 under RDN; two zeros of one
sign keep it. -/
def addNum (rm : Rm) (a b : Num) : Num × Ev :=
  match a, b with
  | .nan _, _ | _, .nan _ => (.nan false, snanEv [a, b])
  | .inf s, .inf t => if s == t then (.inf s, 0) else (.nan false, evNV)
  | .inf s, _ => (.inf s, 0)
  | _, .inf t => (.inf t, 0)
  | .fin s n d, .fin t m e =>
    let z : Int := (if s then -((n * e : Nat) : Int) else ((n * e : Nat) : Int)) +
      (if t then -((m * d : Nat) : Int) else ((m * d : Nat) : Int))
    if z == 0 then
      let neg := if n == 0 && m == 0 && s == t then s else rm == .rdn
      (.fin neg 0 1, 0)
    else (.fin (decide (z < 0)) z.natAbs (d * e), 0)

/-- a · b, exact (R122, R148). -/
def mulNum (a b : Num) : Num × Ev :=
  match a, b with
  | .nan _, _ | _, .nan _ => (.nan false, snanEv [a, b])
  | .inf s, y => if y.isZero then (.nan false, evNV) else (.inf (s != y.neg), 0)
  | x, .inf t => if x.isZero then (.nan false, evNV) else (.inf (x.neg != t), 0)
  | .fin s n d, .fin t m e => (.fin (s != t) (n * m) (d * e), 0)

/-- a / b, exact (R122, R148). -/
def divNum (a b : Num) : Num × Ev :=
  match a, b with
  | .nan _, _ | _, .nan _ => (.nan false, snanEv [a, b])
  | .inf _, .inf _ => (.nan false, evNV)
  | .inf s, y => (.inf (s != y.neg), 0)
  | x, .inf t => (.fin (x.neg != t) 0 1, 0)
  | .fin s n d, .fin t m e =>
    if m == 0 then (if n == 0 then (.nan false, evNV) else (.inf (s != t), evDZ))
    else (.fin (s != t) (n * e) (d * m), 0)

/-- a · b + c, exact, rounded once by its user (R122, R149).  NV of 0 · ∞ is raised whatever c holds. -/
def fmaNum (rm : Rm) (a b c : Num) : Num × Ev :=
  let p := mulNum a b
  if p.2 != 0 && !(a.isNaN || b.isNaN) then (.nan false, p.2 ||| snanEv [c])
  else
    let s := addNum rm p.1 c
    (s.1, s.2 ||| snanEv [a, b, c])

/-- floor of the square root, bit by bit from bit k down. -/
def isqrtFrom : Nat → Nat → Nat → Nat
  | 0, n, acc => if (acc + 1) * (acc + 1) ≤ n then acc + 1 else acc
  | k + 1, n, acc =>
    let c := acc + 2 ^ (k + 1)
    isqrtFrom k n (if c * c ≤ n then c else acc)

/-- floor of the square root. -/
def isqrt (n : Nat) : Nat := isqrtFrom (log2 n / 2 + 1) n 0

/-- √(n/d) for n, d > 0 as a ratio that every rounding of a result of at most 100 bits decides like the root itself: exact
where the root is a multiple of the last place, else the odd half place above the floor. -/
def sqrtRatio (n d : Nat) : Nat × Nat :=
  let half : Int := ilog2 n d / 2
  let s := (120 - half).toNat          -- fractional binary places kept
  let t := n * 2 ^ (2 * s) / d
  let y := isqrt t
  if y * y * d == n * 2 ^ (2 * s) then (y, 2 ^ s) else (2 * y + 1, 2 ^ (s + 1))

/-- √a (R122, R150). -/
def sqrtNum : Num → Num × Ev
  | .nan s => (.nan false, evIf s evNV)
  | .inf false => (.inf false, 0)
  | .inf true => (.nan false, evNV)
  | .fin neg 0 _ => (.fin neg 0 1, 0)
  | .fin true (_ + 1) _ => (.nan false, evNV)
  | .fin false (n + 1) d =>
    let r := sqrtRatio (n + 1) d
    (.fin false r.1 r.2, 0)

/-- 1/√a (R150). -/
def rsqrtNum : Num → Num × Ev
  | .nan s => (.nan false, evIf s evNV)
  | .inf false => (.fin false 0 1, 0)
  | .inf true => (.nan false, evNV)
  | .fin neg 0 _ => (.inf neg, evDZ)
  | .fin true (_ + 1) _ => (.nan false, evNV)
  | .fin false (n + 1) d =>
    let r := sqrtRatio d (n + 1)
    (.fin false r.1 r.2, 0)

/-- The order of two values that are no NaN: a < b, with +0 = -0. -/
def ltNum (a b : Num) : Bool :=
  match a, b with
  | .nan _, _ | _, .nan _ => false
  | .inf s, .inf t => s && !t
  | .inf s, _ => s
  | _, .inf t => !t
  | .fin s n d, .fin t m e =>
    let x : Int := if s then -((n * e : Nat) : Int) else ((n * e : Nat) : Int)
    let y : Int := if t then -((m * d : Nat) : Int) else ((m * d : Nat) : Int)
    decide (x < y)

/-- Equality of values, with +0 = -0; false for a NaN. -/
def eqNum (a b : Num) : Bool := !a.isNaN && !b.isNaN && !ltNum a b && !ltNum b a

/-- The integer that a rounding mode gives for a finite value, with whether it is exact (R61, LSB weight 1). -/
def roundInt (rm : Rm) (r : Nat) (neg : Bool) (n d : Nat) : Int × Bool :=
  let m := roundNat rm r neg n d
  (if neg then -(m : Int) else m, m * d == n)

/-- Float to integer of width w, signed or natural (R61). -/
def toInteger (w : Nat) (signed sat : Bool) (rm : Rm) (r : Nat) (x : Num) : Nat × Ev :=
  let lo : Int := if signed then -(2 ^ (w - 1) : Int) else 0
  let hi : Int := if signed then 2 ^ (w - 1) - 1 else 2 ^ w - 1
  let bad := if signed then 2 ^ (w - 1) else 2 ^ w - 1
  let outside (neg : Bool) : Nat × Ev :=
    if sat then (ofS w (if neg then lo else hi), evSAT ||| evNX) else (bad, evNV)
  match x with
  | .nan s => if sat then (0, evNV ||| evSAT) else (bad, evIf s evNV ||| evNV)
  | .inf neg => outside neg
  | .fin neg n d =>
    let z := roundInt rm r neg n d
    if z.1 < lo || hi < z.1 then outside neg else (ofS w z.1, evIf (!z.2) evNX)

/-- An integer as an exact value. -/
def numOfInt (z : Int) : Num := .fin (decide (z < 0)) z.natAbs 1

/-- Multiply by 2^e exactly. -/
def scaleNum (x : Num) (e : Int) : Num :=
  match x with
  | .fin s n d => if 0 ≤ e then .fin s (n * 2 ^ e.toNat) d else .fin s n (d * 2 ^ (-e).toNat)
  | y => y

end Sys2Proof.Machine
end

