-- ==== Sys2Proof/Machine/Sha.lean ====
section
/-! DEFINITION. SHA-384, which R110, R427, R432, R433 and R434 name.  PRESUMED (log 16): the function is that of the standard FIPS 180-4,
whose text is no part of the spec. -/

namespace Sys2Proof.Machine

open Sys2Proof

/-- The n words of 64 bits of a number, the most significant first. -/
def splitWords : Nat → Nat → List Nat
  | 0, _ => []
  | n + 1, v => v / 2 ^ (64 * n) % 2 ^ 64 :: splitWords n v

/-- Round constants 0 to 9: the first 64 bits of the fractional parts of the cube roots of the primes, ten in one number. -/
def shaRow0 : Nat :=
  0x428a2f98d728ae227137449123ef65cdb5c0fbcfec4d3b2fe9b5dba58189dbbc3956c25bf348b53859f111f1b605d019923f82a4af194f9bab1c5ed5da6d8118d807aa98a303024212835b0145706fbe

/-- Round constants 10 to 19: the first 64 bits of the fractional parts of the cube roots of the primes, ten in one number. -/
def shaRow1 : Nat :=
  0x243185be4ee4b28c550c7dc3d5ffb4e272be5d74f27b896f80deb1fe3b1696b19bdc06a725c71235c19bf174cf692694e49b69c19ef14ad2efbe4786384f25e30fc19dc68b8cd5b5240ca1cc77ac9c65

/-- Round constants 20 to 29: the first 64 bits of the fractional parts of the cube roots of the primes, ten in one number. -/
def shaRow2 : Nat :=
  0x2de92c6f592b02754a7484aa6ea6e4835cb0a9dcbd41fbd476f988da831153b5983e5152ee66dfaba831c66d2db43210b00327c898fb213fbf597fc7beef0ee4c6e00bf33da88fc2d5a79147930aa725

/-- Round constants 30 to 39: the first 64 bits of the fractional parts of the cube roots of the primes, ten in one number. -/
def shaRow3 : Nat :=
  0x06ca6351e003826f142929670a0e6e7027b70a8546d22ffc2e1b21385c26c9264d2c6dfc5ac42aed53380d139d95b3df650a73548baf63de766a0abb3c77b2a881c2c92e47edaee692722c851482353b

/-- Round constants 40 to 49: the first 64 bits of the fractional parts of the cube roots of the primes, ten in one number. -/
def shaRow4 : Nat :=
  0xa2bfe8a14cf10364a81a664bbc423001c24b8b70d0f89791c76c51a30654be30d192e819d6ef5218d69906245565a910f40e35855771202a106aa07032bbd1b819a4c116b8d2d0c81e376c085141ab53

/-- Round constants 50 to 59: the first 64 bits of the fractional parts of the cube roots of the primes, ten in one number. -/
def shaRow5 : Nat :=
  0x2748774cdf8eeb9934b0bcb5e19b48a8391c0cb3c5c95a634ed8aa4ae3418acb5b9cca4f7763e373682e6ff3d6b2b8a3748f82ee5defb2fc78a5636f43172f6084c87814a1f0ab728cc702081a6439ec

/-- Round constants 60 to 69: the first 64 bits of the fractional parts of the cube roots of the primes, ten in one number. -/
def shaRow6 : Nat :=
  0x90befffa23631e28a4506cebde82bde9bef9a3f7b2c67915c67178f2e372532bca273eceea26619cd186b8c721c0c207eada7dd6cde0eb1ef57d4f7fee6ed17806f067aa72176fba0a637dc5a2c898a6

/-- Round constants 70 to 79: the first 64 bits of the fractional parts of the cube roots of the primes, ten in one number. -/
def shaRow7 : Nat :=
  0x113f9804bef90dae1b710b35131c471b28db77f523047d8432caab7b40c724933c9ebe0a15c9bebc431d67c49c100d4c4cc5d4becb3e42b6597f299cfc657e2a5fcb6fab3ad6faec6c44198c4a475817

/-- The 80 round constants, ten to a number. -/
def shaK : List Nat :=
  [shaRow0, shaRow1, shaRow2, shaRow3, shaRow4, shaRow5, shaRow6, shaRow7].flatMap (splitWords 10)

/-- The initial hash value of SHA-384: the first 64 bits of the fractional parts of the square roots of the ninth to sixteenth primes. -/
def sha384Init : List Nat :=
  splitWords 8
    0xcbbb9d5dc1059ed8629a292a367cd5079159015a3070dd17152fecd8f70e593967332667ffc00b318eb44a8768581511db0c2e0d64f98fa747b5481dbefa4fa4

/-- Sum of words of 64 bits. -/
def add64w (xs : List Nat) : Nat := xs.foldl (· + ·) 0 % 2 ^ 64

/-- Rotation of a 64-bit word to the right. -/
def rotr64 (n x : Nat) : Nat := (x / 2 ^ n + x * 2 ^ (64 - n)) % 2 ^ 64

/-- Bitwise sum of a word's rotations by the given amounts and its shift by k places; `shaMix` leaves the shift out. -/
def shaMix (ns : List Nat) (x : Nat) : Nat := ns.foldl (fun y n => y ^^^ rotr64 n x) 0
def shaMixShift (ns : List Nat) (k x : Nat) : Nat := shaMix ns x ^^^ x / 2 ^ k

/-- Working variables a to h. -/
structure ShaVars where
  a : Nat
  b : Nat
  c : Nat
  d : Nat
  e : Nat
  f : Nat
  g : Nat
  h : Nat
  deriving DecidableEq, Repr

/-- One round: round constant plus schedule word k. -/
def ShaVars.round (v : ShaVars) (k : Nat) : ShaVars :=
  let ch := (v.e &&& v.f) ^^^ ((v.e ^^^ (2 ^ 64 - 1)) &&& v.g)
  let maj := (v.a &&& v.b) ^^^ (v.a &&& v.c) ^^^ (v.b &&& v.c)
  let t := add64w [v.h, shaMix [14, 18, 41] v.e, ch, k]
  { a := add64w [t, shaMix [28, 34, 39] v.a, maj], b := v.a, c := v.b, d := v.c, e := add64w [v.d, t], f := v.e, g := v.f, h := v.g }

/-- Rounds over the constants that are left; `w` holds the next 16 words of the schedule. -/
def shaRounds : List Nat → List Nat → ShaVars → ShaVars
  | [], _, v => v
  | k :: ks, w, v =>
    let next := add64w [shaMixShift [19, 61] 6 (w.getD 14 0), w.getD 9 0, shaMixShift [1, 8] 7 (w.getD 1 0), w.headD 0]
    shaRounds ks (w.drop 1 ++ [next]) (v.round (k + w.headD 0))

/-- The number whose most significant byte comes first. -/
def ofBytesBE (b : List Byte) : Nat := b.foldl (fun n x => 256 * n + x.toNat) 0

/-- One block of 128 bytes. -/
def shaBlock (h : List Nat) (b : List Byte) : List Nat :=
  let g (n : Nat) : Nat := h.getD n 0
  let w := (List.range 16).map (fun k => ofBytesBE ((b.drop (8 * k)).take 8))
  let v := shaRounds shaK w { a := g 0, b := g 1, c := g 2, d := g 3, e := g 4, f := g 5, g := g 6, h := g 7 }
  [add64w [g 0, v.a], add64w [g 1, v.b], add64w [g 2, v.c], add64w [g 3, v.d], add64w [g 4, v.e], add64w [g 5, v.f], add64w [g 6, v.g],
    add64w [g 7, v.h]]

/-- n bytes of a number, the most significant first. -/
def toBytesBE (n v : Nat) : List Byte := (toBytes n v).reverse

/-- The padded message. -/
def shaPad (b : List Byte) : List Byte :=
  b ++ [0x80] ++ List.replicate ((239 - b.length % 128) % 128) 0 ++ toBytesBE 16 (8 * b.length)

/-- The first n blocks of a message. -/
def shaBlocks : Nat → List Byte → List Nat → List Nat
  | 0, _, h => h
  | n + 1, b, h => shaBlocks n (b.drop 128) (shaBlock h (b.take 128))

/-- The hash state after a message. -/
def shaState (init : List Nat) (b : List Byte) : List Nat := let m := shaPad b; shaBlocks (m.length / 128) m init

/-- SHA-384 of a message: 48 bytes. -/
def sha384 (b : List Byte) : List Byte := ((shaState sha384Init b).take 6).flatMap (toBytesBE 8)

end Sys2Proof.Machine
end

