-- ==== Sys2Proof/Machine/Image.lean ====
section
/-! DEFINITION. Firmware images: the .rlo header, its sections and notes, what their digest covers (R106, R107, R110, R427, R428).
DESIGN CHOICE (log 102): a section table, a section's contents or a note that runs past the end of the file is cut off there. -/

namespace Sys2Proof.Machine

open Sys2Proof

/-- n bytes at an offset of an image, as many as there are (log 102). -/
def fileAt (b : List Byte) (off n : Nat) : List Byte := (b.drop off).take n

/-- Section entries of an image (R106, R107); as many as the file holds (log 102). -/
def imageSections (b : List Byte) : List Nat :=
  let hd := ofBytes (fileAt b 0 64)
  (List.range (min (bits hd 223 192) b.length)).map (fun k => ofBytes (fileAt b (bits hd 191 128 + 48 * k) 48))

/-- Fields of a section entry (R107). -/
def secKind (e : Nat) : Nat := bits e 39 32
def secData (b : List Byte) (e : Nat) : List Byte :=
  if secKind e == 4 || (decide (5 ≤ secKind e) && decide (secKind e ≤ 7)) then [] else fileAt b (bits e 255 192) (bits e 191 128)

/-- Records of a NOTE section as (type, payload) (R110). -/
def noteRecords : Nat → List Byte → List (Nat × List Byte)
  | 0, _ => []
  | n + 1, b =>
    if b.length < 8 then []
    else
      let len := ofBytes (fileAt b 4 4)
      (ofBytes (b.take 4), fileAt b 8 len) :: noteRecords n (b.drop (8 + 8 * cdiv len 8))

/-- Records of an image. -/
def imageNotes (b : List Byte) : List (Nat × List Byte) :=
  ((imageSections b).filter (fun e => secKind e == 10)).flatMap (fun e => noteRecords (secData b e).length (secData b e))

/-- Payload bytes of a record type (R110). -/
def noteSize (type : Nat) : Nat :=
  match type with
  | 1 => 48 | 2 => 64 | 3 => 3309 | 4 => 32 | _ => 8

/-- The payload of the record of a type, if there is one.  DESIGN CHOICE (log 102): of several of types 1 to 4, the first in
section-table order. -/
def noteOf (b : List Byte) (type : Nat) : Option (List Byte) := ((imageNotes b).find? (fun r => r.1 == type)).map Prod.snd

/-- The records of types 1 to 5 keep R110: payloads of their sizes, and at most one of type 5. -/
def notesOk (b : List Byte) : Bool :=
  (imageNotes b).all (fun r => r.1 == 0 || decide (5 < r.1) || r.2.length == noteSize r.1) &&
  decide (((imageNotes b).filter (fun r => r.1 == 5)).length ≤ 1)

/-- What the digest covers (R110). -/
def digestInput (b : List Byte) : List Byte :=
  let hd := ofBytes (fileAt b 0 64)
  fileAt b 0 64 ++ fileAt b (bits hd 191 128) (48 * bits hd 223 192) ++
  ((imageSections b).filter (fun e => secKind e != 10)).flatMap (secData b) ++
  (match noteOf b 5 with
   | some p => toBytes 4 5 ++ toBytes 4 p.length ++ p
   | none => [])

/-- Security version (R428). -/
def imageSvn (b : List Byte) : Nat := match noteOf b 5 with | some p => ofBytes (p.take 8) | none => 0

/-- What Barometer flash may hold: the image the package came with, whose bytes are free (log 16), or one that FWSTAGE wrote. -/
inductive Image
  | shipped
  | loaded (b : List Byte)
  deriving DecidableEq, Repr

/-- Bytes of an image. -/
def Image.bytes : Image → List Byte
  | .shipped => Config.shippedImage
  | .loaded b => b

/-- Version and security version of an image (R425, R428). -/
def Image.version (i : Image) : Nat := Config.imageVersion i.bytes
def Image.svn (i : Image) : Nat := imageSvn i.bytes

end Sys2Proof.Machine
end

