-- ==== Sys2Proof/Machine/Table.lean ====
section
/-! DEFINITION. Finite tables as plain data: lists of (key, value) pairs with strictly rising keys.  `Tbl` holds register
files, queues of records and every other indexed structure; `Cells` is the one canonical form of memory, which lists no
byte equal to what an unlisted address reads as. -/

namespace Sys2Proof.Machine

open Sys2Proof

/-- A table with natural keys, kept in strictly rising order of key. -/
abbrev Tbl (α : Type) := List (Nat × α)

/-- The entry at key k, or the value d that an unlisted key holds. -/
def Tbl.get {α : Type} (d : α) : Tbl α → Nat → α
  | [], _ => d
  | (j, v) :: t, k => if j = k then v else Tbl.get d t k

/-- The entry at key k, if one is listed. -/
def Tbl.find {α : Type} : Tbl α → Nat → Option α
  | [], _ => none
  | (j, v) :: t, k => if j = k then some v else Tbl.find t k

/-- The table with the entry at key k replaced or inserted. -/
def Tbl.set {α : Type} : Tbl α → Nat → α → Tbl α
  | [], k, v => [(k, v)]
  | (j, u) :: t, k, v =>
    if k < j then (k, v) :: (j, u) :: t
    else if k = j then (k, v) :: t
    else (j, u) :: Tbl.set t k v

/-- The table without any entry at key k. -/
def Tbl.del {α : Type} : Tbl α → Nat → Tbl α
  | [], _ => []
  | (j, u) :: t, k => if j = k then Tbl.del t k else (j, u) :: Tbl.del t k

/-- The table with the value at key k changed by f (d where none is listed). -/
def Tbl.upd {α : Type} (d : α) (t : Tbl α) (k : Nat) (f : α → α) : Tbl α := Tbl.set t k (f (Tbl.get d t k))

/-- The keys of a table. -/
def Tbl.keys {α : Type} (t : Tbl α) : List Nat := t.map Prod.fst

/-- Keys rise strictly from above `lo`. -/
def Tbl.sortedFrom {α : Type} : Nat → Tbl α → Bool
  | _, [] => true
  | lo, (k, _) :: t => decide (lo ≤ k) && Tbl.sortedFrom (k + 1) t

/-- Memory: (address, byte) pairs, addresses strictly rising, no byte equal to 0.  An unlisted address reads as 0. -/
abbrev Memory := List Host.Cell

/-- What an unlisted address reads as.
DESIGN CHOICE (log 1): the spec gives no contents for memory after power-on. -/
def Memory.blank : Byte := 0

/-- One byte of memory. -/
def Memory.read : Memory → Nat → Byte
  | [], _ => Memory.blank
  | (j, v) :: t, a => if j = a then v else Memory.read t a

/-- A list of cells without the cell at the head address of a, canonical insertion of a byte. -/
def Memory.write : Memory → Nat → Byte → Memory
  | [], a, v => if v = Memory.blank then [] else [(a, v)]
  | (j, u) :: t, a, v =>
    if a < j then (if v = Memory.blank then (j, u) :: t else (a, v) :: (j, u) :: t)
    else if a = j then (if v = Memory.blank then t else (a, v) :: t)
    else (j, u) :: Memory.write t a v

/-- The canonical form: addresses at least `lo`, strictly rising, no blank byte. -/
def Memory.wfFrom : Nat → Memory → Bool
  | _, [] => true
  | lo, (a, v) :: t => decide (lo ≤ a) && decide (v ≠ Memory.blank) && Memory.wfFrom (a + 1) t

/-- Memory is in its canonical form. -/
def Memory.wf (m : Memory) : Bool := Memory.wfFrom 0 m

/-- k bytes from address a, little-endian. -/
def Memory.readN (m : Memory) (a : Nat) : Nat → Nat
  | 0 => 0
  | k + 1 => (m.read a).toNat + 256 * Memory.readN m (a + 1) k

/-- k little-endian bytes of n stored from address a. -/
def Memory.writeN (m : Memory) (a : Nat) : Nat → Nat → Memory
  | 0, _ => m
  | k + 1, n => Memory.writeN (m.write a (BitVec.ofNat 8 n)) (a + 1) k (n / 256)

/-- A list of bytes stored from address a. -/
def Memory.writeBytes (m : Memory) (a : Nat) : List Byte → Memory
  | [] => m
  | b :: bs => Memory.writeBytes (m.write a b) (a + 1) bs

end Sys2Proof.Machine
end

