-- ==== Sys2Proof/Machine/State.lean ====
section
/-! DEFINITION. The state of the package: everything the spec names, as plain data, and the machine right after reset.
Indices follow R417: hart = HARTID[10:0], core = tower·64 + cluster·8 + core, cluster = tower·8 + cluster.  A table lists the
entries that differ from their reset value; an unlisted entry reads as the reset value its accessor names. -/

namespace Sys2Proof.Machine

open Sys2Proof

/-- Why a step stops the machine.  The spec stops a task, a tower or the package, never the machine: every such event is a next
state, so no step of this model raises a fault. -/
inductive Fault
  /-- Raised by no one; kept so that the type is inhabited.  Safe. -/
  | none
  deriving DecidableEq, Repr

/-- Why a step has no meaning. -/
inductive Refusal
  /-- An instruction without a meaning yet, by its mnemonic.  Raised by `exec` only.  Safe. -/
  | notModelled (mnemonic : String)
  deriving DecidableEq, Repr

/-- One EIX register (R31). -/
structure Eix where
  seq : Nat
  valid : Bool
  live : Bool
  idx : Nat
  deriving DecidableEq, Repr

/-- A word in a vector queue: the word, its address (MODEL: the spec's dump holds none), its captured operands, its sequence
number and whether it has completed (R36, R40). -/
structure QEntry where
  word : Word32
  addr : Word
  opA : Word
  opB : Word
  capA : Bool
  capB : Bool
  seq : Nat
  done : Bool
  deriving DecidableEq, Repr

/-- The guard latch (R203): first touch and the saturating count of later ones. -/
structure GuardLatch where
  buf : Nat
  bank : Nat
  off : Nat
  more : Nat
  deriving DecidableEq, Repr

/-- The open strip (R209, R212). -/
structure Strip where
  pc : Nat
  cyc : Nat
  abusy : Nat
  mbusy : Nat
  first : Bool
  pre : Bool
  sat : Bool
  lost : Bool
  deriving DecidableEq, Repr

/-- The context of a task (R17): what a save writes and a restore reads. -/
structure Ctx where
  x : Tbl Word
  q : Tbl Nat
  h : Tbl Nat
  sf : Tbl Nat
  vt : Nat
  vl : Nat
  vs : Nat
  wb : Nat
  vbase : Nat
  vcount : Nat
  fv : Nat
  ft : Nat
  eixV : Tbl Eix
  eixT : Tbl Eix
  vseq : Nat
  key : Word
  strm : Word
  srq : Word
  pkey : Word
  ast : Word
  tvec : Word
  prio : Nat
  inh : Bool
  prv : Bool
  epc : Word
  ecp : Word
  evs : Word
  ecause : Word
  evalr : Word
  enqN : Nat
  enqSeq0 : Nat
  frm : Nat
  tdsel : Nat
  pc : Word
  tepoch : Nat
  guard : Option GuardLatch
  copyFault : Option Word
  bovf : Option Nat
  strip : Strip
  cnt : Nat
  mean : Nat
  m2 : Nat
  out : Nat
  sw : Tbl Word
  cp : Tbl Nat
  deriving DecidableEq, Repr

/-- What a hart waits for at its next word; MODEL, decides which unit steps next while it waits. -/
inductive WaitFor
  | none
  | queue                                    -- R26, R46, R132, R327: the vector queue to empty
  | older                                    -- R131, R138, R189, R235, R322, R447: older words of the hart
  | entry                                    -- R39, R49: a trap entry, for a matrix word or remote element under way
  | full                                     -- R36: a place in the vector queue
  | transfers                                -- R132, R245, R356: engine transfers of the hart
  | granule (core buf lno gran : Nat)        -- R178
  | landed                                   -- R186
  | barrier (cluster bar ph : Nat)           -- R254 (bar = lno·8 + number)
  | launch (lno gen : Nat)                   -- R381
  | graphRun (gid gen : Nat)                 -- R381, graph
  | counter (lno c : Nat) (bound : Word)     -- R449
  | run (gid run : Nat)                      -- R475
  | anvil                                    -- R216, R233
  | arrival (tile : Nat)                     -- R309
  | interlock                                -- R187, R244, R354
  | layers                                   -- R229
  | remote                                   -- R249
  | wake (cl : Nat)                          -- R264: a gated cluster to wake
  deriving DecidableEq, Repr

/-- Progress of a remote element (R249). -/
inductive RemoteState
  | idle
  | sent
  /-- Its last message waits on a full-empty bit at the owning bank (R178). -/
  | waiting
  | performed
  deriving DecidableEq, Repr

/-- One typed buffer allocation of a launch on a core (R202): its size in bytes, contents and full bits by granule. -/
structure Buf where
  size : Nat
  data : Memory
  full : Tbl Bool
  deriving DecidableEq, Repr

/-- A launch's allocations on one core (R202, R363). -/
structure Alloc where
  lno : Nat
  w : Buf
  a : Buf
  c : Buf
  deriving DecidableEq, Repr

/-- A cached leaf (R343). -/
structure TlbEntry where
  lno : Nat
  va : Nat
  size : Nat
  pa : Nat
  flags : Nat
  skew : Nat
  deriving DecidableEq, Repr

/-- Memory as the loads of a convoy in flight take it (R287; log 118): the homes at the instant at which its elements began, with what
its own hart has written since, and the allocations of the core whose buffers it reads. -/
structure Snap where
  mem : Memory
  core : Nat
  allocs : List Alloc
  deriving DecidableEq, Repr

/-- One hart: the task on it, that task's context, and what R17 does not save. -/
structure Hart where
  task : Option Nat
  ctx : Ctx
  queue : List QEntry
  /-- MODEL: the youngest convoy of the queue can still be joined (R75, R76). -/
  openConvoy : Bool
  /-- The gate has released the convoy at CP (R198). -/
  released : Bool
  /-- Order in which the convoy at CP became ready (R198). -/
  readyAt : Nat
  /-- Order in which its oldest run-ahead word became ready (R37, R198); 0 while it is not. -/
  aheadAt : Nat
  /-- The VS at which the convoy at CP began; decides KIND 2 matches and empty convoys (R214, R37). -/
  startVs : Nat
  /-- Numbers of the lane groups it holds, lowest first (R196). -/
  groups : List Nat
  /-- Target of the lane allocation table (R195). -/
  target : Nat
  halted : Bool
  dbg : Bool
  held : Option Nat
  /-- No comparator matches again until one word issues or one element commits (R214). -/
  noMatch : Bool
  resv : Option Nat
  remote : RemoteState
  /-- Guard touches of a remote element whose reply is on its way: buffer, bank, offset (R203). -/
  guardPending : List (Nat × Nat × Nat)
  /-- Addresses of the elements that an unordered store has performed since its convoy began (R173). -/
  unordered : List Nat
  /-- Lines that vector words and copies of the hart have read since its last vdrain (R276, R286). -/
  vlines : List Nat
  /-- What the loads of the convoy in flight read (R287); none before it begins. -/
  snap : Option Snap
  /-- Leaves that a release has found for stores still to be performed (R288, R345). -/
  pins : List TlbEntry
  /-- What the scalar front, and what the vector unit, waits for, and the cycles of that wait (R369). -/
  waiting : WaitFor
  spin : Nat
  vwait : WaitFor
  vspin : Nat
  startedAt : Nat
  /-- The cluster's cycle count at its last trace sample (R413). -/
  sampleCyc : Nat
  deriving DecidableEq, Repr

/-- One weight of a stationary plane (R222): logical position, storage index, physical slice 0–3 and exact value. -/
structure Weight where
  kk : Nat
  n : Nat
  e : Nat
  slice : Nat
  /-- The stored code, its scale exponent (0 where the format has none, none for the NaN scale), and the value the cells multiply. -/
  code : Nat
  scale : Option Int
  val : Num
  deriving DecidableEq, Repr

/-- A stationary plane and its record (R221). -/
structure Plane where
  fmt : Nat
  spn : Nat
  ps : Nat
  sx : Nat
  kg : Nat
  ng : Nat
  j0 : Nat
  weights : List Weight
  deriving DecidableEq, Repr

/-- The shape in force (R219, R220). -/
structure Shape where
  sx : Nat
  ps : Nat
  spn : Nat
  fmt : Nat
  org : Nat
  mg : Nat
  ng : Nat
  kg : Nat
  deriving DecidableEq, Repr

/-- An Anvil (R216, R217): owner task, the former owner whose Anvil is not free yet, tiles (FP32 codes, key
tile·4096 + row·64 + column), planes, active plane, number of mlds since acquisition, and shape. -/
structure Anvil where
  owner : Option Nat
  releasing : Option Nat
  tiles : Tbl Nat
  plane0 : Option Plane
  plane1 : Option Plane
  active : Nat
  loads : Nat
  shape : Shape
  /-- The releasing mshape of the former owner has completed, or the owner has ended (R216). -/
  relDone : Bool
  deriving DecidableEq, Repr

/-- A multiplying matrix word in progress (R227): its hart and sequence number, the layers available, out and hot at its start,
layer-passes run, layers used, whether its next pass waits for, or has, its slew grant (R269). -/
structure MatrixJob where
  hart : Nat
  seq : Nat
  avail : Nat
  out : Nat
  hot : Nat
  passes : Nat
  used : Nat
  granted : Bool
  pending : Bool
  /-- What the word has read of the A allocation, each granule once (R225): none before its first pass. -/
  acts : Option Memory
  deriving DecidableEq, Repr

/-- One end of a copy (R238): space 0 virtual, 1 to 3 buffers of a core, 4 a register group. -/
structure CopyEnd where
  rem : Bool
  core : Nat
  space : Nat
  base : Nat
  deriving DecidableEq, Repr

/-- An accepted copy (R241): the program it took, how far its runs have come, and its completion. -/
structure CopyJob where
  ident : Nat
  hart : Nat
  task : Nat
  lno : Nat
  sup : Bool
  src : CopyEnd
  dst : CopyEnd
  counts : List Nat
  sstr : List Int
  dstr : List Int
  run : Nat
  xp : Nat
  next : Nat
  dec : Bool
  cnt : Nat
  group : Nat
  nr : Nat
  held : Bool
  deriving DecidableEq, Repr

/-- A byte interval of one space (R187, R241): space 0 virtual, 1–3 buffers of a core, 4 physical registers. -/
structure Interval where
  space : Nat
  core : Nat
  lo : Nat
  hi : Nat
  write : Bool
  deriving DecidableEq, Repr

/-- An entry of the address-range interlock table (R187, R244): the hart, which transfer holds it, and its intervals. -/
structure Interlock where
  hart : Nat
  kind : Nat
  ident : Nat
  ivs : List Interval
  deriving DecidableEq, Repr

/-- Power-gate states (R263, R264). -/
inductive GateState
  | running
  | entering
  | gated
  | waking
  deriving DecidableEq, Repr

/-- One core (R192 to R214). -/
structure Core where
  vf : Tbl Nat
  unlanded : Tbl Bool
  allocs : List Alloc
  gustLevel : Nat
  gustCfg : Nat
  ctr : Tbl Nat
  cbp : Tbl Nat
  cbx : Tbl Nat
  ntcfg : Nat
  settling : List Nat
  anvil : Anvil
  outLayers : Nat
  /-- Layers skipped for heat, and layers whose last reading is at or above their limit (R229, R233). -/
  hotLayers : Nat
  overLayers : Nat
  job : Option MatrixJob
  copies : List CopyJob
  interlock : List Interlock
  /-- The hart last selected (R192). -/
  lastHart : Nat
  gate : GateState
  /-- Cycles for which the core's gate conditions have held (R263, GIDLE). -/
  idle : Nat
  /-- Remote requests delivered to this core, by issuing hart, oldest first (R249). -/
  inbox : List Nat
  /-- Replies on their way to this core, by hart (R249). -/
  replies : List Nat
  readyClock : Nat
  /-- Lines that vector reads before a releasing vector atomic of one of its harts have read (R277, R286). -/
  relLines : List Nat
  deriving DecidableEq, Repr

/-- A barrier of a launch in a cluster (R251). -/
structure Barrier where
  ph : Nat
  cnt : Nat
  exp : Nat
  ov : Bool
  deriving DecidableEq, Repr

/-- A dependence counter that is held (R257, R259). -/
structure DepCounter where
  lno : Nat
  count : Nat
  record : Nat
  key : Word
  pkey : Word
  prio : Nat
  prv : Bool
  deriving DecidableEq, Repr

/-- One cluster (R248 to R271). -/
structure Cluster where
  bars : Tbl Barrier
  counters : Tbl DepCounter
  lost : List Nat
  pgcfg : Nat
  dpcfg : Nat
  vcode : Nat
  mm : Nat
  stretch : Nat
  emergency : Bool
  slrt : Nat
  slcfg : Nat
  lvl : Nat
  /-- Starts that wait for their grant, as (cycle of the request, core), in the order of R269. -/
  pending : List (Nat × Nat)
  /-- Filler layers, and the layers that have ended a pass and run none, as (cycle in which the pass ended, 4·core + layer), in the order in
  which filler is placed (R269). -/
  filler : List (Nat × Nat)
  passEnds : List (Nat × Nat)
  gate : GateState
  /-- Counter decrements held at the port of a gated cluster (R264), as (launch, counter), in arrival order. -/
  port : List (Nat × Nat)
  cyc : Nat
  deriving DecidableEq, Repr

/-- Tower states (R302); `mappedOut` is R410's. -/
inductive TowerState
  | online
  | shelter
  | service
  | offline
  | mappedOut
  deriving DecidableEq, Repr

/-- A move of the Drift engine (R308): tiles by physical number, destination tile address, owner by LNO and GEN, phase code, next line to
copy, writes to forward (physical address, byte), switch epoch, its completion counter and the launch whose task issued it. -/
structure Move where
  src : Nat
  dst : Nat
  srcVa : Nat
  dstVa : Nat
  lno : Nat
  gen : Nat
  phase : Nat
  line : Nat
  fwd : List (Nat × Byte)
  epoch : Nat
  dec : Bool
  cnt : Nat
  cluster : Nat
  issuer : Nat
  igen : Nat
  deriving DecidableEq, Repr

/-- A running Sounding partial of a tower slice (R393). -/
structure Partial where
  n : Nat
  mean : Nat
  m2 : Nat
  deriving DecidableEq, Repr

/-- One tower (R301 to R321). -/
structure Tower where
  st : TowerState
  /-- Steps of R404: 0 outside a shelter or service, 6 once the tower is empty, 1 or 2 (an apply of R431) while it is being emptied;
  and when step 1 took effect. -/
  step : Nat
  since : Nat
  /-- The compute domain is powered. -/
  powered : Bool
  testing : Bool
  moves : Tbl Move
  nextMove : Nat
  pzc : Tbl Nat
  slices : Tbl Partial
  /-- Partials in flight to the device combiner (R393). -/
  flight : Tbl Partial
  /-- Latest reading of each compute sensor, and whether the one before was at TEMG or above, by sensor code. -/
  temps : Tbl Nat
  hotOnce : List Nat
  emergency : Nat
  coolSince : Option Nat
  /-- The image whose tower part runs; none while the recovery loader runs. -/
  fw : Option Image
  deriving DecidableEq, Repr

/-- A mark record (R307): its owner is a launch by LNO and GEN, since an LNO may be reused before the mark goes (R318, R375). -/
structure MarkRec where
  lno : Nat
  gen : Nat
  epoch : Nat
  pend : Bool
  dest : Nat
  deriving DecidableEq, Repr

/-- The mark filter bits of one physical tile (R307) and whether it is in arrival state (R308). -/
structure TileMark where
  mark : Option MarkRec
  tomb : Bool
  arrival : Bool
  /-- MODEL: the virtual address under which the tile was moved away, by which an unmap finds it (R319; log 24), and the tower
  whose mark store, or whose stack's, holds the record (R307, R342). -/
  va : Nat
  home : Nat
  deriving DecidableEq, Repr

/-- A cached table entry of a walk (R343). -/
structure WalkEntry where
  lno : Nat
  level : Nat
  va : Nat
  pa : Nat
  deriving DecidableEq, Repr

/-- A line of a scalar L1 (R125, R276): physical line number, the bytes it was filled with, and whether an ordered vector store has
written to it at home since (R278, R287). -/
structure L1Line where
  line : Nat
  data : Nat
  behind : Bool
  deriving DecidableEq, Repr

/-- What translation caches hold (R343, R351) and the scalar L1s: kept on a stop, saved with no context. -/
structure Mmu where
  tlb1 : Tbl (List TlbEntry)
  tlb2 : Tbl (List TlbEntry)
  tlbBase : Tbl (List TlbEntry)
  walk2 : Tbl (List WalkEntry)
  walkBase : Tbl (List WalkEntry)
  l1 : Tbl (List L1Line)
  ats : List Nat
  deriving DecidableEq, Repr

/-- Wake condition of a parked task (R369). -/
abbrev Wake := WaitFor

/-- Scheduler states (R365). -/
inductive TaskState
  | ready
  | running
  | parked
  | pagewait
  | anvilwait
  | ended
  deriving DecidableEq, Repr

/-- What a named task was bound to at definition (R258, R261). -/
structure NamedDef where
  record : Nat
  key : Word
  pkey : Word
  prio : Nat
  prv : Bool
  deriving DecidableEq, Repr

/-- A task that a hart has taken at least once, or a named task that exists (R365).  Tasks of a launch that no hart has taken are
counted by the launch. -/
structure Task where
  lno : Nat
  t : Nat
  named : Option NamedDef
  st : TaskState
  since : Nat
  started : Bool
  frame : Option Nat
  home : Nat
  hart : Nat
  vcount : Nat
  tepoch : Nat
  wake : Wake
  /-- Core whose Anvil the task owns (R217). -/
  anvilCore : Option Nat
  /-- Anvil state written to the frame when its core left service (R217), with what R372 gives no bytes (log 48). -/
  anvilSaved : Option Anvil
  aged : Bool
  /-- MODEL: addresses of the dumped words and whether the youngest convoy was open. -/
  addrs : List Word
  openConvoy : Bool
  /-- MODEL: the same for the dump of the trap area. -/
  trapAddrs : List Word
  trapOpen : Bool
  /-- The unit, by domain and number, that its bindings now name after a migration (R364). -/
  moved : List (Nat × Nat)
  swDone : Bool
  deriving DecidableEq, Repr

/-- An error record waiting for its ring (R376). -/
abbrev ErrRec := Nat

/-- Status of a launch (R375, R381). -/
structure Launch where
  gen : Nat
  live : Bool
  rva : Nat
  record : Nat
  recPa : Option Nat
  ptroot : Nat
  pasen : Bool
  pasid : Nat
  prio : Nat
  comp : Nat
  vec : Nat
  /-- Host queue it came through, 0xFF for none, and the launch that admitted it, 0 for none (R419). -/
  queue : Nat
  parent : Nat
  admitted : Nat
  /-- Number of launched tasks, and the indices of those a hart has taken. -/
  total : Nat
  begun : List Nat
  ended : Nat
  errors : Nat
  killed : Bool
  /-- Units of placed instances: (level, instance number, unit) (R362). -/
  placed : List (Nat × Nat × Nat)
  /-- Records that wait for the ring (R376). -/
  errq : List ErrRec
  eqHeld : Bool
  ctrs : Tbl Word
  posted : Nat
  graphOf : Option (Nat × Nat × Nat)
  sndDone : Bool
  deriving DecidableEq, Repr

/-- Who waits on a page (R348, R350). -/
inductive Waiter
  | task (tid : Nat)
  | copy (core ident : Nat)
  | gather (ident : Nat)
  | jet (gid run : Nat)
  | net (lno seq : Nat)
  | netTarget (lno peer : Nat) (rod : Bool) (psn : Nat)
  | jetTarget (lno comm peer lane chunk : Nat)
  | errRing (lno : Nat)
  | block (lno t : Nat)
  | sounding (lno : Nat)
  deriving DecidableEq, Repr

/-- A page request (R349): launch, page number VA[55:16], or of an untranslated host address where ATS denied the access (R351), the
launch's PASID, permissions needed ([0] read, [1] write, [2] execute, [3] privileged), waiters with the virtual address each met, and
how many Success answers in a row left the page invalid. -/
structure PageReq where
  lno : Nat
  page : Nat
  host : Bool
  pasid : Nat
  need : Nat
  waiters : List (Waiter × Nat)
  tries : Nat
  deriving DecidableEq, Repr

/-- A slot of the pending table (R349, R350); a DEAD one keeps what its request asked for (R419). -/
structure PageSlot where
  gen : Nat
  dead : Bool
  req : Option PageReq
  deriving DecidableEq, Repr

/-- A host launch queue (R377). -/
structure LaunchQueue where
  base : Nat
  en : Bool
  logn : Nat
  head : Nat
  tail : Nat
  deriving DecidableEq, Repr

/-- A live instance of a launch graph (R383): generation, completion block and vector, the host queue that started it (0xFF for
none) or the launch, the LNO of each launched node, the nodes ended and their error count. -/
structure GraphRun where
  gen : Nat
  comp : Nat
  vec : Nat
  queue : Nat
  parent : Nat
  node : Tbl Nat
  ended : List Nat
  errors : Nat
  deriving DecidableEq, Repr

/-- A graph slot (R382): nodes as (record, RVA, PRED, record address), live instances and the ends of earlier ones. -/
structure GraphSlot where
  nodes : List (Nat × Nat × Nat × Nat)
  gen : Nat
  runs : List GraphRun
  ends : Tbl (Nat × Nat)
  deriving DecidableEq, Repr

/-- A Sounding context of the device combiner (R387). -/
structure Sounding where
  cc : Nat
  isSealed : Bool
  done : Bool
  s : Nat
  cause : Nat
  lost : Bool
  lostn : Nat
  nonfin : Bool
  n : Nat
  mean : Nat
  m2 : Nat
  x : Nat
  hw : Nat
  sealT : Nat
  doneT : Nat
  held : Bool
  deriving DecidableEq, Repr

/-- A gather that an indirect-stream engine runs (R352): the block, its issuer and the record next to perform. -/
structure Gather where
  ident : Nat
  hart : Nat
  task : Nat
  lno : Nat
  sup : Bool
  block : Nat
  seq : Nat
  lctr : Nat
  next : Nat
  held : Bool
  deriving DecidableEq, Repr

/-- A posted work request (R446, R448): launch, sequence, a number of its own under which it travels, the task that posted it and when,
its words, tower and privilege of the posting hart, peer entry as it stood, packets sent first, packets acknowledged (WRITE) or placed
(READ) by index, and whether it holds at a page (R454). -/
structure WorkReq where
  lno : Nat
  seq : Nat
  num : Nat
  task : Nat
  posted : Nat
  w : Nat
  tower : Nat
  sup : Bool
  peerE : Nat
  sent : Nat
  acked : Tbl Bool
  held : Bool
  deriving DecidableEq, Repr

/-- What leaves the package: a kind and its numbers (page requests, MSI-X vectors, packets, flits, SPDM responses, AER). -/
inductive OutKind
  | pageRequest
  | msix
  | packet
  | sack
  | llr
  | flit
  | chunkLine
  | credit
  | reduceStore
  | spdm
  | aer
  | snoopReply
  | memReply
  | atsComplete
  deriving DecidableEq, Repr

/-- One message that left the package. -/
structure Out where
  kind : OutKind
  data : List Nat
  deriving DecidableEq, Repr

/-- Whose a packet in flight is: packet `index` of a work request, a read response, or a collective instance and the address that it
reports where the message is refused. -/
inductive Origin
  | request (lno seq index : Nat)
  | response
  | run (gid run va : Nat)
  deriving DecidableEq, Repr

/-- How a message travels: its peer and the entry of the peer that it was posted under (R444), whether it sprays and its place in
the rotation (R439, R440), its traffic class or virtual channel (R438, R446), and its payload bytes. -/
structure Route where
  peer : Nat
  entry : Nat
  spray : Bool
  rot : Nat
  vc : Nat
  len : Nat
  deriving DecidableEq, Repr

/-- A packet in flight to a peer (R443): what it serves, whether it waits out a negative acknowledgement (R454), when it was sent
last, how it travels, and the message; `msg` ends with the payload bytes. -/
structure InFlight where
  psn : Nat
  origin : Origin
  nak : Bool
  sentAt : Nat
  route : Route
  msg : Out
  deriving DecidableEq, Repr

/-- A delivery context with a peer (R443): next PSN to send, packets in flight, when the peer last acknowledged, the rotation of
ports, the smoothed round trip (0 before the first) and how many packets congestion control lets fly (R440); the lowest PSN not yet
received, those received above it, and by arriving request the bytes placed and the endpoint entry that it started with (R444). -/
structure Delivery where
  nextPsn : Nat
  inFlight : List InFlight
  lastAck : Nat
  rot : Nat
  srtt : Nat
  window : Nat
  rxBase : Nat
  rxSeen : Tbl Bool
  rxPlaced : Tbl Nat
  rxEntry : Tbl Nat
  deriving DecidableEq, Repr

/-- A Benlar port (R439): whether the link is up, the last link sequence sent and the last received intact, the replay buffer of
flits by link sequence, oldest first, the credits used by virtual channel, the flits that wait here to be passed on, and the payload
of the messages that arrive, by source·16 + virtual channel. -/
structure BenlarPort where
  up : Bool
  txSeq : Nat
  rxSeq : Nat
  replay : List (Nat × List Byte)
  used : Tbl Nat
  transit : List (List Byte)
  parts : Tbl (List Byte)
  deriving DecidableEq, Repr

/-- A MACsec key (R435, R441). -/
structure MacKey where
  an : Nat
  sak : Nat
  ssci : Nat
  salt : Nat
  pn : Nat
  rxpn : Nat
  deriving DecidableEq, Repr

/-- An Ethernet port: installed keys, the one installed last first, and its statistics (R435, R441); by traffic class the time until
which flow control has paused it (R440); and link-layer retry (R442): the sequence of the last frame sent, where the next one goes in the
replay area, the frames that stand there as (sequence, bytes, message), oldest first, and the sequence of the last frame taken. -/
structure EthPort where
  keys : List MacKey
  dropped : Nat
  paused : Tbl Nat
  llrSeq : Nat
  llrPos : Nat
  llrKept : List (Nat × Nat × Out)
  llrRx : Nat
  deriving DecidableEq, Repr

/-- The engine's copy of one communicator entry and its state (R457 to R460, R469, R470); channels by rank·4 + lane. -/
structure Comm where
  entry : Nat
  fault : Bool
  /-- Next chunk number to assign outwards and inwards (R464). -/
  outNext : Tbl Nat
  inNext : Tbl Nat
  /-- Chunks sent; chunks of ours that the receiver has freed; chunks we have freed (R460, R476). -/
  sent : Tbl Nat
  credits : Tbl (List Nat)
  freed : Tbl (List Nat)
  /-- Highest accepted tag H and accepted tags by rank (R469). -/
  tagH : Tbl Nat
  tags : Tbl (List Nat)
  deriving DecidableEq, Repr

/-- A live instance of a collective graph (R464, R468, R470): launch, order of start, bases, tag base, key, tower and privilege of the
task that started it, and its operations: predecessors still open, since when startable by them, started, completed, chunk number. -/
structure JetRun where
  gid : Nat
  run : Nat
  lno : Nat
  order : Nat
  bases : Nat
  tagBase : Nat
  key : Word
  tower : Nat
  sup : Bool
  began : Nat
  dep : Tbl Nat
  since : Tbl Nat
  started : Tbl Bool
  completed : Tbl Bool
  chunk : Tbl Nat
  satn : Nat
  dupn : Nat
  failed : Bool
  deriving DecidableEq, Repr

/-- A slot of the graph store (R473): generation, communicator, operation records (none in a free slot) and successors, run count,
and the ends of the last 16 runs as (run, cgwait answer, operations not completed). -/
structure JetGraph where
  gen : Nat
  comm : Nat
  ops : List Nat
  succ : List Nat
  runs : Nat
  ends : List (Nat × Nat × Nat)
  deriving DecidableEq, Repr

/-- A chunk engine at work (R468). -/
structure ChunkEngine where
  gid : Nat
  run : Nat
  op : Nat
  /-- RRED: destination lines added so far, and adder entries held by stack (R467). -/
  line : Nat
  need : Tbl Nat
  deriving DecidableEq, Repr

/-- A health record (R418). -/
structure Health where
  seq : Nat
  time : Nat
  cls : Nat
  unit : Nat
  lno : Nat
  code : Nat
  addr : Nat
  info : Nat
  deriving DecidableEq, Repr

/-- SPDM state (R433): messages so far (request code and arguments), connection state and whether a session is open. -/
structure Spdm where
  version : Bool
  caps : Bool
  algs : Bool
  pendingKey : Bool
  session : Bool
  transcript : List Nat
  deriving DecidableEq, Repr

/-- Identity key pairs by their private keys, which never leave the Barometer (R432). -/
structure Identity where
  ed25519 : List Byte
  mldsa : List Byte
  deriving DecidableEq, Repr

/-- Firmware (R425 to R432): fused minimum, revoked key slots, the flash image and whether it is whole or being written, the image
whose I/O-die and Barometer parts run (none: the recovery loader) with the version and security version that DEVSTAT reports, the
identity derived from the accepted image, whether the recovery loader runs and launch queues are served, the towers an apply has
still to do, and the image that it applies. -/
structure Firmware where
  minSvn : Nat
  revoked : List Nat
  flash : Image
  staged : Bool
  writing : Bool
  running : Option Image
  identity : Option Identity
  runVer : Nat
  runSvn : Nat
  recovery : Bool
  ready : Bool
  applying : Option Nat
  image : Image
  deriving DecidableEq, Repr

/-- The package. -/
structure State where
  /-- MODEL: steps that the outside world or the timing of the device makes happen next. -/
  agenda : List Instr
  /-- MODEL: the hart whose word is next. -/
  turn : Nat
  /-- MODEL: number of free values drawn. -/
  fresh : Nat
  harts : Tbl Hart
  cores : Tbl Core
  clusters : Tbl Cluster
  towers : Tbl Tower
  mem : Memory
  poison : Tbl Bool
  tiles : Tbl TileMark
  mmu : Mmu
  depoch : Nat
  launches : Tbl Launch
  gens : Tbl Nat
  tasks : Tbl Task
  nextTask : Nat
  time : Nat
  schcfg : Nat
  thcfg : Nat
  ctcfg : Nat
  ctWritten : Nat
  ctLost : Nat
  /-- Trace records written, not saturating: the next slot of the ring (R413). -/
  ctNext : Nat
  fpool : Nat
  pzh : Tbl Nat
  queues : Tbl LaunchQueue
  /-- By priority: the queue last served, of its four (R379). -/
  served : Tbl Nat
  graphs : Tbl GraphSlot
  slots : Tbl PageSlot
  pageWait : List PageReq
  prgEnabled : Bool
  prgSlots : Nat
  pasidEnabled : Bool
  gathers : List Gather
  nextIdent : Nat
  sounding : Tbl Sounding
  log : List Health
  flashLog : List Health
  nextLog : Nat
  ceCount : Nat
  ceUnits : Tbl Nat
  ceSecond : Nat
  pkghot : Bool
  /-- Anvil layers mapped out by core, in Barometer flash (R229). -/
  layerFlash : Tbl Nat
  bmarg : Tbl Word
  bmrsp : Nat
  bmst : Nat
  bmlen : Nat
  /-- Arguments and response address of the command in progress (R416). -/
  bmheld : Tbl Word × Nat
  fw : Firmware
  spdm : Spdm
  /-- The MSI-X table by eight-byte halves of its entries, and the pending bits (R424). -/
  msix : Tbl Nat
  pba : Nat
  /-- Base and size that the host has programmed into the HDM decoder (R422). -/
  hdmBase : Nat
  hdmSize : Nat
  netcfg : Nat
  netllr : Nat
  blcfg : Nat
  routes : Tbl Nat
  /-- The engine's copies of the peer and endpoint tables (R444). -/
  peers : Tbl Nat
  endpoints : Tbl Nat
  work : List WorkReq
  netTurn : Nat
  /-- Delivery contexts by peer entry; of `rud`, key 4,096 + communicator·4,096 + rank·4 + lane is Jetstream's (R443, R458). -/
  rud : Tbl Delivery
  rod : Tbl Delivery
  benlar : Tbl BenlarPort
  eth : Tbl EthPort
  commcfg : Nat
  jscfg : Nat
  comms : Tbl Comm
  jets : List JetRun
  jgraphs : Tbl JetGraph
  engines : Tbl ChunkEngine
  /-- By priority: the communicator whose turn it is and the starts it has had (R468). -/
  jetTurn : Tbl (Nat × Nat)
  nextRun : Nat
  outbox : List Out
  deriving DecidableEq, Repr

/-- An open strip with nothing measured. -/
def Strip.zero : Strip :=
  { pc := 0, cyc := 0, abusy := 0, mbusy := 0, first := false, pre := false, sat := false, lost := false }

/-- The EIX register at reset (R31). -/
def Eix.zero : Eix := { seq := 0, valid := false, live := false, idx := 0 }

/-- A context at reset: the values of R17 to R34 where a table gives them; the registers a launch sets hold zero (log 4). -/
def Ctx.reset : Ctx :=
  { x := [], q := [], h := [], sf := [], vt := 0xA00, vl := 0, vs := 0, wb := 0, vbase := 0, vcount := 0, fv := 0, ft := 0,
    eixV := [], eixT := [], vseq := 0, key := 0, strm := 0, srq := 0, pkey := 0, ast := 0, tvec := 0, prio := 0, inh := false,
    prv := false, epc := 0, ecp := 0, evs := 0, ecause := 0, evalr := 0, enqN := 0, enqSeq0 := 0, frm := 0, tdsel := 0, pc := 0,
    tepoch := 0, guard := none, copyFault := none, bovf := none, strip := Strip.zero, cnt := 0, mean := 0, m2 := 0, out := 0,
    sw := [], cp := [] }

/-- A hart at reset: no task. -/
def Hart.reset : Hart :=
  { task := none, ctx := Ctx.reset, queue := [], openConvoy := false, released := false, readyAt := 0, aheadAt := 0, startVs := 0, groups := [], target := 0,
    halted := false, dbg := false, held := none, noMatch := false, resv := none, remote := .idle, guardPending := [], unordered := [], vlines := [],
    snap := none, pins := [],
    waiting := .none, spin := 0, vwait := .none, vspin := 0,
    startedAt := 0, sampleCyc := 0 }

/-- An empty buffer. -/
def Buf.empty : Buf := { size := 0, data := [], full := [] }

/-- The shape before any mshape. -/
def Shape.zero : Shape := { sx := 0, ps := 0, spn := 0, fmt := 0, org := 0, mg := 0, ng := 0, kg := 0 }

/-- A free Anvil (R216). -/
def Anvil.free : Anvil :=
  { owner := none, releasing := none, tiles := [], plane0 := none, plane1 := none, active := 0, loads := 0,
    shape := Shape.zero, relDone := false }

/-- The Gust configuration at reset (R199): LEAK 2,048, HEAD3 64, HEAD2 32, THRESH 262,144. -/
def gustReset : Nat := 2048 * 2 ^ 48 + 64 * 2 ^ 40 + 32 * 2 ^ 32 + 262144

/-- A core at reset.  DESIGN CHOICE (log 106): before any hart has issued, hart 0 counts as the last one that did. -/
def Core.reset : Core :=
  { vf := [], unlanded := [], allocs := [], gustLevel := 0, gustCfg := gustReset, ctr := [], cbp := [], cbx := [], ntcfg := 0,
    settling := [], anvil := Anvil.free, outLayers := 0, hotLayers := 0, overLayers := 0, job := none, copies := [], interlock := [],
    lastHart := 0, gate := .running, idle := 0, inbox := [], replies := [], readyClock := 0, relLines := [] }

/-- PGCFG at reset (R265): GIDLE 175,000, CGATE 1, EN 1. -/
def pgcfgReset : Nat := 175000 * 2 ^ 32 + 3

/-- DPCFG at reset (R268). -/
def dpcfgReset : Nat :=
  100 * 2 ^ 56 + 72 * 2 ^ 48 + 12 * 2 ^ 42 + 2 * 2 ^ 36 + 4 * 2 ^ 30 + 36 * 2 ^ 22 + 1

/-- SLRT at reset (R270). -/
def slrtReset : Nat := 0x0808080808080404

/-- A cluster at reset. -/
def Cluster.reset : Cluster :=
  { bars := [], counters := [], lost := [], pgcfg := pgcfgReset, dpcfg := dpcfgReset, vcode := 80, mm := 0, stretch := 0,
    emergency := false, slrt := slrtReset, slcfg := 0x104, lvl := 0, pending := [], filler := [], passEnds := [], gate := .running, port := [], cyc := 0 }

/-- A tower at reset (R302, R427): ONLINE, its self-test to come. -/
def Tower.reset : Tower :=
  { st := .online, step := 0, since := 0, powered := true, testing := true, moves := [], nextMove := 1, pzc := [], slices := [],
    flight := [], temps := [], hotOnce := [], emergency := 0, coolSince := none, fw := some .shipped }

/-- An unmarked tile (R307). -/
def TileMark.clear : TileMark := { mark := none, tomb := false, arrival := false, va := 0, home := 0 }

/-- Empty translation caches. -/
def Mmu.reset : Mmu :=
  { tlb1 := [], tlb2 := [], tlbBase := [], walk2 := [], walkBase := [], l1 := [], ats := [] }

/-- A launch queue at reset (R377). -/
def LaunchQueue.reset : LaunchQueue := { base := 0, en := false, logn := 4, head := 0, tail := 0 }

/-- An empty graph slot. -/
def GraphSlot.empty : GraphSlot := { nodes := [], gen := 0, runs := [], ends := [] }

/-- A free page-request slot. -/
def PageSlot.free : PageSlot := { gen := 0, dead := false, req := none }

/-- A fresh delivery context. -/
def Delivery.reset : Delivery :=
  { nextPsn := 0, inFlight := [], lastAck := 0, rot := 0, srtt := 0, window := 256, rxBase := 0, rxSeen := [], rxPlaced := [], rxEntry := [] }

/-- A Benlar port at reset. -/
def BenlarPort.reset : BenlarPort := { up := true, txSeq := 0, rxSeq := 0, replay := [], used := [], transit := [], parts := [] }

/-- An Ethernet port at reset: no key (R435). -/
def EthPort.reset : EthPort := { keys := [], dropped := 0, paused := [], llrSeq := 0, llrPos := 0, llrKept := [], llrRx := 0 }

/-- A communicator the engine has not accepted. -/
def Comm.reset : Comm :=
  { entry := 0, fault := false, outNext := [], inNext := [], sent := [], credits := [], freed := [], tagH := [], tags := [] }

/-- A free slot of the graph store. -/
def JetGraph.reset : JetGraph := { gen := 0, comm := 0, ops := [], succ := [], runs := 0, ends := [] }

/-- SCHCFG at reset (R367): AGEW 1,000, SLICE 200, SPIN 4,096. -/
def schcfgReset : Nat := 1000 * 2 ^ 48 + 200 * 2 ^ 32 + 4096 * 2 ^ 12

/-- THCFG at reset (R402). -/
def thcfgReset : Nat := 125 * 2 ^ 56 + 110 * 2 ^ 48 + 10 * 2 ^ 40 + 105 * 2 ^ 32 + 5 * 2 ^ 24 + 100 * 2 ^ 8 + 1

/-- CTCFG at reset (R413): LOGN 4, SPER 16. -/
def ctcfgReset : Nat := 4 * 2 ^ 57 + 16 * 2 ^ 52

/-- The identity that boot ROM derives (R432): from SHA-384 over the fused secret and the digest of the accepted image.  How the two
private keys come from that value is free (log 101). -/
def Identity.derive (i : Image) : Identity :=
  let seed := sha384 (Config.fusedSecret ++ sha384 (digestInput i.bytes))
  { ed25519 := Config.identityKey 0 seed, mldsa := Config.identityKey 1 seed }

/-- The machine right after package reset: boot ROM has accepted the image that the package came with, every tower is ONLINE with its
self-test to come, no launch is live (R427, R302; logs 16, 85). -/
def State.reset : State :=
  { agenda := [], turn := 0, fresh := 0, harts := [], cores := [], clusters := [], towers := [], mem := [], poison := [],
    tiles := [], mmu := Mmu.reset, depoch := 0, launches := [], gens := [], tasks := [], nextTask := 1, time := 0,
    schcfg := schcfgReset, thcfg := thcfgReset, ctcfg := ctcfgReset, ctWritten := 0, ctLost := 0, ctNext := 0, fpool := 0, pzh := [],
    queues := [], served := [], graphs := [], slots := [], pageWait := [], prgEnabled := true, prgSlots := 512,
    pasidEnabled := true, gathers := [], nextIdent := 1, sounding := [], log := [], flashLog := [], nextLog := 0, ceCount := 0,
    ceUnits := [], ceSecond := 0, pkghot := false, layerFlash := [], bmarg := [], bmrsp := 0, bmst := 0, bmlen := 0, bmheld := ([], 0),
    fw := { minSvn := 0, revoked := [], flash := .shipped, staged := true, writing := false, running := some .shipped,
            identity := some (Identity.derive .shipped), runVer := Image.shipped.version, runSvn := Image.shipped.svn,
            recovery := false, ready := false, applying := none, image := .shipped },
    spdm := { version := false, caps := false, algs := false, pendingKey := false, session := false, transcript := [] },
    msix := [], pba := 0, hdmBase := 0, hdmSize := 0, netcfg := 0, netllr := 0, blcfg := 0, routes := [], peers := [], endpoints := [], work := [], netTurn := 0,
    rud := [], rod := [], benlar := [], eth := [], commcfg := 0, jscfg := 32, comms := [], jets := [], jgraphs := [],
    engines := [], jetTurn := [], nextRun := 1, outbox := [] }

end Sys2Proof.Machine
end

