-- ==== Sys2Proof/Machine/Access.lean ====
section
/-! DEFINITION. Accessors: every unit and register has one home in `State`, read and written here (R417 indices, R18, R19, R22
to R24).  Also the monad in which a word's meaning is written: it may stop with a trap, a page fault, a wait or the end of the
task, and then nothing it did to architectural state stays. -/

namespace Sys2Proof.Machine

open Sys2Proof

/-- The core of a hart. -/
def coreOf (h : Nat) : Nat := h / 4
/-- The cluster of a core. -/
def clusterOf (c : Nat) : Nat := c / 8
/-- The tower of a cluster. -/
def towerOf (cl : Nat) : Nat := cl / 8
/-- The tower of a hart. -/
def hartTower (h : Nat) : Nat := h / 256
/-- The cluster of a hart. -/
def hartCluster (h : Nat) : Nat := h / 32

/-- Hart h. -/
def State.hart (s : State) (h : Nat) : Hart := Tbl.get Hart.reset s.harts h
/-- Replace hart h. -/
def State.setHart (s : State) (h : Nat) (v : Hart) : State := { s with harts := Tbl.set s.harts h v }
/-- Change hart h. -/
def State.updHart (s : State) (h : Nat) (f : Hart → Hart) : State := s.setHart h (f (s.hart h))
/-- The context on hart h. -/
def State.ctx (s : State) (h : Nat) : Ctx := (s.hart h).ctx
/-- Change the context on hart h. -/
def State.updCtx (s : State) (h : Nat) (f : Ctx → Ctx) : State :=
  s.setHart h { s.hart h with ctx := f (s.hart h).ctx }
/-- Core c; its layers mapped out come from Barometer flash (R229). -/
def State.core (s : State) (c : Nat) : Core := Tbl.get Core.reset s.cores c
/-- Change core c. -/
def State.updCore (s : State) (c : Nat) (f : Core → Core) : State := { s with cores := Tbl.set s.cores c (f (s.core c)) }
/-- Cluster cl. -/
def State.cluster (s : State) (cl : Nat) : Cluster := Tbl.get Cluster.reset s.clusters cl
/-- Change cluster cl. -/
def State.updCluster (s : State) (cl : Nat) (f : Cluster → Cluster) : State :=
  { s with clusters := Tbl.set s.clusters cl (f (s.cluster cl)) }
/-- Tower t. -/
def State.tower (s : State) (t : Nat) : Tower := Tbl.get Tower.reset s.towers t
/-- Change tower t. -/
def State.updTower (s : State) (t : Nat) (f : Tower → Tower) : State :=
  { s with towers := Tbl.set s.towers t (f (s.tower t)) }
/-- The launch under LNO n, live or ended, if there has been one. -/
def State.launch (s : State) (n : Nat) : Option Launch := Tbl.find s.launches n
/-- Change launch n where it exists. -/
def State.updLaunch (s : State) (n : Nat) (f : Launch → Launch) : State :=
  match s.launch n with
  | some l => { s with launches := Tbl.set s.launches n (f l) }
  | none => s
/-- Task tid. -/
def State.taskOf (s : State) (tid : Nat) : Option Task := Tbl.find s.tasks tid
/-- Change task tid where it exists. -/
def State.updTask (s : State) (tid : Nat) (f : Task → Task) : State :=
  match s.taskOf tid with
  | some t => { s with tasks := Tbl.set s.tasks tid (f t) }
  | none => s
/-- The task on hart h. -/
def State.hartTask (s : State) (h : Nat) : Option Task := (s.hart h).task.bind s.taskOf
/-- The launch number of the task on hart h, 0 without a task. -/
def State.hartLno (s : State) (h : Nat) : Nat := ((s.hartTask h).map (·.lno)).getD 0
/-- The home cluster of the task on hart h (R248). -/
def State.homeCluster (s : State) (h : Nat) : Nat := ((s.hartTask h).map (·.home)).getD (hartCluster h)
/-- The mark filter bits of a physical tile. -/
def State.tile (s : State) (t : Nat) : TileMark := Tbl.get TileMark.clear s.tiles t
/-- Change the bits of a physical tile. -/
def State.updTile (s : State) (t : Nat) (f : TileMark → TileMark) : State :=
  { s with tiles := Tbl.set s.tiles t (f (s.tile t)) }

/-- x[r] of hart h; x0 reads as zero (R18). -/
def State.x (s : State) (h : Nat) (r : BitVec 7) : Word :=
  if r = 0 then 0 else Tbl.get 0 (s.ctx h).x r.toNat
/-- Write x[r] of hart h; writes to x0 are discarded (R18). -/
def State.setX (s : State) (h : Nat) (r : BitVec 7) (v : Word) : State :=
  if r = 0 then s else s.updCtx h (fun c => { c with x := Tbl.set c.x r.toNat v })

/-- Fields of VT (R27). -/
def Ctx.ew (c : Ctx) : Nat := bits c.vt 3 0
/-- Tangent format: true for BF16. -/
def Ctx.tf (c : Ctx) : Bool := bit c.vt 4
/-- Bundle width. -/
def Ctx.b (c : Ctx) : Nat := bits c.vt 8 5
/-- log2 of elements per scale. -/
def Ctx.bl (c : Ctx) : Nat := bits c.vt 12 9
/-- Scale base. -/
def Ctx.sb (c : Ctx) : Nat := bits c.vt 23 13
/-- Mask register used when M = 1. -/
def Ctx.msel (c : Ctx) : Nat := bits c.vt 26 24
/-- Rounding mode. -/
def Ctx.rm (c : Ctx) : Rm := Rm.ofCode (bits c.vt 29 27)
/-- Saturation. -/
def Ctx.sat (c : Ctx) : Bool := bit c.vt 30
/-- Tangent mode: every tangent result is +0. -/
def Ctx.tm (c : Ctx) : Bool := bit c.vt 31

/-- Scale-file entry k, 0x7F at task start (R24). -/
def Ctx.scale (c : Ctx) (k : Nat) : Nat := Tbl.get 0x7F c.sf k
/-- Mask register k. -/
def Ctx.mask (c : Ctx) (k : Nat) : Nat := Tbl.get 0 c.q k
/-- Copy-program register k (R238): COUNT resets to 1, every other field to 0. -/
def Ctx.copyReg (c : Ctx) (k : Nat) : Nat := Tbl.get (if k ≤ 5 then 2 ^ 64 else 0) c.cp k

/-- Value width in bytes of an element format code (R28). -/
def vwOf (ew : Nat) : Nat :=
  match ew with
  | 0 => 4 | 1 => 2 | 2 => 2 | 3 => 1 | 4 => 1
  | 8 => 1 | 9 => 2 | 10 => 4 | 11 => 8
  | 12 => 1 | 13 => 2 | 14 => 4 | 15 => 8
  | _ => 1
/-- The format is a float. -/
def isFloat (ew : Nat) : Bool := decide (ew ≤ 4)
/-- The format is a signed integer. -/
def isSigned (ew : Nat) : Bool := decide (8 ≤ ew) && decide (ew ≤ 11)
/-- The float format of a code. -/
def fmtOf (ew : Nat) : Fmt :=
  match ew with
  | 0 => fp32 | 1 => fp16 | 2 => bf16 | 3 => e4m3 | _ => e5m2
/-- Tangent width in bytes. -/
def Ctx.tw (c : Ctx) : Nat := if c.tf then 2 else 4
/-- The tangent format. -/
def Ctx.tfmt (c : Ctx) : Fmt := if c.tf then bf16 else fp32
/-- Element footprint under a value width (R20). -/
def Ctx.fpOf (c : Ctx) (vw : Nat) : Nat := vw + c.b * c.tw
/-- Elements of a row under a value width (R20). -/
def Ctx.rowOf (c : Ctx) (vw : Nat) : Nat := 512 / c.fpOf vw
/-- VLMAX under a value width (R20). -/
def Ctx.vlmaxOf (c : Ctx) (vw : Nat) : Nat := 8 * c.rowOf vw
/-- VLMAX under VT. -/
def Ctx.vlmax (c : Ctx) : Nat := c.vlmaxOf (vwOf c.ew)
/-- Record size of a vector memory word (R167). -/
def Ctx.rs (c : Ctx) : Nat := if c.b = 0 || c.tm then vwOf c.ew else c.fpOf (vwOf c.ew)

/-- Physical number of vector register n of a context (R19). -/
def Ctx.phys (c : Ctx) (n : Nat) : Nat := c.vbase + c.wb + n
/-- Byte of the value of element i in a register laid out under width vw (R20). -/
def Ctx.valOff (c : Ctx) (vw i : Nat) : Nat := 512 * (i / c.rowOf vw) + i % c.rowOf vw * vw
/-- Byte of tangent k of element i (R20). -/
def Ctx.tanOff (c : Ctx) (vw i k : Nat) : Nat :=
  let e := c.rowOf vw
  512 * (i / e) + e * vw + k * e * c.tw + i % e * c.tw

/-- A physical vector register's 4,096 bytes as one little-endian number. -/
def State.vreg (s : State) (c p : Nat) : Nat := Tbl.get 0 (s.core c).vf p
/-- Replace bytes of a physical vector register. -/
def State.putVreg (s : State) (c p off w v : Nat) : State :=
  s.updCore c (fun k => { k with vf := Tbl.set k.vf p (putAt (Tbl.get 0 k.vf p) off w v) })

/-- Event counter n of a core (R208). -/
def State.counter (s : State) (c n : Nat) : Nat := Tbl.get 0 (s.core c).ctr n
/-- Advance event counter n of core c by k, modulo 2^64 (R208). -/
def State.count (s : State) (c n k : Nat) : State :=
  s.updCore c (fun r => { r with ctr := Tbl.set r.ctr n ((Tbl.get 0 r.ctr n + k) % 2 ^ 64) })

/-- An access to the typed buffers of core c: its bank conflicts, which depend on what else the banks serve in the cycle, are a free
number (R204, R208; log 100). -/
def State.countConflicts (s : State) (c : Nat) : State := State.count { s with fresh := s.fresh + 1 } c 8 (Config.conflicts s.fresh)

/-- Put a message in the outbox. -/
def State.send (s : State) (k : OutKind) (d : List Nat) : State := { s with outbox := s.outbox ++ [{ kind := k, data := d }] }

/-- Half k of the MSI-X table (R424).  PRESUMED (log 76): a vector's mask bit, [32] of its second half, is 1 at reset. -/
def State.msixHalf (s : State) (k : Nat) : Nat := Tbl.get (if k % 2 = 1 then 2 ^ 32 else 0) s.msix k

/-- Signal vector v (R424): while it is masked its pending bit is set instead (log 76). -/
def State.msi (s : State) (v : Nat) : State :=
  if 32 ≤ v then s
  else if bit (s.msixHalf (2 * v + 1)) 32 then { s with pba := s.pba ||| 2 ^ v }
  else s.send .msix [v]

/-- Append a health record (R418) and its MSI-X signal (R424): vector 0 for classes 2 to 6. -/
def State.logHealth (s : State) (cls unit lno code addr info : Nat) : State :=
  let r : Health := { seq := s.nextLog, time := s.time % 2 ^ 48, cls := cls, unit := unit, lno := lno, code := code, addr := addr, info := info }
  let s : State := { s with
    log := (s.log ++ [r]).drop (s.log.length + 1 - 65536)
    flashLog := (s.flashLog ++ [r]).drop (s.flashLog.length + 1 - 4096)
    nextLog := s.nextLog + 1 }
  if 2 ≤ cls && cls ≤ 6 then s.msi 0 else s

/-- The page that an access misses: the virtual address it met and, where ATS denied it, the untranslated host address (R349, R351). -/
structure PageAddr where
  va : Nat
  host : Option Nat
  deriving DecidableEq, Repr

/-- The page of a virtual address. -/
def PageAddr.of (va : Nat) : PageAddr := { va := va, host := none }

/-- Number of the page asked for. -/
def PageAddr.number (p : PageAddr) : Nat := p.host.getD p.va / 65536

/-- Why a word does not complete. -/
inductive Stop
  /-- A trap of R44 with its EVAL; `keep` when what the word did so far stays (R253). -/
  | trap (cause : Nat) (val : Word) (keep : Bool)
  /-- A page fault (R348): page and permissions needed (PageReq.need). -/
  | page (at' : PageAddr) (need : Nat)
  /-- A translation conflict stops an element of a vector word, which is reissued at once (R346). -/
  | conflict
  /-- The task is terminated with a record (R48): cause and EVAL. -/
  | term (cause : Nat) (val : Word)
  /-- The word waits. -/
  | wait (w : WaitFor)
  deriving DecidableEq, Repr

/-- Meanings that may stop. -/
abbrev M := EStateM Stop State

/-- A trap that leaves no effect. -/
def trapM {α : Type} (cause : Nat) (val : Word) : M α := throw (.trap cause val false)
/-- Wait. -/
def waitM {α : Type} (w : WaitFor) : M α := throw (.wait w)

/-- Trap causes (R44). -/
def cILL : Nat := 0x01
def cCONV : Nat := 0x02
def cOPND : Nat := 0x03
def cPRIV : Nat := 0x04
def cALIGN : Nat := 0x05
def cSACC : Nat := 0x06
def cVACC : Nat := 0x07
def cDCHN : Nat := 0x08
def cGUARD : Nat := 0x09
def cBOVF : Nat := 0x0A
def cTRAP : Nat := 0x0B
def cEBRK : Nat := 0x0C
def cCOPY : Nat := 0x0D
/-- Codes that appear only in error records (R376, R395, R404, R454, R470). -/
def cBLOST : Nat := 0x0E
def cPGFAIL : Nat := 0x0F
def cRSTR : Nat := 0x10
def cUNCORR : Nat := 0x11
def cORPHAN : Nat := 0x12
def cKILLED : Nat := 0x13
def cTBLK : Nat := 0x14
def cTOWER : Nat := 0x15
def cSNDW : Nat := 0x16
def cMIGR : Nat := 0x17
def cNETERR : Nat := 0x18
def cJETERR : Nat := 0x19

/-- Draw the index of a fresh free value. -/
def drawM : M Nat := modifyGet (fun s => (s.fresh, { s with fresh := s.fresh + 1 }))

/-- Draw the indices of n fresh free values; the first one. -/
def drawN (n : Nat) : M Nat := modifyGet (fun s => (s.fresh, { s with fresh := s.fresh + n }))

/-- The list with its first element that meets p changed by f. -/
def updFirst {α : Type} (p : α → Bool) (f : α → α) : List α → List α
  | [] => []
  | x :: l => if p x then f x :: l else x :: updFirst p f l

/-- The list with element n changed by f. -/
def updNth {α : Type} (f : α → α) : Nat → List α → List α
  | _, [] => []
  | 0, x :: l => f x :: l
  | n + 1, x :: l => x :: updNth f n l

/-- Run f for 0, 1, …, n - 1 in order. -/
def forN (n : Nat) (f : Nat → M Unit) : M Unit := (List.range n).forM f

/-- Run f for lo, …, hi - 1 in order. -/
def forRange (lo hi : Nat) (f : Nat → M Unit) : M Unit := (List.range (hi - lo)).forM (fun k => f (lo + k))

/-- Fold over 0 … n - 1 without effects. -/
def foldN {α : Type} (n : Nat) (a : α) (f : α → Nat → α) : α := (List.range n).foldl f a

/-- The state a stop leaves: the original one with the caches and the free-value counter as they now stand, the conflicts logged on the
way (R346), and the clusters that a message has woken (R264). -/
def keepSide (s t : State) : State :=
  { s with mmu := t.mmu, fresh := t.fresh, log := t.log, flashLog := t.flashLog, nextLog := t.nextLog, clusters := t.clusters }

end Sys2Proof.Machine
end

