-- ==== Sys2Proof/Machine/Estimate.lean ====
section
/-! DEFINITION. The arithmetic of Sounding statistics in binary64, their merge, and the slice of a tower (R391 to R393). -/

namespace Sys2Proof.Machine

open Sys2Proof

/-- Round into binary64 with RNE (R391, R392, R394): no flag is raised. -/
def r64 (x : Num) : Nat := (roundNum fp64 false .rne 0 x).1

/-- Binary64 sum, difference, product, quotient and root. -/
def add64 (a b : Nat) : Nat := r64 (addNum .rne (fp64.decode a) (fp64.decode b)).1
def sub64 (a b : Nat) : Nat := r64 (addNum .rne (fp64.decode a) (fp64.decode b).negate).1
def mul64 (a b : Nat) : Nat := r64 (mulNum (fp64.decode a) (fp64.decode b)).1
def div64 (a b : Num) : Nat := r64 (divNum a b).1
def sqrt64 (a : Nat) : Nat := r64 (sqrtNum (fp64.decode a)).1

/-- An exact count as an operand. -/
def natNum (n : Nat) : Num := .fin false n 1

/-- A binary64 code as an operand. -/
def n64 (c : Nat) : Num := fp64.decode c

/-- Merge of statistic b into accumulator a (R392). -/
def Partial.merge (a b : Partial) : Partial :=
  if b.n = 0 then a
  else if a.n = 0 then b
  else
    let n := a.n + b.n
    let d := sub64 b.mean a.mean
    let q := div64 (natNum b.n) (natNum n)
    let m := add64 a.mean (mul64 d q)
    let u := mul64 d d
    let v := r64 (mulNum (natNum a.n) (natNum b.n)).1
    let g := div64 (n64 v) (natNum n)
    { n := n, mean := m, m2 := add64 (add64 a.m2 b.m2) (mul64 u g) }

/-- A hart's statistic joins the slice of its tower (R393). -/
def State.giveSlice (s : State) (tw lno : Nat) (p : Partial) : State :=
  s.updTower tw (fun t => { t with slices := Tbl.upd { n := 0, mean := 0, m2 := 0 } t.slices lno (fun a => a.merge p) })

end Sys2Proof.Machine
end

