-- ==== Sys2Proof/WellFormed.lean ====
section
/-! DEFINITION. Which terms of the instruction type are words the encoding admits (R25, R80 to R87): what the field widths do
not already say.  A step that is no word is well formed when its unit exists. -/

namespace Sys2Proof

/-- The control-register selects that R25 assigns. -/
def assignedSelect (s : Nat) : Bool :=
  decide (s ≤ 0x006) || (decide (0x008 ≤ s) && decide (s ≤ 0x00D)) || (decide (0x010 ≤ s) && decide (s ≤ 0x015)) ||
  s == 0x018 || (decide (0x020 ≤ s) && decide (s ≤ 0x023)) || s == 0x028 || s == 0x029 ||
  (decide (0x030 ≤ s) && decide (s ≤ 0x03C))

/-- A conversion format code (R28, R83). -/
def assignedFormat (f : BitVec 4) : Bool := !(decide (5 ≤ f.toNat) && decide (f.toNat ≤ 7))

/-- The SRC rule of the multiplying matrix words (R74). -/
def srcRule (a b : BitVec 7) (s : Bool) : Bool := if s then a == 0 else b == 0

/-- The unit that a sensor stands in exists (R401). -/
def Sensor.exists' : Sensor → Bool
  | .anvilLayer c l => decide (c < 512) && decide (l < 4)
  | .laneDie cl | .registerDie cl => decide (cl < 64)
  | .ceilingLayer t l => decide (t < 8) && decide (l < 4)
  | .stack n => decide (n < 8)
  | .ioDie n => decide (n < 2)

/-- The storage exists (R411). -/
def Storage.exists' : Storage → Bool
  | .vectorFile c r => decide (c < 512) && decide (r < 2048)
  | .bufferW c | .bufferA c | .bufferC c | .translation c | .scalarL1 c _ => decide (c < 512)
  | .scaleFile h | .soundingRegs h => decide (h < 2048)
  | .ceilingLine l => decide (2 ^ 32 ≤ l) && decide (l < 2 ^ 32 + 2 ^ 29)
  | .hbmLine l => decide (l < 2 ^ 31)

/-- The pipeline exists (R411). -/
def Pipeline.exists' : Pipeline → Bool
  | .front c | .lanes c => decide (c < 512)
  | .anvil c l => decide (c < 512) && decide (l < 4)
  | .crossbar cl => decide (cl < 64)
  | .adders n => decide (n < 8)

/-- The unit that gates exists (R263). -/
def GateUnit.exists' : GateUnit → Bool
  | .core c => decide (c < 512)
  | .cluster cl => decide (cl < 64)

/-- The encoding admits this instruction word; of a step without an encoding, the unit it names exists. -/
def Instr.wellFormed : Instr → Bool
  | .fenceAcq _ s | .fenceRel _ s | .fence _ s => decide (s.toNat ≤ 4)
  | .cget _ _ s | .cset _ _ s => assignedSelect s.toNat
  | .vcvtTo _ _ _ f _ | .vcvtFrom _ _ _ f _ => assignedFormat f
  | .vldw _ _ _ p e _ => p != 3 && e != 3
  | .vlda _ _ _ _ p e _ | .vldc _ _ _ _ p e _ => p != 3 && e != 3
  | .vldnp _ _ _ p _ _ => p != 0
  | .mmulBf16 _ _ a b s | .mmulE4m3 _ _ a b s | .mmulE5m2 _ _ a b s | .mmulNp4 _ _ a b s | .mmulNp2 _ _ a b s => srcRule a b s
  | .mmulSpBf16 _ _ a b s | .mmulSpE4m3 _ _ a b s | .mmulSpE5m2 _ _ a b s | .mmulSpNp4 _ _ a b s
  | .mmulSpNp2 _ _ a b s => srcRule a b s
  | .convoyCommit h | .taskDispatch h | .preemption h | .spinBudgetExpiry h | .taskEnd h | .contrailSample h
  | .instructionFetchFault h => decide (h < 2048)
  | .gustCycle c | .remoteBufferMessage c | .remoteReply c | .layerPass c | .anvilFree c | .copyRun c _ | .coreGate c => decide (c < 512)
  | .layerTempReport c l _ => decide (c < 512) && decide (l < 4)
  | .ldoSettle c g => decide (c < 512) && decide (g < 16)
  | .slewStep cl => decide (cl < 64)
  | .dewpointSample cl mm => decide (cl < 64) && decide (mm < 64)
  | .gateEntryComplete u | .wakeComplete u => u.exists'
  | .driftCopyLine tw _ | .switch tw _ | .chainCompression tw _ | .soundingSliceForward tw _ | .selfTest tw _ _ | .firmwareTowerApply tw _
  | .shelterPowerOff tw | .shelterBoundExpiry tw | .shelterReturn tw _ | .watchdogExpiry tw | .fatalFault tw => decide (tw < 8)
  | .primeZoneWrite _ tw n _ => decide (tw < 8) && decide (n < 8)
  | .doorbell q _ | .launch q | .gdef q | .gedit q | .grun q | .gfree q | .kill q | .badrecEntry q => decide (q < 16)
  | .prgSuccess n | .prgInvalidRequest n | .prgResponseFailure n => decide (n < 512)
  | .sensorReading u _ => u.exists'
  | .parityError u _ => u.exists'
  | .eccError u _ => u.exists'
  | .benlarFlit p _ | .benlarLinkLoss p => decide (p < 18)
  | .ethernetFrame p _ _ _ _ => decide (p < 8)
  | .chunkEnd e | .adderLine e => decide (e < 32)
  | .chunkLine n _ lane _ line _ => decide (n < 64) && decide (lane < 4) && decide (line < 256)
  | .credit n _ lane _ => decide (n < 64) && decide (lane < 4)
  | _ => true

end Sys2Proof
end

