-- ==== Sys2Proof/Decode.lean ====
section
/-! DEFINITION. The decoder of instruction words (R71 to R90, 03_encoding.md), total on all 2^32 patterns, and the encoder
written from the same maps.  A pattern that is no instruction is rejected by the name of its first defect; the machine
raises ILL for every one of them (R89). -/

namespace Sys2Proof

open Sys2Proof.Machine

/-- Why a pattern is no instruction (R89). -/
inductive Reject
  /-- MAJ is 0x36, 0x37 or 0x3F. -/
  | unassignedMajor
  /-- F4, fn3 or a selector that no row names. -/
  | unassignedFunction
  /-- A select of an S-format word that no row names (R25, R82). -/
  | unassignedSelect
  /-- A field the word does not use is nonzero (R73). -/
  | unusedField
  /-- High bits of a narrow register field are nonzero (R73). -/
  | narrowField
  /-- A reserved value of a subfield (R80, R83, R86). -/
  | reservedField
  /-- M = 1 where the map requires 0 (R74). -/
  | maskBit
  deriving DecidableEq, Repr

/-- The instruction if every condition holds, else the name of the first that fails. -/
def chk : List (Bool × Reject) → Instr → Except Reject Instr
  | [], i => .ok i
  | (c, r) :: cs, i => if c then chk cs i else .error r

/-- MAJ 0x00 (R82): system functions. -/
noncomputable def dec00 (k : Bool) (d a sel : Nat) : Except Reject Instr :=
  if sel / 16 = 0x11 then chk [(a == 0, .unusedField)] (.rdctr k (.ofNat 7 d) (.ofNat 4 (sel % 16))) else
  match sel with
  | 0x100 => chk [(d == 0, .unusedField), (a == 0, .unusedField)] (.halt k)
  | 0x101 => chk [(d == 0, .unusedField), (a == 0, .unusedField)] (.yield k)
  | 0x102 => chk [(d == 0, .unusedField)] (.tlbinv k (.ofNat 7 a))
  | 0x104 => chk [(a == 0, .unusedField)] (.rdcyc k (.ofNat 7 d))
  | 0x105 => chk [(a == 0, .unusedField)] (.rdtime k (.ofNat 7 d))
  | _ => .error .unassignedSelect

/-- MAJ 0x1D (R82): fences, vdrain, trap, tret, ebrk. -/
noncomputable def dec1D (k : Bool) (d a sel : Nat) : Except Reject Instr :=
  if sel / 8 = 0x22 ∧ sel % 8 ≤ 4 then
    chk [(d == 0, .unusedField), (a == 0, .unusedField)] (.fenceAcq k (.ofNat 3 (sel % 8)))
  else if sel / 8 = 0x24 ∧ sel % 8 ≤ 4 then
    chk [(d == 0, .unusedField), (a == 0, .unusedField)] (.fenceRel k (.ofNat 3 (sel % 8)))
  else if sel / 8 = 0x26 ∧ sel % 8 ≤ 4 then
    chk [(d == 0, .unusedField), (a == 0, .unusedField)] (.fence k (.ofNat 3 (sel % 8)))
  else match sel with
  | 0x100 => chk [(d == 0, .unusedField), (a == 0, .unusedField)] (.vdrain k)
  | 0x140 => chk [(d == 0, .unusedField)] (.trap k (.ofNat 7 a))
  | 0x141 => chk [(d == 0, .unusedField), (a == 0, .unusedField)] (.tret k)
  | 0x142 => chk [(d == 0, .unusedField), (a == 0, .unusedField)] (.ebrk k)
  | _ => .error .unassignedSelect

/-- MAJ 0x05 (R80): imm11 split into a selector and an immediate or a shift amount. -/
def dec05 (k : Bool) (d a imm : Nat) : Except Reject Instr :=
  match imm / 256 with
  | 0 => .ok (.andi k (.ofNat 7 d) (.ofNat 7 a) (.ofNat 8 (imm % 256)))
  | 1 => .ok (.ori k (.ofNat 7 d) (.ofNat 7 a) (.ofNat 8 (imm % 256)))
  | 2 => .ok (.xori k (.ofNat 7 d) (.ofNat 7 a) (.ofNat 8 (imm % 256)))
  | 3 => .ok (.slti k (.ofNat 7 d) (.ofNat 7 a) (.ofNat 8 (imm % 256)))
  | 4 => .ok (.sltni k (.ofNat 7 d) (.ofNat 7 a) (.ofNat 8 (imm % 256)))
  | 5 => chk [(imm / 64 % 4 == 0, .reservedField)] (.slli k (.ofNat 7 d) (.ofNat 7 a) (.ofNat 6 (imm % 64)))
  | 6 => chk [(imm / 64 % 4 == 0, .reservedField)] (.srli k (.ofNat 7 d) (.ofNat 7 a) (.ofNat 6 (imm % 64)))
  | _ => chk [(imm / 64 % 4 == 0, .reservedField)] (.srai k (.ofNat 7 d) (.ofNat 7 a) (.ofNat 6 (imm % 64)))

/-- MAJ 0x01 (R79, R88): F4 selects the function. -/
def dec01 (k : Bool) (d a b f4 : Nat) : Except Reject Instr :=
  match f4 with
  | 0 => .ok (.add k (.ofNat 7 d) (.ofNat 7 a) (.ofNat 7 b))
  | 1 => .ok (.sub k (.ofNat 7 d) (.ofNat 7 a) (.ofNat 7 b))
  | 2 => .ok (.and k (.ofNat 7 d) (.ofNat 7 a) (.ofNat 7 b))
  | 3 => .ok (.or k (.ofNat 7 d) (.ofNat 7 a) (.ofNat 7 b))
  | 4 => .ok (.xor k (.ofNat 7 d) (.ofNat 7 a) (.ofNat 7 b))
  | 5 => .ok (.sll k (.ofNat 7 d) (.ofNat 7 a) (.ofNat 7 b))
  | 6 => .ok (.srl k (.ofNat 7 d) (.ofNat 7 a) (.ofNat 7 b))
  | 7 => .ok (.sra k (.ofNat 7 d) (.ofNat 7 a) (.ofNat 7 b))
  | 8 => .ok (.slt k (.ofNat 7 d) (.ofNat 7 a) (.ofNat 7 b))
  | 9 => .ok (.sltn k (.ofNat 7 d) (.ofNat 7 a) (.ofNat 7 b))
  | 10 => .ok (.seq k (.ofNat 7 d) (.ofNat 7 a) (.ofNat 7 b))
  | 11 => .ok (.sne k (.ofNat 7 d) (.ofNat 7 a) (.ofNat 7 b))
  | _ => .error .unassignedFunction

/-- MAJ 0x02 (R79, R88): F4 selects the function. -/
def dec02 (k : Bool) (d a b f4 : Nat) : Except Reject Instr :=
  match f4 with
  | 0 => .ok (.fadd k (.ofNat 7 d) (.ofNat 7 a) (.ofNat 7 b))
  | 1 => .ok (.fsub k (.ofNat 7 d) (.ofNat 7 a) (.ofNat 7 b))
  | 2 => .ok (.fmul k (.ofNat 7 d) (.ofNat 7 a) (.ofNat 7 b))
  | 3 => .ok (.fdiv k (.ofNat 7 d) (.ofNat 7 a) (.ofNat 7 b))
  | 4 => .ok (.ffma k (.ofNat 7 d) (.ofNat 7 a) (.ofNat 7 b))
  | 5 => chk [(b == 0, .unusedField)] (.fsqrt k (.ofNat 7 d) (.ofNat 7 a))
  | 6 => .ok (.fmin k (.ofNat 7 d) (.ofNat 7 a) (.ofNat 7 b))
  | 7 => .ok (.fmax k (.ofNat 7 d) (.ofNat 7 a) (.ofNat 7 b))
  | 8 => .ok (.feq k (.ofNat 7 d) (.ofNat 7 a) (.ofNat 7 b))
  | 9 => .ok (.flt k (.ofNat 7 d) (.ofNat 7 a) (.ofNat 7 b))
  | 10 => .ok (.fle k (.ofNat 7 d) (.ofNat 7 a) (.ofNat 7 b))
  | 11 => chk [(b == 0, .unusedField)] (.fcvtI k (.ofNat 7 d) (.ofNat 7 a))
  | 12 => chk [(b == 0, .unusedField)] (.fcvtN k (.ofNat 7 d) (.ofNat 7 a))
  | 13 => chk [(b == 0, .unusedField)] (.fcvtFi k (.ofNat 7 d) (.ofNat 7 a))
  | 14 => chk [(b == 0, .unusedField)] (.fcvtFn k (.ofNat 7 d) (.ofNat 7 a))
  | _ => .error .unassignedFunction

/-- MAJ 0x03 (R79, R88): F4 selects the function. -/
def dec03 (k : Bool) (d a b f4 : Nat) : Except Reject Instr :=
  match f4 with
  | 0 => .ok (.mul k (.ofNat 7 d) (.ofNat 7 a) (.ofNat 7 b))
  | 1 => .ok (.mulh k (.ofNat 7 d) (.ofNat 7 a) (.ofNat 7 b))
  | 2 => .ok (.mulhn k (.ofNat 7 d) (.ofNat 7 a) (.ofNat 7 b))
  | 3 => .ok (.div k (.ofNat 7 d) (.ofNat 7 a) (.ofNat 7 b))
  | 4 => .ok (.divn k (.ofNat 7 d) (.ofNat 7 a) (.ofNat 7 b))
  | 5 => .ok (.rem k (.ofNat 7 d) (.ofNat 7 a) (.ofNat 7 b))
  | 6 => .ok (.remn k (.ofNat 7 d) (.ofNat 7 a) (.ofNat 7 b))
  | _ => .error .unassignedFunction

/-- MAJ 0x1b (R79, R88): F4 selects the function. -/
def dec1B (k : Bool) (d a b f4 : Nat) : Except Reject Instr :=
  match f4 with
  | 0 => chk [(b == 0, .unusedField)] (.lrx k (.ofNat 7 d) (.ofNat 7 a))
  | 1 => .ok (.scx k (.ofNat 7 d) (.ofNat 7 a) (.ofNat 7 b))
  | 2 => .ok (.aswap k (.ofNat 7 d) (.ofNat 7 a) (.ofNat 7 b))
  | 3 => .ok (.aadd k (.ofNat 7 d) (.ofNat 7 a) (.ofNat 7 b))
  | 4 => .ok (.aand k (.ofNat 7 d) (.ofNat 7 a) (.ofNat 7 b))
  | 5 => .ok (.aor k (.ofNat 7 d) (.ofNat 7 a) (.ofNat 7 b))
  | 6 => .ok (.axor k (.ofNat 7 d) (.ofNat 7 a) (.ofNat 7 b))
  | 7 => .ok (.amax k (.ofNat 7 d) (.ofNat 7 a) (.ofNat 7 b))
  | 8 => .ok (.amin k (.ofNat 7 d) (.ofNat 7 a) (.ofNat 7 b))
  | 9 => .ok (.amaxn k (.ofNat 7 d) (.ofNat 7 a) (.ofNat 7 b))
  | 10 => .ok (.aminn k (.ofNat 7 d) (.ofNat 7 a) (.ofNat 7 b))
  | 11 => .ok (.acas k (.ofNat 7 d) (.ofNat 7 a) (.ofNat 7 b))
  | 12 => .ok (.ainc k (.ofNat 7 d) (.ofNat 7 a) (.ofNat 7 b))
  | 13 => .ok (.afab k (.ofNat 7 d) (.ofNat 7 a) (.ofNat 7 b))
  | _ => .error .unassignedFunction

/-- MAJ 0x1c (R79, R88): F4 selects the function. -/
noncomputable def dec1C (k : Bool) (d a b f4 : Nat) : Except Reject Instr :=
  match f4 with
  | 0 => chk [(b == 0, .unusedField)] (.lrx32 k (.ofNat 7 d) (.ofNat 7 a))
  | 1 => .ok (.scx32 k (.ofNat 7 d) (.ofNat 7 a) (.ofNat 7 b))
  | 2 => .ok (.aswap32 k (.ofNat 7 d) (.ofNat 7 a) (.ofNat 7 b))
  | 3 => .ok (.aadd32 k (.ofNat 7 d) (.ofNat 7 a) (.ofNat 7 b))
  | 4 => .ok (.aand32 k (.ofNat 7 d) (.ofNat 7 a) (.ofNat 7 b))
  | 5 => .ok (.aor32 k (.ofNat 7 d) (.ofNat 7 a) (.ofNat 7 b))
  | 6 => .ok (.axor32 k (.ofNat 7 d) (.ofNat 7 a) (.ofNat 7 b))
  | 7 => .ok (.amax32 k (.ofNat 7 d) (.ofNat 7 a) (.ofNat 7 b))
  | 8 => .ok (.amin32 k (.ofNat 7 d) (.ofNat 7 a) (.ofNat 7 b))
  | 9 => .ok (.amaxn32 k (.ofNat 7 d) (.ofNat 7 a) (.ofNat 7 b))
  | 10 => .ok (.aminn32 k (.ofNat 7 d) (.ofNat 7 a) (.ofNat 7 b))
  | 11 => .ok (.acas32 k (.ofNat 7 d) (.ofNat 7 a) (.ofNat 7 b))
  | 12 => .ok (.ainc32 k (.ofNat 7 d) (.ofNat 7 a) (.ofNat 7 b))
  | 13 => .ok (.afab32 k (.ofNat 7 d) (.ofNat 7 a) (.ofNat 7 b))
  | _ => .error .unassignedFunction

/-- MAJ 0x20 (R83, R85, R87): fn3 selects the function, bit [6] is M or SRC (R74). -/
def dec20 (k : Bool) (d a b fn3 : Nat) (m : Bool) : Except Reject Instr :=
  match fn3 with
  | 0 => .ok (.vadd k (.ofNat 7 d) (.ofNat 7 a) (.ofNat 7 b) m)
  | 1 => .ok (.vsub k (.ofNat 7 d) (.ofNat 7 a) (.ofNat 7 b) m)
  | 2 => .ok (.vmul k (.ofNat 7 d) (.ofNat 7 a) (.ofNat 7 b) m)
  | 3 => .ok (.vdiv k (.ofNat 7 d) (.ofNat 7 a) (.ofNat 7 b) m)
  | 4 => .ok (.vmin k (.ofNat 7 d) (.ofNat 7 a) (.ofNat 7 b) m)
  | 5 => .ok (.vmax k (.ofNat 7 d) (.ofNat 7 a) (.ofNat 7 b) m)
  | _ => .error .unassignedFunction

/-- MAJ 0x21 (R83, R85, R87): fn3 selects the function, bit [6] is M or SRC (R74). -/
def dec21 (k : Bool) (d a b fn3 : Nat) (m : Bool) : Except Reject Instr :=
  match fn3 with
  | 0 => .ok (.vaddVx k (.ofNat 7 d) (.ofNat 7 a) (.ofNat 7 b) m)
  | 1 => .ok (.vsubVx k (.ofNat 7 d) (.ofNat 7 a) (.ofNat 7 b) m)
  | 2 => .ok (.vmulVx k (.ofNat 7 d) (.ofNat 7 a) (.ofNat 7 b) m)
  | 3 => .ok (.vdivVx k (.ofNat 7 d) (.ofNat 7 a) (.ofNat 7 b) m)
  | 4 => .ok (.vminVx k (.ofNat 7 d) (.ofNat 7 a) (.ofNat 7 b) m)
  | 5 => .ok (.vmaxVx k (.ofNat 7 d) (.ofNat 7 a) (.ofNat 7 b) m)
  | _ => .error .unassignedFunction

/-- MAJ 0x22 (R83, R85, R87): fn3 selects the function, bit [6] is M or SRC (R74). -/
def dec22 (k : Bool) (d a b fn3 : Nat) (m : Bool) : Except Reject Instr :=
  match fn3 with
  | 0 => .ok (.vfma k (.ofNat 7 d) (.ofNat 7 a) (.ofNat 7 b) m)
  | 1 => .ok (.vfms k (.ofNat 7 d) (.ofNat 7 a) (.ofNat 7 b) m)
  | 2 => .ok (.vfnma k (.ofNat 7 d) (.ofNat 7 a) (.ofNat 7 b) m)
  | 3 => .ok (.vfnms k (.ofNat 7 d) (.ofNat 7 a) (.ofNat 7 b) m)
  | 4 => .ok (.vfmaVx k (.ofNat 7 d) (.ofNat 7 a) (.ofNat 7 b) m)
  | 5 => .ok (.vfmsVx k (.ofNat 7 d) (.ofNat 7 a) (.ofNat 7 b) m)
  | 6 => .ok (.vfnmaVx k (.ofNat 7 d) (.ofNat 7 a) (.ofNat 7 b) m)
  | 7 => .ok (.vfnmsVx k (.ofNat 7 d) (.ofNat 7 a) (.ofNat 7 b) m)
  | _ => .error .unassignedFunction

/-- MAJ 0x23 (R83, R85, R87): fn3 selects the function, bit [6] is M or SRC (R74). -/
def dec23 (k : Bool) (d a b fn3 : Nat) (m : Bool) : Except Reject Instr :=
  match fn3 with
  | 0 => chk [(b == 0, .unusedField)] (.vsqrt k (.ofNat 7 d) (.ofNat 7 a) m)
  | 1 => chk [(b == 0, .unusedField)] (.vrsqrt k (.ofNat 7 d) (.ofNat 7 a) m)
  | 2 => chk [(b == 0, .unusedField)] (.vexp k (.ofNat 7 d) (.ofNat 7 a) m)
  | 3 => chk [(b == 0, .unusedField)] (.vlog k (.ofNat 7 d) (.ofNat 7 a) m)
  | 4 => chk [(b == 0, .unusedField)] (.vtanh k (.ofNat 7 d) (.ofNat 7 a) m)
  | 5 => chk [(b == 0, .unusedField)] (.vsigmoid k (.ofNat 7 d) (.ofNat 7 a) m)
  | 6 => chk [(b == 0, .unusedField)] (.vfloor k (.ofNat 7 d) (.ofNat 7 a) m)
  | 7 => chk [(b == 0, .unusedField)] (.vround k (.ofNat 7 d) (.ofNat 7 a) m)
  | _ => .error .unassignedFunction

/-- MAJ 0x24 (R83, R85, R87): fn3 selects the function, bit [6] is M or SRC (R74). -/
def dec24 (k : Bool) (d a b fn3 : Nat) (m : Bool) : Except Reject Instr :=
  match fn3 with
  | 0 => chk [(b == 0, .unusedField)] (.vabs k (.ofNat 7 d) (.ofNat 7 a) m)
  | 1 => chk [(b == 0, .unusedField)] (.vneg k (.ofNat 7 d) (.ofNat 7 a) m)
  | 2 => chk [(b == 0, .unusedField)] (.vrelu k (.ofNat 7 d) (.ofNat 7 a) m)
  | 3 => chk [(b == 0, .unusedField)] (.vmov k (.ofNat 7 d) (.ofNat 7 a) m)
  | _ => .error .unassignedFunction

/-- MAJ 0x25 (R83, R85, R87): fn3 selects the function, bit [6] is M or SRC (R74). -/
def dec25 (k : Bool) (d a b fn3 : Nat) (m : Bool) : Except Reject Instr :=
  match fn3 with
  | 0 => chk [(decide (d < 8), .narrowField)] (.veq k (.ofNat 3 d) (.ofNat 7 a) (.ofNat 7 b) m)
  | 1 => chk [(decide (d < 8), .narrowField)] (.vne k (.ofNat 3 d) (.ofNat 7 a) (.ofNat 7 b) m)
  | 2 => chk [(decide (d < 8), .narrowField)] (.vlt k (.ofNat 3 d) (.ofNat 7 a) (.ofNat 7 b) m)
  | 3 => chk [(decide (d < 8), .narrowField)] (.vle k (.ofNat 3 d) (.ofNat 7 a) (.ofNat 7 b) m)
  | 4 => chk [(decide (d < 8), .narrowField)] (.veqVx k (.ofNat 3 d) (.ofNat 7 a) (.ofNat 7 b) m)
  | 5 => chk [(decide (d < 8), .narrowField)] (.vneVx k (.ofNat 3 d) (.ofNat 7 a) (.ofNat 7 b) m)
  | 6 => chk [(decide (d < 8), .narrowField)] (.vltVx k (.ofNat 3 d) (.ofNat 7 a) (.ofNat 7 b) m)
  | 7 => chk [(decide (d < 8), .narrowField)] (.vleVx k (.ofNat 3 d) (.ofNat 7 a) (.ofNat 7 b) m)
  | _ => .error .unassignedFunction

/-- MAJ 0x26 (R83, R85, R87): fn3 selects the function, bit [6] is M or SRC (R74). -/
def dec26 (k : Bool) (d a b fn3 : Nat) (m : Bool) : Except Reject Instr :=
  match fn3 with
  | 0 => chk [(!m, .maskBit)] (.vsel k (.ofNat 7 d) (.ofNat 7 a) (.ofNat 7 b))
  | 1 => chk [(decide (d < 8), .narrowField), (decide (a < 8), .narrowField), (decide (b < 8), .narrowField), (!m, .maskBit)] (.qand k (.ofNat 3 d) (.ofNat 3 a) (.ofNat 3 b))
  | 2 => chk [(decide (d < 8), .narrowField), (decide (a < 8), .narrowField), (decide (b < 8), .narrowField), (!m, .maskBit)] (.qor k (.ofNat 3 d) (.ofNat 3 a) (.ofNat 3 b))
  | 3 => chk [(decide (d < 8), .narrowField), (decide (a < 8), .narrowField), (decide (b < 8), .narrowField), (!m, .maskBit)] (.qxor k (.ofNat 3 d) (.ofNat 3 a) (.ofNat 3 b))
  | 4 => chk [(decide (d < 8), .narrowField), (decide (a < 8), .narrowField), (decide (b < 8), .narrowField), (!m, .maskBit)] (.qsub k (.ofNat 3 d) (.ofNat 3 a) (.ofNat 3 b))
  | 5 => chk [(decide (d < 8), .narrowField), (decide (a < 8), .narrowField), (b == 0, .unusedField), (!m, .maskBit)] (.qnot k (.ofNat 3 d) (.ofNat 3 a))
  | 6 => chk [(decide (d < 8), .narrowField), (decide (a < 8), .narrowField), (b == 0, .unusedField), (!m, .maskBit)] (.qcpy k (.ofNat 3 d) (.ofNat 3 a))
  | _ => .error .unassignedFunction

/-- MAJ 0x27 (R83, R85, R87): fn3 selects the function, bit [6] is M or SRC (R74). -/
def dec27 (k : Bool) (d a b fn3 : Nat) (m : Bool) : Except Reject Instr :=
  match fn3 with
  | 0 => .ok (.viadd k (.ofNat 7 d) (.ofNat 7 a) (.ofNat 7 b) m)
  | 1 => .ok (.visub k (.ofNat 7 d) (.ofNat 7 a) (.ofNat 7 b) m)
  | 2 => .ok (.vimul k (.ofNat 7 d) (.ofNat 7 a) (.ofNat 7 b) m)
  | 3 => .ok (.vimulh k (.ofNat 7 d) (.ofNat 7 a) (.ofNat 7 b) m)
  | 4 => .ok (.vimin k (.ofNat 7 d) (.ofNat 7 a) (.ofNat 7 b) m)
  | 5 => .ok (.vimax k (.ofNat 7 d) (.ofNat 7 a) (.ofNat 7 b) m)
  | 6 => .ok (.vidiv k (.ofNat 7 d) (.ofNat 7 a) (.ofNat 7 b) m)
  | 7 => .ok (.virem k (.ofNat 7 d) (.ofNat 7 a) (.ofNat 7 b) m)
  | _ => .error .unassignedFunction

/-- MAJ 0x28 (R83, R85, R87): fn3 selects the function, bit [6] is M or SRC (R74). -/
def dec28 (k : Bool) (d a b fn3 : Nat) (m : Bool) : Except Reject Instr :=
  match fn3 with
  | 0 => .ok (.vand k (.ofNat 7 d) (.ofNat 7 a) (.ofNat 7 b) m)
  | 1 => .ok (.vor k (.ofNat 7 d) (.ofNat 7 a) (.ofNat 7 b) m)
  | 2 => .ok (.vxor k (.ofNat 7 d) (.ofNat 7 a) (.ofNat 7 b) m)
  | 3 => .ok (.vsll k (.ofNat 7 d) (.ofNat 7 a) (.ofNat 7 b) m)
  | 4 => .ok (.vsrl k (.ofNat 7 d) (.ofNat 7 a) (.ofNat 7 b) m)
  | 5 => .ok (.vsra k (.ofNat 7 d) (.ofNat 7 a) (.ofNat 7 b) m)
  | _ => .error .unassignedFunction

/-- MAJ 0x29 (R83, R85, R87): fn3 selects the function, bit [6] is M or SRC (R74). -/
def dec29 (k : Bool) (d a b fn3 : Nat) (m : Bool) : Except Reject Instr :=
  match fn3 with
  | 0 => .ok (.viaddVx k (.ofNat 7 d) (.ofNat 7 a) (.ofNat 7 b) m)
  | 1 => .ok (.vimulVx k (.ofNat 7 d) (.ofNat 7 a) (.ofNat 7 b) m)
  | 2 => .ok (.vandVx k (.ofNat 7 d) (.ofNat 7 a) (.ofNat 7 b) m)
  | 3 => .ok (.vorVx k (.ofNat 7 d) (.ofNat 7 a) (.ofNat 7 b) m)
  | 4 => .ok (.vxorVx k (.ofNat 7 d) (.ofNat 7 a) (.ofNat 7 b) m)
  | 5 => .ok (.vsllVx k (.ofNat 7 d) (.ofNat 7 a) (.ofNat 7 b) m)
  | 6 => .ok (.vsrlVx k (.ofNat 7 d) (.ofNat 7 a) (.ofNat 7 b) m)
  | 7 => .ok (.vsraVx k (.ofNat 7 d) (.ofNat 7 a) (.ofNat 7 b) m)
  | _ => .error .unassignedFunction

/-- MAJ 0x2a (R83, R85, R87): fn3 selects the function, bit [6] is M or SRC (R74). -/
def dec2A (k : Bool) (d a b fn3 : Nat) (m : Bool) : Except Reject Instr :=
  match fn3 with
  | 0 => chk [(decide (b < 16), .narrowField), (!(decide (5 ≤ b) && decide (b ≤ 7)), .reservedField)] (.vcvtTo k (.ofNat 7 d) (.ofNat 7 a) (.ofNat 4 b) m)
  | 1 => chk [(decide (b < 16), .narrowField), (!(decide (5 ≤ b) && decide (b ≤ 7)), .reservedField)] (.vcvtFrom k (.ofNat 7 d) (.ofNat 7 a) (.ofNat 4 b) m)
  | _ => .error .unassignedFunction

/-- MAJ 0x2b (R83, R85, R87): fn3 selects the function, bit [6] is M or SRC (R74). -/
def dec2B (k : Bool) (d a b fn3 : Nat) (m : Bool) : Except Reject Instr :=
  match fn3 with
  | 0 => chk [(b == 0, .unusedField)] (.vredsum k (.ofNat 7 d) (.ofNat 7 a) m)
  | 1 => chk [(b == 0, .unusedField)] (.vredmax k (.ofNat 7 d) (.ofNat 7 a) m)
  | 2 => chk [(b == 0, .unusedField)] (.vredmin k (.ofNat 7 d) (.ofNat 7 a) m)
  | 3 => chk [(b == 0, .unusedField)] (.vredand k (.ofNat 7 d) (.ofNat 7 a) m)
  | 4 => chk [(b == 0, .unusedField)] (.vredor k (.ofNat 7 d) (.ofNat 7 a) m)
  | 5 => chk [(b == 0, .unusedField)] (.vredxor k (.ofNat 7 d) (.ofNat 7 a) m)
  | _ => .error .unassignedFunction

/-- MAJ 0x2c (R83, R85, R87): fn3 selects the function, bit [6] is M or SRC (R74). -/
def dec2C (k : Bool) (d a b fn3 : Nat) (m : Bool) : Except Reject Instr :=
  match fn3 with
  | 0 => chk [(a == 0, .unusedField), (b == 0, .unusedField)] (.vid k (.ofNat 7 d) m)
  | 1 => .ok (.vslideup k (.ofNat 7 d) (.ofNat 7 a) (.ofNat 7 b) m)
  | 2 => .ok (.vslidedn k (.ofNat 7 d) (.ofNat 7 a) (.ofNat 7 b) m)
  | 3 => .ok (.vshuf k (.ofNat 7 d) (.ofNat 7 a) (.ofNat 7 b) m)
  | 4 => chk [(b == 0, .unusedField), (!m, .maskBit)] (.vcompress k (.ofNat 7 d) (.ofNat 7 a))
  | 5 => chk [(b == 0, .unusedField)] (.vbcast k (.ofNat 7 d) (.ofNat 7 a) m)
  | _ => .error .unassignedFunction

/-- MAJ 0x2d (R83, R85, R87): fn3 selects the function, bit [6] is M or SRC (R74). -/
def dec2D (k : Bool) (d a b fn3 : Nat) (m : Bool) : Except Reject Instr :=
  match fn3 with
  | 0 => chk [(b == 0, .unusedField)] (.vhail k (.ofNat 7 d) (.ofNat 7 a) m)
  | 1 => chk [(decide (d < 8), .narrowField), (!m, .maskBit)] (.vbern k (.ofNat 3 d) (.ofNat 7 a) (.ofNat 7 b))
  | _ => .error .unassignedFunction

/-- MAJ 0x2e (R83, R85, R87): fn3 selects the function, bit [6] is M or SRC (R74). -/
def dec2E (k : Bool) (d a b fn3 : Nat) (m : Bool) : Except Reject Instr :=
  match fn3 with
  | 0 => .ok (.vseed k (.ofNat 7 d) (.ofNat 7 a) (.ofNat 7 b) m)
  | 1 => chk [(a == 0, .unusedField), (b == 0, .unusedField)] (.vtclr k (.ofNat 7 d) m)
  | 2 => .ok (.vtget k (.ofNat 7 d) (.ofNat 7 a) (.ofNat 7 b) m)
  | 3 => .ok (.vtset k (.ofNat 7 d) (.ofNat 7 a) (.ofNat 7 b) m)
  | 4 => .ok (.vfgu k (.ofNat 7 d) (.ofNat 7 a) (.ofNat 7 b) m)
  | _ => .error .unassignedFunction

/-- MAJ 0x2f (R83, R85, R87): fn3 selects the function, bit [6] is M or SRC (R74). -/
noncomputable def dec2F (k : Bool) (d a b fn3 : Nat) (m : Bool) : Except Reject Instr :=
  match fn3 with
  | 0 => chk [(b == 0, .unusedField), (!m, .maskBit)] (.vcfg k (.ofNat 7 d) (.ofNat 7 a))
  | 1 => chk [(b == 0, .unusedField), (!m, .maskBit)] (.vgrant k (.ofNat 7 d) (.ofNat 7 a))
  | 2 => chk [(d == 0, .unusedField), (b == 0, .unusedField), (!m, .maskBit)] (.wbase k (.ofNat 7 a))
  | _ => .error .unassignedFunction

/-- MAJ 0x30 (R83, R85, R87): fn3 selects the function, bit [6] is M or SRC (R74). -/
def dec30 (k : Bool) (d a b fn3 : Nat) (m : Bool) : Except Reject Instr :=
  match fn3 with
  | 0 => chk [(b == 0, .unusedField)] (.vld k (.ofNat 7 d) (.ofNat 7 a) m)
  | 1 => .ok (.vlds k (.ofNat 7 d) (.ofNat 7 a) (.ofNat 7 b) m)
  | 2 => .ok (.vldx k (.ofNat 7 d) (.ofNat 7 a) (.ofNat 7 b) m)
  | 3 => chk [(b == 0, .unusedField)] (.vst k (.ofNat 7 d) (.ofNat 7 a) m)
  | 4 => chk [(b == 0, .unusedField)] (.vstU k (.ofNat 7 d) (.ofNat 7 a) m)
  | 5 => .ok (.vsts k (.ofNat 7 d) (.ofNat 7 a) (.ofNat 7 b) m)
  | 6 => .ok (.vstx k (.ofNat 7 d) (.ofNat 7 a) (.ofNat 7 b) m)
  | 7 => .ok (.vstxU k (.ofNat 7 d) (.ofNat 7 a) (.ofNat 7 b) m)
  | _ => .error .unassignedFunction

/-- MAJ 0x31 (R83, R85, R87): fn3 selects the function, bit [6] is M or SRC (R74). -/
def dec31 (k : Bool) (d a b fn3 : Nat) (m : Bool) : Except Reject Instr :=
  match fn3 with
  | 0 => chk [(b / 64 == 0, .reservedField), (b / 16 % 4 == 0, .unusedField), (b / 4 % 4 != 3, .reservedField), (b % 4 != 3, .reservedField)] (.vldw k (.ofNat 7 d) (.ofNat 7 a) (.ofNat 2 (b / 4 % 4)) (.ofNat 2 (b % 4)) m)
  | 1 => chk [(b / 64 == 0, .reservedField), (b / 16 % 4 == 0, .unusedField), (b / 4 % 4 == 0, .reservedField), (b / 2 % 2 == 0, .reservedField)] (.vstw k (.ofNat 7 d) (.ofNat 7 a) (b % 2 == 1) m)
  | 2 => chk [(b / 16 % 4 == 0, .unusedField), (b / 4 % 4 != 3, .reservedField), (b % 4 != 3, .reservedField)] (.vlda k (.ofNat 7 d) (.ofNat 7 a) (b / 64 == 1) (.ofNat 2 (b / 4 % 4)) (.ofNat 2 (b % 4)) m)
  | 3 => chk [(b / 16 % 4 == 0, .unusedField), (b / 4 % 4 == 0, .reservedField), (b / 2 % 2 == 0, .reservedField)] (.vsta k (.ofNat 7 d) (.ofNat 7 a) (b / 64 == 1) (b % 2 == 1) m)
  | 4 => chk [(b / 16 % 4 == 0, .unusedField), (b / 4 % 4 != 3, .reservedField), (b % 4 != 3, .reservedField)] (.vldc k (.ofNat 7 d) (.ofNat 7 a) (b / 64 == 1) (.ofNat 2 (b / 4 % 4)) (.ofNat 2 (b % 4)) m)
  | 5 => chk [(b / 16 % 4 == 0, .unusedField), (b / 4 % 4 == 0, .reservedField), (b / 2 % 2 == 0, .reservedField)] (.vstc k (.ofNat 7 d) (.ofNat 7 a) (b / 64 == 1) (b % 2 == 1) m)
  | _ => .error .unassignedFunction

/-- MAJ 0x32 (R83, R85, R87): fn3 selects the function, bit [6] is M or SRC (R74). -/
def dec32 (k : Bool) (d a b fn3 : Nat) (m : Bool) : Except Reject Instr :=
  match fn3 with
  | 0 => .ok (.vaadd k (.ofNat 7 d) (.ofNat 7 a) (.ofNat 7 b) m)
  | 1 => .ok (.vaswap k (.ofNat 7 d) (.ofNat 7 a) (.ofNat 7 b) m)
  | 2 => .ok (.vamax k (.ofNat 7 d) (.ofNat 7 a) (.ofNat 7 b) m)
  | 3 => .ok (.vamin k (.ofNat 7 d) (.ofNat 7 a) (.ofNat 7 b) m)
  | 4 => .ok (.vamaxn k (.ofNat 7 d) (.ofNat 7 a) (.ofNat 7 b) m)
  | 5 => .ok (.vaminn k (.ofNat 7 d) (.ofNat 7 a) (.ofNat 7 b) m)
  | 6 => .ok (.vaand k (.ofNat 7 d) (.ofNat 7 a) (.ofNat 7 b) m)
  | 7 => .ok (.vaor k (.ofNat 7 d) (.ofNat 7 a) (.ofNat 7 b) m)
  | _ => .error .unassignedFunction

/-- MAJ 0x33 (R83, R85, R87): fn3 selects the function, bit [6] is M or SRC (R74). -/
def dec33 (k : Bool) (d a b fn3 : Nat) (m : Bool) : Except Reject Instr :=
  match fn3 with
  | 0 => .ok (.vaaddO k (.ofNat 7 d) (.ofNat 7 a) (.ofNat 7 b) m)
  | 1 => .ok (.vaswapO k (.ofNat 7 d) (.ofNat 7 a) (.ofNat 7 b) m)
  | 2 => .ok (.vamaxO k (.ofNat 7 d) (.ofNat 7 a) (.ofNat 7 b) m)
  | 3 => .ok (.vaminO k (.ofNat 7 d) (.ofNat 7 a) (.ofNat 7 b) m)
  | 4 => .ok (.vamaxnO k (.ofNat 7 d) (.ofNat 7 a) (.ofNat 7 b) m)
  | 5 => .ok (.vaminnO k (.ofNat 7 d) (.ofNat 7 a) (.ofNat 7 b) m)
  | 6 => .ok (.vaandO k (.ofNat 7 d) (.ofNat 7 a) (.ofNat 7 b) m)
  | 7 => .ok (.vaorO k (.ofNat 7 d) (.ofNat 7 a) (.ofNat 7 b) m)
  | _ => .error .unassignedFunction

/-- MAJ 0x34 (R83, R85, R87): fn3 selects the function, bit [6] is M or SRC (R74). -/
def dec34 (k : Bool) (d a b fn3 : Nat) (m : Bool) : Except Reject Instr :=
  match fn3 with
  | 0 => chk [(decide (a < 32), .narrowField), (b == 0, .unusedField)] (.vsld k (.ofNat 7 d) (.ofNat 5 a) m)
  | 1 => chk [(decide (a < 32), .narrowField), (b == 0, .unusedField)] (.vsst k (.ofNat 7 d) (.ofNat 5 a) m)
  | 2 => chk [(decide (a < 32), .narrowField), (b == 0, .unusedField), (!m, .maskBit)] (.vbind k (.ofNat 7 d) (.ofNat 5 a))
  | 3 => chk [(decide (a < 32), .narrowField), (b == 0, .unusedField), (!m, .maskBit)] (.vunbind k (.ofNat 7 d) (.ofNat 5 a))
  | 4 => chk [(d == 0, .unusedField), (decide (a < 32), .narrowField), (!m, .maskBit)] (.hset k (.ofNat 5 a) (.ofNat 7 b))
  | 5 => chk [(d == 0, .unusedField), (!m, .maskBit)] (.vscl k (.ofNat 7 a) (.ofNat 7 b))
  | _ => .error .unassignedFunction

/-- MAJ 0x35 (R83, R85, R87): fn3 selects the function, bit [6] is M or SRC (R74). -/
def dec35 (k : Bool) (d a b fn3 : Nat) (m : Bool) : Except Reject Instr :=
  match fn3 with
  | 0 => chk [(b / 16 != 0, .reservedField)] (.vldnp k (.ofNat 7 d) (.ofNat 7 a) (.ofNat 3 (b / 16)) (.ofNat 4 (b % 16)) m)
  | _ => .error .unassignedFunction

/-- MAJ 0x38 (R83, R85, R87): fn3 selects the function, bit [6] is M or SRC (R74). -/
def dec38 (k : Bool) (d a b fn3 : Nat) (m : Bool) : Except Reject Instr :=
  match fn3 with
  | 0 => chk [(b == 0, .unusedField), (!m, .maskBit)] (.mshape k (.ofNat 7 d) (.ofNat 7 a))
  | 1 => chk [(d == 0, .unusedField), (b == 0, .unusedField), (!m, .maskBit)] (.mlds k (.ofNat 7 a))
  | 2 => chk [(decide (d < 16), .narrowField), (a == 0, .unusedField), (b == 0, .unusedField), (!m, .maskBit)] (.mzero k (.ofNat 4 d))
  | 3 => chk [(a == 0, .unusedField), (b == 0, .unusedField), (!m, .maskBit)] (.mstat k (.ofNat 7 d))
  | _ => .error .unassignedFunction

/-- MAJ 0x39 (R83, R85, R87): fn3 selects the function, bit [6] is M or SRC (R74). -/
def dec39 (k : Bool) (d a b fn3 : Nat) (m : Bool) : Except Reject Instr :=
  match fn3 with
  | 0 => chk [(decide (d < 16), .narrowField), (if m then a == 0 else b == 0, .unusedField)] (.mmulBf16 k (.ofNat 4 d) (.ofNat 7 a) (.ofNat 7 b) m)
  | 1 => chk [(decide (d < 16), .narrowField), (if m then a == 0 else b == 0, .unusedField)] (.mmulE4m3 k (.ofNat 4 d) (.ofNat 7 a) (.ofNat 7 b) m)
  | 2 => chk [(decide (d < 16), .narrowField), (if m then a == 0 else b == 0, .unusedField)] (.mmulE5m2 k (.ofNat 4 d) (.ofNat 7 a) (.ofNat 7 b) m)
  | 3 => chk [(decide (d < 16), .narrowField), (if m then a == 0 else b == 0, .unusedField)] (.mmulNp4 k (.ofNat 4 d) (.ofNat 7 a) (.ofNat 7 b) m)
  | 4 => chk [(decide (d < 16), .narrowField), (if m then a == 0 else b == 0, .unusedField)] (.mmulNp2 k (.ofNat 4 d) (.ofNat 7 a) (.ofNat 7 b) m)
  | _ => .error .unassignedFunction

/-- MAJ 0x3a (R83, R85, R87): fn3 selects the function, bit [6] is M or SRC (R74). -/
def dec3A (k : Bool) (d a b fn3 : Nat) (m : Bool) : Except Reject Instr :=
  match fn3 with
  | 0 => chk [(decide (d < 16), .narrowField), (if m then a == 0 else b == 0, .unusedField)] (.mmulSpBf16 k (.ofNat 4 d) (.ofNat 7 a) (.ofNat 7 b) m)
  | 1 => chk [(decide (d < 16), .narrowField), (if m then a == 0 else b == 0, .unusedField)] (.mmulSpE4m3 k (.ofNat 4 d) (.ofNat 7 a) (.ofNat 7 b) m)
  | 2 => chk [(decide (d < 16), .narrowField), (if m then a == 0 else b == 0, .unusedField)] (.mmulSpE5m2 k (.ofNat 4 d) (.ofNat 7 a) (.ofNat 7 b) m)
  | 3 => chk [(decide (d < 16), .narrowField), (if m then a == 0 else b == 0, .unusedField)] (.mmulSpNp4 k (.ofNat 4 d) (.ofNat 7 a) (.ofNat 7 b) m)
  | 4 => chk [(decide (d < 16), .narrowField), (if m then a == 0 else b == 0, .unusedField)] (.mmulSpNp2 k (.ofNat 4 d) (.ofNat 7 a) (.ofNat 7 b) m)
  | _ => .error .unassignedFunction

/-- MAJ 0x3b (R83, R85, R87): fn3 selects the function, bit [6] is M or SRC (R74). -/
def dec3B (k : Bool) (d a b fn3 : Nat) (m : Bool) : Except Reject Instr :=
  match fn3 with
  | 0 => chk [(decide (d < 16), .narrowField), (b == 0, .unusedField)] (.mdrain k (.ofNat 4 d) (.ofNat 7 a) m)
  | 1 => chk [(decide (d < 16), .narrowField)] (.mdrainS k (.ofNat 4 d) (.ofNat 7 a) (.ofNat 7 b) m)
  | 2 => chk [(decide (d < 16), .narrowField)] (.mdrainX k (.ofNat 4 d) (.ofNat 7 a) (.ofNat 7 b) m)
  | _ => .error .unassignedFunction

/-- MAJ 0x3c (R79, R88): F4 selects the function. -/
def dec3C (k : Bool) (d a b f4 : Nat) : Except Reject Instr :=
  match f4 with
  | 0 => chk [(decide (d < 8), .narrowField)] (.cpl k (.ofNat 3 d) (.ofNat 7 a) (.ofNat 7 b))
  | 1 => chk [(d == 0, .unusedField)] (.cpgo k (.ofNat 7 a) (.ofNat 7 b))
  | 2 => .ok (.cpv k (.ofNat 7 d) (.ofNat 7 a) (.ofNat 7 b))
  | 3 => chk [(b == 0, .unusedField)] (.dmove k (.ofNat 7 d) (.ofNat 7 a))
  | 4 => chk [(b == 0, .unusedField)] (.dfix k (.ofNat 7 d) (.ofNat 7 a))
  | 5 => .ok (.vdfix k (.ofNat 7 d) (.ofNat 7 a) (.ofNat 7 b))
  | 6 => chk [(a == 0, .unusedField), (b == 0, .unusedField)] (.dsweep k (.ofNat 7 d))
  | 7 => chk [(a == 0, .unusedField), (b == 0, .unusedField)] (.dack k (.ofNat 7 d))
  | 8 => .ok (.dstat k (.ofNat 7 d) (.ofNat 7 a) (.ofNat 7 b))
  | _ => .error .unassignedFunction

/-- MAJ 0x3d (R79, R88): F4 selects the function. -/
def dec3D (k : Bool) (d a b f4 : Nat) : Except Reject Instr :=
  match f4 with
  | 0 => chk [(decide (d < 8), .narrowField), (b == 0, .unusedField)] (.nwr k (.ofNat 3 d) (.ofNat 7 a))
  | 1 => chk [(a == 0, .unusedField), (b == 0, .unusedField)] (.npost k (.ofNat 7 d))
  | 2 => .ok (.nwait k (.ofNat 7 d) (.ofNat 7 a) (.ofNat 7 b))
  | 3 => .ok (.nctr k (.ofNat 7 d) (.ofNat 7 a) (.ofNat 7 b))
  | 4 => .ok (.cgload k (.ofNat 7 d) (.ofNat 7 a) (.ofNat 7 b))
  | 5 => .ok (.cgrun k (.ofNat 7 d) (.ofNat 7 a) (.ofNat 7 b))
  | 6 => .ok (.cgwait k (.ofNat 7 d) (.ofNat 7 a) (.ofNat 7 b))
  | 7 => .ok (.cgstat k (.ofNat 7 d) (.ofNat 7 a) (.ofNat 7 b))
  | _ => .error .unassignedFunction

/-- MAJ 0x3e (R79, R88): F4 selects the function. -/
noncomputable def dec3E (k : Bool) (d a b f4 : Nat) : Except Reject Instr :=
  match f4 with
  | 0 => .ok (.barArrive k (.ofNat 7 d) (.ofNat 7 a) (.ofNat 7 b))
  | 1 => .ok (.barWait k (.ofNat 7 d) (.ofNat 7 a) (.ofNat 7 b))
  | 2 => .ok (.tskDef k (.ofNat 7 d) (.ofNat 7 a) (.ofNat 7 b))
  | 3 => chk [(b == 0, .unusedField)] (.tskDec k (.ofNat 7 d) (.ofNat 7 a))
  | 4 => .ok (.lnch k (.ofNat 7 d) (.ofNat 7 a) (.ofNat 7 b))
  | 5 => .ok (.lwait k (.ofNat 7 d) (.ofNat 7 a) (.ofNat 7 b))
  | 6 => chk [(a == 0, .unusedField), (b == 0, .unusedField)] (.sndClaim k (.ofNat 7 d))
  | 7 => chk [(b == 0, .unusedField)] (.sndGive k (.ofNat 7 d) (.ofNat 7 a))
  | 8 => .ok (.sndStat k (.ofNat 7 d) (.ofNat 7 a) (.ofNat 7 b))
  | _ => .error .unassignedFunction


/-- The decoder on a word of the vector queue (R35), and none for any other. -/
def decodeQueue (n : Nat) : Option (Except Reject Instr) :=
  let k := n / 2 ^ 31 % 2 == 1
  let d := n / 2 ^ 24 % 128
  let a := n / 2 ^ 17 % 128
  let b := n / 2 ^ 10 % 128
  let f4 := n / 64 % 16
  let m := f4 % 2 == 1
  match n % 64 with
  | 0x20 => some (dec20 k d a b (f4 / 2) m)
  | 0x21 => some (dec21 k d a b (f4 / 2) m)
  | 0x22 => some (dec22 k d a b (f4 / 2) m)
  | 0x23 => some (dec23 k d a b (f4 / 2) m)
  | 0x24 => some (dec24 k d a b (f4 / 2) m)
  | 0x25 => some (dec25 k d a b (f4 / 2) m)
  | 0x26 => some (dec26 k d a b (f4 / 2) m)
  | 0x27 => some (dec27 k d a b (f4 / 2) m)
  | 0x28 => some (dec28 k d a b (f4 / 2) m)
  | 0x29 => some (dec29 k d a b (f4 / 2) m)
  | 0x2A => some (dec2A k d a b (f4 / 2) m)
  | 0x2B => some (dec2B k d a b (f4 / 2) m)
  | 0x2C => some (dec2C k d a b (f4 / 2) m)
  | 0x2D => some (dec2D k d a b (f4 / 2) m)
  | 0x2E => some (dec2E k d a b (f4 / 2) m)
  | 0x30 => some (dec30 k d a b (f4 / 2) m)
  | 0x31 => some (dec31 k d a b (f4 / 2) m)
  | 0x32 => some (dec32 k d a b (f4 / 2) m)
  | 0x33 => some (dec33 k d a b (f4 / 2) m)
  | 0x34 => some (dec34 k d a b (f4 / 2) m)
  | 0x35 => some (dec35 k d a b (f4 / 2) m)
  | 0x38 => some (dec38 k d a b (f4 / 2) m)
  | 0x39 => some (dec39 k d a b (f4 / 2) m)
  | 0x3A => some (dec3A k d a b (f4 / 2) m)
  | 0x3B => some (dec3B k d a b (f4 / 2) m)
  | 0x3C => some (dec3C k d a b f4)
  | 0x3D => some (dec3D k d a b f4)
  | _ => none

/-- The decoder on a word given as a number below 2^32. -/
noncomputable def decodeNat (n : Nat) : Except Reject Instr :=
  match decodeQueue n with
  | some r => r
  | none =>
  let k := n / 2 ^ 31 % 2 == 1
  let d := n / 2 ^ 24 % 128
  let a := n / 2 ^ 17 % 128
  let b := n / 2 ^ 10 % 128
  let f4 := n / 64 % 16
  let imm := n / 64 % 2048
  let m := f4 % 2 == 1
  match n % 64 with
  | 0x00 => dec00 k d a imm
  | 0x01 => dec01 k d a b f4
  | 0x02 => dec02 k d a b f4
  | 0x03 => dec03 k d a b f4
  | 0x04 => .ok (.addi k (.ofNat 7 d) (.ofNat 7 a) (.ofNat 11 imm))
  | 0x05 => dec05 k d a imm
  | 0x06 => .ok (.jalr k (.ofNat 7 d) (.ofNat 7 a) (.ofNat 11 imm))
  | 0x07 => .ok (.lim k (.ofNat 7 d) (.ofNat 18 (n / 64 % 2 ^ 18)))
  | 0x08 => .ok (.apc k (.ofNat 7 d) (.ofNat 18 (n / 64 % 2 ^ 18)))
  | 0x09 => .ok (.beq k (.ofNat 7 d) (.ofNat 7 a) (.ofNat 11 imm))
  | 0x0A => .ok (.bne k (.ofNat 7 d) (.ofNat 7 a) (.ofNat 11 imm))
  | 0x0B => .ok (.blt k (.ofNat 7 d) (.ofNat 7 a) (.ofNat 11 imm))
  | 0x0C => .ok (.bge k (.ofNat 7 d) (.ofNat 7 a) (.ofNat 11 imm))
  | 0x0D => .ok (.bltn k (.ofNat 7 d) (.ofNat 7 a) (.ofNat 11 imm))
  | 0x0E => .ok (.bgen k (.ofNat 7 d) (.ofNat 7 a) (.ofNat 11 imm))
  | 0x0F => .ok (.jal k (.ofNat 25 (n / 64 % 2 ^ 25)))
  | 0x10 => .ok (.ld64 k (.ofNat 7 d) (.ofNat 7 a) (.ofNat 11 imm))
  | 0x11 => .ok (.ld32 k (.ofNat 7 d) (.ofNat 7 a) (.ofNat 11 imm))
  | 0x12 => .ok (.ld32n k (.ofNat 7 d) (.ofNat 7 a) (.ofNat 11 imm))
  | 0x13 => .ok (.ld16 k (.ofNat 7 d) (.ofNat 7 a) (.ofNat 11 imm))
  | 0x14 => .ok (.ld16n k (.ofNat 7 d) (.ofNat 7 a) (.ofNat 11 imm))
  | 0x15 => .ok (.ld8 k (.ofNat 7 d) (.ofNat 7 a) (.ofNat 11 imm))
  | 0x16 => .ok (.ld8n k (.ofNat 7 d) (.ofNat 7 a) (.ofNat 11 imm))
  | 0x17 => .ok (.st64 k (.ofNat 7 d) (.ofNat 7 a) (.ofNat 11 imm))
  | 0x18 => .ok (.st32 k (.ofNat 7 d) (.ofNat 7 a) (.ofNat 11 imm))
  | 0x19 => .ok (.st16 k (.ofNat 7 d) (.ofNat 7 a) (.ofNat 11 imm))
  | 0x1A => .ok (.st8 k (.ofNat 7 d) (.ofNat 7 a) (.ofNat 11 imm))
  | 0x1B => dec1B k d a b f4
  | 0x1C => dec1C k d a b f4
  | 0x1D => dec1D k d a imm
  | 0x1E => chk [(decide (imm < 256), .unassignedSelect), (a == 0, .unusedField), (assignedSelect imm, .unassignedSelect)] (.cget k (.ofNat 7 d) (.ofNat 8 imm))
  | 0x1F => chk [(decide (imm < 256), .unassignedSelect), (d == 0, .unusedField), (assignedSelect imm, .unassignedSelect)] (.cset k (.ofNat 7 a) (.ofNat 8 imm))
  | 0x2F => dec2F k d a b (f4 / 2) m
  | 0x3E => dec3E k d a b f4
  | _ => .error .unassignedMajor

/-- The instruction of a 32-bit word, or why there is none. -/
noncomputable def decode (w : Word32) : Except Reject Instr := decodeNat w.toNat

/-- Format R (R71), and the fields of every format that shares its places. -/
def wordR (maj f4 : Nat) (k : Bool) (d a b : Nat) : Nat :=
  b2n k * 2 ^ 31 + d * 2 ^ 24 + a * 2 ^ 17 + b * 2 ^ 10 + f4 * 64 + maj

/-- Formats I, B and S (R71): two register fields and eleven bits [16:6]. -/
def wordI (maj : Nat) (k : Bool) (d a imm : Nat) : Nat :=
  b2n k * 2 ^ 31 + d * 2 ^ 24 + a * 2 ^ 17 + imm * 64 + maj

/-- Format L (R71). -/
def wordL (maj : Nat) (k : Bool) (d imm : Nat) : Nat := b2n k * 2 ^ 31 + d * 2 ^ 24 + imm * 64 + maj

/-- Format J (R71). -/
def wordJ (maj : Nat) (k : Bool) (off : Nat) : Nat := b2n k * 2 ^ 31 + off * 64 + maj

/-- The word of an instruction as a number, by the formats of R71 and the maps of R78 to R88.  The steps of the machine that
are no words have none. -/
def encodeNat : Instr → Option Nat
  | .vadd k d a b m => some (wordR 0x20 (0 + b2n m) k d.toNat a.toNat b.toNat)
  | .vsub k d a b m => some (wordR 0x20 (2 + b2n m) k d.toNat a.toNat b.toNat)
  | .vmul k d a b m => some (wordR 0x20 (4 + b2n m) k d.toNat a.toNat b.toNat)
  | .vdiv k d a b m => some (wordR 0x20 (6 + b2n m) k d.toNat a.toNat b.toNat)
  | .vmin k d a b m => some (wordR 0x20 (8 + b2n m) k d.toNat a.toNat b.toNat)
  | .vmax k d a b m => some (wordR 0x20 (10 + b2n m) k d.toNat a.toNat b.toNat)
  | .vaddVx k d a b m => some (wordR 0x21 (0 + b2n m) k d.toNat a.toNat b.toNat)
  | .vsubVx k d a b m => some (wordR 0x21 (2 + b2n m) k d.toNat a.toNat b.toNat)
  | .vmulVx k d a b m => some (wordR 0x21 (4 + b2n m) k d.toNat a.toNat b.toNat)
  | .vdivVx k d a b m => some (wordR 0x21 (6 + b2n m) k d.toNat a.toNat b.toNat)
  | .vminVx k d a b m => some (wordR 0x21 (8 + b2n m) k d.toNat a.toNat b.toNat)
  | .vmaxVx k d a b m => some (wordR 0x21 (10 + b2n m) k d.toNat a.toNat b.toNat)
  | .vfma k d a b m => some (wordR 0x22 (0 + b2n m) k d.toNat a.toNat b.toNat)
  | .vfms k d a b m => some (wordR 0x22 (2 + b2n m) k d.toNat a.toNat b.toNat)
  | .vfnma k d a b m => some (wordR 0x22 (4 + b2n m) k d.toNat a.toNat b.toNat)
  | .vfnms k d a b m => some (wordR 0x22 (6 + b2n m) k d.toNat a.toNat b.toNat)
  | .vfmaVx k d a b m => some (wordR 0x22 (8 + b2n m) k d.toNat a.toNat b.toNat)
  | .vfmsVx k d a b m => some (wordR 0x22 (10 + b2n m) k d.toNat a.toNat b.toNat)
  | .vfnmaVx k d a b m => some (wordR 0x22 (12 + b2n m) k d.toNat a.toNat b.toNat)
  | .vfnmsVx k d a b m => some (wordR 0x22 (14 + b2n m) k d.toNat a.toNat b.toNat)
  | .vsqrt k d a m => some (wordR 0x23 (0 + b2n m) k d.toNat a.toNat 0)
  | .vrsqrt k d a m => some (wordR 0x23 (2 + b2n m) k d.toNat a.toNat 0)
  | .vexp k d a m => some (wordR 0x23 (4 + b2n m) k d.toNat a.toNat 0)
  | .vlog k d a m => some (wordR 0x23 (6 + b2n m) k d.toNat a.toNat 0)
  | .vtanh k d a m => some (wordR 0x23 (8 + b2n m) k d.toNat a.toNat 0)
  | .vsigmoid k d a m => some (wordR 0x23 (10 + b2n m) k d.toNat a.toNat 0)
  | .vfloor k d a m => some (wordR 0x23 (12 + b2n m) k d.toNat a.toNat 0)
  | .vround k d a m => some (wordR 0x23 (14 + b2n m) k d.toNat a.toNat 0)
  | .vabs k d a m => some (wordR 0x24 (0 + b2n m) k d.toNat a.toNat 0)
  | .vneg k d a m => some (wordR 0x24 (2 + b2n m) k d.toNat a.toNat 0)
  | .vrelu k d a m => some (wordR 0x24 (4 + b2n m) k d.toNat a.toNat 0)
  | .vmov k d a m => some (wordR 0x24 (6 + b2n m) k d.toNat a.toNat 0)
  | .veq k d a b m => some (wordR 0x25 (0 + b2n m) k d.toNat a.toNat b.toNat)
  | .vne k d a b m => some (wordR 0x25 (2 + b2n m) k d.toNat a.toNat b.toNat)
  | .vlt k d a b m => some (wordR 0x25 (4 + b2n m) k d.toNat a.toNat b.toNat)
  | .vle k d a b m => some (wordR 0x25 (6 + b2n m) k d.toNat a.toNat b.toNat)
  | .veqVx k d a b m => some (wordR 0x25 (8 + b2n m) k d.toNat a.toNat b.toNat)
  | .vneVx k d a b m => some (wordR 0x25 (10 + b2n m) k d.toNat a.toNat b.toNat)
  | .vltVx k d a b m => some (wordR 0x25 (12 + b2n m) k d.toNat a.toNat b.toNat)
  | .vleVx k d a b m => some (wordR 0x25 (14 + b2n m) k d.toNat a.toNat b.toNat)
  | .vsel k d a b => some (wordR 0x26 0 k d.toNat a.toNat b.toNat)
  | .qand k d a b => some (wordR 0x26 2 k d.toNat a.toNat b.toNat)
  | .qor k d a b => some (wordR 0x26 4 k d.toNat a.toNat b.toNat)
  | .qxor k d a b => some (wordR 0x26 6 k d.toNat a.toNat b.toNat)
  | .qsub k d a b => some (wordR 0x26 8 k d.toNat a.toNat b.toNat)
  | .qnot k d a => some (wordR 0x26 10 k d.toNat a.toNat 0)
  | .qcpy k d a => some (wordR 0x26 12 k d.toNat a.toNat 0)
  | .viadd k d a b m => some (wordR 0x27 (0 + b2n m) k d.toNat a.toNat b.toNat)
  | .visub k d a b m => some (wordR 0x27 (2 + b2n m) k d.toNat a.toNat b.toNat)
  | .vimul k d a b m => some (wordR 0x27 (4 + b2n m) k d.toNat a.toNat b.toNat)
  | .vimulh k d a b m => some (wordR 0x27 (6 + b2n m) k d.toNat a.toNat b.toNat)
  | .vimin k d a b m => some (wordR 0x27 (8 + b2n m) k d.toNat a.toNat b.toNat)
  | .vimax k d a b m => some (wordR 0x27 (10 + b2n m) k d.toNat a.toNat b.toNat)
  | .vidiv k d a b m => some (wordR 0x27 (12 + b2n m) k d.toNat a.toNat b.toNat)
  | .virem k d a b m => some (wordR 0x27 (14 + b2n m) k d.toNat a.toNat b.toNat)
  | .vand k d a b m => some (wordR 0x28 (0 + b2n m) k d.toNat a.toNat b.toNat)
  | .vor k d a b m => some (wordR 0x28 (2 + b2n m) k d.toNat a.toNat b.toNat)
  | .vxor k d a b m => some (wordR 0x28 (4 + b2n m) k d.toNat a.toNat b.toNat)
  | .vsll k d a b m => some (wordR 0x28 (6 + b2n m) k d.toNat a.toNat b.toNat)
  | .vsrl k d a b m => some (wordR 0x28 (8 + b2n m) k d.toNat a.toNat b.toNat)
  | .vsra k d a b m => some (wordR 0x28 (10 + b2n m) k d.toNat a.toNat b.toNat)
  | .viaddVx k d a b m => some (wordR 0x29 (0 + b2n m) k d.toNat a.toNat b.toNat)
  | .vimulVx k d a b m => some (wordR 0x29 (2 + b2n m) k d.toNat a.toNat b.toNat)
  | .vandVx k d a b m => some (wordR 0x29 (4 + b2n m) k d.toNat a.toNat b.toNat)
  | .vorVx k d a b m => some (wordR 0x29 (6 + b2n m) k d.toNat a.toNat b.toNat)
  | .vxorVx k d a b m => some (wordR 0x29 (8 + b2n m) k d.toNat a.toNat b.toNat)
  | .vsllVx k d a b m => some (wordR 0x29 (10 + b2n m) k d.toNat a.toNat b.toNat)
  | .vsrlVx k d a b m => some (wordR 0x29 (12 + b2n m) k d.toNat a.toNat b.toNat)
  | .vsraVx k d a b m => some (wordR 0x29 (14 + b2n m) k d.toNat a.toNat b.toNat)
  | .vcvtTo k d a f m => some (wordR 0x2A (0 + b2n m) k d.toNat a.toNat f.toNat)
  | .vcvtFrom k d a f m => some (wordR 0x2A (2 + b2n m) k d.toNat a.toNat f.toNat)
  | .vredsum k d a m => some (wordR 0x2B (0 + b2n m) k d.toNat a.toNat 0)
  | .vredmax k d a m => some (wordR 0x2B (2 + b2n m) k d.toNat a.toNat 0)
  | .vredmin k d a m => some (wordR 0x2B (4 + b2n m) k d.toNat a.toNat 0)
  | .vredand k d a m => some (wordR 0x2B (6 + b2n m) k d.toNat a.toNat 0)
  | .vredor k d a m => some (wordR 0x2B (8 + b2n m) k d.toNat a.toNat 0)
  | .vredxor k d a m => some (wordR 0x2B (10 + b2n m) k d.toNat a.toNat 0)
  | .vid k d m => some (wordR 0x2C (0 + b2n m) k d.toNat 0 0)
  | .vslideup k d a b m => some (wordR 0x2C (2 + b2n m) k d.toNat a.toNat b.toNat)
  | .vslidedn k d a b m => some (wordR 0x2C (4 + b2n m) k d.toNat a.toNat b.toNat)
  | .vshuf k d a b m => some (wordR 0x2C (6 + b2n m) k d.toNat a.toNat b.toNat)
  | .vcompress k d a => some (wordR 0x2C 8 k d.toNat a.toNat 0)
  | .vbcast k d a m => some (wordR 0x2C (10 + b2n m) k d.toNat a.toNat 0)
  | .vhail k d a m => some (wordR 0x2D (0 + b2n m) k d.toNat a.toNat 0)
  | .vbern k d a b => some (wordR 0x2D 2 k d.toNat a.toNat b.toNat)
  | .vseed k d a b m => some (wordR 0x2E (0 + b2n m) k d.toNat a.toNat b.toNat)
  | .vtclr k d m => some (wordR 0x2E (2 + b2n m) k d.toNat 0 0)
  | .vtget k d a b m => some (wordR 0x2E (4 + b2n m) k d.toNat a.toNat b.toNat)
  | .vtset k d a b m => some (wordR 0x2E (6 + b2n m) k d.toNat a.toNat b.toNat)
  | .vfgu k d a b m => some (wordR 0x2E (8 + b2n m) k d.toNat a.toNat b.toNat)
  | .vld k d a m => some (wordR 0x30 (0 + b2n m) k d.toNat a.toNat 0)
  | .vlds k d a b m => some (wordR 0x30 (2 + b2n m) k d.toNat a.toNat b.toNat)
  | .vldx k d a b m => some (wordR 0x30 (4 + b2n m) k d.toNat a.toNat b.toNat)
  | .vst k d a m => some (wordR 0x30 (6 + b2n m) k d.toNat a.toNat 0)
  | .vstU k d a m => some (wordR 0x30 (8 + b2n m) k d.toNat a.toNat 0)
  | .vsts k d a b m => some (wordR 0x30 (10 + b2n m) k d.toNat a.toNat b.toNat)
  | .vstx k d a b m => some (wordR 0x30 (12 + b2n m) k d.toNat a.toNat b.toNat)
  | .vstxU k d a b m => some (wordR 0x30 (14 + b2n m) k d.toNat a.toNat b.toNat)
  | .vldw k d a p e m => some (wordR 0x31 (0 + b2n m) k d.toNat a.toNat (p.toNat * 4 + e.toNat))
  | .vstw k d a e m => some (wordR 0x31 (2 + b2n m) k d.toNat a.toNat (b2n e))
  | .vlda k d a r p e m => some (wordR 0x31 (4 + b2n m) k d.toNat a.toNat (b2n r * 64 + p.toNat * 4 + e.toNat))
  | .vsta k d a r e m => some (wordR 0x31 (6 + b2n m) k d.toNat a.toNat (b2n r * 64 + b2n e))
  | .vldc k d a r p e m => some (wordR 0x31 (8 + b2n m) k d.toNat a.toNat (b2n r * 64 + p.toNat * 4 + e.toNat))
  | .vstc k d a r e m => some (wordR 0x31 (10 + b2n m) k d.toNat a.toNat (b2n r * 64 + b2n e))
  | .vaadd k d a b m => some (wordR 0x32 (0 + b2n m) k d.toNat a.toNat b.toNat)
  | .vaswap k d a b m => some (wordR 0x32 (2 + b2n m) k d.toNat a.toNat b.toNat)
  | .vamax k d a b m => some (wordR 0x32 (4 + b2n m) k d.toNat a.toNat b.toNat)
  | .vamin k d a b m => some (wordR 0x32 (6 + b2n m) k d.toNat a.toNat b.toNat)
  | .vamaxn k d a b m => some (wordR 0x32 (8 + b2n m) k d.toNat a.toNat b.toNat)
  | .vaminn k d a b m => some (wordR 0x32 (10 + b2n m) k d.toNat a.toNat b.toNat)
  | .vaand k d a b m => some (wordR 0x32 (12 + b2n m) k d.toNat a.toNat b.toNat)
  | .vaor k d a b m => some (wordR 0x32 (14 + b2n m) k d.toNat a.toNat b.toNat)
  | .vaaddO k d a b m => some (wordR 0x33 (0 + b2n m) k d.toNat a.toNat b.toNat)
  | .vaswapO k d a b m => some (wordR 0x33 (2 + b2n m) k d.toNat a.toNat b.toNat)
  | .vamaxO k d a b m => some (wordR 0x33 (4 + b2n m) k d.toNat a.toNat b.toNat)
  | .vaminO k d a b m => some (wordR 0x33 (6 + b2n m) k d.toNat a.toNat b.toNat)
  | .vamaxnO k d a b m => some (wordR 0x33 (8 + b2n m) k d.toNat a.toNat b.toNat)
  | .vaminnO k d a b m => some (wordR 0x33 (10 + b2n m) k d.toNat a.toNat b.toNat)
  | .vaandO k d a b m => some (wordR 0x33 (12 + b2n m) k d.toNat a.toNat b.toNat)
  | .vaorO k d a b m => some (wordR 0x33 (14 + b2n m) k d.toNat a.toNat b.toNat)
  | .vsld k d a m => some (wordR 0x34 (0 + b2n m) k d.toNat a.toNat 0)
  | .vsst k d a m => some (wordR 0x34 (2 + b2n m) k d.toNat a.toNat 0)
  | .vbind k d a => some (wordR 0x34 4 k d.toNat a.toNat 0)
  | .vunbind k d a => some (wordR 0x34 6 k d.toNat a.toNat 0)
  | .hset k a b => some (wordR 0x34 8 k 0 a.toNat b.toNat)
  | .vscl k a b => some (wordR 0x34 10 k 0 a.toNat b.toNat)
  | .vldnp k d a p q m => some (wordR 0x35 (0 + b2n m) k d.toNat a.toNat (p.toNat * 16 + q.toNat))
  | .mshape k d a => some (wordR 0x38 0 k d.toNat a.toNat 0)
  | .mlds k a => some (wordR 0x38 2 k 0 a.toNat 0)
  | .mzero k d => some (wordR 0x38 4 k d.toNat 0 0)
  | .mstat k d => some (wordR 0x38 6 k d.toNat 0 0)
  | .mmulBf16 k d a b s => some (wordR 0x39 (0 + b2n s) k d.toNat a.toNat b.toNat)
  | .mmulE4m3 k d a b s => some (wordR 0x39 (2 + b2n s) k d.toNat a.toNat b.toNat)
  | .mmulE5m2 k d a b s => some (wordR 0x39 (4 + b2n s) k d.toNat a.toNat b.toNat)
  | .mmulNp4 k d a b s => some (wordR 0x39 (6 + b2n s) k d.toNat a.toNat b.toNat)
  | .mmulNp2 k d a b s => some (wordR 0x39 (8 + b2n s) k d.toNat a.toNat b.toNat)
  | .mmulSpBf16 k d a b s => some (wordR 0x3A (0 + b2n s) k d.toNat a.toNat b.toNat)
  | .mmulSpE4m3 k d a b s => some (wordR 0x3A (2 + b2n s) k d.toNat a.toNat b.toNat)
  | .mmulSpE5m2 k d a b s => some (wordR 0x3A (4 + b2n s) k d.toNat a.toNat b.toNat)
  | .mmulSpNp4 k d a b s => some (wordR 0x3A (6 + b2n s) k d.toNat a.toNat b.toNat)
  | .mmulSpNp2 k d a b s => some (wordR 0x3A (8 + b2n s) k d.toNat a.toNat b.toNat)
  | .mdrain k d a m => some (wordR 0x3B (0 + b2n m) k d.toNat a.toNat 0)
  | .mdrainS k d a b m => some (wordR 0x3B (2 + b2n m) k d.toNat a.toNat b.toNat)
  | .mdrainX k d a b m => some (wordR 0x3B (4 + b2n m) k d.toNat a.toNat b.toNat)
  | .cpl k d a b => some (wordR 0x3C 0 k d.toNat a.toNat b.toNat)
  | .cpgo k a b => some (wordR 0x3C 1 k 0 a.toNat b.toNat)
  | .cpv k d a b => some (wordR 0x3C 2 k d.toNat a.toNat b.toNat)
  | .dmove k d a => some (wordR 0x3C 3 k d.toNat a.toNat 0)
  | .dfix k d a => some (wordR 0x3C 4 k d.toNat a.toNat 0)
  | .vdfix k d a b => some (wordR 0x3C 5 k d.toNat a.toNat b.toNat)
  | .dsweep k d => some (wordR 0x3C 6 k d.toNat 0 0)
  | .dack k d => some (wordR 0x3C 7 k d.toNat 0 0)
  | .dstat k d a b => some (wordR 0x3C 8 k d.toNat a.toNat b.toNat)
  | .nwr k d a => some (wordR 0x3D 0 k d.toNat a.toNat 0)
  | .npost k d => some (wordR 0x3D 1 k d.toNat 0 0)
  | .nwait k d a b => some (wordR 0x3D 2 k d.toNat a.toNat b.toNat)
  | .nctr k d a b => some (wordR 0x3D 3 k d.toNat a.toNat b.toNat)
  | .cgload k d a b => some (wordR 0x3D 4 k d.toNat a.toNat b.toNat)
  | .cgrun k d a b => some (wordR 0x3D 5 k d.toNat a.toNat b.toNat)
  | .cgwait k d a b => some (wordR 0x3D 6 k d.toNat a.toNat b.toNat)
  | .cgstat k d a b => some (wordR 0x3D 7 k d.toNat a.toNat b.toNat)
  | .add k d a b => some (wordR 0x01 0 k d.toNat a.toNat b.toNat)
  | .sub k d a b => some (wordR 0x01 1 k d.toNat a.toNat b.toNat)
  | .and k d a b => some (wordR 0x01 2 k d.toNat a.toNat b.toNat)
  | .or k d a b => some (wordR 0x01 3 k d.toNat a.toNat b.toNat)
  | .xor k d a b => some (wordR 0x01 4 k d.toNat a.toNat b.toNat)
  | .sll k d a b => some (wordR 0x01 5 k d.toNat a.toNat b.toNat)
  | .srl k d a b => some (wordR 0x01 6 k d.toNat a.toNat b.toNat)
  | .sra k d a b => some (wordR 0x01 7 k d.toNat a.toNat b.toNat)
  | .slt k d a b => some (wordR 0x01 8 k d.toNat a.toNat b.toNat)
  | .sltn k d a b => some (wordR 0x01 9 k d.toNat a.toNat b.toNat)
  | .seq k d a b => some (wordR 0x01 10 k d.toNat a.toNat b.toNat)
  | .sne k d a b => some (wordR 0x01 11 k d.toNat a.toNat b.toNat)
  | .fadd k d a b => some (wordR 0x02 0 k d.toNat a.toNat b.toNat)
  | .fsub k d a b => some (wordR 0x02 1 k d.toNat a.toNat b.toNat)
  | .fmul k d a b => some (wordR 0x02 2 k d.toNat a.toNat b.toNat)
  | .fdiv k d a b => some (wordR 0x02 3 k d.toNat a.toNat b.toNat)
  | .ffma k d a b => some (wordR 0x02 4 k d.toNat a.toNat b.toNat)
  | .fsqrt k d a => some (wordR 0x02 5 k d.toNat a.toNat 0)
  | .fmin k d a b => some (wordR 0x02 6 k d.toNat a.toNat b.toNat)
  | .fmax k d a b => some (wordR 0x02 7 k d.toNat a.toNat b.toNat)
  | .feq k d a b => some (wordR 0x02 8 k d.toNat a.toNat b.toNat)
  | .flt k d a b => some (wordR 0x02 9 k d.toNat a.toNat b.toNat)
  | .fle k d a b => some (wordR 0x02 10 k d.toNat a.toNat b.toNat)
  | .fcvtI k d a => some (wordR 0x02 11 k d.toNat a.toNat 0)
  | .fcvtN k d a => some (wordR 0x02 12 k d.toNat a.toNat 0)
  | .fcvtFi k d a => some (wordR 0x02 13 k d.toNat a.toNat 0)
  | .fcvtFn k d a => some (wordR 0x02 14 k d.toNat a.toNat 0)
  | .mul k d a b => some (wordR 0x03 0 k d.toNat a.toNat b.toNat)
  | .mulh k d a b => some (wordR 0x03 1 k d.toNat a.toNat b.toNat)
  | .mulhn k d a b => some (wordR 0x03 2 k d.toNat a.toNat b.toNat)
  | .div k d a b => some (wordR 0x03 3 k d.toNat a.toNat b.toNat)
  | .divn k d a b => some (wordR 0x03 4 k d.toNat a.toNat b.toNat)
  | .rem k d a b => some (wordR 0x03 5 k d.toNat a.toNat b.toNat)
  | .remn k d a b => some (wordR 0x03 6 k d.toNat a.toNat b.toNat)
  | .addi k d a i => some (wordI 0x04 k d.toNat a.toNat i.toNat)
  | .andi k d a i => some (wordI 0x05 k d.toNat a.toNat (0 * 256 + i.toNat))
  | .ori k d a i => some (wordI 0x05 k d.toNat a.toNat (1 * 256 + i.toNat))
  | .xori k d a i => some (wordI 0x05 k d.toNat a.toNat (2 * 256 + i.toNat))
  | .slti k d a i => some (wordI 0x05 k d.toNat a.toNat (3 * 256 + i.toNat))
  | .sltni k d a i => some (wordI 0x05 k d.toNat a.toNat (4 * 256 + i.toNat))
  | .slli k d a h => some (wordI 0x05 k d.toNat a.toNat (5 * 256 + h.toNat))
  | .srli k d a h => some (wordI 0x05 k d.toNat a.toNat (6 * 256 + h.toNat))
  | .srai k d a h => some (wordI 0x05 k d.toNat a.toNat (7 * 256 + h.toNat))
  | .jalr k d a i => some (wordI 0x06 k d.toNat a.toNat i.toNat)
  | .lim k d i => some (wordL 0x07 k d.toNat i.toNat)
  | .apc k d i => some (wordL 0x08 k d.toNat i.toNat)
  | .beq k a b o => some (wordI 0x09 k a.toNat b.toNat o.toNat)
  | .bne k a b o => some (wordI 0x0A k a.toNat b.toNat o.toNat)
  | .blt k a b o => some (wordI 0x0B k a.toNat b.toNat o.toNat)
  | .bge k a b o => some (wordI 0x0C k a.toNat b.toNat o.toNat)
  | .bltn k a b o => some (wordI 0x0D k a.toNat b.toNat o.toNat)
  | .bgen k a b o => some (wordI 0x0E k a.toNat b.toNat o.toNat)
  | .jal k o => some (wordJ 0x0F k o.toNat)
  | .ld64 k d a i => some (wordI 0x10 k d.toNat a.toNat i.toNat)
  | .ld32 k d a i => some (wordI 0x11 k d.toNat a.toNat i.toNat)
  | .ld32n k d a i => some (wordI 0x12 k d.toNat a.toNat i.toNat)
  | .ld16 k d a i => some (wordI 0x13 k d.toNat a.toNat i.toNat)
  | .ld16n k d a i => some (wordI 0x14 k d.toNat a.toNat i.toNat)
  | .ld8 k d a i => some (wordI 0x15 k d.toNat a.toNat i.toNat)
  | .ld8n k d a i => some (wordI 0x16 k d.toNat a.toNat i.toNat)
  | .st64 k a b o => some (wordI 0x17 k a.toNat b.toNat o.toNat)
  | .st32 k a b o => some (wordI 0x18 k a.toNat b.toNat o.toNat)
  | .st16 k a b o => some (wordI 0x19 k a.toNat b.toNat o.toNat)
  | .st8 k a b o => some (wordI 0x1A k a.toNat b.toNat o.toNat)
  | .lrx k d a => some (wordR 0x1B 0 k d.toNat a.toNat 0)
  | .scx k d a b => some (wordR 0x1B 1 k d.toNat a.toNat b.toNat)
  | .aswap k d a b => some (wordR 0x1B 2 k d.toNat a.toNat b.toNat)
  | .aadd k d a b => some (wordR 0x1B 3 k d.toNat a.toNat b.toNat)
  | .aand k d a b => some (wordR 0x1B 4 k d.toNat a.toNat b.toNat)
  | .aor k d a b => some (wordR 0x1B 5 k d.toNat a.toNat b.toNat)
  | .axor k d a b => some (wordR 0x1B 6 k d.toNat a.toNat b.toNat)
  | .amax k d a b => some (wordR 0x1B 7 k d.toNat a.toNat b.toNat)
  | .amin k d a b => some (wordR 0x1B 8 k d.toNat a.toNat b.toNat)
  | .amaxn k d a b => some (wordR 0x1B 9 k d.toNat a.toNat b.toNat)
  | .aminn k d a b => some (wordR 0x1B 10 k d.toNat a.toNat b.toNat)
  | .acas k d a b => some (wordR 0x1B 11 k d.toNat a.toNat b.toNat)
  | .ainc k d a b => some (wordR 0x1B 12 k d.toNat a.toNat b.toNat)
  | .afab k d a b => some (wordR 0x1B 13 k d.toNat a.toNat b.toNat)
  | .lrx32 k d a => some (wordR 0x1C 0 k d.toNat a.toNat 0)
  | .scx32 k d a b => some (wordR 0x1C 1 k d.toNat a.toNat b.toNat)
  | .aswap32 k d a b => some (wordR 0x1C 2 k d.toNat a.toNat b.toNat)
  | .aadd32 k d a b => some (wordR 0x1C 3 k d.toNat a.toNat b.toNat)
  | .aand32 k d a b => some (wordR 0x1C 4 k d.toNat a.toNat b.toNat)
  | .aor32 k d a b => some (wordR 0x1C 5 k d.toNat a.toNat b.toNat)
  | .axor32 k d a b => some (wordR 0x1C 6 k d.toNat a.toNat b.toNat)
  | .amax32 k d a b => some (wordR 0x1C 7 k d.toNat a.toNat b.toNat)
  | .amin32 k d a b => some (wordR 0x1C 8 k d.toNat a.toNat b.toNat)
  | .amaxn32 k d a b => some (wordR 0x1C 9 k d.toNat a.toNat b.toNat)
  | .aminn32 k d a b => some (wordR 0x1C 10 k d.toNat a.toNat b.toNat)
  | .acas32 k d a b => some (wordR 0x1C 11 k d.toNat a.toNat b.toNat)
  | .ainc32 k d a b => some (wordR 0x1C 12 k d.toNat a.toNat b.toNat)
  | .afab32 k d a b => some (wordR 0x1C 13 k d.toNat a.toNat b.toNat)
  | .halt k => some (wordI 0x00 k 0 0 0x100)
  | .yield k => some (wordI 0x00 k 0 0 0x101)
  | .tlbinv k a => some (wordI 0x00 k 0 a.toNat 0x102)
  | .rdcyc k d => some (wordI 0x00 k d.toNat 0 0x104)
  | .rdtime k d => some (wordI 0x00 k d.toNat 0 0x105)
  | .rdctr k d n => some (wordI 0x00 k d.toNat 0 (0x110 + n.toNat))
  | .vdrain k => some (wordI 0x1D k 0 0 0x100)
  | .fenceAcq k s => some (wordI 0x1D k 0 0 (0x110 + s.toNat))
  | .fenceRel k s => some (wordI 0x1D k 0 0 (0x120 + s.toNat))
  | .fence k s => some (wordI 0x1D k 0 0 (0x130 + s.toNat))
  | .trap k a => some (wordI 0x1D k 0 a.toNat 0x140)
  | .tret k => some (wordI 0x1D k 0 0 0x141)
  | .ebrk k => some (wordI 0x1D k 0 0 0x142)
  | .cget k d s => some (wordI 0x1E k d.toNat 0 s.toNat)
  | .cset k a s => some (wordI 0x1F k 0 a.toNat s.toNat)
  | .vcfg k d a => some (wordR 0x2F 0 k d.toNat a.toNat 0)
  | .vgrant k d a => some (wordR 0x2F 2 k d.toNat a.toNat 0)
  | .wbase k a => some (wordR 0x2F 4 k 0 a.toNat 0)
  | .barArrive k d a b => some (wordR 0x3E 0 k d.toNat a.toNat b.toNat)
  | .barWait k d a b => some (wordR 0x3E 1 k d.toNat a.toNat b.toNat)
  | .tskDef k d a b => some (wordR 0x3E 2 k d.toNat a.toNat b.toNat)
  | .tskDec k d a => some (wordR 0x3E 3 k d.toNat a.toNat 0)
  | .lnch k d a b => some (wordR 0x3E 4 k d.toNat a.toNat b.toNat)
  | .lwait k d a b => some (wordR 0x3E 5 k d.toNat a.toNat b.toNat)
  | .sndClaim k d => some (wordR 0x3E 6 k d.toNat 0 0)
  | .sndGive k d a => some (wordR 0x3E 7 k d.toNat a.toNat 0)
  | .sndStat k d a b => some (wordR 0x3E 8 k d.toNat a.toNat b.toNat)
  | _ => none

/-- The word of an instruction. -/
def encode (i : Instr) : Option Word32 := (encodeNat i).map (BitVec.ofNat 32)

/-- An instruction word of the opcode table (32 bits, one word): what the decoder reads. -/
noncomputable def decodeTableWord (nbits w : Nat) : Option Instr :=
  if nbits ≤ 32 then (decodeNat (w % 2 ^ nbits)).toOption else none

end Sys2Proof
end

