-- ==== Sys2Proof/Machine/Translate.lean ====
section
/-! DEFINITION. Address maps, page tables, translation caches, drift marks, and the one path by which every agent reads and
writes memory (R13, R276, R306 to R313, R333 to R351, R412). -/

namespace Sys2Proof.Machine

open Sys2Proof

/-- Stacks that survive (R410). -/
def State.survivors (s : State) : Nat :=
  ((List.range 8).filter (fun t => (s.tower t).st != .mappedOut)).length

/-- The n-th surviving stack, counted upward (R335). -/
def State.survivor (s : State) (n : Nat) : Nat :=
  (((List.range 8).filter (fun t => (s.tower t).st != .mappedOut))[n]?).getD n

/-- Bytes of HBM (R334, R410): 64 GiB a surviving stack. -/
def State.hbmSize (s : State) : Nat := s.survivors * 2 ^ 36

/-- The largest prime not above 32·m (R410). -/
def primeOf (m : Nat) : Nat :=
  match m with
  | 8 => 251 | 7 => 223 | 6 => 191 | 5 => 157 | 4 => 127
  | _ => 61

/-- A physical address in the host window (R334). -/
def isHostPa (pa : Nat) : Bool := decide (2 ^ 47 ≤ pa) && decide (pa < 2 ^ 48)

/-- The tower whose ceiling window holds a physical address (R334). -/
def ceilingTower (pa : Nat) : Option Nat :=
  if 2 ^ 40 ≤ pa && pa < 2 ^ 40 + 8 * 2 ^ 34 then some ((pa - 2 ^ 40) / 2 ^ 34) else none

/-- The physical byte is backed (R334). -/
def State.backed (s : State) (pa : Nat) : Bool :=
  if pa < s.hbmSize then true
  else match ceilingTower pa with
    | some t => decide ((pa - 2 ^ 40) % 2 ^ 34 < 12 * 2 ^ 30) && (s.tower t).st != .mappedOut
    | none => isHostPa pa

/-- Prime-zone register fields (R341). -/
def zoneEn (z : Nat) : Bool := bit z 63
/-- Rows in the zone. -/
def zoneRows (z : Nat) : Nat := bits z 55 32
/-- First row. -/
def zoneBase (z : Nat) : Nat := bits z 23 0

/-- The pool of a physical address: lines per row C, prime q, rows, first address and its enabled zones (R340, R341). -/
def State.pool (s : State) (pa : Nat) : Nat × Nat × Nat × Nat × List Nat :=
  match ceilingTower pa with
  | some t => (64, 61, 786432, 2 ^ 40 + t * 2 ^ 34, ((List.range 4).map (fun k => Tbl.get 0 (s.tower t).pzc k)).filter zoneEn)
  | none => (32 * s.survivors, primeOf s.survivors, 8388608, 0, ((List.range 8).map (fun k => Tbl.get 0 s.pzh k)).filter zoneEn)

/-- The XOR fold of R340. -/
def foldRow : Nat → Nat → Nat → Nat
  | 0, _, _ => 0
  | k + 1, g, r => if r = 0 then 0 else (r % 2 ^ g) ^^^ foldRow k g (r / 2 ^ g)

/-- Place (R340): channel and row of a line under a skew mode. -/
def place (c q g mode l : Nat) (zones : List Nat) : Nat × Nat :=
  match mode with
  | 0 => (l % c, l / c)
  | 1 => ((l % c + foldRow 64 g (l / c)) % c, l / c)
  | _ =>
    match zones.find? (fun z => decide (zoneBase z * c ≤ l) && decide (l < (zoneBase z + zoneRows z) * c)) with
    | some z => let lz := l - zoneBase z * c; (lz % q, zoneBase z + lz / q)
    | none => (l % c, l / c)

/-- g of a pool: the bits that number its C channels (R340; DEDUCED, log 107, for the sizes of R410 that R340 does not list). -/
def channelBits (c : Nat) : Nat := log2 (c - 1) + 1

/-- Channel and row of a physical address under a skew mode (R335, R340). -/
def State.placeOf (s : State) (pa mode : Nat) : Nat × Nat :=
  let p := s.pool pa
  place p.1 p.2.1 (channelBits p.1) mode ((pa - p.2.2.2.1) / 256) p.2.2.2.2

/-- The cell, as channel and row, that holds a line of a pool: mode 2 in an enabled zone, whose holes take the channels its usable lines
leave, and mode 0 outside (R340, R341; log 108). -/
def zoneCell (c q : Nat) (zones : List Nat) (l : Nat) : Nat × Nat :=
  match zones.find? (fun z => decide (zoneBase z * c ≤ l) && decide (l < (zoneBase z + zoneRows z) * c)) with
  | some z =>
    let i := l - zoneBase z * c
    let hole := i - q * zoneRows z
    if i < q * zoneRows z then (i % q, zoneBase z + i / q) else (q + hole % (c - q), zoneBase z + hole / (c - q))
  | none => (l % c, l / c)

/-- The line that a cell holds: the inverse of `zoneCell`. -/
def cellLine (c q : Nat) (zones : List Nat) (cell : Nat × Nat) : Nat :=
  match zones.find? (fun z => decide (zoneBase z ≤ cell.2) && decide (cell.2 < zoneBase z + zoneRows z)) with
  | some z =>
    let row := cell.2 - zoneBase z
    zoneBase z * c +
      (if cell.1 < q then row * q + cell.1 else q * zoneRows z + row * (c - q) + (cell.1 - q))
  | none => cell.2 * c + cell.1

/-- After a change of zone registers (t) each line of the pool that begins at pa reads the cell that the registers now give it, so data
appears moved (R341). -/
def State.rezone (s t : State) (pa : Nat) : State :=
  let p := s.pool pa
  let base := p.2.2.2.1
  let inPool (a : Nat) : Bool := decide (base ≤ a) && decide (a < base + 256 * p.1 * p.2.2.1)
  let moved (a : Nat) : Nat :=
    base + 256 * cellLine p.1 p.2.1 (t.pool pa).2.2.2.2 (zoneCell p.1 p.2.1 p.2.2.2.2 ((a - base) / 256)) + (a - base) % 256
  let cells := s.mem.filter (fun e => inPool e.1 && moved e.1 != e.1)
  let lines := s.poison.filter (fun e => inPool (256 * e.1) && moved (256 * e.1) != 256 * e.1)
  { t with
    mem := cells.foldl (fun m e => m.write (moved e.1) e.2) (cells.foldl (fun m e => m.write e.1 Memory.blank) s.mem),
    poison := lines.foldl (fun m e => Tbl.set m (moved (256 * e.1) / 256) e.2) (lines.foldl (fun m e => Tbl.del m e.1) s.poison) }

/-- A leaf's skew agrees with the zones (R338). -/
def State.skewOk (s : State) (pa size mode : Nat) : Bool :=
  if isHostPa pa then mode == 0
  else
    let p := s.pool pa
    let c := p.1
    let l0 := (pa - p.2.2.2.1) / 256
    let l1 := l0 + 2 ^ size / 256
    if mode == 2 then
      p.2.2.2.2.any (fun z => decide (zoneBase z * c ≤ l0) && decide (l1 ≤ zoneBase z * c + p.2.1 * zoneRows z))
    else
      !p.2.2.2.2.any (fun z => decide (zoneBase z * c < l1) && decide (l0 < (zoneBase z + zoneRows z) * c))

/-- What an access needs (R339). -/
inductive Acc
  | load
  | store
  | atomic
  | fetch
  deriving DecidableEq, Repr

/-- Which caches serve a requester (R343). -/
inductive Via
  | hart (core : Nat)
  | cluster (cl : Nat)
  | base (tower : Nat)
  deriving DecidableEq, Repr

/-- A requester: its caches, launch and privilege, the hart whose own reservation and L1 it uses (R129, R276), whether it is an element
of a vector word, which a translation conflict stops (R346), the hart whose kept leaves serve it, and the hart that keeps the leaves it
finds (R288). -/
structure Req where
  via : Via
  lno : Nat
  sup : Bool
  hart : Option Nat
  vec : Bool := false
  kept : Option Nat := none
  keep : Option Nat := none
  deriving DecidableEq, Repr

/-- Requester of the words of hart h. -/
def State.reqOf (s : State) (h : Nat) : Req :=
  { via := .hart (coreOf h), lno := s.hartLno h, sup := (s.ctx h).prv, hart := some h }

/-- Requester of the elements of a vector word of hart h. -/
def State.vecReqOf (s : State) (h : Nat) : Req := { s.reqOf h with vec := true, kept := some h }

/-- The outcome of a translation; a miss names the host address that ATS denied, if that is what it met (R351). -/
inductive Tr
  | ok (pa flags : Nat)
  | perm
  | miss (host : Option Nat)
  deriving DecidableEq, Repr

/-- What a walk finds, with the table entries it read. -/
inductive WalkRes
  | leaf (e : TlbEntry) (path : List WalkEntry)
  | miss
  | bad
  deriving DecidableEq, Repr

/-- Low bit of the VA field that indexes a level (R336). -/
def levelShift (l : Nat) : Nat :=
  match l with
  | 0 => 16 | 1 => 21 | 2 => 30 | 3 => 39 | _ => 48

/-- Entries of a table of a level (R336). -/
def levelEntries (l : Nat) : Nat :=
  match l with
  | 0 => 32 | 4 => 256 | _ => 512

/-- A byte range touches a poisoned line (R412). -/
def State.poisoned (s : State) (pa len : Nat) : Bool :=
  if s.poison.isEmpty then false
  else (List.range ((pa + len - 1) / 256 + 1 - pa / 256)).any (fun k => Tbl.get false s.poison (pa / 256 + k))

/-- An entry at its home: none where the physical bytes cannot be read (R334, R412). -/
def State.readEntry (s : State) (pa : Nat) : Option Nat :=
  if s.backed pa && s.backed (pa + 15) && !s.poisoned pa 16 then some (s.mem.readN pa 16) else none

/-- The leaf of an entry read at a level, if it is well formed (R338). -/
def State.leafOf (s : State) (lno level va e : Nat) : Option TlbEntry :=
  let size := levelShift level
  let pa := bits e 47 16 * 2 ^ 16
  if level ≤ 2 && bits e 15 9 == 0 && pa % 2 ^ size == 0 && bits e 65 64 != 3 && s.skewOk pa size (bits e 65 64) then
    some { lno := lno, va := va / 2 ^ size * 2 ^ size, size := size, pa := pa,
           flags := bits e 3 3 + 2 * bits e 4 4 + 4 * bits e 5 5 + 8 * bits e 2 2 + 16 * bits e 6 6, skew := bits e 65 64 }
  else none

/-- The walk from a level's table (R336 to R338), through the walk cache. -/
def State.walk (s : State) (lno : Nat) (cache : List WalkEntry) (va : Nat) : Nat → Nat → List WalkEntry → WalkRes
  | level, table, path =>
    let idx := va / 2 ^ levelShift level % levelEntries level
    let key := va / 2 ^ levelShift level
    match level with
    | 0 =>
      match s.readEntry (table + 16 * idx) with
      | none => .bad
      | some e =>
        if bits e 1 0 == 0 then .miss
        else if bits e 1 0 != 2 || bits e 95 66 != 0 || bits e 63 48 != 0 || bits e 8 7 != 0 then .bad
        else match s.leafOf lno 0 va e with
          | some l => .leaf l path
          | none => .bad
    | l + 1 =>
      match cache.find? (fun w => w.lno == lno && w.level == l + 1 && w.va == key) with
      | some w => s.walk lno cache va l w.pa path
      | none =>
        match s.readEntry (table + 16 * idx) with
        | none => .bad
        | some e =>
          if bits e 1 0 == 0 then .miss
          else if bits e 95 66 != 0 || bits e 63 48 != 0 || bits e 8 7 != 0 then .bad
          else if bits e 1 0 == 2 then
            match s.leafOf lno (l + 1) va e with
            | some lf => .leaf lf path
            | none => .bad
          else if bits e 1 0 == 1 && bits e 65 64 == 0 && !bit e 6 then
            let next := bits e 47 16 * 2 ^ 16 + bits e 15 9 * 2 ^ 9
            s.walk lno cache va l next (path ++ [{ lno := lno, level := l + 1, va := key, pa := next }])
          else .bad

/-- The entry holds the address. -/
def TlbEntry.covers (e : TlbEntry) (lno va : Nat) : Bool :=
  e.lno == lno && decide (e.va ≤ va) && decide (va < e.va + 2 ^ e.size)

/-- Add an entry to a set-associative level; where its set is full a victim leaves (R343; which one is the device's choice). -/
def tlbInsert (ways sets pick : Nat) (e : TlbEntry) (l : List TlbEntry) : List TlbEntry :=
  let setOf (x : TlbEntry) : Nat := x.va / 2 ^ x.size % sets
  let same := l.filter (fun x => setOf x == setOf e)
  if same.length < ways then e :: l
  else
    match same[pick % ways]? with
    | some v => e :: l.erase v
    | none => e :: l

/-- Look up one level: an entry, a conflict of two entries, or nothing (R346). -/
def tlbLook (l : List TlbEntry) (lno va : Nat) : List TlbEntry := l.filter (fun e => e.covers lno va)

/-- A leaf that makes its page a movable tile: MOV counts in a 64 KiB leaf that maps HBM or ceiling memory (R306). -/
def State.movable (s : State) (e : TlbEntry) : Bool :=
  bit e.flags 4 && e.size == 16 && !isHostPa e.pa && s.backed e.pa

/-- The requester's view of an entry (R339). -/
def State.permitted (s : State) (r : Req) (a : Acc) (e : TlbEntry) : Bool :=
  let rd := bit e.flags 0
  let wr := bit e.flags 1
  let ex := bit e.flags 2
  let sup := bit e.flags 3
  (!sup || r.sup) &&
  (match a with
   | .load => rd
   | .store => wr
   | .atomic => rd && wr
   | .fetch => ex && !s.movable e)

/-- Root of a launch's tables (R336). -/
def State.rootOf (s : State) (lno : Nat) : Nat := ((s.launch lno).map (·.ptroot)).getD 0

/-- Log a translation conflict (R346, R418 class 7): the VA, the LNO and both page sizes. -/
def State.logConflict (s : State) (lno va : Nat) (es : List TlbEntry) : State :=
  s.logHealth 7 0 lno 0 va ((es.map (·.size)).foldl (fun a x => a * 64 + x) 0)

/-- Entry by walking, filling the level that walks (R343). -/
def walkFill (r : Req) (va : Nat) : M (Option (Option TlbEntry)) := do
  let s ← get
  match r.via with
  | .base t =>
    match s.walk r.lno (Tbl.get [] s.mmu.walkBase t) va 4 (s.rootOf r.lno) [] with
    | .miss => return none
    | .bad => return some none
    | .leaf e path =>
      let k ← drawM
      modify (fun s => { s with mmu := { s.mmu with
        tlbBase := Tbl.upd [] s.mmu.tlbBase t (tlbInsert 8 512 (Config.choice k) e)
        walkBase := Tbl.upd [] s.mmu.walkBase t (fun l => path ++ l) } })
      return some (some e)
  | .hart _ | .cluster _ =>
    let cl := match r.via with
      | .hart c => clusterOf c
      | .cluster cl => cl
      | .base t => t
    match s.walk r.lno (Tbl.get [] s.mmu.walk2 cl) va 4 (s.rootOf r.lno) [] with
    | .miss => return none
    | .bad => return some none
    | .leaf e path =>
      let k ← drawM
      modify (fun s => { s with mmu := { s.mmu with
        tlb2 := Tbl.upd [] s.mmu.tlb2 cl (tlbInsert 16 1024 (Config.choice k) e)
        walk2 := Tbl.upd [] s.mmu.walk2 cl (fun l => path ++ l) } })
      return some (some e)

/-- Entry of an access from the cluster level or the base die down (R343, R346). -/
def lookShared (r : Req) (va : Nat) : M (Option (Option TlbEntry)) := do
  let s ← get
  let l := match r.via with
    | .base t => Tbl.get [] s.mmu.tlbBase t
    | .hart c => Tbl.get [] s.mmu.tlb2 (clusterOf c)
    | .cluster cl => Tbl.get [] s.mmu.tlb2 cl
  match tlbLook l r.lno va with
  | [e] => return some (some e)
  | [] => walkFill r va
  | es =>
    let l' := l.filter (fun e => !e.covers r.lno va)
    set ((match r.via with
      | .base t => { s with mmu := { s.mmu with tlbBase := Tbl.set s.mmu.tlbBase t l' } }
      | .hart c => { s with mmu := { s.mmu with tlb2 := Tbl.set s.mmu.tlb2 (clusterOf c) l' } }
      | .cluster cl => { s with mmu := { s.mmu with tlb2 := Tbl.set s.mmu.tlb2 cl l' } }).logConflict r.lno va es)
    if r.vec then throw .conflict
    walkFill r va

/-- The entry of an access: none is a translation miss, `some none` a malformed entry (R338, R343, R348).  Two entries that match are
both dropped, and the access goes on at the next level, an element of a vector word by a precise stop first (R346). -/
def lookEntry (r : Req) (va : Nat) : M (Option (Option TlbEntry)) := do
  match r.via with
  | .hart c =>
    let s ← get
    let l := Tbl.get [] s.mmu.tlb1 c
    match tlbLook l r.lno va with
    | [e] => return some (some e)
    | es =>
      if es.length ≥ 2 then do
        set (({ s with mmu := { s.mmu with tlb1 := Tbl.set s.mmu.tlb1 c (l.filter (fun e => !e.covers r.lno va)) } }).logConflict
          r.lno va es)
        if r.vec then throw .conflict
      else set (s.count c 13 1)
      match ← lookShared r va with
      | some (some e) =>
        let k ← drawM
        modify (fun s => { s with mmu := { s.mmu with
          tlb1 := Tbl.upd [] s.mmu.tlb1 c (tlbInsert 12 32 (Config.choice k) e) } })
        return some (some e)
      | o => return o
  | _ => lookShared r va

/-- The leaves that a release of hart h has found (R288): they serve while a queue word or an engine transfer of the hart is still to be
performed. -/
def State.kept (s : State) (h : Nat) : List TlbEntry :=
  if (s.hart h).pins.isEmpty then []
  else if (s.hart h).queue.isEmpty && s.cores.all (fun e => e.2.copies.all (fun j => j.hart != h)) &&
      s.gathers.all (fun g => g.hart != h) then []
  else (s.hart h).pins

/-- The kept leaf that serves a requester's address. -/
def State.keptLeaf (s : State) (r : Req) (va : Nat) : Option TlbEntry :=
  r.kept.bind (fun h => (s.kept h).find? (fun e => e.covers r.lno va))

/-- A leaf that a release has found is kept until the store is performed (R288). -/
def Req.keeps (r : Req) (e : TlbEntry) : M Unit :=
  match r.keep with
  | some h => modify (fun s => s.updHart h (fun t => { t with pins := if t.pins.contains e then t.pins else e :: t.pins }))
  | none => pure ()

/-- Leaves of an address, or all of them, are kept no longer (R345). -/
def State.unpin (s : State) (all : Bool) (va : Nat) : State :=
  if s.harts.all (fun e => e.2.pins.isEmpty) then s
  else { s with harts := s.harts.map (fun e =>
    (e.1, { e.2 with pins := e.2.pins.filter (fun p => !all && !(decide (p.va ≤ va) && decide (va < p.va + 2 ^ p.size))) })) }

/-- Translate one address (R333 to R351).  The buffer aperture is never translated (R206).  A host-window leaf goes through ATS
(R351): a completion that the I/O die does not hold is the host's answer, and a denial is a page request. -/
def translate (r : Req) (a : Acc) (va : Nat) : M Tr := do
  if 2 ^ 56 ≤ va || va / 2 ^ 32 = 0xFFFFFF then return .perm
  let s ← get
  match s.keptLeaf r va with
  | some e => return (if s.permitted r a e then .ok (e.pa + (va - e.va)) e.flags else .perm)
  | none =>
  match ← lookEntry r va with
  | none => return .miss none
  | some none => return .perm
  | some (some e) =>
    if (← get).permitted r a e then
      let pa := e.pa + (va - e.va)
      if isHostPa pa then
        let page := (pa - 2 ^ 47) / 65536
        let s ← get
        if s.mmu.ats.contains page then
          r.keeps e
          return .ok pa e.flags
        else
          let k ← drawM
          if Config.freeBool k then
            modify (fun s => { s with mmu := { s.mmu with ats := (page :: s.mmu.ats).take 1024 } })
            r.keeps e
            return .ok pa e.flags
          else return .miss (some (pa - 2 ^ 47))
      else
        r.keeps e
        return .ok pa e.flags
    else return .perm

/-- Why an access is refused. -/
inductive AccFault
  | perm
  | page (p : PageAddr)
  | chain
  | uncorr
  deriving DecidableEq, Repr

/-- A part of an access that lies in one tile: physical address, bytes, the virtual address that serves it, and its hops. -/
structure Piece where
  pa : Nat
  len : Nat
  va : Nat
  hops : Nat
  deriving DecidableEq, Repr

/-- Chase (R13, R313): translate, check, follow at most four marks.  `fuel` bounds the hops. -/
def chase (r : Req) (a : Acc) (va len hops : Nat) : Nat → M (Except AccFault Piece)
  | 0 => return .error .chain
  | fuel + 1 => do
    match ← translate r a va with
    | .perm => return .error .perm
    | .miss host => return .error (.page { va := va, host := host })
    | .ok pa _ =>
      let s ← get
      if !(s.backed pa && s.backed (pa + len - 1)) then return .error .perm
      if isHostPa pa then return .ok { pa := pa, len := len, va := va, hops := hops }
      let t := s.tile (pa / 65536)
      if t.tomb then return .error .perm
      match t.mark with
      | some m => chase r a (m.dest + va % 65536) len (hops + 1) fuel
      | none =>
        if t.arrival && hops != 0 then waitM (.arrival (pa / 65536))
        return .ok { pa := pa, len := len, va := va, hops := hops }

/-- Order of the checks of one access (R171): permission, miss, chain. -/
def AccFault.rank : AccFault → Nat
  | .perm => 0
  | .page _ => 1
  | .chain => 2
  | .uncorr => 3

/-- The pieces of an access of len bytes, split at tile boundaries (R169, R313); of two refusals the one whose check comes first, the
lower address among equals (R171). -/
def resolve (r : Req) (a : Acc) (va len : Nat) : M (Except AccFault (List Piece)) := do
  if len = 0 then return .ok []
  let first := min len (65536 - va % 65536)
  let p ← chase r a va first 0 5
  if first = len then return p.map (fun p => [p])
  let q ← chase r a (va + first) (len - first) 0 5
  match p, q with
  | .ok p, .ok q => return .ok [p, q]
  | .ok _, .error e => return .error e
  | .error e, .ok _ => return .error e
  | .error e, .error f => return .error (if f.rank < e.rank then f else e)

/-- The bytes of the pieces as one little-endian number. -/
def State.readPieces (s : State) : List Piece → Nat
  | [] => 0
  | p :: ps => s.mem.readN p.pa p.len + 2 ^ (8 * p.len) * State.readPieces s ps

/-- A read of any poisoned byte (R412). -/
def State.piecesPoisoned (s : State) (ps : List Piece) : Bool := ps.any (fun p => s.poisoned p.pa p.len)

/-- Another agent's store or atomic to a 64-byte block ends the reservations on it (R129). -/
def State.breakResv (s : State) (own : Option Nat) (pa len : Nat) : State :=
  if s.harts.all (fun e => e.2.resv.isNone) then s
  else { s with harts := s.harts.map (fun e =>
    if some e.1 = own then e
    else match e.2.resv with
      | some blk => if pa / 64 ≤ blk && blk ≤ (pa + len - 1) / 64 then (e.1, { e.2 with resv := none }) else e
      | none => e) }

/-- A full write of a line clears its poison (R412). -/
def State.healPoison (s : State) (pa len : Nat) : State :=
  if s.poison.isEmpty then s
  else { s with poison := s.poison.filter (fun e => !(decide (pa ≤ e.1 * 256) && decide (e.1 * 256 + 256 ≤ pa + len))) }

/-- While a move copies a tile, a write to a line already copied is forwarded in order (R308). -/
def State.forwardWrites (s : State) (pa : Nat) (bs : List Byte) : State :=
  { s with towers := s.towers.map (fun e =>
    if e.2.moves.any (fun m => m.2.phase == 1 && m.2.src == pa / 65536) then
      (e.1, { e.2 with moves := e.2.moves.map (fun m =>
        if m.2.phase == 1 && m.2.src == pa / 65536 then
          let extra := (bs.zipIdx.filter (fun b => decide ((pa + b.2) % 65536 / 256 < m.2.line))).map (fun b =>
            (m.2.dst * 65536 + (pa + b.2) % 65536, b.1))
          (m.1, { m.2 with fwd := m.2.fwd ++ extra })
        else m) })
    else e) }

/-- Perform a write of physical bytes at their home, by an agent that may be a hart (R276). -/
def State.writePa (s : State) (own : Option Nat) (pa : Nat) (bs : List Byte) : State :=
  let s := s.forwardWrites pa bs
  let s := s.breakResv own pa bs.length
  ({ s with mem := s.mem.writeBytes pa bs }).healPoison pa bs.length

/-- Perform a write of a number over the pieces. -/
def State.writePieces (s : State) (own : Option Nat) : List Piece → Nat → State
  | [], _ => s
  | p :: ps, v => State.writePieces (s.writePa own p.pa (toBytes p.len v)) own ps (v / 2 ^ (8 * p.len))

/-- The L1 line number of a physical address.  DESIGN CHOICE (log 9): lines of 64 bytes. -/
def lineOf (pa : Nat) : Nat := pa / 64

/-- The lines of core c's scalar L1. -/
def State.l1 (s : State) (c : Nat) : List L1Line := Tbl.get [] s.mmu.l1 c

/-- Replace the lines of core c's scalar L1. -/
def State.setL1 (s : State) (c : Nat) (l : List L1Line) : State := { s with mmu := { s.mmu with l1 := Tbl.set s.mmu.l1 c l } }

/-- Invalidate the L1 lines of a physical range on core c (R127, R276). -/
def State.dropL1 (s : State) (c pa len : Nat) : State :=
  if (s.l1 c).isEmpty then s
  else s.setL1 c ((s.l1 c).filter (fun l => decide (l.line < lineOf pa) || decide (lineOf (pa + len - 1) < l.line)))

/-- The L1 lines a piece lies in. -/
def l1Lines (p : Piece) : List Nat := (List.range (lineOf (p.pa + p.len - 1) + 1 - lineOf p.pa)).map (lineOf p.pa + ·)

/-- An ordered vector store has written the bytes of a piece at home: L1 lines that hold them are behind it (R278, R287). -/
def State.markBehind (s : State) (p : Piece) : State :=
  if s.mmu.l1.all (fun e => e.2.all (fun l => !(l1Lines p).contains l.line)) then s
  else { s with mmu := { s.mmu with l1 := s.mmu.l1.map (fun e =>
    (e.1, e.2.map (fun l => if (l1Lines p).contains l.line then { l with behind := true } else l))) } }

/-- L1 lines of core c that an ordered vector store has passed leave (R287). -/
def State.dropBehind (s : State) (c : Nat) : State :=
  if (s.l1 c).all (fun l => !l.behind) then s else s.setL1 c ((s.l1 c).filter (fun l => !l.behind))

/-- Lines that a vector word or a copy of hart h has read: what vdrain orders a later scalar load after (R132, R276, R286). -/
def State.noteRead (s : State) (h : Nat) (ps : List Piece) : State :=
  s.updHart h (fun t => { t with vlines := ps.foldl (fun l p => (l1Lines p).foldl (fun l n => if l.contains n then l else n :: l) l) t.vlines })

/-- The drain of hart h: no L1 line older than a drained read of it may serve a later load (R284, R286), nor one behind an ordered
vector store whose later elements such a read may have seen (R287). -/
def State.drainReads (s : State) (h : Nat) : State :=
  let t := (s.hart h).vlines.foldl (fun s n => s.dropL1 (coreOf h) (64 * n) 64) s
  (if (s.hart h).vlines.isEmpty then t else t.dropBehind (coreOf h)).updHart h (fun t => { t with vlines := [] })

/-- A releasing vector atomic of hart h: an acquire of its core orders later loads after the vector reads before it (R277, R286). -/
def State.releaseReads (s : State) (h : Nat) : State :=
  s.updCore (coreOf h) (fun k => { k with relLines := k.relLines ++ (s.hart h).vlines.filter (fun n => !k.relLines.contains n) })

/-- Invalidate all of core c's scalar L1 (R125). -/
def State.clearL1 (s : State) (c : Nat) : State := if (s.l1 c).isEmpty then s else s.setL1 c []

/-- An acquire at a scope: wider than core it invalidates the L1 (R125); at core scope the lines go that vector reads released on the
core have passed (R286), and those behind an ordered vector store (R287). -/
def State.acquire (s : State) (h scope : Nat) : State :=
  let c := coreOf h
  let t := if scope = 0 then ((s.core c).relLines.foldl (fun s n => s.dropL1 c (64 * n) 64) s).dropBehind c else s.clearL1 c
  if (s.core c).relLines.isEmpty then t else t.updCore c (fun k => { k with relLines := [] })

/-- Memory as the loads of hart h's convoy in flight take it (R287). -/
def State.loadMem (s : State) (h : Nat) : Memory := ((s.hart h).snap.map (·.mem)).getD s.mem

/-- The bytes of the pieces as hart h's convoy in flight reads them. -/
def State.loadPieces (s : State) (h : Nat) (ps : List Piece) : Nat := State.readPieces { s with mem := s.loadMem h } ps

/-- Change what the loads of hart h's convoy in flight read. -/
def State.updSnap (s : State) (h : Nat) (f : Snap → Snap) : State :=
  match (s.hart h).snap with
  | some p => s.updHart h (fun t => { t with snap := some (f p) })
  | none => s

/-- A write of hart h, or of its engines, is seen by its convoy in flight (R274). -/
def State.echo (s : State) (h : Nat) (ps : List Piece) (v : Nat) : State :=
  s.updSnap h (fun p => { p with mem := (State.writePieces { s with mem := p.mem } none ps v).mem })

/-- A switch: what convoys in flight read stands at the destination too (R289). -/
def State.snapSwitch (s : State) (src dst : Nat) : State :=
  let move (m : Memory) : Memory := (m.filter (fun e => e.1 / 65536 == src)).foldl
    (fun m e => m.write (65536 * dst + e.1 % 65536) e.2) (m.filter (fun e => e.1 / 65536 != dst))
  if s.harts.all (fun e => e.2.snap.isNone) then s
  else { s with harts := s.harts.map (fun e => (e.1, { e.2 with snap := e.2.snap.map (fun p => { p with mem := move p.mem }) })) }

/-- Count a redirected access (R208, counter 14). -/
def State.countHops (s : State) (c : Nat) (ps : List Piece) : State :=
  if ps.any (fun p => decide (0 < p.hops)) then s.count c 14 1 else s

/-- Permissions needed, as PageReq.need writes them (R349). -/
def needOf (a : Acc) (sup : Bool) : Nat :=
  (match a with
   | .load => 1 | .store => 2 | .atomic => 3 | .fetch => 4) + (if sup then 8 else 0)

/-- A hart-side access that faults stops the word: `cause` is SACC or VACC, `orig` the address EVAL reports (R123, R171, R313). -/
def stopAccess {α : Type} (r : Req) (a : Acc) (cause : Nat) (orig : Word) : AccFault → M α
  | .perm => trapM cause orig
  | .page p => throw (.page p (needOf a r.sup))
  | .chain => trapM cDCHN orig
  | .uncorr => throw (.term cUNCORR orig)

/-- Resolve an access of a hart's word or stop it. -/
def resolveOr (r : Req) (a : Acc) (cause : Nat) (orig : Word) (va len : Nat) : M (List Piece) := do
  match ← resolve r a va len with
  | .ok ps => return ps
  | .error e => stopAccess r a cause orig e

/-- Read len bytes at their homes for a hart (R276), or stop. -/
def readHome (r : Req) (cause : Nat) (orig : Word) (va len : Nat) : M (Nat × List Piece) := do
  let ps ← resolveOr r .load cause orig va len
  let s ← get
  if s.piecesPoisoned ps then stopAccess r .load cause orig .uncorr
  return (s.readPieces ps, ps)

end Sys2Proof.Machine
end

