-- ==== Sys2Proof/Machine/Issue.lean ====
section
/-! DEFINITION. What the scalar front knows of a word of the vector queue when it issues: pipe, element type, registers read
and written, captured scalars, the convoy rules, and the issue-time operand checks (R41, R75 to R77, R83 to R88, R145 to R147,
R184, R219, R223, R224, R231, R239 to R242, R325). -/

namespace Sys2Proof.Machine

open Sys2Proof

/-- Pipes of the maps of R83 to R88. -/
inductive Pipe
  | A | B | L | S | M | X
  deriving DecidableEq, Repr

/-- Element formats a word accepts (R83). -/
inductive ElemType
  | float | int | any
  deriving DecidableEq, Repr

/-- Registers that the convoy rules count (R76, R184). -/
inductive Reg
  | v (n : Nat) | q (n : Nat) | x (n : Nat) | c (n : Nat) | h (n : Nat)
  | plane
  | sf
  deriving DecidableEq, Repr

/-- How a word acts: element by element, once (R37), as a matrix word, or wholly on the scalar front (R37, R322). -/
inductive WordKind
  | element | once | matrix | front
  deriving DecidableEq, Repr

/-- What the front knows of a queue word. -/
structure VWord where
  /-- It reads its second register whole at its first issue (R447, R472), where R41 gives other words its low 24 bits. -/
  whole : Bool := false
  k : Bool
  pipe : Pipe
  ty : ElemType
  masked : Bool
  capA : Option (BitVec 7)
  capB : Option (BitVec 7)
  writes : List Reg
  reads : List Reg
  cross : List Reg
  kind : WordKind
  deriving DecidableEq, Repr

/-- An element-wise word on vector registers. -/
def vv (pipe : Pipe) (ty : ElemType) (k m : Bool) (d : BitVec 7) (srcs : List (BitVec 7)) : VWord :=
  { k := k, pipe := pipe, ty := ty, masked := m, capA := none, capB := none, writes := [.v d.toNat],
    reads := srcs.map (fun r => .v r.toNat), cross := [], kind := .element }

/-- A word that is complete before it enters the queue. -/
def front (pipe : Pipe) (k : Bool) (d : BitVec 7) : VWord :=
  { k := k, pipe := pipe, ty := .any, masked := false, capA := none, capB := none, writes := [.x d.toNat], reads := [],
    cross := [], kind := .front }

/-- A word of the network or Jetstream engine (R447, R472). -/
def netWord (k : Bool) (d a b : BitVec 7) : VWord := { front .X k d with capA := some a, capB := some b, whole := true }

/-- The description of a queue word; none for a word of the scalar front and for a step that is no word. -/
def vword (c : Ctx) : Instr → Option VWord
  | .vadd k d a b m
  | .vsub k d a b m
  | .vmul k d a b m
  | .vdiv k d a b m
  | .vmin k d a b m
  | .vmax k d a b m
    => some (vv .A .float k m d [a, b])
  | .vaddVx k d a b m
  | .vsubVx k d a b m
  | .vmulVx k d a b m
  | .vdivVx k d a b m
  | .vminVx k d a b m
  | .vmaxVx k d a b m
    => some { vv .A .float k m d [a] with capA := some b }
  | .vfma k d a b m
  | .vfms k d a b m
  | .vfnma k d a b m
  | .vfnms k d a b m
    => some (vv .A .float k m d [a, b, d])
  | .vfmaVx k d a b m
  | .vfmsVx k d a b m
  | .vfnmaVx k d a b m
  | .vfnmsVx k d a b m
    => some { vv .A .float k m d [a, d] with capA := some b }
  | .vsqrt k d a m
  | .vrsqrt k d a m
  | .vexp k d a m
  | .vlog k d a m
  | .vtanh k d a m
  | .vsigmoid k d a m
  | .vfloor k d a m
  | .vround k d a m
  | .vabs k d a m
  | .vneg k d a m
  | .vrelu k d a m
    => some (vv .B .float k m d [a])
  | .vmov k d a m
    => some (vv .B .any k m d [a])
  | .veq k d a b m
  | .vne k d a b m
  | .vlt k d a b m
  | .vle k d a b m
    => some { vv .B .any k m 0 [a, b] with writes := [.q d.toNat] }
  | .veqVx k d a b m
  | .vneVx k d a b m
  | .vltVx k d a b m
  | .vleVx k d a b m
    => some { vv .B .any k m 0 [a] with writes := [.q d.toNat], capA := some b }
  | .vsel k d a b
    => some (vv .B .any k false d [a, b])
  | .qand k d _ _
  | .qor k d _ _
  | .qxor k d _ _
  | .qsub k d _ _
    => some { vv .B .any k false 0 [] with writes := [.q d.toNat], kind := .once }
  | .qnot k d _
  | .qcpy k d _
    => some { vv .B .any k false 0 [] with writes := [.q d.toNat], kind := .once }
  | .viadd k d a b m
  | .visub k d a b m
  | .vimul k d a b m
  | .vimulh k d a b m
  | .vimin k d a b m
  | .vimax k d a b m
  | .vidiv k d a b m
  | .virem k d a b m
    => some (vv .A .int k m d [a, b])
  | .vand k d a b m
  | .vor k d a b m
  | .vxor k d a b m
  | .vsll k d a b m
  | .vsrl k d a b m
  | .vsra k d a b m
    => some (vv .B .int k m d [a, b])
  | .viaddVx k d a b m
  | .vimulVx k d a b m
  | .vandVx k d a b m
  | .vorVx k d a b m
  | .vxorVx k d a b m
  | .vsllVx k d a b m
  | .vsrlVx k d a b m
  | .vsraVx k d a b m
    => some { vv .B .int k m d [a] with capA := some b }
  | .vcvtTo k d a f m
  | .vcvtFrom k d a f m
    => some { vv .A .any k m d [a] with reads := .v a.toNat :: (if c.ew = 3 || c.ew = 4 || f = 3 || f = 4 then [.sf] else []) }
  | .vredsum k d a m
  | .vredmax k d a m
  | .vredmin k d a m
    => some { vv .B .any k m d [a] with cross := [.v a.toNat] }
  | .vredand k d a m
  | .vredor k d a m
  | .vredxor k d a m
    => some { vv .B .int k m d [a] with cross := [.v a.toNat] }
  | .vid k d m
    => some (vv .B .any k m d [])
  | .vslideup k d a b m
  | .vslidedn k d a b m
    => some { vv .B .any k m d [a] with cross := [.v a.toNat], capA := some b }
  | .vshuf k d a b m
    => some { vv .B .any k m d [a, b] with cross := [.v a.toNat] }
  | .vcompress k d a
    => some { vv .B .any k false d [a] with cross := [.v a.toNat] }
  | .vbcast k d a m
  | .vhail k d a m
    => some { vv .B .any k m d [] with capA := some a }
  | .vbern k d a b
    => some { vv .B .any k false 0 [] with writes := [.q d.toNat], capA := some b, capB := some a }
  | .vseed k d a b m
    => some { vv .B .float k m d [d] with capA := some a, capB := some b }
  | .vtclr k d m
    => some (vv .B .float k m d [d])
  | .vtget k d a b m
  | .vtset k d a b m
    => some { vv .B .float k m d [a] with capA := some b }
  | .vfgu k d a b m
    => some { vv .B .float k m d [a, d] with cross := [.v a.toNat], capA := some b }
  | .vld k d a m
    => some { vv .L .any k m d [] with capA := some a }
  | .vlds k d a b m
    => some { vv .L .any k m d [] with capA := some a, capB := some b }
  | .vldx k d a b m
    => some { vv .L .any k m d [b] with capA := some a }
  | .vst k d a m
  | .vstU k d a m
    => some { vv .S .any k m 0 [d] with writes := [], capA := some a }
  | .vsts k d a b m
    => some { vv .S .any k m 0 [d] with writes := [], capA := some a, capB := some b }
  | .vstx k d a b m
  | .vstxU k d a b m
    => some { vv .S .any k m 0 [d, b] with writes := [], capA := some a }
  | .vldw k d a _ _ m
    => some { vv .L .any k m d [] with capA := some a }
  | .vlda k d a _ _ _ m
  | .vldc k d a _ _ _ m
    => some { vv .L .any k m d [] with capA := some a }
  | .vstw k d a _ m
    => some { vv .S .any k m 0 [d] with writes := [], capA := some a }
  | .vsta k d a _ _ m
  | .vstc k d a _ _ m
    => some { vv .S .any k m 0 [d] with writes := [], capA := some a }
  | .vaadd k d a b m
  | .vaaddO k d a b m
  | .vaswap k d a b m
  | .vaswapO k d a b m
    => some { vv .S .any k m d [d, b] with capA := some a }
  | .vamax k d a b m
  | .vamaxO k d a b m
  | .vamin k d a b m
  | .vaminO k d a b m
  | .vamaxn k d a b m
  | .vamaxnO k d a b m
  | .vaminn k d a b m
  | .vaminnO k d a b m
  | .vaand k d a b m
  | .vaandO k d a b m
  | .vaor k d a b m
  | .vaorO k d a b m
    => some { vv .S .int k m d [d, b] with capA := some a }
  | .vsld k d a m
    => some { vv .L .any k m d [] with writes := [.v d.toNat, .h a.toNat] }
  | .vsst k d a m
    => some { vv .S .any k m 0 [d] with writes := [.h a.toNat] }
  | .vbind k d a
    => some { vv .L .any k false d [] with writes := [.v d.toNat, .h a.toNat] }
  | .vunbind k d a
    => some { vv .L .any k false 0 [d] with writes := [.h a.toNat] }
  | .hset k a b
    => some { vv .L .any k false 0 [] with writes := [.h a.toNat], capA := some b }
  | .vscl k a b
    => some { vv .L .any k false 0 [] with writes := [.sf], capA := some a, capB := some b }
  | .vldnp k d a _ _ m
    => some { vv .L .float k m d [] with reads := [.sf], capA := some a }
  | .mshape k d a
    => some { vv .M .any k false 0 [] with writes := [.x d.toNat], capA := some a, kind := .matrix }
  | .mlds k a
    => some { vv .M .any k false 0 [] with writes := [.plane], capA := some a, kind := .matrix }
  | .mzero k d
    => some { vv .M .any k false 0 [] with writes := [.c d.toNat], kind := .matrix }
  | .mmulBf16 k d a b s
  | .mmulE4m3 k d a b s
  | .mmulE5m2 k d a b s
  | .mmulNp4 k d a b s
  | .mmulNp2 k d a b s
  | .mmulSpBf16 k d a b s
  | .mmulSpE4m3 k d a b s
  | .mmulSpE5m2 k d a b s
  | .mmulSpNp4 k d a b s
  | .mmulSpNp2 k d a b s
    => some { vv .M .any k false 0 [] with writes := [.c d.toNat], reads := if s then [] else [.v a.toNat], capA := if s then some b else none, kind := .matrix }
  | .mdrain k d a m
    => some { vv .S .any k m 0 [] with writes := [], cross := [.c d.toNat], capA := some a }
  | .mdrainS k d a b m
    => some { vv .S .any k m 0 [] with writes := [], cross := [.c d.toNat], capA := some a, capB := some b }
  | .mdrainX k d a b m
    => some { vv .S .any k m 0 [b] with writes := [], cross := [.c d.toNat], capA := some a }
  | .cpl k _ a b
    => some { vv .X .any k false 0 [] with writes := [], capA := some a, capB := some b, kind := .once }
  | .cpgo k a b
    => some { vv .X .any k false 0 [] with writes := [], capA := some a, capB := some b, kind := .once }
  | .cpv k d a b
    => some { vv .X .any k false d [] with capA := some a, capB := some b, kind := .once }
  | .vdfix k d a b
    => some { vv .X .int k false d [b] with capA := some a }
  | .mstat k d
    => some (front .M k d)
  | .dsweep k d
  | .dack k d
  | .npost k d
    => some (front .X k d)
  | .dmove k d a
  | .dfix k d a
    => some { front .X k d with capA := some a }
  | .dstat k d a b
    => some { front .X k d with capA := some a, capB := some b }
  | .nwait k d a b
  | .nctr k d a b
  | .cgload k d a b
  | .cgrun k d a b
  | .cgwait k d a b
  | .cgstat k d a b
    => some (netWord k d a b)
  | .nwr k _ a
    => some { front .X k 0 with writes := [], capA := some a }
  | _ => none

/-- The word stands alone in its convoy (R234, R322). -/
def VWord.alone (v : VWord) : Bool := v.kind == .front || v.kind == .matrix

/-- One of the two writes the scale file and the other reads it (R184). -/
def scaleClash (u v : VWord) : Bool :=
  (u.writes.contains .sf && v.reads.contains .sf) || (v.writes.contains .sf && u.reads.contains .sf)

/-- The two words may stand in one convoy (R76, R184). -/
def compatible (u v : VWord) : Bool :=
  u.pipe != v.pipe && !u.alone && !v.alone &&
  !(v.writes.any u.writes.contains) && !scaleClash u v &&
  !(v.cross.any u.writes.contains) && !(u.cross.any v.writes.contains) &&
  !(!v.cross.isEmpty && v.writes.any u.reads.contains) && !(!u.cross.isEmpty && u.writes.any v.reads.contains)

/-- The word may join a convoy of these members (R75, R76): at most eight, compatible with each. -/
def joins (ms : List VWord) (v : VWord) : Bool :=
  !ms.isEmpty && decide (ms.length < 8) && ms.all (fun u => compatible u v)

/-- The instruction of a queue entry. -/
def QEntry.instr (e : QEntry) : Option Instr :=
  match decodeQueue e.word.toNat with
  | some (.ok i) => some i
  | _ => none

/-- K of a queue entry. -/
def QEntry.k (e : QEntry) : Bool := e.word.msb

/-- A description with what a captured operand adds to it: the group vd … vd+NR-1 that cpv writes (R241). -/
def VWord.withOpA (v : VWord) (opA : Word) : Instr → VWord
  | .cpv _ d _ _ => { v with writes := (List.range (min 32 opA.toNat)).map (fun k => .v (d.toNat + k)) }
  | _ => v

/-- The description of an instruction with its captured first operand. -/
def descOf (c : Ctx) (opA : Word) (i : Instr) : Option VWord := (vword c i).map (fun v => v.withOpA opA i)

/-- The description of a queue entry. -/
def QEntry.desc (e : QEntry) (c : Ctx) : Option VWord := e.instr.bind (descOf c e.opA)

/-- The entries of the last convoy of a queue. -/
def lastConvoy (q : List QEntry) : List QEntry :=
  let r := q.reverse
  ((r.takeWhile (fun e => !e.k)) ++ ((r.dropWhile (fun e => !e.k)).take 1)).reverse

/-- The entries of the first convoy of a queue (R35). -/
def firstConvoy : List QEntry → List QEntry
  | [] => []
  | e :: q => e :: q.takeWhile (fun f => !f.k)

/-- The queue without its first convoy. -/
def afterFirst : List QEntry → List QEntry
  | [] => []
  | _ :: q => q.dropWhile (fun f => !f.k)

/-- The low 24 bits of a register, sign-extended (R41). -/
def low24 (w : Word) : Word := (w.setWidth 24).signExtend 64

/-- Type class admits the element format in force (R84). -/
def ElemType.admits (t : ElemType) (ew : Nat) : Bool :=
  match t with
  | .any => true
  | .float => isFloat ew
  | .int => decide (8 ≤ ew)

/-- S of R218. -/
def Ctx.tileStep (c : Ctx) : Nat := pow2Ceil (1 + c.b)

/-- A tile is addressable (R84, R218). -/
def Ctx.tileOk (c : Ctx) (n : Nat) : Bool := n % c.tileStep == 0

/-- Bytes of a weight of a format (R222): 2 for BF16, 1 for FP8. -/
def weightBytes (fmt : Nat) : Nat := if fmt = 0 then 2 else 1

/-- Plane columns and dense depth of a format (R215). -/
def planeCols (fmt : Nat) : Nat :=
  match fmt with
  | 0 => 64 | 1 => 128 | 2 => 128 | 3 => 256 | _ => 512

/-- K_P under a sparsity (R215). -/
def planeDepth (spn : Nat) : Nat :=
  match spn with
  | 0 => 256 | 1 => 512 | _ => 1024

/-- q of a nested-plane format (R215). -/
def npRead (fmt : Nat) : Nat := if fmt = 3 then 4 else 2

/-- Kept weights of 16 rows (R222). -/
def keptOf (spn : Nat) : Nat := if spn = 1 then 8 else 4

/-- Fields of an mshape request (R219). -/
def reqRel (r : Nat) : Bool := bit r 63
/-- SX. -/
def reqSx (r : Nat) : Nat := bits r 62 55
/-- PS. -/
def reqPs (r : Nat) : Nat := bits r 52 49
/-- SPN. -/
def reqSpn (r : Nat) : Nat := bits r 48 47
/-- FMT. -/
def reqFmt (r : Nat) : Nat := bits r 46 44

/-- An mshape request raises OPND (R219). -/
def mshapeBad (r : Nat) : Bool :=
  if reqRel r then r != 2 ^ 63
  else
    let fmt := reqFmt r
    let ps := reqPs r
    bits r 54 53 != 0 || bit r 28 || reqSx r == 0xFF || reqSpn r == 3 || decide (5 ≤ fmt) ||
    (decide (fmt ≤ 2) && ps != 0) || (decide (3 ≤ fmt) && (decide (ps < 2) || decide (8 < ps) || decide (ps < npRead fmt))) ||
    (reqSpn r != 0 && (decide (3 ≤ fmt) || bits r 10 0 % 16 != 0))

/-- Bytes of the W buffer that an mlds reads from its offset (R222). -/
def Shape.planeBytes (sh : Shape) : Nat :=
  if sh.fmt ≤ 2 then
    let ww := weightBytes sh.fmt
    if sh.spn = 0 then sh.kg * sh.ng * ww
    else
      let e := sh.kg / 16 * keptOf sh.spn * sh.ng
      if e = 0 then 0 else 16 * cdiv (e * ww) 16 + cdiv e 2
  else
    let nb := cdiv (sh.kg * sh.ng) 128
    if nb = 0 then 0 else 16 * sh.ps * (nb - 1) + 16 * npRead sh.fmt

/-- The launch's allocations on a core. -/
def Core.allocOf (k : Core) (lno : Nat) : Option Alloc := k.allocs.find? (fun a => a.lno == lno)

/-- The task on hart h owns its core's Anvil (R216). -/
def State.ownsAnvil (s : State) (h : Nat) : Bool :=
  match (s.hart h).task with
  | some t => (s.core (coreOf h)).anvil.owner == some t
  | none => false

/-- The active plane of an Anvil (R221). -/
def Anvil.activePlane (a : Anvil) : Option Plane := if a.active = 0 then a.plane0 else a.plane1

/-- Activation format and bytes of a weight format (R215). -/
def actFormat (fmt : Nat) : Nat :=
  match fmt with
  | 0 => 2 | 1 => 3 | 2 => 4 | _ => 8
/-- Bytes of an activation. -/
def actBytes (fmt : Nat) : Nat := if fmt = 0 then 2 else 1

/-- Registers of the activation group (R224). -/
def actRegs (c : Ctx) (mg kg : Nat) : Nat := cdiv (mg * kg) c.vlmax

/-- A multiplying matrix word raises OPND (R224). DESIGN CHOICE (log 131): an empty activation block lies inside wherever it begins. -/
def mmulBad (s : State) (h : Nat) (fmt : Nat) (sparse : Bool) (d : Nat) (a : Nat) (src : Bool) (opA : Word) : Bool :=
  let c := s.ctx h
  let av := (s.core (coreOf h)).anvil
  if !s.ownsAnvil h then true
  else match av.activePlane with
  | none => true
  | some p =>
    p.fmt != fmt || sparse != (p.spn != 0) || !c.tileOk d || decide (16 < d + cdiv p.ng 64 * c.tileStep) ||
    (if src then
      let off := bits opA.toNat 23 0
      let pitch := 32 * cdiv (p.kg * actBytes fmt) 32
      let size := (((s.core (coreOf h)).allocOf (s.hartLno h)).map (·.a.size)).getD 0
      bits opA.toNat 63 24 != 0 || off % 32 != 0 ||
      (av.shape.mg != 0 && p.kg != 0 && decide (size < off + (av.shape.mg - 1) * pitch + p.kg * actBytes fmt))
    else
      c.ew != actFormat fmt || decide (128 < a + actRegs c av.shape.mg p.kg))

/-- An mdrain raises OPND (R231). -/
def mdrainBad (s : State) (h : Nat) (d : Nat) (strided : Bool) : Bool :=
  let c := s.ctx h
  let sh := (s.core (coreOf h)).anvil.shape
  !s.ownsAnvil h || !c.tileOk d || decide (sh.mg * sh.ng < sh.org + c.vl) || decide (16 < d + cdiv sh.ng 64 * c.tileStep) ||
  (strided && sh.org % sh.ng != 0)

/-- The run word of a copy has a defect (R242). -/
def runWordBad (r : Nat) : Bool :=
  let xp := bits r 23 22
  let run := bits r 15 0
  xp == 3 || bits r 21 16 != 0 || run == 0 ||
  (xp != 0 && (run % xp != 0 || decide (64 < run / xp)))

/-- The operands of cpl raise OPND (R239). -/
def cplBad (n : Nat) (opA opB : Word) : Bool :=
  let b := opB.toNat % 2 ^ 24
  if n ≤ 5 then bit b 23
  else
    let space := bits b 2 0
    bits b 23 7 != 0 || decide (5 ≤ space) || (space == 4 && n == 6) || (bit b 6 && space != 2 && space != 3) ||
    (!bit b 6 && bits b 5 3 != 0) || (space == 0 && bits opA.toNat 63 56 != 0) || (space != 0 && bits opA.toNat 63 24 != 0)

/-- Element width that a transposing load needs (R176): its record must be XP bytes. -/
def xpBad (c : Ctx) (p : BitVec 2) : Bool := p != 0 && c.rs != p.toNat

/-- A vector atomic on a type outside its row (R179). -/
def atomicTypeBad (c : Ctx) (add : Bool) : Bool := add && (c.ew == 1 || c.ew == 3 || c.ew == 4)

/-- vseed's control word has a defect (R163). -/
def vseedBad (c : Ctx) (opB : Word) : Bool :=
  let w := opB.toNat % 2 ^ 24
  bits w 23 16 != 0 || bits w 7 6 != 0 || bits w 15 8 == 0xFF || bits w 5 4 == 3 || decide (c.b ≤ bits w 3 0)

/-- A conversion raises OPND (R157). -/
def cvtBad (c : Ctx) (d a : BitVec 7) (f : BitVec 4) : Bool :=
  let vf := vwOf f.toNat
  decide (c.vlmaxOf vf < c.vl) || (d == a && vf != vwOf c.ew)

/-- The operand checks that a word's own statement makes at issue. DESIGN CHOICE (log 131): the range of mlds is looked at where it is
empty, too. -/
def ownIssueBad (s : State) (h : Nat) (opA opB : Word) : Instr → Bool
  | .vcvtTo _ d a f _ | .vcvtFrom _ d a f _ => cvtBad (s.ctx h) d a f
  | .vredsum _ d a _ | .vredmax _ d a _ | .vredmin _ d a _ | .vredand _ d a _ | .vredor _ d a _ | .vredxor _ d a _
  | .vcompress _ d a => d == a
  | .vslideup _ d a _ _ | .vslidedn _ d a _ _ => d == a
  | .vfgu _ d a _ _ => d == a
  | .vshuf _ d a b _ => d == a || d == b
  | .vbern _ _ _ _ => decide (2 ^ 24 < opA.toNat)
  | .vseed _ _ _ _ _ => vseedBad (s.ctx h) opB
  | .vtget _ _ _ _ _ | .vtset _ _ _ _ _ => decide ((s.ctx h).b ≤ opA.toNat)
  | .vldw _ _ _ p _ _ => xpBad (s.ctx h) p
  | .vlda _ _ _ _ p _ _ | .vldc _ _ _ _ p _ _ => xpBad (s.ctx h) p
  | .vaadd _ _ _ _ _ | .vaaddO _ _ _ _ _ => atomicTypeBad (s.ctx h) true
  | .vldnp _ _ _ p q _ => q == 0 || decide (p.toNat + 1 < q.toNat)
  | .mshape _ _ _ => mshapeBad opA.toNat
  | .mlds _ _ =>
    !s.ownsAnvil h || bits opA.toNat 23 0 % 16 != 0 ||
    decide ((((s.core (coreOf h)).allocOf (s.hartLno h)).map (·.w.size)).getD 0 <
      bits opA.toNat 23 0 + (s.core (coreOf h)).anvil.shape.planeBytes)
  | .mzero _ d => !s.ownsAnvil h || !(s.ctx h).tileOk d.toNat
  | .mmulBf16 _ d a _ r => mmulBad s h 0 false d.toNat a.toNat r opA
  | .mmulE4m3 _ d a _ r => mmulBad s h 1 false d.toNat a.toNat r opA
  | .mmulE5m2 _ d a _ r => mmulBad s h 2 false d.toNat a.toNat r opA
  | .mmulNp4 _ d a _ r => mmulBad s h 3 false d.toNat a.toNat r opA
  | .mmulNp2 _ d a _ r => mmulBad s h 4 false d.toNat a.toNat r opA
  | .mmulSpBf16 _ d a _ r => mmulBad s h 0 true d.toNat a.toNat r opA
  | .mmulSpE4m3 _ d a _ r => mmulBad s h 1 true d.toNat a.toNat r opA
  | .mmulSpE5m2 _ d a _ r => mmulBad s h 2 true d.toNat a.toNat r opA
  | .mmulSpNp4 _ d a _ r => mmulBad s h 3 true d.toNat a.toNat r opA
  | .mmulSpNp2 _ d a _ r => mmulBad s h 4 true d.toNat a.toNat r opA
  | .mdrain _ d _ _ => mdrainBad s h d.toNat false
  | .mdrainS _ d _ _ _ => mdrainBad s h d.toNat true
  | .mdrainX _ d _ _ _ => mdrainBad s h d.toNat false
  | .cpl _ n _ _ => cplBad n.toNat opA opB
  | .cpgo _ _ _ => bits opA.toNat 62 10 != 0 || runWordBad (opB.toNat % 2 ^ 24)
  | .cpv _ d _ _ =>
    bits opA.toNat 63 6 != 0 || opA == 0 || decide (32 < opA.toNat) || decide (127 < d.toNat + opA.toNat - 1) ||
    runWordBad (opB.toNat % 2 ^ 24)
  | _ => false

/-- A word that acts on the scalar front refuses its operands (R323, R328, R448 to R450, R472 to R476): the part of its OPND checks
that its registers decide. -/
def frontBad (opA opB : Word) : Instr → Bool
  | .dmove _ _ _ => opA.toNat % 32 != 0 || bits opA.toNat 63 56 != 0
  | .dstat _ _ _ _ => decide (6 < opB.toNat)
  | .nwait _ _ _ _ => bits opA.toNat 63 6 != 0
  | .nctr _ _ _ _ => bits opA.toNat 61 6 != 0 || bits opA.toNat 63 62 == 3
  | .cgload _ _ _ _ => decide (1 < opB.toNat) || (opB == 0 && (opA.toNat % 64 != 0 || bits opA.toNat 63 56 != 0))
  | .cgrun _ _ _ _ => opB.toNat % 64 != 0 || bits opB.toNat 63 56 != 0
  | .cgwait _ _ _ _ => decide (1 < opB.toNat)
  | .cgstat _ _ _ _ => decide (3 < opB.toNat % 2 ^ 24)
  | _ => false

/-- A queue word raises OPND at issue: its type excludes EW (R84), or its own statement refuses the operands. -/
def issueBad (s : State) (h : Nat) (v : VWord) (opA opB : Word) (i : Instr) : Bool :=
  !v.ty.admits (s.ctx h).ew || ownIssueBad s h opA opB i

/-- The members of the last convoy of hart h that a new word may join at its PC (R75): none where it is closed, where its last
word does not stand just before PC, or where the queue is empty. -/
def State.openMembers (s : State) (h : Nat) : List VWord :=
  let q := (s.hart h).queue
  if (s.hart h).openConvoy && (q.getLast?.map (·.addr)) == some ((s.ctx h).pc - 4) then
    (lastConvoy q).filterMap (fun e => e.desc (s.ctx h))
  else []

/-- The word meets the convoy rules at its place (R75, R76). -/
def State.convoyOk (s : State) (h : Nat) (v : VWord) : Bool := v.k || (!v.alone && joins (s.openMembers h) v)

/-- Entries of a dump group into convoys that break no rule of R76 (R42), the DONE entries included. DESIGN CHOICE (log 128): a WORD that
decodes to no vector or matrix word starts no convoy that a K = 0 entry could join. -/
def groupsOk (c : Ctx) : List VWord → List QEntry → Bool
  | _, [] => true
  | ms, e :: q =>
    match e.desc c with
    | some v =>
      if e.k then groupsOk c [v] q
      else !v.alone && joins ms v && groupsOk c (ms ++ [v]) q
    | none => e.done && (if e.k then groupsOk c [] q else !ms.isEmpty && groupsOk c ms q)

end Sys2Proof.Machine
end

