-- ==== Sys2Proof/Machine/Placement.lean ====
section
/-! DEFINITION. The launch record's levels and where the tasks of a launch may run (R359, R361 to R363). -/

namespace Sys2Proof.Machine

open Sys2Proof

/-- Fields of a launch record (R358). -/
def recEntry (r : Nat) : Nat := bits r 63 0
def recStack (r : Nat) : Nat := bits r 127 64
def recKey (r : Nat) : Nat := bits r 191 128
def recStrm (r : Nat) : Nat := bits r 255 192
def recSrq (r : Nat) : Nat := bits r 319 256
def recPkey (r : Nat) : Nat := bits r 383 320
def recTvec (r : Nat) : Nat := bits r 447 384
def recPtroot (r : Nat) : Nat := bits r 511 448
def recEq (r : Nat) : Nat := bits r 575 512
def recRing (r : Nat) : Nat := bits r 639 576
def recWbuf (r : Nat) : Nat := bits r 671 640
def recAbuf (r : Nat) : Nat := bits r 703 672
def recCbuf (r : Nat) : Nat := bits r 735 704
def recVcount (r : Nat) : Nat := if bits r 747 736 = 0 then 128 else bits r 747 736
def recNlev (r : Nat) : Nat := bits r 751 748
def recPrio (r : Nat) : Nat := bits r 753 752
def recSupv (r : Nat) : Bool := bit r 754
def recSnd (r : Nat) : Bool := bit r 755
def recPasen (r : Nat) : Bool := bit r 756
def recRingn (r : Nat) : Nat := bits r 761 757
def recEqn (r : Nat) : Nat := bits r 766 762
def recPasid (r : Nat) : Nat := bits r 787 768
def recFidx (r : Nat) : Nat := bits r 807 792
def recSsz (r : Nat) : Nat := if bits r 823 808 = 0 then 16 else bits r 823 808
def recSndx (r : Nat) : Nat := bits r 2047 1536

/-- Level descriptor j (R358). -/
def recLevel (r j : Nat) : Nat := bits r (1087 + 64 * j) (1024 + 64 * j)
/-- EXTENT, DOMAIN and SCOPE of a descriptor (R359). -/
def lvExtent (d : Nat) : Nat := bits d 15 0
def lvDomain (d : Nat) : Nat := bits d 20 18
def lvScope (d : Nat) : Nat := bits d 23 21

/-- Instances of level j under one parent in this package: a fabric level 0 contributes the one instance FIDX (R361). -/
def recExtent (r j : Nat) : Nat := if j = 0 && lvDomain (recLevel r 0) = 5 then 1 else lvExtent (recLevel r j)

/-- Tasks under one instance of level j. -/
def recBelow (r j : Nat) : Nat := ((List.range (recNlev r)).filter (fun i => decide (j < i))).foldl (fun a i => a * recExtent r i) 1

/-- Tasks of the package (R360). -/
def recTotal (r : Nat) : Nat := (List.range (recNlev r)).foldl (fun a i => a * recExtent r i) 1

/-- Instance number of level j that holds task t. -/
def recInst (r j t : Nat) : Nat := t / recBelow r j

/-- IDX of level j of task t (R361). -/
def recIdx (r j t : Nat) : Nat :=
  if j = 0 && lvDomain (recLevel r 0) = 5 then recFidx r else recInst r j t % recExtent r j

/-- What an instance of level j is bound to: 0 nothing, 1 a core, 2 a cluster, 3 a tower.  The domain binds; domain hart leaves
the binding of the scope (R362). -/
def recKind (r j : Nat) : Nat :=
  let d := recLevel r j
  match lvDomain d with
  | 0 => (match lvScope d with | 0 => 1 | 1 => 2 | 2 => 3 | _ => 0)
  | 1 => 1 | 2 => 2 | 3 => 3 | _ => 0

/-- Instances of the level stand on distinct units while units with room remain (R362). -/
def recDistinct (r j : Nat) : Bool :=
  let d := lvDomain (recLevel r j)
  decide (1 ≤ d) && decide (d ≤ 3)

/-- The unit of a kind that a core belongs to. -/
def unitOfCore (kind c : Nat) : Nat :=
  match kind with
  | 1 => c | 2 => c / 8 | 3 => c / 64 | _ => 0

/-- Units of a kind. -/
def unitCount (kind : Nat) : Nat :=
  match kind with
  | 1 => 512 | 2 => 64 | 3 => 8 | _ => 1

/-- The cores of a unit. -/
def coresOf (kind u : Nat) : List Nat :=
  match kind with
  | 1 => [u]
  | 2 => (List.range 8).map (fun k => u * 8 + k)
  | 3 => (List.range 64).map (fun k => u * 64 + k)
  | _ => List.range 512

/-- A unit of one kind lies within a unit of another: compared through its first core. -/
def unitWithin (kind u kind' u' : Nat) : Bool :=
  decide (kind ≤ kind') && kind != 0 && unitOfCore kind' ((coresOf kind u).headD 0) == u'

/-- Tasks of a placed instance that no hart has taken. -/
def Launch.unstartedOf (l : Launch) (j i : Nat) : Nat :=
  recBelow l.record j - (l.begun.filter (fun t => recInst l.record j t == i)).length

/-- Unstarted tasks of a launch bound within a unit, each counted once, at its outermost instance placed there (R362). -/
def Launch.waitingIn (l : Launch) (kind u : Nat) : Nat :=
  (l.placed.map (fun p =>
    let k := recKind l.record p.1
    if unitWithin k p.2.2 kind u &&
        !l.placed.any (fun p' => decide (p'.1 < p.1) && unitWithin (recKind l.record p'.1) p'.2.2 kind u &&
          recInst l.record p'.1 (p.2.1 * recBelow l.record p.1) == p'.2.1) then
      l.unstartedOf p.1 p.2.1
    else 0)).foldl (· + ·) 0

/-- Units, by kind and number, to which the instances that hold a task are bound now (R362): those placed for a launched task, the cluster
of a named one (R261, R364). -/
def State.boundUnits (s : State) (t : Task) : List (Nat × Nat) :=
  if t.named.isSome then [(2, (t.moved.head?.map Prod.snd).getD t.home)]
  else match s.launch t.lno with
    | some l => (l.placed.filter (fun p => recInst l.record p.1 t.t == p.2.1)).map (fun p => (recKind l.record p.1, p.2.2))
    | none => []

/-- A task that exists is bound to a unit (R362): it runs or its context lies there; one that its instances have left for other units since
it last ran (R364), and a named task that has not started, is bound where they are. -/
def State.boundTo (s : State) (t : Task) (kind u : Nat) : Bool :=
  let bs := (s.boundUnits t).filter (fun b => b.1 != 0)
  let c := coreOf t.hart
  if t.st == .running || ((t.started || t.named.isNone) && bs.all (fun b => unitOfCore b.1 c == b.2)) then unitOfCore kind c == u
  else bs.any (fun b => unitWithin b.1 b.2 kind u)

/-- The load of a unit (R362). -/
def State.unitLoad (s : State) (kind u : Nat) : Nat :=
  (s.tasks.filter (fun e => s.boundTo e.2 kind u)).length +
  (s.launches.map (fun e => if e.2.live then e.2.waitingIn kind u else 0)).foldl (· + ·) 0

/-- A size key rounded up to 512 bytes (R202). -/
def roundAlloc (n : Nat) : Nat := 512 * cdiv n 512

/-- A buffer with these allocation sizes has room for one more (R202): at most eight, within its capacity. -/
def bufferFits (sizes : List Nat) (n cap : Nat) : Bool :=
  let used := sizes.filter (· != 0)
  n == 0 || (decide (used.length < 8) && decide (used.foldl (· + ·) 0 + n ≤ cap))

/-- A core can hold a launch's allocations (R363). -/
def State.canHold (s : State) (lno : Nat) (r c : Nat) : Bool :=
  let k := s.core c
  k.allocs.any (fun a => a.lno == lno) ||
  (bufferFits (k.allocs.map (·.w.size)) (roundAlloc (recWbuf r)) (4 * 2 ^ 20) &&
   bufferFits (k.allocs.map (·.a.size)) (roundAlloc (recAbuf r)) (4 * 2 ^ 20) &&
   bufferFits (k.allocs.map (·.c.size)) (roundAlloc (recCbuf r)) (2 * 2 ^ 20))

/-- A core serves tasks: its tower is ONLINE (R302) and one of its harts is in service (R136). -/
def State.coreServes (s : State) (c : Nat) : Bool :=
  (s.tower (c / 64)).st == .online && (List.range 4).any (fun k => !(s.hart (4 * c + k)).halted)

/-- The unit with the least load, the lowest number among equals. -/
def State.leastLoaded (s : State) (kind : Nat) (us : List Nat) : Option Nat :=
  us.foldl (fun best u =>
    match best with
    | none => some u
    | some b => if s.unitLoad kind u < s.unitLoad kind b then some u else some b) none

/-- The unit for a new instance of level j that holds task t, within the units already bound (R362). -/
def State.chooseUnit (s : State) (lno : Nat) (l : Launch) (j t : Nat) (bound : List (Nat × Nat)) : Option Nat :=
  let r := l.record
  let kind := recKind r j
  let room := (List.range (unitCount kind)).filter (fun u =>
    (coresOf kind u).any (fun c => bound.all (fun b => unitOfCore b.1 c == b.2) && s.coreServes c && s.canHold lno r c))
  let parent (i : Nat) : Nat := i / recExtent r j
  let sib := (l.placed.filter (fun p => p.1 == j && parent p.2.1 == parent (recInst r j t))).map (fun p => p.2.2)
  let fresh := room.filter (fun u => !sib.contains u)
  s.leastLoaded kind (if recDistinct r j && !fresh.isEmpty then fresh else room)

/-- The units, level by level, to which task t is or will be bound, with the instances this places anew; none where an instance
finds no unit with room (R362). -/
def State.bindings (s : State) (lno : Nat) (l : Launch) (t : Nat) :
    Nat → Option (List (Nat × Nat) × List (Nat × Nat × Nat))
  | 0 => some ([], [])
  | j + 1 =>
    match s.bindings lno l t j with
    | none => none
    | some (bound, fresh) =>
      if recKind l.record j = 0 then some (bound, fresh)
      else
        match l.placed.find? (fun p => p.1 == j && p.2.1 == recInst l.record j t) with
        | some p => some (bound ++ [(recKind l.record j, p.2.2)], fresh)
        | none =>
          match s.chooseUnit lno l j t bound with
          | some u => some (bound ++ [(recKind l.record j, u)], fresh ++ [(j, recInst l.record j t, u)])
          | none => none

/-- Bindings of a launched task over all its levels. -/
def State.taskBindings (s : State) (lno : Nat) (l : Launch) (t : Nat) : Option (List (Nat × Nat) × List (Nat × Nat × Nat)) :=
  s.bindings lno l t (recNlev l.record)

/-- The cluster to which the named tasks of a launch homed in a cluster move while its tower is not ONLINE (R364, R261): the one
that others have taken, else the least loaded that serves. -/
def State.refuge (s : State) (lno home : Nat) : List (Nat × Nat) :=
  if (s.tower (home / 8)).st == .online then []
  else match s.tasks.find? (fun e => e.2.lno == lno && e.2.named.isSome && e.2.home == home && !e.2.moved.isEmpty) with
    | some e => e.2.moved
    | none =>
      match s.leastLoaded 2 ((List.range 64).filter (fun u => (coresOf 2 u).any s.coreServes)) with
      | some u => [(2, u)]
      | none => []

end Sys2Proof.Machine
end

