-- ==== Sys2Proof/Machine/Ops.lean ====
section
/-! DEFINITION. The named operations that meanings share: retiring a word, control registers, records, page requests, context
frames, lane targets, precise stops, trap entry and the return from it, and the end of a task (R25 to R49, R195, R196, R209 to
R212, R349, R372 to R376). -/

namespace Sys2Proof.Machine

open Sys2Proof

/-- The outcome type of every meaning. -/
abbrev Out1 := Host.Outcome State Fault Refusal

/-- PC of hart h (R35). -/
def State.pc (s : State) (h : Nat) : Word := (s.ctx h).pc

/-- CP of hart h (R35): the first word of the oldest convoy not fully committed, PC when the queue is empty. -/
def State.cp (s : State) (h : Nat) : Word :=
  match (s.hart h).queue with
  | e :: _ => e.addr
  | [] => s.pc h

/-- A word of the scalar front has retired and the next one stands at `pc`: it closes the open convoy (R76) and counts (R208). -/
def State.retireTo (s : State) (h : Nat) (pc : Word) : State :=
  (s.setHart h { s.hart h with
    ctx := { (s.hart h).ctx with pc := pc }, openConvoy := false, noMatch := false, waiting := .none, spin := 0 }).count (coreOf h) 1 1

/-- A word of the scalar front has retired. -/
def State.retire (s : State) (h : Nat) : State := s.retireTo h (s.pc h + 4)

/-- The front of hart h waits; its word has K = 1, so the open convoy closes (R76, R369).  MODEL (log 8): the word runs again. -/
def State.holdFront (s : State) (h : Nat) (w : WaitFor) : State :=
  s.updHart h (fun t => { t with waiting := w, openConvoy := false })

/-- A stop of hart h that cannot be taken yet is held (R39, R245): the word at PC may still join the open convoy (R75). -/
def State.holdStop (s : State) (h : Nat) (w : WaitFor) : State := s.updHart h (fun t => { t with waiting := w })

/-- Bits of an EIX register (R31). -/
def Eix.bits (e : Eix) : Nat := e.seq * 2 ^ 16 + b2n e.valid * 2 ^ 15 + b2n e.live * 2 ^ 14 + e.idx

/-- An EIX register from its bits. -/
def Eix.ofBits (n : Nat) : Eix :=
  { seq := Machine.bits n 31 16, valid := bit n 15, live := bit n 14, idx := Machine.bits n 11 0 }

/-- Limit of the Gust gate that tasks see (R34): THRESH of the core. -/
def Core.thresh (k : Core) : Nat := bits k.gustCfg 23 0

/-- GB (R34). -/
def State.gb (s : State) (h : Nat) : Nat :=
  (s.core (coreOf h)).gustLevel * 2 ^ 40 + (s.core (coreOf h)).thresh * 2 ^ 16 + (s.ctx h).prio

/-- TSTAT (R34). -/
def Ctx.tstat (c : Ctx) : Nat := c.prio * 4 + b2n c.inh * 2 + b2n c.prv

/-- ENQ (R40). -/
def Ctx.enq (c : Ctx) : Nat := c.enqN * 2 ^ 32 + c.enqSeq0

/-- The control register with a select, TDLO and TDHI apart (R25 to R34, R40). -/
def Ctx.ctrl (c : Ctx) (gb hartid sel : Nat) : Nat :=
  match sel with
  | 0x000 => c.vt
  | 0x001 => c.vl
  | 0x002 => c.vs
  | 0x003 => c.wb
  | 0x004 => c.vcount * 2 ^ 32 + c.vbase
  | 0x005 => c.fv
  | 0x006 => c.ft
  | 0x008 | 0x009 | 0x00A | 0x00B | 0x00C | 0x00D => (Tbl.get Eix.zero c.eixV (sel - 0x008)).bits
  | 0x010 | 0x011 | 0x012 | 0x013 | 0x014 | 0x015 => (Tbl.get Eix.zero c.eixT (sel - 0x010)).bits
  | 0x018 => c.vseq
  | 0x020 => c.key.toNat
  | 0x021 => c.strm.toNat
  | 0x022 => c.srq.toNat
  | 0x023 => c.pkey.toNat
  | 0x028 => c.ast.toNat
  | 0x029 => gb
  | 0x030 => c.tvec.toNat
  | 0x031 => c.tstat
  | 0x032 => c.epc.toNat
  | 0x033 => c.ecp.toNat
  | 0x034 => c.evs.toNat
  | 0x035 => c.ecause.toNat
  | 0x036 => c.evalr.toNat
  | 0x037 => c.enq
  | 0x038 => c.frm
  | 0x039 => hartid
  | 0x03A => c.tdsel
  | _ => 0

/-- The control register of hart h with a select. -/
def State.ctrl (s : State) (h sel : Nat) : Nat := (s.ctx h).ctrl (s.gb h) h sel

/-- A strip record (R210). -/
def Strip.record (p : Strip) (valid fin : Bool) (hart groups vl seq time : Nat) : Nat :=
  b2n valid * 2 ^ 255 + b2n p.first * 2 ^ 254 + b2n fin * 2 ^ 253 + b2n p.pre * 2 ^ 252 + b2n p.sat * 2 ^ 251 +
  b2n p.lost * 2 ^ 250 + p.pc % 2 ^ 56 * 2 ^ 192 + p.cyc % 2 ^ 32 * 2 ^ 160 + p.abusy % 2 ^ 32 * 2 ^ 128 +
  p.mbusy % 2 ^ 32 * 2 ^ 96 + hart * 2 ^ 85 + groups * 2 ^ 80 + vl * 2 ^ 64 + seq * 2 ^ 48 + time % 2 ^ 48

/-- An open strip from a saved record (R372). -/
def Strip.ofRecord (n : Nat) : Strip :=
  { pc := bits n 247 192, cyc := bits n 191 160, abusy := bits n 159 128, mbusy := bits n 127 96, first := bit n 254,
    pre := bit n 252, sat := bit n 251, lost := bit n 250 }

/-- A dump entry (R40). -/
def QEntry.dump (e : QEntry) : Nat :=
  e.word.toNat + e.opA.toNat * 2 ^ 32 + e.opB.toNat % 2 ^ 24 * 2 ^ 96 + 2 ^ 120 + b2n e.capA * 2 ^ 121 +
  b2n e.capB * 2 ^ 122 + b2n e.done * 2 ^ 123

/-- A queue entry from a dump entry. -/
def QEntry.ofDump (n : Nat) (addr : Word) (seq : Nat) : QEntry :=
  { word := BitVec.ofNat 32 n, addr := addr, opA := BitVec.ofNat 64 (bits n 95 32), opB := sext 24 (bits n 119 96), capA := bit n 121,
    capB := bit n 122, seq := seq, done := bit n 123 }

/-- Run a meaning and keep its state, whatever way it ends. -/
def State.runM (s : State) {α : Type} (m : M α) : State :=
  match m.run s with
  | .ok _ t => t
  | .error _ t => keepSide s t

/-- Run a meaning for its answer. -/
def State.evalM (s : State) {α : Type} (d : α) (m : M α) : α × State :=
  match m.run s with
  | .ok a t => (a, t)
  | .error _ t => (d, keepSide s t)

/-- Run the reads or writes of an engine; none where an access has to wait at a tile in arrival state (R309). -/
def State.tryM (s : State) {α : Type} (m : M α) : Option α × State :=
  match m.run s with
  | .ok a t => (some a, t)
  | .error _ t => (none, keepSide s t)

/-- The task becomes ready at a time (R365): from then on it ages anew (R368). -/
def Task.toReady (t : Task) (now : Nat) : Task := { t with st := .ready, since := now, aged := false }

/-- A requester for the launch's own tables at a base die (R211, R361, R376). -/
def State.launchReq (s : State) (lno tower : Nat) : Req :=
  { via := .base tower, lno := lno, sup := ((s.launch lno).map (fun l => recSupv l.record)).getD false, hart := none }

/-- Put a record into a ring of 2^logn slots (R211): the header's PROD takes an afab bounded by CONS + 2^logn.  Answers whether
the record was written; DROP counts it otherwise. -/
def ringPut (r : Req) (ring logn size : Nat) (rec : Nat) : M (Except AccFault Bool) := do
  match ← resolve r .atomic ring 24 with
  | .error e => return .error e
  | .ok hp =>
    let s ← get
    if s.piecesPoisoned hp then return .error .uncorr
    let hd := s.readPieces hp
    let pa := (hp.head?.map (·.pa)).getD 0
    let prod := bits hd 63 0
    if prod < bits hd 127 64 + 2 ^ logn then
      match ← resolve r .store (ring + 64 + size * (prod % 2 ^ logn)) size with
      | .error e => return .error e
      | .ok sp =>
        modify (fun s => (s.writePa none pa (toBytes 8 (prod + 1))).writePieces none sp rec)
        return .ok true
    else
      modify (fun s => s.writePa none (pa + 16) (toBytes 8 (bits hd 191 128 + 1)))
      return .ok false

/-- The request is for a page of a launch (R349). -/
def PageReq.isFor (r : PageReq) (lno : Nat) (p : PageAddr) : Bool := r.lno == lno && r.page == p.number && r.host == p.host.isSome

/-- A requester joins a request (R349). -/
def PageReq.join (r : PageReq) (va need : Nat) (w : Waiter) : PageReq :=
  { r with need := r.need ||| need, waiters := if r.waiters.any (fun x => x.1 == w) then r.waiters else r.waiters ++ [(w, va)] }

/-- Ask for a page: one request for each (LNO, page), joined by every requester (R349). -/
def State.requestPage (s : State) (lno : Nat) (p : PageAddr) (need : Nat) (w : Waiter) : State :=
  match s.slots.find? (fun e => !e.2.dead && e.2.req.any (fun r => r.isFor lno p)) with
  | some (k, slot) => { s with slots := Tbl.set s.slots k { slot with req := slot.req.map (fun r => r.join p.va need w) } }
  | none =>
    if s.pageWait.any (fun r => r.isFor lno p) then
      { s with pageWait := s.pageWait.map (fun r => if r.isFor lno p then r.join p.va need w else r) }
    else { s with pageWait := s.pageWait ++ [
      { lno := lno, page := p.number, host := p.host.isSome, pasid := ((s.launch lno).map (·.pasid)).getD 0, need := need,
        waiters := [(w, p.va)], tries := 0 }] }

/-- Put an error record into the Barometer log only (R376).  DESIGN CHOICE (log 18): class 0. -/
def State.logError (s : State) (lno : Nat) (rec : Nat) : State :=
  s.logHealth 0 0 lno (bits rec 455 448) (bits rec 447 384) (bits rec 223 192)

/-- Write the records of a launch that wait for its ring, oldest first (R376). -/
def flushList (lno : Nat) : List ErrRec → M Unit
  | [] => pure ()
  | r :: rs => do
    let s ← get
    match s.launch lno with
    | none => pure ()
    | some l =>
      match ← ringPut (s.launchReq lno 0) (recEq l.record) (recEqn l.record) 64 r with
      | .ok _ =>
        modify (fun s => s.updLaunch lno (fun l => { l with errq := rs }))
        flushList lno rs
      | .error (.page p) =>
        modify (fun s => (s.updLaunch lno (fun l => { l with eqHeld := true })).requestPage lno p 3 (.errRing lno))
      | .error _ =>
        modify (fun s => (s.logError lno r).updLaunch lno (fun l => { l with errq := rs }))
        flushList lno rs

/-- Write the waiting records of a launch unless a page is out for its ring. -/
def State.flushErrors (s : State) (lno : Nat) : State :=
  match s.launch lno with
  | some l => if l.eqHeld then s else s.runM (flushList lno l.errq)
  | none => s

/-- An error record (R376). -/
def errorBits (time cause : Nat) (ev pc cp : Word) (vs task va info : Nat) : Nat :=
  2 ^ 511 + time % 2 ^ 48 * 2 ^ 456 + cause * 2 ^ 448 + ev.toNat * 2 ^ 384 + pc.toNat * 2 ^ 320 + cp.toNat * 2 ^ 256 +
  vs % 2 ^ 12 * 2 ^ 244 + task * 2 ^ 192 + va * 2 ^ 128 + info * 2 ^ 64

/-- Count an error record of a launch and give it to the ring, or to the log where the launch has no ring (R376). -/
def State.errorRecord (s : State) (lno cause : Nat) (ev pc cp : Word) (vs task va info : Nat) : State :=
  match s.launch lno with
  | none => s
  | some l =>
    let bits := errorBits s.time cause ev pc cp vs task va info
    let s := s.updLaunch lno (fun l => { l with errors := min (2 ^ 32 - 1) (l.errors + 1) })
    if recEq l.record = 0 then s.logError lno bits
    else (s.updLaunch lno (fun l => { l with errq := l.errq ++ [bits] })).flushErrors lno

/-- TASK of a launch-level record, and of a named task (R376; log 19). -/
def noTask : Nat := 2 ^ 32 - 1

/-- A launch-level record (R376). -/
def State.launchRecord (s : State) (lno cause : Nat) (ev : Word) (va info : Nat) : State :=
  s.errorRecord lno cause ev 0 0 0 noTask va info

/-- Close the open strip: a record goes to the launch's ring (R209 to R211); answers LOST for the task's next record.
DESIGN CHOICE (log 105): a record whose ring cannot be translated, read or written is dropped as LOST; it counts no DROP and asks for no
page. -/
def closeStrip (lno hart groups : Nat) (c : Ctx) (fin : Bool) : M Bool := do
  let s ← get
  match s.launch lno with
  | none => return false
  | some l =>
    if recRing l.record = 0 then return false
    else
      let bits := c.strip.record true fin hart groups c.vl c.vseq s.time
      match ← ringPut (s.launchReq lno (hartTower hart)) (recRing l.record) (recRingn l.record) 32 bits with
      | .ok b => return !b
      | .error _ => return true

/-- Close the strip of hart h and open the next at its PC (R209). -/
def State.nextStrip (s : State) (h : Nat) : State :=
  let r := s.evalM true (closeStrip (s.hartLno h) h (s.hart h).groups.length (s.ctx h) false)
  r.2.updCtx h (fun c => { c with strip := { Strip.zero with pc := c.pc.toNat, lost := r.1 } })

/-- EVAL of a guard latch (R44). -/
def GuardLatch.eval (g : GuardLatch) : Word := word (g.more * 2 ^ 48 + g.buf * 2 ^ 40 + g.bank * 2 ^ 32 + g.off)

/-- A guard latch from its EVAL (R372). -/
def GuardLatch.ofEval (n : Nat) : GuardLatch :=
  { buf := bits n 47 40, bank := bits n 39 32, off := bits n 23 0, more := bits n 63 48 }

/-- Record a guard touch (R203). -/
def Ctx.touchGuard (c : Ctx) (buf bank off : Nat) : Ctx :=
  match c.guard with
  | none => { c with guard := some { buf := buf, bank := bank, off := off, more := 0 } }
  | some g => { c with guard := some { g with more := min 65535 (g.more + 1) } }

/-- The fields of a frame (R372) as (offset, bytes, value): what the table lays out outside the vector region. -/
def Ctx.frameFields (c : Ctx) (gb hart groups time : Nat) (cp : Word) (since : Nat) (dump : List QEntry) :
    List (Nat × Nat × Nat) :=
  [(0x00, 8, c.pc.toNat), (0x08, 8, cp.toNat), (0x10, 8, c.tepoch),
   (0x18, 8, (c.guard.map (fun g => g.eval.toNat)).getD 0), (0x20, 8, (c.copyFault.map (·.toNat)).getD 0),
   (0x28, 8, b2n c.copyFault.isSome * 2 ^ 63 + b2n c.guard.isSome * 2 ^ 62 + b2n c.bovf.isSome * 2 ^ 61 + c.bovf.getD 0),
   (0x30, 8, since),
   (0x40, 32, c.strip.record false false hart groups c.vl c.vseq time),
   (0x60, 8, c.cnt), (0x68, 8, c.mean), (0x70, 8, c.m2), (0x78, 8, c.out)] ++
  (List.range 8).map (fun k => (0x100 + 8 * k, 8, (Tbl.get 0 c.sw k).toNat)) ++
  (List.range 64).map (fun k => (0x200 + 8 * k, 8, c.ctrl gb hart k)) ++
  (List.range 128).map (fun k => (0x400 + 8 * k, 8, if k = 0 then 0 else (Tbl.get 0 c.x k).toNat)) ++
  (List.range 32).map (fun k => (0x800 + 16 * k, 16, ((dump[k]?).map (·.dump)).getD 0)) ++
  (List.range 8).map (fun k => (0xE00 + 16 * k, 16, c.copyReg k)) ++
  (List.range 32).map (fun k => (0x1000 + 32 * k, 32, Tbl.get 0 c.h k)) ++
  (List.range 2048).map (fun k => (0x1400 + k, 1, c.scale k)) ++
  (List.range 8).map (fun k => (0x2000 + 512 * k, 512, c.mask k))

/-- Write fields of a frame. -/
def State.putFields (s : State) (base : Nat) (fs : List (Nat × Nat × Nat)) : State :=
  fs.foldl (fun s f => s.writePa none (base + f.1) (toBytes f.2.1 f.2.2)) s

/-- Save the context of hart h, stopped with a dump, into its frame (R372, R373). -/
def State.saveFrame (s : State) (h : Nat) (cp : Word) (dump : List QEntry) : State :=
  let c := s.ctx h
  let s1 := s.putFields c.frm (c.frameFields (s.gb h) h (s.hart h).groups.length s.time cp s.time dump)
  s1.putFields c.frm ((List.range c.vcount).map (fun n => (0x80000 + 4096 * n, 4096, s.vreg (coreOf h) (c.vbase + n))))

/-- Fill a table from a function on 0 … n - 1. -/
def tblOf {α : Type} (n : Nat) (f : Nat → α) : Tbl α := (List.range n).map (fun k => (k, f k))

/-- Fields of a control register that a save holds: its RSV bits read zero whatever the frame holds (R6, R27 to R34, R44 to R47). -/
def ctlMask (sel : Nat) : Nat :=
  match sel with
  | 0x000 => 2 ^ 32 - 1
  | 0x001 => 2 ^ 13 - 1
  | 0x002 => 2 ^ 12 - 1
  | 0x003 => 2 ^ 11 - 1
  | 0x005 | 0x006 => 2 ^ 6 - 1
  | 0x018 => 2 ^ 16 - 1
  | 0x028 => 2 ^ 64 - 1 - (2 ^ 24 - 4)
  | 0x030 => 2 ^ 56 - 4
  | 0x035 => 2 ^ 8 - 1
  | 0x03A => 2 ^ 5 - 1
  | _ => 2 ^ 64 - 1

/-- The context that a frame holds (R372); VRGN.BASE and the fields of the hart come from the caller. -/
def State.readFrame (s : State) (base : Nat) : Ctx :=
  let r (off len : Nat) : Nat := s.mem.readN (base + off) len
  let ctl (sel : Nat) : Nat := r (0x200 + 8 * sel) 8 &&& ctlMask sel
  let flags := r 0x28 8
  { x := tblOf 128 (fun k => word (r (0x400 + 8 * k) 8)),
    q := tblOf 8 (fun k => r (0x2000 + 512 * k) 512),
    h := tblOf 32 (fun k => r (0x1000 + 32 * k) 32),
    sf := tblOf 2048 (fun k => r (0x1400 + k) 1),
    vt := ctl 0x000, vl := ctl 0x001, vs := ctl 0x002, wb := ctl 0x003,
    vbase := bits (ctl 0x004) 10 0, vcount := bits (ctl 0x004) 43 32, fv := ctl 0x005, ft := ctl 0x006,
    eixV := tblOf 6 (fun k => Eix.ofBits (ctl (0x008 + k))), eixT := tblOf 6 (fun k => Eix.ofBits (ctl (0x010 + k))),
    vseq := ctl 0x018, key := word (ctl 0x020), strm := word (ctl 0x021), srq := word (ctl 0x022), pkey := word (ctl 0x023),
    ast := word (ctl 0x028), tvec := word (ctl 0x030), prio := bits (ctl 0x031) 3 2, inh := bit (ctl 0x031) 1,
    prv := bit (ctl 0x031) 0, epc := word (ctl 0x032), ecp := word (ctl 0x033), evs := word (ctl 0x034), ecause := word (ctl 0x035),
    evalr := word (ctl 0x036), enqN := bits (ctl 0x037) 37 32, enqSeq0 := bits (ctl 0x037) 15 0, frm := ctl 0x038,
    tdsel := ctl 0x03A, pc := word (r 0x00 8), tepoch := r 0x10 8,
    guard := if bit flags 62 then some (GuardLatch.ofEval (r 0x18 8)) else none,
    copyFault := if bit flags 63 then some (word (r 0x20 8)) else none,
    bovf := if bit flags 61 then some (bits flags 2 0) else none,
    strip := Strip.ofRecord (r 0x40 32), cnt := r 0x60 8, mean := r 0x68 8, m2 := r 0x70 8, out := r 0x78 8 % 2 ^ 21,
    sw := tblOf 8 (fun k => word (r (0x100 + 8 * k) 8)), cp := tblOf 8 (fun k => r (0xE00 + 16 * k) 16) }

/-- CP as a frame holds it. -/
def State.frameCp (s : State) (base : Nat) : Word := word (s.mem.readN (base + 8) 8)

/-- Lane groups a hart requests (R195). -/
def State.laneRequest (s : State) (h : Nat) : Nat :=
  if (s.hart h).task.isSome then min 16 (cdiv (s.ctx h).vl 8) else 0

/-- One pass of Targets (R195) over (hart, request, target) in order. -/
def targetPass : Nat → List (Nat × Nat × Nat) → List (Nat × Nat × Nat)
  | _, [] => []
  | free, (h, r, t) :: rest =>
    if t < r && 0 < free then (h, r, t + 1) :: targetPass (free - 1) rest else (h, r, t) :: targetPass free rest

/-- Targets (R195): at most 16 passes. -/
def targetLoop : Nat → List (Nat × Nat × Nat) → List (Nat × Nat × Nat)
  | 0, l => l
  | n + 1, l => targetLoop n (targetPass (16 - (l.map (·.2.2)).foldl (· + ·) 0) l)

/-- Insert a hart by priority, highest first, lowest number first among equals. -/
def byPrio (p : Nat → Nat) (h : Nat) : List Nat → List Nat
  | [] => [h]
  | g :: gs => if p h > p g then h :: g :: gs else g :: byPrio p h gs

/-- Harts of a core in the order of R195 and R198. -/
def State.hartsByPrio (s : State) (c : Nat) : List Nat :=
  (List.range 4).foldl (fun l k => byPrio (fun h => (s.ctx h).prio) (4 * c + k) l) []

/-- Recompute the lane allocation table of a core (R195) and take back what harts without a convoy in flight hold above their
targets (R196). -/
def State.retarget (s : State) (c : Nat) : State :=
  let ts := targetLoop 16 ((s.hartsByPrio c).map (fun h => (h, s.laneRequest h, 0)))
  ts.foldl (fun s e => s.updHart e.1 (fun t =>
    { t with target := e.2.2, groups := if t.released then t.groups else t.groups.take e.2.2 })) s

/-- No transfer of the task's own is in flight: copies and gathers (R132, R245, R356). -/
def State.transfersDone (s : State) (tid : Nat) : Bool :=
  s.cores.all (fun e => e.2.copies.all (fun j => j.task != tid)) && s.gathers.all (fun g => g.task != tid)

/-- A precise stop of hart h can be taken: no matrix word that has begun, and no remote element under way but one that waits at its
bank (R39, R178, R249). -/
def State.stoppable (s : State) (h : Nat) : Bool :=
  (match (s.core (coreOf h)).job with
   | some j => j.hart != h || (!j.granted && j.passes == 0)
   | none => true) && ((s.hart h).remote == .idle || (s.hart h).remote == .waiting)

/-- The context of hart h can be saved: its stop can be taken and no engine transfer is in flight (R186, R245, R356). -/
def State.savable (s : State) (h : Nat) : Bool :=
  s.stoppable h && (match (s.hart h).task with | some t => s.transfersDone t | none => true)

/-- ENQ as a stop writes it (R39).
DESIGN CHOICE (log 95): SEQ0 of an empty dump, which has no Dump[0], is VSEQ. -/
def Ctx.enqueued (c : Ctx) (q : List QEntry) : Ctx :=
  { c with enqN := q.length, enqSeq0 := ((q.head?).map (·.seq)).getD c.vseq }

/-- The convoy of hart h is in flight no more (R196, R231): surplus lane groups and the interlock entries of its drains go. -/
def State.landConvoy (s : State) (h : Nat) : State :=
  (s.updHart h (fun t => { t with
    released := false, readyAt := 0, groups := t.groups.take t.target, unordered := [], snap := none, vwait := .none, vspin := 0 })).updCore (coreOf h)
    (fun k => { k with interlock := k.interlock.filter (fun e => e.kind != 2 || e.hart != h) })

/-- A remote element that waits at its bank is withdrawn (R178). -/
def State.withdraw (s : State) (h : Nat) : State :=
  if (s.hart h).remote != .waiting then s
  else State.updHart { s with cores := s.cores.map (fun e => (e.1, { e.2 with inbox := e.2.inbox.filter (· != h) })) } h
    (fun t => { t with remote := .idle, guardPending := [] })

/-- What every precise stop of hart h does at the element VS holds (R39, R129, R208): ENQ names the dump, held results and waits are
discarded, the reservation is lost. -/
def State.stopHart (s : State) (h : Nat) : State :=
  (((s.withdraw h).landConvoy h).updHart h (fun t => { t with
    ctx := t.ctx.enqueued t.queue, resv := none, waiting := .none, spin := 0 })).count (coreOf h) 11 1

/-- A precise stop that takes the queue off hart h (R39).  Answers the state, the dump and whether its youngest convoy was still
open. -/
def State.preciseStop (s : State) (h : Nat) : State × List QEntry × Bool :=
  let t := s.hart h
  let s := (s.stopHart h).updHart h (fun t => { t with queue := [], openConvoy := false, aheadAt := 0 })
  (s.updCore (coreOf h) (fun k => { k with job := k.job.filter (fun j => j.hart != h) }), t.queue, t.openConvoy)

/-- LIVE is cleared for every EIX register whose SEQ names no entry in flight (R31). -/
def liveOnly (q : List QEntry) (t : Tbl Eix) : Tbl Eix :=
  t.map (fun e => (e.1, { e.2 with live := e.2.live && q.any (fun w => !w.done && w.seq == e.2.seq) }))

/-- What the tasks of a launch homed in a cluster still are: live, or unstarted and bound there (R251). -/
def State.homedIn (s : State) (lno cl : Nat) : Bool :=
  s.tasks.any (fun e => e.2.lno == lno && e.2.home == cl) ||
  (match s.launch lno with
   | some l => l.placed.any (fun p => unitWithin (recKind l.record p.1) p.2.2 2 cl && l.unstartedOf p.1 p.2.1 != 0)
   | none => false)

/-- The barriers of a cluster that a launch begins to hold with its first task homed there are clear (R251). Those it gave up before stand
as it left them until then (R400). DESIGN CHOICE (log 127): each launch with a task homed in a cluster holds its eight, however many such
launches there are. -/
def State.holdBarriers (s : State) (lno cl : Nat) : State :=
  if s.homedIn lno cl then s
  else s.updCluster cl (fun k => { k with bars := k.bars.filter (fun b => b.1 / 8 != lno) })

/-- A task ends on tower tw with positions it owed, which can no longer be given (R394).  The samples it has given go to the tower's
slice, so that the result still covers S - LOSTN positions (DEDUCED, log 90). -/
def State.loseOwed (s : State) (lno tw : Nat) (c : Ctx) : State :=
  if c.out = 0 then s
  else match Tbl.find s.sounding lno with
    | some d =>
      State.giveSlice { s with sounding := Tbl.set s.sounding lno { d with x := d.x - c.out, lost := true, lostn := d.lostn + c.out } } tw lno
        { n := c.cnt, mean := c.mean, m2 := c.m2 }
    | none => s

/-- Seal the claim counter (R394): S := CC, the cause and the time. -/
def Sounding.seal (d : Sounding) (cause time : Nat) : Sounding :=
  if d.isSealed then d else { d with isSealed := true, s := d.cc, cause := cause, sealT := time }

/-- Every task that a launch created has ended (R375). -/
def State.allEnded (s : State) (lno : Nat) (l : Launch) : Bool :=
  l.begun.length == l.total && !s.tasks.any (fun e => e.2.lno == lno)

/-- The last task of a Sounding launch has ended unsealed: stop cause END (R394). -/
def State.sealEnd (s : State) (lno : Nat) : State :=
  match s.launch lno, Tbl.find s.sounding lno with
  | some l, some d =>
    if s.allEnded lno l then { s with sounding := Tbl.set s.sounding lno (d.seal 4 s.time) } else s
  | _, _ => s

/-- The release of an Anvil by its owner's end (R216, R374): it becomes free at ANVIL_FREE. -/
def State.releaseAnvil (s : State) (tid : Nat) : State :=
  { s with cores := s.cores.map (fun e =>
    if e.2.anvil.owner == some tid || e.2.anvil.releasing == some tid then
      (e.1, { e.2 with anvil := { e.2.anvil with owner := none, releasing := some tid, relDone := true } })
    else e) }

/-- Records of the latches that are still set when a task ends (R203, R246, R374). -/
def State.latchRecords (s : State) (lno t : Nat) (c : Ctx) (cp : Word) : State :=
  let s := match c.guard with
    | some g => s.errorRecord lno cGUARD g.eval c.pc cp c.vs t 0 0
    | none => s
  let s := match c.copyFault with
    | some a => s.errorRecord lno cCOPY a c.pc cp c.vs t 0 0
    | none => s
  match c.bovf with
  | some b => s.errorRecord lno cBOVF (word b) c.pc cp c.vs t 0 0
  | none => s

/-- A hart without a task; its service state stays (R136, R213). -/
def Hart.vacate (t : Hart) : Hart := { Hart.reset with halted := t.halted, dbg := t.dbg }

/-- Decrement completion counter c of a launch, where one is named (R445). -/
def State.decCtr (s : State) (lno c : Nat) : State :=
  if c = 127 then s else s.updLaunch lno (fun l => { l with ctrs := Tbl.upd 0 l.ctrs c (fun v => v - 1) })

/-- Copies and gathers of a task that has ended stop where they stand, and its hart's remote element is forgotten: a task that ends
by R374 has none (log 27). -/
def State.dropTransfers (s : State) (tid : Nat) (on : Option Nat) : State :=
  let mine (h : Nat) : Bool := on == some h
  let core (k : Core) : Core :=
    let gone := k.copies.filter (fun j => j.task == tid)
    if gone.isEmpty && !k.inbox.any mine && !k.replies.any mine then k
    else
      { k with
        copies := k.copies.filter (fun j => j.task != tid),
        interlock := k.interlock.filter (fun e => e.kind != 0 || !gone.any (fun j => j.ident == e.ident)),
        unlanded := k.unlanded.filter (fun r => !gone.any (fun j => j.dst.space == 4 && decide (8 * j.group ≤ r.1) && decide (r.1 < 8 * (j.group + j.nr)))),
        inbox := k.inbox.filter (fun h => !mine h), replies := k.replies.filter (fun h => !mine h) }
  let lost := s.gathers.filter (fun g => g.task == tid)
  let s := { s with cores := s.cores.map (fun e => (e.1, core e.2)), gathers := s.gathers.filter (fun g => g.task != tid) }
  if lost.isEmpty then s
  else lost.foldl (fun s g => s.decCtr g.lno g.lctr) { s with cores := s.cores.map (fun e => (e.1, { e.2 with
    interlock := e.2.interlock.filter (fun x => x.kind != 1 || !lost.any (fun g => g.ident == x.ident)) })) }

/-- Answer a mailbox command: status and length of BMSTAT, and vector 0 (R416, R424). -/
def State.answer (s : State) (st len : Nat) : State := State.msi { s with bmst := st, bmlen := len } 0

/-- Status codes of R416 and R430. -/
def bmOK : Nat := 0
def bmBUSY : Nat := 1
def bmBADCMD : Nat := 2
def bmBADARG : Nat := 3
def bmSHORT : Nat := 4
def bmSTATE : Nat := 5
def bmAUTH : Nat := 6
def bmROLLBACK : Nat := 7

/-- `bmst` of a command in progress, BMSTAT.BUSY = 1: the command with this code goes on with its next step (R416). -/
def bmBusyWith (code : Nat) : Nat := 16 + code

/-- Run a mailbox command (R416, R429): ignored while another is in progress; the recovery loader answers STATE unless `recovery`.
`act` gives the status and length, or none while the command is still in progress; a command in progress goes on with the arguments
that it was given. -/
def State.command (s : State) (code : Nat) (recovery : Bool) (act : State → State × Option (Nat × Nat)) : State :=
  if 16 ≤ s.bmst && s.bmst != bmBusyWith code then s
  else if s.fw.recovery && !recovery then s.answer bmSTATE 0
  else
    let given := if 16 ≤ s.bmst then s.bmheld else (s.bmarg, s.bmrsp)
    let r := act { s with bmarg := given.1, bmrsp := given.2 }
    let t : State := { r.1 with bmarg := s.bmarg, bmrsp := s.bmrsp }
    match r.2 with
    | some a => t.answer a.1 a.2
    | none => { t with bmst := bmBusyWith code, bmlen := 0, bmheld := given }

/-- A waiter is still there (R350). -/
def State.waits (s : State) : Waiter → Bool
  | .task t => (s.taskOf t).any (fun t => t.st == .pagewait)
  | .copy c n => (s.core c).copies.any (fun j => j.ident == n)
  | .gather n => s.gathers.any (fun g => g.ident == n)
  | .jet g n => s.jets.any (fun j => j.gid == g && j.run == n)
  | .net l n => s.work.any (fun w => w.lno == l && w.seq == n)
  | .netTarget l _ _ _ | .jetTarget l _ _ _ _ => (s.launch l).any (·.live)
  | .errRing l => (s.launch l).any (·.eqHeld)
  | .block _ t => (s.taskOf t).isSome
  | .sounding l => (Tbl.find s.sounding l).any (·.held)

/-- Waiters that have gone leave their requests; a slot without waiters is DEAD, an unsent request is forgotten (R350). -/
def State.prunePages (s : State) : State :=
  if s.slots.isEmpty && s.pageWait.isEmpty then s
  else
    let trim (r : PageReq) : PageReq := { r with waiters := r.waiters.filter (fun x => s.waits x.1) }
    let slot (p : PageSlot) : PageSlot :=
      match p.req with
      | some r => let r' := trim r; { p with dead := p.dead || r'.waiters.isEmpty, req := some r' }
      | none => p
    { s with slots := s.slots.map (fun e => (e.1, slot e.2)), pageWait := (s.pageWait.map trim).filter (fun r => !r.waiters.isEmpty) }

/-- The end of a task whose context is c, on hart `on` or swapped out (R374): Anvil, strip, latches, Sounding, frame, region and
hart, then what its launch and home cluster no longer hold. -/
def State.endTask (s : State) (tid : Nat) (c : Ctx) (cp : Word) (on : Option Nat) : State :=
  match s.taskOf tid with
  | none => s
  | some t =>
    let s := s.releaseAnvil tid
    let hart := on.getD t.hart
    let s := if t.started then (s.evalM true (closeStrip t.lno hart ((on.map (fun h => (s.hart h).groups.length)).getD 0) c true)).2 else s
    let s := s.latchRecords t.lno t.t c cp
    let s := s.loseOwed t.lno (hartTower hart) c
    let s := ({ s with tasks := Tbl.del s.tasks tid }).dropTransfers tid on
    let s := match on with
      | some h =>
        ((s.updCore (coreOf h) (fun k => { k with
          job := k.job.filter (fun j => j.hart != h), interlock := k.interlock.filter (fun e => e.kind != 2 || e.hart != h) })).setHart h (s.hart h).vacate).retarget (coreOf h)
      | none => s
    let s := s.updLaunch t.lno (fun l => { l with ended := l.ended + 1 })
    (s.sealEnd t.lno).prunePages

/-- Terminate the task of hart h with a record that names CP (R48): no handler runs.  It waits for a matrix word that has begun
(R39). -/
def State.terminateAt (s : State) (h cause : Nat) (val cp : Word) : State :=
  if !s.stoppable h then s.holdStop h .entry
  else match (s.hart h).task with
    | none => s
    | some tid =>
      match s.taskOf tid with
      | none => s
      | some t =>
        let c := s.ctx h
        (s.errorRecord t.lno cause val c.pc cp c.vs t.t 0 0).endTask tid c cp (some h)

/-- Terminate the task of hart h where it stands. -/
def State.terminate (s : State) (h cause : Nat) (val : Word) : State := s.terminateAt h cause val (s.cp h)

/-- Terminate a task wherever it is (R48, R246, R348, R379, R404): with VA and INFO of a PGFAIL record. -/
def State.terminateTask (s : State) (tid cause : Nat) (val : Word) (va info : Nat) : State :=
  match s.taskOf tid with
  | none => s
  | some t =>
    let at' (c : Ctx) (cp : Word) (on : Option Nat) : State :=
      (s.errorRecord t.lno cause val c.pc cp c.vs t.t va info).endTask tid c cp on
    if t.st == .running then at' (s.ctx t.hart) (s.cp t.hart) (some t.hart)
    else match t.frame with
      | some f => if t.started then at' (s.readFrame f) (s.frameCp f) none else at' Ctx.reset 0 none
      | none => at' Ctx.reset 0 none

/-- Offset of the trap area and of its dump in a frame (R372). -/
def trapArea : Nat := 0xA00
def trapDump : Nat := 0xC00

/-- Trap entry on hart h (R45): the one way every cause of R44 is taken.  With no handler, or in one, the task ends with a
record instead.  A matrix word that has begun completes first (R39). -/
def State.trapEntry (s : State) (h cause : Nat) (val : Word) : State :=
  if !s.stoppable h then s.holdStop h .entry
  else if (s.ctx h).tvec = 0 || (s.ctx h).inh then s.terminate h cause val
  else
    let cp := s.cp h
    let st := s.preciseStop h
    let s := st.1
    let c := s.ctx h
    let s := s.putFields c.frm
      ([(trapArea, 8, c.vt), (trapArea + 8, 8, c.vl), (trapArea + 16, 8, c.wb), (trapArea + 24, 8, c.enq)] ++
       (List.range 32).map (fun k => (trapDump + 16 * k, 16, ((st.2.1[k]?).map (·.dump)).getD 0)))
    let s := match (s.hart h).task with
      | some tid => s.updTask tid (fun t => { t with trapAddrs := st.2.1.map QEntry.addr, trapOpen := st.2.2 })
      | none => s
    s.updCtx h (fun c => { c with
      epc := c.pc, ecp := cp, evs := word c.vs, ecause := word cause, evalr := val, inh := true, pc := c.tvec, vs := 0 })

/-- Swap the task of hart h out by a precise stop (R39, R368, R369): its context goes to the frame and the hart is free.  While a
handler runs, the trap area keeps the handler's ENQ (R372; log 23). -/
def State.swapOut (s : State) (h : Nat) (st : TaskState) (wake : Wake) : State :=
  match (s.hart h).task with
  | none => s
  | some tid =>
    let cp := s.cp h
    let c := s.ctx h
    let s := if c.inh then s.putFields c.frm [(trapArea + 24, 8, c.enq)] else s
    let p := s.preciseStop h
    let s := p.1.updCtx h (fun c => { c with strip := { c.strip with pre := true } })
    let s := s.saveFrame h cp p.2.1
    let c := s.ctx h
    let s := s.updTask tid (fun t => { t with
      st := st, since := s.time, wake := wake, addrs := p.2.1.map (·.addr), openConvoy := p.2.2, tepoch := c.tepoch, hart := h,
      aged := false })
    (s.setHart h (s.hart h).vacate).retarget (coreOf h)

/-- A page fault of hart h (R348): the task is swapped out and waits for the page; engine transfers end first (R245). -/
def State.pageFault (s : State) (h : Nat) (p : PageAddr) (need : Nat) : State :=
  if !s.stoppable h then s.holdStop h .entry
  else if !s.savable h then s.holdStop h .transfers
  else match (s.hart h).task with
    | none => s
    | some tid =>
      let lno := s.hartLno h
      (s.swapOut h .pagewait .none).requestPage lno p need (.task tid)

/-- What a stopped word leaves: t is the state it had reached (R44, R45, R48, R348). -/
def State.stopped (s t : State) (h : Nat) : Stop → State
  | .trap cause val keep =>
    if !s.stoppable h then (keepSide s t).holdStop h .entry else (if keep then t else keepSide s t).trapEntry h cause val
  | .page p need => (keepSide s t).pageFault h p need
  | .conflict => keepSide s t
  | .term cause val => (keepSide s t).terminate h cause val
  | .wait w => (keepSide s t).holdFront h w

/-- Finish a word of hart h that may stop. -/
def State.finish (s : State) (h : Nat) (m : M Unit) : Out1 :=
  match m.run s with
  | .ok _ t => .next t
  | .error e t => .next (s.stopped t h e)

/-- A word of the scalar front with K = 0 raises CONV (R75). -/
def scalarWord (k : Bool) (w : Nat) (s : State) (m : M Unit) : Out1 :=
  if k then s.finish s.turn m else .next (s.trapEntry s.turn cCONV (word w))

/-- A word of the scalar front that only computes x[d]. -/
def alu (k : Bool) (w : Nat) (d : BitVec 7) (v : Word) (s : State) : Out1 :=
  if k then .next ((s.setX s.turn d v).retire s.turn) else .next (s.trapEntry s.turn cCONV (word w))

/-- A supervisor word: PRIV at task privilege, before CONV (R43, R90). -/
def supervisor (w : Nat) (s : State) (o : Out1) : Out1 :=
  if (s.ctx s.turn).prv then o else .next (s.trapEntry s.turn cPRIV (word w))

/-- Wait until the vector queue of hart h is empty (R26, R46, R132, R327). -/
def needEmpty (h : Nat) : M Unit := do
  let s ← get
  if !(s.hart h).queue.isEmpty then waitM .queue

/-- A multiplying matrix word. -/
def isMmul : Instr → Bool
  | .mmulBf16 .. | .mmulE4m3 .. | .mmulE5m2 .. | .mmulNp4 .. | .mmulNp2 .. | .mmulSpBf16 .. | .mmulSpE4m3 .. | .mmulSpE5m2 ..
  | .mmulSpNp4 .. | .mmulSpNp2 .. => true
  | _ => false

/-- A word that may run ahead of older words of its hart (R37): it becomes ready at the gate and is released there (R193). -/
def runsAhead : Instr → Bool
  | .mshape .. | .mlds .. | .mzero .. => true
  | i => isMmul i

/-- A multiplying matrix word of the queue that has not completed. -/
def QEntry.mmul (e : QEntry) : Bool := !e.done && (e.instr.map isMmul).getD false

/-- A run-ahead word of the queue that has not completed. -/
def QEntry.ahead (e : QEntry) : Bool := !e.done && (e.instr.map runsAhead).getD false

/-- The entry is still to act on the scalar front: it came from a dump with DONE = 0 (R37, R42; log 20). -/
def QEntry.actsAtIssue (e : QEntry) (c : Ctx) : Bool := !e.done && (e.desc c).any (fun v => v.kind == .front)

/-- Words older than the one that acts on the front of hart h: the whole queue, unless it is itself the reissued word at CP (R42). -/
def State.olderWords (s : State) (h : Nat) : List QEntry :=
  match (s.hart h).queue with
  | [] => []
  | e :: q => if e.actsAtIssue (s.ctx h) then [] else e :: q

/-- Wait until CP = PC, without the hold-off of R368 (R322, R447, R472). -/
def needAlone (h : Nat) : M Unit := do
  let s ← get
  if !(s.olderWords h).isEmpty then waitM .older

/-- Write x[d] and retire. -/
def retireWith (h : Nat) (d : BitVec 7) (v : Word) : M Unit := modify (fun s => (s.setX h d v).retire h)

/-- Entries of a dump, by number, from the bytes at an offset of a frame: the first stands at CP, the others as far from it as they
stood in the program (R35, R46). -/
def State.readDump (s : State) (base off n seq0 : Nat) (addrs : List Word) (cp : Word) : List (Nat × QEntry) :=
  let first := addrs.headD cp
  (List.range n).map (fun k =>
    let raw := s.mem.readN (base + off + 16 * k) 16
    (raw, QEntry.ofDump raw (cp + ((addrs[k]?).getD (first + word (4 * k)) - first)) ((seq0 + k) % 65536)))

/-- A saved VT and VL are in range (R42). -/
def vtOk (vt vl : Nat) : Bool :=
  decide (bits vt 29 27 ≤ 4) && decide (5 ≤ bits vt 12 9) && decide (bits vt 12 9 ≤ 10) &&
  !(decide (5 ≤ bits vt 3 0) && decide (bits vt 3 0 ≤ 7)) &&
  decide (vl ≤ ({ Ctx.reset with vt := vt } : Ctx).vlmax)

/-- The checks of R42 on a dump that hart h is about to reissue; its context already holds the saved VT, VL and WB. DEDUCED (log 128): a
WORD to be reissued that is no queue word fails the restore. -/
def State.dumpOk (s : State) (h n : Nat) (es : List (Nat × QEntry)) : Bool :=
  let c := s.ctx h
  decide (n ≤ 32) && es.all (fun e => bit e.1 120 && bits e.1 127 124 == 0) && vtOk c.vt c.vl &&
  es.all (fun e => e.2.done ||
    (match e.2.instr with
     | some i => (match e.2.desc c with
       | some v => !issueBad s h v e.2.opA e.2.opB i && !frontBad e.2.opA e.2.opB i
       | none => false)
     | none => false)) &&
  groupsOk c [] (es.map (·.2))

/-- A job for a multiplying matrix word that has not started (R227, R269). -/
def newJob (h seq : Nat) : MatrixJob :=
  { hart := h, seq := seq, avail := 0, out := 0, hot := 0, passes := 0, used := 0, granted := false, pending := false, acts := none }

/-- Convoys at the head whose members have all completed leave the queue (R35). -/
def dropDone : Nat → List QEntry → List QEntry
  | 0, q => q
  | n + 1, q =>
    match q with
    | [] => []
    | _ :: _ => if (firstConvoy q).all (·.done) then dropDone n (afterFirst q) else q

/-- Completed convoys at the head leave the queue, and VS is zero once one has (R29, R35). -/
def Hart.settle (t : Hart) : Hart :=
  let q := dropDone 33 t.queue
  if q.length = t.queue.length then t else { t with queue := q, ctx := { t.ctx with vs := 0 } }

/-- Reissue a checked dump on hart h (R42): VS, LIVE bits and the queue.  Convoys whose entries all have DONE = 1 are skipped, so VS
belongs to the first convoy that is reissued. -/
def State.reissue (s : State) (h : Nat) (es : List QEntry) (isOpen : Bool) (vs : Nat) : State :=
  let q := dropDone 33 es
  let s := s.updHart h (fun t => Hart.settle { t with
    queue := q, openConvoy := isOpen && !es.isEmpty, released := false, startVs := vs,
    ctx := { t.ctx with vs := vs, eixV := liveOnly q t.ctx.eixV, eixT := liveOnly q t.ctx.eixT } })
  match q.find? QEntry.mmul with
  | some e => s.updCore (coreOf h) (fun k => { k with job := some (newJob h e.seq) })
  | none => s

/-- tret's restore from the trap area (R46, R42), once the queue is empty and INH = 1.  A failed check ends the task as step 4 left
it: CP at ECP, VS from EVS. -/
def State.trapReturn (s : State) (h : Nat) : State :=
  let c := s.ctx h
  let r (k : Nat) : Nat := s.mem.readN (c.frm + trapArea + 8 * k) 8
  let task := s.hartTask h
  let s1 := (s.updCtx h (fun c => { c with
    vt := r 0 &&& ctlMask 0x000, vl := r 1 &&& ctlMask 0x001, wb := r 2 &&& ctlMask 0x003, vs := bits c.evs.toNat 11 0,
    inh := false })).retarget (coreOf h)
  let es := s1.readDump c.frm trapDump (min c.enqN 32) c.enqSeq0 ((task.map Task.trapAddrs).getD []) c.ecp
  if s1.dumpOk h c.enqN es then
    ((s1.retireTo h c.epc).reissue h (es.map Prod.snd) ((task.map Task.trapOpen).getD false) (bits c.evs.toNat 11 0))
  else s1.terminateAt h cRSTR 0 c.ecp

end Sys2Proof.Machine
end

