-- ==== Sys2Proof/Machine/Queue.lean ====
section
/-! DEFINITION. The issue of a word of the vector queue (R26, R36, R41, R75 to R77, R145): the checks in the order ILL, PRIV,
CONV, OPND, the capture of its scalars, and its place in the queue. -/

namespace Sys2Proof.Machine

open Sys2Proof

/-- A queue word that stores or starts an engine store: what a release waits to see translated (R131, R189). -/
def storesLater (i : Instr) : Bool :=
  match vword Ctx.reset i with
  | some v => v.pipe == .S || (match i with | .vunbind .. | .cpgo .. | .cpv .. => true | _ => false)
  | none => false

/-- Enter a word into the queue of hart h and move PC past it (R31, R35). -/
def State.enqueue (s : State) (h : Nat) (alone : Bool) (e : QEntry) : State :=
  let s := s.updHart h (fun t =>
    let q := t.queue ++ [e]
    let t : Hart := { t with
      queue := q, openConvoy := !alone && decide ((lastConvoy q).length < 8), noMatch := false, waiting := .none, spin := 0,
      ctx := { t.ctx with vseq := (t.ctx.vseq + 1) % 65536, pc := t.ctx.pc + 4 } }
    if e.done then t.settle else t)
  match e.instr with
  | some i =>
    if isMmul i && (s.core (coreOf h)).job.isNone then s.updCore (coreOf h) (fun k => { k with job := some (newJob h e.seq) }) else s
  | none => s

/-- The queue of hart h is full: the front stalls before a 33rd word (R36). -/
def State.stallFull (s : State) (h : Nat) (k : Bool) : State :=
  s.updHart h (fun t => { t with waiting := .full, openConvoy := t.openConvoy && !k })

/-- The entry that a word makes when it issues on hart h (R41, R145). -/
def State.entryOf (s : State) (h : Nat) (v : VWord) (w : Nat) (done : Bool) : QEntry :=
  { word := BitVec.ofNat 32 w, addr := s.pc h, opA := (v.capA.map (s.x h)).getD 0, opB := (v.capB.map (fun r => if v.whole then s.x h r else low24 (s.x h r))).getD 0,
    capA := v.capA.isSome, capB := v.capB.isSome, seq := (s.ctx h).vseq, done := done }

/-- Issue a queue word on the hart whose turn it is; `act` is what it does at issue, and `done` whether that is all it does. -/
def issueWith (i : Instr) (w : Nat) (done : Bool) (act : QEntry → M Unit) (s : State) : Out1 :=
  let h := s.turn
  match vword (s.ctx h) i with
  | none => .next s
  | some v =>
    let e := s.entryOf h v w done
    if !s.convoyOk h (v.withOpA e.opA i) then .next (s.trapEntry h cCONV (word w))
    else if issueBad s h v e.opA e.opB i then .next (s.trapEntry h cOPND (word w))
    else if decide (32 ≤ (s.hart h).queue.length) then .next (s.stallFull h v.k)
    else s.finish h (do
      act e
      modify (fun s => s.enqueue h v.alone e))

/-- The wait and the operand checks of a word that acts wholly on the scalar front (R322, R447, R472), then what it does.  Its faults
are scalar faults at PC: an older word's fault is taken before them. -/
def frontAct (h : Nat) (i : Instr) (act : QEntry → M Unit) (e : QEntry) : M Unit := do
  needAlone h
  if frontBad e.opA e.opB i then trapM cOPND (e.word.setWidth 64)
  act e

/-- Issue a word that acts wholly on the scalar front. -/
def issueFront (i : Instr) (w : Nat) (act : QEntry → M Unit) (s : State) : Out1 :=
  issueWith i w true (frontAct s.turn i act) s

/-- Nothing happens at issue beyond entering the queue. -/
def noAct (_ : QEntry) : M Unit := pure ()

/-- Issue a word that the vector unit performs later. -/
def issue (i : Instr) (w : Nat) (s : State) : Out1 := issueWith i w false noAct s

end Sys2Proof.Machine
end

