-- ==== Sys2Proof/Machine/LoadStore.lean ====
section
/-! DEFINITION. Scalar loads and stores, and the addressing that the scalar atomics share (R123 to R126, R276, R314). -/

namespace Sys2Proof.Machine

open Sys2Proof

/-- Resolve a scalar access of hart h in the order of R123: ALIGN, SACC, page fault, then the drift chain (R124). -/
def scalarResolve (h : Nat) (a : Acc) (ea : Word) (w : Nat) : M (List Piece) := do
  if ea.toNat % w != 0 then trapM cALIGN ea
  let s ← get
  let ps ← resolveOr (s.reqOf h) a cSACC ea ea.toNat w
  modify (fun s => s.countHops (coreOf h) ps)
  return ps

/-- The base-register rewrite of a redirected scalar access (R314): x[a] and ea in one tile, x0 apart; bits [63:56] stay. -/
def rewriteBase (h : Nat) (a : BitVec 7) (ea : Word) (ps : List Piece) : M Unit := do
  match ps with
  | [p] =>
    let s ← get
    let x := (s.x h a).toNat
    if p.hops != 0 && x % 2 ^ 56 / 65536 == ea.toNat / 65536 then
      let moved := (x % 2 ^ 56 + 2 ^ 56 - ea.toNat + p.va) % 2 ^ 56
      modify (fun s => s.setX h a (word (x / 2 ^ 56 * 2 ^ 56 + moved)))
  | _ => pure ()

/-- The bytes that a plain scalar load takes (R125, R276): an L1 line that still holds its fill may serve it, else the home
does and the line is filled.  Host-window lines are never held (R423).  Which of the two happens is free (log 9). -/
def plainRead (h : Nat) (ea : Word) (p : Piece) : M Nat := do
  let s ← get
  let c := coreOf h
  let home : M Nat := do
    let s ← get
    if s.poisoned p.pa p.len then throw (.term cUNCORR ea)
    if isHostPa p.pa || s.poisoned (64 * lineOf p.pa) 64 then return s.mem.readN p.pa p.len
    set (s.setL1 c ({ line := lineOf p.pa, data := s.mem.readN (64 * lineOf p.pa) 64, behind := false } ::
      (s.l1 c).filter (fun l => l.line != lineOf p.pa)))
    return s.mem.readN p.pa p.len
  match (s.l1 c).find? (fun l => l.line == lineOf p.pa) with
  | none => home
  | some l =>
    let k ← drawM
    if Config.freeBool k then return getAt l.data (p.pa % 64) p.len else home

/-- A scalar load (R123, R124). -/
def scalarLoad (k : Bool) (w : Nat) (d a : BitVec 7) (i : BitVec 11) (width : Nat) (signed : Bool) (s : State) : Out1 :=
  scalarWord k w s (do
    let h := s.turn
    let ea := s.x h a + sx i
    let ps ← scalarResolve h .load ea width
    let v ← match ps with
      | [p] => plainRead h ea p
      | _ => pure 0
    rewriteBase h a ea ps
    retireWith h d (if signed then sext (8 * width) v else word v))

/-- A scalar store (R123, R124): performed at its home and refreshing the L1 line (R276; log 21). -/
def scalarStore (k : Bool) (w : Nat) (a b : BitVec 7) (i : BitVec 11) (width : Nat) (s : State) : Out1 :=
  scalarWord k w s (do
    let h := s.turn
    let ea := s.x h a + sx i
    let v := (s.x h b).toNat
    let ps ← scalarResolve h .store ea width
    modify (fun s => ps.foldl (fun s p => s.dropL1 (coreOf h) p.pa p.len) (s.writePieces (some h) ps v))
    rewriteBase h a ea ps
    modify (fun s => s.retire h))

/-- R123. x[d] := the 8 bytes at x[a] + offset, sign-extended. -/
def execLd64 (k : Bool) (d a : BitVec 7) (i : BitVec 11) (s : State) : Out1 :=
  scalarLoad k (wordI 0x10 k d.toNat a.toNat i.toNat) d a i 8 true s

/-- R123. x[d] := the 4 bytes at x[a] + offset, sign-extended. -/
def execLd32 (k : Bool) (d a : BitVec 7) (i : BitVec 11) (s : State) : Out1 :=
  scalarLoad k (wordI 0x11 k d.toNat a.toNat i.toNat) d a i 4 true s

/-- R123. x[d] := the 4 bytes at x[a] + offset, zero-extended. -/
def execLd32n (k : Bool) (d a : BitVec 7) (i : BitVec 11) (s : State) : Out1 :=
  scalarLoad k (wordI 0x12 k d.toNat a.toNat i.toNat) d a i 4 false s

/-- R123. x[d] := the 2 bytes at x[a] + offset, sign-extended. -/
def execLd16 (k : Bool) (d a : BitVec 7) (i : BitVec 11) (s : State) : Out1 :=
  scalarLoad k (wordI 0x13 k d.toNat a.toNat i.toNat) d a i 2 true s

/-- R123. x[d] := the 2 bytes at x[a] + offset, zero-extended. -/
def execLd16n (k : Bool) (d a : BitVec 7) (i : BitVec 11) (s : State) : Out1 :=
  scalarLoad k (wordI 0x14 k d.toNat a.toNat i.toNat) d a i 2 false s

/-- R123. x[d] := the 1 bytes at x[a] + offset, sign-extended. -/
def execLd8 (k : Bool) (d a : BitVec 7) (i : BitVec 11) (s : State) : Out1 :=
  scalarLoad k (wordI 0x15 k d.toNat a.toNat i.toNat) d a i 1 true s

/-- R123. x[d] := the 1 bytes at x[a] + offset, zero-extended. -/
def execLd8n (k : Bool) (d a : BitVec 7) (i : BitVec 11) (s : State) : Out1 :=
  scalarLoad k (wordI 0x16 k d.toNat a.toNat i.toNat) d a i 1 false s

/-- R123. The 8 bytes at x[a] + offset := low bytes of x[b]. -/
def execSt64 (k : Bool) (a b : BitVec 7) (o : BitVec 11) (s : State) : Out1 :=
  scalarStore k (wordI 0x17 k a.toNat b.toNat o.toNat) a b o 8 s

/-- R123. The 4 bytes at x[a] + offset := low bytes of x[b]. -/
def execSt32 (k : Bool) (a b : BitVec 7) (o : BitVec 11) (s : State) : Out1 :=
  scalarStore k (wordI 0x18 k a.toNat b.toNat o.toNat) a b o 4 s

/-- R123. The 2 bytes at x[a] + offset := low bytes of x[b]. -/
def execSt16 (k : Bool) (a b : BitVec 7) (o : BitVec 11) (s : State) : Out1 :=
  scalarStore k (wordI 0x19 k a.toNat b.toNat o.toNat) a b o 2 s

/-- R123. The 1 bytes at x[a] + offset := low bytes of x[b]. -/
def execSt8 (k : Bool) (a b : BitVec 7) (o : BitVec 11) (s : State) : Out1 :=
  scalarStore k (wordI 0x1A k a.toNat b.toNat o.toNat) a b o 1 s

end Sys2Proof.Machine
end

