-- ==== Sys2Proof/Machine/Flags.lean ====
section
/-! DEFINITION. The flag computations of the vector unit: the rounding of a word's element under VT, and where its events go
(R12, R30, R31, R53, R57 to R62). -/

namespace Sys2Proof.Machine

open Sys2Proof

/-- Round a value into a format under VT (R12, R57), with the draw of an index under SR (R60).  `c.srq` is the SRQ that the word
uses (R32). -/
def Ctx.round (c : Ctx) (f : Fmt) (idx : Nat) (x : Num) : Nat × Ev :=
  roundNum f c.sat c.rm (if c.rm = .sr then srBits c.key c.strm c.srq idx else 0) x

/-- Round with the events that led to the exact value. -/
def Ctx.roundEv (c : Ctx) (f : Fmt) (idx : Nat) (x : Num × Ev) : Nat × Ev :=
  let r := c.round f idx x.1
  (r.1, x.2 ||| r.2)

/-- A step of a tangent that is not its last: FP32, RNE (R65). -/
def midStep (x : Num × Ev) : Num × Ev :=
  let r := roundNum fp32 false .rne 0 x.1
  (fp32.decode r.1, x.2 ||| r.2)

/-- The integer formats of EW: width in bits. -/
def intWidth (ew : Nat) : Nat := 8 * vwOf ew

/-- The integer that a code stands for in an integer format (R52). -/
def intOf (ew n : Nat) : Int := if isSigned ew then toS (intWidth ew) n else ((n % 2 ^ intWidth ew : Nat) : Int)

/-- An exact integer stored in an integer format: wrap, or clamp with SAT (R53). -/
def intFit (ew : Nat) (sat : Bool) (z : Int) : Nat × Ev :=
  let w := intWidth ew
  let lo : Int := if isSigned ew then -(2 ^ (w - 1) : Int) else 0
  let hi : Int := if isSigned ew then 2 ^ (w - 1) - 1 else 2 ^ w - 1
  if sat && decide (z < lo) then (ofS w lo, evSAT)
  else if sat && decide (hi < z) then (ofS w hi, evSAT)
  else (ofS w z, 0)

/-- An EIX register after a word raised its class at an element (R31). -/
def Eix.record (x : Eix) (seq i : Nat) : Eix :=
  if x.valid && x.live && x.seq == seq then { x with idx := min x.idx i } else { seq := seq, valid := true, live := true, idx := i }

/-- The six EIX registers after events of one element. -/
def recordEix (t : Tbl Eix) (seq i : Nat) (ev : Ev) : Tbl Eix :=
  (List.range 6).foldl (fun t n => if bit ev n then Tbl.upd Eix.zero t n (fun x => x.record seq i) else t) t

/-- Value and tangent events of element i of the word with number seq (R30, R31, R62). -/
def Ctx.raise (c : Ctx) (seq i : Nat) (v t : Ev) : Ctx :=
  { c with fv := c.fv ||| v, ft := c.ft ||| t, eixV := recordEix c.eixV seq i v, eixT := recordEix c.eixT seq i t }

/-- Raise the events of an element on hart h. -/
def State.raise (s : State) (h seq i : Nat) (v t : Ev) : State :=
  if v = 0 && t = 0 then s else s.updCtx h (fun c => c.raise seq i v t)

end Sys2Proof.Machine
end

