-- ==== Sys2Proof/Machine/Operands.lean ====
section
/-! DEFINITION. Operand forms of the vector unit: elements and tangents of a register, scalar elements, masks, and the write of an
element with its tangents and events (R20, R65, R143 to R146, R164 to R168). -/

namespace Sys2Proof.Machine

open Sys2Proof

/-- One element of one queue word: hart, core, element, context as the element finds it (its `srq` the SRQ the word uses), the
entry, and the entry's place in the queue. -/
structure Lane where
  h : Nat
  core : Nat
  i : Nat
  c : Ctx
  e : QEntry
  pos : Nat := 0
  deriving DecidableEq, Repr

/-- A value operand: a register or the scalar element of R145. -/
inductive Src
  | reg (r : BitVec 7)
  | scalar
  deriving DecidableEq, Repr

/-- Element i of register r laid out under a value width (R20). -/
def State.elemAt (s : State) (core : Nat) (c : Ctx) (vw r i : Nat) : Nat :=
  getAt (s.vreg core (c.phys r)) (c.valOff vw i) vw

/-- Tangent k of element i of register r laid out under a value width (R20). -/
def State.tanAt (s : State) (core : Nat) (c : Ctx) (vw r i k : Nat) : Nat :=
  getAt (s.vreg core (c.phys r)) (c.tanOff vw i k) c.tw

/-- Bytes of a register with element i's value replaced. -/
def Ctx.withVal (c : Ctx) (vw reg i v : Nat) : Nat := putAt reg (c.valOff vw i) vw v

/-- Bytes of a register with element i's tangents replaced. -/
def Ctx.withTans (c : Ctx) (vw reg i : Nat) (t : Nat → Nat) : Nat :=
  (List.range c.b).foldl (fun reg k => putAt reg (c.tanOff vw i k) c.tw (t k)) reg

/-- Change the bytes of a physical register. -/
def State.updVreg (s : State) (core p : Nat) (f : Nat → Nat) : State :=
  s.updCore core (fun k => { k with vf := Tbl.set k.vf p (f (Tbl.get 0 k.vf p)) })

/-- Write element i of register r, value and every tangent. -/
def State.putElem (s : State) (core : Nat) (c : Ctx) (vw r i v : Nat) (t : Nat → Nat) : State :=
  s.updVreg core (c.phys r) (fun reg => c.withTans vw (c.withVal vw reg i v) i t)

/-- Tangents of +0. -/
def noTan (_ : Nat) : Nat := 0

/-- The element is active (R144). -/
def Lane.active (L : Lane) (m : Bool) : Bool := !m || bit (L.c.mask L.c.msel) L.i

/-- Value width of the word. -/
def Lane.vw (L : Lane) : Nat := vwOf L.c.ew

/-- Element format of a float word. -/
def Lane.fmt (L : Lane) : Fmt := fmtOf L.c.ew

/-- Value bits of element i of register r. -/
def Lane.val (L : Lane) (s : State) (r : BitVec 7) : Nat := s.elemAt L.core L.c L.vw r.toNat L.i

/-- Value bits of element j of register r. -/
def Lane.valOf (L : Lane) (s : State) (r : BitVec 7) (j : Nat) : Nat := s.elemAt L.core L.c L.vw r.toNat j

/-- Tangent bits of element j of register r. -/
def Lane.tanOf (L : Lane) (s : State) (r : BitVec 7) (j k : Nat) : Nat := s.tanAt L.core L.c L.vw r.toNat j k

/-- Value bits of an operand (R145). -/
def Lane.src (L : Lane) (s : State) : Src → Nat
  | .reg r => L.val s r
  | .scalar => L.e.opA.toNat % 2 ^ (8 * L.vw)

/-- Tangent k of an operand; a scalar element has +0 (R145). -/
def Lane.srcTan (L : Lane) (s : State) (x : Src) (k : Nat) : Num :=
  match x with
  | .reg r => L.c.tfmt.decode (L.tanOf s r L.i k)
  | .scalar => .fin false 0 1

/-- Write element j of d bit for bit, without events; under VT.TM = 1 every tangent is +0 (R65). -/
def Lane.write (L : Lane) (d : BitVec 7) (j v : Nat) (t : Nat → Nat) : M Unit :=
  modify (fun s => s.putElem L.core L.c L.vw d.toNat j v (if L.c.tm then noTan else t))

/-- Raise the events of the lane's element. -/
def Lane.raise (L : Lane) (v t : Ev) : M Unit := modify (fun s => s.raise L.h L.e.seq L.i v t)

/-- The tangents of a float result (R65): +0 under VT.TM, the canonical NaN under a NaN value, else the last step rounded to TF. -/
def Ctx.tangents (c : Ctx) (i : Nat) (nanValue : Bool) (tan : Nat → Num × Ev) (k : Nat) : Nat × Ev :=
  if c.tm then (0, 0)
  else if nanValue then (c.tfmt.qnan, 0)
  else c.roundEv c.tfmt ((k + 1) * 4096 + i) (tan k)

/-- Write a float element: its value code with its events, and each tangent by its rule. -/
def Lane.float (L : Lane) (d : BitVec 7) (r : Nat × Ev) (tan : Nat → Num × Ev) : M Unit := do
  let t := L.c.tangents L.i (L.fmt.decode r.1).isNaN tan
  modify (fun s => s.putElem L.core L.c L.vw d.toNat L.i r.1 (fun k => (t k).1))
  L.raise r.2 ((List.range L.c.b).foldl (fun e k => e ||| (t k).2) 0)

/-- Write an integer element with +0 tangents. -/
def Lane.int (L : Lane) (d : BitVec 7) (r : Nat × Ev) : M Unit := do
  modify (fun s => s.putElem L.core L.c L.vw d.toNat L.i r.1 noTan)
  L.raise r.2 0

/-- A tangent rule that gives +0. -/
def zeroTan (_ : Nat) : Num × Ev := (.fin false 0 1, 0)

/-- Write bit i of mask q. -/
def Lane.mask (L : Lane) (q : Nat) (b : Bool) : M Unit :=
  modify (fun s => s.updCtx L.h (fun c => { c with q := Tbl.set c.q q (setBits (c.mask q) L.i L.i (b2n b)) }))

end Sys2Proof.Machine
end

