-- ==== Sys2Proof/Machine/Transcend.lean ====
section
/-! DEFINITION. e^a, ln a, tanh a and the sigmoid, correctly rounded (R150).  Each is computed in fixed point with P binary
places and enclosed between two ratios; when both ends round to one result with one set of events, that is the result.
Where they do not (the enclosure is about 2^-660 wide, so no operand of the five formats is known to reach this), the value is the
free value of log 14. -/

namespace Sys2Proof.Machine

open Sys2Proof

/-- Binary places of the fixed-point arithmetic. -/
def fxP : Nat := 700

/-- One in fixed point. -/
def fxOne : Int := 2 ^ fxP

/-- The error, in last places, that every function below stays within: far more than the number of its truncations. -/
def fxErr : Int := 2 ^ 40

/-- Fixed-point product, rounded down. -/
def fxMul (a b : Int) : Int := a * b / fxOne

/-- Σ_{j} r^j / j! from term j on; `term` is r^j / j!. -/
def fxExpSum : Nat → Nat → Int → Int → Int
  | 0, _, _, _ => 0
  | k + 1, j, r, term => term + fxExpSum k (j + 1) r (fxMul term r / (j + 1))

/-- Σ z^(2j+1)/(2j+1), half of ln((1+z)/(1-z)); `p` is z^(2j+1). -/
def fxAtanhSum : Nat → Nat → Int → Int → Int
  | 0, _, _, _ => 0
  | k + 1, j, z2, p => p / (2 * j + 1) + fxAtanhSum k (j + 1) z2 (fxMul p z2)

/-- ln 2 in fixed point: 2·atanh(1/3). -/
def fxLn2 : Int :=
  let z := fxOne / 3
  2 * fxAtanhSum 240 0 (fxMul z z) z

/-- e^(x/2^P) as m · 2^k with m in fixed point near 1 (absolute error of m below fxErr). -/
def fxExp (x : Int) : Int × Int :=
  let k := (2 * x + fxLn2) / (2 * fxLn2)
  let r := x - k * fxLn2
  (fxExpSum 180 0 r fxOne, k)

/-- ln of n/d > 0 in fixed point. -/
def fxLn (n d : Nat) : Int :=
  let e := ilog2 n d
  let s := scaleBy n d e
  -- s is in [1, 2); ln s = 2 atanh((s-1)/(s+1))
  let z : Int := ((s.1 : Int) - s.2) * fxOne / ((s.1 : Int) + s.2)
  e * fxLn2 + 2 * fxAtanhSum 240 0 (fxMul z z) z

/-- A ratio in fixed point, rounded down. -/
def fxOf (neg : Bool) (n d : Nat) : Int :=
  let z : Int := ((n * 2 ^ fxP : Nat) : Int)
  (if neg then -z else z) / (d : Int)

/-- A positive enclosure: two ratios around the result. -/
abbrev Encl := (Nat × Nat) × (Nat × Nat)

/-- The enclosure m · 2^k ± error. -/
def enclExp (m k : Int) : Encl :=
  let lo := pow2Ratio (m - fxErr).toNat (k - fxP)
  let hi := pow2Ratio (m + fxErr).toNat (k - fxP)
  (lo, hi)

/-- The enclosure v ± error of a fixed-point magnitude. -/
def enclFx (v : Int) : Encl := (((v - fxErr).toNat, 2 ^ fxP), ((v + fxErr).toNat, 2 ^ fxP))

/-- e^x for a finite nonzero x.  Beyond ±2000 the result lies beyond 2^±2000, whose place no format distinguishes. -/
def exp2Encl (neg : Bool) (n d : Nat) : Encl :=
  if n > 2000 * d then
    if neg then ((1, 2 ^ 2001), (1, 2 ^ 2000)) else ((2 ^ 2000, 1), (2 ^ 2001, 1))
  else
    let r := fxExp (fxOf neg n d)
    enclExp r.1 r.2

/-- tanh of a finite nonzero magnitude: (e^2x - 1)/(e^2x + 1). -/
def tanhEncl (n d : Nat) : Encl :=
  if n > 200 * d then ((2 ^ 600 - 1, 2 ^ 600), (2 ^ 650 - 1, 2 ^ 650))
  else
    -- e^(-2x) keeps every intermediate at or below one
    let r := fxExp (-2 * fxOf false n d)
    let m : Int := if 0 ≤ r.2 then r.1 * 2 ^ r.2.toNat else r.1 / 2 ^ (-r.2).toNat
    enclFx ((fxOne - m) * fxOne / (fxOne + m))

/-- The sigmoid of a finite nonzero x. -/
def sigmoidEncl (neg : Bool) (n d : Nat) : Encl :=
  if n > 200 * d then
    if neg then
      -- e^x(1 - e^x + ...) within a factor 1 - 2^-288 of e^x
      let e := exp2Encl true n d
      ((e.1.1 * (2 ^ 280 - 1), e.1.2 * 2 ^ 280), e.2)
    else ((2 ^ 280 - 1, 2 ^ 280), (2 ^ 3000 - 1, 2 ^ 3000))
  else
    let r := fxExp (fxOf true n d)           -- e^-|x|
    if neg then
      -- e^-|x| / (1 + e^-|x|), as m · 2^k with m near one half to one
      let m : Int := if 0 ≤ r.2 then r.1 * 2 ^ r.2.toNat else r.1 / 2 ^ (-r.2).toNat
      enclExp (r.1 * fxOne / (fxOne + m)) r.2
    else
      let m : Int := if 0 ≤ r.2 then r.1 * 2 ^ r.2.toNat else r.1 / 2 ^ (-r.2).toNat
      enclFx (fxOne * fxOne / (fxOne + m))

/-- The four functions (MAJ 0x23). -/
inductive TransFn
  | exp | log | tanh | sigmoid
  deriving DecidableEq, Repr

/-- The code of a function, for the free value only. -/
def TransFn.code : TransFn → Nat
  | .exp => 2
  | .log => 3
  | .tanh => 4
  | .sigmoid => 5

/-- Round an enclosure of a sign; the free value where its ends round apart. -/
def roundEncl (fn : TransFn) (f : Fmt) (sat : Bool) (rm : Rm) (r : Nat) (operand : Nat) (neg : Bool) (e : Encl) : Nat × Ev :=
  let lo := roundFinite f sat rm r neg e.1.1 e.1.2
  let hi := roundFinite f sat rm r neg e.2.1 e.2.2
  if lo = hi then lo
  else (Config.transcendental fn.code f.width r operand f.bias % 2 ^ f.width,
        Config.transcendentalEvents fn.code f.width r operand f.bias % 64)

/-- Round(f(a)) with its specials (R150). -/
def transcend (fn : TransFn) (f : Fmt) (sat : Bool) (rm : Rm) (r : Nat) (operand : Nat) (a : Num) : Nat × Ev :=
  let rnd := roundNum f sat rm r
  match fn, a with
  | _, .nan s => (f.qnan, evIf s evNV)
  | .exp, .inf true => rnd (.fin false 0 1)
  | .exp, .inf false => rnd (.inf false)
  | .exp, .fin _ 0 _ => rnd (.fin false 1 1)
  | .exp, .fin s n d => roundEncl fn f sat rm r operand false (exp2Encl s n d)
  | .log, .inf false => rnd (.inf false)
  | .log, .inf true => (f.qnan, evNV)
  | .log, .fin _ 0 _ => let x := rnd (.inf true); (x.1, x.2 ||| evDZ)
  | .log, .fin true _ _ => (f.qnan, evNV)
  | .log, .fin false n d =>
    if n = d then rnd (.fin false 0 1)
    else
      let v := fxLn n d
      roundEncl fn f sat rm r operand (decide (v < 0)) (enclFx (if v < 0 then -v else v))
  | .tanh, .inf s => rnd (.fin s 1 1)
  | .tanh, .fin s 0 _ => rnd (.fin s 0 1)
  | .tanh, .fin s n d => roundEncl fn f sat rm r operand s (tanhEncl n d)
  | .sigmoid, .inf true => rnd (.fin false 0 1)
  | .sigmoid, .inf false => rnd (.fin false 1 1)
  | .sigmoid, .fin _ 0 _ => rnd (.fin false 1 2)
  | .sigmoid, .fin s n d => roundEncl fn f sat rm r operand false (sigmoidEncl s n d)

end Sys2Proof.Machine
end

