-- ==== Sys2Proof/Machine/VectorArith.lean ====
section
/-! DEFINITION. What the words of majors 0x20 to 0x2E do to one element (R144 to R166): value, tangents, events. -/

namespace Sys2Proof.Machine

open Sys2Proof

/-- A product of a tangent step (R65): a zero tangent-derived factor t against an infinity or a NaN gives +0 and no event. -/
def tanMul (t o : Num) : Num × Ev :=
  if t.isZero && (o.isInf || o.isNaN) then (.fin false 0 1, 0) else mulNum t o

/-- A quotient of a tangent step (R65). -/
def tanDiv (t o : Num) : Num × Ev :=
  if t.isZero && (o.isInf || o.isNaN || o.isZero) then (.fin false 0 1, 0) else divNum t o

/-- An fma step whose product has the tangent-derived factor t (R65). -/
def tanFma (rm : Rm) (t o c : Num) : Num × Ev :=
  if t.isZero && (o.isInf || o.isNaN) then addNum rm (.fin false 0 1) c else fmaNum rm t o c

/-- A step that uses the result of a middle step, with that step's events. -/
def after (u : Num × Ev) (f : Num → Num × Ev) : Num × Ev :=
  let r := f u.1
  (r.1, u.2 ||| r.2)

/-- A tangent taken over: rounded to TF, NV for a signalling NaN. -/
def takeTan (t : Num) : Num × Ev := (t, snanEv [t])

/-- The six words of majors 0x20 and 0x21. -/
inductive FloatBin
  | add | sub | mul | div | min | max
  deriving DecidableEq, Repr

/-- vmin or vmax chooses its second operand: only a strictly lesser or greater one. -/
def choosesSecond (isMax : Bool) (a b : Num) : Bool := if isMax then ltNum a b else ltNum b a

/-- R148. One element of vadd, vsub, vmul, vdiv, vmin, vmax. -/
def Lane.floatBin (L : Lane) (op : FloatBin) (d a : BitVec 7) (y : Src) (m : Bool) : M Unit := do
  if L.active m then
    let s ← get
    let c := L.c
    let f := L.fmt
    let ca := L.val s a
    let cb := L.src s y
    let x := f.decode ca
    let z := f.decode cb
    let ta (k : Nat) : Num := L.srcTan s (.reg a) k
    let tb (k : Nat) : Num := L.srcTan s y k
    match op with
    | .add => L.float d (c.roundEv f L.i (addNum c.rm x z)) (fun k => addNum c.rm (ta k) (tb k))
    | .sub => L.float d (c.roundEv f L.i (addNum c.rm x z.negate)) (fun k => addNum c.rm (ta k) (tb k).negate)
    | .mul =>
      L.float d (c.roundEv f L.i (mulNum x z)) (fun k => after (midStep (tanMul (tb k) x)) (fun u => tanFma c.rm (ta k) z u))
    | .div =>
      let r := c.roundEv f L.i (divNum x z)
      let v := f.decode r.1
      L.float d r (fun k =>
        after (midStep (after (midStep (tanMul (tb k) v)) (fun u => addNum .rne (ta k) u.negate))) (fun u => tanDiv u z))
    | .min | .max =>
      let second := choosesSecond (op == .max) x z
      let r := if x.isNaN || z.isNaN then (f.qnan, snanEv [x, z]) else (if second then cb else ca, 0)
      L.float d r (fun k => takeTan (if second then tb k else ta k))

/-- R149. One element of the fused family: ±(a·b) ± d. -/
def Lane.floatFma (L : Lane) (negP negC : Bool) (d a : BitVec 7) (y : Src) (m : Bool) : M Unit := do
  if L.active m then
    let s ← get
    let c := L.c
    let f := L.fmt
    let sg (n : Bool) (v : Num) : Num := if n then v.negate else v
    let x := sg negP (f.decode (L.val s a))
    let z := f.decode (L.src s y)
    let acc := sg negC (f.decode (L.val s d))
    L.float d (c.roundEv f L.i (fmaNum c.rm x z acc)) (fun k =>
      after (midStep (tanFma .rne (L.srcTan s y k) x (sg negC (L.srcTan s (.reg d) k))))
        (fun u => tanFma c.rm (sg negP (L.srcTan s (.reg a) k)) z u))

/-- The words of major 0x23 and the sign words of major 0x24. -/
inductive FloatUn
  | sqrt | rsqrt | exp | log | tanh | sigmoid | floor | round | abs | neg | relu
  deriving DecidableEq, Repr

/-- An integral value that keeps the sign of a zero result (R150). -/
def integral (f : Fmt) (rm : Rm) (ca : Nat) : Num → Nat × Ev
  | .nan s => (f.qnan, evIf s evNV)
  | .inf _ => (ca, 0)
  | .fin neg n d => ((roundNum f false .rtz 0 (.fin neg (roundNat rm 0 neg n d) 1)).1, 0)

/-- One. -/
def oneNum : Num := .fin false 1 1

/-- R150, R151. One element of a unary float word.
DEDUCED (log 98): under a NaN value the tangents of vfloor and vround are R65's canonical NaN, not the +0 of R150. -/
def Lane.floatUn (L : Lane) (op : FloatUn) (d a : BitVec 7) (m : Bool) : M Unit := do
  if L.active m then
    let s ← get
    let c := L.c
    let f := L.fmt
    let ca := L.val s a
    let x := f.decode ca
    let ta (k : Nat) : Num := L.srcTan s (.reg a) k
    let draw := if c.rm = .sr then srBits c.key c.strm c.srq L.i else 0
    let plain (v : Nat) : Nat × Ev := if x.isNaN then (f.qnan, snanEv [x]) else (v, 0)
    match op with
    | .sqrt =>
      let r := c.roundEv f L.i (sqrtNum x)
      let v := f.decode r.1
      L.float d r (fun k => after (midStep (mulNum (.fin false 2 1) v)) (fun u => tanDiv (ta k) u))
    | .rsqrt =>
      let r := c.roundEv f L.i (rsqrtNum x)
      let v := f.decode r.1
      L.float d r (fun k =>
        after (midStep (after (midStep (after (midStep (mulNum v v)) (fun u => mulNum u v))) (fun u => mulNum (.fin true 1 2) u)))
          (fun u => tanMul (ta k) u))
    | .exp =>
      let r := transcend .exp f c.sat c.rm draw ca x
      L.float d r (fun k => tanMul (ta k) (f.decode r.1))
    | .log => L.float d (transcend .log f c.sat c.rm draw ca x) (fun k => tanDiv (ta k) x)
    | .tanh =>
      let r := transcend .tanh f c.sat c.rm draw ca x
      let v := f.decode r.1
      L.float d r (fun k => after (midStep (fmaNum .rne v.negate v oneNum)) (fun u => tanMul (ta k) u))
    | .sigmoid =>
      let r := transcend .sigmoid f c.sat c.rm draw ca x
      let v := f.decode r.1
      L.float d r (fun k =>
        after (midStep (after (midStep (addNum .rne oneNum v.negate)) (fun u => mulNum v u))) (fun u => tanMul (ta k) u))
    | .floor => L.float d (integral f .rdn ca x) zeroTan
    | .round => L.float d (integral f .rne ca x) zeroTan
    | .abs =>
      L.float d (plain (ca % 2 ^ (f.width - 1))) (fun k =>
        if x.isZero then zeroTan k else takeTan (if x.neg then (ta k).negate else ta k))
    | .neg => L.float d (plain (ca ^^^ 2 ^ (f.width - 1))) (fun k => takeTan (ta k).negate)
    | .relu =>
      let pos := !x.isZero && !x.neg
      L.float d (plain (if pos then ca else 0)) (fun k => if pos then takeTan (ta k) else zeroTan k)

/-- R151. vmov: every bit of the element. -/
def Lane.mov (L : Lane) (d a : BitVec 7) (m : Bool) : M Unit := do
  if L.active m then
    let s ← get
    L.write d L.i (L.val s a) (L.tanOf s a L.i)

/-- Relations of major 0x25. -/
inductive Rel
  | eq | ne | lt | le
  deriving DecidableEq, Repr

/-- R152. Write bit i of a mask with a comparison. -/
def Lane.compare (L : Lane) (op : Rel) (q : Nat) (a : BitVec 7) (y : Src) (m : Bool) : M Unit := do
  if L.active m then
    let s ← get
    let ca := L.val s a
    let cb := L.src s y
    if isFloat L.c.ew then
      let x := L.fmt.decode ca
      let z := L.fmt.decode cb
      let nan := x.isNaN || z.isNaN
      L.mask q (match op with
        | .eq => eqNum x z
        | .ne => !eqNum x z
        | .lt => ltNum x z
        | .le => !nan && !ltNum z x)
      L.raise (if op = .lt || op = .le then evIf nan evNV else snanEv [x, z]) 0
    else
      let x := intOf L.c.ew ca
      let z := intOf L.c.ew cb
      L.mask q (match op with
        | .eq => decide (x = z)
        | .ne => decide (x ≠ z)
        | .lt => decide (x < z)
        | .le => decide (x ≤ z))

/-- R153. vsel. -/
def Lane.select (L : Lane) (d a b : BitVec 7) : M Unit := do
  let s ← get
  let r := if bit (L.c.mask L.c.msel) L.i then a else b
  L.write d L.i (L.val s r) (L.tanOf s r L.i)

/-- R154. A mask word: all 4,096 bits at once. -/
def Lane.maskWord (L : Lane) (q : Nat) (v : Nat) : M Unit :=
  modify (fun s => s.updCtx L.h (fun c => { c with q := Tbl.set c.q q (v % 2 ^ 4096) }))

/-- All 4,096 bits of a mask. -/
def allMask : Nat := 2 ^ 4096 - 1

/-- Integer words of majors 0x27 and 0x29. -/
inductive IntOp
  | add | sub | mul | mulh | min | max | div | rem
  deriving DecidableEq, Repr

/-- R155. One element of an integer word. -/
def Lane.intOp (L : Lane) (op : IntOp) (d a : BitVec 7) (y : Src) (m : Bool) : M Unit := do
  if L.active m then
    let s ← get
    let ew := L.c.ew
    let w := intWidth ew
    let x := intOf ew (L.val s a)
    let z := intOf ew (L.src s y)
    let fit (v : Int) : Nat × Ev := intFit ew L.c.sat v
    L.int d (match op with
      | .add => fit (x + z)
      | .sub => fit (x - z)
      | .mul => fit (x * z)
      | .mulh => (ofS w (x * z / 2 ^ w), 0)
      | .min => fit (if z < x then z else x)
      | .max => fit (if x < z then z else x)
      | .div => if z = 0 then (2 ^ w - 1, evDZ) else fit (x.tdiv z)
      | .rem => if z = 0 then (ofS w x, evDZ) else fit (x.tmod z))

/-- Bit and shift words of majors 0x28 and 0x29. -/
inductive BitOp
  | and | or | xor | sll | srl | sra
  deriving DecidableEq, Repr

/-- R156. One element of a bit or shift word. -/
def Lane.bitOp (L : Lane) (op : BitOp) (d a : BitVec 7) (y : Src) (m : Bool) : M Unit := do
  if L.active m then
    let s ← get
    let w := intWidth L.c.ew
    let x := L.val s a
    let z := L.src s y
    let n := z % w
    L.int d ((match op with
      | .and => x &&& z
      | .or => x ||| z
      | .xor => x ^^^ z
      | .sll => x * 2 ^ n % 2 ^ w
      | .srl => x / 2 ^ n
      | .sra => ofS w (toS w x / 2 ^ n)), 0)

/-- The scale of element i (R54): its exponent, none for NaN. -/
def Ctx.scaleExp (c : Ctx) (i : Nat) : Option Int :=
  let x := c.scale ((c.sb + i / 2 ^ c.bl) % 2048)
  if x = 0xFF then none else some ((x : Int) - 127)

/-- A side of a conversion is scaled (R157). -/
def scaledSide (f : Nat) : Bool := f == 3 || f == 4

/-- R157, R61. One element of a conversion from one format to another. DESIGN CHOICE (log 129): the tangents of an FP8 NaN made from an
integer are +0, as R157 says. -/
def Lane.convert (L : Lane) (src dst : Nat) (d a : BitVec 7) (m : Bool) : M Unit := do
  if L.active m then
    let s ← get
    let c := L.c
    let code := s.elemAt L.core c (vwOf src) a.toNat L.i
    let sc := c.scaleExp L.i
    let scaled := scaledSide src || scaledSide dst
    let sh : Int := match sc with
      | some e => (if scaledSide src then e else 0) - (if scaledSide dst then e else 0)
      | none => 0
    let badScale := scaled && sc.isNone
    let x : Num := if isFloat src then (fmtOf src).decode code else numOfInt (intOf src code)
    let nv : Ev := evIf badScale evNV ||| snanEv [x]
    let v : Num := if badScale then .nan false else scaleNum x sh
    if isFloat dst then
      let r := c.roundEv (fmtOf dst) L.i (v, nv)
      let tan (k : Nat) : Num × Ev :=
        let t := c.tfmt.decode (s.tanAt L.core c (vwOf src) a.toNat L.i k)
        (scaleNum t sh, snanEv [t])
      let t (k : Nat) : Nat × Ev := if isFloat src then c.tangents L.i ((fmtOf dst).decode r.1).isNaN tan k else (0, 0)
      modify (fun s => s.putElem L.core c (vwOf dst) d.toNat L.i r.1 (fun k => (t k).1))
      L.raise r.2 ((List.range c.b).foldl (fun e k => e ||| (t k).2) 0)
    else
      let r : Nat × Ev :=
        if isFloat src || badScale then
          let q := toInteger (intWidth dst) (isSigned dst) c.sat c.rm (if c.rm = .sr then srBits c.key c.strm c.srq L.i else 0) v
          (q.1, nv ||| q.2)
        else intFit dst c.sat (intOf src code)
      modify (fun s => s.putElem L.core c (vwOf dst) d.toNat L.i r.1 noTan)
      L.raise r.2 0

/-- The reductions of major 0x2B. -/
inductive Red
  | sum | max | min | and | or | xor
  deriving DecidableEq, Repr

/-- A node of the tree of R63: value bits and tangent bits. -/
structure Node where
  v : Nat
  t : List Nat
  deriving DecidableEq, Repr

/-- A node with value and tangent events. -/
abbrev NodeEv := Option Node × Ev × Ev

/-- The tree of R63 over 2^k positions from lo. -/
def redTree (leaf : Nat → NodeEv) (comb : Node → Node → Nat → Node × Ev × Ev) : Nat → Nat → NodeEv
  | 0, lo => leaf lo
  | k + 1, lo =>
    let mid := lo + 2 ^ k
    let l := redTree leaf comb k lo
    let r := redTree leaf comb k mid
    match l.1, r.1 with
    | some a, some b =>
      let n := comb a b mid
      (some n.1, l.2.1 ||| r.2.1 ||| n.2.1, l.2.2 ||| r.2.2 ||| n.2.2)
    | some a, none => (some a, l.2.1 ||| r.2.1, l.2.2 ||| r.2.2)
    | none, o => (o, l.2.1 ||| r.2.1, l.2.2 ||| r.2.2)

/-- Two nodes combined (R63, R66, R158). -/
def Ctx.combine (c : Ctx) (op : Red) (a b : Node) (mid : Nat) : Node × Ev × Ev :=
  let f := fmtOf c.ew
  let w := intWidth c.ew
  let float := isFloat c.ew
  match op with
  | .sum =>
    if float then
      let r := c.roundEv f mid (addNum c.rm (f.decode a.v) (f.decode b.v))
      let ts := (List.range c.b).map (fun k =>
        if c.tm then (0, 0)
        else c.roundEv c.tfmt ((k + 1) * 4096 + mid) (addNum c.rm (c.tfmt.decode ((a.t[k]?).getD 0)) (c.tfmt.decode ((b.t[k]?).getD 0))))
      ({ v := r.1, t := ts.map Prod.fst }, r.2, (ts.map Prod.snd).foldl (fun x y => x ||| y) 0)
    else
      let r := intFit c.ew c.sat (intOf c.ew a.v + intOf c.ew b.v)
      ({ v := r.1, t := a.t }, r.2, 0)
  | .max | .min =>
    if float then
      let x := f.decode a.v
      let y := f.decode b.v
      if x.isNaN || y.isNaN then ({ v := f.qnan, t := a.t }, snanEv [x, y], 0)
      else (if choosesSecond (op == .max) x y then b else a, 0, 0)
    else
      let x := intOf c.ew a.v
      let y := intOf c.ew b.v
      (if (if op == .max then decide (x < y) else decide (y < x)) then b else a, 0, 0)
  | .and => ({ v := a.v &&& b.v, t := a.t }, 0, 0)
  | .or => ({ v := a.v ||| b.v, t := a.t }, 0, 0)
  | .xor => ({ v := (a.v ^^^ b.v) % 2 ^ w, t := a.t }, 0, 0)

/-- The identity of an empty root (R158). -/
def redIdentity (op : Red) (ew : Nat) : Nat :=
  let f := fmtOf ew
  let w := intWidth ew
  match op with
  | .sum | .or | .xor => 0
  | .and => 2 ^ w - 1
  | .max => if isFloat ew then (if f.ocp then 0x7F else f.infCode true) else if isSigned ew then 2 ^ (w - 1) else 0
  | .min => if isFloat ew then (if f.ocp then 0x7F else f.infCode false) else if isSigned ew then 2 ^ (w - 1) - 1 else 2 ^ w - 1

/-- R158. A reduction, whole, as element VL - 1 commits.
DEDUCED (log 97): tangents go through the same tree, so a NaN tangent at the root is canonical and a signalling one raises FT.NV. -/
def Lane.reduce (L : Lane) (op : Red) (d a : BitVec 7) (m : Bool) : M Unit := do
  if L.i + 1 = L.c.vl then
    let s ← get
    let c := L.c
    let float := isFloat c.ew
    let leaf (j : Nat) : NodeEv :=
      if j < c.vl && (!m || bit (c.mask c.msel) j) then
        let v := L.valOf s a j
        let ts := (List.range c.b).map (L.tanOf s a j)
        (some { v := v, t := ts }, evIf (float && (L.fmt.decode v).isSNaN) evNV, if op == .sum then snanEv (ts.map c.tfmt.decode) else 0)
      else (none, 0, 0)
    let r := redTree leaf (c.combine op) (log2 (pow2Ceil c.vl)) 0
    let root : Node := r.1.getD { v := redIdentity op c.ew, t := [] }
    let nan := float && (L.fmt.decode root.v).isNaN
    let v := if nan then L.fmt.qnan else root.v
    -- a tangent that reached the root unchanged is treated as R63 and R66 treat the value
    let tan (k : Nat) : Nat := let x := (root.t[k]?).getD 0; if (c.tfmt.decode x).isNaN then c.tfmt.qnan else x
    let t (k : Nat) : Nat := if !float || c.tm then 0 else if nan then c.tfmt.qnan else tan k
    let chosen := if op == .sum then 0 else snanEv (root.t.map c.tfmt.decode)
    modify (fun s => s.putElem L.core c L.vw d.toNat 0 v t)
    modify (fun s => s.raise L.h L.e.seq 0 r.2.1 (if !float || nan || c.tm then 0 else r.2.2 ||| chosen))

/-- R159. vid. DESIGN CHOICE (log 129): the tangents of a NaN value are +0, as R159 says. -/
def Lane.index (L : Lane) (d : BitVec 7) (m : Bool) : M Unit := do
  if L.active m then
    L.int d (if isFloat L.c.ew then L.c.round L.fmt L.i (numOfInt L.i) else intFit L.c.ew L.c.sat L.i)

/-- R159. vbcast. -/
def Lane.bcast (L : Lane) (d : BitVec 7) (m : Bool) : M Unit := do
  if L.active m then
    let s ← get
    L.write d L.i (L.src s .scalar) noTan

/-- R160. Move element j of a to element i of d, or zero where there is none. -/
def Lane.permute (L : Lane) (d a : BitVec 7) (j : Option Nat) : M Unit := do
  let s ← get
  match j with
  | some j => L.write d L.i (L.valOf s a j) (L.tanOf s a j)
  | none => L.write d L.i 0 noTan

/-- R160. vslideup. -/
def Lane.slideUp (L : Lane) (d a : BitVec 7) (m : Bool) : M Unit := do
  if L.active m && decide (L.e.opA.toNat ≤ L.i) then L.permute d a (some (L.i - L.e.opA.toNat))

/-- R160. vslidedn. -/
def Lane.slideDown (L : Lane) (d a : BitVec 7) (m : Bool) : M Unit := do
  if L.active m then L.permute d a (if L.i + L.e.opA.toNat < L.c.vl then some (L.i + L.e.opA.toNat) else none)

/-- R160. vshuf. -/
def Lane.shuffle (L : Lane) (d a b : BitVec 7) (m : Bool) : M Unit := do
  if L.active m then
    let s ← get
    let p := L.val s b
    L.permute d a (if p < L.c.vl then some p else none)

/-- R160. vcompress. -/
def Lane.compress (L : Lane) (d a : BitVec 7) : M Unit := do
  let q := L.c.mask L.c.msel
  if bit q L.i then
    let s ← get
    L.write d (popcount L.i q) (L.val s a) (L.tanOf s a L.i)

/-- R161. vhail. -/
def Lane.hailBits (L : Lane) (d : BitVec 7) (m : Bool) : M Unit := do
  if L.active m then
    let z := hail L.c.key L.c.strm (word (L.e.opA.toNat * 4096 + L.i))
    L.write d L.i (z.toNat % 2 ^ (8 * L.vw)) noTan

/-- R162. vbern. -/
def Lane.bernoulli (L : Lane) (q : Nat) : M Unit :=
  L.mask q (bern L.c.key L.c.strm L.e.opA.toNat (word (L.e.opB.toNat * 4096 + L.i)))

/-- Write tangent plane k of element i of d. -/
def Lane.putTan (L : Lane) (d : BitVec 7) (k v : Nat) : M Unit :=
  modify (fun s => s.updVreg L.core (L.c.phys d.toNat) (fun reg => putAt reg (L.c.tanOff L.vw L.i k) L.c.tw (if L.c.tm then 0 else v)))

/-- R163. vseed. -/
def Lane.seed (L : Lane) (d : BitVec 7) (m : Bool) : M Unit := do
  if L.active m then
    let w := L.e.opB.toNat % 2 ^ 24
    let k := bits w 3 0
    let c := L.c
    let sigma (neg : Bool) : Num := scaleNum (.fin neg 1 1) ((bits w 15 8 : Int) - 127)
    let put (x : Num) : M Unit := do
      let r := c.round c.tfmt ((k + 1) * 4096 + L.i) x
      L.putTan d k r.1
      L.raise 0 (if c.tm then 0 else r.2)
    match bits w 5 4 with
    | 0 => put (sigma (radNeg c.key c.strm k ((L.e.opA.toNat + L.i) % 2 ^ 40)))
    | 1 => if L.i = L.e.opA.toNat then put (sigma false) else L.putTan d k 0
    | _ => L.putTan d k 0

/-- R164. vtclr. -/
def Lane.tanClear (L : Lane) (d : BitVec 7) (m : Bool) : M Unit := do
  if L.active m then
    modify (fun s => s.updVreg L.core (L.c.phys d.toNat) (fun reg => L.c.withTans L.vw reg L.i noTan))

/-- R165. vtget. DESIGN CHOICE (log 129): the tangents are +0, as R165 says, where the value is NaN too. -/
def Lane.tanGet (L : Lane) (d a : BitVec 7) (m : Bool) : M Unit := do
  if L.active m then
    let s ← get
    let t := L.c.tfmt.decode (L.tanOf s a L.i L.e.opA.toNat)
    let r := L.c.roundEv L.fmt L.i (t, snanEv [t])
    L.write d L.i r.1 noTan
    L.raise r.2 0

/-- R165. vtset. -/
def Lane.tanSet (L : Lane) (d a : BitVec 7) (m : Bool) : M Unit := do
  if L.active m then
    let s ← get
    let k := L.e.opA.toNat
    let x := L.fmt.decode (L.val s a)
    let r := L.c.roundEv L.c.tfmt ((k + 1) * 4096 + L.i) (x, snanEv [x])
    L.putTan d k r.1
    L.raise 0 (if L.c.tm then 0 else r.2)

/-- R166. The sum u of the forward-gradient update over planes 0 to B - 1. -/
def Ctx.fguSum (c : Ctx) (j : Nat) (coef : Nat → Num) : Num × Ev :=
  foldN c.b ((.fin false 0 1 : Num), (0 : Ev)) (fun u k =>
    let t := coef k
    let p := if radNeg c.key c.strm k j then t.negate else t
    midStep (after u (fun x => addNum .rne x p)))

/-- R166. vfgu. DESIGN CHOICE (log 129): the tangents are those R166 gives, where the value is NaN too. -/
def Lane.fgu (L : Lane) (d a : BitVec 7) (m : Bool) : M Unit := do
  if L.active m then
    let s ← get
    let c := L.c
    let u := c.fguSum ((L.e.opA.toNat + L.i) % 2 ^ 40) (fun k => L.fmt.decode (L.valOf s a k))
    let r := c.roundEv L.fmt L.i (after u (fun x => addNum c.rm (L.fmt.decode (L.val s d)) x.negate))
    modify (fun s => s.updVreg L.core (c.phys d.toNat) (fun reg => c.withVal L.vw reg L.i r.1))
    L.raise r.2 0

/-- One element of a word of majors 0x20 to 0x2E; a once-acting word acts wholly (R154). -/
def Lane.arith (L : Lane) (i : Instr) : M Unit :=
  let c := L.c
  match i with
  | .vadd _ d a b m => L.floatBin .add d a (.reg b) m
  | .vsub _ d a b m => L.floatBin .sub d a (.reg b) m
  | .vmul _ d a b m => L.floatBin .mul d a (.reg b) m
  | .vdiv _ d a b m => L.floatBin .div d a (.reg b) m
  | .vmin _ d a b m => L.floatBin .min d a (.reg b) m
  | .vmax _ d a b m => L.floatBin .max d a (.reg b) m
  | .vaddVx _ d a _ m => L.floatBin .add d a .scalar m
  | .vsubVx _ d a _ m => L.floatBin .sub d a .scalar m
  | .vmulVx _ d a _ m => L.floatBin .mul d a .scalar m
  | .vdivVx _ d a _ m => L.floatBin .div d a .scalar m
  | .vminVx _ d a _ m => L.floatBin .min d a .scalar m
  | .vmaxVx _ d a _ m => L.floatBin .max d a .scalar m
  | .vfma _ d a b m => L.floatFma false false d a (.reg b) m
  | .vfms _ d a b m => L.floatFma false true d a (.reg b) m
  | .vfnma _ d a b m => L.floatFma true false d a (.reg b) m
  | .vfnms _ d a b m => L.floatFma true true d a (.reg b) m
  | .vfmaVx _ d a _ m => L.floatFma false false d a .scalar m
  | .vfmsVx _ d a _ m => L.floatFma false true d a .scalar m
  | .vfnmaVx _ d a _ m => L.floatFma true false d a .scalar m
  | .vfnmsVx _ d a _ m => L.floatFma true true d a .scalar m
  | .vsqrt _ d a m => L.floatUn .sqrt d a m
  | .vrsqrt _ d a m => L.floatUn .rsqrt d a m
  | .vexp _ d a m => L.floatUn .exp d a m
  | .vlog _ d a m => L.floatUn .log d a m
  | .vtanh _ d a m => L.floatUn .tanh d a m
  | .vsigmoid _ d a m => L.floatUn .sigmoid d a m
  | .vfloor _ d a m => L.floatUn .floor d a m
  | .vround _ d a m => L.floatUn .round d a m
  | .vabs _ d a m => L.floatUn .abs d a m
  | .vneg _ d a m => L.floatUn .neg d a m
  | .vrelu _ d a m => L.floatUn .relu d a m
  | .vmov _ d a m => L.mov d a m
  | .veq _ q a b m => L.compare .eq q.toNat a (.reg b) m
  | .vne _ q a b m => L.compare .ne q.toNat a (.reg b) m
  | .vlt _ q a b m => L.compare .lt q.toNat a (.reg b) m
  | .vle _ q a b m => L.compare .le q.toNat a (.reg b) m
  | .veqVx _ q a _ m => L.compare .eq q.toNat a .scalar m
  | .vneVx _ q a _ m => L.compare .ne q.toNat a .scalar m
  | .vltVx _ q a _ m => L.compare .lt q.toNat a .scalar m
  | .vleVx _ q a _ m => L.compare .le q.toNat a .scalar m
  | .vsel _ d a b => L.select d a b
  | .qand _ d a b => L.maskWord d.toNat (c.mask a.toNat &&& c.mask b.toNat)
  | .qor _ d a b => L.maskWord d.toNat (c.mask a.toNat ||| c.mask b.toNat)
  | .qxor _ d a b => L.maskWord d.toNat (c.mask a.toNat ^^^ c.mask b.toNat)
  | .qsub _ d a b => L.maskWord d.toNat (c.mask a.toNat &&& (allMask ^^^ c.mask b.toNat))
  | .qnot _ d a => L.maskWord d.toNat (allMask ^^^ c.mask a.toNat)
  | .qcpy _ d a => L.maskWord d.toNat (c.mask a.toNat)
  | .viadd _ d a b m => L.intOp .add d a (.reg b) m
  | .visub _ d a b m => L.intOp .sub d a (.reg b) m
  | .vimul _ d a b m => L.intOp .mul d a (.reg b) m
  | .vimulh _ d a b m => L.intOp .mulh d a (.reg b) m
  | .vimin _ d a b m => L.intOp .min d a (.reg b) m
  | .vimax _ d a b m => L.intOp .max d a (.reg b) m
  | .vidiv _ d a b m => L.intOp .div d a (.reg b) m
  | .virem _ d a b m => L.intOp .rem d a (.reg b) m
  | .viaddVx _ d a _ m => L.intOp .add d a .scalar m
  | .vimulVx _ d a _ m => L.intOp .mul d a .scalar m
  | .vand _ d a b m => L.bitOp .and d a (.reg b) m
  | .vor _ d a b m => L.bitOp .or d a (.reg b) m
  | .vxor _ d a b m => L.bitOp .xor d a (.reg b) m
  | .vsll _ d a b m => L.bitOp .sll d a (.reg b) m
  | .vsrl _ d a b m => L.bitOp .srl d a (.reg b) m
  | .vsra _ d a b m => L.bitOp .sra d a (.reg b) m
  | .vandVx _ d a _ m => L.bitOp .and d a .scalar m
  | .vorVx _ d a _ m => L.bitOp .or d a .scalar m
  | .vxorVx _ d a _ m => L.bitOp .xor d a .scalar m
  | .vsllVx _ d a _ m => L.bitOp .sll d a .scalar m
  | .vsrlVx _ d a _ m => L.bitOp .srl d a .scalar m
  | .vsraVx _ d a _ m => L.bitOp .sra d a .scalar m
  | .vcvtTo _ d a f m => L.convert c.ew f.toNat d a m
  | .vcvtFrom _ d a f m => L.convert f.toNat c.ew d a m
  | .vredsum _ d a m => L.reduce .sum d a m
  | .vredmax _ d a m => L.reduce .max d a m
  | .vredmin _ d a m => L.reduce .min d a m
  | .vredand _ d a m => L.reduce .and d a m
  | .vredor _ d a m => L.reduce .or d a m
  | .vredxor _ d a m => L.reduce .xor d a m
  | .vid _ d m => L.index d m
  | .vslideup _ d a _ m => L.slideUp d a m
  | .vslidedn _ d a _ m => L.slideDown d a m
  | .vshuf _ d a b m => L.shuffle d a b m
  | .vcompress _ d a => L.compress d a
  | .vbcast _ d _ m => L.bcast d m
  | .vhail _ d _ m => L.hailBits d m
  | .vbern _ q _ _ => L.bernoulli q.toNat
  | .vseed _ d _ _ m => L.seed d m
  | .vtclr _ d m => L.tanClear d m
  | .vtget _ d a _ m => L.tanGet d a m
  | .vtset _ d a _ m => L.tanSet d a m
  | .vfgu _ d a _ m => L.fgu d a m
  | _ => pure ()

end Sys2Proof.Machine
end

