-- ==== Sys2Proof/Machine/VectorMem.lean ====
section
/-! DEFINITION. What the words of majors 0x30 to 0x35 do to one element (R167 to R185, R202 to R207, R315). -/

namespace Sys2Proof.Machine

open Sys2Proof

/-- The record of element i of register d (R167). -/
def Lane.record (L : Lane) (s : State) (d : BitVec 7) : Nat :=
  let c := L.c
  let v := L.val s d
  if c.rs = L.vw then v
  else v + (List.range c.b).foldl (fun r k => r + L.tanOf s d L.i k * 2 ^ (8 * (L.vw + k * c.tw))) 0

/-- Write a loaded record into element i of register d (R167). -/
def Lane.load (L : Lane) (d : BitVec 7) (rec' : Nat) : M Unit :=
  L.write d L.i (rec' % 2 ^ (8 * L.vw))
    (fun k => if L.c.rs = L.vw then 0 else rec' / 2 ^ (8 * (L.vw + k * L.c.tw)) % 2 ^ (8 * L.c.tw))

/-- A member of the convoy that is still to complete writes the mask that governs the word. -/
def Lane.writesMask (L : Lane) (e : QEntry) : Bool :=
  !e.done && ((e.desc L.c).map (fun v => v.writes.contains (.q L.c.msel))).getD false

/-- An older member of the convoy still writes the mask that governs the word: its bits above the element are not known yet. -/
def Lane.maskPending (L : Lane) (s : State) (m : Bool) : Bool := m && ((s.hart L.h).queue.take L.pos).any L.writesMask

/-- The mask bits above the element may still change: an older member writes them element by element, or a younger one at once (R37).
DEDUCED (log 119): such an element counts as active where a rule asks for the active elements to come. -/
def Lane.maskOpen (L : Lane) (s : State) (m : Bool) : Bool :=
  L.maskPending s m || (m && ((firstConvoy (s.hart L.h).queue).drop (L.pos + 1)).any (fun e =>
    L.writesMask e && (e.desc L.c).any (fun v => v.kind == .once)))

/-- Every active element from i up to n lies, with its whole record, in one tile (R315); with `free` the bits above i are open. -/
def Lane.restInTile (L : Lane) (tile n : Nat) (m free : Bool) (addr : Nat → List (Nat × Nat)) : Bool :=
  (List.range (n - L.i)).all (fun k =>
    (m && !(free && decide (0 < k)) && !bit (L.c.mask L.c.msel) (L.i + k)) ||
    (addr (L.i + k)).all (fun a => a.1 / 65536 == tile && (a.1 + a.2 - 1) / 65536 == tile))

/-- The base-register rewrite of a redirected element (R315): OPA of the entry, and x[a] where it still holds it. -/
def Lane.rewriteOpa (L : Lane) (a : BitVec 7) (n : Nat) (m : Bool) (addr : Nat → List (Nat × Nat)) (ea : Nat) (ps : List Piece) :
    M Unit := do
  match ps with
  | [p] =>
    let s ← get
    if p.hops != 0 && L.restInTile (ea / 65536) n m (L.maskOpen s m) addr then
      let x := L.e.opA.toNat
      let moved := word (x / 2 ^ 56 * 2 ^ 56 + (x % 2 ^ 56 + 2 ^ 56 - ea + p.va) % 2 ^ 56)
      modify (fun s =>
        let s := s.updHart L.h (fun t => { t with queue := updNth (fun e => { e with opA := moved }) L.pos t.queue })
        if s.x L.h a = L.e.opA then s.setX L.h a moved else s)
  | _ => pure ()

/-- Read len bytes of the virtual space for an element (R170, R171). -/
def Lane.readVa (L : Lane) (ea len : Nat) : M (Nat × List Piece) := do
  let s ← get
  let r ← readHome (s.vecReqOf L.h) cVACC (word ea) ea len
  modify (fun s => (s.countHops L.core r.2).noteRead L.h r.2)
  return (s.loadPieces L.h r.2, r.2)

/-- Write the pieces of an element's bytes: performed at the home, the core's L1 lines dropped (R276). -/
def Lane.putPieces (L : Lane) (ps : List Piece) (v : Nat) (s : State) : State :=
  ps.foldl (fun s p => s.dropL1 L.core p.pa p.len) (((s.countHops L.core ps).writePieces (some L.h) ps v).echo L.h ps v)

/-- The word gives vo (R278): every vector store but the two unordered ones. -/
def Lane.ordered (L : Lane) : Bool :=
  match L.e.instr with
  | some (.vstU ..) | some (.vstxU ..) => false
  | _ => true

/-- Write len bytes of the virtual space for an element. -/
def Lane.writeVa (L : Lane) (ea len v : Nat) : M (List Piece) := do
  let s ← get
  let ps ← resolveOr (s.vecReqOf L.h) .store cVACC (word ea) ea len
  modify (fun s => if L.ordered then ps.foldl State.markBehind (L.putPieces ps v s) else L.putPieces ps v s)
  return ps

/-- Address forms of major 0x30 (R168). -/
inductive Form
  | unit
  | strided
  | indexed (b : BitVec 7)
  deriving DecidableEq, Repr

/-- Address of element j (R168). -/
def Lane.address (L : Lane) (s : State) (f : Form) (j : Nat) : Nat :=
  match f with
  | .unit => (L.e.opA + word (j * L.c.rs)).toNat
  | .strided => (L.e.opA + word j * L.e.opB).toNat
  | .indexed b => (L.e.opA + word (L.valOf s b j)).toNat

/-- A redirected element of an indexed word rewrites nothing (R316). -/
def Form.rewrites : Form → Bool
  | .indexed _ => false
  | _ => true

/-- R172. A load of the virtual space. -/
def Lane.loadVa (L : Lane) (f : Form) (d a : BitVec 7) (m : Bool) : M Unit := do
  if L.active m then
    let s ← get
    let ea := L.address s f L.i
    let r ← L.readVa ea L.c.rs
    L.load d r.1
    if f.rewrites then L.rewriteOpa a L.c.vl m (fun j => [(L.address s f j, L.c.rs)]) ea r.2

/-- R172, R173. A store of the virtual space. -/
def Lane.storeVa (L : Lane) (f : Form) (d a : BitVec 7) (m : Bool) : M Unit := do
  if L.active m then
    let s ← get
    let ea := L.address s f L.i
    let ps ← L.writeVa ea L.c.rs (L.record s d)
    if f.rewrites then L.rewriteOpa a L.c.vl m (fun j => [(L.address s f j, L.c.rs)]) ea ps

/-- The byte of a record whose draw decides for byte k: the first of the value or tangent that holds it where that one stands aligned
at its width, so that it is written whole or not at all (R169), else byte k itself. -/
def Lane.unitOf (L : Lane) (ea k : Nat) : Nat :=
  let w := if k < L.vw then L.vw else L.c.tw
  let o := if k < L.vw then 0 else L.vw + (k - L.vw) / L.c.tw * L.c.tw
  if (ea + o) % w = 0 then o else k

/-- R173. An element of vstx.u: where an element that the word has performed since its convoy began wrote the same bytes, either one's
may remain (free, log 30).  Elements performed before a stop come earlier.  The elements of vst.u never meet. -/
def Lane.storeUnordered (L : Lane) (d b : BitVec 7) (m : Bool) : M Unit := do
  if L.active m then
    let s ← get
    let n := L.c.rs
    let ea := L.address s (.indexed b) L.i
    let shared (k : Nat) : Bool := (s.hart L.h).unordered.any (fun z => decide (z ≤ ea + k) && decide (ea + k < z + n))
    let ps ← resolveOr (s.vecReqOf L.h) .store cVACC (word ea) ea n
    let free ← drawN n
    let t ← get
    let bytes := (toBytes n (t.readPieces ps)).zip (toBytes n (L.record s d))
    let bs := bytes.zipIdx.map (fun x => if shared x.2 && Config.freeBool (free + L.unitOf ea x.2) then x.1.1 else x.1.2)
    modify (fun s => (L.putPieces ps (ofBytes bs) s).updHart L.h (fun t => { t with unordered := ea :: t.unordered }))

/-- The three typed buffers by the numbers of R44. -/
inductive BufKind
  | w | a | c
  deriving DecidableEq, Repr

/-- Number of a buffer: 1 W, 2 A, 3 C (R44). -/
def BufKind.num : BufKind → Nat
  | .w => 1 | .a => 2 | .c => 3

/-- Bank of an offset (R201). -/
def BufKind.bank (b : BufKind) (off : Nat) : Nat := if b = .a then bits off 9 5 else bits off 8 4

/-- A launch's buffer on a core. -/
def Alloc.buf (a : Alloc) : BufKind → Buf
  | .w => a.w | .a => a.a | .c => a.c

/-- The allocation with one buffer changed. -/
def Alloc.upd (a : Alloc) (k : BufKind) (f : Buf → Buf) : Alloc :=
  match k with
  | .w => { a with w := f a.w }
  | .a => { a with a := f a.a }
  | .c => { a with c := f a.c }

/-- The buffer of a launch on a core, empty where it holds none. -/
def State.buf (s : State) (core lno : Nat) (k : BufKind) : Buf :=
  match (s.core core).allocOf lno with
  | some a => a.buf k
  | none => Buf.empty

/-- Change the buffer of a launch on a core. -/
def State.updBuf (s : State) (core lno : Nat) (k : BufKind) (f : Buf → Buf) : State :=
  s.updCore core (fun r => { r with allocs := r.allocs.map (fun a => if a.lno = lno then a.upd k f else a) })

/-- Change a buffer for hart h or one of its engines: its convoy in flight sees it too (R274). -/
def State.putBuf (s : State) (h core lno : Nat) (k : BufKind) (f : Buf → Buf) : State :=
  (s.updBuf core lno k f).updSnap h (fun p =>
    if p.core = core then { p with allocs := p.allocs.map (fun a => if a.lno = lno then a.upd k f else a) } else p)

/-- A buffer as the loads of hart h's convoy in flight take it (R287). -/
def State.loadBuffer (s : State) (h core lno : Nat) (k : BufKind) : Buf :=
  match (s.hart h).snap with
  | some p =>
    if p.core = core then ((p.allocs.find? (fun a => a.lno == lno)).map (fun a => a.buf k)).getD Buf.empty else s.buf core lno k
  | none => s.buf core lno k

/-- Granules that a record touches. -/
def granules (off len : Nat) : List Nat := (List.range ((off + len - 1) / 16 + 1 - off / 16)).map (fun k => off / 16 + k)

/-- Class of a granule (R202). -/
inductive GranClass
  | alloc | guard | outside
  deriving DecidableEq, Repr

/-- Class of granule g of an allocation of `size` bytes (R202). -/
def granClass (size g : Nat) : GranClass :=
  if 16 * g < size then .alloc else if size != 0 && decide (16 * g < size + 256) then .guard else .outside

/-- A place in a buffer. -/
structure Place where
  core : Nat
  lno : Nat
  kind : BufKind
  off : Nat
  deriving DecidableEq, Repr

/-- EVAL of a buffer address (R175). -/
def Place.eval (p : Place) (coreField : Nat) : Word := word (p.kind.num * 2 ^ 56 + coreField * 2 ^ 24 + p.off % 2 ^ 24)

/-- How a record of len bytes stands to its allocation (R177): outside, touching a guard granule, or wholly inside. -/
def State.placeClass (s : State) (p : Place) (len : Nat) : GranClass :=
  let size := (s.buf p.core p.lno p.kind).size
  let cs := (granules p.off len).map (granClass size)
  if cs.contains .outside || decide (2 ^ 24 < p.off + len) then .outside else if cs.contains .guard then .guard else .alloc

/-- The first guard byte of a record (R203). -/
def State.guardOff (s : State) (p : Place) (len : Nat) : Nat :=
  let size := (s.buf p.core p.lno p.kind).size
  match (granules p.off len).find? (fun g => granClass size g == .guard) with
  | some g => max p.off (16 * g)
  | none => p.off

/-- A guard touch of a lane's element: latched at once, or when the owning bank's reply returns (R203). -/
def Lane.touchGuard (L : Lane) (p : Place) (len : Nat) : M Unit :=
  modify (fun s =>
    let off := s.guardOff p len
    let s := s.count L.core 15 1
    if p.core = L.core then s.updCtx L.h (fun c => c.touchGuard p.kind.num (p.kind.bank off) off)
    else s.updHart L.h (fun t => { t with guardPending := t.guardPending ++ [(p.kind.num, p.kind.bank off, off)] }))

/-- Full-empty waits of a record (R178): its allocation granules must be full. -/
def needFull (p : Place) (len : Nat) : M Unit := do
  let s ← get
  let b := s.buf p.core p.lno p.kind
  match (granules p.off len).find? (fun g => granClass b.size g == .alloc && !Tbl.get false b.full g) with
  | some g => waitM (.granule p.core p.kind.num p.lno g)
  | none => pure ()

/-- Set or clear the granules whose last active element this is (R178), once every member of the convoy has performed the element:
`was` says whether the word's own was active.  While the mask's upper bits are pending, a granule waits for the last element that could
touch it. -/
def Lane.markGranules (L : Lane) (p : Place) (len : Nat) (m full was : Bool) (offOf : Nat → Nat) : M Unit :=
  modify (fun s =>
    let b := s.buf p.core p.lno p.kind
    let late := L.maskPending s m
    let on (j : Nat) : Bool := if j = L.i then was else !m || bit (L.c.mask L.c.msel) j
    let touches (g j : Nat) : Bool := (granules (offOf j) len).contains g
    let later (g : Nat) : Bool := (List.range (L.c.vl - (L.i + 1))).any (fun k =>
      (late || on (L.i + 1 + k)) && touches g (L.i + 1 + k))
    let touched (g : Nat) : Bool := if late then (List.range (L.i + 1)).any (fun j => on j && touches g j) else was
    let gs := (granules p.off len).filter (fun g => granClass b.size g == .alloc && touched g && !later g)
    s.updBuf p.core p.lno p.kind (fun b => { b with full := gs.foldl (fun t g => Tbl.set t g full) b.full }))

/-- Offset of element j of a buffer word; XP transposes 64-element rows (R175, R176). -/
def Lane.bufOff (L : Lane) (xp j : Nat) : Nat :=
  let base := bits L.e.opA.toNat 23 0
  if xp = 0 then base + j * L.c.rs else base + (64 * (j % 64) + j / 64) * xp

/-- Core that a buffer word reaches (R175). -/
def Lane.bufCore (L : Lane) (r : Bool) : Nat := if r then L.core / 8 * 8 + bits L.e.opA.toNat 26 24 else L.core

/-- The place of element i of a buffer word. -/
def Lane.place (L : Lane) (s : State) (k : BufKind) (r : Bool) (xp : Nat) : Place :=
  { core := L.bufCore r, lno := s.hartLno L.h, kind := k, off := L.bufOff xp L.i }

/-- R175 to R178. An element of vldw, vlda or vldc. -/
def Lane.loadBuf (L : Lane) (k : BufKind) (d : BitVec 7) (r : Bool) (xp fe : Nat) (m : Bool) : M Unit := do
  let s ← get
  let p := L.place s k r xp
  let n := L.c.rs
  if L.active m then
    match s.placeClass p n with
    | .outside => trapM cVACC (p.eval (if r then bits L.e.opA.toNat 26 24 else 0))
    | cls =>
      if fe != 0 then needFull p n
      if cls = .guard then
        L.touchGuard p n
        L.load d 0
      else L.load d ((if fe = 0 then s.loadBuffer L.h p.core p.lno k else s.buf p.core p.lno k).data.readN p.off n)

/-- R175 to R178. An element of vstw, vsta or vstc. -/
def Lane.storeBuf (L : Lane) (k : BufKind) (d : BitVec 7) (r m : Bool) : M Unit := do
  let s ← get
  let p := L.place s k r 0
  let n := L.c.rs
  if L.active m then
    match s.placeClass p n with
    | .outside => trapM cVACC (p.eval (if r then bits L.e.opA.toNat 26 24 else 0))
    | .guard => L.touchGuard p n
    | .alloc =>
      let v := L.record s d
      modify (fun s => s.putBuf L.h p.core p.lno k (fun b => { b with data := b.data.writeN p.off n v }))

/-- What a buffer word does to full-empty bits once its element is performed (R178): fe.take clears, fe.set sets. -/
def Lane.markWord (L : Lane) (was : Bool) (i : Instr) : M Unit := do
  let s ← get
  let load (k : BufKind) (r : Bool) (xp : BitVec 2) (m : Bool) : M Unit :=
    L.markGranules (L.place s k r xp.toNat) L.c.rs m false was (L.bufOff xp.toNat)
  let store (k : BufKind) (r m : Bool) : M Unit := L.markGranules (L.place s k r 0) L.c.rs m true was (L.bufOff 0)
  match i with
  | .vldw _ _ _ p e m => if e = 2 then load .w false p m
  | .vlda _ _ _ r p e m => if e = 2 then load .a r p m
  | .vldc _ _ _ r p e m => if e = 2 then load .c r p m
  | .vstw _ _ _ e m => if e then store .w false m
  | .vsta _ _ _ r e m => if e then store .a r m
  | .vstc _ _ _ r e m => if e then store .c r m
  | _ => pure ()

/-- The atomic operations of R179. -/
inductive VAtomic
  | add | swap | max | min | maxn | minn | and | or
  deriving DecidableEq, Repr

/-- The new value of a vector atomic with its events (R179). -/
def Lane.atomicNew (L : Lane) (op : VAtomic) (old q : Nat) : Nat × Ev :=
  let ew := L.c.ew
  let w := 8 * L.vw
  match op with
  | .add =>
    if isFloat ew then L.c.roundEv L.fmt L.i (addNum L.c.rm (L.fmt.decode old) (L.fmt.decode q))
    else ((old + q) % 2 ^ w, 0)
  | .swap => (q, 0)
  | .max => (if toS w old < toS w q then q else old, 0)
  | .min => (if toS w q < toS w old then q else old, 0)
  | .maxn => (max old q, 0)
  | .minn => (min old q, 0)
  | .and => (old &&& q, 0)
  | .or => (old ||| q, 0)

/-- Address of element j of a vector atomic: the base is OPA[55:0] (R179). -/
def Lane.atomicAddr (L : Lane) (s : State) (b : BitVec 7) (j : Nat) : Nat :=
  (L.e.opA.toNat % 2 ^ 56 + L.valOf s b j) % 2 ^ 64

/-- The address lies in the buffer aperture (R206). -/
def inAperture (va : Nat) : Bool := va / 2 ^ 32 == 0xFFFFFF

/-- The core that an aperture address names. -/
def Lane.apertureCore (L : Lane) (va : Nat) : Nat := L.core / 8 * 8 + bits va 26 24

/-- The place in a buffer that an aperture address names (R206). -/
def Lane.aperturePlace (L : Lane) (s : State) (va : Nat) : Place :=
  { core := L.apertureCore va, lno := s.hartLno L.h, kind := if bits va 28 27 = 2 then .a else .c, off := bits va 23 0 }

/-- An aperture address that names no buffer, or no place of the launch's allocation there (R206). -/
def Lane.apertureBad (L : Lane) (s : State) (va : Nat) : Bool :=
  bits va 31 29 != 0 || decide (bits va 28 27 < 2) || s.placeClass (L.aperturePlace s va) L.vw == .outside

/-- R179, R206, R207. One element of a vector atomic. -/
def Lane.atomic (L : Lane) (op : VAtomic) (d b : BitVec 7) (m : Bool) : M Unit := do
  if L.active m then
    let s ← get
    let n := L.vw
    let ea := L.atomicAddr s b L.i
    let q := L.val s d
    if ea % n != 0 then trapM cVACC (word ea)
    if inAperture ea then
      if L.apertureBad s ea then trapM cVACC (word ea)
      let p := L.aperturePlace s ea
      if s.placeClass p n = .guard then
        L.touchGuard p n
        L.write d L.i 0 noTan
      else
        let old := (s.buf p.core p.lno p.kind).data.readN p.off n
        let r := L.atomicNew op old q
        modify (fun s => s.putBuf L.h p.core p.lno p.kind (fun b => { b with data := b.data.writeN p.off n r.1 }))
        L.write d L.i old noTan
        L.raise r.2 0
    else
      let ps ← resolveOr (s.vecReqOf L.h) .atomic cVACC (word ea) ea n
      let t ← get
      if t.piecesPoisoned ps then throw (.term cUNCORR (word ea))
      let old := t.readPieces ps
      let r := L.atomicNew op old q
      modify (L.putPieces ps r.1)
      L.write d L.i old noTan
      L.raise r.2 0
  if L.i + 1 = L.c.vl && bit L.e.opA.toNat 62 then
    modify (fun s => s.acquire L.h (bits L.e.opA.toNat 61 59))

/-- Fields of a strip handle (R181). -/
def hValid (n : Nat) : Bool := bit n 255
def hWrap (n : Nat) : Bool := bit n 254
def hDir (n : Nat) : Nat := bits n 253 252
def hBound (n : Nat) : Bool := bit n 243
def hBvr (n : Nat) : Nat := bits n 242 232
def hBpos (n : Nat) : Nat := bits n 231 192
def hPos (n : Nat) : Nat := bits n 167 128
def hLen (n : Nat) : Nat := bits n 103 64
def hBase (n : Nat) : Nat := bits n 55 0

/-- A descriptor that hset refuses (R182). -/
def hsetBad (n : Nat) : Bool :=
  bits n 251 244 != 0 || bits n 191 168 != 0 || bits n 127 104 != 0 || bits n 63 56 != 0 ||
  hBound n || hBvr n != 0 || hBpos n != 0 ||
  (hValid n && (hDir n == 0 || hLen n == 0 || decide (2 ^ 56 < hBase n + hLen n) || decide (hLen n < hPos n))) ||
  (hValid n && hWrap n && hPos n == hLen n)

/-- The handle of a lane. -/
def Lane.handle (L : Lane) (a : BitVec 5) : Nat := Tbl.get 0 L.c.h a.toNat

/-- Position from which a stream word addresses: POS, or BPOS for vunbind (R183). -/
def streamAddr (n pos off : Nat) : Nat := hBase n + (if hWrap n then (pos + off) % hLen n else pos + off)

/-- A stream word's execution-time conditions fail (R183): `dir` is the bit of DIR it needs. -/
def Lane.streamBad (L : Lane) (n : Nat) (dir : Nat) (pos : Nat) : Bool :=
  !hValid n || !bit (hDir n) dir || (!hWrap n && decide (hLen n < pos + L.c.vl * L.c.rs)) || (hWrap n && hLen n % L.c.rs != 0)

/-- POS after the word (R183). -/
def Lane.advance (L : Lane) (n : Nat) : Nat :=
  let p := hPos n + L.c.vl * L.c.rs
  setBits n 167 128 (if hWrap n then p % hLen n else p)

/-- Write a handle. -/
def Lane.setHandle (L : Lane) (a : BitVec 5) (n : Nat) : M Unit :=
  modify (fun s => s.updCtx L.h (fun c => { c with h := Tbl.set c.h a.toNat n }))

/-- The last element of the word. -/
def Lane.last (L : Lane) : Bool := L.i + 1 == L.c.vl

/-- R183. An element of vsld, and of vbind. -/
def Lane.streamLoad (L : Lane) (d : BitVec 7) (a : BitVec 5) (m bind : Bool) : M Unit := do
  let n := L.handle a
  if L.active m then
    let r ← L.readVa (streamAddr n (hPos n) (L.i * L.c.rs)) L.c.rs
    L.load d r.1
  if L.last then
    let n' := if bind then setBits (setBits (setBits n 243 243 1) 242 232 (L.c.phys d.toNat)) 231 192 (hPos n) else n
    L.setHandle a (L.advance n')

/-- R183. An element of vsst. -/
def Lane.streamStore (L : Lane) (d : BitVec 7) (a : BitVec 5) (m : Bool) : M Unit := do
  let n := L.handle a
  if L.active m then
    let s ← get
    let _ ← L.writeVa (streamAddr n (hPos n) (L.i * L.c.rs)) L.c.rs (L.record s d)
  if L.last then L.setHandle a (L.advance n)

/-- R183. An element of vunbind. -/
def Lane.streamUnbind (L : Lane) (d : BitVec 7) (a : BitVec 5) : M Unit := do
  let n := L.handle a
  let s ← get
  let _ ← L.writeVa (streamAddr n (hBpos n) (L.i * L.c.rs)) L.c.rs (L.record s d)
  if L.last then L.setHandle a (setBits n 243 243 0)

/-- R182. hset, as element 0. -/
def Lane.handleSet (L : Lane) (a : BitVec 5) : M Unit := do
  if L.i = 0 then
    let r ← L.readVa L.e.opA.toNat 32
    if hsetBad r.1 then trapM cOPND (L.e.word.setWidth 64)
    L.setHandle a r.1

/-- Entries that vscl loads (R184). -/
def Ctx.scaleCount (c : Ctx) : Nat := cdiv c.vl (2 ^ c.bl)

/-- R184. vscl, entry i. -/
def Lane.scaleLoad (L : Lane) (a : BitVec 7) : M Unit := do
  if L.i < L.c.scaleCount then
    let addr (j : Nat) : Nat := (L.e.opA + word j * L.e.opB).toNat
    let r ← L.readVa (addr L.i) 1
    modify (fun s => s.updCtx L.h (fun c => { c with sf := Tbl.set c.sf ((c.sb + L.i) % 2048) r.1 }))
    L.rewriteOpa a L.c.scaleCount false (fun j => [(addr j, 1)]) (addr L.i) r.2

/-- Address of granule g of the block that holds element j of an NPP tensor (R185). -/
def Lane.npAddr (L : Lane) (p g j : Nat) : Nat := (L.e.opA + word (16 * p * (j / 128) + 16 * g)).toNat

/-- The exact value of q of p planes (R56): v is the two's-complement number of the top q bits. -/
def npValue (p q : Nat) (v : Int) : Num :=
  let z : Int := if q = p then v else v * 2 ^ (p - q) + 2 ^ (p - q - 1)
  scaleNum (numOfInt z) (1 - (p : Int))

/-- Resolve the reads of an element of several parts: of their refusals the one whose check comes first is taken, the first part among
equals; then poison (R171). -/
def Lane.resolveParts (L : Lane) (parts : List (Nat × Nat)) : M (List (List Piece)) := do
  let s ← get
  let r := s.vecReqOf L.h
  let rs ← parts.mapM (fun p => do return (p.1, ← resolve r .load p.1 p.2))
  let worst := rs.foldl (fun (w : Option (Nat × AccFault)) x => match x.2, w with
    | .error e, none => some (x.1, e)
    | .error e, some f => if e.rank < f.2.rank then some (x.1, e) else w
    | .ok _, _ => w) none
  match worst with
  | some f => stopAccess r .load cVACC (word f.1) f.2
  | none =>
    let pieces := rs.map (fun x => match x.2 with
      | .ok ps => ps
      | .error _ => [])
    let s ← get
    match (rs.zip pieces).find? (fun x => s.piecesPoisoned x.2) with
    | some x => stopAccess r .load cVACC (word x.1.1) .uncorr
    | none =>
      modify (fun s => pieces.foldl (fun s ps => (s.countHops L.core ps).noteRead L.h ps) s)
      return pieces

/-- R185. vldnp. DESIGN CHOICE (log 129): the tangents are those R185 gives, where the value is NaN too. -/
def Lane.loadNp (L : Lane) (d a : BitVec 7) (p q : Nat) (m : Bool) : M Unit := do
  if L.active m then
    let c := L.c
    let pieces ← L.resolveParts ((List.range q).map (fun g => (L.npAddr p g L.i, 16)))
    let s ← get
    let rs := pieces.map (fun ps => (s.loadPieces L.h ps, ps))
    let v := rs.foldl (fun v r => 2 * v + b2n (bit r.1 (L.i % 128))) 0
    let x := npValue p q (toS q v)
    let r : Nat × Ev := match c.scaleExp L.i with
      | some e => c.roundEv L.fmt L.i (scaleNum x e, 0)
      | none => (L.fmt.qnan, evNV)
    L.write d L.i r.1 noTan
    L.raise r.2 0
    match rs with
    | f :: _ =>
      if rs.all (fun r => r.2.map (fun p => (p.va / 65536, p.hops)) == f.2.map (fun p => (p.va / 65536, p.hops))) then
        L.rewriteOpa a c.vl m (fun j => (List.range q).map (fun g => (L.npAddr p g j, 16))) (L.npAddr p 0 L.i) f.2
    | [] => pure ()

/-- One element of a word of majors 0x30 to 0x35. -/
def Lane.memory (L : Lane) (i : Instr) : M Unit :=
  match i with
  | .vld _ d a m => L.loadVa .unit d a m
  | .vlds _ d a _ m => L.loadVa .strided d a m
  | .vldx _ d a b m => L.loadVa (.indexed b) d a m
  | .vst _ d a m => L.storeVa .unit d a m
  | .vstU _ d a m => L.storeVa .unit d a m
  | .vsts _ d a _ m => L.storeVa .strided d a m
  | .vstx _ d a b m => L.storeVa (.indexed b) d a m
  | .vstxU _ d _ b m => L.storeUnordered d b m
  | .vldw _ d _ p e m => L.loadBuf .w d false p.toNat e.toNat m
  | .vlda _ d _ r p e m => L.loadBuf .a d r p.toNat e.toNat m
  | .vldc _ d _ r p e m => L.loadBuf .c d r p.toNat e.toNat m
  | .vstw _ d _ _ m => L.storeBuf .w d false m
  | .vsta _ d _ r _ m => L.storeBuf .a d r m
  | .vstc _ d _ r _ m => L.storeBuf .c d r m
  | .vaadd _ d _ b m | .vaaddO _ d _ b m => L.atomic .add d b m
  | .vaswap _ d _ b m | .vaswapO _ d _ b m => L.atomic .swap d b m
  | .vamax _ d _ b m | .vamaxO _ d _ b m => L.atomic .max d b m
  | .vamin _ d _ b m | .vaminO _ d _ b m => L.atomic .min d b m
  | .vamaxn _ d _ b m | .vamaxnO _ d _ b m => L.atomic .maxn d b m
  | .vaminn _ d _ b m | .vaminnO _ d _ b m => L.atomic .minn d b m
  | .vaand _ d _ b m | .vaandO _ d _ b m => L.atomic .and d b m
  | .vaor _ d _ b m | .vaorO _ d _ b m => L.atomic .or d b m
  | .vsld _ d a m => L.streamLoad d a m false
  | .vsst _ d a m => L.streamStore d a m
  | .vbind _ d a => L.streamLoad d a false true
  | .vunbind _ d a => L.streamUnbind d a
  | .hset _ a _ => L.handleSet a
  | .vscl _ a _ => L.scaleLoad a
  | .vldnp _ d a p q m => L.loadNp d a (p.toNat + 1) q.toNat m
  | _ => pure ()

/-- The ordering byte of a vector atomic has a defect (R81). -/
def orderBad (x : Nat) : Bool := bits x 58 56 != 0 || decide (4 < bits x 61 59)

/-- A buffer word's OPA has a defect (R175). -/
def bufOpaBad (x : Nat) (r : Bool) : Bool := bits x 63 27 != 0 || (!r && bits x 26 24 != 0)

/-- A memory word's execution-time conditions fail (R170). -/
def Lane.execBad (L : Lane) (i : Instr) : Bool :=
  let x := L.e.opA.toNat
  match i with
  | .vldw .. | .vstw .. => bufOpaBad x false
  | .vlda _ _ _ r _ _ _ | .vldc _ _ _ r _ _ _ => bufOpaBad x r
  | .vsta _ _ _ r _ _ | .vstc _ _ _ r _ _ => bufOpaBad x r
  | .vaadd .. | .vaaddO .. | .vaswap .. | .vaswapO .. | .vamax .. | .vamaxO .. | .vamin .. | .vaminO ..
  | .vamaxn .. | .vamaxnO .. | .vaminn .. | .vaminnO .. | .vaand .. | .vaandO .. | .vaor .. | .vaorO .. => orderBad x
  | .vsld _ _ a _ => L.streamBad (L.handle a) 0 (hPos (L.handle a))
  | .vsst _ _ a _ => L.streamBad (L.handle a) 1 (hPos (L.handle a))
  | .vbind _ _ a => L.streamBad (L.handle a) 0 (hPos (L.handle a)) || hBound (L.handle a)
  | .vunbind _ d a =>
    L.streamBad (L.handle a) 1 (hBpos (L.handle a)) || !hBound (L.handle a) || hBvr (L.handle a) != L.c.phys d.toNat
  | .hset .. => x % 32 != 0
  | .vldnp .. => x % 16 != 0
  | _ => false

/-- A vector atomic (R179). -/
def isVatomic : Instr → Bool
  | .vaadd .. | .vaaddO .. | .vaswap .. | .vaswapO .. | .vamax .. | .vamaxO .. | .vamin .. | .vaminO ..
  | .vamaxn .. | .vamaxnO .. | .vaminn .. | .vaminnO .. | .vaand .. | .vaandO .. | .vaor .. | .vaorO .. => true
  | _ => false

/-- A vector atomic that releases (R180). DESIGN CHOICE (log 120): so it does where all its elements are masked off. -/
def releasesFirst (i : Instr) (e : QEntry) : Bool := isVatomic i && e.opA.msb

/-- A vector atomic that acquires (R180). DESIGN CHOICE (log 120): so it does where all its elements are masked off. -/
def acquiresLast (i : Instr) (e : QEntry) : Bool := isVatomic i && bit e.opA.toNat 62

end Sys2Proof.Machine
end

