-- ==== Sys2Proof/Machine/Anvil.lean ====
section
/-! DEFINITION. The Anvil: ownership and shape, stationary planes, layer-passes, drains and status (R64, R215 to R235), and the
slew limiter that grants the passes (R269). -/

namespace Sys2Proof.Machine

open Sys2Proof

/-- Anvil of core c. -/
def State.anvil (s : State) (c : Nat) : Anvil := (s.core c).anvil

/-- Change the Anvil of core c. -/
def State.updAnvil (s : State) (c : Nat) (f : Anvil → Anvil) : State := s.updCore c (fun k => { k with anvil := f k.anvil })

/-- Layers of a core that are neither mapped out nor skipped for heat (R227, R229). -/
def Core.avail (k : Core) : Nat := 15 ^^^ ((k.outLayers ||| k.hotLayers) % 16)

/-- The word is a drain. -/
def isDrain : Instr → Bool
  | .mdrain .. | .mdrainS .. | .mdrainX .. => true
  | _ => false

/-- The shape in force stands while an older word of the hart still needs it: a multiplication or a drain takes Mg and ORG from it
(R221, R231, R235). -/
def needShapeIdle (h : Nat) : M Unit := do
  let s ← get
  let older := s.olderWords h
  if older.any QEntry.mmul then waitM .anvil
  if older.any (fun e => !e.done && (e.instr.map isDrain).getD false) then waitM .older

/-- Wait until every older matrix word of the hart has completed (R233, R235). -/
def needMatrixDone (h : Nat) : M Unit := do
  let s ← get
  if (s.olderWords h).any QEntry.ahead then waitM .anvil

/-- Shape bits of a grant (R220). -/
def Shape.grant (sh : Shape) : Nat := sh.mg * 2 ^ 21 + sh.ng * 2 ^ 11 + sh.kg

/-- The shape that a request asks for (R219, R220). -/
def shapeOf (r : Nat) : Shape :=
  { sx := reqSx r, ps := reqPs r, spn := reqSpn r, fmt := reqFmt r, org := bits r 43 29, mg := min (bits r 27 21) 64,
    ng := min (bits r 20 11) (planeCols (reqFmt r)), kg := min (bits r 10 0) (planeDepth (reqSpn r)) }

/-- R219, R220, R216. mshape at issue.  A releasing one of the owner waits for every older matrix word (R235); its release completes at
the gate. -/
def mshapeAct (h : Nat) (d : BitVec 7) (e : QEntry) : M Unit := do
  let s ← get
  let c := coreOf h
  let r := e.opA.toNat
  let av := s.anvil c
  let me := (s.hart h).task
  if s.ownsAnvil h then
    needShapeIdle h
    if reqRel r then needMatrixDone h
  if reqRel r then
    modify (fun s =>
      let s := s.setX h d 0
      if s.ownsAnvil h then s.updAnvil c (fun a => { a with owner := none, releasing := me, relDone := false }) else s)
  else
    if av.releasing.isSome && av.releasing == me then waitM .anvil
    let grant (sh : Shape) : Word := word (2 ^ 63 + (s.core c).avail * 2 ^ 56 + sh.grant)
    if s.ownsAnvil h then
      modify (fun s => (s.updAnvil c (fun a => { a with shape := shapeOf r })).setX h d (grant (shapeOf r)))
    else if av.owner.isSome || av.releasing.isSome then modify (fun s => s.setX h d 0)
    else
      modify (fun s =>
        let s := (s.updAnvil c (fun _ => { Anvil.free with owner := me, shape := shapeOf r })).setX h d (grant (shapeOf r))
        match me with
        | some t => s.updTask t (fun t => { t with anvilCore := some c })
        | none => s)

/-- R220. Acquire, reshape or release the Anvil; x[d] := the grant. -/
def execMshape (k : Bool) (d a : BitVec 7) (s : State) : Out1 :=
  issueWith (.mshape k d a) (wordR 0x38 0 k d.toNat a.toNat 0) false (mshapeAct s.turn d) s

/-- The exact value of a stored weight, subnormals read as signed zero (R58, R222). -/
def flushed (f : Fmt) (code : Nat) : Num :=
  if bits code (f.width - 2) f.man = 0 then .fin (bit code (f.width - 1)) 0 1 else f.decode code

/-- Value of a stored weight code (R56, R222, R226): times its scale, NaN under the scale code 0xFF. -/
def codeValue (fmt ps code : Nat) (scale : Option Int) : Num :=
  let scaled (x : Num) : Num := match scale with
    | some k => scaleNum x k
    | none => .nan false
  match fmt with
  | 0 => flushed bf16 code
  | 1 => scaled (flushed e4m3 code)
  | 2 => scaled (flushed e5m2 code)
  | _ => scaled (npValue ps (npRead fmt) (toS (npRead fmt) code))

/-- Code of storage element e of a plane that starts at a W offset (R222); of an NP weight, the planes read. -/
def weightCode (sh : Shape) (w : Memory) (off e : Nat) : Nat :=
  match sh.fmt with
  | 0 => w.readN (off + 2 * e) 2
  | 1 | 2 => w.readN (off + e) 1
  | _ =>
    let base := off + 16 * sh.ps * (e / 128) + e % 128 / 8
    (List.range (npRead sh.fmt)).foldl (fun v g => 2 * v + b2n (bit (w.read (base + 16 * g)).toNat (e % 8))) 0

/-- Storage element e of a plane at a logical place (R222), with the scale that VT and the scale file give it now (R54). -/
def weightAt (sh : Shape) (c : Ctx) (w : Memory) (off e kk slice : Nat) : Weight :=
  let code := weightCode sh w off e
  let scale := if sh.fmt = 0 then some 0 else c.scaleExp e
  { kk := kk, n := e % sh.ng, e := e, slice := slice, code := code, scale := scale, val := codeValue sh.fmt sh.ps code scale }

/-- The weights of a plane, in storage order (R222, R227). -/
def planeWeights (sh : Shape) (c : Ctx) (w : Memory) (off : Nat) : List Weight :=
  if sh.spn = 0 then
    (List.range (sh.kg * sh.ng)).map (fun e => weightAt sh c w off e (e / sh.ng) (e / sh.ng / 64))
  else
    let nk := keptOf sh.spn
    let total := sh.kg / 16 * nk * sh.ng
    let idx := off + 16 * cdiv (total * weightBytes sh.fmt) 16
    (List.range total).map (fun e =>
      let g := e / sh.ng / nk
      let nib := (w.read (idx + e / 2)).toNat / 16 ^ (e % 2) % 16
      weightAt sh c w off e (16 * g + nib) (g / (if sh.spn = 1 then 8 else 16)))

/-- The word loads a plane. -/
def isMlds : Instr → Bool
  | .mlds _ _ => true
  | _ => false

/-- The plane that the matrix word at place n of hart h's queue loads or uses: of the loads issued since acquisition, those of younger
words apart (R221). -/
def State.planeOf (s : State) (h n : Nat) : Nat :=
  ((s.anvil (coreOf h)).loads - 1 -
    (((s.hart h).queue.drop (n + 1)).filter (fun e => !e.done && (e.instr.map isMlds).getD false)).length) % 2

/-- A stationary plane by its number. -/
def Anvil.plane (a : Anvil) (n : Nat) : Option Plane := if n = 0 then a.plane0 else a.plane1

/-- Change a stationary plane. -/
def Anvil.setPlane (a : Anvil) (n : Nat) (p : Option Plane) : Anvil :=
  if n = 0 then { a with plane0 := p } else { a with plane1 := p }

/-- The shape that a plane's record keeps (R221). -/
def Plane.shape (p : Plane) : Shape := { Shape.zero with sx := p.sx, ps := p.ps, spn := p.spn, fmt := p.fmt, ng := p.ng, kg := p.kg }

/-- mlds at issue waits until no older word still loads or uses the plane whose record it is about to fix (R221, R235). -/
def needPlaneFree (h : Nat) : M Unit := do
  let s ← get
  let next := (s.anvil (coreOf h)).loads % 2
  if (s.hart h).queue.zipIdx.any (fun x =>
    (x.1.mmul || (!x.1.done && (x.1.instr.map isMlds).getD false)) && s.planeOf h x.2 == next) then waitM .anvil

/-- R221. mlds at issue: the next plane becomes active and its record is fixed; its weights are read once the gate has released it. -/
def mldsAct (h : Nat) (e : QEntry) : M Unit := do
  needPlaneFree h
  modify (fun s => s.updAnvil (coreOf h) (fun a =>
    let sh := a.shape
    let p : Plane :=
      { fmt := sh.fmt, spn := sh.spn, ps := sh.ps, sx := sh.sx, kg := sh.kg, ng := sh.ng, j0 := bits e.opA.toNat 63 24, weights := [] }
    { a.setPlane (a.loads % 2) (some p) with active := a.loads % 2, loads := a.loads + 1 }))

/-- R222. Load the next stationary plane from the W allocation. -/
def execMlds (k : Bool) (a : BitVec 7) (s : State) : Out1 :=
  issueWith (.mlds k a) (wordR 0x38 2 k 0 a.toNat 0) false (mldsAct s.turn) s

/-- R222. The mlds at place n of hart h's queue reads its plane. -/
def State.loadPlane (s : State) (h n : Nat) (e : QEntry) : State :=
  let c := coreOf h
  let k := s.planeOf h n
  s.updAnvil c (fun a => a.setPlane k ((a.plane k).map (fun p =>
    { p with weights := planeWeights p.shape (s.ctx h) (s.buf c (s.hartLno h) .w).data (bits e.opA.toNat 23 0) })))

/-- R232. An mzero of hart h clears its value tile and the B tangent tiles. -/
def State.zeroTiles (s : State) (h d : Nat) : State :=
  let b := (s.ctx h).b
  s.updAnvil (coreOf h) (fun a => { a with tiles := a.tiles.filter (fun t =>
    decide (t.1 / 4096 < d) || decide (d + b < t.1 / 4096)) })

/-- R232. Clear a tile group. -/
def execMzero (k : Bool) (d : BitVec 4) (s : State) : Out1 :=
  issue (.mzero k d) (wordR 0x38 4 k d.toNat 0 0) s

/-- R216. The releasing mshape of hart h's task completes. -/
def State.releaseShaped (s : State) (h : Nat) : State :=
  { s with cores := s.cores.map (fun e =>
    if e.2.anvil.releasing.isSome && e.2.anvil.releasing == (s.hart h).task then
      (e.1, { e.2 with anvil := { e.2.anvil with relDone := true } })
    else e) }

/-- R233. mstat's value. -/
def State.mstat (s : State) (h : Nat) : Nat :=
  let k := s.core (coreOf h)
  let a := k.anvil
  let mine := s.ownsAnvil h
  let owner := ((a.owner.bind s.taskOf).map (fun t => t.hart % 4)).getD 0
  b2n mine * 2 ^ 63 + b2n a.owner.isSome * 2 ^ 62 + owner * 2 ^ 60 + k.avail * 2 ^ 56 + k.outLayers * 2 ^ 52 +
  k.overLayers * 2 ^ 48 + (b2n a.plane0.isSome + 2 * b2n a.plane1.isSome) * 2 ^ 44 + a.active * 2 ^ 43 + a.shape.org * 2 ^ 28 +
  (if mine then a.shape.grant else 0)

/-- mstat at issue. -/
def mstatAct (h : Nat) (d : BitVec 7) (_ : QEntry) : M Unit := do
  needMatrixDone h
  modify (fun s => s.setX h d (word (s.mstat h)))

/-- R233. x[d] := the state of the core's Anvil. -/
def execMstat (k : Bool) (d : BitVec 7) (s : State) : Out1 :=
  issueWith (.mstat k d) (wordR 0x38 6 k d.toNat 0 0) true (mstatAct s.turn d) s

/-- What a multiplying matrix word's fields say. -/
structure Mmul where
  d : Nat
  a : Nat
  src : Bool
  sparse : Bool
  deriving DecidableEq, Repr

/-- The fields of a multiplying matrix word. -/
def mmulOf : Instr → Option Mmul
  | .mmulBf16 _ d a _ r | .mmulE4m3 _ d a _ r | .mmulE5m2 _ d a _ r | .mmulNp4 _ d a _ r | .mmulNp2 _ d a _ r =>
    some { d := d.toNat, a := a.toNat, src := r, sparse := false }
  | .mmulSpBf16 _ d a _ r | .mmulSpE4m3 _ d a _ r | .mmulSpE5m2 _ d a _ r | .mmulSpNp4 _ d a _ r | .mmulSpNp2 _ d a _ r =>
    some { d := d.toNat, a := a.toNat, src := r, sparse := true }
  | _ => none

/-- Activation x[m][kk] (R225, R226): BF16 and FP8 with subnormals flushed, I8 as an integer; `acts` is what the word has read of the A
allocation. -/
def State.activation (s : State) (h : Nat) (w : Mmul) (opA : Word) (acts : Memory) (p : Plane) (m kk : Nat) : Num :=
  let c := s.ctx h
  let core := coreOf h
  let aw := actBytes p.fmt
  let code :=
    if w.src then acts.readN (bits opA.toNat 23 0 + m * (32 * cdiv (p.kg * aw) 32) + kk * aw) aw
    else let e := m * p.kg + kk; s.elemAt core c (vwOf c.ew) (w.a + e / c.vlmax) (e % c.vlmax)
  if 3 ≤ p.fmt then numOfInt (toS 8 code) else flushed (fmtOf (actFormat p.fmt)) code

/-- An activation tangent in the activation format (R226): RNE, subnormals flushed, no event. -/
def tangentActivation (f : Fmt) (t : Num) : Num :=
  match t with
  | .fin neg _ _ =>
    let r := (roundNum f true .rne 0 t).1
    if (f.decode r).isInf then f.decode (f.maxFinite neg) else flushed f r
  | _ => f.decode (roundNum f true .rne 0 t).1

/-- Activation tangent k of x[m][kk] as the array sees it (R226): zero for I8 and for the A buffer. -/
def State.actTangent (s : State) (h : Nat) (w : Mmul) (p : Plane) (m kk k : Nat) : Num :=
  let c := s.ctx h
  if w.src || 3 ≤ p.fmt then .fin false 0 1
  else
    let e := m * p.kg + kk
    tangentActivation (fmtOf (actFormat p.fmt)) (c.tfmt.decode (s.tanAt (coreOf h) c (vwOf c.ew) (w.a + e / c.vlmax) (e % c.vlmax) k))

/-- Sum of two finite values whose denominators are powers of two. -/
def addDyadic (a b : Int × Nat) : Int × Nat :=
  if a.2 ≤ b.2 then (a.1 * (b.2 / a.2 : Nat) + b.1, b.2) else (a.1 + b.1 * (a.2 / b.2 : Nat), a.2)

/-- The exact sum of a layer's products (R64, R226): -0 only when every product is -0. -/
def exactSum (ps : List Num) : Num :=
  if ps.any Num.isNaN then .nan false
  else
    let infs := ps.filter Num.isInf
    match infs with
    | x :: _ => if infs.all (fun y => y.neg == x.neg) then x else .nan false
    | [] =>
      let t := ps.foldl (fun acc p => match p with
        | .fin neg n d => addDyadic acc (if neg then -(n : Int) else (n : Int), d)
        | _ => acc) ((0 : Int), 1)
      if t.1 = 0 then .fin (!ps.isEmpty && ps.all (fun p => p.neg && p.isZero)) 0 1
      else .fin (decide (t.1 < 0)) t.1.natAbs t.2

/-- Round into FP32 with RNE as the Anvil does: no event. -/
def anvilRound (x : Num) : Nat := (roundNum fp32 false .rne 0 x).1

/-- One pass into one accumulator element (R64): the hosts' sums in order, then the accumulator. -/
def passInto (acc : Nat) (sums : List Num) : Nat :=
  match sums with
  | [] => acc
  | s0 :: rest =>
    let t := rest.foldl (fun t x => anvilRound (addNum .rne (fp32.decode t) (fp32.decode (anvilRound x))).1) (anvilRound s0)
    anvilRound (addNum .rne (fp32.decode acc) (fp32.decode t)).1

/-- An activation-tangent word (R227). -/
def isActTangent (w : Mmul) (fmt : Nat) : Bool := !w.src && decide (fmt ≤ 2)

/-- Number of base passes (R227). -/
def basePasses (c : Ctx) (w : Mmul) (fmt : Nat) : Nat :=
  if c.b = 0 || c.tm then 1 else if isActTangent w fmt then 1 + c.b else max 1 (cdiv c.b 2)

/-- Slices that hold a logical row below Kg (R227), from 0. -/
def usedSlices (p : Plane) : List Nat :=
  let rows := if p.spn = 0 then 64 else if p.spn = 1 then 128 else 256
  (List.range 4).filter (fun j => decide (j * rows < p.kg))

/-- Hosts of round r as (slice, layer) in ascending host order (R227). -/
def hostsOf (used avail : List Nat) (r : Nat) : List (Nat × Nat) :=
  if r = 0 then (used.filter avail.contains).map (fun j => (j, j))
  else
    let miss := used.filter (fun j => !avail.contains j)
    ((miss.drop ((r - 1) * avail.length)).take avail.length).zip avail

/-- Layers of a mask. -/
def layersOf (mask : Nat) : List Nat := (List.range 4).filter (bit mask)

/-- hp of R227. -/
def hostRounds (used avail : List Nat) : Nat := cdiv (used.filter (fun j => !avail.contains j)).length avail.length

/-- Every layer-pass of a word: base pass and hosts, in order (R227). -/
def passPlan (c : Ctx) (w : Mmul) (p : Plane) (availMask : Nat) : List (Nat × List (Nat × Nat)) :=
  let used := usedSlices p
  let avail := layersOf availMask
  (List.range (basePasses c w p.fmt)).flatMap (fun b =>
    ((List.range (hostRounds used avail + 1)).map (fun r => (b, hostsOf used avail r))).filter (fun x => !x.2.isEmpty))

/-- A job of a base pass (R227). -/
inductive PassJob
  | value
  | signAdd (k : Nat)
  | actTan (k : Nat)
  deriving DecidableEq, Repr

/-- Jobs of base pass b (R227). -/
def jobsOf (c : Ctx) (w : Mmul) (fmt b : Nat) : List PassJob :=
  (if b = 0 then [.value] else []) ++
  (if c.tm then [] else
    (([2 * b, 2 * b + 1].filter (fun k => decide (k < c.b))).map PassJob.signAdd) ++
    (if isActTangent w fmt && decide (1 ≤ b) then [.actTan (b - 1)] else []))

/-- Tile of a job for output column n (R218, R227). -/
def PassJob.tile (j : PassJob) (c : Ctx) (w : Mmul) (n : Nat) : Nat :=
  let base := w.d + n / 64 * c.tileStep
  match j with
  | .value => base
  | .signAdd k | .actTan k => base + 1 + k

/-- A product of a job (R226, R227). -/
def State.product (s : State) (h : Nat) (w : Mmul) (opA : Word) (acts : Memory) (p : Plane) (j : PassJob) (m : Nat) (e : Weight) : Num :=
  let c := s.ctx h
  match j with
  | .value => (mulNum e.val (s.activation h w opA acts p m e.kk)).1
  | .signAdd k =>
    (mulNum (scaleNum (.fin (radNeg c.key c.strm k ((p.j0 + e.e) % 2 ^ 40)) 1 1) ((p.sx : Int) - 127)) (s.activation h w opA acts p m e.kk)).1
  | .actTan k => (mulNum e.val (s.actTangent h w p m e.kk k)).1

/-- One layer-pass: every job, row and column of the granted shape (R227). -/
def State.runPass (s : State) (h : Nat) (w : Mmul) (opA : Word) (acts : Memory) (p : Plane) (mg : Nat) (pass : Nat × List (Nat × Nat)) : State :=
  let c := s.ctx h
  let cols : List (Nat × List (List Weight)) := (List.range p.ng).map (fun n =>
    (n, pass.2.map (fun hst => p.weights.filter (fun e => e.n == n && e.slice == hst.1))))
  let cell (j : PassJob) (m : Nat) (t : Tbl Nat) (col : Nat × List (List Weight)) : Tbl Nat :=
    let key := j.tile c w col.1 * 4096 + m * 64 + col.1 % 64
    Tbl.set t key (passInto (Tbl.get 0 t key) (col.2.map (fun ws => exactSum (ws.map (s.product h w opA acts p j m)))))
  let all (t : Tbl Nat) : Tbl Nat :=
    List.foldl (fun t j => List.foldl (fun t m => List.foldl (cell j m) t cols) t (List.range mg)) t (jobsOf c w p.fmt pass.1)
  s.updAnvil (coreOf h) (fun a => { a with tiles := all a.tiles })

/-- Under VT.TM = 1 every tangent element in the granted shape is set to +0 (R227). -/
def State.clearTangents (s : State) (h : Nat) (w : Mmul) (p : Plane) (mg : Nat) : State :=
  let c := s.ctx h
  if !c.tm then s
  else s.updAnvil (coreOf h) (fun a => { a with tiles := a.tiles.filter (fun t =>
    let tile := t.1 / 4096
    let g := (tile - w.d) / c.tileStep
    let k := (tile - w.d) % c.tileStep
    !(decide (w.d ≤ tile) && decide (1 ≤ k) && decide (k ≤ c.b) && decide (g * 64 + t.1 % 64 < p.ng) && decide (t.1 / 64 % 64 < mg))) })

/-- Cycles of a layer-pass (R236). -/
def passCycles (w : Mmul) (p : Plane) (mg : Nat) : Nat := mg * (if w.src then cdiv (p.kg * actBytes p.fmt) 512 else 1) + 8

/-- The multiplying word in progress on core c, the oldest of its hart to complete: its hart, job, entry, fields and plane. -/
def State.matrixWord (s : State) (c : Nat) : Option (Nat × MatrixJob × QEntry × Mmul × Plane) :=
  match (s.core c).job with
  | none => none
  | some j =>
    match (s.hart j.hart).queue.find? QEntry.mmul, (s.anvil c).plane (s.planeOf j.hart ((s.hart j.hart).queue.findIdx QEntry.mmul)) with
    | some e, some p => (e.instr.bind mmulOf).map (fun w => (j.hart, j, e, w, p))
    | _, _ => none

/-- Layers running the pass that core c's grant covers. -/
def State.runningHosts (s : State) (c : Nat) : Nat :=
  match s.matrixWord c with
  | some (h, j, _, w, p) => if j.granted then (((passPlan (s.ctx h) w p j.avail)[j.passes]?).map (fun x => x.2.length)).getD 0 else 0
  | none => 0

/-- Layers that the next pass of core c may use: those fixed at its word's start, before it those available now (R227, R229). -/
def State.nextAvail (s : State) (c : Nat) : Nat :=
  match (s.core c).job with
  | some j => if j.passes = 0 then (s.core c).avail else j.avail
  | none => (s.core c).avail

/-- Layers that core c's next pass will run on, as 4·core + layer. -/
def State.pendingLayers (s : State) (c : Nat) : List Nat :=
  match s.matrixWord c with
  | some (h, j, _, w, p) =>
    (((passPlan (s.ctx h) w p (s.nextAvail c))[j.passes]?).map (fun x => x.2.map (fun y => 4 * c + y.2))).getD []
  | none => []

/-- Layers that core c's next pass will use; before a word has started, those available now (R229). -/
def State.pendingHosts (s : State) (c : Nat) : Nat := (s.pendingLayers c).length

/-- Grant the pending start of core c; a word that starts fixes its layers (R227, R229), and they end no pass any longer (R269). -/
def State.grantPass (s : State) (c : Nat) : State :=
  let start (k : Core) (j : MatrixJob) : MatrixJob :=
    if j.passes = 0 then { j with granted := true, pending := false, avail := k.avail, out := k.outLayers, hot := k.hotLayers }
    else { j with granted := true, pending := false }
  let layers := s.pendingLayers c
  (s.updCluster (clusterOf c) (fun k => { k with passEnds := k.passEnds.filter (fun x => !layers.contains x.2) })).updCore c
    (fun k => { k with job := k.job.map (start k) })

/-- AST after a multiplying word (R33, R230). -/
def astOf (j : MatrixJob) (hp : Nat) (tang sparse : Bool) : Nat :=
  j.seq * 2 ^ 48 + j.used * 2 ^ 44 + j.out * 2 ^ 40 + j.hot * 2 ^ 36 + j.passes % 256 * 2 ^ 28 + hp % 16 * 2 ^ 24 +
  2 * b2n tang + b2n sparse

/-- A multiplying word completes: AST, its entry, and the next such word of the queue (R230, R37). -/
def State.endMatrix (s : State) (c h : Nat) (j : MatrixJob) (w : Mmul) (p : Plane) : State :=
  let cx := s.ctx h
  let used := usedSlices p
  let ast := astOf j (hostRounds used (layersOf j.avail)) (decide (0 < cx.b) && !cx.tm && j.passes != 0) w.sparse
  let s := s.updHart h (fun t =>
    let q := updFirst QEntry.mmul (fun e => { e with done := true }) t.queue
    let t : Hart := { t with ctx := { t.ctx with ast := word ast }, queue := q }
    if t.released then t else t.settle)
  s.updCore c (fun k => { k with
    job := ((s.hart h).queue.find? QEntry.mmul).map (fun e => newJob h e.seq) })

/-- Insert a start request: oldest first, the lower core number first among equals (R269). -/
def insertStart (x : Nat × Nat) : List (Nat × Nat) → List (Nat × Nat)
  | [] => [x]
  | y :: l => if x.1 < y.1 || (x.1 == y.1 && decide (x.2 < y.2)) then x :: y :: l else y :: insertStart x l

/-- Insert a layer whose pass has ended: the pass that ended last first, the lower core number first among equals (R269). -/
def insertFiller (x : Nat × Nat) : List (Nat × Nat) → List (Nat × Nat)
  | [] => [x]
  | y :: l => if y.1 < x.1 || (x.1 == y.1 && decide (x.2 ≤ y.2)) then x :: y :: l else y :: insertFiller x l

/-- With the limiter off core c's start is granted at once, where a layer is available (R229, R270). -/
def State.grantNow (s : State) (c : Nat) : State :=
  let k := s.cluster (clusterOf c)
  if bit k.slcfg 8 || s.nextAvail c == 0 || !k.pending.any (·.2 == c) then s
  else (s.updCluster (clusterOf c) (fun k => { k with pending := k.pending.filter (·.2 != c) })).grantPass c

/-- Core c asks for the start of its next pass (R269, R270). -/
def State.requestPass (s : State) (c : Nat) : State :=
  (s.updCluster (clusterOf c) (fun k => { k with pending := insertStart (k.cyc, c) k.pending })).grantNow c

/-- The layers of core c whose pass ends run filler, unless the limiter is off (R269, R270). -/
def State.endPass (s : State) (c : Nat) (layers : List Nat) : State :=
  s.updCluster (clusterOf c) (fun k =>
    let ends := layers.foldl (fun l n => insertFiller (k.cyc, 4 * c + n) l) k.passEnds
    if bit k.slcfg 8 then
      { k with passEnds := ends, filler := layers.foldl (fun l n => insertFiller (k.cyc, 4 * c + n) l) k.filler }
    else { k with passEnds := ends })

/-- R227. The layer-pass that core c's grant covers runs and adds into the tiles.  A word with SRC = 1 reads the A allocation at its
first pass, each granule once (R225; log 110). -/
def execLayerPass (c : Nat) (s : State) : Out1 :=
  match s.matrixWord c with
  | none => .next s
  | some (h, j, e, w, p) =>
    if !j.granted then .next s
    else
      let plan := passPlan (s.ctx h) w p j.avail
      let mg := (s.anvil c).shape.mg
      let s := if j.passes = 0 then s.clearTangents h w p mg else s
      match plan[j.passes]? with
      | none => .next (s.endMatrix c h j w p)
      | some pass =>
        let acts := j.acts.getD (s.buf c (s.hartLno h) .a).data
        let s := s.runPass h w e.opA acts p mg pass
        let s := if w.src && j.passes == 0 then s.countConflicts c else s
        let j' := { j with
          passes := j.passes + 1, used := pass.2.foldl (fun m x => m ||| 2 ^ x.2) j.used, acts := if w.src then some acts else none }
        let s := (s.count c 6 1).count c 7 (passCycles w p mg)
        match plan[j.passes + 1]? with
        | none => .next ((s.endPass c (pass.2.map (·.2))).endMatrix c h j' w p)
        | some nxt =>
          if nxt.2 == pass.2 then .next (s.updCore c (fun k => { k with job := some j' }))
          else
            .next (((s.endPass c (pass.2.map (·.2))).updCore c (fun k =>
              { k with job := some { j' with granted := false, pending := true } })).requestPass c)

/-- DOWN of SLCFG: 0 acts as 1 (R270). -/
def slewDown (n : Nat) : Nat := max 1 (bits n 7 0)

/-- RT of a level band (R270): values below 4 act as 4. -/
def slewRate (rt lvl : Nat) : Nat := let k := min 7 (lvl / 4); max 4 (bits rt (8 * k + 7) (8 * k))

/-- Pending starts granted in one step (R269): oldest first, lower core number first among equals, until one does not fit. -/
def State.grantPending (s : State) (cl : Nat) : Nat → Nat → List (Nat × Nat) → State
  | _, _, [] => s
  | 0, _, _ => s
  | n + 1, a, (_, c) :: rest =>
    let hosts := s.pendingHosts c
    if (s.matrixWord c).isNone then
      State.grantPending (s.updCluster cl (fun k => { k with pending := k.pending.filter (·.2 != c) })) cl n a rest
    else if hosts = 0 && s.nextAvail c = 0 then s.grantPending cl n a rest       -- R229: no layer is available
    else
      let need := hosts - ((s.cluster cl).filler.filter (·.2 / 4 == c)).length
      if a < need then s
      else
        let s := s.updCluster cl (fun k =>
          { k with pending := k.pending.filter (·.2 != c), filler := k.filler.filter (·.2 / 4 != c), lvl := k.lvl + need })
        (s.grantPass c).grantPending cl n (a - need) rest

/-- R269. One step boundary of a cluster's slew limiter. -/
def execSlewStep (cl : Nat) (s : State) : Out1 :=
  let k := s.cluster cl
  let real := ((List.range 8).map (fun c => s.runningHosts (8 * cl + c))).foldl (· + ·) 0
  let lvl := max real (k.lvl - slewDown k.slcfg)
  let s := s.updCluster cl (fun k => { k with lvl := lvl, filler := if bit k.slcfg 8 then k.passEnds.take (lvl - real) else [] })
  .next (s.grantPending cl 9 (slewRate k.slrt lvl) (s.cluster cl).pending)

/-- R216, R365. A release completes once the releasing mshape and every older matrix word of the former owner have: the Anvil is free, and every task that waits
for it becomes ready. -/
def execAnvilFree (c : Nat) (s : State) : Out1 :=
  let a := s.anvil c
  if a.releasing.isNone || !a.relDone || (s.core c).job.isSome then .next s
  else
    let t := a.releasing
    let s := s.updAnvil c (fun _ => Anvil.free)
    let s := match t with
      | some tid => s.updTask tid (fun t => { t with anvilCore := none })
      | none => s
    .next { s with tasks := s.tasks.map (fun e =>
      if e.2.st == .anvilwait && coreOf e.2.hart == c then (e.1, e.2.toReady s.time) else e) }

/-- Anvil layer limit and readmission limit in quarter degrees (R229, R402). -/
def anvilLimits (thcfg : Nat) : Nat × Nat := (4 * bits thcfg 39 32, 4 * (bits thcfg 39 32 - bits thcfg 31 24))

/-- A layer reads t quarter degrees (R229, R233): at its limit it is skipped, below the limit less the hysteresis it is readmitted. -/
def State.layerReport (s : State) (c layer t : Nat) : State :=
  let l := anvilLimits s.thcfg
  let m := 2 ^ (layer % 4)
  State.grantNow (s.updCore c (fun k =>
    if l.1 ≤ t then { k with hotLayers := k.hotLayers ||| m, overLayers := k.overLayers ||| m }
    else { k with
      overLayers := k.overLayers &&& (15 ^^^ m), hotLayers := if t < l.2 then k.hotLayers &&& (15 ^^^ m) else k.hotLayers })) c

/-- R229. A layer reports its temperature to its core. -/
def execLayerTempReport (c layer t : Nat) (s : State) : Out1 := .next (s.layerReport c layer t)

/-- Anvil areas of a frame (R372): the tiles c0 to c15, row-major, four bytes an element; w0, then w1; plane records, shape, ORG and
active plane.  MODEL (log 48): how the bytes of the last two are laid out. -/
def anvilArea : Nat := 0x10000
def planeArea : Nat := 0x50000
def planeBytes : Nat := 0x8000
def recordArea : Nat := 0x60000

/-- Stored bits of a weight of a format (R215, R222). -/
def weightBits (fmt : Nat) : Nat :=
  match fmt with
  | 0 => 16 | 1 => 8 | 2 => 8 | _ => npRead fmt

/-- A plane as its 32 KiB hold it (R215): the codes in storage order. -/
def Plane.stored (p : Plane) : Nat := p.weights.foldr (fun w n => w.code + 2 ^ weightBits p.fmt * n) 0

/-- A plane whose codes are what 32 KiB of a frame hold; indices and scales stay as they were (log 48). -/
def Plane.restore (p : Plane) (n : Nat) : Plane :=
  let wb := weightBits p.fmt
  { p with weights := p.weights.map (fun w =>
      let code := n / 2 ^ (wb * w.e) % 2 ^ wb
      { w with code := code, val := codeValue p.fmt p.ps code w.scale }) }

/-- A plane's record in 16 bytes: [127] loaded, then J0, Ng, Kg, SX, PS, SPN and FMT. -/
def Plane.recordBits : Option Plane → Nat
  | none => 0
  | some p =>
    2 ^ 127 + p.j0 % 2 ^ 40 * 2 ^ 64 + p.ng * 2 ^ 48 + p.kg * 2 ^ 32 + p.sx * 2 ^ 16 + p.ps * 2 ^ 8 + p.spn * 2 ^ 4 + p.fmt

/-- A plane with the record that 16 bytes of a frame hold. -/
def Plane.withRecord (p : Plane) (n : Nat) : Plane :=
  { p with fmt := bits n 3 0, spn := bits n 7 4, ps := bits n 15 8, sx := bits n 31 16, kg := bits n 47 32, ng := bits n 63 48,
           j0 := bits n 103 64 }

/-- The shape in 8 bytes, as a request lays it out (R219). -/
def Shape.bits (sh : Shape) : Nat :=
  sh.sx * 2 ^ 55 + sh.ps * 2 ^ 49 + sh.spn * 2 ^ 47 + sh.fmt * 2 ^ 44 + sh.org * 2 ^ 29 + sh.grant

/-- The shape that 8 bytes of a frame hold. -/
def Shape.ofBits (n : Nat) : Shape :=
  { sx := Machine.bits n 62 55, ps := Machine.bits n 52 49, spn := Machine.bits n 48 47, fmt := Machine.bits n 46 44,
    org := Machine.bits n 43 29, mg := Machine.bits n 27 21, ng := Machine.bits n 20 11, kg := Machine.bits n 10 0 }

/-- Anvil state as (offset, bytes, value) of a frame (R217, R372). -/
def Anvil.frameFields (a : Anvil) : List (Nat × Nat × Nat) :=
  (List.range 65536).map (fun k => (anvilArea + 4 * k, 4, Tbl.get 0 a.tiles k)) ++
  [(planeArea, planeBytes, (a.plane0.map Plane.stored).getD 0), (planeArea + planeBytes, planeBytes, (a.plane1.map Plane.stored).getD 0),
   (recordArea, 16, Plane.recordBits a.plane0), (recordArea + 16, 16, Plane.recordBits a.plane1),
   (recordArea + 32, 8, a.shape.bits), (recordArea + 40, 8, a.loads * 2 + a.active)]

/-- The Anvil state that a frame holds (R217, R372); `a` is what the frame has no bytes for (log 48). -/
def State.frameAnvil (s : State) (f : Nat) (a : Anvil) : Anvil :=
  let r (off n : Nat) : Nat := s.mem.readN (f + off) n
  let plane (k : Nat) (p : Option Plane) : Option Plane :=
    let record := r (recordArea + 16 * k) 16
    if bit record 127 then p.map (fun p => (p.withRecord record).restore (r (planeArea + planeBytes * k) planeBytes)) else none
  let w := r (recordArea + 40) 8
  { a with
    tiles := tblOf 65536 (fun k => r (anvilArea + 4 * k) 4), plane0 := plane 0 a.plane0, plane1 := plane 1 a.plane1,
    active := w % 2, loads := w / 2, shape := Shape.ofBits (r (recordArea + 32) 8) }

/-- FP32 code of row m, column n of the value tile group at d, or of its tangent tile k (R218). -/
def Anvil.tileAt (a : Anvil) (c : Ctx) (d m n : Nat) (k : Option Nat) : Nat :=
  Tbl.get 0 a.tiles ((d + n / 64 * c.tileStep + (match k with | none => 0 | some k => k + 1)) * 4096 + m * 64 + n % 64)

/-- Address form of a drain (R231). -/
inductive Drain
  | unit
  | strided
  | indexed (b : BitVec 7)
  deriving DecidableEq, Repr

/-- Address of element j of a drain (R231). -/
def Lane.drainAddr (L : Lane) (s : State) (ng : Nat) (f : Drain) (j : Nat) : Nat :=
  match f with
  | .unit => (L.e.opA + word (j * L.c.rs)).toNat
  | .strided => (L.e.opA + word (j / ng) * L.e.opB + word (j % ng * L.c.rs)).toNat
  | .indexed b => (L.e.opA + word (L.valOf s b j)).toNat

/-- R231. One element of a drain.  DESIGN CHOICE (log 129): the tangents are those R231 gives, where the value is NaN too. -/
def Lane.drain (L : Lane) (f : Drain) (d : Nat) (a : BitVec 7) (m : Bool) : M Unit := do
  if L.active m then
    let s ← get
    let c := L.c
    let av := s.anvil L.core
    let ng := av.shape.ng
    let t := av.shape.org + L.i
    let cell (k : Option Nat) : Num := fp32.decode (av.tileAt c d (t / ng) (t % ng) k)
    let x := cell none
    let v : Nat × Ev :=
      if isFloat c.ew then c.roundEv L.fmt L.i (x, snanEv [x])
      else toInteger (intWidth c.ew) (isSigned c.ew) c.sat c.rm (if c.rm = .sr then srBits c.key c.strm c.srq L.i else 0) x
    let tan (k : Nat) : Nat × Ev := c.roundEv c.tfmt ((k + 1) * 4096 + L.i) (cell (some k), snanEv [cell (some k)])
    let wide := c.rs != L.vw
    let rec' := v.1 + (if wide then (List.range c.b).foldl (fun r k => r + (tan k).1 * 2 ^ (8 * (L.vw + k * c.tw))) 0 else 0)
    let ea := L.drainAddr s ng f L.i
    let ps ← L.writeVa ea c.rs rec'
    L.raise v.2 (if wide then (List.range c.b).foldl (fun e k => e ||| (tan k).2) 0 else 0)
    match f with
    | .indexed _ => pure ()
    | _ => L.rewriteOpa a c.vl m (fun j => [(L.drainAddr s ng f j, c.rs)]) ea ps

/-- One element of a word of major 0x3B. -/
def Lane.drainWord (L : Lane) (i : Instr) : M Unit :=
  match i with
  | .mdrain _ d a m => L.drain .unit d.toNat a m
  | .mdrainS _ d a _ m => L.drain .strided d.toNat a m
  | .mdrainX _ d a b m => L.drain (.indexed b) d.toNat a m
  | _ => pure ()

end Sys2Proof.Machine
end

