-- ==== Sys2Proof/Machine/CopyPlan.lean ====
section
/-! DEFINITION. What a copy program describes: its runs, the addresses of each, its intervals, and the checks of a run (R187, R238,
R240, R241, R244, R246). -/

namespace Sys2Proof.Machine

open Sys2Proof

/-- COUNT, DSTR and SSTR of level l of a copy program (R238). -/
def Ctx.copyLevel (c : Ctx) (l : Nat) : Nat × Int × Int :=
  let r := c.copyReg l
  (bits r 86 64, toS 32 (bits r 63 32), toS 32 (bits r 31 0))

/-- FROM (6) or TO (7) of a copy program, as core `own` sees it (R238). -/
def Ctx.copyEnd (c : Ctx) (own n : Nat) : CopyEnd :=
  let r := c.copyReg n
  { rem := bit r 70, core := if bit r 70 then own / 8 * 8 + bits r 69 67 else own, space := bits r 66 64, base := bits r 63 0 }

/-- Runs of a nest (R240). -/
def runsOf (counts : List Nat) : Nat := counts.foldl (· * ·) 1

/-- The indices i0 … i5 of run n: L0 varies fastest (R240). -/
def nestIndex : List Nat → Nat → List Nat
  | [], _ => []
  | c :: cs, n => n % c :: nestIndex cs (n / c)

/-- Σ i_l · stride_l. -/
def dot (is : List Nat) (ss : List Int) : Int := ((is.zip ss).map (fun p => (p.1 : Int) * p.2)).foldl (· + ·) 0

/-- Source offset of run n (R240). -/
def CopyJob.srcOff (j : CopyJob) (n : Nat) : Int := j.src.base + dot (nestIndex j.counts n) j.sstr

/-- The destination parts of run n as (offset, bytes of the run before it, length) (R240). -/
def CopyJob.dstParts (j : CopyJob) (n : Nat) : List (Int × Nat × Nat) :=
  let is := nestIndex j.counts n
  let d := (j.dst.base : Int) + dot is j.dstr
  if j.xp = 0 then [(d, 0, j.run)]
  else
    let i0 := (is.headD 0 : Int)
    let s0 := j.dstr.headD 0
    (List.range (j.run / j.xp)).map (fun (c : Nat) => (d - i0 * s0 + c * s0 + i0 * j.xp, c * j.xp, j.xp))

/-- Least and greatest sum of i_l · stride_l over the nest. -/
def nestSpan (counts : List Nat) (ss : List Int) : Int × Int :=
  (counts.zip ss).foldl (fun a p =>
    let z := ((p.1 : Int) - 1) * p.2
    (a.1 + min 0 z, a.2 + max 0 z)) (0, 0)

/-- The source interval, none when no run moves (R241). -/
def CopyJob.srcSpan (j : CopyJob) : Option (Int × Int) :=
  if runsOf j.counts = 0 then none
  else let z := nestSpan j.counts j.sstr; some (j.src.base + z.1, j.src.base + z.2 + j.run - 1)

/-- The destination interval (R240, R241). -/
def CopyJob.dstSpan (j : CopyJob) : Option (Int × Int) :=
  if runsOf j.counts = 0 then none
  else if j.xp = 0 then let z := nestSpan j.counts j.dstr; some (j.dst.base + z.1, j.dst.base + z.2 + j.run - 1)
  else
    let counts := j.run / j.xp :: j.counts.drop 1
    let z := nestSpan counts j.dstr
    let c0 := (j.counts.headD 0 : Int)
    some (j.dst.base + z.1, j.dst.base + z.2 + (c0 - 1) * j.xp + j.xp - 1)

/-- Bytes of a space (R241). -/
def spaceSize (space nr : Nat) : Int :=
  match space with
  | 0 => 2 ^ 56
  | 4 => 4096 * nr
  | _ => 2 ^ 24

/-- An interval leaves its space (R241). -/
def spanOutside (sp : Option (Int × Int)) (size : Int) : Bool :=
  match sp with
  | some (lo, hi) => decide (lo < 0) || decide (size ≤ hi)
  | none => false

/-- Two intervals overlap. -/
def spansMeet (a b : Option (Int × Int)) : Bool :=
  match a, b with
  | some x, some y => decide (x.1 ≤ y.2) && decide (y.1 ≤ x.2)
  | _, _ => false

/-- An interval of the interlock table. -/
def ivOf (space core : Nat) (write : Bool) (sp : Option (Int × Int)) : List Interval :=
  match sp with
  | some (lo, hi) => [{ space := space, core := core, lo := lo.toNat, hi := hi.toNat, write := write }]
  | none => []

/-- The intervals of a copy; a register group counts in bytes of the core's vector file (R244). -/
def CopyJob.intervals (j : CopyJob) (own : Nat) : List Interval :=
  ivOf j.src.space (if j.src.space = 0 then 0 else j.src.core) false j.srcSpan ++
  (if j.dst.space = 4 then
    (ivOf 4 own true j.dstSpan).map (fun i => { i with lo := i.lo + 4096 * j.group, hi := i.hi + 4096 * j.group })
   else ivOf j.dst.space (if j.dst.space = 0 then 0 else j.dst.core) true j.dstSpan)

/-- Two intervals overlap and either side writes (R187). -/
def Interval.clash (a b : Interval) : Bool :=
  a.space == b.space && a.core == b.core && (a.write || b.write) && decide (a.lo ≤ b.hi) && decide (b.lo ≤ a.hi)

/-- Intervals meet an entry of the hart in the table of its core (R187, R244). -/
def State.interlocked (s : State) (h : Nat) (ivs : List Interval) : Bool :=
  (s.core (coreOf h)).interlock.any (fun e => e.hart == h && e.ivs.any (fun a => ivs.any a.clash))

/-- Keys of the landed bits of a group that an interval of bytes meets: 8·register + row (R186, R20). -/
def CopyJob.rows (j : CopyJob) : List Nat :=
  match j.dstSpan with
  | some (lo, hi) => (List.range (hi.toNat / 512 + 1 - lo.toNat / 512)).map (fun k => 8 * j.group + lo.toNat / 512 + k)
  | none => []

/-- Requester of a copy: the sequencer is served by the cluster level (R343). -/
def CopyJob.req (j : CopyJob) (c : Nat) : Req := { via := .cluster (clusterOf c), lno := j.lno, sup := j.sup, hart := none, kept := some j.hart }

/-- First address of a side as COPY's EVAL gives it (R175, R246). -/
def CopyEnd.eval (e : CopyEnd) (off : Int) : Word :=
  if e.space = 0 then wordS off
  else word (e.space * 2 ^ 56 + (if e.rem then e.core % 8 else 0) * 2 ^ 24 + (off % (2 ^ 24 : Int)).toNat)

/-- The buffer kind of a space 1 to 3. -/
def kindOf (space : Nat) : BufKind := if space = 1 then .w else if space = 2 then .a else .c

/-- Check one part of a side (R246): the pieces of a virtual range, or nothing for a buffer or a group. -/
def CopyJob.checkPart (j : CopyJob) (c : Nat) (e : CopyEnd) (a : Acc) (off : Int) (len : Nat) : M (Except AccFault (List Piece)) := do
  if e.space = 0 then
    match ← resolve (j.req c) a off.toNat len with
    | .ok ps =>
      let s ← get
      if a = .load && s.piecesPoisoned ps then return .error .uncorr
      return .ok ps
    | .error f => return .error f
  else if e.space = 4 then return .ok []
  else
    let s ← get
    let p : Place := { core := e.core, lno := j.lno, kind := kindOf e.space, off := off.toNat }
    return (if s.placeClass p len = .outside then .error .perm else .ok [])

/-- Check a list of parts in order. -/
def CopyJob.checkParts (j : CopyJob) (c : Nat) (e : CopyEnd) (a : Acc) : List (Int × Nat) → M (Except (AccFault × Int) (List (List Piece)))
  | [] => return .ok []
  | p :: ps => do
    match ← j.checkPart c e a p.1 p.2 with
    | .error f => return .error (f, p.1)
    | .ok x =>
      match ← j.checkParts c e a ps with
      | .error f => return .error f
      | .ok xs => return .ok (x :: xs)

end Sys2Proof.Machine
end

