-- ==== Sys2Proof/Machine/GatherPlan.lean ====
section
/-! DEFINITION. What a gather's parameter block says, and the check of its destination (R352 to R355). -/

namespace Sys2Proof.Machine

open Sys2Proof

/-- Fields of a gather's parameter block (R352). -/
def gaFeset (b : Nat) : Bool := bit b 347
def gaDsp (b : Nat) : Nat := bits b 346 344
def gaIw (b : Nat) : Nat := if bits b 343 342 = 0 then 4 else 8
def gaShift (b : Nat) : Nat := bits b 341 336
def gaRsz (b : Nat) : Nat := bits b 335 320
def gaCount (b : Nat) : Nat := bits b 319 288
def gaPitch (b : Nat) : Int := toS 32 (bits b 287 256)
def gaBound (b : Nat) : Nat := bits b 255 192
def gaDbase (b : Nat) : Nat := bits b 191 128
def gaIbase (b : Nat) : Nat := bits b 127 64
def gaTbase (b : Nat) : Nat := bits b 63 0

/-- Requester of a gather (R343, R352): the base die of the issuing hart's tower. -/
def Gather.req (g : Gather) : Req := { via := .base (hartTower g.hart), lno := g.lno, sup := g.sup, hart := none, kept := some g.hart }

/-- Check n bytes of the destination of a record (R355). -/
def gatherDest (r : Req) (g : Gather) (d : Int) (n : Nat) : M (Except AccFault (List Piece)) := do
  if d < 0 then return .error .perm
  if gaDsp g.block = 0 then resolve r .store d.toNat n
  else
    let s ← get
    let p : Place := { core := coreOf g.hart, lno := g.lno, kind := kindOf (gaDsp g.block), off := d.toNat }
    return (if 2 ^ 24 < d + n || s.placeClass p n = .outside then .error .perm else .ok [])

/-- Destination of record i of a gather (R353). -/
def Gather.destOf (g : Gather) (i : Nat) : Int := (gaDbase g.block : Int) + i * gaPitch g.block

end Sys2Proof.Machine
end

