-- ==== Sys2Proof/Machine/Release.lean ====
section
/-! DEFINITION. The wait of a release for the translation of older vector and engine stores (R131, R189, R288). -/

namespace Sys2Proof.Machine

open Sys2Proof

/-- Registers on which the addresses of a storing word's active elements rest. -/
def addressRegs (c : Ctx) (v : VWord) (i : Instr) : List Reg :=
  (if v.masked then [.q c.msel] else []) ++
  (match i with
   | .vstx _ _ _ b _ | .vstxU _ _ _ b _ | .mdrainX _ _ _ b _
   | .vaadd _ _ _ b _ | .vaaddO _ _ _ b _ | .vaswap _ _ _ b _ | .vaswapO _ _ _ b _ | .vamax _ _ _ b _ | .vamaxO _ _ _ b _
   | .vamin _ _ _ b _ | .vaminO _ _ _ b _ | .vamaxn _ _ _ b _ | .vamaxnO _ _ _ b _ | .vaminn _ _ _ b _ | .vaminnO _ _ _ b _
   | .vaand _ _ _ b _ | .vaandO _ _ _ b _ | .vaor _ _ _ b _ | .vaorO _ _ _ b _ => [.v b.toNat]
   | .vsst _ _ a _ | .vunbind _ _ a => [.h a.toNat]
   | _ => [])

/-- The virtual bytes can be written: translated, permitted, within the chain. -/
def storeTranslates (r : Req) (a : Acc) (ea len : Nat) : M Bool := do
  if 2 ^ 56 ≤ ea then return false
  return (← resolve r a ea len).isOk

/-- Requester of a release's checks for hart h: it uses the leaves kept for the hart and keeps what it finds (R288). -/
def Req.keepFor (r : Req) (h : Nat) : Req := { r with kept := some h, keep := some h }

/-- The store of an element has passed its checks (R171, R206). -/
def Lane.translates (L : Lane) (i : Instr) : M Bool := do
  let s ← get
  let r := (s.reqOf L.h).keepFor L.h
  let n := L.c.rs
  let ng := (s.anvil L.core).shape.ng
  let va (a : Acc) (ea len : Nat) : M Bool := storeTranslates r a ea len
  let buf (k : BufKind) (far : Bool) : M Bool := return (s.placeClass (L.place s k far 0) n != .outside)
  let atomic (b : BitVec 7) : M Bool :=
    let ea := L.atomicAddr s b L.i
    if ea % L.vw != 0 then return false else if inAperture ea then return !L.apertureBad s ea else va .atomic ea L.vw
  match i with
  | .vst .. | .vstU .. => va .store (L.address s .unit L.i) n
  | .vsts .. => va .store (L.address s .strided L.i) n
  | .vstx _ _ _ b _ | .vstxU _ _ _ b _ => va .store (L.address s (.indexed b) L.i) n
  | .mdrain .. => va .store (L.drainAddr s ng .unit L.i) n
  | .mdrainS .. => va .store (L.drainAddr s ng .strided L.i) n
  | .mdrainX _ _ _ b _ => va .store (L.drainAddr s ng (.indexed b) L.i) n
  | .vsst _ _ a _ => va .store (streamAddr (L.handle a) (hPos (L.handle a)) (L.i * n)) n
  | .vunbind _ _ a => va .store (streamAddr (L.handle a) (hBpos (L.handle a)) (L.i * n)) n
  | .vstw .. => buf .w false
  | .vsta _ _ _ r _ _ => buf .a r
  | .vstc _ _ _ r _ _ => buf .c r
  | .vaadd _ _ _ b _ | .vaaddO _ _ _ b _ | .vaswap _ _ _ b _ | .vaswapO _ _ _ b _ | .vamax _ _ _ b _ | .vamaxO _ _ _ b _
  | .vamin _ _ _ b _ | .vaminO _ _ _ b _ | .vamaxn _ _ _ b _ | .vamaxnO _ _ _ b _ | .vaminn _ _ _ b _ | .vaminnO _ _ _ b _
  | .vaand _ _ _ b _ | .vaandO _ _ _ b _ | .vaor _ _ _ b _ | .vaorO _ _ _ b _ => atomic b
  | _ => return true

/-- Registers that words before place n of the queue have still to write. -/
def State.unsettled (s : State) (h n : Nat) : List Reg :=
  (((s.hart h).queue.take n).filter (fun q => !q.done)).flatMap (fun q => ((q.desc (s.ctx h)).map (·.writes)).getD [])

/-- Every remaining element of a storing word at place n of the queue has finished translation without a fault (R131, R189): the registers that
its addresses rest on are settled and landed, its own conditions hold, and each active element passes its checks.  A cpgo has not
been translated before it is accepted; cpv stores to no memory. -/
def entryTranslates (h n : Nat) (e : QEntry) : M Bool := do
  let s ← get
  let c := s.ctx h
  match e.instr with
  | none => return true
  | some i =>
    if e.done || !storesLater i then return true
    match i, vword c i with
    | .cpgo .., _ => return false
    | .cpv .., _ => return true
    | _, none => return true
    | _, some v =>
      let regs := addressRegs c v i
      let landed (r : Reg) : Bool := match r with
        | .v n => (List.range 8).all (fun k => !Tbl.get false (s.core (coreOf h)).unlanded (8 * c.phys n + k))
        | _ => true
      if regs.any (s.unsettled h n).contains || !regs.all landed then return false
      let start := if n < (firstConvoy (s.hart h).queue).length then c.vs else 0
      let lane (j : Nat) : Lane := { h := h, core := coreOf h, i := j, c := c, e := e, pos := n }
      if (lane start).execBad i then return false
      (List.range (c.vl - start)).allM (fun k => do
        if (lane (start + k)).active v.masked then (lane (start + k)).translates i else return true)

/-- The remaining runs of a copy into memory have finished translation (R131, R189). -/
def CopyJob.translates (j : CopyJob) (c : Nat) : M Bool := do
  if j.dst.space != 0 then return true
  let r := (j.req c).keepFor j.hart
  (List.range (runsOf j.counts - j.next)).allM (fun k =>
    (j.dstParts (j.next + k)).allM (fun p => do return (← resolve r .store p.1.toNat p.2.2).isOk))

/-- Every copy of hart h's task has finished translation. -/
def copiesTranslate (h : Nat) : M Bool := do
  let s ← get
  ((s.core (coreOf h)).copies.filter (fun j => some j.task == (s.hart h).task)).allM (fun j => j.translates (coreOf h))

/-- The remaining records of every gather of hart h's task that stores into virtual memory have finished translation (R348, R352,
R357). -/
def gathersTranslate (h : Nat) : M Bool := do
  let s ← get
  (s.gathers.filter (fun g => some g.task == (s.hart h).task && gaDsp g.block == 0)).allM (fun g =>
    (List.range (gaCount g.block - g.next)).allM (fun k => do
      return (← gatherDest (g.req.keepFor h) g (g.destOf (g.next + k)) (gaRsz g.block)).isOk))

/-- The wait of a release (R131, R189): every older vector store, vector atomic and engine store has finished translation without a
fault; what it found is kept until the stores are performed (R288).  It does not wait until they are. -/
def needRelease (h : Nat) : M Unit := do
  let s ← get
  let words ← (s.hart h).queue.zipIdx.allM (fun x => entryTranslates h x.2 x.1)
  if !words then waitM .older
  let copies ← copiesTranslate h
  if !copies then waitM .older
  let gathers ← gathersTranslate h
  if !gathers then waitM .older

end Sys2Proof.Machine
end

