-- ==== Sys2Proof/Machine/Atomics.lean ====
section
/-! DEFINITION. Scalar atomics (R81, R127 to R129). -/

namespace Sys2Proof.Machine

open Sys2Proof

/-- The ordering byte of a base register (R81): the scope, or OPND. -/
def orderByte (w : Nat) (base : Word) : M Nat := do
  let b := base.toNat
  if bits b 58 56 != 0 || 4 < bits b 61 59 then trapM cOPND (word w)
  return bits b 61 59

/-- A scalar atomic read-modify-write (R127).  `op old q e` answers whether it stores, and what; `sat` whether it sets FV.SAT. -/
def scalarAtomic (k : Bool) (wd : Nat) (d a b : BitVec 7) (w : Nat) (signed : Bool)
    (op : Nat → Nat → Nat → Bool × Nat) (sat : Nat → Nat → Nat → Bool) (s : State) : Out1 :=
  scalarWord k wd s (do
    let h := s.turn
    let base := s.x h a
    let ea := word (base.toNat % 2 ^ 56)
    let q := (s.x h b).toNat % 2 ^ (8 * w)
    let e := (s.x h d).toNat % 2 ^ (8 * w)
    let scope ← orderByte wd base
    if ea.toNat % w != 0 then trapM cALIGN ea
    if base.msb then needRelease h
    let ps ← scalarResolve h .atomic ea w
    let t ← get
    if t.piecesPoisoned ps then throw (.term cUNCORR ea)
    let old := t.readPieces ps
    let r := op old q e
    modify (fun s =>
      let s := if r.1 then s.writePieces (some h) ps r.2 else ps.foldl (fun s p => s.breakResv (some h) p.pa p.len) s
      ps.foldl (fun s p => s.dropL1 (coreOf h) p.pa p.len) s)
    if sat old q e then modify (fun s => s.updCtx h (fun c => { c with fv := c.fv ||| evSAT }))
    rewriteBase h a ea ps
    if bit base.toNat 62 then modify (fun s => s.acquire h scope)
    retireWith h d (if signed then sext (8 * w) old else word old))

/-- No operand of the operation sets SAT. -/
def neverSat (_ _ _ : Nat) : Bool := false

/-- lrx (R129): read at the home, hold the reservation on the 64-byte block. -/
def loadReserve (k : Bool) (wd : Nat) (d a : BitVec 7) (w : Nat) (s : State) : Out1 :=
  scalarWord k wd s (do
    let h := s.turn
    let base := s.x h a
    let ea := word (base.toNat % 2 ^ 56)
    let scope ← orderByte wd base
    if ea.toNat % w != 0 then trapM cALIGN ea
    if base.msb then needRelease h
    let ps ← scalarResolve h .load ea w
    let t ← get
    if t.piecesPoisoned ps then throw (.term cUNCORR ea)
    let pa := (ps.head?.map (·.pa)).getD 0
    modify (fun s => (s.dropL1 (coreOf h) pa w).updHart h (fun t => { t with resv := some (pa / 64) }))
    rewriteBase h a ea ps
    if bit base.toNat 62 then modify (fun s => s.acquire h scope)
    retireWith h d (sext (8 * w) (t.readPieces ps)))

/-- scx (R129): store if the reservation is held and covers the location; x[d] := 0 then, 1 otherwise; the reservation ends. -/
def storeConditional (k : Bool) (wd : Nat) (d a b : BitVec 7) (w : Nat) (s : State) : Out1 :=
  scalarWord k wd s (do
    let h := s.turn
    let base := s.x h a
    let ea := word (base.toNat % 2 ^ 56)
    let q := (s.x h b).toNat
    let scope ← orderByte wd base
    if ea.toNat % w != 0 then trapM cALIGN ea
    if base.msb then needRelease h
    let ps ← scalarResolve h .store ea w
    let t ← get
    let pa := (ps.head?.map (·.pa)).getD 0
    let held := (t.hart h).resv == some (pa / 64)
    modify (fun s =>
      let s := if held then (s.writePieces (some h) ps q).dropL1 (coreOf h) pa w else s
      s.updHart h (fun t => { t with resv := none }))
    rewriteBase h a ea ps
    if bit base.toNat 62 then modify (fun s => s.acquire h scope)
    retireWith h d (if held then 0 else 1))

/-- R129. Load-reserve of 8 bytes. -/
def execLrx (k : Bool) (d a : BitVec 7) (s : State) : Out1 :=
  loadReserve k (wordR 0x1B 0 k d.toNat a.toNat 0) d a 8 s

/-- R129. Store-conditional of 8 bytes. -/
def execScx (k : Bool) (d a b : BitVec 7) (s : State) : Out1 :=
  storeConditional k (wordR 0x1B 1 k d.toNat a.toNat b.toNat) d a b 8 s

/-- R127. x[d] := old; memory := q, 8 bytes. -/
def execAswap (k : Bool) (d a b : BitVec 7) (s : State) : Out1 :=
  scalarAtomic k (wordR 0x1B 2 k d.toNat a.toNat b.toNat) d a b 8 true (fun _ q _ => (true, q)) neverSat s

/-- R127. memory := old + q, 8 bytes. -/
def execAadd (k : Bool) (d a b : BitVec 7) (s : State) : Out1 :=
  scalarAtomic k (wordR 0x1B 3 k d.toNat a.toNat b.toNat) d a b 8 true (fun old q _ => (true, (old + q) % 2 ^ 64)) neverSat s

/-- R127. memory := old and q, 8 bytes. -/
def execAand (k : Bool) (d a b : BitVec 7) (s : State) : Out1 :=
  scalarAtomic k (wordR 0x1B 4 k d.toNat a.toNat b.toNat) d a b 8 true (fun old q _ => (true, old &&& q)) neverSat s

/-- R127. memory := old or q, 8 bytes. -/
def execAor (k : Bool) (d a b : BitVec 7) (s : State) : Out1 :=
  scalarAtomic k (wordR 0x1B 5 k d.toNat a.toNat b.toNat) d a b 8 true (fun old q _ => (true, old ||| q)) neverSat s

/-- R127. memory := old exclusive-or q, 8 bytes. -/
def execAxor (k : Bool) (d a b : BitVec 7) (s : State) : Out1 :=
  scalarAtomic k (wordR 0x1B 6 k d.toNat a.toNat b.toNat) d a b 8 true (fun old q _ => (true, old ^^^ q)) neverSat s

/-- R127. memory := signed maximum, 8 bytes. -/
def execAmax (k : Bool) (d a b : BitVec 7) (s : State) : Out1 :=
  scalarAtomic k (wordR 0x1B 7 k d.toNat a.toNat b.toNat) d a b 8 true (fun old q _ => (true, if toS 64 old < toS 64 q then q else old)) neverSat s

/-- R127. memory := signed minimum, 8 bytes. -/
def execAmin (k : Bool) (d a b : BitVec 7) (s : State) : Out1 :=
  scalarAtomic k (wordR 0x1B 8 k d.toNat a.toNat b.toNat) d a b 8 true (fun old q _ => (true, if toS 64 q < toS 64 old then q else old)) neverSat s

/-- R127. memory := natural maximum, 8 bytes. -/
def execAmaxn (k : Bool) (d a b : BitVec 7) (s : State) : Out1 :=
  scalarAtomic k (wordR 0x1B 9 k d.toNat a.toNat b.toNat) d a b 8 false (fun old q _ => (true, max old q)) neverSat s

/-- R127. memory := natural minimum, 8 bytes. -/
def execAminn (k : Bool) (d a b : BitVec 7) (s : State) : Out1 :=
  scalarAtomic k (wordR 0x1B 10 k d.toNat a.toNat b.toNat) d a b 8 false (fun old q _ => (true, min old q)) neverSat s

/-- R127. memory := q where old = x[d], 8 bytes. -/
def execAcas (k : Bool) (d a b : BitVec 7) (s : State) : Out1 :=
  scalarAtomic k (wordR 0x1B 11 k d.toNat a.toNat b.toNat) d a b 8 true (fun old q e => (old == e, q)) neverSat s

/-- R127. memory := 0 at the bound q, else old + 1, 8 bytes. -/
def execAinc (k : Bool) (d a b : BitVec 7) (s : State) : Out1 :=
  scalarAtomic k (wordR 0x1B 12 k d.toNat a.toNat b.toNat) d a b 8 false (fun old q _ => (true, if q ≤ old then 0 else old + 1)) neverSat s

/-- R127. memory := min(old + q, bound) while old ≤ bound, else FV.SAT, 8 bytes. -/
def execAfab (k : Bool) (d a b : BitVec 7) (s : State) : Out1 :=
  scalarAtomic k (wordR 0x1B 13 k d.toNat a.toNat b.toNat) d a b 8 false (fun old q e => (decide (old ≤ e), min (old + q) e)) (fun old _ e => decide (e < old)) s

/-- R129. Load-reserve of 4 bytes. -/
def execLrx32 (k : Bool) (d a : BitVec 7) (s : State) : Out1 :=
  loadReserve k (wordR 0x1C 0 k d.toNat a.toNat 0) d a 4 s

/-- R129. Store-conditional of 4 bytes. -/
def execScx32 (k : Bool) (d a b : BitVec 7) (s : State) : Out1 :=
  storeConditional k (wordR 0x1C 1 k d.toNat a.toNat b.toNat) d a b 4 s

/-- R127. x[d] := old; memory := q, 4 bytes. -/
def execAswap32 (k : Bool) (d a b : BitVec 7) (s : State) : Out1 :=
  scalarAtomic k (wordR 0x1C 2 k d.toNat a.toNat b.toNat) d a b 4 true (fun _ q _ => (true, q)) neverSat s

/-- R127. memory := old + q, 4 bytes. -/
def execAadd32 (k : Bool) (d a b : BitVec 7) (s : State) : Out1 :=
  scalarAtomic k (wordR 0x1C 3 k d.toNat a.toNat b.toNat) d a b 4 true (fun old q _ => (true, (old + q) % 2 ^ 32)) neverSat s

/-- R127. memory := old and q, 4 bytes. -/
def execAand32 (k : Bool) (d a b : BitVec 7) (s : State) : Out1 :=
  scalarAtomic k (wordR 0x1C 4 k d.toNat a.toNat b.toNat) d a b 4 true (fun old q _ => (true, old &&& q)) neverSat s

/-- R127. memory := old or q, 4 bytes. -/
def execAor32 (k : Bool) (d a b : BitVec 7) (s : State) : Out1 :=
  scalarAtomic k (wordR 0x1C 5 k d.toNat a.toNat b.toNat) d a b 4 true (fun old q _ => (true, old ||| q)) neverSat s

/-- R127. memory := old exclusive-or q, 4 bytes. -/
def execAxor32 (k : Bool) (d a b : BitVec 7) (s : State) : Out1 :=
  scalarAtomic k (wordR 0x1C 6 k d.toNat a.toNat b.toNat) d a b 4 true (fun old q _ => (true, old ^^^ q)) neverSat s

/-- R127. memory := signed maximum, 4 bytes. -/
def execAmax32 (k : Bool) (d a b : BitVec 7) (s : State) : Out1 :=
  scalarAtomic k (wordR 0x1C 7 k d.toNat a.toNat b.toNat) d a b 4 true (fun old q _ => (true, if toS 32 old < toS 32 q then q else old)) neverSat s

/-- R127. memory := signed minimum, 4 bytes. -/
def execAmin32 (k : Bool) (d a b : BitVec 7) (s : State) : Out1 :=
  scalarAtomic k (wordR 0x1C 8 k d.toNat a.toNat b.toNat) d a b 4 true (fun old q _ => (true, if toS 32 q < toS 32 old then q else old)) neverSat s

/-- R127. memory := natural maximum, 4 bytes. -/
def execAmaxn32 (k : Bool) (d a b : BitVec 7) (s : State) : Out1 :=
  scalarAtomic k (wordR 0x1C 9 k d.toNat a.toNat b.toNat) d a b 4 false (fun old q _ => (true, max old q)) neverSat s

/-- R127. memory := natural minimum, 4 bytes. -/
def execAminn32 (k : Bool) (d a b : BitVec 7) (s : State) : Out1 :=
  scalarAtomic k (wordR 0x1C 10 k d.toNat a.toNat b.toNat) d a b 4 false (fun old q _ => (true, min old q)) neverSat s

/-- R127. memory := q where old = x[d], 4 bytes. -/
def execAcas32 (k : Bool) (d a b : BitVec 7) (s : State) : Out1 :=
  scalarAtomic k (wordR 0x1C 11 k d.toNat a.toNat b.toNat) d a b 4 true (fun old q e => (old == e, q)) neverSat s

/-- R127. memory := 0 at the bound q, else old + 1, 4 bytes. -/
def execAinc32 (k : Bool) (d a b : BitVec 7) (s : State) : Out1 :=
  scalarAtomic k (wordR 0x1C 12 k d.toNat a.toNat b.toNat) d a b 4 false (fun old q _ => (true, if q ≤ old then 0 else old + 1)) neverSat s

/-- R127. memory := min(old + q, bound) while old ≤ bound, else FV.SAT, 4 bytes. -/
def execAfab32 (k : Bool) (d a b : BitVec 7) (s : State) : Out1 :=
  scalarAtomic k (wordR 0x1C 13 k d.toNat a.toNat b.toNat) d a b 4 false (fun old q e => (decide (old ≤ e), min (old + q) e)) (fun old _ e => decide (e < old)) s

end Sys2Proof.Machine
end

