-- ==== Sys2Proof/Machine/Branch.lean ====
section
/-! DEFINITION. Branches and jumps (R118 to R120). -/

namespace Sys2Proof.Machine

open Sys2Proof

/-- A B-format branch (R118): a taken one transfers to PC + 4·offset, an untaken one falls through. -/
def branch (k : Bool) (w : Nat) (taken : Bool) (o : BitVec 11) (s : State) : Out1 :=
  if k then .next (s.retireTo s.turn (if taken then s.pc s.turn + 4 * sx o else s.pc s.turn + 4))
  else .next (s.trapEntry s.turn cCONV (word w))

/-- R118. Taken when x[a] = x[b]. -/
def execBeq (k : Bool) (a b : BitVec 7) (o : BitVec 11) (s : State) : Out1 :=
  branch k (wordI 0x09 k a.toNat b.toNat o.toNat) (s.x s.turn a == s.x s.turn b) o s

/-- R118. Taken when x[a] ≠ x[b]. -/
def execBne (k : Bool) (a b : BitVec 7) (o : BitVec 11) (s : State) : Out1 :=
  branch k (wordI 0x0A k a.toNat b.toNat o.toNat) (s.x s.turn a != s.x s.turn b) o s

/-- R118. Taken when x[a] < x[b], signed. -/
def execBlt (k : Bool) (a b : BitVec 7) (o : BitVec 11) (s : State) : Out1 :=
  branch k (wordI 0x0B k a.toNat b.toNat o.toNat) ((s.x s.turn a).slt (s.x s.turn b)) o s

/-- R118. Taken when x[a] ≥ x[b], signed. -/
def execBge (k : Bool) (a b : BitVec 7) (o : BitVec 11) (s : State) : Out1 :=
  branch k (wordI 0x0C k a.toNat b.toNat o.toNat) (!(s.x s.turn a).slt (s.x s.turn b)) o s

/-- R118. Taken when x[a] < x[b], natural. -/
def execBltn (k : Bool) (a b : BitVec 7) (o : BitVec 11) (s : State) : Out1 :=
  branch k (wordI 0x0D k a.toNat b.toNat o.toNat) ((s.x s.turn a).ult (s.x s.turn b)) o s

/-- R118. Taken when x[a] ≥ x[b], natural. -/
def execBgen (k : Bool) (a b : BitVec 7) (o : BitVec 11) (s : State) : Out1 :=
  branch k (wordI 0x0E k a.toNat b.toNat o.toNat) (!(s.x s.turn a).ult (s.x s.turn b)) o s

/-- R119. x1 := PC + 4; transfer to PC + 4·offset. -/
def execJal (k : Bool) (o : BitVec 25) (s : State) : Out1 :=
  if k then .next ((s.setX s.turn 1 (s.pc s.turn + 4)).retireTo s.turn (s.pc s.turn + 4 * sx o))
  else .next (s.trapEntry s.turn cCONV (word (wordJ 0x0F k o.toNat)))

/-- R119. t := (x[a] + imm11) with bits [1:0] cleared; x[d] := PC + 4; transfer to t. -/
def execJalr (k : Bool) (d a : BitVec 7) (i : BitVec 11) (s : State) : Out1 :=
  if k then .next ((s.setX s.turn d (s.pc s.turn + 4)).retireTo s.turn ((s.x s.turn a + sx i) &&& ~~~(3#64)))
  else .next (s.trapEntry s.turn cCONV (word (wordI 0x06 k d.toNat a.toNat i.toNat)))

end Sys2Proof.Machine
end

