-- ==== Sys2Proof/Machine/Sched.lean ====
section
/-! DEFINITION. Which task a free hart takes, and how it starts or resumes it (R361 to R366, R372, R373). -/

namespace Sys2Proof.Machine

open Sys2Proof

/-- First and one-past-last address of the frame pool (R417, FPOOL): PA in units of 64 KiB, size in GiB. -/
def State.poolRange (s : State) : Nat × Nat :=
  let b := bits s.fpool 47 16 * 65536
  (b, b + bits s.fpool 15 0 * 2 ^ 30)

/-- Bytes of a frame (R372), to its 64 KiB slot. -/
def frameSize (vcount : Nat) : Nat := 65536 * cdiv (0x80000 + 4096 * vcount) 65536

/-- The frames that tasks hold. -/
def State.frames (s : State) : List (Nat × Nat) :=
  s.tasks.filterMap (fun e => e.2.frame.map (fun f => (f, frameSize e.2.vcount)))

/-- A free frame for a region size (R372): the lowest place in the pool (log 11). -/
def State.freeFrame (s : State) (vcount : Nat) : Option Nat :=
  let p := s.poolRange
  let fs := s.frames
  let n := frameSize vcount
  let fits (b : Nat) : Bool := decide (p.1 ≤ b) && decide (b + n ≤ p.2) && fs.all (fun f => decide (b + n ≤ f.1) || decide (f.1 + f.2 ≤ b))
  ((p.1 :: fs.map (fun f => f.1 + f.2)).filter fits).foldl (fun best b =>
    match best with | none => some b | some a => some (min a b)) none

/-- The lowest free run of registers on core c, at a multiple of 64, hart `but` apart (R366). -/
def State.freeRegion (s : State) (c but vcount : Nat) : Option Nat :=
  let used := ((List.range 4).map (fun k => 4 * c + k)).filterMap (fun h =>
    if h != but && (s.hart h).task.isSome then some ((s.ctx h).vbase, (s.ctx h).vcount) else none)
  ((List.range 32).map (· * 64)).find? (fun b =>
    decide (b + vcount ≤ 2048) && used.all (fun u => decide (b + vcount ≤ u.1) || decide (u.1 + u.2 ≤ b)))

/-- What a free hart may take. -/
inductive Cand
  | task (tid : Nat)
  | fresh (lno t : Nat) (placed : List (Nat × Nat × Nat))
  deriving DecidableEq, Repr

/-- The order in which tasks are taken (R366): priority, ready-since, LNO, t. -/
structure CandKey where
  prio : Nat
  since : Nat
  lno : Nat
  t : Nat
  deriving DecidableEq, Repr

/-- The first key goes before the second. -/
def CandKey.before (a b : CandKey) : Bool :=
  if a.prio != b.prio then decide (b.prio < a.prio)
  else if a.since != b.since then decide (a.since < b.since)
  else if a.lno != b.lno then decide (a.lno < b.lno)
  else decide (a.t < b.t)

/-- Priority of a task that is not running: its saved TSTAT.PRIO, or that of its launch or definition before it starts. -/
def State.taskPrio (s : State) (t : Task) : Nat :=
  if t.started then (match t.frame with | some f => bits (s.mem.readN (f + 0x200 + 8 * 0x031) 8) 3 2 | none => 0)
  else match t.named with
    | some n => n.prio
    | none => ((s.launch t.lno).map (·.prio)).getD 0

/-- The bindings of an existing task allow core c (R362, R261). -/
def State.boundOk (s : State) (t : Task) (c : Nat) : Bool :=
  if t.moved.any (fun m => unitOfCore m.1 c != m.2) then false
  else if t.named.isSome then !t.moved.isEmpty || clusterOf c == t.home
  else match s.launch t.lno with
    | some l => (match s.taskBindings t.lno l t.t with
      | some b => b.1.all (fun u => unitOfCore u.1 c == u.2)
      | none => false)
    | none => false

/-- The tower a task was last on is not being emptied: its tasks become ready when that is done (R404, R415). -/
def State.settled (s : State) (t : Task) : Bool := let n := (s.tower (hartTower t.hart)).step; n == 0 || n == 6

/-- Core c can take the task on hart h (R366): frame, region, allocations and Anvil. -/
def State.coreTakes (s : State) (h lno vcount : Nat) (frame : Option Nat) (anvil : Option Nat) (saved : Bool) : Bool :=
  let c := coreOf h
  (frame.isSome || (s.freeFrame vcount).isSome) && (s.freeRegion c h vcount).isSome &&
  (match s.launch lno with | some l => s.canHold lno l.record c | none => false) &&
  (match anvil with | some a => saved || a == c | none => true)

/-- The first unstarted task of a launch, from index t on, that core c may take. -/
def State.firstFresh (s : State) (lno : Nat) (l : Launch) (c : Nat) : Nat → Nat → Option (Nat × List (Nat × Nat × Nat))
  | 0, _ => none
  | n + 1, t =>
    if l.begun.contains t then s.firstFresh lno l c n (t + 1)
    else match s.taskBindings lno l t with
      | some b => if b.1.all (fun u => unitOfCore u.1 c == u.2) then some (t, b.2) else s.firstFresh lno l c n (t + 1)
      | none => s.firstFresh lno l c n (t + 1)

/-- Keep the better of two candidates. -/
def better (best : Option (CandKey × Cand)) (k : CandKey) (c : Cand) : Option (CandKey × Cand) :=
  match best with
  | none => some (k, c)
  | some b => if k.before b.1 then some (k, c) else some b

/-- The task that hart h would take if it were free (R366). -/
def State.candidate (s : State) (h : Nat) : Option (CandKey × Cand) :=
  let c := coreOf h
  if !(s.tower (hartTower h)).powered || (s.tower (hartTower h)).st != .online || (s.hart h).halted then none
  else
    let a := s.tasks.foldl (fun best e =>
      let t := e.2
      if t.st == .ready && s.settled t && s.boundOk t c && s.coreTakes h t.lno t.vcount t.frame t.anvilCore t.anvilSaved.isSome then
        better best { prio := s.taskPrio t, since := t.since, lno := t.lno, t := t.t } (.task e.1)
      else best) none
    s.launches.foldl (fun best e =>
      let l := e.2
      if l.live && !l.killed && l.begun.length < l.total && s.coreTakes h e.1 (recVcount l.record) none none false then
        match s.firstFresh e.1 l c l.total 0 with
        | some (t, p) => better best { prio := l.prio, since := l.admitted, lno := e.1, t := t } (.fresh e.1 t p)
        | none => best
      else best) a

/-- Make the launch's allocations on a core where it has none (R363, R202, R205); three sizes of zero make none (R202). -/
def State.allocate (s : State) (lno c : Nat) : State :=
  match s.launch lno with
  | none => s
  | some l =>
    if (s.core c).allocs.any (fun a => a.lno == lno) || (recWbuf l.record == 0 && recAbuf l.record == 0 && recCbuf l.record == 0) then s
    else
      let b (n : Nat) : Buf := { Buf.empty with size := roundAlloc n }
      s.updCore c (fun k => { k with allocs := k.allocs ++
        [{ lno := lno, w := b (recWbuf l.record), a := b (recAbuf l.record), c := b (recCbuf l.record) }] })

/-- The task block (R361). -/
def taskBlock (r lno t home : Nat) : Nat :=
  home * 2 ^ 224 + recNlev r * 2 ^ 216 +
  ((List.range (recNlev r)).map (fun j => lvScope (recLevel r j) * 2 ^ (192 + 3 * j))).foldl (· + ·) 0 +
  recFidx r * 2 ^ 176 + lno * 2 ^ 160 + t * 2 ^ 128 +
  ((List.range (recNlev r)).map (fun j => recIdx r j t * 2 ^ (16 * j))).foldl (· + ·) 0

/-- Address of a launched task's block (R361). -/
def blockAddr (r t : Nat) : Nat := recStack r + (t + 1) * recSsz r * 4096 - 64

/-- The context a task starts with (R18, R361, R261). -/
def startCtx (l : Launch) (t : Task) (frame vbase depoch : Nat) : Ctx :=
  let r := l.record
  let base : Ctx := { Ctx.reset with
    vbase := vbase, vcount := t.vcount, frm := frame, tepoch := depoch, srq := word (recSrq r),
    strip := { Strip.zero with first := true } }
  match t.named with
  | some n =>
    { base with
      x := [(2, word (bits n.record 191 128)), (4, word l.rva), (5, word (bits n.record 127 64))],
      key := n.key, pkey := n.pkey, prio := n.prio, prv := n.prv, strm := word (bits n.record 319 256),
      tvec := word (bits n.record 255 192), pc := word (bits n.record 63 0),
      strip := { base.strip with pc := bits n.record 63 0 } }
  | none =>
    let blk := if recStack r = 0 then 0 else word (blockAddr r t.t)
    { base with
      x := [(2, blk), (3, blk), (4, word l.rva)],
      key := word (recKey r), pkey := word (recPkey r), prio := l.prio, prv := recSupv r, strm := word (recStrm r + t.t),
      tvec := word (recTvec r), pc := word (recEntry r), strip := { base.strip with pc := recEntry r } }

/-- Write the task block of a launched task (R361): none when it is written, or why it is not. -/
def writeBlock (lno tower : Nat) (r : Nat) (t home : Nat) : M (Option AccFault) := do
  if recStack r = 0 then return none
  let s ← get
  match ← resolve (s.launchReq lno tower) .store (blockAddr r t) 64 with
  | .ok ps =>
    modify (fun s => s.writePieces none ps (taskBlock r lno t home))
    return none
  | .error e => return some e

/-- Put task tid on hart h with a context: the hart runs it from now on. -/
def State.install (s : State) (h tid : Nat) (c : Ctx) : State :=
  let s := s.setHart h { (s.hart h).vacate with task := some tid, ctx := c, startVs := c.vs, startedAt := s.time, sampleCyc := (s.cluster (hartCluster h)).cyc }
  let s := s.updTask tid (fun t => { t with st := .running, started := true, hart := h, wake := .none, frame := some c.frm })
  (s.acquire h 3).retarget (coreOf h)

/-- Start a task that has never run (R361): its allocations, its block, its context.  Where its block waits at a tile in arrival state (R309)
it stays ready. -/
def State.startTask (s : State) (h tid : Nat) : State :=
  match s.taskOf tid with
  | none => s
  | some t =>
    match s.launch t.lno, s.freeRegion (coreOf h) h t.vcount, t.frame with
    | some l, some vb, some f =>
      let s := s.allocate t.lno (coreOf h)
      let w : Option (Option AccFault) × State := if t.named.isSome then (some none, s)
        else s.tryM (writeBlock t.lno (hartTower h) l.record t.t t.home)
      match w.1 with
      | none => w.2
      | some none => w.2.install h tid (startCtx l t f vb s.depoch)
      | some (some (.page p)) =>
        (w.2.updTask tid (fun t => { t with st := .pagewait })).requestPage t.lno p (needOf .store (recSupv l.record)) (.block t.lno tid)
      | some _ => w.2.terminateTask tid cTBLK (word (blockAddr l.record t.t)) 0 0
    | _, _, _ => s

/-- Read a saved vector region back into core c (R373). -/
def State.loadRegion (s : State) (c f vbase vcount : Nat) : State :=
  s.updCore c (fun k => { k with
    vf := (List.range vcount).foldl (fun vf n => Tbl.set vf (vbase + n) (s.mem.readN (f + 0x80000 + 4096 * n) 4096)) k.vf })

/-- Load saved Anvil state where the task owns some (R217). -/
def State.loadAnvil (s : State) (c tid f : Nat) (t : Task) : State :=
  match t.anvilSaved with
  | none => s
  | some a =>
    (s.updCore c (fun k => { k with anvil := { s.frameAnvil f a with owner := some tid, releasing := none } })).updTask tid
      (fun t => { t with anvilCore := some c, anvilSaved := none })

/-- Resume a swapped-out task on hart h (R42, R373): its frame's checks decide, and a defect ends it. -/
def State.resumeTask (s : State) (h tid : Nat) : State :=
  match s.taskOf tid with
  | none => s
  | some t =>
    match t.frame, s.freeRegion (coreOf h) h t.vcount with
    | some f, some vb =>
      if s.poisoned f (0x80000 + 4096 * t.vcount) then s.terminateTask tid cUNCORR 0 0 0
      else
        let s := s.allocate t.lno (coreOf h)
        let c := { s.readFrame f with vbase := vb, vcount := t.vcount, frm := f }
        let cp := s.frameCp f
        let n := c.enqN
        let seq0 := c.enqSeq0
        let tenq := s.mem.readN (f + trapArea + 24) 8
        let c' := if c.inh then { c with enqN := bits tenq 37 32, enqSeq0 := bits tenq 15 0 } else c
        let s1 := (s.loadRegion (coreOf h) f vb t.vcount).loadAnvil (coreOf h) tid f t
        let s1 := s1.install h tid c'
        let es := s1.readDump f 0x800 (min n 32) seq0 t.addrs cp
        if s1.dumpOk h n es then s1.reissue h (es.map Prod.snd) t.openConvoy c.vs
        else s1.terminateAt h cRSTR 0 cp
    | _, _ => s

/-- Instances are placed on units (R362); tasks that will be homed in a cluster so bound hold its barriers from now on (R251). -/
def State.bindNew (s : State) (lno : Nat) (placed : List (Nat × Nat × Nat)) : State :=
  let kind (p : Nat × Nat × Nat) : Nat := ((s.launch lno).map (fun l => recKind l.record p.1)).getD 0
  let s := placed.foldl (fun s p => match kind p with
    | 1 => s.holdBarriers lno (clusterOf p.2.2)
    | 2 => s.holdBarriers lno p.2.2
    | _ => s) s
  s.updLaunch lno (fun l => { l with placed := l.placed ++ placed })

/-- Record the units that a moved task's instances take anew (R364). -/
def State.rebind (s : State) (t : Task) : State :=
  if t.named.isSome then s
  else match s.launch t.lno with
    | some l => (match s.taskBindings t.lno l t.t with
      | some b => s.bindNew t.lno b.2
      | none => s)
    | none => s

/-- A free hart takes a candidate (R366): a new task gets its frame and home, an Anvil owner loads its state when its core's
Anvil is free and otherwise waits for it. -/
def State.take (s : State) (h : Nat) : Cand → State
  | .fresh lno t placed =>
    match s.launch lno with
    | none => s
    | some l =>
      match s.freeFrame (recVcount l.record) with
      | none => s
      | some f =>
        let tid := s.nextTask
        let task : Task :=
          { lno := lno, t := t, named := none, st := .ready, since := l.admitted, started := false, frame := some f,
            home := hartCluster h, hart := h, vcount := recVcount l.record, tepoch := s.depoch, wake := .none,
            anvilCore := none, anvilSaved := none, aged := false, addrs := [], openConvoy := false, trapAddrs := [],
            trapOpen := false, moved := [], swDone := false }
        let s := (s.holdBarriers lno (hartCluster h)).bindNew lno placed
        let s : State := { s with tasks := Tbl.set s.tasks tid task, nextTask := tid + 1 }
        (s.updLaunch lno (fun l => { l with begun := l.begun ++ [t] })).startTask h tid
  | .task tid =>
    match s.taskOf tid with
    | none => s
    | some t =>
      if t.anvilSaved.isSome && ((s.core (coreOf h)).anvil.owner.isSome || (s.core (coreOf h)).anvil.releasing.isSome) then
        (s.rebind t).updTask tid (fun t => { t with st := .anvilwait, hart := h })
      else if t.started then (s.rebind t).resumeTask h tid
      else
        let s := s.rebind t
        let s := match t.frame with
          | some _ => s
          | none => s.updTask tid (fun t => { t with frame := s.freeFrame t.vcount })
        s.startTask h tid

end Sys2Proof.Machine
end

