-- ==== Sys2Proof/Machine/Cluster.lean ====
section
/-! DEFINITION. The cluster: barriers, named tasks and dependence counters, power gates, lane-group LDOs and the Dewpoint loop
(R248, R251 to R268). -/

namespace Sys2Proof.Machine

open Sys2Proof

/-- The key of a launch's barrier in its cluster's table. -/
def barKey (lno bar : Nat) : Nat := lno * 8 + bar

/-- A barrier at the start of the period for which a launch holds it (R251). -/
def Barrier.zero : Barrier := { ph := 0, cnt := 0, exp := 0, ov := false }

/-- A barrier of a launch. -/
def Cluster.bar (k : Cluster) (lno bar : Nat) : Barrier := Tbl.get Barrier.zero k.bars (barKey lno bar)

/-- A message reaches a unit (R264): it aborts a gate entry and wakes a gated unit. -/
def GateState.reached : GateState → GateState
  | .gated => .waking
  | .entering => .running
  | g => g

/-- A message reaches a cluster (R264); how long a wake takes is not modelled (log 6). -/
def State.wakeCluster (s : State) (cl : Nat) : State := s.updCluster cl (fun k => { k with gate := k.gate.reached })

/-- A message or a task reaches a core (R264): it aborts an entry and wakes a gated core and its cluster. -/
def State.wakeCore (s : State) (c : Nat) : State :=
  (s.updCore c (fun k => { k with gate := k.gate.reached, idle := 0 })).wakeCluster (clusterOf c)

/-- A cluster unit serves messages at once (R264): it runs, or its tower's router serves in its place (R404). -/
def State.clusterServes (s : State) (cl : Nat) : Bool := (s.cluster cl).gate == .running || !(s.tower (cl / 8)).powered

/-- The barriers and counters that the launch held in the home cluster were lost with its tower (R262); a word reaches that cluster as a
message, which wakes it and is held at its port until it runs (R264). -/
def needCluster (h : Nat) : M Unit := do
  let s ← get
  let cl := s.homeCluster h
  if (s.cluster cl).lost.contains (s.hartLno h) then throw (.term cBLOST 0)
  modify (fun s => s.wakeCluster cl)
  if !(← get).clusterServes cl then waitM (.wake cl)

/-- A barrier word has a defect (R252). -/
def barWordBad (x : Nat) : Bool := bit x 62 || decide (4 < bits x 61 59) || bits x 58 28 != 0 || bits x 15 3 != 0

/-- An arrival of n at a barrier (R253): the barrier after it, and whether the arrival was refused.  DEDUCED (log 122): a refused arrival
at CNT = 0 has set EXP, as the pseudocode does. -/
def Barrier.arrive (b : Barrier) (exp n : Nat) : Barrier × Bool :=
  let b := if b.cnt = 0 then { b with exp := exp } else b
  let c := b.cnt + n
  if c < b.exp then ({ b with cnt := c }, false)
  else
    let carry := c - b.exp
    if b.exp < carry then ({ b with ov := true }, true)
    else
      let b := { b with ph := (b.ph + 1) % 65536, ov := b.ov || decide (0 < carry) }
      if carry = b.exp then ({ b with ph := (b.ph + 1) % 65536, cnt := 0 }, false) else ({ b with cnt := carry }, false)

/-- R253. Release, then count arrivals; x[d] := the phase before. -/
def execBarArrive (k : Bool) (d a b : BitVec 7) (s : State) : Out1 :=
  let w := wordR 0x3E 0 k d.toNat a.toNat b.toNat
  scalarWord k w s (do
    let h := s.turn
    needCluster h
    let x := (s.x h a).toNat
    let n := (s.x h b).toNat
    let exp := bits x 27 16
    if barWordBad x || exp == 0 || n == 0 || decide (4095 < n) then trapM cOPND (word w)
    needRelease h
    let cl := s.homeCluster h
    let lno := s.hartLno h
    let bar := bits x 2 0
    let setBar (v : Barrier) : M Unit :=
      modify (fun s => s.updCluster cl (fun k => { k with bars := Tbl.set k.bars (barKey lno bar) v }))
    let old := (s.cluster cl).bar lno bar
    let cur := if bit x 63 then { old with ov := false } else old
    if cur.cnt != 0 && cur.exp != exp then
      setBar cur
      throw (.trap cOPND (word w) true)
    let r := cur.arrive exp n
    setBar r.1
    if r.2 then modify (fun s => s.updCtx h (fun c => { c with bovf := some bar }))
    retireWith h d (word cur.ph))

/-- The status word of a barrier (R255). -/
def Barrier.status (b : Barrier) : Nat := b2n b.ov * 2 ^ 63 + b.exp % 4096 * 2 ^ 48 + b.cnt % 4096 * 2 ^ 32 + b.ph

/-- The phase has passed: (PH - p) mod 2^16 in 1 .. 2^15 (R254). -/
def phasePassed (ph p : Nat) : Bool := let z := (ph + 65536 - p % 65536) % 65536; decide (1 ≤ z) && decide (z ≤ 32768)

/-- The word of hart h already waits on a barrier. -/
def State.atBarrier (s : State) (h : Nat) : Bool := match (s.hart h).waiting with | .barrier .. => true | _ => false

/-- R254. Report latched traps, wait for the phase after x[b], acquire; x[d] := the status word.  BOVF and GUARD are tested before the
wait only. -/
def execBarWait (k : Bool) (d a b : BitVec 7) (s : State) : Out1 :=
  let w := wordR 0x3E 1 k d.toNat a.toNat b.toNat
  scalarWord k w s (do
    let h := s.turn
    needCluster h
    let x := (s.x h a).toNat
    if barWordBad x then trapM cOPND (word w)
    match if s.atBarrier h then none else (s.ctx h).bovf with
    | some n =>
      modify (fun s => s.updCtx h (fun c => { c with bovf := none }))
      throw (.trap cBOVF (word n) true)
    | none => pure ()
    match if s.atBarrier h then none else (s.ctx h).guard with
    | some g =>
      modify (fun s => s.updCtx h (fun c => { c with guard := none }))
      throw (.trap cGUARD g.eval true)
    | none => pure ()
    let cl := s.homeCluster h
    let lno := s.hartLno h
    let bar := bits x 2 0
    let p := (s.x h b).toNat % 65536
    let v := (s.cluster cl).bar lno bar
    if !phasePassed v.ph p then waitM (.barrier cl (barKey lno bar) p)
    match (s.ctx h).copyFault with
    | some e =>
      modify (fun s => s.updCtx h (fun c => { c with copyFault := none }))
      throw (.trap cCOPY e true)
    | none => pure ()
    modify (fun s => s.acquire h (bits x 61 59))
    retireWith h d (word v.status))

/-- Fields of a task definition record (R258). -/
def defVcount (r : Nat) : Nat := bits r 331 320

/-- A task definition record breaks R258. -/
def defBad (r : Nat) : Bool :=
  let v := defVcount r
  let badAddr (a : Nat) : Bool := bits a 63 56 != 0 || bits a 1 0 != 0
  bits r 511 332 != 0 || v % 64 != 0 || decide (v < 128) || decide (2048 < v) || badAddr (bits r 255 192) || badAddr (bits r 63 0)

/-- R257, R259. Define a named task on the lowest free counter of the home slice; all ones when none is free. -/
def execTskDef (k : Bool) (d a b : BitVec 7) (s : State) : Out1 :=
  let w := wordR 0x3E 2 k d.toNat a.toNat b.toNat
  scalarWord k w s (do
    let h := s.turn
    needCluster h
    let r := (s.x h a).toNat
    let n := (s.x h b).toNat
    if r % 64 != 0 || bits r 63 56 != 0 || n == 0 || decide (65535 < n) then trapM cOPND (word w)
    let t ← get
    let v ← readHome (t.reqOf h) cSACC (word r) r 64
    modify (fun s => s.countHops (coreOf h) v.2)
    if defBad v.1 then trapM cOPND (word w)
    let cl := s.homeCluster h
    let held := (s.cluster cl).counters
    match (List.range 1024).find? (fun c => (Tbl.find held c).isNone) with
    | none => retireWith h d (word (2 ^ 64 - 1))
    | some c =>
      let cx := s.ctx h
      let dc : DepCounter :=
        { lno := s.hartLno h, count := n, record := v.1, key := cx.key, pkey := cx.pkey, prio := cx.prio, prv := cx.prv }
      modify (fun s => s.updCluster cl (fun k => { k with counters := Tbl.set k.counters c dc }))
      retireWith h d (word c))

/-- A named task becomes ready (R257, R261). -/
def State.createNamed (s : State) (cl : Nat) (dc : DepCounter) : State :=
  let t : Task :=
    { lno := dc.lno, t := noTask,
      named := some { record := dc.record, key := dc.key, pkey := dc.pkey, prio := dc.prio, prv := dc.prv },
      st := .ready, since := s.time, started := false, frame := none, home := cl, hart := 32 * cl, vcount := defVcount dc.record,
      tepoch := s.depoch, wake := .none, anvilCore := none, anvilSaved := none, aged := false, addrs := [], openConvoy := false,
      trapAddrs := [], trapOpen := false, moved := s.refuge dc.lno cl, swDone := false }
  let s := s.holdBarriers dc.lno cl
  { s with tasks := Tbl.set s.tasks s.nextTask t, nextTask := s.nextTask + 1 }

/-- The launch holds counter c of cluster cl (R257). -/
def State.holdsCounter (s : State) (cl lno c : Nat) : Bool :=
  match Tbl.find (s.cluster cl).counters c with
  | some dc => dc.lno == lno
  | none => false

/-- Decrement a counter that is held (R257, R243): at zero it is freed and its task created. -/
def State.decCounter (s : State) (cl c : Nat) : State :=
  match Tbl.find (s.cluster cl).counters c with
  | none => s
  | some dc =>
    if dc.count ≤ 1 then (s.updCluster cl (fun k => { k with counters := Tbl.del k.counters c })).createNamed cl dc
    else s.updCluster cl (fun k => { k with counters := Tbl.set k.counters c { dc with count := dc.count - 1 } })

/-- Decrement a counter where the launch holds it (R243, R257). -/
def State.decNow (s : State) (cl lno c : Nat) : State := if s.holdsCounter cl lno c then s.decCounter cl c else s

/-- The decrement of a counter reaches a cluster as a message: a gated one holds it at its port and wakes (R264). -/
def State.decHeld (s : State) (cl lno c : Nat) : State :=
  let s := s.wakeCluster cl
  if s.clusterServes cl then s.decNow cl lno c else s.updCluster cl (fun k => { k with port := k.port ++ [(lno, c)] })

/-- Messages held at a cluster's port are performed in arrival order (R264). -/
def State.servePort (s : State) (cl : Nat) : State :=
  (s.cluster cl).port.foldl (fun s m => s.decNow cl m.1 m.2) (s.updCluster cl (fun k => { k with port := [] }))

/-- R260. Release, then decrement a dependence counter; x[d] := its count before. -/
def execTskDec (k : Bool) (d a : BitVec 7) (s : State) : Out1 :=
  let w := wordR 0x3E 3 k d.toNat a.toNat 0
  scalarWord k w s (do
    let h := s.turn
    needCluster h
    let c := (s.x h a).toNat
    if 1024 ≤ c then trapM cOPND (word w)
    needRelease h
    let cl := s.homeCluster h
    match Tbl.find (s.cluster cl).counters c with
    | some dc =>
      if dc.lno != s.hartLno h then trapM cOPND (word w)
      modify (fun s => s.decCounter cl c)
      retireWith h d (word dc.count)
    | none => trapM cOPND (word w))

/-- Gating is enabled, and the core is idle as R263 lists. -/
def State.mayGate (s : State) (c : Nat) : Bool :=
  let k := s.core c
  bit (s.cluster (clusterOf c)).pgcfg 0 && (List.range 4).all (fun n => (s.hart (4 * c + n)).task.isNone) &&
  k.anvil.owner.isNone && k.anvil.releasing.isNone && k.copies.isEmpty && k.interlock.isEmpty && k.replies.isEmpty && k.inbox.isEmpty

/-- Eight gated cores and no task that waits in a barrier let their cluster begin gate entry (R263). -/
def State.mayGateCluster (s : State) (cl : Nat) : Bool :=
  bit (s.cluster cl).pgcfg 1 && (List.range 8).all (fun c => (s.core (8 * cl + c)).gate == .gated) &&
  !s.harts.any (fun e => match e.2.waiting with | .barrier b _ _ => b == cl | _ => false) &&
  !s.tasks.any (fun e => match e.2.wake with | .barrier b _ _ => b == cl | _ => false)

/-- The cluster begins gate entry where it may (R263). -/
def State.enterCluster (s : State) (cl : Nat) : State :=
  if (s.cluster cl).gate == .running && s.mayGateCluster cl then s.updCluster cl (fun k => { k with gate := .entering }) else s

/-- GIDLE of a cluster (R265). -/
def Cluster.gidle (k : Cluster) : Nat := bits k.pgcfg 63 32

/-- R263. A core whose conditions have held for GIDLE cycles begins gate entry; at a gated core, its cluster does so where it may. -/
def execCoreGate (c : Nat) (s : State) : Out1 :=
  .next (match (s.core c).gate with
    | .running =>
      if s.mayGate c && decide ((s.cluster (clusterOf c)).gidle ≤ (s.core c).idle) then s.updCore c (fun k => { k with gate := .entering })
      else s
    | .gated => s.enterCluster (clusterOf c)
    | _ => s)

/-- R264. Gate entry ends: the unit gates where its conditions still hold, and is running again where they do not. -/
def execGateEntryComplete (unit : GateUnit) (s : State) : Out1 :=
  match unit with
  | .core c =>
    if (s.core c).gate != .entering then .next s
    else if !s.mayGate c then .next (s.updCore c (fun k => { k with gate := .running }))
    else .next ((s.updCore c (fun k => { k with gate := .gated })).enterCluster (clusterOf c))
  | .cluster cl =>
    if (s.cluster cl).gate != .entering then .next s
    else .next (s.updCluster cl (fun k => { k with gate := if s.mayGateCluster cl then .gated else .running }))

/-- R264. A wake ends: the unit runs, and messages held at its port are performed in arrival order. -/
def execWakeComplete (unit : GateUnit) (s : State) : Out1 :=
  .next (match unit with
    | .core c => if (s.core c).gate == .waking then s.updCore c (fun k => { k with gate := .running }) else s
    | .cluster cl =>
      if (s.cluster cl).gate == .waking then (s.updCluster cl (fun k => { k with gate := .running })).servePort cl else s)

/-- R266. The LDO of lane group g has settled. -/
def execLdoSettle (c g : Nat) (s : State) : Out1 :=
  .next (s.updCore c (fun k => { k with settling := k.settling.filter (· != g) }))

/-- Fields of DPCFG (R268). -/
def dpVmax (n : Nat) : Nat := bits n 63 56
def dpVmin (n : Nat) : Nat := bits n 55 48
def dpTarget (n : Nat) : Nat := bits n 47 42
def dpHyst (n : Nat) : Nat := bits n 41 36
def dpEmerg (n : Nat) : Nat := bits n 35 30

/-- VCODE after a sample with least margin mm (R267, R268). -/
def nextVcode (dpcfg v mm : Nat) : Nat :=
  if !bit dpcfg 0 then v
  else if mm + dpHyst dpcfg < dpTarget dpcfg then min (dpVmax dpcfg) (v + 1)
  else if dpTarget dpcfg + dpHyst dpcfg < mm then max (dpVmin dpcfg) (v - 1)
  else v

/-- R267. The loop samples: the least margin over ungated monitors is mm.  The clock is stretched from then on where a monitor reads
below EMERG, be it one of a gated core, which the device decides (log 103). -/
def execDewpointSample (cl mm : Nat) (s : State) : Out1 :=
  .next (State.updCluster { s with fresh := s.fresh + 1 } cl (fun k =>
    { k with
      vcode := nextVcode k.dpcfg k.vcode mm, mm := mm % 64,
      emergency := decide (mm < dpEmerg k.dpcfg) || (decide (0 < dpEmerg k.dpcfg) && Config.monitorLow s.fresh cl) }))

/-- DPSTAT (R268). -/
def Cluster.dpstat (k : Cluster) : Nat := k.vcode % 256 * 2 ^ 56 + k.mm * 2 ^ 50 + min (2 ^ 32 - 1) k.stretch

end Sys2Proof.Machine
end

