-- ==== Sys2Proof/Machine/Copy.lean ====
section
/-! DEFINITION. The copy sequencer: acceptance, runs and completion of copies (R239 to R246). -/

namespace Sys2Proof.Machine

open Sys2Proof

/-- R239. cpl writes one register of the copy program. -/
def Lane.copyLoad (L : Lane) (n : Nat) : M Unit :=
  let v := L.e.opB.toNat % (if n ≤ 5 then 2 ^ 23 else 2 ^ 7) * 2 ^ 64 + L.e.opA.toNat
  modify (fun s => s.updCtx L.h (fun c => { c with cp := Tbl.set c.cp n v }))

/-- The copy that a word describes (R241, R242): `v` the group of cpv. -/
def Lane.copyJob (L : Lane) (s : State) (v : Option Nat) : CopyJob :=
  let r := L.e.opB.toNat % 2 ^ 24
  let lv := (List.range 6).map L.c.copyLevel
  let opa := L.e.opA.toNat
  { ident := s.nextIdent, hart := L.h, task := (s.hart L.h).task.getD 0, lno := s.hartLno L.h, sup := L.c.prv,
    src := L.c.copyEnd L.core 6, dst := L.c.copyEnd L.core 7, counts := lv.map (·.1), dstr := lv.map (·.2.1), sstr := lv.map (·.2.2),
    run := bits r 15 0, xp := bits r 23 22, next := 0, dec := v.isNone && bit opa 63, cnt := bits opa 9 0,
    group := (v.map L.c.phys).getD 0, nr := if v.isSome then bits opa 5 0 else 0, held := false }

/-- The copy fails its checks (R241). -/
def Lane.copyBad (L : Lane) (s : State) (v : Option Nat) : Bool :=
  let j := L.copyJob s v
  j.src.space == 4 || (v.isNone && j.dst.space == 4) || (v.isSome && j.dst.space != 4) ||
  (j.xp != 0 && decide (64 < j.counts.headD 0)) ||
  spanOutside j.srcSpan (spaceSize j.src.space 0) || spanOutside j.dstSpan (spaceSize j.dst.space j.nr) ||
  (j.src.space == j.dst.space && (j.src.space == 0 || j.src.core == j.dst.core) && spansMeet j.srcSpan j.dstSpan) ||
  (j.dec && !s.holdsCounter (s.homeCluster L.h) j.lno j.cnt)

/-- A copy completes (R243): its rows land, its counter is decremented, its interlock entry is freed. -/
def State.endCopy (s : State) (c : Nat) (j : CopyJob) : State :=
  let s := s.updCore c (fun k =>
    { k with
      copies := k.copies.filter (fun x => x.ident != j.ident),
      interlock := k.interlock.filter (fun e => e.kind != 0 || e.ident != j.ident),
      unlanded := if j.dst.space = 4 then j.rows.foldl Tbl.del k.unlanded else k.unlanded })
  if j.dec then s.decHeld (s.homeCluster j.hart) j.lno j.cnt else s

/-- R241, R243. Accept a copy, for which the gate has kept a place (R244); one whose nest is empty completes at once. -/
def Lane.copyAccept (L : Lane) (v : Option Nat) : M Unit := do
  let s ← get
  let j := L.copyJob s v
  modify (fun s =>
    let s := { s with nextIdent := s.nextIdent + 1 }
    let s := s.updCore L.core (fun k =>
      { k with
        copies := k.copies ++ [j], interlock := k.interlock ++ [{ hart := L.h, kind := 0, ident := j.ident, ivs := j.intervals L.core }],
        unlanded := if v.isSome then j.rows.foldl (fun t r => Tbl.set t r true) k.unlanded else k.unlanded })
    if runsOf j.counts = 0 then s.endCopy L.core j else s)

/-- The acts of a copy word, by name: its group where it has one. -/
def copyGroup : Instr → Option (Option Nat)
  | .cpgo _ _ _ => some none
  | .cpv _ d _ _ => some (some d.toNat)
  | _ => none

/-- Entries of the interlock table in use on core c (R244), those of released copy words that have not been accepted yet among them. -/
def State.tableUsed (s : State) (c : Nat) : Nat :=
  let owed (h : Nat) : Nat :=
    if (s.hart h).released then
      ((firstConvoy (s.hart h).queue).filter (fun e => !e.done && (e.instr.bind copyGroup).isSome)).length
    else 0
  (s.core c).interlock.length + ((List.range 4).map (fun k => owed (4 * c + k))).foldl (· + ·) 0

/-- A copy word is not ready at the gate (R244): the table is full or the hart has eight copies in flight. -/
def State.copyHeld (s : State) (h : Nat) : Bool :=
  decide (32 ≤ s.tableUsed (coreOf h)) || decide (8 ≤ ((s.core (coreOf h)).copies.filter (fun j => j.hart == h)).length)

/-- Guard granules of a buffer range, latched for the task one by one (R203, R246). -/
def CopyJob.touchGuards (j : CopyJob) (e : CopyEnd) (off len : Nat) (s : State) : State :=
  if e.space = 0 || e.space = 4 then s
  else
    let k := kindOf e.space
    let size := (s.buf e.core j.lno k).size
    ((granules off len).filter (fun g => granClass size g == .guard)).foldl (fun s g =>
      let o := max off (16 * g)
      let s := s.count (coreOf j.hart) 15 1
      if (s.hart j.hart).task = some j.task then s.updCtx j.hart (fun c => c.touchGuard k.num (k.bank o) o) else s) s

/-- The bytes of a source range; guard bytes read as zero (R246). -/
def CopyJob.readSide (j : CopyJob) (s : State) (off len : Nat) (ps : List Piece) : List Byte :=
  if j.src.space = 0 then toBytes len (s.readPieces ps)
  else
    let b := s.buf j.src.core j.lno (kindOf j.src.space)
    (List.range len).map (fun k => if granClass b.size ((off + k) / 16) = .alloc then b.data.read (off + k) else 0)

/-- Write one part: guard bytes are dropped, and every granule written is set full (R205, R243). -/
def CopyJob.writePart (j : CopyJob) (c : Nat) (off : Nat) (bs : List Byte) (ps : List Piece) (s : State) : State :=
  if j.dst.space = 0 then
    ps.foldl (fun s p => s.dropL1 c p.pa p.len) ((s.writePieces none ps (ofBytes bs)).echo j.hart ps (ofBytes bs))
  else if j.dst.space = 4 then
    bs.zipIdx.foldl (fun s b => s.updVreg c (j.group + (off + b.2) / 4096) (fun r => putAt r ((off + b.2) % 4096) 1 b.1.toNat)) s
  else
    (s.countConflicts j.dst.core).putBuf j.hart j.dst.core j.lno (kindOf j.dst.space) (fun b =>
      let data := bs.zipIdx.foldl (fun m x => if granClass b.size ((off + x.2) / 16) = .alloc then m.write (off + x.2) x.1 else m) b.data
      let full := ((granules off bs.length).filter (fun g => granClass b.size g == .alloc)).foldl (fun t g => Tbl.set t g true) b.full
      { b with data := data, full := full })

/-- Run n of a copy into registers writes into the row with this landed-bit key. -/
def CopyJob.writesRow (j : CopyJob) (n row : Nat) : Bool :=
  (j.dstParts n).any (fun p =>
    decide (p.1.toNat / 512 + 8 * j.group ≤ row) && decide (row ≤ (p.1.toNat + p.2.2 - 1) / 512 + 8 * j.group))

/-- Rows of the group that run n is the last to write into land (R243); a row that no run writes waits for the completion. -/
def State.landRows (s : State) (c : Nat) (j : CopyJob) (n : Nat) : State :=
  if j.dst.space != 4 then s
  else
    let later (row : Nat) : Bool := (List.range (runsOf j.counts - (n + 1))).any (fun k => j.writesRow (n + 1 + k) row)
    s.updCore c (fun k => { k with unlanded := k.unlanded.filter (fun r => !j.writesRow n r.1 || later r.1) })

/-- Perform run n of a copy (R240, R246).
DESIGN CHOICE (log 96): where both sides of the run fail, the source's address is the one that EVAL gives. -/
def CopyJob.perform (j : CopyJob) (c n : Nat) : M (Except (AccFault × Word) Unit) := do
  let so := j.srcOff n
  let parts := j.dstParts n
  match ← j.checkPart c j.src .load so j.run with
  | .error f => return .error (f, j.src.eval so)
  | .ok sp =>
    match ← j.checkParts c j.dst .store (parts.map (fun p => (p.1, p.2.2))) with
    | .error f => return .error (f.1, j.dst.eval ((parts.head?.map (·.1)).getD f.2))
    | .ok dp =>
      let s ← get
      let bytes := j.readSide s so.toNat j.run sp
      modify (fun s =>
        let s := if j.src.space = 0 then s else s.countConflicts j.src.core
        let s := j.touchGuards j.src so.toNat j.run (((sp :: dp).foldl (fun s ps => s.countHops (coreOf j.hart) ps) s).noteRead j.hart sp)
        (parts.zip dp).foldl (fun s p =>
          let bs := (bytes.drop p.1.2.1).take p.1.2.2
          j.writePart c p.1.1.toNat bs p.2 (j.touchGuards j.dst p.1.1.toNat p.1.2.2 s)) s)
      return .ok ()

/-- The run of a copy that aborts (R246): each byte that both sides admit may have been written or not (free, log 29). -/
def CopyJob.partialRun (j : CopyJob) (c n : Nat) : M Unit := do
  let so := j.srcOff n
  let free ← drawN j.run
  (j.dstParts n).forM (fun p => forN p.2.2 (fun k => do
    if Config.freeBool (free + p.2.1 + k) then
      match ← j.checkPart c j.src .load (so + (p.2.1 + k : Nat)) 1 with
      | .error _ => pure ()
      | .ok sp =>
        match ← j.checkPart c j.dst .store (p.1 + k) 1 with
        | .error _ => pure ()
        | .ok dp => modify (fun s =>
          j.writePart c (p.1 + k).toNat (j.readSide s (so + (p.2.1 + k : Nat)).toNat 1 sp) dp (s.noteRead j.hart sp))))

/-- A copy or gather of a task aborts: its latch keeps the first abort (R246, R355). -/
def State.latchCopy (s : State) (h tid : Nat) (ev : Word) : State :=
  if (s.hart h).task = some tid then
    s.updCtx h (fun c => { c with copyFault := match c.copyFault with | some e => some e | none => some ev })
  else s

/-- R240, R243, R246. Core c's sequencer performs the next run of copy i of its list: copies of one hart begin in order. -/
def execCopyRun (c i : Nat) (s : State) : Out1 :=
  match (s.core c).copies[i]? with
  | none => .next s
  | some j =>
    if j.held || (j.next == 0 && ((s.core c).copies.take i).any (fun e => e.hart == j.hart && e.next == 0)) then .next s
    else
      match (j.perform c j.next).run s with
      | .error _ t => .next (keepSide s t)
      | .ok r t =>
        match r with
        | .ok _ =>
          let t := t.landRows c j j.next
          if j.next + 1 = runsOf j.counts then .next (t.endCopy c j)
          else .next (t.updCore c (fun k =>
            { k with copies := k.copies.map (fun x => if x.ident = j.ident then { x with next := j.next + 1 } else x) }))
        | .error (.page p, _) =>
          let w := decide (j.src.space ≠ 0) || ((t.evalM (.error .perm) (j.checkPart c j.src .load (j.srcOff j.next) j.run)).1.isOk)
          .next ((t.updCore c (fun k =>
            { k with copies := k.copies.map (fun x => if x.ident = j.ident then { x with held := true } else x) })).requestPage
              j.lno p (needOf (if w then .store else .load) j.sup) (.copy c j.ident))
        | .error (.uncorr, ev) => .next ((t.endCopy c { j with dec := false }).terminateTask j.task cUNCORR ev 0 0)
        | .error (_, ev) => .next (((t.runM (j.partialRun c j.next)).latchCopy j.hart j.task ev).endCopy c j)

/-- A once-acting copy word acts (R239, R241). -/
def Lane.copyWord (L : Lane) (i : Instr) : M Unit :=
  match i with
  | .cpl _ n _ _ => L.copyLoad n.toNat
  | .cpgo _ _ _ => L.copyAccept none
  | .cpv _ d _ _ => L.copyAccept (some d.toNat)
  | _ => pure ()

end Sys2Proof.Machine
end

