-- ==== Sys2Proof/Machine/Drift.lean ====
section
/-! DEFINITION. Drift: moves of tiles, the switch, chain compression, sweeping, and the words that start and inspect them (R307 to
R328, R342). -/

namespace Sys2Proof.Machine

open Sys2Proof

/-- Home of a physical tile, by number: the tower of a ceiling tile, the record stack of an HBM tile (R308, R342). -/
def State.tileHome (s : State) (tile skew : Nat) : Nat :=
  match ceilingTower (tile * 65536) with
  | some t => t
  | none => s.survivor ((s.placeOf (tile * 65536) skew).1 / 32)

/-- The tile lies in a ceiling, whose tower keeps its own mark store (R307). -/
def isCeilingTile (tile : Nat) : Bool := (ceilingTower (tile * 65536)).isSome

/-- Mark records of a store: marks it holds, and those that moves in phase 1 will install (R307, R308). -/
def State.recordsUsed (s : State) (home : Nat) (ceiling : Bool) : Nat :=
  (s.tiles.filter (fun e => e.2.mark.isSome && e.2.home == home && isCeilingTile e.1 == ceiling)).length +
  ((s.tower home).moves.filter (fun m => m.2.phase == 1 && isCeilingTile m.2.src == ceiling)).length

/-- A move in phase 1 names the tile (R308). -/
def State.moving (s : State) (tile : Nat) : Bool :=
  s.towers.any (fun e => e.2.moves.any (fun m => m.2.phase == 1 && (m.2.src == tile || m.2.dst == tile)))

/-- Fields of a dmove descriptor (R323). -/
structure MoveReq where
  src : Nat
  dst : Nat
  tlno : Nat
  dec : Bool
  cnt : Nat
  deriving DecidableEq, Repr

/-- The descriptor's fields. -/
def MoveReq.of (n : Nat) : MoveReq :=
  { src := bits n 63 0, dst := bits n 127 64, tlno := bits n 207 192, dec := bit n 191, cnt := bits n 137 128 }

/-- A tile address that dmove refuses (R323). -/
def tileAddrBad (a : Nat) : Bool := a % 65536 != 0 || bits a 63 56 != 0 || inAperture a

/-- The arbiter's refusals in order (R308, R323): NOTMOV, STOP, BUSY, MARKED, FULL; 0 admits. -/
def State.admission (s : State) (src dst : TlbEntry) (home : Nat) : Nat :=
  let a := src.pa / 65536
  let b := dst.pa / 65536
  if !(s.movable src && s.movable dst) then 3
  else if (s.tower home).st == .shelter || (s.tower home).st == .service then 6
  else if s.moving a || s.moving b then 1
  else if (s.tile a).mark.isSome || (s.tile a).tomb || (s.tile b).mark.isSome then 2
  else if decide (16384 ≤ s.recordsUsed home (isCeilingTile a)) then 4
  else 0

/-- GEN under which an LNO stands (R375). -/
def State.genOf (s : State) (lno : Nat) : Nat := ((s.launch lno).map (·.gen)).getD 0

/-- A mark's owner is the launch that stands under its LNO (R307, R375). -/
def State.owned (s : State) (m : MarkRec) : Bool := (s.launch m.lno).any (fun l => l.gen == m.gen)

/-- A move is admitted (R308): the destination's bits are cleared and it is in arrival state. -/
def State.acceptMove (s : State) (home lno cluster issuer : Nat) (q : MoveReq) (src dst : TlbEntry) : State :=
  let m : Move :=
    { src := src.pa / 65536, dst := dst.pa / 65536, srcVa := q.src, dstVa := q.dst, lno := lno, gen := s.genOf lno, phase := 1, line := 0,
      fwd := [], epoch := 0, dec := q.dec, cnt := q.cnt, cluster := cluster, issuer := issuer, igen := s.genOf issuer }
  let keep (n : Nat) (e : Nat × Move) : Bool := decide (n < e.1 + 257) || decide (e.2.phase < 3)
  let s := s.updTower home (fun t => { t with
    moves := Tbl.set (t.moves.filter (keep t.nextMove)) t.nextMove m, nextMove := t.nextMove + 1 })
  (s.updTile m.dst (fun t => { t with mark := none, tomb := false, arrival := true })).updTile m.src
    (fun t => { t with home := home })

/-- R308, R323. dmove at issue. -/
def dmoveAct (h : Nat) (d : BitVec 7) (e : QEntry) : M Unit := do
  let s ← get
  let p := e.opA.toNat
  let r := s.reqOf h
  let v ← readHome r cSACC (word p) p 32
  modify (fun s => s.countHops (coreOf h) v.2)
  let q := MoveReq.of v.1
  let lno := s.hartLno h
  if bits v.1 255 208 != 0 || bits v.1 190 138 != 0 || tileAddrBad q.src || tileAddrBad q.dst || q.src == q.dst ||
      (q.tlno != 0 && !(s.ctx h).prv) || (q.dec && !s.holdsCounter (s.homeCluster h) lno q.cnt) then
    trapM cOPND (e.word.setWidth 64)
  let answer (v : Nat) : M Unit := modify (fun s => s.setX h d (word v))
  match ← lookEntry r q.src with
  | none => answer (5 * 2 ^ 60)
  | some src =>
    match ← lookEntry r q.dst with
    | none => answer (5 * 2 ^ 60)
    | some dst =>
      match src, dst with
      | none, _ => trapM cSACC (word q.src)
      | some _, none => trapM cSACC (word q.dst)
      | some es, some ed =>
        -- the tile's own leaf: a larger leaf is narrowed to the 64 KiB that the address names
        let es' := { es with pa := es.pa + (q.src - es.va) }
        let ed' := { ed with pa := ed.pa + (q.dst - ed.va) }
        if !(← get).permitted r .load es then trapM cSACC (word q.src)
        if !(← get).permitted r .store ed then trapM cSACC (word q.dst)
        modify (fun s =>
          let home := s.tileHome (es'.pa / 65536) es.skew
          match s.admission es' ed' home with
          | 0 =>
            let seq := (s.tower home).nextMove
            (s.acceptMove home (if q.tlno = 0 then lno else q.tlno) (s.homeCluster h) lno q es' ed').setX h d
              (word (home * 2 ^ 45 + seq % 2 ^ 45))
          | st => s.setX h d (word (st * 2 ^ 60)))

/-- R323. Start a move; x[d] := the arbiter's answer. -/
def execDmove (k : Bool) (d a : BitVec 7) (s : State) : Out1 :=
  issueFront (.dmove k d a) (wordR 0x3C 3 k d.toNat a.toNat 0) (dmoveAct s.turn d) s

/-- The address that dfix gives for a (R324), or its stop: `orig` is the address EVAL reports. -/
def fixAddr (r : Req) (cause : Nat) (orig : Word) (a : Nat) : M Nat := do
  if inAperture a then return a
  match ← chase r .load a 1 0 5 with
  | .ok p => return p.va
  | .error e => stopAccess r .load cause orig e

/-- R324. dfix at issue. -/
def dfixAct (h : Nat) (d : BitVec 7) (e : QEntry) : M Unit := do
  let s ← get
  let p := e.opA.toNat
  let a := p % 2 ^ 56
  let f ← fixAddr (s.reqOf h) cSACC (word a) a
  modify (fun s => s.setX h d (word (p / 2 ^ 56 * 2 ^ 56 + f % 2 ^ 56)))

/-- R324. Resolve a pointer through marks without reading data. -/
def execDfix (k : Bool) (d a : BitVec 7) (s : State) : Out1 :=
  issueFront (.dfix k d a) (wordR 0x3C 4 k d.toNat a.toNat 0) (dfixAct s.turn d) s

/-- R325. One element of vdfix. -/
def Lane.fixIndex (L : Lane) (d b : BitVec 7) : M Unit := do
  let s ← get
  let base := L.e.opA.toNat % 2 ^ 56
  let sum := base + L.val s b
  if 2 ^ 56 ≤ sum then trapM cVACC (word sum)
  let f ← fixAddr (s.vecReqOf L.h) cVACC (word sum) sum
  let n := (f + 2 ^ 64 - base) % 2 ^ 64
  if n < 2 ^ (8 * L.vw) then modify (fun s => s.putElem L.core L.c L.vw d.toNat L.i n noTan)
  else L.raise evSAT 0

/-- R326. dack at issue. -/
def dackAct (h : Nat) (d : BitVec 7) (_ : QEntry) : M Unit :=
  modify (fun s => (s.updCtx h (fun c => { c with tepoch := s.depoch })).setX h d (word s.depoch))

/-- R326. TEPOCH := DEPOCH; x[d] := TEPOCH. -/
def execDack (k : Bool) (d : BitVec 7) (s : State) : Out1 :=
  issueFront (.dack k d) (wordR 0x3C 7 k d.toNat 0 0) (dackAct s.turn d) s

/-- TEPOCH of a task that has started (R317). -/
def State.taskEpoch (s : State) (t : Task) : Nat := if t.st == .running then (s.ctx t.hart).tepoch else t.tepoch

/-- The horizon H of a launch (R317). -/
def State.horizon (s : State) (lno : Nat) : Nat :=
  ((s.tasks.filter (fun e => e.2.lno == lno && e.2.started)).map (fun e => s.taskEpoch e.2)).foldl
    (fun m t => match m with | none => some t | some u => some (min u t)) none |>.getD s.depoch

/-- Sweep the marks of a launch that may be swept (R317, R318): EPOCH below H and PEND = 0.  Marks that an ended launch left under its LNO
are no marks of the one that has it now. -/
def State.sweep (s : State) (lno hz : Nat) : State :=
  { s with tiles := s.tiles.map (fun e =>
    match e.2.mark with
    | some m => if m.lno == lno && s.owned m && decide (m.epoch < hz) && !m.pend then (e.1, { e.2 with mark := none, tomb := true }) else e
    | none => e) }

/-- Valid marks of a launch (R327). -/
def State.marksOf (s : State) (lno : Nat) : Nat :=
  (s.tiles.filter (fun e => match e.2.mark with | some m => m.lno == lno && s.owned m | none => false)).length

/-- R327. dsweep at issue; its wait holds off a pre-emption (R368). -/
def dsweepAct (h : Nat) (d : BitVec 7) (_ : QEntry) : M Unit := do
  let s ← get
  if !(s.olderWords h).isEmpty then waitM .queue
  modify (fun s =>
    let lno := s.hartLno h
    let s := s.sweep lno (s.horizon lno)
    s.setX h d (word (s.marksOf lno)))

/-- R327. Sweep the launch's marks; x[d] := the marks that remain. -/
def execDsweep (k : Bool) (d : BitVec 7) (s : State) : Out1 :=
  issueWith (.dsweep k d) (wordR 0x3C 6 k d.toNat 0 0) true (dsweepAct s.turn d) s

/-- Phase and epoch of a ticket (R328). -/
def State.ticket (s : State) (x : Nat) : Nat :=
  let t := s.tower (bits x 47 45)
  let n := bits x 44 0
  if n + 256 < t.nextMove then 0
  else match Tbl.find t.moves n with
    | some m => m.phase * 2 ^ 60 + (if m.phase = 2 || m.phase = 3 then m.epoch % 2 ^ 48 else 0)
    | none => 0

/-- What dstat reports of the tile of an address (R328): selector 4, or 5. -/
def State.tileReport (s : State) (pa : Nat) (sel5 : Bool) : Nat :=
  if isHostPa pa then 0
  else
    let tile := pa / 65536
    let t := s.tile tile
    match t.mark with
    | some m => 2 ^ 63 + (if sel5 then m.epoch % 2 ^ 48 else b2n (s.moving tile) * 2 ^ 61 + m.dest / 65536 * 65536)
    | none => if sel5 then 0 else b2n t.tomb * 2 ^ 62 + b2n (s.moving tile) * 2 ^ 61

/-- R328. dstat at issue. -/
def dstatAct (h : Nat) (d : BitVec 7) (e : QEntry) : M Unit := do
  let s ← get
  let lno := s.hartLno h
  let x := e.opA.toNat
  let give (v : Nat) : M Unit := modify (fun s => s.setX h d (word v))
  match e.opB.toNat with
  | 0 => give s.depoch
  | 1 => give (s.ctx h).tepoch
  | 2 => give (s.horizon lno)
  | 3 => give (s.ticket x)
  | 4 | 5 =>
    let va := x % 2 ^ 56
    if inAperture va then give 0
    else
      match ← translate (s.reqOf h) .load va with
      | .perm => trapM cSACC (word va)
      | .miss host => throw (.page { va := va, host := host } (needOf .load (s.ctx h).prv))
      | .ok pa _ => modify (fun s => s.setX h d (word (s.tileReport pa (e.opB == 5))))
  | _ => give (s.marksOf lno)

/-- R328. x[d] := the Drift state that the selector names. -/
def execDstat (k : Bool) (d a b : BitVec 7) (s : State) : Out1 :=
  issueFront (.dstat k d a b) (wordR 0x3C 8 k d.toNat a.toNat b.toNat) (dstatAct s.turn d) s

/-- Move n of a tower's arbiter. -/
def State.move (s : State) (tw n : Nat) : Option Move := Tbl.find (s.tower tw).moves n

/-- Change move n of a tower's arbiter. -/
def State.updMove (s : State) (tw n : Nat) (m : Move) : State := s.updTower tw (fun t => { t with moves := Tbl.set t.moves n m })

/-- R308. The engine copies the next line of a move in phase 1; a poisoned line stays poisoned. -/
def execDriftCopyLine (tw n : Nat) (s : State) : Out1 :=
  match s.move tw n with
  | none => .next s
  | some m =>
    if m.phase != 1 || decide (256 ≤ m.line) then .next s
    else
      let from' := m.src * 65536 + 256 * m.line
      let into := m.dst * 65536 + 256 * m.line
      let bad := s.poisoned from' 256
      let s := s.updMove tw n { m with line := m.line + 1 }
      let s := s.writePa none into (toBytes 256 (s.mem.readN from' 256))
      .next (if bad then { s with poison := Tbl.set s.poison (into / 256) true } else s)

/-- The record's DEST is the tile that a move has taken its source from, as the tables of the record's launch map it; where they map
nothing there, or the record's launch is gone, by its own launch's address (R312). -/
def State.names (s : State) (m : Move) (r : MarkRec) : Bool :=
  let same := r.lno == m.lno && r.gen == m.gen && r.dest == m.srcVa
  if !s.owned r then same
  else match s.walk r.lno [] r.dest 4 (s.rootOf r.lno) [] with
    | .leaf e _ => (e.pa + (r.dest - e.va)) / 65536 == m.src
    | _ => same

/-- PEND of every record (R309, R312): it is that of a move still to compress, or such a move rewrites it. -/
def State.repend (s : State) : State :=
  let ms := s.towers.flatMap (fun e => (e.2.moves.filter (fun m => m.2.phase == 2)).map Prod.snd)
  { s with tiles := s.tiles.map (fun e =>
    match e.2.mark with
    | some r => (e.1, { e.2 with mark := some { r with pend := ms.any (fun m => s.names m r || m.src == e.1) } })
    | none => e) }

/-- Marks of launches that have ended go as soon as their PEND is 0 (R318). -/
def State.sweepEnded (s : State) : State :=
  { s with tiles := s.tiles.map (fun e =>
    match e.2.mark with
    | some r => if !r.pend && !(s.owned r && (s.launch r.lno).any (·.live)) then (e.1, { e.2 with mark := none, tomb := true }) else e
    | none => e) }

/-- No scalar L1 keeps a line of a physical tile. -/
def State.dropTile (s : State) (tile : Nat) : State :=
  { s with mmu := { s.mmu with l1 := s.mmu.l1.map (fun e => (e.1, e.2.filter (fun l => l.line / 1024 != tile))) } }

/-- R309. The switch of a move whose 256 lines are copied: one event at the old home.  From then on the destination's bytes are the moved
ones, so no L1 line filled there before may serve a redirected load (R289). -/
def execSwitch (tw n : Nat) (s : State) : Out1 :=
  match s.move tw n with
  | none => .next s
  | some m =>
    if m.phase != 1 || m.line != 256 then .next s
    else
      let e := s.depoch
      let s := { s with depoch := (e + 1) % 2 ^ 48 }
      let r : MarkRec := { lno := m.lno, gen := m.gen, epoch := e, pend := true, dest := m.dstVa }
      let s := s.updTile m.src (fun t => { t with mark := some r, va := m.srcVa })
      let s := m.fwd.foldl (fun s w => s.writePa none w.1 [w.2]) s
      let s := (s.updTile m.dst (fun t => { t with arrival := false })).dropTile m.dst
      let s := s.snapSwitch m.src m.dst
      let gone (t : Hart) : Hart := match t.resv with
        | some b => if b / 1024 = m.src then { t with resv := none } else t
        | none => t
      let s := { s with harts := s.harts.map (fun (h : Nat × Hart) => (h.1, gone h.2)) }
      .next (s.updMove tw n { m with phase := 2, epoch := e, fwd := [] }).repend

/-- R308, R312. The compression of a switched move: every record that names its source takes the source's own destination; CNT is
decremented for the launch that issued the move (R323). -/
def execChainCompression (tw n : Nat) (s : State) : Out1 :=
  match s.move tw n with
  | none => .next s
  | some m =>
    if m.phase != 2 then .next s
    else
      let dest := ((s.tile m.src).mark.map (·.dest)).getD m.dstVa
      let fix (r : MarkRec) : MarkRec := if s.names m r then { r with dest := dest } else r
      let s := { s with tiles := s.tiles.map (fun (e : Nat × TileMark) => (e.1, { e.2 with mark := e.2.mark.map fix })) }
      let s := (s.updMove tw n { m with phase := 3 }).repend
      .next (if m.dec && s.genOf m.issuer == m.igen then s.decHeld m.cluster m.issuer m.cnt else s).sweepEnded

end Sys2Proof.Machine
end

