-- ==== Sys2Proof/Machine/System.lean ====
section
/-! DEFINITION. System words: control registers, fences, drains, traps, time, TLB invalidation and the configuration words of the
vector unit (R25, R26, R46, R47, R130 to R142, R319, R320, R344, R345). -/

namespace Sys2Proof.Machine

open Sys2Proof

/-- The waits of vdrain (R132): an empty queue, then every engine transfer of the task. -/
def needDrained (h : Nat) : M Unit := do
  needEmpty h
  let s ← get
  match (s.hart h).task with
  | some t => if !s.transfersDone t then waitM .transfers
  | none => pure ()

/-- A copy-fault latch raises COPY at the word whose waits are done, and is cleared (R44, R246; log 25). -/
def reportCopyFault (h : Nat) : M Unit := do
  let s ← get
  match (s.ctx h).copyFault with
  | some a => do
    set (s.updCtx h (fun c => { c with copyFault := none }))
    throw (.trap cCOPY a true)
  | none => pure ()

/-- R132. Wait for the queue and for every memory effect of older vector words. -/
def execVdrain (k : Bool) (s : State) : Out1 :=
  scalarWord k (wordI 0x1D k 0 0 0x100) s (do
    let h := s.turn
    needDrained h
    reportCopyFault h
    modify (fun s => (s.drainReads h).retire h))

/-- R130, R125. An acquire fence at a scope. -/
def execFenceAcq (k : Bool) (c : BitVec 3) (s : State) : Out1 :=
  scalarWord k (wordI 0x1D k 0 0 (0x110 + c.toNat)) s (modify (fun s => (s.acquire s.turn c.toNat).retire s.turn))

/-- R130, R131. A release fence at a scope. -/
def execFenceRel (k : Bool) (c : BitVec 3) (s : State) : Out1 :=
  scalarWord k (wordI 0x1D k 0 0 (0x120 + c.toNat)) s (do
    needRelease s.turn
    modify (fun s => s.retire s.turn))

/-- R130. Both orders at a scope. -/
def execFence (k : Bool) (c : BitVec 3) (s : State) : Out1 :=
  scalarWord k (wordI 0x1D k 0 0 (0x130 + c.toNat)) s (do
    needRelease s.turn
    modify (fun s => (s.acquire s.turn c.toNat).retire s.turn))

/-- R134. Raise TRAP with EVAL := x[a]. -/
def execTrap (k : Bool) (a : BitVec 7) (s : State) : Out1 :=
  scalarWord k (wordI 0x1D k 0 a.toNat 0x140) s (trapM cTRAP (s.x s.turn a))

/-- Bytes of the task's own frame can be read: a poisoned line of them ends the task (R48, R412). -/
def needClean (pa len : Nat) : M Unit := do
  let s ← get
  if s.poisoned pa len then throw (.term cUNCORR (word pa))

/-- R46. Return from a trap handler; ILL outside one, before K is looked at (R90). -/
def execTret (k : Bool) (s : State) : Out1 :=
  let w := wordI 0x1D k 0 0 0x141
  if !(s.ctx s.turn).inh then .next (s.trapEntry s.turn cILL (word w))
  else scalarWord k w s (do
    let h := s.turn
    needEmpty h
    needClean ((s.ctx h).frm + trapArea) (trapDump + 512 - trapArea)
    modify (fun s => s.trapReturn h))

/-- A Contrail stop of hart h (R134, R214): a precise stop whose queue stays on the hart and is reissued on resumption. -/
def State.contrailStop (s : State) (h why : Nat) : State :=
  (s.stopHart h).updHart h (fun t => { t with held := some why })

/-- The code under which ebrk holds a hart; 0 to 3 are the comparators. -/
def heldByEbrk : Nat := 4

/-- R134. A Contrail stop where a debugger is attached, EBRK otherwise. -/
def execEbrk (k : Bool) (s : State) : Out1 :=
  scalarWord k (wordI 0x1D k 0 0 0x142) s (do
    let h := s.turn
    if (s.hart h).dbg then
      if !s.stoppable h then waitM .entry
      set (s.contrailStop h heldByEbrk)
    else trapM cEBRK (s.pc h))

/-- The hart would take another task if it gave this one up now (R135, R366): the candidate once the task is READY with its priority
in its frame. -/
def State.yieldsTo (s : State) (h : Nat) : Bool :=
  match (s.hart h).task with
  | none => false
  | some me =>
    let c := s.ctx h
    let after := ((s.putFields c.frm [(0x200 + 8 * 0x031, 8, c.tstat)]).updTask me
      (fun t => { t.toReady s.time with hart := h })).setHart h (s.hart h).vacate
    match after.candidate h with
    | some (_, .task tid) => tid != me
    | some (_, .fresh _ _ _) => true
    | none => false

/-- R135. A pre-emption point: swap out where the scheduler would place another ready task here.
DEDUCED (log 93): the reservation ends at every yield (R129). -/
def execYield (k : Bool) (s : State) : Out1 :=
  scalarWord k (wordI 0x00 k 0 0 0x101) s (do
    let h := s.turn
    let t := s.retire h
    if t.yieldsTo h then
      if !s.savable h then waitM .transfers
      set (t.swapOut h .ready .none)
    else set (t.updHart h (fun t => { t with resv := none })))

/-- R136. Drain, leave the hart and take it out of service; PRIV at task privilege.  DESIGN CHOICE (log 25): a set copy-fault latch
is not reported here; it goes with the context. -/
def execHalt (k : Bool) (s : State) : Out1 :=
  let w := wordI 0x00 k 0 0 0x100
  supervisor w s (scalarWord k w s (do
    let h := s.turn
    needDrained h
    modify (fun s => ((s.retire h).swapOut h .ready .none).updHart h (fun t => { t with halted := true }))))

/-- Drop the cached translations of an address, or all of them, at every level (R137, R345). -/
def Mmu.invalidate (m : Mmu) (all : Bool) (va : Nat) : Mmu :=
  let keepE (e : TlbEntry) : Bool := !all && !(decide (e.va ≤ va) && decide (va < e.va + 2 ^ e.size))
  let keepW (e : WalkEntry) : Bool := !all && e.va != va / 2 ^ levelShift e.level
  let f (t : Tbl (List TlbEntry)) : Tbl (List TlbEntry) := t.map (fun e => (e.1, e.2.filter keepE))
  let g (t : Tbl (List WalkEntry)) : Tbl (List WalkEntry) := t.map (fun e => (e.1, e.2.filter keepW))
  { m with tlb1 := f m.tlb1, tlb2 := f m.tlb2, tlbBase := f m.tlbBase, walk2 := g m.walk2, walkBase := g m.walkBase }

/-- The destination of an aborted move: its bytes are unspecified (R308; free, log 28). -/
def State.spoilTile (s : State) (tile : Nat) : State :=
  { s with mem := s.mem.writeBytes (tile * 65536) ((List.range 65536).map (fun k => Config.freeByte (s.fresh + k))), fresh := s.fresh + 65536 }

/-- An unmap reaches the arbiters (R319, R320): moves in phase 1 that name the tile abort, a mark or tomb under that address goes.
DESIGN CHOICE (log 24): tiles are found by the virtual address under which they moved. -/
def State.unmapTile (s : State) (va : Nat) : State :=
  let v := va / 65536 * 65536
  let hit (m : Move) : Bool := m.phase == 1 && (m.srcVa == v || m.dstVa == v)
  let arrivals := s.towers.flatMap (fun e => (e.2.moves.filter (fun m => hit m.2)).map (fun m => m.2.dst))
  let abortIn (t : Tower) : Tower :=
    { t with moves := t.moves.map (fun m => (m.1, if hit m.2 then { m.2 with phase := 4 } else m.2)) }
  let clean (e : Nat × TileMark) : Nat × TileMark :=
    let t : TileMark := if arrivals.contains e.1 then { e.2 with arrival := false } else e.2
    (e.1, if t.va == v && (t.mark.isSome || t.tomb) then { t with mark := none, tomb := false } else t)
  arrivals.foldl State.spoilTile { s with towers := s.towers.map (fun e => (e.1, abortIn e.2)), tiles := s.tiles.map clean }

/-- R137, R345. Invalidate translations at every level; supervisor only.  It retires once no access that a release has seen translated
is still to be performed with them. -/
def execTlbinv (k : Bool) (a : BitVec 7) (s : State) : Out1 :=
  let w := wordI 0x00 k 0 a.toNat 0x102
  supervisor w s (scalarWord k w s (do
    let x := (s.x s.turn a).toNat
    if bits x 62 56 != 0 then trapM cOPND (word w)
    let all := bit x 63
    let va := x % 2 ^ 56
    let covers (e : TlbEntry) : Bool := all || (decide (e.va ≤ va) && decide (va < e.va + 2 ^ e.size))
    if s.harts.any (fun e => (s.kept e.1).any covers) then waitM .older
    modify (fun s =>
      let s := State.unpin { s with mmu := s.mmu.invalidate all va } all va
      (if all then s else s.unmapTile va).retire s.turn)))

/-- A queue word of hart h is past the Gust gate (R138, R193): its convoy is released, or it is the multiplying word whose job the
gate has released. -/
def State.dispatched (s : State) (h : Nat) (q : List QEntry) : Bool :=
  let begun (e : QEntry) : Bool := match (s.core (coreOf h)).job with
    | some j => j.hart == h && j.seq == e.seq && (e.instr.map isMmul).getD false && (j.pending || j.granted || decide (0 < j.passes))
    | none => false
  q.all (fun e => e.done || begun e)

/-- A time or counter read waits until every older vector word is past the Gust gate (R138). -/
def needDispatched (h : Nat) : M Unit := do
  let s ← get
  let q := (s.hart h).queue
  if !s.dispatched h (if (s.hart h).released then afterFirst q else q) then waitM .older

/-- R138. x[d] := the cluster's arithmetic-clock cycles. -/
def execRdcyc (k : Bool) (d : BitVec 7) (s : State) : Out1 :=
  scalarWord k (wordI 0x00 k d.toNat 0 0x104) s (do
    needDispatched s.turn
    retireWith s.turn d (word (s.cluster (hartCluster s.turn)).cyc))

/-- R138. x[d] := the package timebase. -/
def execRdtime (k : Bool) (d : BitVec 7) (s : State) : Out1 :=
  scalarWord k (wordI 0x00 k d.toNat 0 0x105) s (do
    needDispatched s.turn
    retireWith s.turn d (word s.time))

/-- R138. x[d] := event counter n of the core. -/
def execRdctr (k : Bool) (d : BitVec 7) (n : BitVec 4) (s : State) : Out1 :=
  scalarWord k (wordI 0x00 k d.toNat 0 (0x110 + n.toNat)) s (do
    needDispatched s.turn
    retireWith s.turn d (word (s.counter (coreOf s.turn) n.toNat)))

/-- Registers whose cget and cset wait for an empty queue (R26). -/
def waitsForQueue (sel : Nat) : Bool :=
  sel == 0x002 || sel == 0x005 || sel == 0x006 || (decide (0x008 ≤ sel) && decide (sel ≤ 0x00D)) ||
  (decide (0x010 ≤ sel) && decide (sel ≤ 0x015)) || sel == 0x018 || sel == 0x022 || sel == 0x028

/-- Address of half `hi` of the trap-area dump entry that TDSEL names (R47). -/
def State.trapEntryAddr (s : State) (h : Nat) (hi : Bool) : Nat :=
  (s.ctx h).frm + trapDump + 16 * ((s.ctx h).tdsel % 32) + (if hi then 8 else 0)

/-- R133, R25, R26, R47. x[d] := the control register the select names. -/
def execCget (k : Bool) (d : BitVec 7) (c : BitVec 8) (s : State) : Out1 :=
  let sel := c.toNat
  let w := wordI 0x1E k d.toNat 0 sel
  if !assignedSelect sel then .next (s.trapEntry s.turn cILL (word w))
  else scalarWord k w s (do
    let h := s.turn
    if waitsForQueue sel then needEmpty h
    if sel == 0x03B || sel == 0x03C then
      if !(s.ctx h).inh then trapM cOPND (word w)
      needClean (s.trapEntryAddr h (sel == 0x03C)) 8
      retireWith h d (word (s.mem.readN (s.trapEntryAddr h (sel == 0x03C)) 8))
    else retireWith h d (word (s.ctrl h sel)))

/-- A register with an S-write field (R25): STRM, PKEY, TSTAT. -/
def sWrite (sel : Nat) : Bool := sel == 0x021 || sel == 0x023 || sel == 0x031

/-- Write a control register field by field (R6, R25, R133); a register whose fields are all RO discards it. -/
def Ctx.setCtrl (c : Ctx) (sel : Nat) (v : Word) : Ctx :=
  let n := v.toNat
  match sel with
  | 0x002 => { c with vs := bits n 11 0 }
  | 0x005 => { c with fv := c.fv &&& (63 ^^^ bits n 5 0) }
  | 0x006 => { c with ft := c.ft &&& (63 ^^^ bits n 5 0) }
  | 0x020 => { c with key := v }
  | 0x021 => { c with strm := v }
  | 0x022 => { c with srq := v }
  | 0x023 => { c with pkey := v }
  | 0x030 => { c with tvec := word (bits n 55 2 * 4) }
  | 0x031 => { c with prio := bits n 3 2 }
  | 0x032 => { c with epc := v }
  | 0x033 => { c with ecp := v }
  | 0x034 => { c with evs := v }
  | 0x037 => { c with enqN := bits n 37 32, enqSeq0 := bits n 15 0 }
  | 0x03A => { c with tdsel := bits n 4 0 }
  | _ => c

/-- R133, R25, R26, R47. Write x[a] into the control register the select names. -/
def execCset (k : Bool) (a : BitVec 7) (c : BitVec 8) (s : State) : Out1 :=
  let sel := c.toNat
  let w := wordI 0x1F k 0 a.toNat sel
  if !assignedSelect sel then .next (s.trapEntry s.turn cILL (word w))
  else if sWrite sel && !(s.ctx s.turn).prv then .next (s.trapEntry s.turn cPRIV (word w))
  else scalarWord k w s (do
    let h := s.turn
    let v := s.x h a
    if waitsForQueue sel then needEmpty h
    if sel == 0x03B || sel == 0x03C then
      if !(s.ctx h).inh then trapM cOPND (word w)
      modify (fun s => (s.writePa none (s.trapEntryAddr h (sel == 0x03C)) (toBytes 8 v.toNat)).retire h)
    else modify (fun s => (s.updCtx h (fun c => c.setCtrl sel v)).retire h))

/-- A VT value holds a reserved code (R140). -/
def vtBad (t : Nat) : Bool :=
  decide (4 < bits t 29 27) || decide (bits t 12 9 < 5) || decide (10 < bits t 12 9) ||
  (decide (5 ≤ bits t 3 0) && decide (bits t 3 0 ≤ 7))

/-- R140. Load VT; x[d] := VLMAX of the new VT. -/
def execVcfg (k : Bool) (d a : BitVec 7) (s : State) : Out1 :=
  let w := wordR 0x2F 0 k d.toNat a.toNat 0
  scalarWord k w s (do
    let h := s.turn
    let t := bits (s.x h a).toNat 31 0
    needEmpty h
    if vtBad t then trapM cOPND (word w)
    let m := ({ Ctx.reset with vt := t } : Ctx).vlmax
    modify (fun s => s.updCtx h (fun c => { c with vt := t, vl := min c.vl m, vs := 0 }))
    retireWith h d (word m))

/-- R141. Set VL, close the strip, renegotiate lane groups; x[d] := VL. -/
def execVgrant (k : Bool) (d a : BitVec 7) (s : State) : Out1 :=
  scalarWord k (wordR 0x2F 2 k d.toNat a.toNat 0) s (do
    let h := s.turn
    needEmpty h
    let vl := min (s.x h a).toNat (s.ctx h).vlmax
    modify (fun s => ((s.nextStrip h).updCtx h (fun c => { c with vl := vl, vs := 0 })).retarget (coreOf h))
    retireWith h d (word vl))

/-- R142. WB := x[a] where the window rule admits it. -/
def execWbase (k : Bool) (a : BitVec 7) (s : State) : Out1 :=
  let w := wordR 0x2F 4 k 0 a.toNat 0
  scalarWord k w s (do
    let h := s.turn
    needEmpty h
    let x := (s.x h a).toNat
    if x % 64 != 0 || (s.ctx h).vcount < x + 128 then trapM cOPND (word w)
    modify (fun s => (s.updCtx h (fun c => { c with wb := x })).retire h))

end Sys2Proof.Machine
end

