-- ==== Sys2Proof/Machine/Convoy.lean ====
section
/-! DEFINITION. Convoys: the Gust gate that releases them, the commit of their elements, and remote elements (R32, R37 to R39, R154,
R170, R186, R187, R193 to R200, R203, R214, R235, R244, R249). -/

namespace Sys2Proof.Machine

open Sys2Proof

/-- An SR-rounding word under the VT it issues with (R32). -/
def isSr (c : Ctx) (e : QEntry) (i : Instr) : Bool :=
  c.rm == .sr &&
  (match i with
   | .vadd .. | .vsub .. | .vmul .. | .vdiv .. | .vaddVx .. | .vsubVx .. | .vmulVx .. | .vdivVx .. | .vfma .. | .vfms .. | .vfnma ..
   | .vfnms .. | .vfmaVx .. | .vfmsVx .. | .vfnmaVx .. | .vfnmsVx .. | .vsqrt .. | .vrsqrt .. | .vexp .. | .vlog .. | .vtanh ..
   | .vsigmoid .. | .vtget .. | .vfgu .. | .vldnp .. | .mdrain .. | .mdrainS .. | .mdrainX .. => true
   | .vmin .. | .vmax .. | .vminVx .. | .vmaxVx .. | .vabs .. | .vneg .. | .vrelu .. => decide (0 < c.b) && !c.tm
   | .vcvtTo _ _ _ f _ | .vcvtFrom _ _ _ f _ => isFloat c.ew || isFloat f.toNat
   | .vid .. | .vredsum .. | .vaadd .. | .vaaddO .. => isFloat c.ew
   | .vseed .. => bits e.opB.toNat 5 4 == 0
   | .vtset .. => !c.tm
   | _ => false)

/-- The entry is an SR word that has not completed. -/
def QEntry.srOpen (e : QEntry) (c : Ctx) : Bool := !e.done && (match e.instr with | some i => isSr c e i | none => false)

/-- Elements that a word acts on, from 0 (R29, R182, R184). -/
def spanOf (c : Ctx) : Instr → Nat
  | .hset .. => min 1 c.vl
  | .vscl .. => c.scaleCount
  | _ => c.vl

/-- The word acts once (R37). -/
def QEntry.once (e : QEntry) (c : Ctx) : Bool := (e.desc c).any (fun v => v.kind == .once)

/-- Elements of a convoy: the most that a member that is not done and does not act once has. -/
def convoySpan (c : Ctx) (ms : List QEntry) : Nat :=
  (ms.filter (fun e => !e.done && !e.once c)).foldl (fun n e => max n ((e.instr.map (spanOf c)).getD 0)) 0

/-- What one word does to one element, or at once (R37). -/
def Lane.perform (L : Lane) (i : Instr) : M Unit :=
  match i with
  | .vdfix _ d _ b => L.fixIndex d b
  | .mdrain .. | .mdrainS .. | .mdrainX .. => L.drainWord i
  | .cpl .. | .cpgo .. | .cpv .. => L.copyWord i
  | _ =>
    match (vword L.c i).map VWord.pipe with
    | some .A | some .B => L.arith i
    | some .L | some .S => L.memory i
    | _ => pure ()

/-- Key of the landed bit of element j of register n under a value width (R20, R186). -/
def Ctx.rowKey (c : Ctx) (vw : Nat) (n : BitVec 7) (j : Nat) : Nat := 8 * c.phys n.toNat + j / c.rowOf vw

/-- Keys of the landed bits that element L.i of a word needs (R186): those of the elements that it reads or writes, none where the mask
leaves it out. -/
def Lane.rowsNeeded (L : Lane) (s : State) (v : VWord) (w : Instr) : List Nat :=
  let c := L.c
  let on := L.active v.masked
  let key (n : BitVec 7) (j : Nat) : Nat := c.rowKey L.vw n j
  match w with
  | .vredsum _ d a m | .vredmax _ d a m | .vredmin _ d a m | .vredand _ d a m | .vredor _ d a m | .vredxor _ d a m =>
    (if on then [key a L.i] else []) ++
    (if L.i + 1 = c.vl then key d 0 :: ((List.range c.vl).filter (fun j => ({ L with i := j } : Lane).active m)).map (key a) else [])
  | .vslideup _ d a _ _ => if on && decide (L.e.opA.toNat ≤ L.i) then [key d L.i, key a (L.i - L.e.opA.toNat)] else []
  | .vslidedn _ d a _ _ =>
    if on then key d L.i :: (if L.i + L.e.opA.toNat < c.vl then [key a (L.i + L.e.opA.toNat)] else []) else []
  | .vshuf _ d a b _ => if on then [key d L.i, key b L.i] ++ (if L.val s b < c.vl then [key a (L.val s b)] else []) else []
  | .vcompress _ d a =>
    if bit (c.mask c.msel) L.i then [key d (popcount L.i (c.mask c.msel)), key a L.i] else []
  | .vfgu _ d a _ _ => if on then key d L.i :: (List.range c.b).map (key a) else []
  | .vcvtTo _ d a f _ => if on then [c.rowKey (vwOf f.toNat) d L.i, key a L.i] else []
  | .vcvtFrom _ d a f _ => if on then [key d L.i, c.rowKey (vwOf f.toNat) a L.i] else []
  | _ =>
    if on then (v.writes ++ v.reads).filterMap (fun r => match r with | .v n => some (8 * c.phys n + L.i / c.rowOf L.vw) | _ => none)
    else []

/-- Wait until the rows have landed (R186). -/
def needLanded (core : Nat) (rows : List Nat) : M Unit := do
  let s ← get
  let u := (s.core core).unlanded
  if !u.isEmpty && rows.any (Tbl.get false u) then waitM .landed

/-- Mark the entry at place n of hart h's queue complete. -/
def State.markDone (s : State) (h n : Nat) : State :=
  s.updHart h (fun t => { t with queue := updNth (fun e => { e with done := true }) n t.queue })

/-- The whole of the spaces that an address may reach (R187): the virtual space, and with the aperture the cluster's buffers. -/
def wholeSpace (core : Nat) (write : Bool) : List Interval :=
  ivOf 0 0 write (some (0, 2 ^ 56 - 1)) ++
  (List.range 8).flatMap (fun k => [2, 3].flatMap (fun sp => ivOf sp (core / 8 * 8 + k) write (some (0, 2 ^ 24 - 1))))

/-- The span of n accesses of len bytes at f 0 … f (n-1). -/
def spanOver (f : Nat → Nat) (n len : Nat) : Option (Int × Int) :=
  if n = 0 then none
  else
    let as := (List.range n).map f
    some ((as.foldl min (f 0) : Nat), (as.foldl max (f 0) + len - 1 : Nat))

/-- The address ranges of a memory word (R187): from its lowest to its highest possible byte, its addresses taken modulo 2^64 (R168); the
whole space for an indexed word. -/
def Lane.ranges (L : Lane) (s : State) (i : Instr) : List Interval :=
  let c := L.c
  let va (write : Bool) (sp : Option (Int × Int)) : List Interval := ivOf 0 0 write sp
  let buf (space : Nat) (r : Bool) (xp : Nat) (write : Bool) : List Interval :=
    ivOf space (L.bufCore r) write (spanOver (L.bufOff xp) c.vl c.rs)
  let strip (a : BitVec 5) (pos : Nat → Nat) (write : Bool) : List Interval :=
    let n := L.handle a
    if hWrap n && hLen n == 0 then [] else va write (spanOver (fun j => streamAddr n (pos n) (j * c.rs)) c.vl c.rs)
  match i with
  | .vld .. => va false (spanOver (L.address s .unit) c.vl c.rs)
  | .vst .. | .vstU .. => va true (spanOver (L.address s .unit) c.vl c.rs)
  | .mdrain .. => va true (spanOver (L.drainAddr s (s.anvil L.core).shape.ng .unit) c.vl c.rs)
  | .vlds .. => va false (spanOver (L.address s .strided) c.vl c.rs)
  | .vsts .. => va true (spanOver (L.address s .strided) c.vl c.rs)
  | .mdrainS .. => va true (spanOver (L.drainAddr s (s.anvil L.core).shape.ng .strided) c.vl c.rs)
  | .vldx .. => va false (some (0, 2 ^ 56 - 1))
  | .vstx .. | .vstxU .. | .mdrainX .. => va true (some (0, 2 ^ 56 - 1))
  | .vldw _ _ _ p _ _ => buf 1 false p.toNat false
  | .vlda _ _ _ r p _ _ => buf 2 r p.toNat false
  | .vldc _ _ _ r p _ _ => buf 3 r p.toNat false
  | .vstw .. => buf 1 false 0 true
  | .vsta _ _ _ r _ _ => buf 2 r 0 true
  | .vstc _ _ _ r _ _ => buf 3 r 0 true
  | .vaadd .. | .vaaddO .. | .vaswap .. | .vaswapO .. | .vamax .. | .vamaxO .. | .vamin .. | .vaminO .. | .vamaxn ..
  | .vamaxnO .. | .vaminn .. | .vaminnO .. | .vaand .. | .vaandO .. | .vaor .. | .vaorO .. => wholeSpace L.core true
  | .vsld _ _ a _ | .vbind _ _ a => strip a hPos false
  | .vsst _ _ a _ => strip a hPos true
  | .vunbind _ _ a => strip a hBpos true
  | .hset .. => va false (spanOver (fun _ => L.e.opA.toNat) (min 1 c.vl) 32)
  | .vscl .. => va false (spanOver (fun j => (L.e.opA + word j * L.e.opB).toNat) c.scaleCount 1)
  | .vldnp _ _ _ p q _ => va false (spanOver (fun k => L.npAddr (p.toNat + 1) (k % q.toNat) (k / q.toNat)) (q.toNat * c.vl) 16)
  | _ => []

/-- A memory word of hart h's convoy in flight waits for a copy that its own convoy has accepted: its events stand after the copy's
(R187, R244, R279; log 49). -/
def needTransfers (L : Lane) (i : Instr) : M Unit := do
  let s ← get
  let es := (s.core L.core).interlock.filter (fun e => e.hart == L.h && e.kind != 2)
  if !es.isEmpty && es.any (fun e => e.ivs.any (fun a => (L.ranges s i).any a.clash)) then waitM .interlock

/-- The member at place n performs element i: `older` of its SR elders are still to complete.  Answers whether it did, and whether the
element was active. -/
def memberStep (h i n older : Nat) : M (Option Bool) := do
  let s ← get
  match (firstConvoy (s.hart h).queue)[n]? with
  | none => return none
  | some e =>
    if e.done then return none
    let c := s.ctx h
    let L : Lane := { h := h, core := coreOf h, i := i, c := { c with srq := c.srq + word older }, e := e, pos := n }
    match e.instr with
    | none => return none
    | some w =>
      match vword c w with
      | none => return none
      | some v =>
        if v.kind == .once then
          L.perform w
          modify (fun s => s.markDone h n)
          return none
        else if i < spanOf c w then
          needTransfers L w
          needLanded (coreOf h) (L.rowsNeeded s v w)
          L.perform w
          modify (fun s => s.count (coreOf h) 3 1)
          return some (L.active v.masked)
        else return none

/-- What the member at place n does once every member has performed element i (R178). -/
def memberMarks (h i n : Nat) (was : Option Bool) : M Unit := do
  let s ← get
  match was, (firstConvoy (s.hart h).queue)[n]? with
  | some w, some e =>
    match e.instr with
    | some d => ({ h := h, core := coreOf h, i := i, c := s.ctx h, e := e, pos := n } : Lane).markWord w d
    | none => pure ()
  | _, _ => pure ()

/-- Members by place, with the number of SR elders that each has (R32). -/
def withElders (c : Ctx) (place : Nat) : Nat → List QEntry → List (Nat × Nat)
  | _, [] => []
  | n, e :: q => (place, n) :: withElders c (place + 1) (if e.srOpen c then n + 1 else n) q

/-- Element i of every member of the convoy at CP, in convoy order (R37); full-empty bits follow it (R178). -/
def elementStep (h i : Nat) : M Unit := do
  let s ← get
  let ms := withElders (s.ctx h) 0 0 (firstConvoy (s.hart h).queue)
  let was ← ms.mapM (fun p => memberStep h i p.1 p.2)
  (ms.zip was).forM (fun p => memberMarks h i p.1.1 p.2)

/-- Before any element of a convoy has an effect: the checks of its members, those of a copy word against its program among them (R170,
R241).  A convoy that acts on no element has no accesses to check (R29), so it completes where it stands. -/
def firstChecks (h span : Nat) : M Unit := do
  let s ← get
  let c := s.ctx h
  (firstConvoy (s.hart h).queue).forM (fun e => do
    match e.instr with
    | some w =>
      let L : Lane := { h := h, core := coreOf h, i := c.vs, c := c, e := e }
      if !e.done then
        match copyGroup w with
        | some g => if L.copyBad s g then trapM cOPND (e.word.setWidth 64)
        | none => if decide (c.vs < span) && L.execBad w then trapM cOPND (e.word.setWidth 64)
    | none => pure ())

/-- The hart's task has no older vector-side event still to perform: no copy and no gather (R277). -/
def State.sideDone (s : State) (h : Nat) : Bool :=
  match (s.hart h).task with
  | some t => s.transfersDone t
  | none => true

/-- Members in order, before any element: a copy word is accepted, and is complete from then on (R241); a releasing vector atomic waits
until the hart's older vector-side events are performed, those of a copy before it in the convoy among them, and then makes its release
(R180, R277).  DESIGN CHOICE (log 120): the release is made whatever the mask holds.  Answers whether the members may begin. -/
def State.openMembersOf (s : State) (h span : Nat) : List (QEntry × Nat) → State × Bool
  | [] => (s, true)
  | (e, n) :: rest =>
    match e.instr with
    | none => s.openMembersOf h span rest
    | some w =>
      let c := s.ctx h
      if e.done then s.openMembersOf h span rest
      else match copyGroup w with
      | some g =>
        let L : Lane := { h := h, core := coreOf h, i := c.vs, c := c, e := e, pos := n }
        ((s.runM (L.copyAccept g)).markDone h n).openMembersOf h span rest
      | none =>
        if releasesFirst w e && decide (c.vs < span) then
          if s.sideDone h then (s.releaseReads h).openMembersOf h span rest else (s, false)
        else s.openMembersOf h span rest

/-- A word whose elements read memory or, without a full-empty wait, a typed buffer (R287): the core whose buffers it reads. -/
def Lane.snapCore (L : Lane) (i : Instr) : Option Nat :=
  match i with
  | .vld .. | .vlds .. | .vldx .. | .vsld .. | .vbind .. | .vldnp .. | .vscl .. => some L.core
  | .vldw _ _ _ _ e _ => if e = 0 then some L.core else none
  | .vlda _ _ _ r _ e _ | .vldc _ _ _ r _ e _ => if e = 0 then some (L.bufCore r) else none
  | _ => none

/-- The convoy at CP begins: its loads read what memory holds now (R287; log 118), unless one of its words acquires, after which its
later elements read anew (R277). -/
def State.takeSnap (s : State) (h : Nat) : State :=
  let c := s.ctx h
  let ms := ((firstConvoy (s.hart h).queue).filter (fun e => !e.done)).filterMap (fun e => e.instr.map (fun i => (i, e)))
  let core := ms.findSome? (fun m => ({ h := h, core := coreOf h, i := c.vs, c := c, e := m.2 } : Lane).snapCore m.1)
  let snap : Option Snap := match core with
    | some k => if ms.any (fun m => acquiresLast m.1 m.2) then none else some { mem := s.mem, core := k, allocs := (s.core k).allocs }
    | none => none
  if snap.isNone && (s.hart h).snap.isNone then s else s.updHart h (fun t => { t with snap := snap })

/-- The convoy at CP is complete (R37): CP passes it, VS := 0, SRQ counts its SR words, LIVE falls, surplus lane groups go (R196). -/
def State.endConvoy (s : State) (h : Nat) : State :=
  (s.landConvoy h).updHart h (fun t =>
    let c := t.ctx
    let ms := firstConvoy t.queue
    let n := (ms.filter (fun e => e.srOpen c)).length
    let q := dropDone 33 (afterFirst t.queue)
    { t with
      queue := q, startVs := 0,
      ctx := { c with vs := 0, srq := c.srq + word n, eixV := liveOnly q c.eixV, eixT := liveOnly q c.eixT } })

/-- The first comparator of hart h that matches (R213, R214): while a debugger is attached, and not again at the point of resumption. -/
def State.comparator (s : State) (h kind : Nat) (addr : Word) (idx : Option Nat) : Option Nat :=
  let k := s.core (coreOf h)
  let t := s.hart h
  if !t.dbg || t.noMatch then none
  else (List.range 4).find? (fun n =>
    let b := Tbl.get 0 k.cbp n
    bit b 63 && bits b 62 61 == kind && bit b (57 + h % 4) && bits b 55 2 * 4 == addr.toNat &&
    (match idx with | some i => bits (Tbl.get 0 k.cbx n) 11 0 == i | none => true))

/-- The other core, if any, that element i of a member reaches (R175, R206, R249). -/
def Lane.remoteCore (L : Lane) (s : State) (i : Instr) : Option Nat :=
  let other (c : Nat) : Option Nat := if c = L.core then none else some c
  match i with
  | .vlda _ _ _ r _ _ m | .vldc _ _ _ r _ _ m | .vsta _ _ _ r _ m | .vstc _ _ _ r _ m =>
    if L.active m then other (L.bufCore r) else none
  | .vaadd _ _ _ b m | .vaaddO _ _ _ b m | .vaswap _ _ _ b m | .vaswapO _ _ _ b m | .vamax _ _ _ b m | .vamaxO _ _ _ b m
  | .vamin _ _ _ b m | .vaminO _ _ _ b m | .vamaxn _ _ _ b m | .vamaxnO _ _ _ b m | .vaminn _ _ _ b m | .vaminnO _ _ _ b m
  | .vaand _ _ _ b m | .vaandO _ _ _ b m | .vaor _ _ _ b m | .vaorO _ _ _ b m =>
    let ea := L.atomicAddr s b L.i
    if L.active m && inAperture ea then other (L.apertureCore ea) else none
  | _ => none

/-- The cores that element i of hart h's convoy reaches besides its own, one for each remote member: each sends a message (R249). -/
def State.remoteTargets (s : State) (h i : Nat) : List Nat :=
  let c := s.ctx h
  (firstConvoy (s.hart h).queue).filterMap (fun e =>
    match e.instr with
    | some w =>
      if e.done || spanOf c w ≤ i then none
      else ({ h := h, core := coreOf h, i := i, c := c, e := e } : Lane).remoteCore s w
    | none => none)

/-- The element at VS has committed. -/
def State.committed (s : State) (h i : Nat) : State :=
  s.updHart h (fun t => { t with ctx := { t.ctx with vs := i + 1 }, noMatch := false, vwait := .none, vspin := 0 })

/-- What a stop of the vector unit leaves: a fault is taken at once, a wait is remembered and counted (R171, R208).  A translation
conflict is a precise stop with immediate reissue, once a stop can be taken (R39, R346). -/
def State.vectorStop (s t : State) (h : Nat) : Stop → State
  | .wait w =>
    let s := (keepSide s t).updHart h (fun t => { t with vwait := w })
    match w with
    | .granule .. | .landed => s.count (coreOf h) 9 1
    | .interlock => s.count (coreOf h) 12 1
    | _ => s
  | .conflict => if s.stoppable h then (keepSide s t).stopHart h else s
  | e => s.stopped t h e

/-- Send the element to the cores that own what it reaches (R249). -/
def State.sendRemote (s : State) (h : Nat) (cs : List Nat) : State :=
  cs.foldl (fun s c => ((s.updCore c (fun k => { k with inbox := k.inbox ++ [h] })).count (coreOf h) 10 1).wakeCore c)
    (s.updHart h (fun t => { t with remote := .sent }))

/-- Commit up to n elements of the convoy at CP of hart h (R37). -/
def State.commitFrom (s : State) (h span : Nat) : Nat → State
  | 0 => if span ≤ (s.ctx h).vs then s.endConvoy h else s
  | n + 1 =>
    let i := (s.ctx h).vs
    if span ≤ i then s.endConvoy h
    else
      let stop := if (s.hart h).startVs ≤ i then s.comparator h 2 (s.cp h) (some i) else none
      -- R49: a precise fault of the element comes before a Contrail stop
      match (elementStep h i).run s with
      | .ok _ t =>
        (match stop, s.remoteTargets h i with
         | some b, _ => if s.stoppable h then s.contrailStop h b else s
         | none, [] => State.commitFrom (t.committed h i) h span n
         | none, cs => (keepSide s t).sendRemote h cs)
      | .error (.wait w) t =>
        (match stop, w, s.remoteTargets h i with
         | some b, _, _ => if s.stoppable h then s.contrailStop h b else s
         | none, .granule .., c :: cs => (keepSide s t).sendRemote h (c :: cs)
         | none, _, _ => s.vectorStop t h (.wait w))
      | .error e t => s.vectorStop t h e

/-- Lane groups of hart h that serve elements: those whose LDO has settled (R266). -/
def State.servingGroups (s : State) (h : Nat) : Nat :=
  ((s.hart h).groups.filter (fun g => !(s.core (coreOf h)).settling.contains g)).length

/-- The released convoy of hart h waits for a lane group to settle: it holds groups, and none serves elements (R266). -/
def State.settlesOnly (s : State) (h : Nat) : Bool := !(s.hart h).groups.isEmpty && s.servingGroups h == 0

/-- Lane-group cycles of one element group (R194, R208): 1 + B for a float arithmetic member that carries tangents, three times that for a
group in near-threshold mode. -/
def State.groupCycles (s : State) (h : Nat) : Nat :=
  let c := s.ctx h
  let k := s.core (coreOf h)
  let arith := (firstConvoy (s.hart h).queue).any (fun e =>
    !e.done && ((e.desc c).map (fun v => v.pipe == .A || v.pipe == .B)).getD false)
  let one := if arith && isFloat c.ew && !c.tm then 1 + c.b else 1
  (((s.hart h).groups.filter (fun g => !k.settling.contains g)).map (fun g => if bit k.ntcfg g then 3 * one else one)).foldl (· + ·) 0

/-- The core whose typed buffers a member reaches at element i, if it reaches any (R175, R206). -/
def Lane.bufferCore (L : Lane) (s : State) (i : Instr) : Option Nat :=
  match i with
  | .vldw .. | .vstw .. => some L.core
  | .vlda _ _ _ r _ _ _ | .vldc _ _ _ r _ _ _ | .vsta _ _ _ r _ _ | .vstc _ _ _ r _ _ => some (L.bufCore r)
  | .vaadd _ _ _ b m | .vaaddO _ _ _ b m | .vaswap _ _ _ b m | .vaswapO _ _ _ b m | .vamax _ _ _ b m | .vamaxO _ _ _ b m
  | .vamin _ _ _ b m | .vaminO _ _ _ b m | .vamaxn _ _ _ b m | .vamaxnO _ _ _ b m | .vaminn _ _ _ b m | .vaminnO _ _ _ b m
  | .vaand _ _ _ b m | .vaandO _ _ _ b m | .vaor _ _ _ b m | .vaorO _ _ _ b m =>
    let ea := L.atomicAddr s b L.i
    if L.active m && inAperture ea then some (L.apertureCore ea) else none
  | _ => none

/-- Elements of hart h's convoy reach the typed buffers of core c at element i. -/
def State.reachesBuffers (s : State) (h i c : Nat) : Bool :=
  (firstConvoy (s.hart h).queue).any (fun e => match e.instr with
    | some w => !e.done && decide (i < spanOf (s.ctx h) w) &&
        ({ h := h, core := coreOf h, i := i, c := s.ctx h, e := e } : Lane).bufferCore s w == some c
    | none => false)

/-- Elements of one group (R194). -/
def groupSize (lanes : Nat) : Nat := if lanes = 0 then 8 else 8 * lanes

/-- A convoy that acts on no element: its once-acting members act, and it completes (R37). -/
def State.commitEmpty (s : State) (h : Nat) : State :=
  match (elementStep h (s.ctx h).vs).run s with
  | .ok _ t => t.endConvoy h
  | .error e t => s.vectorStop t h e

/-- One element group of the released convoy of hart h: up to 8 elements for each lane group (R194), a free number of them, so that a
stop may fall between any two elements (R39; log 13). -/
def State.commitGroup (s : State) (h : Nat) : State :=
  let t := s.hart h
  let span := convoySpan t.ctx (firstConvoy t.queue)
  let checks : Option (Stop × State) := if t.ctx.vs = t.startVs then
      (match (firstChecks h span).run s with
       | .ok _ _ => none
       | .error e u => some (e, u))
    else none
  match checks with
  | some e => s.vectorStop e.2 h e.1
  | none =>
    let o := if t.ctx.vs = t.startVs then s.openMembersOf h span (firstConvoy t.queue).zipIdx else (s, true)
    let s := o.1
    if !o.2 then s.vectorStop s h (.wait .older)
    else
      let s := if t.ctx.vs = t.startVs then s.takeSnap h else s
      if span ≤ t.ctx.vs then s.commitEmpty h
      else
        let k := s.fresh
        let s := { s with fresh := k + 1 }.count (coreOf h) 5 (s.groupCycles h)
        let s := if s.reachesBuffers h t.ctx.vs (coreOf h) then s.countConflicts (coreOf h) else s
        s.commitFrom h span (1 + Config.groupLength k % groupSize (s.servingGroups h))

/-- R37, R38. One element group of the convoy at CP of hart h commits, element by element, every member at each. -/
def execConvoyCommit (h : Nat) (s : State) : Out1 :=
  let t := s.hart h
  if !t.released || t.remote != .idle || t.queue.isEmpty || s.settlesOnly h then .next s else .next (s.commitGroup h)

/-- The message of hart h at core c's port reaches its bank (R249).  Where its convoy's element has other messages still to arrive,
nothing more happens; the last one performs the element, which commits, and the reply leaves.  Answers none where the element waits on
a full-empty bit: the message waits at the bank (R178). -/
def State.deliver (s : State) (c h : Nat) : Option State :=
  let i := (s.ctx h).vs
  let taken (s : State) : State := s.updCore c (fun k => { k with inbox := k.inbox.erase h })
  if (taken s).cores.any (fun e => e.2.inbox.contains h) then some (taken s)
  else match (elementStep h i).run s with
    | .ok _ t =>
      -- R208: its lane-group cycles, and at the owning core its bank conflicts
      let t := (t.count (coreOf h) 5 (s.groupCycles h)).countConflicts c
      let t := (taken t).updHart h (fun t => { t with remote := .performed })
      some ((t.committed h i).updCore (coreOf h) (fun k => { k with replies := k.replies ++ [h] }))
    | .error (.wait _) _ => none
    | .error e t =>
      let free (s : State) : State := (taken s).updHart h (fun t => { t with remote := .idle })
      some ((free s).vectorStop (free t) h e)

/-- What the element of hart h waits for at its bank is remembered and counted (R178, R208, R369). -/
def State.waitAtBank (s : State) (h : Nat) : State :=
  match (elementStep h (s.ctx h).vs).run s with
  | .error (.wait w) t => (s.vectorStop t h (.wait w)).updHart h (fun t => { t with remote := .waiting })
  | _ => s

/-- The first message of a list that can be performed is; those that wait on full-empty bits stay, and hold nothing behind them. -/
def State.deliverFirst (s : State) (c : Nat) : List Nat → State
  | [] => s
  | h :: rest =>
    match s.deliver c h with
    | some t => t
    | none => (s.waitAtBank h).deliverFirst c rest

/-- R249. The oldest message at core c's port that can be performed there is: the element commits, and its reply leaves.  One that waits
on a full-empty bit stays; a gated core holds its messages (R264). -/
def execRemoteBufferMessage (c : Nat) (s : State) : Out1 :=
  if (s.core c).gate != .running then .next s else .next (s.deliverFirst c (s.core c).inbox)

/-- R203, R249. The oldest reply reaches core c: the guard touches of its element are latched, and the convoy goes on. -/
def execRemoteReply (c : Nat) (s : State) : Out1 :=
  match (s.core c).replies with
  | [] => .next s
  | h :: rest =>
    let s := s.updCore c (fun k => { k with replies := rest })
    let s := s.updHart h (fun t =>
      { t with
        remote := .idle, guardPending := [],
        ctx := t.guardPending.foldl (fun c g => c.touchGuard g.1 g.2.1 g.2.2) t.ctx })
    let t := s.hart h
    .next (if t.released && convoySpan t.ctx (firstConvoy t.queue) ≤ t.ctx.vs then s.endConvoy h else s)

/-- LEAK, 0 treated as 1, and Limit of a priority (R198, R199). -/
def gustLeak (cfg : Nat) : Nat := max 1 (bits cfg 63 48)
/-- Limit(p). -/
def gustLimit (cfg p : Nat) : Nat :=
  min (2 ^ 24 - 1) (bits cfg 23 0 + 1024 * (if p = 3 then bits cfg 47 40 else if p = 2 then bits cfg 39 32 else 0))

/-- Weight and multiplier class of a member (R197): (w, m) with n elements, or a flat charge. DESIGN CHOICE (log 130): the record size of
vldnp is its value width. -/
def chargeOf (c : Ctx) (i : Instr) : Nat :=
  let n := c.vl - c.vs
  let m := if c.tm then 1 else 1 + c.b
  let mem := cdiv c.rs 4
  match i with
  | .vmul .. | .vmulVx .. | .vfma .. | .vfms .. | .vfnma .. | .vfnms .. | .vfmaVx .. | .vfmsVx .. | .vfnmaVx .. | .vfnmsVx .. =>
    n * 16 * m
  | .vdiv .. | .vdivVx .. | .vsqrt .. | .vrsqrt .. | .vexp .. | .vlog .. | .vtanh .. | .vsigmoid .. => n * 32 * m
  | .vredsum .. | .vredmax .. | .vredmin .. | .vredand .. | .vredor .. | .vredxor .. => c.vl * 12 * m
  | .vimul .. | .vimulVx .. | .vimulh .. => n * 16
  | .vidiv .. | .virem .. => n * 32
  | .viadd .. | .viaddVx .. | .visub .. | .vimin .. | .vimax .. | .vand .. | .vandVx .. | .vor .. | .vorVx .. | .vxor .. | .vxorVx ..
  | .vsll .. | .vsllVx .. | .vsrl .. | .vsrlVx .. | .vsra .. | .vsraVx .. => n * 8
  | .vhail .. | .vbern .. => n * 20
  | .vseed .. | .vtclr .. | .vtget .. | .vtset .. => n * 8
  | .vfgu .. => n * 4 * c.b
  | .qand .. | .qor .. | .qxor .. | .qsub .. | .qnot .. | .qcpy .. => 64
  | .vscl .. => c.scaleCount - c.vs        -- its record is one byte (R184): w = 1
  | .vldnp .. | .vaadd .. | .vaaddO .. | .vaswap .. | .vaswapO .. | .vamax .. | .vamaxO .. | .vamin .. | .vaminO .. | .vamaxn ..
  | .vamaxnO .. | .vaminn .. | .vaminnO .. | .vaand .. | .vaandO .. | .vaor .. | .vaorO .. => n * cdiv (vwOf c.ew) 4
  | _ =>
    match (vword c i).map VWord.pipe with
    | some .A | some .B => n * 8 * m
    | some .L | some .S => n * mem
    | _ => 0

/-- Charge of the convoy at CP (R197). -/
def convoyCharge (c : Ctx) (ms : List QEntry) : Nat :=
  (ms.filter (fun e => !e.done)).foldl (fun n e => n + (e.instr.map (chargeOf c)).getD 0) 0

/-- A member waits for the interlock table (R187, R231, R244): a memory word for its ranges, a copy word for its intervals or a place, a
drain for both. -/
def State.memberHeld (s : State) (h : Nat) (e : QEntry) : Bool :=
  match e.instr with
  | none => false
  | some i =>
    if e.done then false
    else
      let L : Lane := { h := h, core := coreOf h, i := (s.ctx h).vs, c := s.ctx h, e := e }
      match copyGroup i with
      | some g => s.copyHeld h || (!L.copyBad s g && s.interlocked h ((L.copyJob s g).intervals (coreOf h)))
      | none => s.interlocked h (L.ranges s i) || (isDrain i && decide (32 ≤ s.tableUsed (coreOf h)))

/-- The lane groups that hart h holds after taking what its target and its core's free groups allow, lowest number first (R196). -/
def State.groupsAfter (s : State) (h : Nat) : List Nat :=
  let t := s.hart h
  let taken (g : Nat) : Bool := (List.range 4).any (fun k => (s.hart (4 * coreOf h + k)).groups.contains g)
  let more := ((List.range 16).filter (fun g => !taken g)).take (t.target - t.groups.length)
  (List.range 16).filter (fun g => t.groups.contains g || more.contains g)

/-- Members that need lane groups (R193): none where the convoy acts on no element (R37). -/
def needsLanes (c : Ctx) (ms : List QEntry) : Bool :=
  (ms.filter (fun e => !e.done)).any (fun e => match e.desc c with
    | some v => !(v.pipe == .M || v.pipe == .X)
    | none => false) && decide (c.vs < c.vl)

/-- The convoy at CP is ready at the gate, the interlock table apart (R193). -/
def State.gateReady (s : State) (h : Nat) : Bool :=
  let t := s.hart h
  let ms := firstConvoy t.queue
  t.task.isSome && t.held.isNone && !t.released && !ms.isEmpty && (!(afterFirst t.queue).isEmpty || !t.openConvoy) &&
  !ms.any (fun e => e.ahead || e.actsAtIssue t.ctx) && (!needsLanes t.ctx ms || !(s.groupsAfter h).isEmpty)

/-- The multiplying word of core c's job may begin (R37, R235): what it reads and the tiles it writes are free of older words. -/
def State.matrixReady (s : State) (c : Nat) : Bool :=
  match s.matrixWord c with
  | none => false
  | some (h, j, _, w, p) =>
    let cx := s.ctx h
    let older := ((s.hart h).queue.take ((s.hart h).queue.findIdx QEntry.mmul)).filter (fun e => !e.done)
    let any' (f : Instr → VWord → Bool) : Bool :=
      older.any (fun e => match e.instr, e.desc cx with
        | some i, some v => f i v
        | _, _ => false)
    let group := (List.range (actRegs cx (s.anvil c).shape.mg p.kg)).map (fun k => w.a + k)
    let onA (e : Interlock) : Bool := e.hart == h && e.ivs.any (fun v => v.space == 2 && v.write)
    !j.pending && !j.granted && j.passes == 0 && !any' (fun i _ => isDrain i) &&
    (if w.src then
      !any' (fun i v => v.pipe == .S || v.pipe == .X || (match i with | .vunbind .. => true | _ => false)) &&
      !(s.core c).interlock.any onA
    else
      !any' (fun _ v => v.writes.any (fun r => match r with | .v n => group.contains n | _ => false)) &&
      !group.any (fun n => (List.range 8).any (fun k => Tbl.get false (s.core c).unlanded (8 * cx.phys n + k))))

/-- The oldest run-ahead word of hart h that has not completed, with its place in the queue (R37). -/
def State.aheadWord (s : State) (h : Nat) : Option (Nat × QEntry) :=
  let q := (s.hart h).queue
  (q.find? QEntry.ahead).map (fun e => (q.findIdx QEntry.ahead, e))

/-- The run-ahead word of hart h is ready (R193, R235): no older word acts on the front, and the tile scoreboard and the interlock table
let it pass.  An mlds waits for older stores that could reach the W buffer and for older words that write the scale file, an mzero for
older drains. -/
def State.aheadReady (s : State) (h : Nat) : Bool :=
  match s.aheadWord h with
  | none => false
  | some (n, e) =>
    let c := s.ctx h
    let older := ((s.hart h).queue.take n).filter (fun e => !e.done)
    (s.hart h).task.isSome && (s.hart h).held.isNone && !older.any (fun o => o.actsAtIssue c) &&
    (match e.instr with
     | some (.mshape ..) => true
     | some (.mlds ..) =>
       !older.any (fun o => (o.instr.map storesLater).getD false || (o.desc c).any (fun v => v.writes.contains .sf)) &&
       !(s.core (coreOf h)).interlock.any (fun x => x.hart == h && x.ivs.any (fun v => v.space == 1 && v.write))
     | some (.mzero ..) => !older.any (fun o => (o.instr.map isDrain).getD false)
     | some _ => (s.core (coreOf h)).job.any (fun j => j.hart == h) && s.matrixReady (coreOf h)
     | none => false)

/-- A candidate of the gate's scan: hart, whether it is the run-ahead word, priority and the time it became ready. -/
structure GateCand where
  h : Nat
  matrix : Bool
  prio : Nat
  at' : Nat
  deriving DecidableEq, Repr

/-- The scan's order (R198). -/
def GateCand.before (a b : GateCand) : Bool :=
  if a.prio != b.prio then decide (b.prio < a.prio)
  else if a.at' != b.at' then decide (a.at' < b.at')
  else if a.h != b.h then decide (a.h < b.h)
  else !a.matrix

/-- Insert a candidate in the scan's order. -/
def insertCand (x : GateCand) : List GateCand → List GateCand
  | [] => [x]
  | y :: l => if x.before y then x :: y :: l else y :: insertCand x l

/-- Release the convoy at CP of hart h (R193, R196): it takes free lane groups; one that acts on no element completes. -/
def State.releaseConvoy (s : State) (h : Nat) : State :=
  let gs := s.groupsAfter h
  let drains := (firstConvoy (s.hart h).queue).filterMap (fun e => match e.instr with
    | some i =>
      if e.done || !isDrain i then none
      else some ({ hart := h, kind := 2, ident := e.seq,
                   ivs := ({ h := h, core := coreOf h, i := 0, c := s.ctx h, e := e } : Lane).ranges s i } : Interlock)
    | none => none)
  let s := (s.updHart h (fun t => { t with released := true, startVs := t.ctx.vs, groups := gs })).count (coreOf h) 2 1
  let s := s.updCore (coreOf h) (fun k => { k with interlock := k.interlock ++ drains })
  let t := s.hart h
  if convoySpan t.ctx (firstConvoy t.queue) ≤ t.ctx.vs then s.commitGroup h else s

/-- Release the multiplying word of core c: its first pass asks for its start (R269). -/
def State.releaseMatrix (s : State) (c : Nat) : State :=
  (s.updCore c (fun k => { k with job := k.job.map (fun j => { j with pending := true }) })).requestPass c

/-- The run-ahead word of hart h completes where the gate has released it (R37). -/
def State.completeAhead (s : State) (h : Nat) : State :=
  s.updHart h (fun t =>
    let t := { t with queue := updFirst QEntry.ahead (fun e => { e with done := true }) t.queue }
    if t.released then t else t.settle)

/-- Release the run-ahead word of hart h (R193, R198): a multiplication begins, an mlds reads its plane (R222), an mzero clears its tiles
(R232), and an mshape, whose other effects took place at issue (R220), completes a release (R216). -/
def State.releaseAhead (s : State) (h : Nat) : State :=
  match s.aheadWord h with
  | none => s
  | some (n, e) =>
    let s := (s.updHart h (fun t => { t with aheadAt := 0 })).count (coreOf h) 2 1
    match e.instr with
    | some (.mlds ..) => ((s.loadPlane h n e).countConflicts (coreOf h)).completeAhead h
    | some (.mzero _ d) => (s.zeroTiles h d.toNat).completeAhead h
    | some (.mshape ..) => (if reqRel e.opA.toNat then s.releaseShaped h else s).completeAhead h
    | _ => s.releaseMatrix (coreOf h)

/-- A member of hart h's convoy at CP waits for the interlock table. -/
def State.convoyHeld (s : State) (h : Nat) : Bool := (firstConvoy (s.hart h).queue).any (s.memberHeld h)

/-- The scan (R198): the first candidate that does not fit ends it.  One that a release of the same cycle left without a lane group or
a place in the interlock table is ready no longer (R193). -/
def State.gateScan (s : State) (c : Nat) : List GateCand → State
  | [] => s
  | x :: rest =>
    if !(if x.matrix then s.aheadReady x.h else s.gateReady x.h && !s.convoyHeld x.h) then s.gateScan c rest
    else
    let k := s.core c
    let charge := if x.matrix then 0 else convoyCharge (s.ctx x.h) (firstConvoy (s.hart x.h).queue)
    if k.gustLevel + charge ≤ gustLimit k.gustCfg x.prio || k.gustLevel = 0 then
      let s := s.updCore c (fun k => { k with gustLevel := min (2 ^ 24 - 1) (k.gustLevel + charge) })
      State.gateScan (if x.matrix then s.releaseAhead x.h else s.releaseConvoy x.h) c rest
    else s.count c 4 1

/-- Remember since when each hart's convoy, and its run-ahead word, have been ready (R198). -/
def State.markReady (s : State) (c : Nat) (ready ahead : Nat → Bool) : State :=
  let now := (s.core c).readyClock + 1
  let since (ok : Bool) (t : Nat) : Nat := if ok then (if t = 0 then now else t) else 0
  (List.range 4).foldl (fun s k =>
    let h := 4 * c + k
    s.updHart h (fun t => { t with readyAt := since (ready h) t.readyAt, aheadAt := since (ahead h) t.aheadAt }))
    (s.updCore c (fun r => { r with readyClock := now }))

/-- R198, R214. One cycle of core c's Gust gate. -/
def execGustCycle (c : Nat) (s : State) : Out1 :=
  let s := s.updCore c (fun k => { k with gustLevel := k.gustLevel - gustLeak k.gustCfg })
  let hs := (List.range 4).map (fun k => 4 * c + k)
  let starts (h : Nat) : Option Nat :=
    if (s.hart h).queue.isEmpty || (s.hart h).released || (s.hart h).held.isSome then none
    else s.comparator h 1 (s.cp h) none
  let ready (h : Nat) : Bool := s.gateReady h && !s.convoyHeld h && (starts h).isNone
  -- a run-ahead word, unless it stands at CP and a comparator of KIND 1 matches there
  let ahead (h : Nat) : Bool := s.aheadReady h && !((starts h).isSome && (s.hart h).queue.head?.any QEntry.ahead)
  let t := s.markReady c ready ahead
  let t := if hs.any (fun h => s.gateReady h && s.convoyHeld h) then t.count c 12 1 else t
  let convoys := (hs.filter ready).map (fun h =>
    ({ h := h, matrix := false, prio := (s.ctx h).prio, at' := (t.hart h).readyAt } : GateCand))
  let matrix : List GateCand := (hs.filter ahead).map (fun h =>
    { h := h, matrix := true, prio := (s.ctx h).prio, at' := (t.hart h).aheadAt })
  let u := t.gateScan c ((convoys ++ matrix).foldl (fun l x => insertCand x l) [])
  -- a match while a matrix word or a remote element is under way stands until the stop can be taken
  .next (hs.foldl (fun u h => match starts h with | some n => if u.stoppable h then u.contrailStop h n else u | none => u) u)

end Sys2Proof.Machine
end

