-- ==== Sys2Proof/Machine/Collective.lean ====
section
/-! DEFINITION. Communicators, graph records and instances of Jetstream, and how an instance ends or fails (R457, R461, R462, R470,
R471). -/

namespace Sys2Proof.Machine

open Sys2Proof

/-- Fields of a communicator entry (R457). -/
def coPrio (e : Nat) : Bool := bit e 510
def coWeight (e : Nat) : Nat := bits e 509 502
def coVc (e : Nat) : Nat := bits e 501 498
def coLno (e : Nat) : Nat := bits e 495 480
def coGen (e : Nat) : Nat := bits e 479 464
def coNrm1 (e : Nat) : Nat := bits e 463 454
def coRank (e : Nat) : Nat := bits e 453 444
def coChbase (e : Nat) : Nat := bits e 443 428
def coDepth (e : Nat) : Nat := bits e 427 412 + 1
def coResq (e : Nat) : Nat := bits e 411 402
def coRtab (e : Nat) : Nat := bits e 383 320
def coRing (e : Nat) : Nat := bits e 319 256
def coRsbase (e : Nat) : Nat := bits e 255 192
def coRslen (e : Nat) : Nat := bits e 191 128

/-- A communicator entry is valid (R457). -/
def coOk (e : Nat) : Bool :=
  bit e 511 && coWeight e != 0 && decide (4 ≤ coVc e) && coLno e != 0 && coNrm1 e != 0 && decide (coRank e ≤ coNrm1 e) && coResq e != 0 &&
  bits e 401 384 == 0 && bits e 127 0 == 0 && coRing e % 65536 == 0 && decide (coChbase e + 4 * (coNrm1 e + 1) ≤ 65535)

/-- Communicator n as the engine last accepted it. -/
def State.comm (s : State) (n : Nat) : Comm := Tbl.get Comm.reset s.comms n

/-- Change communicator n. -/
def State.updComm (s : State) (n : Nat) (f : Comm → Comm) : State := { s with comms := Tbl.set s.comms n (f (s.comm n)) }

/-- Rank r's peer entry number (R457). -/
def State.rankPeer (s : State) (e r : Nat) : Nat := s.mem.readN (coRtab e + 2 * r) 2

/-- Fields of an operation record (R462). -/
def opKind (r : Nat) : Nat := bits r 255 250
def opFmt (r : Nat) : Nat := bits r 249 247
def opHalf (r : Nat) : Bool := bit r 246
def opSr (r : Nat) : Bool := bit r 245
def opEf (r : Nat) : Bool := bit r 244
def opLane (r : Nat) : Nat := bits r 243 242
def opRank (r : Nat) : Nat := bits r 241 232
def opLen (r : Nat) : Nat := bits r 231 216
def opDep (r : Nat) : Nat := bits r 215 204
def opSoff (r : Nat) : Nat := bits r 191 176
def opScnt (r : Nat) : Nat := bits r 175 168
def opScale (r : Nat) : Nat := bits r 167 160
def opTag (r : Nat) : Nat := bits r 159 128
def opSb (r : Nat) : Nat := bits r 127 124
def opSofs (r : Nat) : Nat := bits r 119 64
def opDb (r : Nat) : Nat := bits r 63 60
def opDofs (r : Nat) : Nat := bits r 55 0

/-- The operation sends (R464): SEND, RSTR. -/
def opSends (r : Nat) : Bool := opKind r == 1 || opKind r == 5
/-- The operation receives (R464): RECV, RRED. -/
def opReceives (r : Nat) : Bool := opKind r == 2 || opKind r == 3
/-- Its channel: rank·4 + lane. -/
def opChan (r : Nat) : Nat := opRank r * 4 + opLane r

/-- Width of the local element type (R462). -/
def localWidth (half : Bool) : Nat := if half then 2 else 4
/-- Width of a wire format (R462). -/
def wireWidth (fmt : Nat) : Nat :=
  match fmt with
  | 1 => 4 | 2 => 2 | _ => 1
/-- Wire bytes W of an operation (R462). -/
def opWire (r : Nat) : Nat := if opFmt r = 0 then opLen r else opLen r * wireWidth (opFmt r) / localWidth (opHalf r)
/-- Lines L of a chunk of W bytes (R459). -/
def linesOf (w : Nat) : Nat := max 1 (cdiv w 120)

/-- Slot gid of the graph store. -/
def State.jgraph (s : State) (gid : Nat) : JetGraph := Tbl.get JetGraph.reset s.jgraphs gid

/-- Change slot gid of the graph store. -/
def State.updJgraph (s : State) (gid : Nat) (f : JetGraph → JetGraph) : State :=
  { s with jgraphs := Tbl.set s.jgraphs gid (f (s.jgraph gid)) }

/-- A live instance. -/
def State.jetRun (s : State) (gid run : Nat) : Option JetRun := s.jets.find? (fun j => j.gid == gid && j.run == run)

/-- Change a live instance. -/
def State.updJet (s : State) (gid run : Nat) (f : JetRun → JetRun) : State :=
  { s with jets := s.jets.map (fun j => if j.gid = gid ∧ j.run = run then f j else j) }

/-- Operation n of a graph, zero where there is none. -/
def JetGraph.op (g : JetGraph) (n : Nat) : Nat := (g.ops[n]?).getD 0

/-- A chunk engine works on the instance. -/
def State.runBusy (s : State) (gid run : Nat) : Bool := s.engines.any (fun e => e.2.gid == gid && e.2.run == run)

/-- Operations of an instance that have not completed. -/
def State.opsLeft (s : State) (j : JetRun) : Nat :=
  (s.jgraph j.gid).ops.length - (j.completed.filter (fun e => e.2)).length

/-- cgwait's answer for an ended instance (R475). -/
def runWord (failed : Bool) (dupn satn : Nat) : Nat := b2n failed * 2 ^ 60 + dupn % 65536 * 2 ^ 32 + satn % 2 ^ 32

/-- An instance ends when every operation has completed, or once it has failed and its running chunks have ended (R470, R471). -/
def State.closeRun (s : State) (gid run : Nat) : State :=
  match s.jetRun gid run with
  | none => s
  | some j =>
    if s.opsLeft j = 0 || (j.failed && !s.runBusy gid run) then
      State.updJgraph { s with jets := s.jets.filter (fun x => !(x.gid == gid && x.run == run)) } gid (fun g =>
        let ends := g.ends ++ [(run % 65536, runWord j.failed j.dupn j.satn, s.opsLeft j)]
        { g with ends := ends.drop (ends.length - 16) })
    else s

/-- An instance fails (R470): it starts nothing further, its communicator enters FAULT. -/
def State.stopRun (s : State) (gid run : Nat) : State :=
  match s.jetRun gid run with
  | none => s
  | some j =>
    if j.failed then s
    else ((s.updJet gid run (fun j => { j with failed := true })).updComm (s.jgraph gid).comm (fun c => { c with fault := true })).closeRun gid run

/-- Statuses of JETERR (R470). -/
def jACCESS : Nat := 1
def jPOISON : Nat := 2
def jTIMEOUT : Nat := 3

/-- An instance fails with a JETERR record (R470). -/
def State.failRun (s : State) (gid run status va : Nat) : State :=
  match s.jetRun gid run with
  | none => s
  | some j => if j.failed then s else (s.launchRecord j.lno cJETERR (word status) va 0).stopRun gid run

/-- An instance's page answer failed (R470): a PGFAIL record, no JETERR. -/
def State.pageFailRun (s : State) (gid run va gen : Nat) : State :=
  match s.jetRun gid run with
  | none => s
  | some j => if j.failed then s else (s.launchRecord j.lno cPGFAIL (word va) va (gen * 256 + 3)).stopRun gid run

end Sys2Proof.Machine
end

