-- ==== Sys2Proof/Machine/Network.lean ====
section
/-! DEFINITION. The network engine: staged words and work requests, gathers, delivery contexts, packets, acknowledgements, and the
links (R352 to R356, R437 to R454). -/

namespace Sys2Proof.Machine

open Sys2Proof

/-- Fields of a work request (R446). -/
def wrKind (w : Nat) : Nat := bits w 255 252
def wrRod (w : Nat) : Bool := bit w 251
def wrSpray (w : Nat) : Bool := bit w 250
def wrTc (w : Nat) : Nat := bits w 249 248
def wrPeer (w : Nat) : Nat := bits w 247 236
def wrLctr (w : Nat) : Nat := bits w 230 224
def wrRctr (w : Nat) : Nat := bits w 216 210
def wrLen (w : Nat) : Nat := bits w 159 128
def wrRoff (w : Nat) : Nat := bits w 127 64
def wrLaddr (w : Nat) : Nat := bits w 63 0

/-- No counter (R446). -/
def noCtr : Nat := 127

/-- A counter field that names neither a counter nor none. -/
def ctrBad (c : Nat) : Bool := decide (64 ≤ c) && decide (c ≤ 126)

/-- A work request breaks R446. -/
def workBad (w : Nat) : Bool :=
  let la := wrLaddr w
  let n := wrLen w
  bits w 511 256 != 0 || bits w 235 231 != 0 || bits w 223 217 != 0 || bits w 209 160 != 0 ||
  ctrBad (wrLctr w) || ctrBad (wrRctr w) ||
  (match wrKind w with
   | 1 | 2 =>
     n == 0 || decide (2 ^ 28 < n) || bits la 63 56 != 0 || inAperture la || decide (2 ^ 56 < la + n) ||
     (wrKind w == 2 && wrRctr w != noCtr)
   | 3 =>
     wrRctr w != noCtr || wrRod w || wrSpray w || wrTc w != 0 || wrPeer w != 0 || n != 0 || wrRoff w != 0 ||
     la % 64 != 0 || bits la 63 56 != 0 || inAperture la
   | _ => true)

/-- A virtual address of a block breaks R352. -/
def blockAddrBad (a : Nat) : Bool := bits a 63 56 != 0 || inAperture a

/-- A parameter block breaks R352. -/
def gatherBad (b : Nat) : Bool :=
  bits b 511 348 != 0 || (gaDsp b != 0 && gaDsp b != 2 && gaDsp b != 3) || decide (1 < bits b 343 342) || decide (40 < gaShift b) ||
  gaRsz b == 0 || decide (4096 < gaRsz b) || gaIbase b % gaIw b != 0 ||
  blockAddrBad (gaTbase b) || blockAddrBad (gaIbase b) ||
  (if gaDsp b = 0 then blockAddrBad (gaDbase b) else bits (gaDbase b) 63 24 != 0) ||
  (gaFeset b && gaDsp b == 0)

/-- The intervals of a gather (R354), of core `own`. -/
def gatherIntervals (b own : Nat) : List Interval :=
  if gaCount b = 0 then []
  else
    let n := gaCount b
    let sp := nestSpan [n] [gaPitch b]
    let base := (gaDbase b : Int)
    ivOf 0 0 false (some ((gaIbase b : Int), (gaIbase b : Int) + n * gaIw b - 1)) ++
    ivOf (gaDsp b) (if gaDsp b = 0 then 0 else own) true (some (base + sp.1, base + sp.2 + gaRsz b - 1)) ++
    (if gaBound b = 0 then ivOf 0 0 false (some (0, 2 ^ 56 - 1))
     else ivOf 0 0 false (some ((gaTbase b : Int), (gaTbase b : Int) + (gaBound b - 1) * 2 ^ gaShift b + gaRsz b - 1)))

/-- Fields of a peer entry (R444). -/
def peerBenlar (p : Nat) : Bool := bit p 254
def peerRep (p : Nat) : Nat := bits p 253 244
def peerPorts (p : Nat) : Nat := bits p 243 226
def peerMtu (p : Nat) : Nat := 4096 / 2 ^ bits p 225 224
def peerLno (p : Nat) : Nat := bits p 143 128
def peerAddr (p : Nat) : Nat := bits p 127 0
def peerOk (p : Nat) : Bool := bit p 255 && bits p 223 144 == 0

/-- Fields of an endpoint entry (R444). -/
def epGen (e : Nat) : Nat := bits e 239 224
def epLno (e : Nat) : Nat := bits e 223 208
def epLen (e : Nat) : Nat := bits e 127 64
def epBase (e : Nat) : Nat := bits e 63 0
def epOk (e : Nat) : Bool := bit e 255 && bits e 254 240 == 0 && bits e 207 128 == 0

/-- The engine is enabled, and the ports that apply MACsec (NETCFG; R444). -/
def State.netOn (s : State) : Bool := bit s.netcfg 63
def State.netArea (s : State) : Nat := bits s.netcfg 47 16 * 65536
def State.macsecOn (s : State) (port : Nat) : Bool := bit s.netcfg (55 + port)

/-- Peer entry n as the engine has it now (R444): its copy, or the table's, which it then keeps; which of the two an edit before
NETSYNC leaves is free.  A poisoned entry ends the task that needs it (R412). -/
def peerEntry (n : Nat) : M Nat := do
  let k ← drawM
  let s ← get
  match Tbl.find s.peers n with
  | some p => if Config.freeBool k then return p
  | none => pure ()
  let a := s.netArea + 32 * n
  if s.poisoned a 32 then throw (.term cUNCORR (word a))
  let p := s.mem.readN a 32
  set { s with peers := Tbl.set s.peers n p }
  return p

/-- Endpoint entry n as the engine has it now (R444).  DEDUCED (log 123): a poisoned one is invalid, since no task of this package has issued
the read (R412). -/
def endpointEntry (n : Nat) : M Nat := do
  let k ← drawM
  let s ← get
  match Tbl.find s.endpoints n with
  | some p => if Config.freeBool k then return p
  | none => pure ()
  let a := s.netArea + 0x20000 + 32 * n
  let p := if s.poisoned a 32 then 0 else s.mem.readN a 32
  set { s with endpoints := Tbl.set s.endpoints n p }
  return p

/-- R444. NETSYNC: the engine takes the edited tables. -/
def execNetsync (s : State) : Out1 :=
  .next (s.command 0x20 false (fun s => ({ s with peers := [], endpoints := [] }, some (bmOK, 0))))

/-- nwr at issue (R447). -/
def nwrAct (h n : Nat) (e : QEntry) : M Unit := modify (fun s => s.updCtx h (fun c => { c with sw := Tbl.set c.sw n e.opA }))

/-- R447. SWn := x[a]. -/
def execNwr (k : Bool) (d : BitVec 3) (a : BitVec 7) (s : State) : Out1 :=
  issueFront (.nwr k d a) (wordR 0x3D 0 k d.toNat a.toNat 0) (nwrAct s.turn d.toNat) s

/-- The work request staged by hart h (R446). -/
def Ctx.staged (c : Ctx) : Nat := (List.range 8).foldl (fun n k => n + (Tbl.get 0 c.sw k).toNat * 2 ^ (64 * k)) 0

/-- Requests of a launch that have not completed (R448). -/
def State.outstanding (s : State) (lno : Nat) : Nat :=
  (s.work.filter (fun r => r.lno == lno)).length + (s.gathers.filter (fun g => g.lno == lno)).length

/-- The block of a gather, read at issue (R448, R352), once its interlock entry is there (R354). -/
def gatherBlock (h w : Nat) (wd : Word) : M Nat := do
  let s ← get
  let la := wrLaddr w
  let v ← readHome (s.reqOf h) cSACC (word la) la 64
  modify (fun s => s.countHops (coreOf h) v.2)
  if gatherBad v.1 then trapM cOPND wd
  if 32 ≤ (s.core (coreOf h)).interlock.length || s.interlocked h (gatherIntervals v.1 (coreOf h)) then waitM .interlock
  return v.1

/-- Post count of a launch (R448), advanced. -/
def postCount (lno : Nat) : M Nat := do
  let s ← get
  let n := ((s.launch lno).map (·.posted)).getD 0
  set (s.updLaunch lno (fun l => { l with posted := (n + 1) % 2 ^ 32 }))
  return n

/-- Queue a gather (R352, R354). -/
def State.postGather (s : State) (h w block seq : Nat) : State :=
  let g : Gather :=
    { ident := s.nextIdent, hart := h, task := (s.hart h).task.getD 0, lno := s.hartLno h, sup := (s.ctx h).prv, block := block, seq := seq,
      lctr := wrLctr w, next := 0, held := false }
  let entry : Interlock := { hart := h, kind := 1, ident := g.ident, ivs := gatherIntervals block (coreOf h) }
  State.updCore { s with nextIdent := s.nextIdent + 1, gathers := s.gathers ++ [g] } (coreOf h) (fun k =>
    { k with interlock := k.interlock ++ [entry] })

/-- Queue a WRITE or READ (R448). -/
def State.postWork (s : State) (h w peerE seq : Nat) : State :=
  { s with
    nextIdent := s.nextIdent + 1,
    work := s.work ++
      [{ lno := s.hartLno h, seq := seq, num := s.nextIdent, task := (s.hart h).task.getD 0, posted := s.time, w := w, tower := hartTower h,
         sup := (s.ctx h).prv, peerE := peerE, sent := 0, acked := [], held := false }] }

/-- npost at issue (R448). -/
def npostAct (h : Nat) (d : BitVec 7) (e : QEntry) : M Unit := do
  let s ← get
  let wd : Word := e.word.setWidth 64
  let w := (s.ctx h).staged
  let lno := s.hartLno h
  if workBad w then trapM cOPND wd
  let block ← if wrKind w = 3 then gatherBlock h w wd else pure 0
  needRelease h
  let p ← if wrKind w = 3 then pure 0 else peerEntry (wrPeer w)
  let answer (n : Nat) : M Unit := modify (fun s => s.setX h d (word n))
  if wrKind w != 3 && (!s.netOn || !peerOk p || bits p 225 224 == 3 || (peerLno p != 0 && peerLno p != lno)) then answer (2 * 2 ^ 60)
  else if 256 ≤ s.outstanding lno then answer (2 ^ 60)
  else
    let n ← postCount lno
    modify (fun s => if wrKind w = 3 then s.postGather h w block n else s.postWork h w p n)
    answer n

/-- R448. Post the staged work request; x[d] := its sequence number, FULL or NOPEER. -/
def execNpost (k : Bool) (d : BitVec 7) (s : State) : Out1 :=
  issueFront (.npost k d) (wordR 0x3D 1 k d.toNat 0 0) (npostAct s.turn d) s

/-- Completion counter c of a launch (R445). -/
def State.ctr (s : State) (lno c : Nat) : Word := ((s.launch lno).map (fun l => Tbl.get 0 l.ctrs c)).getD 0

/-- Set completion counter c of a launch. -/
def State.setCtr (s : State) (lno c : Nat) (v : Word) : State := s.updLaunch lno (fun l => { l with ctrs := Tbl.set l.ctrs c v })

/-- nwait at issue (R449). -/
def nwaitAct (h : Nat) (d : BitVec 7) (e : QEntry) : M Unit := do
  let s ← get
  let x := e.opA.toNat
  let lno := s.hartLno h
  let v := s.ctr lno x
  if e.opB.toInt < v.toInt then waitM (.counter lno x e.opB)
  modify (fun s => (s.acquire h 3).setX h d v)

/-- R449. Wait until a counter is at or below x[b]; acquire; x[d] := the counter. -/
def execNwait (k : Bool) (d a b : BitVec 7) (s : State) : Out1 :=
  issueFront (.nwait k d a b) (wordR 0x3D 2 k d.toNat a.toNat b.toNat) (nwaitAct s.turn d) s

/-- nctr at issue (R450). -/
def nctrAct (h : Nat) (d : BitVec 7) (e : QEntry) : M Unit := do
  let s ← get
  let x := e.opA.toNat
  let lno := s.hartLno h
  let op := bits x 63 62
  let c := x % 64
  let v := s.ctr lno c
  let q := e.opB
  modify (fun s => (if op = 0 then s else s.setCtr lno c (if op = 1 then q else v + q)).setX h d v)

/-- R450. Read, set or add to a completion counter; x[d] := its old value. -/
def execNctr (k : Bool) (d a b : BitVec 7) (s : State) : Out1 :=
  issueFront (.nctr k d a b) (wordR 0x3D 3 k d.toNat a.toNat b.toNat) (nctrAct s.turn d) s

/-- The copy job that stands for record i of a gather's destination: its checks, guard touches and writes are those of a copy
(R246, R355). -/
def Gather.job (g : Gather) (off : Nat) : CopyJob :=
  let b := g.block
  let e : CopyEnd := { rem := false, core := coreOf g.hart, space := gaDsp b, base := off }
  { ident := g.ident, hart := g.hart, task := g.task, lno := g.lno, sup := g.sup, src := e, dst := e, counts := [1], sstr := [], dstr := [],
    run := gaRsz b, xp := 0, next := 0, dec := false, cnt := 0, group := 0, nr := 0, held := false }

/-- Read virtual bytes for a gather. -/
def gatherRead (g : Gather) (va : Int) (n : Nat) : M (Except AccFault Nat) := do
  if va < 0 then return .error .perm
  match ← resolve g.req .load va.toNat n with
  | .error e => return .error e
  | .ok ps =>
    let s ← get
    if s.piecesPoisoned ps then return .error .uncorr
    if (s.hart g.hart).task == some g.task then set (s.noteRead g.hart ps)
    return .ok (s.readPieces ps)

/-- Write the bytes of a record, and set its granules full where FESET asks (R205, R353). -/
def Gather.put (g : Gather) (off : Nat) (bs : List Byte) (ps : List Piece) (s : State) : State :=
  let j := g.job off
  let c := coreOf g.hart
  if gaDsp g.block = 0 then ps.foldl (fun s p => s.dropL1 c p.pa p.len) (s.writePieces none ps (ofBytes bs))
  else
    let s := j.touchGuards j.dst off bs.length s
    (s.countConflicts c).updBuf c g.lno (kindOf (gaDsp g.block)) (fun (b : Buf) =>
      let data := bs.zipIdx.foldl (fun m x => if granClass b.size ((off + x.2) / 16) = .alloc then m.write (off + x.2) x.1 else m) b.data
      let gs := (granules off bs.length).filter (fun q => granClass b.size q == .alloc)
      { b with data := data, full := if gaFeset g.block then gs.foldl (fun t q => Tbl.set t q true) b.full else b.full })

/-- An address of a gather's destination as COPY's EVAL gives it (R246, R355). -/
def Gather.evalDest (g : Gather) (d : Int) : Word :=
  (({ rem := false, core := coreOf g.hart, space := gaDsp g.block, base := 0 } : CopyEnd)).eval d

/-- Perform record i (R353): the address that failed goes with a refusal, and whether a store needs it. -/
def Gather.perform (g : Gather) (i : Nat) : M (Except (AccFault × Word × Acc) Unit) := do
  let b := g.block
  let ia := (gaIbase b : Int) + i * gaIw b
  match ← gatherRead g ia (gaIw b) with
  | .error e => return .error (e, wordS ia, .load)
  | .ok idx =>
    let d := g.destOf i
    let zero := gaBound b != 0 && decide (gaBound b ≤ idx)
    let ta := (gaTbase b : Int) + idx * 2 ^ gaShift b
    match ← (if zero then pure (.ok 0) else gatherRead g ta (gaRsz b)) with
    | .error e => return .error (e, wordS ta, .load)
    | .ok v =>
      match ← gatherDest g.req g d (gaRsz b) with
      | .error e => return .error (e, g.evalDest d, .store)
      | .ok ps =>
        modify (g.put d.toNat (toBytes (gaRsz b) v) ps)
        return .ok ()

/-- The record at which a gather aborts (R355): each byte that both sides admit may have been written or not (free, log 29). -/
def Gather.partialRecord (g : Gather) (i : Nat) : M Unit := do
  let b := g.block
  match ← gatherRead g ((gaIbase b : Int) + i * gaIw b) (gaIw b) with
  | .error _ => pure ()
  | .ok idx =>
    let d := g.destOf i
    let zero := gaBound b != 0 && decide (gaBound b ≤ idx)
    let ta := (gaTbase b : Int) + idx * 2 ^ gaShift b
    let free ← drawN (gaRsz b)
    forN (gaRsz b) (fun k => do
      if Config.freeBool (free + k) then
        match ← (if zero then pure (.ok 0) else gatherRead g (ta + k) 1) with
        | .error _ => pure ()
        | .ok v =>
          match ← gatherDest g.req g (d + k) 1 with
          | .error _ => pure ()
          | .ok ps =>
            let s ← get
            let size := (s.buf (coreOf g.hart) g.lno (kindOf (gaDsp b))).size
            if gaDsp b = 0 || granClass size ((d + k).toNat / 16) == .alloc then
              modify (g.put (d + k).toNat (toBytes 1 v) ps))

/-- A gather completes (R353, R354): its interlock entry is freed, then its counter decremented. -/
def State.endGather (s : State) (g : Gather) : State :=
  (({ s with gathers := s.gathers.filter (fun x => x.ident != g.ident) }).updCore (coreOf g.hart) (fun k =>
    { k with interlock := k.interlock.filter (fun (e : Interlock) => e.kind != 1 || e.ident != g.ident) })).decCtr g.lno g.lctr

/-- Change gather g. -/
def State.updGather (s : State) (ident : Nat) (f : Gather → Gather) : State :=
  { s with gathers := s.gathers.map (fun x => if x.ident = ident then f x else x) }

/-- R353, R355. The gather of an identity performs its next record. -/
def execGatherRecord (g : Nat) (s : State) : Out1 :=
  match s.gathers.find? (fun x => x.ident == g) with
  | none => .next s
  | some j =>
    if j.held then .next s
    else if gaCount j.block ≤ j.next then .next (s.endGather j)
    else
      match (j.perform j.next).run s with
      | .error _ t => .next (keepSide s t)
      | .ok r t =>
        match r with
        | .ok _ => .next (if j.next + 1 = gaCount j.block then t.endGather j else t.updGather g (fun x => { x with next := j.next + 1 }))
        | .error (.page p, _, a) =>
          .next ((t.updGather g (fun x => { x with held := true })).requestPage j.lno p (needOf a j.sup) (.gather g))
        | .error (.uncorr, ev, _) => .next ((t.endGather j).terminateTask j.task cUNCORR ev 0 0)
        | .error (_, ev, _) => .next (((t.runM (j.partialRecord j.next)).latchCopy j.hart j.task ev).endGather j)

end Sys2Proof.Machine
end

