-- ==== Sys2Proof/Machine/Transport.lean ====
section
/-! DEFINITION. Transport and links of the network engine: sending, placing, acknowledging and failing, Benlar flits and Ethernet
frames (R437 to R445, R451 to R454). -/

namespace Sys2Proof.Machine

open Sys2Proof

/-- Delivery context with a peer (R443). -/
def State.delivery (s : State) (rod : Bool) (peer : Nat) : Delivery := Tbl.get Delivery.reset (if rod then s.rod else s.rud) peer

/-- Replace a delivery context. -/
def State.setDelivery (s : State) (rod : Bool) (peer : Nat) (d : Delivery) : State :=
  if rod then { s with rod := Tbl.set s.rod peer d } else { s with rud := Tbl.set s.rud peer d }

/-- Benlar port n. -/
def State.benlarPort (s : State) (n : Nat) : BenlarPort := Tbl.get BenlarPort.reset s.benlar n
/-- Replace Benlar port n. -/
def State.setBenlar (s : State) (n : Nat) (p : BenlarPort) : State := { s with benlar := Tbl.set s.benlar n p }
/-- Ethernet port n. -/
def State.ethPort (s : State) (n : Nat) : EthPort := Tbl.get EthPort.reset s.eth n
/-- Replace Ethernet port n. -/
def State.setEth (s : State) (n : Nat) (p : EthPort) : State := { s with eth := Tbl.set s.eth n p }

/-- Ports that packets to a peer may take (R437, R439, R444). -/
def State.portsOf (s : State) (p : Nat) : List Nat :=
  if peerBenlar p then
    (List.range 18).filter (fun i => bit (Tbl.get 0 s.routes (peerAddr p % 4096)) i && bit s.blcfg i && bit (peerPorts p) i && (s.benlarPort i).up)
  else (List.range 8).filter (fun i => bit (peerPorts p) i)

/-- The port of the next packet: sprayed packets rotate, others take the lowest (R439, R440). -/
def State.portFor (s : State) (p : Nat) (spray : Bool) (rot : Nat) : Option Nat :=
  let ps := s.portsOf p
  if spray then ps[rot % max 1 ps.length]? else ps.head?

/-- Packet number at which a MACsec key stops sending (R441). -/
def pnLimit : Nat := 2 ^ 62

/-- An Ethernet port can send a frame: MACsec is off, or its newest key has packet numbers left (R435, R441). -/
def State.transmits (s : State) (port : Nat) : Bool :=
  !s.macsecOn port || (match (s.ethPort port).keys with
    | k :: _ => decide (k.pn < pnLimit)
    | [] => false)

/-- IEEE 802.1Qbb flow control has paused a traffic class of an Ethernet port (R440). -/
def State.paused (s : State) (port tc : Nat) : Bool := decide (tc < 4) && decide (s.time < Tbl.get 0 (s.ethPort port).paused tc)

/-- A Benlar port can send n flits on a virtual channel: its link is up, its replay buffer has room, the channel has credits (R439). -/
def BenlarPort.takes (b : BenlarPort) (vc n : Nat) : Bool :=
  b.up && decide (b.replay.length + n ≤ 1024) && decide (Tbl.get 0 b.used vc + n ≤ Config.vcCredits)

/-- Benlar flits of a message: its head and a body flit for each 232 bytes (R438, R439). -/
def flitsOf (len : Nat) : Nat := 1 + cdiv len 232

/-- The way that a message takes now: path, port and address.  One to a peer without a valid entry leaves by the lowest Ethernet port
that can send.  DESIGN CHOICE (log 94). -/
def State.wayOf (s : State) (r : Route) : Option (Nat × Nat × Nat) :=
  if peerOk r.entry then (s.portFor r.entry r.spray r.rot).map (fun n => (b2n (peerBenlar r.entry), n, peerAddr r.entry))
  else ((List.range 8).find? s.transmits).map (fun n => (0, n, r.peer))

/-- The way of a message, where its port can send it now. -/
def State.openWay (s : State) (r : Route) : Option (Nat × Nat × Nat) :=
  (s.wayOf r).filter (fun w => if w.1 = 1 then (s.benlarPort w.2.1).takes r.vc (flitsOf r.len)
    else s.transmits w.2.1 && !s.paused w.2.1 r.vc)

/-- This package's ID (R437). -/
def State.packageId (s : State) : Nat := bits s.blcfg 59 48

/-- A flit's fields (R438). -/
def flitDst (n : Nat) : Nat := bits n 127 116
def flitSrc (n : Nat) : Nat := bits n 115 104
def flitVc (n : Nat) : Nat := bits n 103 100
def flitType (n : Nat) : Nat := bits n 99 96
def flitLen (n : Nat) : Nat := bits n 95 80
def flitSeq (n : Nat) : Nat := bits n 63 32
def flitAck (n : Nat) : Nat := bits n 31 0

/-- The 256 bytes of a flit: header, at most 232 bytes of payload, CRC-64 (R438). -/
def flitBytes (dst src vc type lseq lack : Nat) (payload : List Byte) : List Byte :=
  let payload := payload.take 232
  let n := lack % 2 ^ 32 + 2 ^ 32 * (lseq % 2 ^ 32 + 2 ^ 48 * (payload.length % 2 ^ 16 + 2 ^ 16 * (type % 16 + 16 * (vc % 16 + 16 * (src % 4096 + 4096 * (dst % 4096))))))
  let body := toBytes 16 n ++ toBytes 232 (ofBytes payload)
  body ++ toBytes 8 (Config.crc64 body)

/-- A flit is intact: 256 bytes under their CRC-64 (R438, R439). -/
def flitIntact (flit : List Byte) : Bool :=
  flit.length == 256 && ofBytes (flit.drop 248) == Config.crc64 (flit.take 248) % 2 ^ 64

/-- Send a flit on a Benlar port: it gets the next link sequence, stands in the replay buffer and uses a credit (R438, R439). -/
def State.putFlit (s : State) (port dst src vc type : Nat) (payload : List Byte) : State :=
  let b := s.benlarPort port
  let q := (b.txSeq + 1) % 2 ^ 32
  let flit := flitBytes dst src vc type q b.rxSeq payload
  State.send (s.setBenlar port { b with txSeq := q, replay := b.replay ++ [(q, flit)], used := Tbl.upd 0 b.used vc (· + 1) })
    .flit (port :: flit.map (·.toNat))

/-- The payloads of a message's flits: its headers, then its bytes by 232. -/
def payloads (head : List Nat) (body : List Byte) : List (List Byte) :=
  Config.headBytes head :: (List.range (cdiv body.length 232)).map (fun k => (body.drop (232 * k)).take 232)

/-- Send a message to a package over a Benlar port: a head and body flits of the network engine, or flits of Jetstream (R438, R439,
R458). -/
def State.putMessage (s : State) (port dst vc len : Nat) (msg : List Nat) : State :=
  let n := msg.length - len
  let ps := payloads (msg.take n) ((msg.drop n).map (BitVec.ofNat 8))
  (ps.foldl (fun (st : State × Nat) p => (st.1.putFlit port dst s.packageId vc (if vc < 4 then st.2 else 3) p, 2)) (s, 1)).1

/-- Bytes of a port's replay area, and where the area of port p begins (R442). -/
def llrWindow : Nat := 2 ^ 28
def State.llrBase (s : State) (port : Nat) : Nat := bits s.netllr 47 31 * 2 ^ 31 + port * llrWindow

/-- The frames that are still in the window: the youngest, as far as their bytes fit into it (R442). -/
def inWindow : List (Nat × Nat × Out) → List (Nat × Nat × Out)
  | [] => []
  | x :: l => if ((x :: l).map (fun f => f.2.1)).foldl (· + ·) 0 ≤ llrWindow then x :: l else inWindow l

/-- Write bytes of a replay area. -/
def State.putArea (s : State) (pa : Nat) (bs : List Byte) : State :=
  if bs.isEmpty || !(s.backed pa && s.backed (pa + bs.length - 1)) then s else s.writePa none pa bs

/-- Link-layer retry keeps a frame that leaves a port, in the port's replay area in HBM, where frames follow one another and go round
(R442; DESIGN CHOICE, log 124). -/
def State.keepFrame (s : State) (port : Nat) (o : Out) : State :=
  let e := s.ethPort port
  let bs := (Config.frameBytes o.data).take llrWindow
  let room := llrWindow - e.llrPos
  let s := (s.putArea (s.llrBase port + e.llrPos) (bs.take room)).putArea (s.llrBase port) (bs.drop room)
  s.setEth port { e with
    llrSeq := e.llrSeq + 1, llrPos := (e.llrPos + bs.length) % llrWindow, llrKept := inWindow (e.llrKept ++ [(e.llrSeq + 1, bs.length, o)]) }

/-- A frame leaves an Ethernet port: after transport and MACsec comes link-layer retry, where NETLLR enables it (R441, R442). -/
def State.putFrame (s : State) (port : Nat) (o : Out) : State :=
  (if bit s.netllr 63 then s.keepFrame port o else s).send o.kind o.data

/-- Hand a message to its port (R439, R441): flits on Benlar, a frame under the newest key on a MACsec port.  None while no port can
send it. -/
def State.emit (s : State) (r : Route) (o : Out) : Option State :=
  (s.openWay r).map (fun w =>
    if w.1 = 1 then s.putMessage w.2.1 w.2.2 r.vc r.len o.data
    else
      let e := s.ethPort w.2.1
      let s := if s.macsecOn w.2.1 then
          match e.keys with
          | k :: ks => s.setEth w.2.1 { e with keys := { k with pn := k.pn + 1 } :: ks }
          | [] => s
        else s
      s.putFrame w.2.1 { o with data := w.1 :: w.2.1 :: w.2.2 :: o.data })

/-- Numbers of a packet's body. -/
def bodyData : PacketBody → List Nat
  | .write rep roff len off rctr data => [1, rep, roff, len, off, rctr] ++ data.map (·.toNat)
  | .read rep roff len off n => [2, rep, roff, len, off, n]
  | .readData off data => [3, off] ++ data.map (·.toNat)
  | .trimmed => [4]

/-- Payload bytes of a packet's body. -/
def bodyLen : PacketBody → Nat
  | .write _ _ _ _ _ data => data.length
  | .read .. => 0
  | .readData _ data => data.length
  | .trimmed => 0

/-- Congestion control and the SACK bitmap let a context send another packet (R440, R443). -/
def Delivery.opens (d : Delivery) : Bool :=
  decide (d.nextPsn < (((d.inFlight.map (·.psn)).min?).getD d.nextPsn) + 256) && decide (d.inFlight.length < d.window)

/-- Lowest PSN in flight of a context. -/
def Delivery.low (d : Delivery) : Nat := ((d.inFlight.map (·.psn)).min?).getD d.nextPsn

/-- How the next packet of a delivery context with peer `peer`, whose entry is p, travels. -/
def State.nextRoute (s : State) (rod : Bool) (peer p : Nat) (spray : Bool) (tc len : Nat) : Route :=
  { peer := peer, entry := p, spray := spray, rot := (s.delivery rod peer).rot, vc := tc, len := len }

/-- Send the next packet of a delivery context with peer `peer`, whose entry is p (R443): it gets the next PSN and is in flight.
None where no port can take it, or the bitmap or congestion control lets no packet follow. -/
def State.sendPacket (s : State) (rod : Bool) (peer p : Nat) (spray : Bool) (tc : Nat) (origin : Origin) (req : Nat) (b : PacketBody) :
    Option State :=
  let d := s.delivery rod peer
  let r := s.nextRoute rod peer p spray tc (bodyLen b)
  let o : Out := { kind := .packet, data := [b2n rod, d.nextPsn, d.low, req, d.rot % 256] ++ bodyData b }
  (if d.opens then s.emit r o else none).map (fun s =>
    let f : InFlight := { psn := d.nextPsn, origin := origin, nak := false, sentAt := s.time, route := r, msg := o }
    s.setDelivery rod peer { d with
      nextPsn := d.nextPsn + 1, inFlight := d.inFlight ++ [f], lastAck := if d.inFlight.isEmpty then s.time else d.lastAck,
      rot := if spray then d.rot + 1 else d.rot })

/-- A message in flight as it travels again: a packet names the lowest PSN that its sender waits for now. -/
def Delivery.again (d : Delivery) (o : Out) : Out := if o.kind = .packet then { o with data := o.data.set 2 d.low } else o

/-- Send a packet in flight again, by the way that its peer has now (R439, R443, R454). -/
def State.resend (s : State) (rod : Bool) (peer : Nat) (f : InFlight) : State :=
  match s.emit f.route ((s.delivery rod peer).again f.msg) with
  | none => s
  | some s =>
    let d := s.delivery rod peer
    s.setDelivery rod peer { d with inFlight := d.inFlight.map (fun x => if x.psn = f.psn then { x with sentAt := s.time } else x) }

/-- Packets of a request (R443). -/
def WorkReq.packets (r : WorkReq) : Nat := cdiv (wrLen r.w) (peerMtu r.peerE)
/-- Offset of packet k of a request. -/
def WorkReq.off (r : WorkReq) (k : Nat) : Nat := k * peerMtu r.peerE
/-- Bytes of packet k of a request. -/
def WorkReq.size (r : WorkReq) (k : Nat) : Nat := min (peerMtu r.peerE) (wrLen r.w - r.off k)
/-- Requester of the local side of a request (R451). -/
def WorkReq.req (r : WorkReq) : Req := { via := .base r.tower, lno := r.lno, sup := r.sup, hart := none }
/-- A work request that has not completed. -/
def State.findWork (s : State) (lno seq : Nat) : Option WorkReq := s.work.find? (fun r => r.lno == lno && r.seq == seq)

/-- Change a work request. -/
def State.updWork (s : State) (lno seq : Nat) (f : WorkReq → WorkReq) : State :=
  { s with work := s.work.map (fun r => if r.lno = lno ∧ r.seq = seq then f r else r) }

/-- A request completes (R452): its counter is decremented, and nothing of it is in flight. -/
def State.endWork (s : State) (r : WorkReq) : State :=
  let trim (d : Delivery) : Delivery := { d with inFlight := d.inFlight.filter (fun f => match f.origin with
    | .request l q _ => !(l == r.lno && q == r.seq)
    | _ => true) }
  let peer := wrPeer r.w
  let s := { s with work := s.work.filter (fun x => !(x.lno == r.lno && x.seq == r.seq)) }
  let s := s.setDelivery (wrRod r.w) peer (trim (s.delivery (wrRod r.w) peer))
  s.decCtr r.lno (wrLctr r.w)

/-- Statuses of NETERR (R454). -/
def nACCESS : Nat := 1
def nNOEP : Nat := 2
def nRPGFAIL : Nat := 3
def nLOCAL : Nat := 4
def nTIMEOUT : Nat := 5

/-- A request fails (R454): a NETERR record of the launch, and it completes. -/
def State.failWork (s : State) (r : WorkReq) (status : Nat) : State :=
  (s.launchRecord r.lno cNETERR (word status) (wrLaddr r.w) (wrPeer r.w * 2 ^ 32 + r.seq)).endWork r

/-- A part of a request is done: packet k acknowledged, or placed for a READ; the last one completes it (R452). -/
def State.partDone (s : State) (lno seq k : Nat) : State :=
  match s.findWork lno seq with
  | none => s
  | some r =>
    let r := { r with acked := Tbl.set r.acked k true }
    if r.packets ≤ r.acked.length then s.endWork r else s.updWork lno seq (fun _ => r)

/-- Hold a request at a page (R454). -/
def State.holdWork (s : State) (r : WorkReq) (p : PageAddr) (need : Nat) : State :=
  (s.updWork r.lno r.seq (fun r => { r with held := true })).requestPage r.lno p need (.net r.lno r.seq)

/-- The request has a packet that it may send. -/
def WorkReq.canSend (r : WorkReq) : Bool := !r.held && decide (r.sent < r.packets)

/-- Payload bytes of the next packet of a request: a READ packet carries none. -/
def WorkReq.nextLen (r : WorkReq) : Nat := if wrKind r.w = 2 then 0 else r.size r.sent

/-- The source bytes of the next packet of a WRITE wait at a tile in arrival state (R309). -/
def State.readWaits (s : State) (r : WorkReq) : Bool :=
  wrKind r.w != 2 && (match (resolve r.req .load (wrLaddr r.w + r.off r.sent) (r.size r.sent)).run s with
    | .error _ _ => true
    | .ok _ _ => false)

/-- A port and the delivery context can take the next packet of a request, and its bytes can be read: one that waits holds no other (R439,
R451). -/
def State.sendable (s : State) (r : WorkReq) : Bool :=
  r.canSend && (s.delivery (wrRod r.w) (wrPeer r.w)).opens &&
    (s.openWay (s.nextRoute (wrRod r.w) (wrPeer r.w) r.peerE (wrSpray r.w) (wrTc r.w) r.nextLen)).isSome && !s.readWaits r

/-- The request that the engine serves next (R451): highest TC, then launches round robin, then the oldest. -/
def State.nextWork (s : State) : Option WorkReq :=
  let rank (r : WorkReq) : Nat × Nat := (3 - wrTc r.w, (r.lno + 2 ^ 16 - (s.netTurn + 1) % 2 ^ 16) % 2 ^ 16)
  (s.work.filter s.sendable).foldl (fun (best : Option WorkReq) r =>
    match best with
    | none => some r
    | some b =>
      let x := rank r
      let y := rank b
      if x.1 < y.1 ∨ (x.1 = y.1 ∧ x.2 < y.2) then some r else some b) none

/-- Send packet `r.sent` of a request with a body. -/
def State.sendPart (s : State) (r : WorkReq) (b : PacketBody) : State :=
  match s.sendPacket (wrRod r.w) (wrPeer r.w) r.peerE (wrSpray r.w) (wrTc r.w) (.request r.lno r.seq r.sent) r.num b with
  | none => s
  | some s => { s.updWork r.lno r.seq (fun r => { r with sent := r.sent + 1 }) with netTurn := r.lno }

/-- R439, R443, R451. The engine sends the next packet of a work request.  Poisoned source bytes end the task that posted it (R412), and the
request fails. -/
def execPacketSend (s : State) : Out1 :=
  match s.nextWork with
  | none => .next s
  | some r =>
    let k := r.sent
    let n := r.size k
    if wrKind r.w = 2 then .next (s.sendPart r (.read (peerRep r.peerE) (wrRoff r.w) (wrLen r.w) (r.off k) n))
    else
      let va := wrLaddr r.w + r.off k
      match (resolve r.req .load va n).run s with
      | .error _ t => .next (keepSide s t)
      | .ok (.error (.page p)) t => .next (t.holdWork r p (needOf .load r.sup))
      | .ok (.error _) t => .next (t.failWork r nLOCAL)
      | .ok (.ok ps) t =>
        if t.piecesPoisoned ps then .next ((t.terminateTask r.task cUNCORR (word va) 0 0).failWork r nLOCAL)
        else .next (t.sendPart r (.write (peerRep r.peerE) (wrRoff r.w) (wrLen r.w) (r.off k) (wrRctr r.w) (toBytes n (t.readPieces ps))))

/-- Advance a receiver past what it has seen (R443). -/
def advance : Nat → Nat → Tbl Bool → Nat × Tbl Bool
  | 0, b, seen => (b, seen)
  | n + 1, b, seen => if (Tbl.find seen b).isSome then advance n (b + 1) (Tbl.del seen b) else (b, seen)

/-- The receiver has PSN psn (R443). -/
def Delivery.receive (d : Delivery) (psn : Nat) : Delivery :=
  let a := advance 257 d.rxBase (Tbl.set d.rxSeen psn true)
  { d with rxBase := a.1, rxSeen := a.2 }

/-- The sender waits for nothing below `low`. -/
def Delivery.skipTo (d : Delivery) (low : Nat) : Delivery :=
  if low ≤ d.rxBase then d
  else
    let a := advance 257 low (d.rxSeen.filter (fun e => decide (low ≤ e.1)))
    { d with rxBase := a.1, rxSeen := a.2 }

/-- SACK bitmap: bit k for PSN base + k (R440). -/
def Delivery.bitmap (d : Delivery) : Nat := (d.rxSeen.map (fun e => 2 ^ (e.1 - d.rxBase))).foldl (· + ·) 0

/-- How an acknowledgement to a peer with entry p travels.  DESIGN CHOICE (log 94): it does not spray, and takes virtual channel 0. -/
def ackRoute (peer p : Nat) : Route := { peer := peer, entry := p, spray := false, rot := 0, vc := 0, len := 0 }

/-- Acknowledge what a peer's context has received, and refuse packet (PSN, status) where one is named (R443, R454). -/
def State.acknowledge (s : State) (rod : Bool) (peer : Nat) (nak : Option (Nat × Nat)) : State :=
  let r := s.evalM 0 (peerEntry peer)
  let s := r.2
  let d := s.delivery rod peer
  let tail := match nak with | some (p, st) => [1, p, st] | none => [0]
  (s.emit (ackRoute peer r.1) { kind := .sack, data := [b2n rod, d.rxBase, d.bitmap] ++ tail }).getD s

/-- Take a placed packet into the context and acknowledge it. -/
def State.accepted (s : State) (pkt : Packet) : State :=
  (s.setDelivery pkt.rod pkt.peer ((s.delivery pkt.rod pkt.peer).receive pkt.psn)).acknowledge pkt.rod pkt.peer none

/-- Nothing is kept of an arriving request any more: all of it is there, or it has failed (R452, R454). -/
def State.forgetRx (s : State) (pkt : Packet) : State :=
  let d := s.delivery pkt.rod pkt.peer
  s.setDelivery pkt.rod pkt.peer { d with rxPlaced := Tbl.del d.rxPlaced pkt.req, rxEntry := Tbl.del d.rxEntry pkt.req }

/-- Refuse a packet with a status, which fails its request; 0 asks for it again (R454). -/
def State.refusePacket (s : State) (pkt : Packet) (status : Nat) : State :=
  (if status = 0 then s else s.forgetRx pkt).acknowledge pkt.rod pkt.peer (some (pkt.psn, status))

/-- n more bytes of an arriving request of `len` bytes are placed, or read: whether all are now (R452). -/
def State.countRx (s : State) (pkt : Packet) (len n : Nat) : Bool × State :=
  let d := s.delivery pkt.rod pkt.peer
  let n := Tbl.get 0 d.rxPlaced pkt.req + n
  if len ≤ n then (true, s.forgetRx pkt)
  else (false, s.setDelivery pkt.rod pkt.peer { d with rxPlaced := Tbl.set d.rxPlaced pkt.req n })

/-- The endpoint entry of an arriving request: the one it started with (R444). -/
def State.entryFor (s : State) (pkt : Packet) (rep : Nat) : Nat × State :=
  match Tbl.find (s.delivery pkt.rod pkt.peer).rxEntry pkt.req with
  | some e => (e, s)
  | none =>
    let r := s.evalM 0 (endpointEntry rep)
    let d := r.2.delivery pkt.rod pkt.peer
    (r.1, r.2.setDelivery pkt.rod pkt.peer { d with rxEntry := Tbl.set d.rxEntry pkt.req r.1 })

/-- The endpoint of an arriving packet, or the status that refuses it (R451, R454). -/
def State.endpointFor (s : State) (pkt : Packet) (rep roff len : Nat) : Except Nat (Nat × Nat) × State :=
  let r := s.entryFor pkt rep
  let e := r.1
  (if rep ≥ 1024 || !epOk e || !(s.launch (epLno e)).any (fun l => l.live && l.gen == epGen e) then .error nNOEP
   else if epLen e < roff + len then .error nACCESS
   else .ok (epLno e, epBase e), r.2)

/-- A miss or a refusal at the target of a packet (R454). -/
def State.targetFault (s : State) (pkt : Packet) (lno need : Nat) : AccFault → State
  | .page p => (s.refusePacket pkt 0).requestPage lno p need (.netTarget lno pkt.peer pkt.rod pkt.psn)
  | _ => s.refusePacket pkt nACCESS

/-- A WRITE packet at the target (R451, R452).  One that waits at a tile in arrival state (R309) is asked for again (DESIGN CHOICE, log 125). -/
def State.placeWrite (s : State) (pkt : Packet) (rep roff len off rctr : Nat) (data : List Byte) : State :=
  let e := s.endpointFor pkt rep roff len
  match e.1 with
  | .error st => e.2.refusePacket pkt st
  | .ok (lno, base) =>
    let r := e.2.tryM (resolve (e.2.launchReq lno 0) .store ((base + roff + off) % 2 ^ 64) data.length)
    match r.1 with
    | none => r.2.refusePacket pkt 0
    | some (.error f) => r.2.targetFault pkt lno 2 f
    | some (.ok ps) =>
      let c := (r.2.writePieces none ps (ofBytes data)).countRx pkt len data.length
      (if c.1 then c.2.decCtr lno rctr else c.2).accepted pkt

/-- A READ packet at the target (R451): its bytes travel back. -/
def State.serveRead (s : State) (pkt : Packet) (rep roff len off n : Nat) : State :=
  let e := s.endpointFor pkt rep roff len
  match e.1 with
  | .error st => e.2.refusePacket pkt st
  | .ok (lno, base) =>
    let r := e.2.tryM (resolve (e.2.launchReq lno 0) .load ((base + roff + off) % 2 ^ 64) n)
    match r.1 with
    | none => r.2.refusePacket pkt 0
    | some (.error f) => r.2.targetFault pkt lno 1 f
    | some (.ok ps) =>
      if r.2.piecesPoisoned ps then r.2.refusePacket pkt nACCESS
      else
        let p := r.2.evalM 0 (peerEntry pkt.peer)
        match p.2.sendPacket pkt.rod pkt.peer p.1 false 0 .response pkt.req (.readData off (toBytes n (p.2.readPieces ps))) with
        | none => s
        | some s => (s.countRx pkt len n).2.accepted pkt

/-- A response packet of a READ (R451, R452, R454). -/
def State.placeRead (s : State) (pkt : Packet) (off : Nat) (data : List Byte) : State :=
  match s.work.find? (fun w => w.num == pkt.req) with
  | none => s.accepted pkt
  | some w =>
    if wrKind w.w != 2 || wrPeer w.w != pkt.peer then s.accepted pkt
    else
      let r := s.tryM (resolve w.req .store (wrLaddr w.w + off) data.length)
      match r.1 with
      | none => r.2.refusePacket pkt 0
      | some (.error (.page p)) => (r.2.refusePacket pkt 0).holdWork w p (needOf .store w.sup)
      | some (.error _) => (r.2.failWork w nLOCAL).accepted pkt
      | some (.ok ps) => ((r.2.writePieces none ps (ofBytes data)).partDone w.lno w.seq (off / peerMtu w.peerE)).accepted pkt

/-- The peer entry that the engine finds now: its copy, else the table's (R444). -/
def State.peerNow (s : State) (n : Nat) : Nat := (Tbl.find s.peers n).getD (s.mem.readN (s.netArea + 32 * n) 32)

/-- Jetstream's delivery context of a channel (R458). -/
def jetKey (comm ch : Nat) : Nat := 4096 + comm * 4096 + ch

/-- The peer of a delivery context: its number, or for a context of Jetstream the peer of the channel's rank (R458). -/
def State.peerOf (s : State) (key : Nat) : Nat :=
  if key < 4096 then key else s.rankPeer (s.comm ((key - 4096) / 4096)).entry ((key - 4096) % 4096 / 4)

/-- A Benlar port takes and sends flits (R437, R439): the Barometer has enabled it, and its link is up. -/
def State.linked (s : State) (port : Nat) : Bool := bit s.blcfg port && (s.benlarPort port).up

/-- A message of a peer can have come in as it stands (R437, R439, R441): over a Benlar link that the peer may use, or by an Ethernet port
that applies no MACsec, where a frame of the peer needs no check; a peer without a valid entry, either. -/
def State.hears (s : State) (peer : Nat) : Bool :=
  let p := s.peerNow peer
  ((!peerOk p || peerBenlar p) && (List.range 18).any s.linked) ||
    ((!peerOk p || !peerBenlar p) && (List.range 8).any (fun i => (!peerOk p || bit (peerPorts p) i) && !s.macsecOn i))

/-- The status that reports a trimmed packet, which no request fails with (R440). -/
def nTRIMMED : Nat := 255

/-- A packet arrives: placed once, refused, or a duplicate that is acknowledged and dropped (R443, R451, R452, R454); one that was trimmed on
the way is reported at once (R440). -/
def State.takePacket (s : State) (pkt : Packet) : Out1 :=
  let d := (s.delivery pkt.rod pkt.peer).skipTo pkt.low
  let s := s.setDelivery pkt.rod pkt.peer d
  if pkt.psn < d.rxBase || (Tbl.find d.rxSeen pkt.psn).isSome then .next (s.acknowledge pkt.rod pkt.peer none)
  else if pkt.body = .trimmed then .next (s.acknowledge pkt.rod pkt.peer (some (pkt.psn, nTRIMMED)))
  else if d.rxBase + 256 ≤ pkt.psn || (pkt.rod && pkt.psn != d.rxBase) then .next s
  else match pkt.body with
    | .write rep roff len off rctr data => .next (s.placeWrite pkt rep roff len off rctr data)
    | .read rep roff len off n => .next (s.serveRead pkt rep roff len off n)
    | .readData off data => .next (s.placeRead pkt off data)
    | .trimmed => .next s

/-- R443, R451, R452, R454. A packet arrives from a peer by a port that applies no MACsec. -/
def execTransportPacket (pkt : Packet) (s : State) : Out1 := if s.hears pkt.peer then s.takePacket pkt else .next s

/-- A SACK shows PSN p received. -/
def sackShows (base bitmap p : Nat) : Bool := decide (p < base) || (decide (p < base + 256) && bit bitmap (p - base))

/-- What an acknowledged packet completes (R452). -/
def State.ackedPacket (s : State) (f : InFlight) : State :=
  match f.origin with
  | .request lno seq k => match s.findWork lno seq with
    | some r => if wrKind r.w = 2 then s else s.partDone lno seq k
    | none => s
  | _ => s

/-- A packet was refused (R454): it waits for its next try, or its request fails; one that was trimmed counts as lost (R440). -/
def State.refused (s : State) (rod : Bool) (peer psn status : Nat) : State :=
  let d := s.delivery rod peer
  match d.inFlight.find? (fun f => f.psn == psn) with
  | none => s
  | some f =>
    if status = 0 then s.setDelivery rod peer { d with inFlight := d.inFlight.map (fun x =>
      if x.psn = psn then { x with nak := true, sentAt := s.time } else x) }
    else if status = nTRIMMED then s.resend rod peer f
    else match f.origin with
      | .request lno seq _ => match s.findWork lno seq with
        | some r => s.failWork r status
        | none => s
      | .run gid run va => s.failRun gid run status va
      | .response => s.setDelivery rod peer { d with inFlight := d.inFlight.filter (fun x => x.psn != psn) }

/-- The smoothed round trip after a sample: it moves towards it, how far is free (R443; log 121). -/
def smoothed (k old sample : Nat) : Nat :=
  if old = 0 then sample
  else if old ≤ sample then old + Config.smoothing k % (sample - old + 1)
  else old - Config.smoothing k % (old - sample + 1)

/-- Acknowledged packets measure the round trip, and congestion control sets its window (R440, R443; log 121). -/
def State.measured (s : State) (rod : Bool) (peer : Nat) (done : List InFlight) : State :=
  if done.isEmpty then s
  else
    let d := s.delivery rod peer
    State.setDelivery { s with fresh := s.fresh + 1 } rod peer { d with
      srtt := done.foldl (fun r f => smoothed s.fresh r (s.time - f.sentAt)) d.srtt, window := 1 + Config.congestion s.fresh % 256 }

/-- A selective acknowledgement arrives, with a refusal where one is named (R440, R443, R452). -/
def State.takeSack (s : State) (peer : Nat) (rod : Bool) (base bitmap : Nat) (nak : Option (Nat × Nat)) : State :=
  let d := s.delivery rod peer
  let done := d.inFlight.filter (fun f => sackShows base bitmap f.psn)
  let s := s.setDelivery rod peer { d with
    inFlight := d.inFlight.filter (fun f => !sackShows base bitmap f.psn), lastAck := s.time }
  let s := s.measured rod peer done
  let s := done.foldl State.ackedPacket s
  let s := match nak with
    | some (psn, st) => s.refused rod peer psn st
    | none => s
  let later (p : Nat) : Nat := ((List.range 256).filter (fun k => decide (p < base + k) && bit bitmap k)).length
  let missing := (s.delivery rod peer).inFlight.filter (fun f => !f.nak && decide (3 ≤ later f.psn))
  missing.foldl (fun s f => s.resend rod peer f) s

/-- R440, R443, R452. A selective acknowledgement arrives by a port that applies no MACsec; that of a Jetstream context comes from the peers
of its communicator. -/
def execSack (peer : Nat) (rod : Bool) (base bitmap : Nat) (nak : Option (Nat × Nat)) (s : State) : Out1 :=
  .next (if s.hears (s.peerOf peer) then s.takeSack peer rod base bitmap nak else s)

/-- A packet in flight. -/
def State.inFlightAt (s : State) (rod : Bool) (peer psn : Nat) : Option InFlight :=
  (s.delivery rod peer).inFlight.find? (fun f => f.psn == psn)

/-- The retransmission timeout of a context (R443): twice the smoothed round trip, and at least 10 µs. -/
def Delivery.timeout (d : Delivery) : Nat := max 10000 (2 * d.srtt)

/-- R443. A packet's retransmission timeout expires. -/
def execRetransmissionTimeout (peer : Nat) (rod : Bool) (psn : Nat) (s : State) : Out1 :=
  match s.inFlightAt rod peer psn with
  | some f => .next (if !f.nak && decide ((s.delivery rod peer).timeout ≤ s.time - f.sentAt) then s.resend rod peer f else s)
  | none => .next s

/-- R454. A refused packet is sent again after 100 µs. -/
def execNakRetransmit (peer : Nat) (rod : Bool) (psn : Nat) (s : State) : Out1 :=
  match s.inFlightAt rod peer psn with
  | some f => .next (if f.nak && decide (100000 ≤ s.time - f.sentAt) then s.resend rod peer f else s)
  | none => .next s

/-- A second without an acknowledgement from a peer (R443). -/
def State.peerSilent (s : State) (peer : Nat) : Bool :=
  let last := max (s.delivery false peer).lastAck (s.delivery true peer).lastAck
  decide (10 ^ 9 ≤ s.time - last)

/-- Every outstanding request to a silent peer fails (R443, R454): one of them has been outstanding for a second, whether it could be sent or
not. -/
def State.failPeer (s : State) (peer : Nat) : State :=
  let ws := s.work.filter (fun r => wrPeer r.w == peer)
  if ws.any (fun r => decide (10 ^ 9 ≤ s.time - r.posted)) && s.peerSilent peer then
    let s := ws.foldl (fun s r => s.failWork r nTIMEOUT) s
    let clear (rod : Bool) (s : State) : State := s.setDelivery rod peer { s.delivery rod peer with inFlight := [] }
    clear true (clear false s)
  else s

/-- The instances with lines in flight to a silent rank fail (R443, R458, R470). -/
def State.failRank (s : State) (key : Nat) : State :=
  let d := s.delivery false key
  if d.inFlight.isEmpty || !s.peerSilent key then s
  else
    let s := d.inFlight.foldl (fun s f => match f.origin with
      | .run gid run _ => s.failRun gid run jTIMEOUT 0
      | _ => s) s
    s.setDelivery false key { s.delivery false key with inFlight := [] }

/-- R443, R454, R470. A peer has acknowledged nothing for a second; a number from 4,096 on names a delivery context of Jetstream. -/
def execPeerTimeout (peer : Nat) (s : State) : Out1 := .next (if peer < 4096 then s.failPeer peer else s.failRank peer)

/-- Link sequence q is at or below n, in the wrapping order of 32-bit numbers (R438). -/
def seqReached (n q : Nat) : Bool := decide ((n + 2 ^ 32 - q % 2 ^ 32) % 2 ^ 32 < 2 ^ 31)

/-- The flits up to a link sequence are intact at the far end; where an acknowledging flit frees none, the rest are sent again from
the first (R439). -/
def State.linkAck (s : State) (port n : Nat) : State :=
  let b := s.benlarPort port
  let left := b.replay.filter (fun f => !seqReached (flitAck n) f.1)
  let s := s.setBenlar port { b with replay := left }
  if flitType n == 4 && left.length == b.replay.length then left.foldl (fun s f => s.send .flit (port :: f.2.map (·.toNat))) s else s

/-- Send a credit and acknowledge flit (R438, R439): it acknowledges all that has arrived intact and returns n credits of a virtual
channel.  DESIGN CHOICE (log 94): such a flit and an idle flit have no link sequence of their own. -/
def State.putCredit (s : State) (port vc n : Nat) : State :=
  let b := s.benlarPort port
  if !s.linked port then s
  else s.send .flit (port :: (flitBytes 0 s.packageId vc 4 b.txSeq b.rxSeq (Config.creditBytes n)).map (·.toNat))

/-- A credit flit returns credits to its virtual channel (R438, R439). -/
def State.takeCredit (s : State) (port n : Nat) (flit : List Byte) : State :=
  let b := s.benlarPort port
  if flitType n = 4 then s.setBenlar port { b with used := Tbl.upd 0 b.used (flitVc n) (· - Config.creditsOf ((flit.drop 16).take (flitLen n))) }
  else s

/-- The port by which a flit for another package goes on: the lowest enabled one of its route (R437); none drops it. -/
def State.wayOn (s : State) (dst : Nat) : Option Nat :=
  (List.range 18).find? (fun i => bit (Tbl.get 0 s.routes dst) i && bit s.blcfg i && (s.benlarPort i).up)

/-- Pass on a flit that waits at a port, where its virtual channel has a credit on the next link (R437, R439); its own credit goes
back.  One that no route leads on is dropped (log 94). -/
def State.passOn (s : State) (port : Nat) (flit : List Byte) : State :=
  let n := ofBytes (flit.take 16)
  let drop (s : State) : State :=
    let b := s.benlarPort port
    (s.setBenlar port { b with transit := b.transit.erase flit }).putCredit port (flitVc n) 1
  match s.wayOn (flitDst n) with
  | none => drop s
  | some p =>
    if (s.benlarPort p).takes (flitVc n) 1 then
      (drop s).putFlit p (flitDst n) (flitSrc n) (flitVc n) (flitType n) ((flit.drop 16).take (flitLen n))
    else s

/-- Pass on what can go of the flits that wait in this package. -/
def State.passAll (s : State) : State :=
  (List.range 18).foldl (fun s p => (s.benlarPort p).transit.foldl (fun s f => s.passOn p f) s) s

/-- Messages that flits carry to the transport and to Jetstream. -/
def isMessage (i : Instr) : Bool :=
  match i with
  | .transportPacket .. => true
  | .sack .. => true
  | .chunkLine .. => true
  | .credit .. => true
  | .rstrArrive .. => true
  | _ => false

/-- A flit of this package's own: a head begins a message, the others add to it, and a whole message is taken by the next step
(R438, R439, R458). -/
def State.joinFlit (s : State) (port n : Nat) (flit : List Byte) : State :=
  let b := s.benlarPort port
  let key := flitSrc n * 16 + flitVc n
  let got := (if flitType n = 1 then [] else Tbl.get [] b.parts key) ++ (flit.drop 16).take (flitLen n)
  let s := s.putCredit port (flitVc n) 1
  match (Config.messageOf (flitSrc n) got).filter isMessage with
  | some i => { s.setBenlar port { b with parts := Tbl.del b.parts key } with agenda := i :: s.agenda }
  | none => s.setBenlar port { b with parts := Tbl.set b.parts key got }

/-- Take a flit that arrived in order (R438): one of types 5 to 15 is dropped and logged, and so is one with more than 232 payload
bytes (log 94); an idle flit says nothing; one for another package is passed on. -/
def State.takeFlit (s : State) (port n : Nat) (flit : List Byte) : State :=
  if 5 ≤ flitType n || 232 < flitLen n then (s.logHealth 0 port 0 0 0 n).putCredit port (flitVc n) 1
  else if flitDst n = s.packageId then s.joinFlit port n flit
  else
    let b := s.benlarPort port
    s.setBenlar port { b with transit := b.transit ++ [flit] }

/-- R437, R438, R439. A flit arrives on an enabled port: checked, its acknowledgement and credits taken, and taken in link order once; one out of
order is answered by an acknowledgement. -/
def execBenlarFlit (port : Nat) (flit : List (BitVec 8)) (s : State) : Out1 :=
  let n := ofBytes (flit.take 16)
  if !s.linked port || !flitIntact flit then .next s
  else
    let s := (s.linkAck port n).takeCredit port n flit
    let b := s.benlarPort port
    if flitType n = 0 || flitType n = 4 then .next s.passAll
    else if flitSeq n = (b.rxSeq + 1) % 2 ^ 32 then .next ((s.setBenlar port { b with rxSeq := flitSeq n }).takeFlit port n flit).passAll
    else .next (s.putCredit port 0 0)

/-- R439. A link that fails leaves every route mask; its replay buffer is lost. -/
def execBenlarLinkLoss (port : Nat) (s : State) : Out1 :=
  let routes : Tbl Nat := s.routes.map (fun e => (e.1, setBits e.2 port port 0))
  .next (State.setBenlar { s with routes := routes } port { s.benlarPort port with up := false, replay := [], parts := [] })

end Sys2Proof.Machine
end

