-- ==== Sys2Proof/Machine/Jetstream.lean ====
section
/-! DEFINITION. Jetstream: the words cgload, cgrun, cgwait, cgstat, communicator acceptance, chunk engines, lines, credits, adders and
tagged reduce-stores (R457 to R477). -/

namespace Sys2Proof.Machine

open Sys2Proof

/-- A rank of the communicator is reached over Benlar (R457). -/
def State.hasBenlar (s : State) (e : Nat) : Bool :=
  (List.range (coNrm1 e + 1)).any (fun r => r != coRank e && decide (s.rankPeer e r < 4096) && peerBenlar (s.peerNow (s.rankPeer e r)))

/-- Entry n of the communicator table as it stands (R457). -/
def State.tableEntry (s : State) (n : Nat) : Nat :=
  if bit s.commcfg 63 then s.mem.readN (bits s.commcfg 47 16 * 65536 + 64 * n) 64 else 0

/-- Live instances on communicator n. -/
def State.runsOn (s : State) (n : Nat) : Nat := (s.jets.filter (fun j => (s.jgraph j.gid).comm == n)).length

/-- Flag words of the rings of an accepted entry become all ones (R457). -/
def State.clearRings (s : State) (e : Nat) : State :=
  (List.range (4 * (coNrm1 e + 1) * coDepth e * 512)).foldl (fun s k =>
    s.writePa none (coRing e + 128 * k + 120) (toBytes 8 (2 ^ 64 - 1))) s

/-- An entry changed (R457). -/
def State.commChanged (s : State) (n : Nat) : Bool := s.tableEntry n != (s.comm n).entry || (s.comm n).fault

/-- The table that COMMSYNC would accept breaks R457: two Benlar communicators on one VC, or too many adder entries. -/
def State.commsBad (s : State) : Bool :=
  let es := ((List.range 64).map s.tableEntry).filter coOk
  let vcs := (es.filter s.hasBenlar).map coVc
  decide ¬ vcs.Nodup || decide (1024 < (es.map coResq).foldl (· + ·) 0)

/-- The engine accepts entry n of the table and restarts its channels (R457); the tags it has accepted stay (R469). -/
def State.acceptComm (s : State) (n : Nat) : State :=
  let e := s.tableEntry n
  let s := if coOk e then s.clearRings e else s
  { s with comms := Tbl.set s.comms n { Comm.reset with entry := e, tagH := (s.comm n).tagH, tags := (s.comm n).tags },
           rud := s.rud.filter (fun d => !(decide (jetKey n 0 ≤ d.1) && decide (d.1 < jetKey (n + 1) 0))) }

/-- R457. COMMSYNC: changed entries restart, unchanged ones stay as they are. -/
def execCommsync (s : State) : Out1 :=
  .next (s.command 0x21 false (fun s =>
    let changed := (List.range 64).filter s.commChanged
    if changed.any (fun n => s.runsOn n != 0) then (s, some (bmBUSY, 0))
    else if s.commsBad then (s, some (bmBADARG, 0))
    else (changed.foldl State.acceptComm s, some (bmOK, 0))))

/-- The issuer's launch owns a valid communicator, or OPND (R472). -/
def jetOwned (h n : Nat) (wd : Word) : M Unit := do
  let s ← get
  let e := (s.comm n).entry
  let lno := s.hartLno h
  if coOk e && !(coLno e == lno && (s.launch lno).any (fun l => l.gen == coGen e)) then trapM cOPND wd

/-- The graph that a handle names (R473). -/
def State.graphFor (s : State) (x : Nat) : Option JetGraph :=
  let g := s.jgraph (x % 65536)
  if g.ops.isEmpty || g.gen != bits x 31 16 then none else some g

/-- Handle bits of R473. -/
def handleBits (x : Nat) : Nat := x % 2 ^ 32

/-- n blocks of 64 bytes read as scalar loads read (R473), as 16-bit units. -/
def readUnits (h va : Nat) : Nat → M (List Nat)
  | 0 => return []
  | n + 1 => do
    let s ← get
    let v ← readHome (s.reqOf h) cSACC (word va) va 64
    modify (fun s => s.countHops (coreOf h) v.2)
    let rest ← readUnits h (va + 64) n
    return (List.range 32).map (fun k => bits v.1 (16 * k + 15) (16 * k)) ++ rest

/-- The number of little-endian 16-bit units. -/
def ofUnits : List Nat → Nat
  | [] => 0
  | u :: us => u + 65536 * ofUnits us

/-- Successors of an operation. -/
def succOf (succ : List Nat) (r : Nat) : List Nat := (succ.drop (opSoff r)).take (opScnt r)

/-- An operation record breaks R465 on its own. -/
def opBad (succ : List Nat) (r : Nat) : Bool :=
  bits r 203 192 != 0 || bits r 123 120 != 0 || bits r 59 56 != 0 || decide (6 < opKind r) || decide (4 < opFmt r) ||
  (opFmt r == 1 && opHalf r) || (opKind r == 4 && opFmt r != 0) || (opFmt r != 0 && opScale r == 0xFF) ||
  decide (61440 < opWire r) || (opFmt r != 0 && opLen r % localWidth (opHalf r) != 0) || decide (succ.length < opSoff r + opScnt r)

/-- Take operations without open predecessors away; how many go (R465). -/
def kahn (ops succ : List Nat) : Nat → List Nat → Tbl Nat → Nat
  | 0, _, _ => 0
  | _ + 1, [], _ => 0
  | n + 1, i :: todo, deg =>
    let out := succOf succ ((ops[i]?).getD 0)
    let step (a : List Nat × Tbl Nat) (x : Nat) : List Nat × Tbl Nat :=
      let d := Tbl.get 0 a.2 x - 1
      (if d = 0 then a.1 ++ [x] else a.1, Tbl.set a.2 x d)
    let a := out.foldl step (todo, deg)
    1 + kahn ops succ n a.1 a.2

/-- A graph breaks R465, its ranks apart. -/
def graphBad (ops succ : List Nat) : Bool :=
  let named (i : Nat) : Nat := ((ops.flatMap (succOf succ)).filter (· == i)).length
  succ.any (fun x => decide (ops.length ≤ x)) || ops.any (opBad succ) ||
  ops.zipIdx.any (fun o => opDep o.1 != named o.2) ||
  kahn ops succ ops.length ((ops.zipIdx.filter (fun o => opDep o.1 == 0)).map Prod.snd) (ops.zipIdx.map (fun o => (o.2, opDep o.1))) != ops.length

/-- An operation names a rank that its communicator does not have (R465). -/
def State.rankBad (s : State) (e r : Nat) : Bool :=
  (opSends r || opReceives r) && (decide (coNrm1 e < opRank r) || opRank r == coRank e || s.rankPeer e (opRank r) == 0xFFFF)

/-- Operations in the graph store (R473). -/
def State.storedOps (s : State) : Nat := (s.jgraphs.map (fun e => e.2.ops.length)).foldl (· + ·) 0

/-- Free a graph (R472, R473); answers x[d]. -/
def cgfree (h x : Nat) (wd : Word) : M Nat := do
  let s ← get
  match s.graphFor x with
  | none => return 4 * 2 ^ 60 + handleBits x
  | some g =>
    jetOwned h g.comm wd
    if !coOk (s.comm g.comm).entry then return 2 * 2 ^ 60 + handleBits x
    if s.jets.any (fun j => j.gid == x % 65536) then return 3 * 2 ^ 60 + handleBits x
    set (s.updJgraph (x % 65536) (fun g => { JetGraph.reset with gen := (g.gen + 1) % 65536 }))
    return handleBits x

/-- Load the image at x (R461, R465, R473); answers x[d]. -/
def cgimage (h x : Nat) (wd : Word) : M Nat := do
  let hd ← readUnits h x 1
  let n := ofUnits hd
  let nop := bits n 42 32
  let nsucc := bits n 79 64
  let comm := bits n 53 48
  if bits n 511 80 != 0 || bits n 63 54 != 0 || bits n 47 43 != 0 || n % 2 ^ 32 != 0x4A475248 || nop == 0 || decide (1024 < nop) then
    trapM cOPND wd
  let body ← readUnits h (x + 64) (cdiv (32 * nop + 2 * nsucc) 64)
  let ops := (List.range nop).map (fun k => ofUnits ((body.drop (16 * k)).take 16))
  let succ := (body.drop (16 * nop)).take nsucc
  if graphBad ops succ then trapM cOPND wd
  let s ← get
  let e := (s.comm comm).entry
  if !coOk e then return 2 * 2 ^ 60
  jetOwned h comm wd
  if ops.any (s.rankBad e) then trapM cOPND wd
  match (List.range 256).find? (fun k => (s.jgraph (k + 1)).ops.isEmpty) with
  | none => return 2 ^ 60
  | some k =>
    if 65536 < s.storedOps + nop then return 2 ^ 60
    set (s.updJgraph (k + 1) (fun g => { JetGraph.reset with gen := g.gen, comm := comm, ops := ops, succ := succ }))
    return (s.jgraph (k + 1)).gen * 2 ^ 16 + (k + 1)

/-- cgload at issue (R472, R473). -/
def cgloadAct (h : Nat) (d : BitVec 7) (e : QEntry) : M Unit := do
  let v ← if e.opB = 1 then cgfree h e.opA.toNat (e.word.setWidth 64) else cgimage h e.opA.toNat (e.word.setWidth 64)
  modify (fun s => s.setX h d (word v))

/-- R473. Load a graph image, or free a graph; x[d] := status and handle. -/
def execCgload (k : Bool) (d a b : BitVec 7) (s : State) : Out1 :=
  issueFront (.cgload k d a b) (wordR 0x3D 4 k d.toNat a.toNat b.toNat) (cgloadAct s.turn d) s

/-- Give an operation its chunk number (R464). -/
def assignChunk (a : Comm × Tbl Nat) (o : Nat × Nat) : Comm × Tbl Nat :=
  let ch := opChan o.1
  if opSends o.1 then
    let n := Tbl.get 0 a.1.outNext ch
    ({ a.1 with outNext := Tbl.set a.1.outNext ch (n + 1) }, Tbl.set a.2 o.2 n)
  else if opReceives o.1 then
    let n := Tbl.get 0 a.1.inNext ch
    ({ a.1 with inNext := Tbl.set a.1.inNext ch (n + 1) }, Tbl.set a.2 o.2 n)
  else a

/-- Start an instance of a graph (R464, R474). -/
def State.startRun (s : State) (h gid : Nat) (g : JetGraph) (block : Nat) : State :=
  let a := g.ops.zipIdx.foldl assignChunk (s.comm g.comm, [])
  let j : JetRun :=
    { gid := gid, run := g.runs, lno := s.hartLno h, order := s.nextRun, bases := block % 2 ^ 1024, tagBase := bits block 1055 1024,
      key := (s.ctx h).key, tower := hartTower h, sup := (s.ctx h).prv, began := s.time, dep := g.ops.zipIdx.map (fun o => (o.2, opDep o.1)), since := [],
      started := [], completed := [], chunk := a.2, satn := 0, dupn := 0, failed := false }
  let s := (s.updComm g.comm (fun _ => a.1)).updJgraph gid (fun g => { g with runs := g.runs + 1 })
  { s with jets := s.jets ++ [j], nextRun := s.nextRun + 1 }

/-- A run block breaks R474. -/
def runBlockBad (b : Nat) : Bool := bits b 1535 1056 != 0 || (List.range 16).any (fun j => bits b (63 + 64 * j) (56 + 64 * j) != 0)

/-- cgrun at issue (R474). -/
def cgrunAct (h : Nat) (d : BitVec 7) (e : QEntry) : M Unit := do
  let wd : Word := e.word.setWidth 64
  let x := e.opA.toNat
  let gid := x % 65536
  needRelease h
  let units ← readUnits h e.opB.toNat 3
  let block := ofUnits units
  if runBlockBad block then trapM cOPND wd
  let s ← get
  let answer (v : Nat) : M Unit := modify (fun s => s.setX h d (word v))
  match s.graphFor x with
  | none => answer (4 * 2 ^ 60 + handleBits x)
  | some g =>
    jetOwned h g.comm wd
    if !coOk (s.comm g.comm).entry then answer (2 * 2 ^ 60 + handleBits x)
    else if (s.comm g.comm).fault then answer (6 * 2 ^ 60 + handleBits x)
    else if 4 ≤ (s.jets.filter (fun j => j.gid == gid)).length then answer (5 * 2 ^ 60 + handleBits x)
    else
      set (s.startRun h gid g block)
      answer (g.runs % 65536 * 2 ^ 32 + handleBits x)

/-- R474. Run a graph; x[d] := status, run number and handle. -/
def execCgrun (k : Bool) (d a b : BitVec 7) (s : State) : Out1 :=
  issueFront (.cgrun k d a b) (wordR 0x3D 5 k d.toNat a.toNat b.toNat) (cgrunAct s.turn d) s

/-- The live instance of a handle with a run number. -/
def State.liveRun (s : State) (x : Nat) : Option JetRun :=
  s.jets.find? (fun j => j.gid == x % 65536 && j.run % 65536 == bits x 47 32)

/-- How an ended instance ended: cgwait's answer and operations not completed; none when it is stale (R475). -/
def JetGraph.endOf (g : JetGraph) (x : Nat) : Option (Nat × Nat) := (g.ends.find? (fun e => e.1 == bits x 47 32)).map Prod.snd

/-- cgwait at issue (R475). -/
def cgwaitAct (h : Nat) (d : BitVec 7) (e : QEntry) : M Unit := do
  let s ← get
  let wd : Word := e.word.setWidth 64
  let x := e.opA.toNat
  let done (v : Nat) : M Unit := modify (fun s => (s.acquire h 3).setX h d (word v))
  match s.graphFor x with
  | none => done (2 * 2 ^ 60)
  | some g =>
    jetOwned h g.comm wd
    match s.liveRun x with
    | some j =>
      if e.opB = 1 then modify (fun s => s.setX h d (word (0xF * 2 ^ 60)))
      else waitM (.run j.gid (j.run % 65536))
    | none => done (((g.endOf x).map (·.1)).getD (2 * 2 ^ 60))

/-- R475. Wait for an instance to end; acquire; x[d] := how it ended. -/
def execCgwait (k : Bool) (d a b : BitVec 7) (s : State) : Out1 :=
  issueFront (.cgwait k d a b) (wordR 0x3D 6 k d.toNat a.toNat b.toNat) (cgwaitAct s.turn d) s

/-- Selector 0 of cgstat (R476). -/
def State.runStat (s : State) (x : Nat) : Nat :=
  match s.graphFor x with
  | none => 2 * 2 ^ 60
  | some g =>
    match s.liveRun x with
    | some j => 0xF * 2 ^ 60 + min 1023 (s.opsLeft j) * 2 ^ 32 + j.satn % 2 ^ 32
    | none => match g.endOf x with
      | some e => bits e.1 63 60 * 2 ^ 60 + min 1023 e.2 * 2 ^ 32 + e.1 % 2 ^ 32
      | none => 2 * 2 ^ 60

/-- cgstat at issue (R476). -/
def cgstatAct (h : Nat) (d : BitVec 7) (e : QEntry) : M Unit := do
  let s ← get
  let wd : Word := e.word.setWidth 64
  let x := e.opA.toNat
  let answer (v : Nat) : M Unit := modify (fun s => s.setX h d (word v))
  let onComm (n v : Nat) : M Unit := do
    jetOwned h n wd
    answer (if coOk (s.comm n).entry then v else 0)
  match e.opB.toNat % 2 ^ 24 with
  | 0 =>
    match s.graphFor x with
    | some g => jetOwned h g.comm wd
    | none => pure ()
    answer (s.runStat x)
  | 1 =>
    let c := s.comm (x / 4096)
    onComm (x / 4096) (Tbl.get 0 c.sent (x % 4096) % 2 ^ 32 * 2 ^ 32 + (Tbl.get [] c.freed (x % 4096)).length % 2 ^ 32)
  | 2 => onComm (x / 4096) (Tbl.get 0 (s.comm (x / 4096)).tagH (x % 4096))
  | _ => onComm x (b2n (s.comm x).fault * 2 ^ 63 + s.runsOn x % 256)

/-- R476. x[d] := the Jetstream state that the selector names. -/
def execCgstat (k : Bool) (d a b : BitVec 7) (s : State) : Out1 :=
  issueFront (.cgstat k d a b) (wordR 0x3D 7 k d.toNat a.toNat b.toNat) (cgstatAct s.turn d) s

/-- Address of slot c mod depth of a channel (R458). -/
def slotAddr (e ch c : Nat) : Nat := coRing e + (ch * coDepth e + c % coDepth e) * 65536

/-- Flag of line j of chunk c of a channel (R459). -/
def lineFlag (e ch c j : Nat) : Nat := (512 * c + j) % 2 ^ 48 * 2 ^ 16 + (coChbase e + ch) % 2 ^ 16

/-- A chunk of `lines` lines has landed (R459). -/
def State.landed (s : State) (e ch c lines : Nat) : Bool :=
  (List.range lines).all (fun j => s.mem.readN (slotAddr e ch c + 128 * j + 120) 8 == lineFlag e ch c j)

/-- The wire bytes of a landed chunk. -/
def State.slotBytes (s : State) (e ch c w : Nat) : List Byte :=
  ((List.range (linesOf w)).flatMap (fun j => toBytes 120 (s.mem.readN (slotAddr e ch c + 128 * j) 120))).take w

/-- Source and destination of an operation of an instance (R462). -/
def JetRun.src (j : JetRun) (r : Nat) : Nat := (bits j.bases (63 + 64 * opSb r) (64 * opSb r) + opSofs r) % 2 ^ 56
def JetRun.dst (j : JetRun) (r : Nat) : Nat := (bits j.bases (63 + 64 * opDb r) (64 * opDb r) + opDofs r) % 2 ^ 56

/-- Requester of an instance (R462): the owner's tables, at the base die of the stack whose number is the tower that started it (R343;
DEDUCED, log 109). -/
def JetRun.req (j : JetRun) : Req := { via := .base j.tower, lno := j.lno, sup := j.sup, hart := none }

/-- Ranges that an operation reads and writes (R463, R466). -/
def JetRun.ranges (j : JetRun) (r : Nat) : List (Nat × Acc) :=
  if opLen r = 0 then []
  else match opKind r with
    | 1 => (j.src r, .load) :: (if opEf r && opFmt r != 0 then [(j.dst r, .atomic)] else [])
    | 2 => [(j.dst r, .store)]
    | 3 | 4 => [(j.src r, .load), (j.dst r, .store)]
    | 5 => [(j.src r, .load)]
    | _ => []

/-- The needs of an operation in R463 are met: a credit, or its chunk has landed. -/
def State.needsMet (s : State) (j : JetRun) (n : Nat) : Bool :=
  let g := s.jgraph j.gid
  let r := g.op n
  let c := s.comm g.comm
  let k := Tbl.get 0 j.chunk n
  if opSends r then decide (k < coDepth c.entry) || (Tbl.get [] c.credits (opChan r)).contains (k - coDepth c.entry)
  else if opReceives r then s.landed c.entry (opChan r) k (linesOf (opWire r))
  else true

/-- An operation waits for nothing but its needs: not started, no open predecessor, its instance not failed (R468, R470). -/
def JetRun.open' (j : JetRun) (n : Nat) : Bool := !j.failed && !Tbl.get false j.started n && Tbl.get 0 j.dep n == 0

/-- Communicators of one priority, in the order of their turns (R468). -/
def State.turnOrder (s : State) (prio : Bool) : List Nat :=
  let ns := (List.range 64).filter (fun n => coOk (s.comm n).entry && coPrio (s.comm n).entry == prio && s.runsOn n != 0)
  let t := Tbl.get (0, 0) s.jetTurn (b2n prio)
  let first := if t.2 < coWeight (s.comm t.1).entry then t.1 else t.1 + 1
  ns.filter (fun n => decide (first ≤ n)) ++ ns.filter (fun n => decide (n < first))

/-- Operations whose needs are met, as (communicator, graph, run, operation) in the order of R468. -/
def State.readyOps (s : State) : List (Nat × Nat × Nat × Nat) :=
  (s.turnOrder true ++ s.turnOrder false).flatMap (fun c =>
    (s.jets.filter (fun j => (s.jgraph j.gid).comm == c)).flatMap (fun j =>
      ((List.range (s.jgraph j.gid).ops.length).filter (fun n => j.open' n && s.needsMet j n)).map (fun n => (c, j.gid, j.run, n))))

/-- Resolve ranges in order; the first refusal with its address. -/
def jetResolve (q : Req) (len : Nat) : List (Nat × Acc) → M (Except (AccFault × Nat × Acc) (List (List Piece)))
  | [] => return .ok []
  | (va, a) :: rest => do
    match ← resolve q a va len with
    | .error e => return .error (e, va, a)
    | .ok ps =>
      match ← jetResolve q len rest with
      | .error e => return .error e
      | .ok xs => return .ok (ps :: xs)

/-- Stack that holds the line at a virtual address (R467). -/
def lineStack (q : Req) (va : Nat) : M Nat := do
  match ← chase q .store va 1 0 5 with
  | .error _ => return 0
  | .ok p =>
    let e ← lookEntry q p.va
    let skew := match e with
      | some (some t) => t.skew
      | _ => 0
    let s ← get
    return match ceilingTower p.pa with
      | some t => t
      | none => s.survivor ((s.placeOf p.pa skew).1 / 32)

/-- Destination lines of an RRED: their addresses. -/
def rredLines (dst len : Nat) : List Nat :=
  if len = 0 then [] else (List.range ((dst + len - 1) / 256 + 1 - dst / 256)).map (fun k => max dst ((dst / 256 + k) * 256))

/-- Destination lines of an RRED by stack. -/
def rredStacks (q : Req) : List Nat → M (Tbl Nat)
  | [] => return []
  | va :: rest => do
    let t ← rredStacks q rest
    let k ← lineStack q va
    return Tbl.upd 0 t k (· + 1)

/-- Adder entries that running operations of communicator c hold in a stack (R467). -/
def State.addersHeld (s : State) (c stack : Nat) : Nat :=
  ((s.engines.filter (fun e => (s.jgraph e.2.gid).comm == c)).map (fun e => Tbl.get 0 e.2.need stack)).foldl (· + ·) 0

/-- The address that a poisoned byte of what operation n reads reports (R470): where it reads, or for a received line where it would write. -/
def State.opPoison (s : State) (j : JetRun) (n : Nat) (ps : List (List Piece)) : Option Nat :=
  let g := s.jgraph j.gid
  let r := g.op n
  match (ps.zip (j.ranges r)).find? (fun p => p.2.2 != .store && s.piecesPoisoned p.1) with
  | some p => some p.2.1
  | none =>
    if opReceives r && s.poisoned (slotAddr (s.comm g.comm).entry (opChan r) (Tbl.get 0 j.chunk n)) (128 * linesOf (opWire r)) then some (j.dst r)
    else none

/-- Try to take an operation (R467, R468, R470): its pages must translate, nothing it reads be poisoned, its adder entries be free; one that
waits at a tile in arrival state (R309) does not start.  Answers the entries it holds when it starts. -/
def State.tryOp (s : State) (c gid run n : Nat) : Option (Tbl Nat) × State :=
  match s.jetRun gid run with
  | none => (none, s)
  | some j =>
    let r := (s.jgraph gid).op n
    let e := (s.comm c).entry
    if j.failed then (none, s)
    else
      let q := s.tryM (jetResolve j.req (opLen r) (j.ranges r))
      match q.1 with
      | none => (none, q.2)
      | some (.error (.page p, _, a)) => (none, q.2.requestPage j.lno p (needOf a j.sup) (.jet gid run))
      | some (.error (_, va, _)) => (none, q.2.failRun gid run jACCESS va)
      | some (.ok ps) =>
        match q.2.opPoison j n ps with
        | some va => (none, q.2.failRun gid run jPOISON va)
        | none =>
          if opKind r = 3 then
            let st := q.2.evalM [] (rredStacks j.req (rredLines (j.dst r) (opLen r)))
            let need : Tbl Nat := st.1.map (fun x => (x.1, min x.2 (coResq e)))
            if need.all (fun x => decide (st.2.addersHeld c x.1 + x.2 ≤ coResq e)) then (some need, st.2) else (none, st.2)
          else (some [], q.2)

/-- Engines that take operations (R477). -/
def State.engineCount (s : State) : Nat := let n := bits s.jscfg 5 0; if n = 0 || 32 < n then 32 else n

/-- Engine e takes the first operation that can start (R468). -/
def State.startFirst (s : State) (e : Nat) : List (Nat × Nat × Nat × Nat) → State
  | [] => s
  | (c, gid, run, n) :: rest =>
    let r := s.tryOp c gid run n
    match r.1 with
    | none => State.startFirst r.2 e rest
    | some need =>
      let p := b2n (coPrio (r.2.comm c).entry)
      let t := Tbl.get (0, 0) r.2.jetTurn p
      let turn := if t.1 = c && t.2 < coWeight (r.2.comm c).entry then (c, t.2 + 1) else (c, 1)
      let s := r.2.updJet gid run (fun j => { j with started := Tbl.set j.started n true })
      { s with jetTurn := Tbl.set s.jetTurn p turn, engines := Tbl.set s.engines e { gid := gid, run := run, op := n, line := 0, need := need } }

/-- R468, R477. A free chunk engine takes the next startable operation. -/
def execChunkStart (s : State) : Out1 :=
  match (List.range s.engineCount).find? (fun k => (Tbl.find s.engines k).isNone) with
  | none => .next s
  | some e => .next (s.startFirst e s.readyOps)

/-- Local element format (R462). -/
def localFmt (half : Bool) : Fmt := if half then bf16 else fp32
/-- Wire format (R462). -/
def wireFmt (fmt : Nat) : Fmt :=
  match fmt with
  | 1 => fp32 | 2 => bf16 | 3 => e4m3 | _ => e5m2

/-- Element i of w bytes of a list. -/
def elemAt (bs : List Byte) (w i : Nat) : Nat := ofBytes ((bs.drop (w * i)).take w)

/-- Round to a wire format, saturating (R466): the code, and whether it saturated. -/
def wireRound (f : Fmt) (rm : Rm) (draw : Nat) (x : Num) : Nat × Bool :=
  match x with
  | .inf neg => (f.maxFinite neg, true)
  | _ =>
    let q := roundNum f false rm draw x
    if q.2 &&& evOF != 0 then (f.maxFinite x.neg, true) else (q.1, false)

/-- Bits of an SR draw of operation n of an instance (R466). -/
def JetRun.draw (j : JetRun) (n i : Nat) : Nat := srBits j.key (word n) (word j.run) i

/-- Encode element i of a SEND or RSTR (R466): wire code, residual code, saturated. -/
def encodeElem (j : JetRun) (n r i : Nat) (x resid : Nat) : Nat × Nat × Bool :=
  let f := localFmt (opHalf r)
  let e := if opEf r && opKind r == 1 then (addNum .rne (f.decode x) (f.decode resid)).1 else f.decode x
  let sc : Int := (opScale r : Int) - 127
  let q := wireRound (wireFmt (opFmt r)) (if opSr r then .sr else .rne) (if opSr r then j.draw n i else 0) (scaleNum e (-sc))
  let back := scaleNum ((wireFmt (opFmt r)).decode q.1) sc
  (q.1, (roundNum f false .rne 0 (addNum .rne e back.negate).1).1, q.2)

/-- The received value of element i (R466), as a code of the local format. -/
def decodeElem (fmt : Nat) (half : Bool) (scale : Nat) (wire : List Byte) (i : Nat) : Nat :=
  if fmt = 0 then elemAt wire (localWidth half) i
  else (roundNum (localFmt half) false .rne 0 (scaleNum ((wireFmt fmt).decode (elemAt wire (wireWidth fmt) i)) ((scale : Int) - 127))).1

/-- Wire bytes of a chunk, residual bytes and saturations (R466). -/
def JetRun.encode (j : JetRun) (n r : Nat) (src resid : List Byte) : List Byte × List Byte × Nat :=
  if opFmt r = 0 then (src, resid, 0)
  else
    let w := localWidth (opHalf r)
    let es := (List.range (opLen r / w)).map (fun i => encodeElem j n r i (elemAt src w i) (elemAt resid w i))
    (es.flatMap (fun e => toBytes (wireWidth (opFmt r)) e.1), es.flatMap (fun e => toBytes w e.2.1), (es.filter (fun e => e.2.2)).length)

/-- How a message of a communicator to a peer travels: on its virtual channel over Benlar, on its traffic class over Ethernet (R458). -/
def State.jetRoute (s : State) (comm peer len : Nat) : Route :=
  let e := (s.comm comm).entry
  let p := s.peerNow peer
  { peer := peer, entry := p, spray := false, rot := 0, vc := if peerBenlar p then coVc e else bits e 497 496, len := len }

/-- Send a message on a channel over its delivery context (R458); where no port can take it now, or congestion control holds it (R440), its
retransmission sends it. -/
def State.sendJet (s : State) (comm ch : Nat) (origin : Origin) (kind : OutKind) (payload : List Nat) (len : Nat) : State :=
  let d := s.delivery false (jetKey comm ch)
  let r := s.jetRoute comm (s.rankPeer (s.comm comm).entry (ch / 4)) len
  let o : Out := { kind := kind, data := [r.vc, comm, ch % 4, d.nextPsn] ++ payload }
  let f : InFlight := { psn := d.nextPsn, origin := origin, nak := false, sentAt := s.time, route := r, msg := o }
  let s := (if d.inFlight.length < d.window then s.emit r o else none).getD s
  s.setDelivery false (jetKey comm ch) { d with
    nextPsn := d.nextPsn + 1, inFlight := d.inFlight ++ [f], lastAck := if d.inFlight.isEmpty then s.time else d.lastAck }

/-- Send a chunk as its flagged lines (R459). -/
def State.sendLines (s : State) (comm ch gid run c : Nat) (wire : List Byte) : State :=
  (List.range (linesOf wire.length)).foldl (fun s k =>
    let data := toBytes 120 (ofBytes ((wire.drop (120 * k)).take 120))
    s.sendJet comm ch (.run gid run 0) .chunkLine ([c, k] ++ data.map (·.toNat)) 120) s

/-- Free a chunk's slot and return its credit (R460). -/
def State.freeSlot (s : State) (comm ch : Nat) (origin : Origin) (c : Nat) : State :=
  (s.updComm comm (fun k => { k with freed := Tbl.upd [] k.freed ch (fun l => l ++ [c]) })).sendJet comm ch origin .credit [c] 0

/-- Bytes of a resolved range, none without one. -/
def State.rangeBytes (s : State) (n : Nat) (ps : Option (List Piece)) : List Byte :=
  match ps with
  | some ps => toBytes n (s.readPieces ps)
  | none => []

/-- The effect of an operation that is no RRED, over its resolved ranges (R463). -/
def State.opEffect (s : State) (j : JetRun) (n : Nat) (ps : List (List Piece)) : State :=
  let g := s.jgraph j.gid
  let r := g.op n
  let ch := opChan r
  let c := Tbl.get 0 j.chunk n
  let src := s.rangeBytes (opLen r) ps[0]?
  let e := (s.comm g.comm).entry
  match opKind r with
  | 1 =>
    let q := j.encode n r src (s.rangeBytes (opLen r) ps[1]?)
    let s := match ps[1]? with
      | some w => s.writePieces none w (ofBytes q.2.1)
      | none => s
    let s := (s.sendLines g.comm ch j.gid j.run c q.1).updJet j.gid j.run (fun j => { j with satn := j.satn + q.2.2 })
    s.updComm g.comm (fun k => { k with sent := Tbl.upd 0 k.sent ch (· + 1) })
  | 2 =>
    let wire := s.slotBytes e ch c (opWire r)
    let w := localWidth (opHalf r)
    let out := if opFmt r = 0 then wire
      else (List.range (opLen r / w)).flatMap (fun i => toBytes w (decodeElem (opFmt r) (opHalf r) (opScale r) wire i))
    match ps[0]? with
    | some p => s.writePieces none p (ofBytes out)
    | none => s
  | 4 => match ps[1]? with
    | some p => s.writePieces none p (ofBytes src)
    | none => s
  | 5 =>
    let q := j.encode n r src []
    let tag := (j.tagBase + opTag r) % 2 ^ 32
    let head := [c, tag, opDofs r, opFmt r, b2n (opHalf r), opScale r]
    let s := (s.sendJet g.comm ch (.run j.gid j.run (opDofs r)) .reduceStore (head ++ q.1.map (·.toNat)) q.1.length).updJet j.gid j.run (fun j =>
      { j with satn := j.satn + q.2.2 })
    s.updComm g.comm (fun k => { k with sent := Tbl.upd 0 k.sent ch (· + 1) })
  | 6 => s.decCtr j.lno (opTag r % 64)
  | _ => s

/-- An operation has completed: its slot is freed, its engine too, its successors lose a predecessor (R460, R463, R471). -/
def State.completeOp (s : State) (e : Nat) (j : JetRun) (n : Nat) : State :=
  let g := s.jgraph j.gid
  let r := g.op n
  let s := if opReceives r then s.freeSlot g.comm (opChan r) (.run j.gid j.run 0) (Tbl.get 0 j.chunk n) else s
  let s := s.updJet j.gid j.run (fun j =>
    let j := { j with completed := Tbl.set j.completed n true }
    (succOf g.succ r).foldl (fun j x =>
      let d := Tbl.get 0 j.dep x - 1
      { j with dep := Tbl.set j.dep x d, since := if d = 0 then Tbl.set j.since x s.time else j.since }) j)
  State.closeRun { s with engines := Tbl.del s.engines e } j.gid j.run

/-- Give a started operation back: it becomes unstartable (R470). -/
def State.unstart (s : State) (e : Nat) (j : JetRun) (n : Nat) : State :=
  let s := s.updJet j.gid j.run (fun j => { j with started := Tbl.del j.started n })
  State.closeRun { s with engines := Tbl.del s.engines e } j.gid j.run

/-- R463, R470, R471. The operation of engine e performs and completes; what it reads may have been poisoned since it started, and it may have
to wait at a tile in arrival state (R309). -/
def execChunkEnd (e : Nat) (s : State) : Out1 :=
  match Tbl.find s.engines e with
  | none => .next s
  | some k =>
    match s.jetRun k.gid k.run with
    | none => .next { s with engines := Tbl.del s.engines e }
    | some j =>
      let r := (s.jgraph k.gid).op k.op
      if opKind r = 3 then
        .next (if (rredLines (j.dst r) (opLen r)).length ≤ k.line then s.completeOp e j k.op else s)
      else
        let q := s.tryM (jetResolve j.req (opLen r) (j.ranges r))
        match q.1 with
        | none => .next q.2
        | some (.ok ps) => .next (match q.2.opPoison j k.op ps with
          | some va => (q.2.failRun k.gid k.run jPOISON va).unstart e j k.op
          | none => (q.2.opEffect j k.op ps).completeOp e j k.op)
        | some (.error (.page p, _, a)) => .next ((q.2.unstart e j k.op).requestPage j.lno p (needOf a j.sup) (.jet k.gid k.run))
        | some (.error (_, va, _)) => .next ((q.2.failRun k.gid k.run jACCESS va).unstart e j k.op)

/-- One RRED element (R463): Round(source + received, RT). -/
def reduceElem (half : Bool) (rm : Rm) (draw : Nat) (a b : Nat) : Nat :=
  let f := localFmt half
  (roundNum f false rm draw (addNum .rne (f.decode a) (f.decode b)).1).1

/-- Elements of an RRED whose first byte lies in destination line k. -/
def lineElems (dst len w k : Nat) : List Nat := (List.range (len / w)).filter (fun i => (dst + w * i) / 256 - dst / 256 == k)

/-- Add the elements of line k of an RRED (R463, R467). -/
def adderLine (j : JetRun) (n r k : Nat) (wire : List Byte) : M (Except (AccFault × Nat × Acc) Unit) := do
  let w := localWidth (opHalf r)
  let is := lineElems (j.dst r) (opLen r) w k
  match is with
  | [] => return .ok ()
  | i0 :: _ =>
    let m := w * is.length
    match ← resolve j.req .load (j.src r + w * i0) m with
    | .error f => return .error (f, j.src r + w * i0, .load)
    | .ok sp =>
      match ← resolve j.req .store (j.dst r + w * i0) m with
      | .error f => return .error (f, j.dst r + w * i0, .store)
      | .ok dp =>
        let s ← get
        if s.piecesPoisoned sp then return .error (.uncorr, j.src r + w * i0, .load)
        let src := toBytes m (s.readPieces sp)
        let out := is.flatMap (fun i =>
          let got := decodeElem (opFmt r) (opHalf r) (opScale r) wire i
          toBytes w (reduceElem (opHalf r) (if opSr r then .sr else .rne) (if opSr r then j.draw n i else 0) (elemAt src w (i - i0)) got))
        set (s.writePieces none dp (ofBytes out))
        return .ok ()

/-- R467. The adders perform the next line of engine e's RRED. -/
def execAdderLine (e : Nat) (s : State) : Out1 :=
  match Tbl.find s.engines e with
  | none => .next s
  | some k =>
    match s.jetRun k.gid k.run with
    | none => .next s
    | some j =>
      let g := s.jgraph k.gid
      let r := g.op k.op
      if opKind r != 3 || (rredLines (j.dst r) (opLen r)).length ≤ k.line then .next s
      else
        let wire := s.slotBytes (s.comm g.comm).entry (opChan r) (Tbl.get 0 j.chunk k.op) (opWire r)
        let q := s.tryM (adderLine j k.op r k.line wire)
        match s.opPoison j k.op [], q.1 with
        | some va, _ => .next ((s.failRun k.gid k.run jPOISON va).unstart e j k.op)
        | none, none => .next q.2
        | none, some (.ok _) => .next { q.2 with engines := Tbl.set q.2.engines e { k with line := k.line + 1 } }
        | none, some (.error (.page p, _, a)) => .next (q.2.requestPage j.lno p (needOf a j.sup) (.jet k.gid k.run))
        | none, some (.error (f, va, _)) =>
          .next ((q.2.failRun k.gid k.run (if f = .uncorr then jPOISON else jACCESS) va).unstart e j k.op)

/-- Sender's rank on a communicator by the peer entry a message comes from (R458). -/
def State.senderRank (s : State) (comm peer : Nat) : Option Nat :=
  let c := s.comm comm
  if !coOk c.entry || c.fault then none
  else (List.range (coNrm1 c.entry + 1)).find? (fun r => r != coRank c.entry && s.rankPeer c.entry r == peer)

/-- Acknowledge a message of Jetstream: what it was, and a status that refuses it. -/
def State.ackJet (s : State) (peer comm lane chunk line status : Nat) : State :=
  (s.emit (s.jetRoute comm peer 0) { kind := .sack, data := [comm, lane, chunk, line, status] }).getD s

/-- A flagged line of a peer (R458, R459): written into its slot with its own flag, or dropped. -/
def State.takeLine (s : State) (comm peer lane chunk line : Nat) (data : List (BitVec 8)) : State :=
  match s.senderRank comm peer with
  | none => s
  | some rank =>
    let c := s.comm comm
    let ch := rank * 4 + lane
    let freed := Tbl.get [] c.freed ch
    let depth := coDepth c.entry
    if freed.contains chunk then s.ackJet peer comm lane chunk line 0
    else if depth ≤ chunk && !freed.contains (chunk - depth) then s
    else
      let a := slotAddr c.entry ch chunk + 128 * line
      let s := s.writePa none a (toBytes 120 (ofBytes (data.take 120)) ++ toBytes 8 (lineFlag c.entry ch chunk line))
      s.ackJet peer comm lane chunk line 0

/-- R458, R459. A flagged line arrives by a port that applies no MACsec. -/
def execChunkLine (comm peer lane chunk line : Nat) (data : List (BitVec 8)) (s : State) : Out1 :=
  .next (if s.hears peer then s.takeLine comm peer lane chunk line data else s)

/-- A credit of a peer (R460): it has freed a chunk of ours. -/
def State.takeChunkCredit (s : State) (comm peer lane chunk : Nat) : State :=
  match s.senderRank comm peer with
  | none => s
  | some rank =>
    let ch := rank * 4 + lane
    let add (l : List Nat) : List Nat := if l.contains chunk then l else l ++ [chunk]
    (s.updComm comm (fun k => { k with credits := Tbl.upd [] k.credits ch add })).ackJet peer comm lane chunk 0 0

/-- R460. A credit arrives by a port that applies no MACsec. -/
def execCredit (comm peer lane chunk : Nat) (s : State) : Out1 :=
  .next (if s.hears peer then s.takeChunkCredit comm peer lane chunk else s)

/-- t is above H in 32-bit serial arithmetic (R469). -/
def tagAbove (t h : Nat) : Bool := let z := (t + 2 ^ 32 - h % 2 ^ 32) % 2 ^ 32; decide (0 < z) && decide (z < 2 ^ 31)

/-- The receiver accepts tag t (R469): none where it drops it.  Before the first tag every tag is accepted (log 44). -/
def Comm.takeTag (c : Comm) (rank t : Nat) : Option Comm :=
  let seen := Tbl.get [] c.tags rank
  match Tbl.find c.tagH rank with
  | none => some { c with tagH := Tbl.set c.tagH rank t, tags := Tbl.set c.tags rank [t] }
  | some h =>
    let back := (h + 2 ^ 32 - t) % 2 ^ 32
    if tagAbove t h then
      some { c with tagH := Tbl.set c.tagH rank t,
                    tags := Tbl.set c.tags rank (t :: seen.filter (fun x => decide ((t + 2 ^ 32 - x) % 2 ^ 32 < 4096))) }
    else if back < 4096 && !seen.contains t then some { c with tags := Tbl.set c.tags rank (t :: seen) }
    else none

/-- A dropped reduce-store counts in DUPN of the communicator's oldest live instance (R469; log 45). -/
def State.countDup (s : State) (comm : Nat) : State :=
  match s.jets.find? (fun j => (s.jgraph j.gid).comm == comm) with
  | some j => s.updJet j.gid j.run (fun j => { j with dupn := j.dupn + 1 })
  | none => s

/-- n elements of a window with those of a reduce-store added (R469). -/
def reduceBytes (half : Bool) (fmt scale n : Nat) (old data : List Byte) : List Byte :=
  let w := localWidth half
  (List.range n).flatMap (fun i => toBytes w (reduceElem half .rne 0 (elemAt old w i) (decodeElem fmt half scale data i)))

/-- A tagged reduce-store of a peer (R469): added once by its tag, its slot freed; a message that has come before is acknowledged and dropped
(R443), a new one whose tag is dropped frees its slot all the same (R460). -/
def State.takeReduce (s : State) (comm peer lane chunk tag off fmt : Nat) (half : Bool) (scale : Nat) (data : List (BitVec 8)) : State :=
  match s.senderRank comm peer with
  | none => s
  | some rank =>
    let e := (s.comm comm).entry
    let ch := rank * 4 + lane
    let w := localWidth half
    let n := data.length / (if fmt = 0 then w else wireWidth fmt)
    let lno := coLno e
    let sup := ((s.launch lno).map (fun l => recSupv l.record)).getD false
    if (Tbl.get [] (s.comm comm).freed ch).contains chunk then s.ackJet peer comm lane chunk 0 0
    else match (s.comm comm).takeTag rank tag with
    | none => ((s.countDup comm).freeSlot comm ch .response chunk).ackJet peer comm lane chunk 0 0
    | some c =>
      if coRslen e < off + w * n then s.ackJet peer comm lane chunk 0 jACCESS
      else
        let q := s.tryM (resolve { via := .base 0, lno := lno, sup := sup, hart := none } .atomic ((coRsbase e + off) % 2 ^ 64) (w * n))
        match q.1 with
        | none => q.2
        | some (.error (.page p)) => q.2.requestPage lno p 3 (.jetTarget lno comm peer lane chunk)
        | some (.error _) => q.2.ackJet peer comm lane chunk 0 jACCESS
        | some (.ok ps) =>
          let s := q.2
          if s.piecesPoisoned ps then s.ackJet peer comm lane chunk 0 jPOISON
          else
            let out := reduceBytes half fmt scale n (toBytes (w * n) (s.readPieces ps)) data
            let s := (s.writePieces none ps (ofBytes out)).updComm comm (fun _ => c)
            (s.freeSlot comm ch .response chunk).ackJet peer comm lane chunk 0 0

/-- R469. A tagged reduce-store arrives by a port that applies no MACsec. -/
def execRstrArrive (comm peer lane chunk tag off fmt : Nat) (half : Bool) (scale : Nat) (data : List (BitVec 8)) (s : State) : Out1 :=
  .next (if s.hears peer then s.takeReduce comm peer lane chunk tag off fmt half scale data else s)

/-- R470. An operation that its channel has kept from starting for 10 s fails its instance. -/
def execJetstreamTimeout (gid run op : Nat) (s : State) : Out1 :=
  match s.jetRun gid run with
  | none => .next s
  | some j =>
    let since := (Tbl.find j.since op).getD j.began
    let late := decide (op < (s.jgraph gid).ops.length) && j.open' op && !s.needsMet j op && decide (10 ^ 10 ≤ s.time - since)
    .next (if late then s.failRun gid run jTIMEOUT 0 else s)

end Sys2Proof.Machine
end

