-- ==== Sys2Proof/Machine/Firmware.lean ====
section
/-! DEFINITION. What boot ROM and FWSTAGE accept, package reset, and the mailbox commands that carry firmware (R409, R410, R427 to
R431). -/

namespace Sys2Proof.Machine

open Sys2Proof

/-- The unrevoked key slot that a key identifier of type-4 records names: algorithm 0 or 1 (R428). -/
def Firmware.slotOf (f : Firmware) (alg ident : Nat) : Option Nat :=
  (List.range 4).find? (fun k => !f.revoked.contains k && Config.fusedKeyId k alg == ident)

/-- Whether R428 accepts an image: 0, or the status that refuses it (R430).
DESIGN CHOICE (log 102): an image whose MAGIC is not R106's is refused with AUTH; its VERSION and LINKED are not looked at. -/
def Firmware.check (f : Firmware) (b : List Byte) : Nat :=
  let hd := ofBytes (fileAt b 0 64)
  match noteOf b 1, noteOf b 2, noteOf b 3, noteOf b 4 with
  | some d, some ed, some ml, some ids =>
    let dig := sha384 (digestInput b)
    match f.slotOf 0 (ofBytes (ids.take 16)), f.slotOf 1 (ofBytes (fileAt ids 16 16)) with
    | some k0, some k1 =>
      if !(bit hd 50 && bit hd 49 && hd % 2 ^ 32 == 0x4F4C527F && notesOk b && d == dig &&
          Config.signatureValid (2 * k0) dig ed && Config.signatureValid (2 * k1 + 1) dig ml) then bmAUTH
      else if 2 ^ 16 ≤ imageSvn b then bmAUTH
      else if imageSvn b < f.minSvn then bmROLLBACK
      else bmOK
    | _, _ => bmAUTH
  | _, _, _, _ => bmAUTH

/-- Boot ROM accepts the flash image (R427; the image the package came with is acceptable, log 16). -/
def Firmware.bootable (f : Firmware) : Bool :=
  f.staged && (match f.flash with | .loaded b => f.check b == bmOK | .shipped => true)

/-- A tower after package reset: mapped out, or ONLINE, with its self-test to come where an image runs (R408, R410, R427). -/
def bootTower (image : Option Image) (out : Bool) : Tower :=
  if out then { Tower.reset with st := .mappedOut, powered := false, testing := false, fw := none }
  else { Tower.reset with testing := image.isSome, fw := image }

/-- Package reset (R427, R409, R410, R432): everything starts from reset but flash, fuses, layers and towers mapped out, and the health
log's flash.  An accepted image runs, its self-tests to come, under the identity derived from it; without one, or with fewer than four
towers, the recovery loader starts and nothing of the image runs.
MODEL: agenda, outbox and free-value counter are no part of the package. -/
def State.packageReset (s : State) (mapOut : Option Nat) : State :=
  let out (t : Nat) : Bool := (s.tower t).st == .mappedOut || mapOut == some t
  let ok := s.fw.bootable
  let few := decide (((List.range 8).filter (fun t => !out t)).length < 4)
  let image : Option Image := if ok && !few then some s.fw.flash else none
  { State.reset with
    agenda := s.agenda, fresh := s.fresh, outbox := s.outbox,
    towers := (List.range 8).map (fun t => (t, bootTower image (out t))),
    flashLog := s.flashLog, nextLog := s.nextLog, layerFlash := s.layerFlash,
    cores := s.layerFlash.map (fun e => (e.1, { Core.reset with outLayers := e.2 })),
    fw := { s.fw with
      writing := false, running := image, identity := image.map Identity.derive, runVer := (image.map Image.version).getD 0,
      runSvn := (image.map Image.svn).getD 0, recovery := image.isNone, ready := false, applying := none } }

/-- R427. Package reset. -/
def execPackageReset (s : State) : Out1 := .next (s.packageReset none)

/-- R430. Power is lost and comes back: STAGED, which is 0 while the flash is written, stays 0 where that was cut short. -/
def execPowerLoss (s : State) : Out1 := .next (s.packageReset none)

/-- Physical bytes that the Barometer reads or writes exist. -/
def State.backedRange (s : State) (pa len : Nat) : Bool := s.backed pa && s.backed (pa + len - 1)

/-- Write a mailbox response (R416): its bytes at BMRSP; none where the buffer is misaligned or not backed. -/
def State.respond (s : State) (bs : List Byte) : Option State :=
  if bs.isEmpty then some s
  else if s.bmrsp % 64 == 0 && s.backedRange s.bmrsp bs.length then some (s.writePa none s.bmrsp bs) else none

/-- A response, or BADARG without a buffer. -/
def State.reply (s : State) (bs : List Byte) : State × Option (Nat × Nat) :=
  match s.respond bs with
  | some t => (t, some (bmOK, bs.length))
  | none => (s, some (bmBADARG, 0))

/-- Argument n of the mailbox. -/
def State.arg (s : State) (n : Nat) : Nat := (Tbl.get 0 s.bmarg n).toNat

/-- R430. FWSTAGE: check an image in host memory; where it is accepted, write it to flash, with STAGED = 0 and the command in progress
until that is done.  In the recovery loader the package then resets (R429). -/
def execFwstage (s : State) : Out1 :=
  let done (s : State) : State := { s with fw := { s.fw with staged := true, writing := false } }
  let t := s.command 0x10 true (fun s =>
    if s.fw.writing then (done s, some (bmOK, 0))
    else
      let len := s.arg 1
      if len = 0 || !s.backedRange (s.arg 0) len then (s, some (bmBADARG, 0))
      else
        let b := toBytes len (s.mem.readN (s.arg 0) len)
        let st := s.fw.check b
        if st = bmOK then ({ s with fw := { s.fw with flash := .loaded b, staged := false, writing := true } }, none)
        else (s, some (st, 0)))
  .next (if s.fw.recovery && s.fw.writing && !t.fw.writing then t.packageReset none else t)

/-- Towers in SERVICE. -/
def State.inService (s : State) : List Nat := (List.range 8).filter (fun t => (s.tower t).st == .service)

/-- R430, R431. FWAPPLY: the image staged now is to be applied to the masked towers.  While SERVICE commands hold two towers or more, which
an apply forbids (R436), it answers STATE (DEDUCED, log 117). -/
def execFwapply (s : State) : Out1 :=
  .next (s.command 0x11 false (fun s =>
    if s.fw.writing || s.fw.applying.isSome then (s, some (bmBUSY, 0))
    else if !s.fw.staged || 2 ≤ s.inService.length then (s, some (bmSTATE, 0))
    else
      let mask := s.arg 0 % 256
      ({ s with fw := { s.fw with applying := if mask = 0 then none else some mask, image := s.fw.flash } }, some (bmOK, 0))))

end Sys2Proof.Machine
end

