-- ==== Sys2Proof/Machine/Sounding.lean ====
section
/-! DEFINITION. Sounding: the permutation, claims, samples, merges, the interval test and the seal (R386 to R397). -/

namespace Sys2Proof.Machine

open Sys2Proof

/-- Fields of the Sounding extension (R386). -/
def sxItems (n : Nat) : Nat := bits n 63 0
def sxTol (n : Nat) : Nat := bits n 127 64
def sxMin (n : Nat) : Nat := bits n 191 128
def sxMax (n : Nat) : Nat := bits n 255 192
def sxRel (n : Nat) : Bool := bit n 273
def sxZc (n : Nat) : Nat := bits n 275 274
def sxQuant (n : Nat) : Nat := bits n 296 276

/-- An extension breaks a limit of R386. -/
def sndxBad (n : Nat) : Bool :=
  let tol := fp64.decode (sxTol n)
  bits n 511 297 != 0 || bits n 272 256 != 0 || sxQuant n == 0 || decide (2 ^ 20 < sxQuant n) ||
  decide (sxItems n < 2) || decide (2 ^ 40 < sxItems n) || decide (sxMin n < 2) || decide (sxMax n < sxMin n) ||
  decide (sxItems n < sxMax n) || tol.isNaN || tol.isInf || tol.isZero || tol.neg

/-- +∞ and 1 in binary64. -/
def inf64 : Nat := fp64.infCode false
def one64 : Nat := 1023 * 2 ^ 52

/-- z of a confidence code: the binary64 values nearest 1.0, 1.6449, 1.9600, 2.5758 (R386). -/
def zOf (zc : Nat) : Nat :=
  match zc with
  | 0 => r64 (.fin false 1 1)
  | 1 => r64 (.fin false 16449 10000)
  | 2 => r64 (.fin false 19600 10000)
  | _ => r64 (.fin false 25758 10000)

/-- h of R389: half of the smallest even w ≥ 2 with 2^w ≥ N. -/
def permHalf (n : Nat) : Nat := max 1 (cdiv (log2 (pow2Ceil n)) 2)

/-- One pass of the four rounds (R389). -/
def permPass (pkey : Word) (h x : Nat) : Nat :=
  let r := (List.range 4).foldl (fun (p : Nat × Nat) r =>
    let f := (hail pkey 0 (word ((r + 1) * 2 ^ 40 + p.2))).toNat / 2 ^ (64 - h)
    (p.2, p.1 ^^^ f)) (x / 2 ^ h, x % 2 ^ h)
  r.1 * 2 ^ h + r.2

/-- Cycle-walking within `fuel` passes. -/
def permWalk (pkey : Word) (n h : Nat) : Nat → Nat → Nat
  | 0, x => x
  | fuel + 1, x => let y := permPass pkey h x; if y < n then y else permWalk pkey n h fuel y

/-- Perm(j) (R389): a walk within the 2^w codes ends within as many passes. -/
def perm (pkey : Word) (n j : Nat) : Nat := let h := permHalf n; permWalk pkey n h (2 ^ (2 * h)) j

/-- Half-width at totals (R394). -/
def halfWidth (sx n m2 : Nat) : Nat :=
  if n < 2 then inf64
  else
    let p := div64 (n64 (div64 (n64 m2) (natNum (n - 1)))) (natNum n)
    let f := sub64 one64 (div64 (natNum n) (natNum (sxItems sx)))
    mul64 (zOf (sxZc sx)) (sqrt64 (mul64 p f))

/-- a ≤ b, false with a NaN. -/
def le64 (a b : Nat) : Bool := let x := n64 a; let y := n64 b; !x.isNaN && !y.isNaN && !ltNum y x

/-- |a| in binary64. -/
def abs64 (a : Nat) : Nat := a % 2 ^ 63

/-- The test after a merge (R394). -/
def Sounding.test (d : Sounding) (sx time : Nat) : Sounding :=
  let hw := halfWidth sx d.n d.m2
  let tol := if sxRel sx then mul64 (sxTol sx) (abs64 d.mean) else sxTol sx
  let d := { d with hw := hw }
  if !d.isSealed && decide (sxMin sx ≤ d.n) && le64 hw tol then d.seal 1 time else d

/-- A fresh context (R387). -/
def Sounding.fresh : Sounding :=
  { cc := 0, isSealed := false, done := false, s := 0, cause := 0, lost := false, lostn := 0, nonfin := false, n := 0, mean := 0,
    m2 := 0, x := 0, hw := inf64, sealT := 0, doneT := 0, held := false }

/-- The Sounding context of a launch. -/
def State.snd (s : State) (lno : Nat) : Option Sounding := Tbl.find s.sounding lno

/-- Replace the Sounding context of a launch. -/
def State.setSnd (s : State) (lno : Nat) (d : Sounding) : State := { s with sounding := Tbl.set s.sounding lno d }

/-- The extension of a launch. -/
def State.sx (s : State) (lno : Nat) : Nat := ((s.launch lno).map (fun l => recSndx l.record)).getD 0

/-- A claim at the device combiner (R390): the context after it and the answer (ST, C, POS). -/
def Sounding.claim (d : Sounding) (sx time : Nat) : Sounding × (Nat × Nat × Nat) :=
  if d.isSealed then (d, (1, 0, d.s))
  else
    let c := min (sxQuant sx) (sxMax sx - d.cc)
    let e := { d with cc := d.cc + c, x := d.x + c }
    (if e.cc = sxMax sx then e.seal (if sxMax sx = sxItems sx then 3 else 2) time else e, (0, c, d.cc))

/-- R390. Claim the next range of positions. -/
def execSndClaim (k : Bool) (d : BitVec 7) (s : State) : Out1 :=
  let w := wordR 0x3E 6 k d.toNat 0 0
  scalarWord k w s (do
    let h := s.turn
    let lno := s.hartLno h
    match s.snd lno with
    | none => trapM cOPND (word w)
    | some c =>
      if (s.ctx h).out != 0 then trapM cOPND (word w)
      let r := c.claim (s.sx lno) s.time
      modify (fun s => (s.setSnd lno r.1).updCtx h (fun c => { c with out := r.2.2.1 }))
      retireWith h d (word (r.2.1 * 2 ^ 62 + r.2.2.1 * 2 ^ 41 + r.2.2.2)))

/-- R391. Fold one sample; x[d] := the positions still owed. -/
def execSndGive (k : Bool) (d a : BitVec 7) (s : State) : Out1 :=
  let w := wordR 0x3E 7 k d.toNat a.toNat 0
  scalarWord k w s (do
    let h := s.turn
    let lno := s.hartLno h
    match s.snd lno with
    | none => trapM cOPND (word w)
    | some c =>
      let cx := s.ctx h
      if cx.out == 0 then trapM cOPND (word w)
      let y := r64 (fp32.decode ((s.x h a).toNat % 2 ^ 32))
      if (n64 y).isNaN || (n64 y).isInf then set (s.setSnd lno { c with nonfin := true })
      let n := (cx.cnt + 1) % 2 ^ 64
      let dl := sub64 y cx.mean
      let m := add64 cx.mean (div64 (n64 dl) (natNum n))
      let m2 := add64 cx.m2 (mul64 dl (sub64 y m))
      let out := cx.out - 1
      if out = 0 then
        modify (fun s => (s.giveSlice (hartTower h) lno { n := n, mean := m, m2 := m2 }).updCtx h (fun c =>
          { c with cnt := 0, mean := 0, m2 := 0, out := 0 }))
      else modify (fun s => s.updCtx h (fun c => { c with cnt := n, mean := m, m2 := m2, out := out }))
      retireWith h d (word out))

/-- Selector 0 of snd.stat (R396). -/
def Sounding.status (c : Sounding) : Nat :=
  b2n c.isSealed * 2 ^ 63 + b2n c.done * 2 ^ 62 + c.cause % 16 * 2 ^ 58 + b2n c.lost * 2 ^ 57 + b2n c.nonfin * 2 ^ 56 +
  (if c.isSealed then c.s else c.cc)

/-- R396. x[d] := the Sounding state that the selector names. -/
def execSndStat (k : Bool) (d a b : BitVec 7) (s : State) : Out1 :=
  let w := wordR 0x3E 8 k d.toNat a.toNat b.toNat
  scalarWord k w s (do
    let h := s.turn
    let lno := s.hartLno h
    match s.snd lno with
    | none => trapM cOPND (word w)
    | some c =>
      let give (n : Nat) : M Unit := retireWith h d (word n)
      match (s.x h b).toNat % 2 ^ 24 with
      | 0 => give c.status
      | 1 =>
        let j := (s.x h a).toNat
        let n := sxItems (s.sx lno)
        if n ≤ j then trapM cOPND (word w)
        give (perm (word (recPkey (((s.launch lno).map (·.record)).getD 0))) n j)
      | 2 => give c.n
      | 3 => give c.mean
      | 4 => give c.m2
      | 5 => give c.hw
      | 6 => give (s.ctx h).out
      | _ => trapM cOPND (word w))

/-- R393. The slice of tower tw forwards a launch's partial where its link is free. -/
def execSoundingSliceForward (tw lno : Nat) (s : State) : Out1 :=
  let t := s.tower tw
  match Tbl.find t.slices lno with
  | none => .next s
  | some p =>
    if p.n = 0 || !t.flight.isEmpty then .next s
    else .next (s.updTower tw (fun t => { t with slices := Tbl.del t.slices lno, flight := Tbl.set t.flight lno p }))

/-- The result block (R395), VALID included. -/
def Sounding.block (d : Sounding) (time : Nat) : Nat :=
  2 ^ 511 + d.cause % 16 * 2 ^ 500 + b2n d.lost * 2 ^ 499 + b2n d.nonfin * 2 ^ 498 + d.s * 2 ^ 448 + d.hw * 2 ^ 384 +
  d.m2 * 2 ^ 320 + d.mean * 2 ^ 256 + d.n % 2 ^ 64 * 2 ^ 192 + d.lostn % 2 ^ 64 * 2 ^ 128 + d.sealT % 2 ^ 64 * 2 ^ 64 + time % 2 ^ 64

/-- The result is out, or dropped: DONE (R394, R395). -/
def State.sndDone (s : State) (lno : Nat) : State :=
  match s.snd lno with
  | some d => (s.setSnd lno { d with done := true, held := false, doneT := s.time }).updLaunch lno (fun l => { l with sndDone := true })
  | none => s

/-- The block is dropped (R395): a launch-level record of SNDW with the address. -/
def State.sndDrop (s : State) (lno addr : Nat) : State := (s.launchRecord lno cSNDW (word addr) 0 0).sndDone lno

/-- Where the block goes (R395): the address, virtual for a record named by lnch. -/
def Launch.blockAt (l : Launch) : Nat := l.recPa.getD l.rva + 192

/-- Write the result block over SNDX (R395); where it waits at a tile in arrival state (R309), the next merge writes it. -/
def State.sndWrite (s : State) (lno : Nat) : State :=
  match s.launch lno, s.snd lno with
  | some l, some d =>
    let bl := d.block s.time
    match l.recPa with
    | some _ =>
      if s.backed l.blockAt && s.backed (l.blockAt + 63) then (s.writePa none l.blockAt (toBytes 64 bl)).sndDone lno
      else s.sndDrop lno l.blockAt
    | none =>
      let r := s.tryM (resolve (s.launchReq lno 0) .store l.blockAt 64)
      match r.1 with
      | none => r.2
      | some (.ok ps) => (r.2.writePieces none ps bl).sndDone lno
      | some (.error (.page p)) =>
        (r.2.setSnd lno { d with held := true }).requestPage lno p (needOf .store (recSupv l.record)) (.sounding lno)
      | some (.error _) => r.2.sndDrop lno l.blockAt
  | _, _ => s

/-- Sealed with nothing owed: the last test, then the block (R394). -/
def State.sndFinish (s : State) (lno : Nat) : State :=
  match s.snd lno with
  | some d =>
    if d.isSealed && d.x == 0 && !d.done && !d.held then (s.setSnd lno (d.test (s.sx lno) s.time)).sndWrite lno else s
  | none => s

/-- R393 to R395. The device combiner merges the partial that has arrived from the lowest-numbered tower, tests, and where the
counter is sealed and nothing is owed writes the result. -/
def execSoundingMerge (lno : Nat) (s : State) : Out1 :=
  match s.snd lno with
  | none => .next s
  | some d =>
    match (List.range 8).findSome? (fun t => (Tbl.find (s.tower t).flight lno).map (fun p => (t, p))) with
    | none => .next (s.sndFinish lno)
    | some (t, p) =>
      let m := ({ n := d.n, mean := d.mean, m2 := d.m2 } : Partial).merge p
      let s := s.updTower t (fun t => { t with flight := Tbl.del t.flight lno })
      let d := { d with n := m.n, mean := m.mean, m2 := m.m2, x := d.x - p.n }
      .next ((s.setSnd lno (d.test (s.sx lno) s.time)).sndFinish lno)

end Sys2Proof.Machine
end

