-- ==== Sys2Proof/Machine/Launching.lean ====
section
/-! DEFINITION. Admission of launches and graph instances, their ends' status words, lnch and lwait (R358 to R360, R375, R379 to R383,
R387). -/

namespace Sys2Proof.Machine

open Sys2Proof

/-- A level descriptor in use breaks R359 or R360; `above` is the domain of the level above it. -/
def levelBad (j : Nat) (above : Option Nat) (d : Nat) : Bool :=
  let dom := lvDomain d
  let needs := match dom with | 2 => 1 | 3 => 2 | 4 => 3 | 5 => 4 | _ => 0
  bits d 63 24 != 0 || bits d 17 16 != 0 || lvExtent d == 0 || decide (5 < dom) ||
  (match above with | some a => decide (a < dom) | none => false) ||
  (dom == 5 && j != 0) || decide (4 < lvScope d) || decide (lvScope d < needs)

/-- A code or handler address breaks R360. -/
def codeAddrBad (a : Nat) : Bool := bits a 1 0 != 0 || bits a 63 56 != 0

/-- A launch record is refused (R360); `host` for a record of a host entry. -/
def recordBad (r : Nat) (host : Bool) : Bool :=
  let nlev := recNlev r
  let fabric := lvDomain (recLevel r 0) == 5
  let vc := bits r 747 736
  bits r 1023 824 != 0 || bits r 791 788 != 0 || bit r 767 || nlev == 0 || decide (8 < nlev) ||
  (List.range 8).any (fun j =>
    if j < nlev then levelBad j (if j = 0 then none else some (lvDomain (recLevel r (j - 1)))) (recLevel r j) else recLevel r j != 0) ||
  (if fabric then decide (lvExtent (recLevel r 0) ≤ recFidx r) else recFidx r != 0) ||
  decide (2 ^ 32 - 1 < recTotal r) ||
  codeAddrBad (recEntry r) || codeAddrBad (recTvec r) || recStack r % 4096 != 0 || bits (recStack r) 63 56 != 0 ||
  (vc != 0 && (vc % 64 != 0 || decide (vc < 128) || decide (2048 < vc))) ||
  decide (2 * 2 ^ 20 < recCbuf r) || decide (4 * 2 ^ 20 < recAbuf r) || decide (4 * 2 ^ 20 < recWbuf r) ||
  (recRing r != 0 && (decide (recRingn r < 4) || decide (20 < recRingn r))) ||
  (recEq r != 0 && (decide (recEqn r < 4) || decide (16 < recEqn r))) ||
  (recSnd r && sndxBad (recSndx r)) ||
  (if recPtroot r = 0 then host else recPtroot r % 4096 != 0 || bits (recPtroot r) 63 48 != 0)

/-- How a new launch comes in: record, x4 of its tasks, physical address of its record for a host entry or a graph node, tree,
PASID, priority, and where its end is told. -/
structure Admit where
  record : Nat
  rva : Nat
  recPa : Option Nat
  ptroot : Nat
  pasen : Bool
  pasid : Nat
  prio : Nat
  comp : Nat
  vec : Nat
  queue : Nat
  parent : Nat
  graphOf : Option (Nat × Nat × Nat)
  deriving DecidableEq, Repr

/-- Launches that are live. -/
def State.liveCount (s : State) : Nat := (s.launches.filter (fun e => e.2.live)).length

/-- LNO n is live. -/
def State.isLive (s : State) (n : Nat) : Bool := (s.launch n).any (·.live)

/-- An LNO that no live launch holds; which one is the device's choice (R375). -/
def State.freeLno (s : State) : Option Nat :=
  let c := Config.choice s.fresh
  ((List.range 65535).find? (fun k => !s.isLive (1 + (c + k) % 65535))).map (fun k => 1 + (c + k) % 65535)

/-- An admission is answered FULL (R375, R387). -/
def State.admitFull (s : State) (r : Nat) : Bool :=
  decide (1024 ≤ s.liveCount) || (recSnd r && decide (64 ≤ s.sounding.length)) || s.freeLno.isNone

/-- ADMIT word (R379). -/
def admitWord (st : Nat) (graph : Bool) (gen id : Nat) : Nat := st * 2 ^ 60 + b2n graph * 2 ^ 32 + gen * 2 ^ 16 + id

/-- Admit a launch under a new LNO (R375, R426); the answer is its ADMIT word. -/
def State.admitLaunch (s : State) (a : Admit) : Nat × State :=
  if a.pasen && !s.pasidEnabled then (admitWord 5 false 0 0, s)
  else match (if s.admitFull a.record then none else s.freeLno) with
  | none => (admitWord 1 false 0 0, s)
  | some lno =>
    let gen := Tbl.get 0 s.gens lno
    let l : Launch :=
      { gen := gen, live := true, rva := a.rva, record := a.record, recPa := a.recPa, ptroot := a.ptroot, pasen := a.pasen,
        pasid := a.pasid, prio := a.prio, comp := a.comp, vec := a.vec, queue := a.queue, parent := a.parent, admitted := s.time, total := recTotal a.record, begun := [],
        ended := 0, errors := 0, killed := false, placed := [], errq := [], eqHeld := false, ctrs := [], posted := 0,
        graphOf := a.graphOf, sndDone := !recSnd a.record }
    let s := { s with launches := Tbl.set s.launches lno l, gens := Tbl.set s.gens lno ((gen + 1) % 65536), fresh := s.fresh + 1 }
    (admitWord 0 false gen lno, if recSnd a.record then s.setSnd lno Sounding.fresh else s)

/-- Graph slot g. -/
def State.graph (s : State) (g : Nat) : GraphSlot := Tbl.get GraphSlot.empty s.graphs g

/-- Change graph slot g. -/
def State.updGraph (s : State) (g : Nat) (f : GraphSlot → GraphSlot) : State := { s with graphs := Tbl.set s.graphs g (f (s.graph g)) }

/-- Start an instance of a launch graph (R383): at most four live, each with its own generation. -/
def State.runGraph (s : State) (g comp vec queue parent : Nat) : Nat × State :=
  let k := s.graph g
  if k.nodes.isEmpty then (admitWord 4 true 0 g, s)
  else if 4 ≤ k.runs.length then (admitWord 2 true 0 g, s)
  else
    let r : GraphRun := { gen := k.gen, comp := comp, vec := vec, queue := queue, parent := parent, node := [], ended := [], errors := 0 }
    (admitWord 0 true k.gen g, s.updGraph g (fun k => { k with runs := k.runs ++ [r], gen := (k.gen + 1) % 65536 }))

/-- R380. Release, then take in a launch or start a graph instance; x[d] := its ADMIT word. -/
def execLnch (k : Bool) (d a b : BitVec 7) (s : State) : Out1 :=
  let w := wordR 0x3E 4 k d.toNat a.toNat b.toNat
  scalarWord k w s (do
    let h := s.turn
    let r := (s.x h a).toNat
    let f := (s.x h b).toNat
    if bits f 63 1 != 0 || (f == 0 && (r % 64 != 0 || bits r 63 56 != 0)) || (f == 1 && bits r 63 8 != 0) then trapM cOPND (word w)
    needRelease h
    if f == 0 then
      let t ← get
      let v ← readHome (t.reqOf h) cSACC (word r) r 256
      modify (fun s => s.countHops (coreOf h) v.2)
      let n := v.1
      let c := s.ctx h
      if recordBad n false || decide (c.prio < recPrio n) ||
          (!c.prv && (recSupv n || recPasen n || recPasid n != 0 || recPtroot n != 0)) then
        trapM cOPND (word w)
      let own := s.launch (s.hartLno h)
      let inherit' : Bool := recPtroot n == 0
      let req : Admit :=
        { record := n, rva := r, recPa := none,
          ptroot := if inherit' then (own.map (·.ptroot)).getD 0 else recPtroot n,
          pasen := if inherit' then (own.map (·.pasen)).getD false else recPasen n,
          pasid := if inherit' then (own.map (·.pasid)).getD 0 else recPasid n,
          prio := recPrio n, comp := 0, vec := 0, queue := 0xFF, parent := s.hartLno h, graphOf := none }
      let u ← get
      let q := u.admitLaunch req
      set q.2
      retireWith h d (word q.1)
    else
      let u ← get
      let q := u.runGraph (r % 256) 0 0 0xFF (s.hartLno h)
      set q.2
      retireWith h d (word q.1))

/-- ST of an ended launch (R381). -/
def Launch.endSt (l : Launch) : Nat := if l.killed then 2 else if l.errors = 0 then 0 else 1

/-- END word (R379, R381). -/
def endWord (st count : Nat) : Nat := st * 2 ^ 60 + min count (2 ^ 32 - 1)

/-- What a handle names now (R381): none while it runs, else its END word. -/
def State.handleEnd (s : State) (graph : Bool) (id gen : Nat) : Option Nat :=
  if graph then
    let k := s.graph id
    if k.runs.any (fun r => r.gen == gen) then none
    else match Tbl.find k.ends gen with
      | some e => some (endWord e.1 e.2)
      | none => some (endWord 3 0)
  else match s.launch id with
    | some l => if l.gen != gen then some (endWord 3 0) else if l.live then none else some (endWord l.endSt l.errors)
    | none => some (endWord 3 0)

/-- R381. Wait for a launch or an instance, acquire; x[d] := its END word, or RUNNING. -/
def execLwait (k : Bool) (d a b : BitVec 7) (s : State) : Out1 :=
  let w := wordR 0x3E 5 k d.toNat a.toNat b.toNat
  scalarWord k w s (do
    let h := s.turn
    let x := (s.x h a).toNat
    let f := (s.x h b).toNat
    let g := bit x 32
    let id := bits x 15 0
    let gen := bits x 31 16
    if bits f 63 1 != 0 || bits x 59 33 != 0 || (!g && id == 0) || (g && bits x 15 8 != 0) then trapM cOPND (word w)
    if !g && id == s.hartLno h && (s.launch id).any (fun l => l.gen == gen) then trapM cOPND (word w)
    match s.handleEnd g id gen with
    | none =>
      if f == 1 then retireWith h d (word (0xF * 2 ^ 60))
      else waitM (if g then .graphRun id gen else .launch id gen)
    | some e =>
      modify (fun s => s.acquire h 3)
      retireWith h d (word e))

end Sys2Proof.Machine
end

