-- ==== Sys2Proof/Machine/Scheduler.lean ====
section
/-! DEFINITION. The hardware scheduler: dispatch, pre-emption, ageing, parking, waking and the end of a task (R365 to R374). -/

namespace Sys2Proof.Machine

open Sys2Proof

/-- A condition on which a task parks (R369). -/
def WaitFor.parks : WaitFor → Bool
  | .granule .. | .barrier .. | .launch .. | .graphRun .. | .counter .. | .run .. => true
  | _ => false

/-- Buffer kind of a number of R44. -/
def bufKindOf (n : Nat) : BufKind := if n = 1 then .w else if n = 2 then .a else .c

/-- Completion counter c of a launch has reached a bound (R449). -/
def State.counterReached (s : State) (lno c : Nat) (bound : Word) : Bool :=
  match s.launch lno with
  | some l => decide ((Tbl.get 0 l.ctrs c).toInt ≤ bound.toInt)
  | none => true

/-- A collective run has ended (R475). -/
def State.runEnded (s : State) (gid run : Nat) : Bool := !s.jets.any (fun j => j.gid == gid && j.run % 65536 == run)

/-- The condition that a waiting word waits for holds now (R369). -/
def State.wakes (s : State) (lno : Nat) : WaitFor → Bool
  | .granule core buf l g => Tbl.get false (s.buf core l (bufKindOf buf)).full g || (s.core core).allocOf l == none
  | .barrier cl key p => phasePassed (Tbl.get Barrier.zero (s.cluster cl).bars key).ph p || (s.cluster cl).lost.contains lno
  | .launch n g => (s.handleEnd false n g).isSome
  | .graphRun n g => (s.handleEnd true n g).isSome
  | .counter l c b => s.counterReached l c b
  | .run g r => s.runEnded g r
  | _ => true

/-- A hart is free to take a task: no task, in service, its tower ONLINE, and no lower hart of its core is free too (R366). -/
def State.nextFree (s : State) (h : Nat) : Bool :=
  let free (g : Nat) : Bool := (s.hart g).task.isNone && !(s.hart g).halted
  free h && (s.tower (hartTower h)).st == .online && (List.range (h % 4)).all (fun k => !free (4 * coreOf h + k))

/-- R366, R264. A free hart takes the best task that is ready and eligible; a gated core wakes first. -/
def execTaskDispatch (h : Nat) (s : State) : Out1 :=
  if !s.nextFree h then .next s
  else match s.candidate h with
    | none => .next s
    | some (_, c) =>
      let s := s.wakeCore (coreOf h)
      .next (if (s.core (coreOf h)).gate == .running then s.take h c else s)

/-- A candidate could run on hart g, were g free (R366). -/
def State.eligible (s : State) (g : Nat) (c : Cand) : Bool :=
  (s.tower (hartTower g)).powered && (s.tower (hartTower g)).st == .online && !(s.hart g).halted &&
  (match c with
   | .task tid => (match s.taskOf tid with
     | some t => s.boundOk t (coreOf g) && s.coreTakes g t.lno t.vcount t.frame t.anvilCore t.anvilSaved.isSome
     | none => false)
   | .fresh lno t _ => (match s.launch lno with
     | some l => (match s.taskBindings lno l t with
       | some b => b.1.all (fun u => unitOfCore u.1 (coreOf g) == u.2) && s.coreTakes g lno (recVcount l.record) none none false
       | none => false)
     | none => false))

/-- A candidate has been ready for AGEW (R368). -/
def State.hasAged (s : State) (k : CandKey) (c : Cand) : Bool :=
  match c with
  | .task tid => (s.taskOf tid).any (·.aged)
  | .fresh _ _ _ => decide (1000 * max 1 (bits s.schcfg 63 48) ≤ s.time - k.since)

/-- Hart h runs the task to stop among `hs`: priority p and no other of that priority has run longer (R368). -/
def State.ranLongest (s : State) (h p : Nat) (hs : List Nat) : Bool :=
  hs.all (fun g => (s.hart g).task.isNone || (s.ctx g).prio != p || g == h ||
    decide ((s.hart h).startedAt < (s.hart g).startedAt) || ((s.hart h).startedAt == (s.hart g).startedAt && decide (h ≤ g)))

/-- A shelter has not reached step 5 within 5 ms of its step 1 (R405). -/
def State.shelterLate (s : State) (tw : Nat) : Bool :=
  let k := s.tower tw
  k.st == .shelter && k.step != 6 && decide (k.since + 5 * 10 ^ 6 ≤ s.time)

/-- The scheduler stops the task of hart h now (R368), or its tower is being emptied (R404), which ends with the bound of R405. -/
def State.preempts (s : State) (h : Nat) : Bool :=
  if (s.tower (hartTower h)).st != .online && (s.hart h).task.isSome then !s.shelterLate (hartTower h)
  else
  let core := (List.range 4).map (fun k => 4 * coreOf h + k)
  match (s.hart h).task, s.candidate h with
  | some _, some (k, c) =>
    let p := (s.ctx h).prio
    let low := core.all (fun g => (s.hart g).task.isNone || decide (p ≤ (s.ctx g).prio))
    (core.all (fun g => (s.hart g).task.isSome || (s.hart g).halted) && decide (p < k.prio) && low && s.ranLongest h p core) ||
    (k.prio == p && s.hasAged k c && decide (1000 * bits s.schcfg 47 32 ≤ s.time - (s.hart h).startedAt) &&
      (let hs := (List.range 2048).filter (fun g => s.eligible g c)
       hs.all (fun g => (s.hart g).task.isSome && decide (p ≤ (s.ctx g).prio)) && s.ranLongest h p hs))
  | _, _ => false

/-- A wait that holds off a stop: under R26, R46, R132, R245, R327 or R356 (R368), or for a trap entry to complete (R49). -/
def WaitFor.holdsOff : WaitFor → Bool
  | .queue | .transfers | .entry => true
  | _ => false

/-- Hart h may be stopped now (R368, R39): no hold-off, no transfer, no matrix word that has begun. -/
def State.mayStop (s : State) (h : Nat) : Bool := s.savable h && !(s.hart h).waiting.holdsOff

/-- R368, R39. A pre-emption: precise stop, context saved, task ready.  A task that a debugger's stop holds is not pre-empted (log 8). -/
def execPreemption (h : Nat) (s : State) : Out1 :=
  .next (if s.preempts h && s.mayStop h && (s.hart h).held.isNone then s.swapOut h .ready .none else s)

/-- R368. A ready task has waited for the age window. -/
def execAgeWindowExpiry (tid : Nat) (s : State) : Out1 :=
  match s.taskOf tid with
  | some t =>
    .next (if t.st == .ready && decide (1000 * max 1 (bits s.schcfg 63 48) ≤ s.time - t.since) then s.updTask tid (fun t => { t with aged := true })
      else s)
  | none => .next s

/-- The parking wait of hart h that has passed SPIN cycles: of its front, else of its vector unit (R369). -/
def State.spunOut (s : State) (h : Nat) : Option WaitFor :=
  let t := s.hart h
  let spin := bits s.schcfg 31 12
  if t.waiting.parks && decide (spin < t.spin) then some t.waiting
  else if t.vwait.parks && decide (spin < t.vspin) then some t.vwait
  else none

/-- R369. The spin budget of hart h's wait is spent: its task is saved; it parks, or is ready where the condition now holds. -/
def execSpinBudgetExpiry (h : Nat) (s : State) : Out1 :=
  match s.spunOut h with
  | none => .next s
  | some w =>
    if !s.savable h then .next s
    else
      let now := s.wakes (s.hartLno h) w
      .next (s.swapOut h (if now then .ready else .parked) (if now then .none else w))

/-- R369. The home of a parked task's condition finds that it holds. -/
def execWake (tid : Nat) (s : State) : Out1 :=
  match s.taskOf tid with
  | some t =>
    .next (if t.st == .parked && s.wakes t.lno t.wake then s.updTask tid (fun t => { t.toReady s.time with wake := .none })
      else s)
  | none => .next s

/-- R374. The next fetch of hart h would be at address 0: once its queue and its transfers are done its task ends. -/
def execTaskEnd (h : Nat) (s : State) : Out1 :=
  match (s.hart h).task with
  | none => .next s
  | some tid =>
    if s.pc h != 0 then .next s
    else if !(s.hart h).queue.isEmpty || !s.savable h then .next (s.holdFront h .older)
    else .next (s.endTask tid (s.ctx h) (s.cp h) (some h))

end Sys2Proof.Machine
end

