-- ==== Sys2Proof/Machine/Health.lean ====
section
/-! DEFINITION. Package health: sensors, shelter, trip, logic and fatal faults, storage and pipeline errors, and the Contrail trace
(R217, R229, R262, R302, R364, R401 to R415, R431). -/

namespace Sys2Proof.Machine

open Sys2Proof

/-- UNIT of a health record (R418): a tower, a cluster, a core or a stack, with the part code of [5:2]. -/
def unitTower (t part : Nat) : Nat := t * 4096 + part * 4
def unitCluster (cl part : Nat) : Nat := cl / 8 * 4096 + cl % 8 * 512 + part * 4
def unitCore (c part : Nat) : Nat := c / 64 * 4096 + c / 8 % 8 * 512 + c % 8 * 64 + part * 4
def unitStack (n : Nat) : Nat := 2 ^ 15 + n * 4096

/-- Tower of a sensor and its number there, the compute domain's below 272 (R401); stacks and I/O dies belong to no tower. -/
def towerSensor : Sensor → Option (Nat × Nat)
  | .anvilLayer c l => some (c / 64, c % 64 * 4 + l % 4)
  | .laneDie cl => some (cl / 8, 256 + cl % 8)
  | .registerDie cl => some (cl / 8, 264 + cl % 8)
  | .ceilingLayer t l => some (t, 272 + l % 4)
  | .stack _ | .ioDie _ => none

/-- Thermal limits in quarter degrees (R402). -/
def tripLimit (thcfg : Nat) : Nat := 4 * bits thcfg 63 56
def emergencyLimit (thcfg : Nat) : Nat := 4 * bits thcfg 55 48
def exitLimit (thcfg : Nat) : Nat := 4 * (bits thcfg 55 48 - bits thcfg 47 40)

/-- Sensors of a tower (R401): those of the compute domain, then its four ceiling layers. -/
def computeSensors : Nat := 272
def towerSensors : Nat := 276

/-- A tower takes a reading (R401, R403, R407): `hotOnce` lists a compute sensor once for each of its last two readings at TEMG or
above; with a sensor listed twice the tower is at emergency, ranked by its highest single reading.  It is cool while every one of its
sensors has read below the exit limit. -/
def Tower.sense (t : Tower) (thcfg time n temp : Nat) : Tower :=
  let temps := Tbl.set t.temps n temp
  let was := t.hotOnce.contains n
  let rest := t.hotOnce.filter (· != n)
  let hot := if decide (n < computeSensors) && decide (emergencyLimit thcfg ≤ temp) then (if was then n :: n :: rest else n :: rest) else rest
  let cool := (List.range towerSensors).all (fun k => (Tbl.find temps k).any (fun v => decide (v < exitLimit thcfg)))
  { t with
    temps := temps, hotOnce := hot,
    emergency :=
      if hot.any (fun k => decide (2 ≤ (hot.filter (· == k)).length)) then
        ((temps.filter (fun e => decide (e.1 < computeSensors))).map Prod.snd).foldl max 0
      else 0,
    coolSince := if cool then some (t.coolSince.getD time) else none }

/-- Harts of a tower that run a task. -/
def State.runningIn (s : State) (tw : Nat) : List Nat :=
  (s.harts.filter (fun e => hartTower e.1 == tw && e.2.task.isSome)).map Prod.fst

/-- Towers that are ONLINE. -/
def State.onlineTowers (s : State) : List Nat := (List.range 8).filter (fun t => (s.tower t).st == .online)

/-- A core of a tower. -/
def inTower (tw c : Nat) : Bool := c / 64 == tw

/-- The Anvil state of a task that is swapped out goes to its frame (R217). -/
def State.saveAnvil (s : State) (tid : Nat) (a : Anvil) : State :=
  match s.taskOf tid with
  | none => s
  | some t =>
    let s := match t.frame with
      | some f => s.putFields f a.frameFields
      | none => s
    s.updTask tid (fun t => { t with anvilSaved := some a, anvilCore := none })

/-- Anvil state of a tower that is not written is lost (R217, R406): its owners own nothing, and a release under way is done. -/
def State.loseAnvils (s : State) (tw : Nat) : State :=
  { s with
    tasks := s.tasks.map (fun e => match e.2.anvilCore with
      | some c => if inTower tw c then (e.1, { e.2 with anvilCore := none }) else e
      | none => e)
    cores := s.cores.map (fun e => if inTower tw e.1 then (e.1, { e.2 with anvil := Anvil.free, job := none }) else e) }

/-- Step 3 of R404 for the Anvils of a tower: each owner's state is written, and the Anvils are free. -/
def State.saveAnvils (s : State) (tw : Nat) : State :=
  let owned := (s.cores.filter (fun e => inTower tw e.1 && e.2.anvil.owner.isSome)).map (fun e => e.2.anvil)
  (owned.foldl (fun s a => match a.owner with | some tid => s.saveAnvil tid a | none => s) s).loseAnvils tw

/-- Launches that hold buffer allocations on a tower. -/
def State.holdersOf (s : State) (tw : Nat) : List Nat :=
  (s.launches.filter (fun e => s.cores.any (fun c => inTower tw c.1 && c.2.allocs.any (fun a => a.lno == e.1)))).map Prod.fst

/-- Step 6 of R404, and R364: MIGR records, and every instance bound within the tower is bound anew when its next task is placed;
tasks that wait for an Anvil of the tower are ready. -/
def State.migrate (s : State) (tw : Nat) (holders : List Nat) : State :=
  let s : State := holders.foldl (fun s n => s.launchRecord n cMIGR (word tw) 0 0) s
  let s : State := { s with
    launches := s.launches.map (fun e => (e.1, { e.2 with
      placed := e.2.placed.filter (fun p => !unitWithin (recKind e.2.record p.1) p.2.2 3 tw) })),
    tasks := s.tasks.map (fun e =>
      if e.2.st == .anvilwait && hartTower e.2.hart == tw then (e.1, e.2.toReady s.time) else e) }
  s.tasks.foldl (fun s e =>
    let at' := match e.2.moved with | m :: _ => m.2 | [] => e.2.home
    if e.2.named.isSome && at' / 8 == tw then
      let s := s.updTask e.1 (fun t => { t with moved := [] })
      s.updTask e.1 (fun t => { t with moved := s.refuge t.lno at' })
    else s) s

/-- Step 2 of R404: every running task that may stop is saved, one that a debugger's stop holds too (DEDUCED, log 115). -/
def State.stopTasks (s : State) (tw : Nat) : State :=
  (s.runningIn tw).foldl (fun s h => if s.mayStop h then s.swapOut h .ready .none else s) s

/-- Drop what only the compute domain of a tower holds (R404, step 5; R302): its vector files are lost, and what they hold when power
returns is free (log 2).  DEDUCED (log 104): the cycle counts of its clusters (R138) are kept. -/
def State.cutCompute (s : State) (tw : Nat) : State :=
  let keep {α : Type} (t : Tbl α) (n : Nat) : Tbl α := t.filter (fun e => e.1 / n != tw)
  let cut (n : Nat) (k : Core) : Core :=
    { k with vf := tblOf 2048 (fun r => Config.freeRegister (s.fresh + 2048 * n + r) % 2 ^ 32768), unlanded := [], allocs := [], anvil := Anvil.free, job := none, copies := [], interlock := [], inbox := [], replies := [] }
  let s : State := (List.range 64).foldl (fun s n => s.updCore (64 * tw + n) (cut n)) { s with
    fresh := s.fresh + 131072,
    mmu := { s.mmu with l1 := keep s.mmu.l1 64, tlb1 := keep s.mmu.tlb1 64, tlb2 := keep s.mmu.tlb2 8, walk2 := keep s.mmu.walk2 8 } }
  s.updTower tw (fun t => { t with powered := false })

/-- Steps 4 to 6 of R404: barriers and counters stand in the router, which performs what gated clusters still held, compute power is off,
tasks migrate. -/
def State.powerOff (s : State) (tw : Nat) : State :=
  let holders := s.holdersOf tw
  let s := (List.range 8).foldl (fun s k => s.servePort (8 * tw + k)) (s.cutCompute tw)
  (s.migrate tw holders).updTower tw (fun t => { t with step := 6 })

/-- The tower is the last one ONLINE (R403, R415). -/
def State.lastOnline (s : State) (tw : Nat) : Bool := (s.onlineTowers.filter (· != tw)).isEmpty

/-- A shelter could take the tower (R403, R415): ONLINE but not the last such, or in SERVICE and emptied, and at emergency. -/
def State.mayShelter (s : State) (t : Nat) : Bool :=
  (((s.tower t).st == .online && !s.lastOnline t) || ((s.tower t).st == .service && (s.tower t).step == 6)) && decide (0 < (s.tower t).emergency)

/-- Of the towers that a shelter could take, the one with the highest reading, the lowest number among equals (R403). -/
def State.hottest (s : State) : Option Nat :=
  ((List.range 8).filter s.mayShelter).foldl
    (fun best t => match best with
      | none => some t
      | some b => if (s.tower b).emergency < (s.tower t).emergency then some t else some b) none

/-- A shelter is on its way (R403). -/
def State.sheltering (s : State) : Bool := (List.range 8).any (fun t => (s.tower t).st == .shelter && (s.tower t).step != 6)

/-- PKGHOT (R403): the last ONLINE tower is at emergency; it ends once no tower is. -/
def State.checkPkghot (s : State) : State :=
  match s.onlineTowers.filter (fun t => decide (0 < (s.tower t).emergency)) with
  | [] => { s with pkghot := false }
  | t :: _ =>
    if s.pkghot || !bit s.thcfg 0 || !s.lastOnline t then s else { s with pkghot := true }.logHealth 12 0 0 0 0 (s.tower t).emergency

/-- The Barometer looks for a tower to shelter (R403): one at a time; a tower in SERVICE enters at step 4 (R415). -/
def State.considerShelter (s : State) : State :=
  let s := s.checkPkghot
  if !bit s.thcfg 0 || s.sheltering then s
  else match s.hottest with
    | none => s
    | some tw =>
      let drained := (s.tower tw).st == .service
      let s := (s.updTower tw (fun t => { t with st := .shelter, step := 1, since := s.time })).logHealth 5 (unitTower tw 0) 0 0 0
        (s.tower tw).emergency
      if drained then s.powerOff tw else s

/-- A trip (R406): unsaved tasks end with TOWER, Anvil state that is not written is lost, and steps 4 to 6 run. -/
def State.trip (s : State) (tw temp : Nat) : State :=
  let s := (s.updTower tw (fun t => { t with st := .shelter, step := max 1 t.step, since := if t.st == .shelter then t.since else s.time })).logHealth
    6 (unitTower tw 0) 0 0 0 temp
  let s : State := (s.runningIn tw).foldl (fun s h => match (s.hart h).task with
    | some tid => s.terminateTask tid cTOWER 0 0 0
    | none => s) s
  (s.loseAnvils tw).powerOff tw

/-- Launches that hold barriers or counters in a cluster of a tower (R251, R257, R262). -/
def State.holdersOfUnits (s : State) (tw : Nat) : List Nat :=
  (s.launches.filter (fun e => e.2.live && (List.range 8).any (fun k =>
    s.homedIn e.1 (8 * tw + k) || (s.cluster (8 * tw + k)).counters.any (fun d => d.2.lno == e.1)))).map Prod.fst

/-- A logic fault (R408, R262): OFFLINE from whatever step; running tasks end with TOWER, barriers and counters go with BLOST records. -/
def State.logicFault (s : State) (tw : Nat) : State :=
  if (s.tower tw).st == .offline || (s.tower tw).st == .mappedOut then s
  else
    let s := s.logHealth 3 (unitTower tw 0) 0 0 0 0
    let holders := s.holdersOf tw
    let s : State := s.holdersOfUnits tw |>.foldl (fun s n => s.launchRecord n cBLOST 0 0 0) s
    let s := s.updTower tw (fun t => { t with st := .offline, step := 6, testing := false })
    let s : State := (s.runningIn tw).foldl (fun s h => match (s.hart h).task with
      | some tid => s.terminateTask tid cTOWER 0 0 0
      | none => s) s
    let live := (s.launches.filter (fun e => e.2.live)).map Prod.fst
    let s : State := (List.range 8).foldl (fun s k =>
      s.updCluster (8 * tw + k) (fun c => { c with bars := [], counters := [], port := [], lost := live })) s
    ((s.loseAnvils tw).cutCompute tw).migrate tw holders

/-- A layer of a core is mapped out for good (R229); with all four gone its tower has a logic fault. -/
def State.mapOutLayer (s : State) (c layer : Nat) : State :=
  let l := layer % 4
  let out := ((s.core c).outLayers ||| 2 ^ l) % 16
  let s := ((s.updCore c (fun k => { k with outLayers := out })).logHealth 8 (unitCore c (1 + l)) 0 0 0 0)
  let s : State := { s with layerFlash := Tbl.set s.layerFlash c (Tbl.get 0 s.layerFlash c ||| 2 ^ l) }
  if out = 15 then s.logicFault (c / 64) else s

/-- A corrected error (R411): a CE record, or a count beyond 16 of one unit in one second. -/
def State.corrected (s : State) (unit addr : Nat) : State :=
  let sec := s.time / 10 ^ 9
  let units := if sec = s.ceSecond then s.ceUnits else []
  let n := Tbl.get 0 units unit
  let s : State := { s with ceSecond := sec, ceUnits := Tbl.set units unit (n + 1) }
  if n < 16 then s.logHealth 1 unit 0 0 addr 0 else { s with ceCount := s.ceCount + 1 }

/-- R401, R403, R406. A reading of t quarter degrees. -/
def execSensorReading (sensor : Sensor) (t : Nat) (s : State) : Out1 :=
  match towerSensor sensor with
  | none => .next s
  | some (tw, n) =>
    let s := s.updTower tw (fun k => k.sense s.thcfg s.time n t)
    let s := match sensor with
      | .anvilLayer c l => s.layerReport c l t
      | _ => s
    let s := if decide (n < computeSensors) && decide (tripLimit s.thcfg ≤ t) && (s.tower tw).powered &&
        ((s.tower tw).st == .online || (s.tower tw).st == .service || (s.tower tw).st == .shelter) then s.trip tw t else s
    .next s.considerShelter

/-- R404, R405. A shelter goes on: tasks that may stop are saved; when all are, Anvils are written, power goes off and tasks migrate.  Past its
5 ms it is a trip. -/
def execShelterPowerOff (tw : Nat) (s : State) : Out1 :=
  let k := s.tower tw
  if k.st != .shelter || k.step == 6 then .next s
  else if s.shelterLate tw then .next ((s.trip tw k.emergency).considerShelter)
  else
    let s := s.stopTasks tw
    if !(s.runningIn tw).isEmpty then .next s else .next (((s.saveAnvils tw).powerOff tw).considerShelter)

/-- R405. Step 5 was not reached within 5 ms: a trip. -/
def execShelterBoundExpiry (tw : Nat) (s : State) : Out1 :=
  let k := s.tower tw
  if k.st != .shelter || k.step == 6 || !s.shelterLate tw then .next s
  else .next ((s.trip tw k.emergency).considerShelter)

/-- A tower leaves the mask of an apply (R431).  With the last one the apply is over, and DEVSTAT reports its image where a tower runs it (R425; DEDUCED, log 116). -/
def State.applied (s : State) (tw : Nat) : State :=
  match s.fw.applying with
  | none => s
  | some mask =>
    if !bit mask tw then s
    else if mask != 2 ^ tw then { s with fw := { s.fw with applying := some (mask - 2 ^ tw) } }
    else
      let runs := (List.range 8).any (fun t =>
        (s.tower t).fw == some s.fw.image && (s.tower t).st != .offline && (s.tower t).st != .mappedOut)
      let fw := { s.fw with applying := none }
      { s with fw := if runs then { fw with runVer := s.fw.image.version, runSvn := s.fw.image.svn } else fw }

/-- The firmware of a tower that an apply has still to do becomes the image of the apply (R431; DEDUCED, log 116). -/
def State.loadFirmware (s : State) (tw : Nat) : State :=
  if s.fw.applying.any (fun mask => bit mask tw) then s.updTower tw (fun t => { t with fw := some s.fw.image }) else s

/-- R407, R431. SDWELL has passed below the exit limit: the tower is powered, updated where an apply waits for it, and tested. -/
def execShelterReturn (tw : Nat) (pass : Bool) (s : State) : Out1 :=
  let k := s.tower tw
  let dwelt := match k.coolSince with | some t => decide (t + bits s.thcfg 23 8 * 10 ^ 6 ≤ s.time) | none => false
  if k.st != .shelter || k.step != 6 || !dwelt then .next s
  else
    let s := s.loadFirmware tw
    .next ((if pass then s.updTower tw (fun t => { t with st := .online, step := 0, powered := true }) else s.logicFault tw).applied tw)

/-- A core of the tower has all four Anvil layers mapped out (R229, R408). -/
def State.deadCore (s : State) (tw : Nat) : Bool := s.layerFlash.any (fun e => inTower tw e.1 && e.2 % 16 == 15)

/-- R407, R408, R427, R229. The self-test of a tower that package reset has started ends; layers found faulty are mapped out. -/
def execSelfTest (tw : Nat) (pass : Bool) (faulty : List (Nat × Nat)) (s : State) : Out1 :=
  if !(s.tower tw).testing then .next s
  else
    let s := s.updTower tw (fun t => { t with testing := false })
    let s : State := faulty.foldl (fun s f => if inTower tw f.1 then s.mapOutLayer f.1 f.2 else s) s
    let s := if pass && !s.deadCore tw then s else s.logicFault tw
    .next (if (List.range 8).any (fun t => (s.tower t).testing) then s else { s with fw := { s.fw with ready := !s.fw.recovery } })

/-- R408. A watchdog of the compute domain expires. -/
def execWatchdogExpiry (tw : Nat) (s : State) : Out1 := .next (s.logicFault tw)

/-- R229, R408, R411. A parity error: replayed, or where the replays fail an Anvil layer that is mapped out, else a logic fault. -/
def execParityError (unit : Pipeline) (replaysFail : Bool) (s : State) : Out1 :=
  let tower := match unit with
    | .front c | .lanes c | .anvil c _ => c / 64
    | .crossbar cl => cl / 8
    | .adders n => n
  let code := match unit with
    | .front c | .lanes c => unitCore c 0
    | .anvil c l => unitCore c (1 + l % 4)
    | .crossbar cl => unitCluster cl 0
    | .adders n => unitStack n
  if !replaysFail then .next (s.corrected code 0)
  else match unit with
    | .anvil c l =>
      let s := match (s.core c).job with
        | some j => (match (s.hart j.hart).task with
          | some tid => if j.granted then s.terminateTask tid cUNCORR 0 0 0 else s
          | none => s)
        | none => s
      .next (s.mapOutLayer c l)
    | _ => .next (s.logicFault tower)

/-- R409, R410. A fatal fault: a FATAL record, AER, and package reset with the tower and its stack mapped out. -/
def execFatalFault (tw : Nat) (s : State) : Out1 :=
  .next (((s.logHealth 4 (unitTower tw 0) 0 0 0 0).send .aer [tw]).packageReset (some tw))

/-- One of the tasks that may have been reading, on harts of a list; which one is the device's (R411). -/
def State.readerOf (s : State) (hs : List Nat) : Option Nat × State :=
  let hs := hs.filter (fun h => (s.hart h).task.isSome)
  ((hs[Config.choice s.fresh % hs.length]?).bind (fun h => (s.hart h).task), { s with fresh := s.fresh + 1 })

/-- Harts whose words can read a vector register of core c. -/
def State.registerReaders (s : State) (c r : Nat) : List Nat :=
  ((List.range 4).map (4 * c + ·)).filter (fun h => decide ((s.ctx h).vbase ≤ r) && decide (r < (s.ctx h).vbase + (s.ctx h).vcount))

/-- Harts whose words can read a buffer of core c: of the core, or but for W of its cluster (R202, R206), where their launch has an
allocation there. -/
def State.bufferReaders (s : State) (c : Nat) (w : Bool) : List Nat :=
  (if w then (List.range 4).map (4 * c + ·) else (List.range 32).map (32 * clusterOf c + ·)).filter (fun h =>
    (s.core c).allocs.any (fun a => a.lno == s.hartLno h))

/-- End a task with UNCORR, where there is one (R48, R411). -/
def endUncorr (r : Option Nat × State) : State :=
  match r.1 with
  | some tid => r.2.terminateTask tid cUNCORR 0 0 0
  | none => r.2

/-- Poison a line at its home (R412). -/
def State.poisonLine (s : State) (line : Nat) : State := { s with poison := Tbl.set s.poison line true }

/-- An entry of the translation storage that serves core c is dropped, and will be fetched again (R343, R411): of its first level, its
cluster's or its stack's; which one is the device's. -/
def State.dropTranslation (s : State) (c : Nat) : State :=
  let cl := clusterOf c
  let t := towerOf cl
  let m := s.mmu
  let k := Config.choice s.fresh
  let at' {α : Type} (tb : Tbl (List α)) (i : Nat) : Tbl (List α) :=
    Tbl.upd [] tb i (fun l => l.eraseIdx (k / 5 % l.length))
  let m := match k % 5 with
    | 0 => { m with tlb1 := at' m.tlb1 c }
    | 1 => { m with tlb2 := at' m.tlb2 cl }
    | 2 => { m with walk2 := at' m.walk2 cl }
    | 3 => { m with tlbBase := at' m.tlbBase t }
    | _ => { m with walkBase := at' m.walkBase t }
  { s with fresh := s.fresh + 1, mmu := m }

/-- Unit of a memory line: its stack, or its tower (R335, R418). -/
def State.lineUnit (s : State) (line : Nat) : Nat :=
  match ceilingTower (line * 256) with
  | some t => unitTower t (5 + (s.placeOf (line * 256) 0).1 / 16)
  | none => unitStack (s.survivor ((s.placeOf (line * 256) 0).1 / 32))

/-- R411, R412. A soft error in storage. -/
def execEccError (site : Storage) (corrected : Bool) (s : State) : Out1 :=
  match site with
  | .vectorFile c r =>
    if corrected then .next (s.corrected (unitCore c 0) 0)
    else .next (endUncorr ((s.logHealth 2 (unitCore c 0) 0 0 0 0).readerOf (s.registerReaders c r)))
  | .bufferW c =>
    if corrected then .next (s.corrected (unitCore c 0) 0)
    else .next (endUncorr ((s.logHealth 2 (unitCore c 0) 0 0 0 0).readerOf (s.bufferReaders c true)))
  | .bufferA c | .bufferC c =>
    if corrected then .next (s.corrected (unitCore c 0) 0)
    else .next (endUncorr ((s.logHealth 2 (unitCore c 0) 0 0 0 0).readerOf (s.bufferReaders c false)))
  | .scaleFile h | .soundingRegs h =>
    if corrected then .next (s.corrected (unitCore (coreOf h) 0) 0)
    else .next (endUncorr ((s.hart h).task, s.logHealth 2 (unitCore (coreOf h) 0) 0 0 0 0))
  | .translation c => .next (if corrected then s else s.dropTranslation c)
  | .scalarL1 c line => .next (if corrected then s else s.setL1 c ((s.l1 c).filter (fun l => l.line != line)))
  | .ceilingLine line | .hbmLine line =>
    .next (if corrected || !s.backed (line * 256) then s else (s.logHealth 2 (s.lineUnit line) 0 0 (line * 256) 0).poisonLine line)

/-- R411. The patrol scrub passes a line: what it can correct is written back, and the line reads as before; poison stays (R412). -/
def execPatrolScrub (line : Nat) (s : State) : Out1 :=
  .next (if Tbl.get false s.poison line then s else { s with mem := s.mem.writeBytes (line * 256) (toBytes 256 (s.mem.readN (line * 256) 256)) })

/-- STATE of a trace sample (R414). -/
def State.sampleState (s : State) (h : Nat) : Nat :=
  let t := s.hart h
  if t.held.isSome then 5 else
  match t.waiting with
  | .none => 0
  | .full => 1
  | .granule .. | .landed => 3
  | .barrier .. | .launch .. | .graphRun .. | .counter .. | .run .. => 4
  | .queue =>
    (match t.vwait with
     | .granule .. | .landed => 3
     | _ => if s.gateReady h then 2 else 5)
  | _ => 5

/-- A trace record (R414). -/
def State.sample (s : State) (h : Nat) : Nat :=
  2 ^ 255 + s.time % 2 ^ 48 * 2 ^ 207 + (s.pc h).toNat % 2 ^ 56 * 2 ^ 151 + (s.cp h).toNat % 2 ^ 56 * 2 ^ 95 + (s.ctx h).vs % 2 ^ 12 * 2 ^ 83 +
  s.sampleState h * 2 ^ 79 + h % 2 ^ 11 * 2 ^ 68 + s.hartLno h % 2 ^ 16 * 2 ^ 52 + (s.ctx h).vseq % 2 ^ 16 * 2 ^ 36

/-- The cycle count of hart h's cluster has passed a multiple of 2^SPER since its last sample (R413). -/
def State.sampleDue (s : State) (h : Nat) : Bool :=
  let p := 2 ^ bits s.ctcfg 56 52
  decide ((s.hart h).sampleCyc / p < (s.cluster (hartCluster h)).cyc / p)

/-- R413, R414. Hart h writes a trace sample, where its launch is selected and its period has passed: into the next slot of the ring, or
lost where the ring is full and CTCFG says so. -/
def execContrailSample (h : Nat) (s : State) : Out1 :=
  let c := s.ctcfg
  if !bit c 63 || (s.hart h).task.isNone || (bits c 15 0 != 0 && bits c 15 0 != s.hartLno h) || !s.sampleDue h then .next s
  else
    let n := 2 ^ bits c 61 57
    let pa := bits c 47 16 * 65536 + 32 * (s.ctNext % n)
    let s := s.updHart h (fun t => { t with sampleCyc := (s.cluster (hartCluster h)).cyc })
    if (bit c 62 && decide (n ≤ s.ctNext)) || !s.backedRange pa 32 then .next { s with ctLost := min (2 ^ 32 - 1) (s.ctLost + 1) }
    else
      .next { s.writePa none pa (toBytes 32 (s.sample h)) with ctWritten := min (2 ^ 32 - 1) (s.ctWritten + 1), ctNext := s.ctNext + 1 }

end Sys2Proof.Machine
end

