-- ==== Sys2Proof/Machine/HostQueue.lean ====
section
/-! DEFINITION. Host launch queues, launch graphs, KILL and the end of a launch (R375 to R379, R382, R383). -/

namespace Sys2Proof.Machine

open Sys2Proof

/-- Launch queue q (R377). -/
def State.queue (s : State) (q : Nat) : LaunchQueue := Tbl.get LaunchQueue.reset s.queues q
/-- Replace launch queue q. -/
def State.setQueue (s : State) (q : Nat) (k : LaunchQueue) : State := { s with queues := Tbl.set s.queues q k }

/-- Entries that a queue holds (R377). -/
def LaunchQueue.ahead (k : LaunchQueue) : Nat := (k.tail + 2 ^ 32 - k.head) % 2 ^ 32

/-- R377. A write of LQTAIL; a tail too far ahead clears EN and is logged. -/
def execDoorbell (q : Nat) (v : BitVec 64) (s : State) : Out1 :=
  if 16 ≤ q then .next s
  else
    let k := { s.queue q with tail := v.toNat % 2 ^ 32 }
    if 2 ^ k.logn < k.ahead then .next ((s.setQueue q { k with en := false }).logHealth 9 0 0 0 0 q)
    else .next (s.setQueue q k)

/-- Fields of a queue entry (R378). -/
def qeKind (e : Nat) : Nat := bits e 243 240
def qeVec (e : Nat) : Nat := bits e 239 224
def qeGen (e : Nat) : Nat := bits e 223 208
def qeArg (e : Nat) : Nat := bits e 207 192
def qeComp (e : Nat) : Nat := bits e 191 128
def qeRva (e : Nat) : Nat := bits e 127 64
def qeRec (e : Nat) : Nat := bits e 63 0

/-- The queue of a priority that was served last, of its four (R379).
DESIGN CHOICE (log 111): before any has been served it is the last one, so the lowest goes first. -/
def State.lastServed (s : State) (p : Nat) : Nat := Tbl.get 3 s.served p

/-- The queue whose head is served next: highest priority, round robin among the four of one (R379). -/
def State.servedQueue (s : State) : Option Nat :=
  let ready (q : Nat) : Bool := (s.queue q).en && (s.queue q).ahead != 0
  [3, 2, 1, 0].findSome? (fun p => ((List.range 4).map (fun k => 4 * p + (s.lastServed p + 1 + k) % 4)).find? ready)

/-- The entry at the head of queue q where it is this queue's turn (R378, R379). -/
def State.headEntry (s : State) (q : Nat) : Option Nat :=
  if s.fw.ready && s.servedQueue == some q then
    let k := s.queue q
    some (s.mem.readN (k.base + 64 * (k.head % 2 ^ k.logn)) 64)
  else none

/-- Move a queue on (R379). -/
def State.popQueue (s : State) (q : Nat) : State :=
  let k := s.queue q
  { s.setQueue q { k with head := (k.head + 1) % 2 ^ 32 } with served := Tbl.set s.served (q / 4) (q % 4) }

/-- Write n bytes of a completion block at a physical address, where there is one (R378). -/
def State.complete (s : State) (comp off v : Nat) : State :=
  if comp = 0 || !(s.backed (comp + off) && s.backed (comp + off + 7)) then s else s.writePa none (comp + off) (toBytes 8 v)

/-- Signal a vector, named plus one (R378). -/
def State.signal (s : State) (vec : Nat) : State := if vec = 0 then s else s.msi (vec - 1)

/-- Answer the head entry of a queue with its ADMIT word, and move on (R379). -/
def State.answerEntry (s : State) (q e w : Nat) : State := ((s.complete (qeComp e) 0 w).signal (qeVec e)).popQueue q

/-- Take the head entry of queue q where it has a kind, with its reserved bits zero. -/
def State.serve (s : State) (q kind : Nat) (act : Nat → Nat × State) : Out1 :=
  match s.headEntry q with
  | none => .next s
  | some e =>
    if qeKind e != kind || bits e 511 244 != 0 then .next s
    else let r := act e; .next (r.2.answerEntry q e r.1)

/-- R378. An entry of an unassigned kind, or with a reserved bit set, is answered BADREC. -/
def execBadrecEntry (q : Nat) (s : State) : Out1 :=
  match s.headEntry q with
  | none => .next s
  | some e =>
    if qeKind e == 0 || decide (6 < qeKind e) || bits e 511 244 != 0 then .next (s.answerEntry q e (admitWord 5 false 0 0)) else .next s

/-- A record at a physical address, none where it cannot be read. -/
def State.recordAt (s : State) (pa : Nat) : Option Nat :=
  if pa % 64 == 0 && s.backed pa && s.backed (pa + 255) && !s.poisoned pa 256 then some (s.mem.readN pa 256) else none

/-- How a host record comes in (R361, R377). -/
def hostAdmit (q r pa rva comp vec : Nat) : Admit :=
  { record := r, rva := rva, recPa := some pa, ptroot := recPtroot r, pasen := recPasen r, pasid := recPasid r, prio := q / 4, comp := comp,
    vec := vec, queue := q, parent := 0, graphOf := none }

/-- R375, R379. LAUNCH: the record is admitted. -/
def execLaunch (q : Nat) (s : State) : Out1 :=
  s.serve q 1 (fun e =>
    match s.recordAt (qeRec e) with
    | none => (admitWord 5 false 0 0, s)
    | some r =>
      if recordBad r true then (admitWord 5 false 0 0, s)
      else s.admitLaunch (hostAdmit q r (qeRec e) (qeRva e) (qeComp e) (qeVec e)))

/-- The nodes of a graph descriptor, none where it breaks R382. -/
def State.descriptor (s : State) (pa : Nat) : Option (List (Nat × Nat × Nat × Nat)) :=
  let hd := s.mem.readN pa 64
  let n := hd % 256
  if pa % 64 != 0 || n == 0 || decide (64 < n) || hd / 256 != 0 || !(s.backed pa && s.backed (pa + 64 * n + 63)) || s.poisoned pa (64 * n + 64) then
    none
  else
    (List.range n).foldl (fun acc k =>
      match acc with
      | none => none
      | some ns =>
        let b := s.mem.readN (pa + 64 + 64 * k) 64
        let pred := bits b 127 64
        match s.recordAt (bits b 63 0) with
        | none => none
        | some r => if 2 ^ k ≤ pred || bits b 511 192 != 0 || recordBad r true then none
          else some (ns ++ [(r, bits b 191 128, pred, bits b 63 0)])) (some [])

/-- Put a descriptor into a graph slot, free or with no live instance (R382, R383).  A new graph reuses its GID: handles of the one that
was freed are stale (R381; DEDUCED, log 112). -/
def State.putGraph (s : State) (e : Nat) (busy : Bool) : Nat × State :=
  let g := qeArg e
  if 256 ≤ g then (admitWord 5 false 0 g, s)
  else if busy then (admitWord 3 false 0 g, s)
  else match s.descriptor (qeRec e) with
    | none => (admitWord 5 false 0 g, s)
    | some ns => (admitWord 0 false 0 g, s.updGraph g (fun k => { k with nodes := ns, ends := if k.nodes.isEmpty then [] else k.ends }))

/-- R382. GDEF: check a descriptor and copy it into a free slot. -/
def execGdef (q : Nat) (s : State) : Out1 :=
  s.serve q 2 (fun e => s.putGraph e (!(s.graph (qeArg e)).nodes.isEmpty))

/-- R383. GEDIT: replace a slot's descriptor. -/
def execGedit (q : Nat) (s : State) : Out1 :=
  s.serve q 3 (fun e =>
    if (s.graph (qeArg e)).nodes.isEmpty then (admitWord 4 false 0 (qeArg e), s)
    else s.putGraph e (!(s.graph (qeArg e)).runs.isEmpty))

/-- R383. GRUN: start an instance. -/
def execGrun (q : Nat) (s : State) : Out1 :=
  s.serve q 4 (fun e =>
    if 256 ≤ qeArg e then (admitWord 4 true 0 (qeArg e), s)
    else s.runGraph (qeArg e) (qeComp e) (qeVec e) q 0)

/-- R382, R383. GFREE: empty a slot. -/
def execGfree (q : Nat) (s : State) : Out1 :=
  s.serve q 5 (fun e =>
    let g := qeArg e
    if (s.graph g).nodes.isEmpty then (admitWord 4 false 0 g, s)
    else if !(s.graph g).runs.isEmpty then (admitWord 3 false 0 g, s)
    else (admitWord 0 false 0 g, s.updGraph g (fun k => { k with nodes := [] })))

/-- Free the dependence counters that an ending or terminated launch still holds, each with an ORPHAN record (R261, R375). -/
def State.freeCounters (s : State) (lno : Nat) : State :=
  s.clusters.foldl (fun s e =>
    (e.2.counters.filter (fun c => c.2.lno == lno)).foldl (fun s c =>
      (s.updCluster e.1 (fun k => { k with counters := Tbl.del k.counters c.1 })).launchRecord lno cORPHAN 0 0 c.1) s) s

/-- KILL of a live launch (R379, R471): every task of it ends with KILLED, those that no hart has taken too (log 61), its instances fail
without records, its counters are freed so that their tasks never start (R261). -/
def State.killLaunch (s : State) (lno : Nat) : State :=
  let waiting := match s.launch lno with
    | some l => (List.range l.total).filter (fun t => !l.begun.contains t)
    | none => []
  let s : State := waiting.foldl (fun s t => s.errorRecord lno cKILLED 0 0 0 0 t 0 0) s
  let s := s.updLaunch lno (fun l => { l with total := l.begun.length, killed := true })
  let s := ((s.tasks.filter (fun e => e.2.lno == lno)).map Prod.fst).foldl (fun s t => s.terminateTask t cKILLED 0 0 0) s
  let s := (s.jets.filter (fun j => j.lno == lno)).foldl (fun s j => s.stopRun j.gid j.run) s
  ((s.freeCounters lno).sealEnd lno).prunePages

/-- R379. KILL. -/
def execKill (q : Nat) (s : State) : Out1 :=
  s.serve q 6 (fun e =>
    let lno := qeArg e
    if (s.launch lno).any (fun l => l.live && l.gen == qeGen e) then (admitWord 0 false (qeGen e) lno, s.killLaunch lno)
    else (admitWord 6 false (qeGen e) lno, s))

/-- A launch may end (R375, R452, R471, R376, R395): its tasks, transfers, requests, instances, result and records are done. -/
def State.mayEnd (s : State) (lno : Nat) (l : Launch) : Bool :=
  l.live && s.allEnded lno l && !s.work.any (fun r => r.lno == lno) && !s.gathers.any (fun g => g.lno == lno) &&
  !s.jets.any (fun j => j.lno == lno) && !s.clusters.any (fun e => e.2.port.any (fun m => m.1 == lno)) && l.sndDone && l.errq.isEmpty &&
  !l.eqHeld

/-- A launch no longer holds allocations, marks or a Sounding context (R375, R387).  Its barriers stand as it left them, in no one's
hands, until a launch holds them anew (R251, R400). -/
def State.freeLaunch (s : State) (lno : Nat) : State :=
  let cores : Tbl Core := s.cores.map (fun e => (e.1, { e.2 with allocs := e.2.allocs.filter (fun a => a.lno != lno) }))
  let clusters : Tbl Cluster := s.clusters.map (fun e =>
    (e.1, { e.2 with lost := e.2.lost.filter (· != lno) }))
  State.sweep { s with cores := cores, clusters := clusters, sounding := Tbl.del s.sounding lno } lno (2 ^ 64)

/-- A node of a graph instance has ended (R383); the last one ends the instance. -/
def State.endNode (s : State) (gid gen node errors : Nat) : State :=
  let k := s.graph gid
  match k.runs.find? (fun r => r.gen == gen) with
  | none => s
  | some r =>
    let r := { r with ended := r.ended ++ [node], errors := r.errors + errors }
    if r.ended.length < k.nodes.length then
      s.updGraph gid (fun k => { k with runs := k.runs.map (fun x => if x.gen = gen then r else x) })
    else
      let st := if r.errors = 0 then 0 else 1
      let s := s.updGraph gid (fun k =>
        { k with runs := k.runs.filter (fun x => x.gen != gen), ends := Tbl.set k.ends gen (st, r.errors) })
      ((s.complete r.comp 16 (endWord st r.errors)).complete r.comp 24 s.time).signal r.vec

/-- R375, R379. A launch ends: its counters go with records, then all it holds, then its END word. -/
def execLaunchEnd (lno : Nat) (s : State) : Out1 :=
  let s := s.flushErrors lno
  match s.launch lno with
  | none => .next s
  | some l =>
    if !s.mayEnd lno l then .next s
    else
      let s := s.freeCounters lno
      match s.launch lno with
      | none => .next s
      | some l =>
        if !s.mayEnd lno l then .next s
        else
          let s := ((s.freeLaunch lno).updLaunch lno (fun l => { l with live := false })).prunePages
          match l.graphOf with
          | some (gid, gen, node) => .next (s.endNode gid gen node l.errors)
          | none => .next (((s.complete l.comp 16 (endWord l.endSt l.errors)).complete l.comp 24 s.time).signal l.vec)

/-- R383. A node of an instance launches once its predecessors have ended and an LNO is free. -/
def execGraphNodeLaunch (gid gen node : Nat) (s : State) : Out1 :=
  let k := s.graph gid
  match k.runs.find? (fun r => r.gen == gen), k.nodes[node]? with
  | some r, some (n, rva, pred, pa) =>
    let ready := (List.range 64).all (fun m => !bit pred m || r.ended.contains m)
    if !ready || (Tbl.find r.node node).isSome then .next s
    else
      let a : Admit :=
        { record := n, rva := rva, recPa := some pa, ptroot := recPtroot n, pasen := recPasen n, pasid := recPasid n,
          prio := if r.queue = 0xFF then recPrio n else r.queue / 4, comp := 0, vec := 0, queue := r.queue, parent := r.parent,
          graphOf := some (gid, gen, node) }
      let q := s.admitLaunch a
      if bits q.1 63 60 != 0 then .next s
      else .next (q.2.updGraph gid (fun k => { k with runs := k.runs.map (fun x =>
        if x.gen = gen then { x with node := Tbl.set x.node node (q.1 % 65536) } else x) }))
  | _, _ => .next s

end Sys2Proof.Machine
end

