-- ==== Sys2Proof/Machine/Mailbox.lean ====
section
/-! DEFINITION. The register BAR and the Barometer mailbox: registers and their access codes, SUMMARY, LOGREAD, service, task dumps and
the debugger's commands (R6, R7, R199, R213, R265 to R270, R341, R377, R402, R413, R415 to R419, R422 to R426, R431, R437, R442,
R444, R457, R477). -/

namespace Sys2Proof.Machine

open Sys2Proof

/-- The bits hi … lo of a value, in place. -/
def field (v hi lo : Nat) : Nat := bits v hi lo * 2 ^ lo

/-- The fields of a register that are not reserved (R7), by code of R417. -/
def regFields (code v : Nat) : Nat :=
  if code = 0x01 then field v 63 8 + field v 0 0
  else if code = 0x02 then field v 63 12
  else if code = 0x03 then field v 63 52 + field v 47 0
  else if code = 0x05 then field v 47 0
  else if code = 0x10 then field v 63 32 + field v 23 0
  else if code = 0x11 then field v 15 0
  else if 0x12 ≤ code ∧ code ≤ 0x15 then field v 63 57 + field v 55 2
  else if 0x16 ≤ code ∧ code ≤ 0x19 then field v 11 0
  else if code = 0x20 then field v 63 32 + field v 1 0
  else if code = 0x21 then field v 63 22 + field v 0 0
  else if code = 0x24 then field v 8 0
  else if 0x30 ≤ code ∧ code ≤ 0x3B then field v 63 63 + field v 55 32 + field v 23 0
  else if code = 0x40 then field v 63 55 + field v 47 16
  else if code = 0x41 then field v 63 63 + field v 47 31
  else if code = 0x42 then field v 59 48 + field v 17 0
  else if code = 0x43 then field v 17 0
  else if code = 0x44 then field v 63 63 + field v 47 16
  else if code = 0x45 then field v 5 0
  else v

/-- Units of a register code: how many there are, 0 for a code that names no register (R417, R437). -/
def regUnits (code : Nat) : Nat :=
  if 0x10 ≤ code ∧ code ≤ 0x19 then 512
  else if 0x20 ≤ code ∧ code ≤ 0x24 then 64
  else if 0x38 ≤ code ∧ code ≤ 0x3B then 8
  else if code = 0x43 then 4096
  else if (1 ≤ code ∧ code ≤ 5) ∨ (0x30 ≤ code ∧ code ≤ 0x37) ∨ (0x40 ≤ code ∧ code ≤ 0x45) then 1
  else 0

/-- CTSTAT (R413). -/
def State.ctstat (s : State) : Nat := s.ctLost * 2 ^ 32 + s.ctWritten

/-- A register that REGR reads, its code and unit in range (R417). -/
def State.readReg (s : State) (code unit : Nat) : Nat :=
  if code = 0x01 then s.thcfg
  else if code = 0x02 then s.schcfg
  else if code = 0x03 then s.ctcfg
  else if code = 0x04 then s.ctstat
  else if code = 0x05 then s.fpool
  else if code = 0x10 then (s.core unit).gustCfg
  else if code = 0x11 then (s.core unit).ntcfg
  else if code ≤ 0x15 then Tbl.get 0 (s.core unit).cbp (code - 0x12)
  else if code ≤ 0x19 then Tbl.get 0 (s.core unit).cbx (code - 0x16)
  else if code = 0x20 then (s.cluster unit).pgcfg
  else if code = 0x21 then (s.cluster unit).dpcfg
  else if code = 0x22 then (s.cluster unit).dpstat
  else if code = 0x23 then (s.cluster unit).slrt
  else if code = 0x24 then (s.cluster unit).slcfg
  else if code ≤ 0x37 then Tbl.get 0 s.pzh (code - 0x30)
  else if code ≤ 0x3B then Tbl.get 0 (s.tower unit).pzc (code - 0x38)
  else if code = 0x40 then s.netcfg
  else if code = 0x41 then s.netllr
  else if code = 0x42 then s.blcfg
  else if code = 0x43 then Tbl.get 0 s.routes unit
  else if code = 0x44 then s.commcfg
  else s.jscfg

/-- Thermal limits out of order (R402). -/
def thcfgBad (v : Nat) : Bool := decide (bits v 63 56 ≤ bits v 55 48) || decide (bits v 55 48 ≤ bits v 39 32)

/-- A prime zone that would be enabled overlaps another of its pool or runs past the last row (R341). -/
def zoneBad (v rows : Nat) (others : List Nat) : Bool :=
  zoneEn v && (decide (rows < zoneBase v + zoneRows v) ||
    others.any (fun z => zoneEn z && decide (zoneBase z < zoneBase v + zoneRows v) && decide (zoneBase v < zoneBase z + zoneRows z)))

/-- Write a prime-zone register (R341): refused, EN of the register falls (log 50). -/
def zoneWrite (t : Tbl Nat) (count n v rows : Nat) : Tbl Nat × Bool :=
  let others := ((List.range count).filter (· != n)).map (Tbl.get 0 t)
  if zoneBad v rows others then (Tbl.set t n (Tbl.get 0 t n % 2 ^ 63), false) else (Tbl.set t n v, true)

/-- Some task is live: taken by a hart, named, or not yet taken (R365). -/
def State.anyTaskLive (s : State) : Bool :=
  !s.tasks.isEmpty || s.launches.any (fun e => e.2.live && !e.2.killed && decide (e.2.begun.length < e.2.total))

/-- When the slew limiter is switched off, starts that wait are granted at once and no filler runs (R270). -/
def State.grantAll (s : State) (cl : Nat) : State :=
  if bit (s.cluster cl).slcfg 8 then s
  else (s.cluster cl).pending.foldl (fun s x => s.grantNow x.2) (s.updCluster cl (fun k => { k with filler := [] }))

/-- Write a register whose code and unit are in range and that is not RO (R417); the answer is the command's status. -/
def State.writeReg (s : State) (code unit raw : Nat) : State × Nat :=
  let v := regFields code raw
  if code = 0x01 then (if thcfgBad v then (s, bmBADARG) else ({ s with thcfg := v }, bmOK))
  else if code = 0x02 then ({ s with schcfg := v }, bmOK)
  else if code = 0x03 then ({ s with ctcfg := v }, bmOK)
  else if code = 0x05 then (if s.anyTaskLive then (s, bmSTATE) else ({ s with fpool := v }, bmOK))
  else if code = 0x10 then (s.updCore unit (fun k => { k with gustCfg := v }), bmOK)
  else if code = 0x11 then
    (s.updCore unit (fun k => { k with
      ntcfg := v, settling := (List.range 16).filter (fun g => k.settling.contains g || bit (k.ntcfg ^^^ v) g) }), bmOK)
  else if code ≤ 0x15 then (s.updCore unit (fun k => { k with cbp := Tbl.set k.cbp (code - 0x12) v }), bmOK)
  else if code ≤ 0x19 then (s.updCore unit (fun k => { k with cbx := Tbl.set k.cbx (code - 0x16) v }), bmOK)
  else if code = 0x20 then (s.updCluster unit (fun k => { k with pgcfg := v }), bmOK)
  else if code = 0x21 then (s.updCluster unit (fun k => { k with dpcfg := v }), bmOK)
  else if code = 0x23 then (s.updCluster unit (fun k => { k with slrt := v }), bmOK)
  else if code = 0x24 then ((s.updCluster unit (fun k => { k with slcfg := v })).grantAll unit, bmOK)
  else if code ≤ 0x37 then
    let z := zoneWrite s.pzh 8 (code - 0x30) v 8388608
    (s.rezone { s with pzh := z.1 } 0, if z.2 then bmOK else bmBADARG)
  else if code ≤ 0x3B then
    let z := zoneWrite (s.tower unit).pzc 4 (code - 0x38) v 786432
    (s.rezone (s.updTower unit (fun t => { t with pzc := z.1 })) (2 ^ 40 + unit * 2 ^ 34), if z.2 then bmOK else bmBADARG)
  else if code = 0x40 then ({ s with netcfg := v }, bmOK)
  else if code = 0x41 then ({ s with netllr := v }, bmOK)
  else if code = 0x42 then ({ s with blcfg := v }, bmOK)
  else if code = 0x43 then ({ s with routes := Tbl.set s.routes unit v }, bmOK)
  else if code = 0x44 then ({ s with commcfg := v }, bmOK)
  else ({ s with jscfg := v }, bmOK)

/-- Registers that REGW refuses (R417). -/
def regRo (code : Nat) : Bool := code == 0x04 || code == 0x22

/-- The host has written the arguments of a command (R416). -/
def State.withArgs (s : State) (code unit v : Nat) : State :=
  { s with bmarg := Tbl.set (Tbl.set (Tbl.set s.bmarg 0 (word code)) 1 (word unit)) 2 (word v) }

/-- What REGW does with its arguments (R417). -/
def State.regw (s : State) : State × Option (Nat × Nat) :=
  if regUnits (s.arg 0) ≤ s.arg 1 || regRo (s.arg 0) then (s, some (bmBADARG, 0))
  else
    let r := s.writeReg (s.arg 0) (s.arg 1) (s.arg 2)
    (r.1, some (r.2, 0))

/-- R417. REGR: eight bytes of a register. -/
def execRegr (s : State) : Out1 :=
  .next (s.command 0x03 false (fun s =>
    if regUnits (s.arg 0) ≤ s.arg 1 then (s, some (bmBADARG, 0)) else s.reply (toBytes 8 (s.readReg (s.arg 0) (s.arg 1)))))

/-- R417. REGW: write a register. -/
def execRegw (s : State) : Out1 := .next (s.command 0x04 false State.regw)

/-- R402. REGW of THCFG: refused where the limits are out of order. -/
def execThcfgWrite (v : BitVec 64) (s : State) : Out1 := .next ((s.withArgs 0x01 0 v.toNat).command 0x04 false State.regw)

/-- R341. REGW of PZH n, or of PZC n of a tower. -/
def execPrimeZoneWrite (ceiling : Bool) (tw n : Nat) (v : BitVec 64) (s : State) : Out1 :=
  .next ((if ceiling then s.withArgs (0x38 + n % 4) tw v.toNat else s.withArgs (0x30 + n % 8) 0 v.toNat).command 0x04 false State.regw)

/-- R417. REGW of FPOOL: refused with STATE while any task is live. -/
def execFpoolWrite (v : BitVec 64) (s : State) : Out1 := .next ((s.withArgs 0x05 0 v.toNat).command 0x04 false State.regw)

/-- R477. REGW of JSCFG; engines read it when they look for an operation. -/
def execJscfgWrite (v : BitVec 64) (s : State) : Out1 := .next ((s.withArgs 0x45 0 v.toNat).command 0x04 false State.regw)

/-- A health record (R418). -/
def Health.record (r : Health) : Nat :=
  2 ^ 255 + r.time % 2 ^ 48 * 2 ^ 207 + r.seq % 2 ^ 32 * 2 ^ 175 + r.cls % 2 ^ 7 * 2 ^ 168 + r.unit % 2 ^ 16 * 2 ^ 152 +
  r.lno % 2 ^ 16 * 2 ^ 136 + r.code % 2 ^ 8 * 2 ^ 128 + r.addr % 2 ^ 64 * 2 ^ 64 + r.info % 2 ^ 64

/-- Health records that can still be read: flash, then those of RAM that follow (R418). -/
def State.records (s : State) : List Health :=
  match s.log with
  | [] => s.flashLog
  | r :: _ => s.flashLog.filter (fun f => decide (f.seq < r.seq)) ++ s.log

/-- Tower states as SUMMARY writes them (R419). -/
def TowerState.code : TowerState → Nat
  | .online => 0 | .shelter => 1 | .service => 2 | .offline => 3 | .mappedOut => 4

/-- Live tasks of a launch (R419): those that exist, named ones included, and those that no hart has taken. -/
def State.liveTasks (s : State) (lno : Nat) (l : Launch) : Nat :=
  (s.tasks.filter (fun e => e.2.lno == lno)).length + (l.total - l.begun.length)

/-- The report of SUMMARY (R419) past its length; rows whose fields the spec does not place are free (log 46). -/
def State.report (s : State) : List Byte :=
  let live := s.launches.filter (fun e => e.2.live)
  let slots := s.slots.filter (fun e => e.2.dead || e.2.req.isSome)
  let recs := s.records.drop (s.records.length - 64)
  let sum (n : Nat) (f : Nat → Nat) : Nat := ((List.range n).map f).foldl (· + ·) 0
  let row (off n : Nat) (xs : List Nat) : List Byte := toBytes n (Config.summaryRow off xs)
  toBytes 8 s.time ++ toBytes 8 s.depoch ++
  toBytes 4 (sum 8 (fun t => (s.tower t).st.code * 2 ^ (4 * t))) ++
  toBytes 4 (b2n s.pkghot * 2 ^ 31 + b2n (!s.prgEnabled) * 2 ^ 30 + sum 16 (fun q => b2n (s.queue q).en * 2 ^ q)) ++
  toBytes 8 s.nextLog ++ toBytes 4 live.length ++ toBytes 4 slots.length ++ toBytes 4 recs.length ++ toBytes 4 s.ceCount ++ toBytes 8 0 ++
  toBytes 256 (sum 512 (fun c => (s.core c).outLayers % 16 * 2 ^ (4 * c))) ++
  toBytes 256 (sum 512 (fun c => (s.core c).hotLayers % 16 * 2 ^ (4 * c))) ++
  (List.range 16).flatMap (fun q => row 0x240 16 [(s.queue q).head, (s.queue q).tail, (s.queue q).logn]) ++
  live.flatMap (fun e => row 0x340 32
    [e.1, e.2.gen, e.2.prio, e.2.queue, e.2.parent, s.liveTasks e.1 e.2, e.2.total, e.2.errors,
     (e.2.graphOf.map (fun g => g.1)).getD 0, (e.2.graphOf.map (fun g => g.2.1)).getD 0]) ++
  slots.flatMap (fun e => row 0x341 32 ([e.1, e.2.gen, b2n e.2.dead] ++
    (match e.2.req with
     | some r => [r.lno, r.pasid, r.page * 65536, r.need]
     | none => []))) ++
  recs.flatMap (fun r => toBytes 32 r.record)

/-- R419. SUMMARY: the report at one cut, or SHORT with the bytes it needs. -/
def execSummary (s : State) : Out1 :=
  .next (s.command 0x01 true (fun s =>
    let r := s.report
    let n := r.length + 8
    if s.arg 0 < n then (s, some (bmSHORT, n)) else s.reply (toBytes 8 n ++ r)))

/-- R417. LOGREAD: records from a sequence number on. -/
def execLogread (s : State) : Out1 :=
  .next (s.command 0x02 true (fun s =>
    s.reply (((s.records.filter (fun r => decide (s.arg 0 ≤ r.seq))).take (s.arg 1)).flatMap (fun r => toBytes 32 r.record))))

/-- Begin to empty an ONLINE tower for SERVICE (R415); `step` 1 for the command, 2 for an apply. -/
def State.enterService (s : State) (tw step : Nat) : State :=
  (s.updTower tw (fun t => { t with st := .service, step := step, since := s.time })).logHealth 11 (unitTower tw 0) 0 0 0 0

/-- Go on emptying a tower in SERVICE (R404, steps 2, 3 and 6; R415): whether it is empty now.  One that is at emergency by then goes on as
a shelter, at step 4. -/
def State.drainService (s : State) (tw : Nat) : State × Bool :=
  let s := s.stopTasks tw
  if !(s.runningIn tw).isEmpty then (s, false)
  else
    let s := s.saveAnvils tw
    (((s.migrate tw (s.holdersOf tw)).updTower tw (fun t => { t with step := 6 })).considerShelter, true)

/-- The tower that a SERVICE command is emptying. -/
def State.serving (s : State) : Option Nat := (List.range 8).find? (fun t => (s.tower t).st == .service && (s.tower t).step == 1)

/-- R415. SERVICE: an ONLINE tower, not the last, is emptied; the command is busy until its tasks are saved.  During an apply, which has
one tower in SERVICE at a time (R431, R436), it answers BUSY (DEDUCED, log 117). -/
def execService (s : State) : Out1 :=
  .next (s.command 0x05 false (fun s =>
    let go (s : State) (tw : Nat) : State × Option (Nat × Nat) :=
      let r := s.drainService tw
      (r.1, if r.2 then some (bmOK, 0) else none)
    if s.bmst == bmBusyWith 0x05 then
      (match s.serving with
       | some tw => go s tw
       | none => (s, some (bmSTATE, 0)))
    else
      let tw := s.arg 0
      if 8 ≤ tw then (s, some (bmBADARG, 0))
      else if (s.tower tw).st != .online || s.lastOnline tw then (s, some (bmSTATE, 0))
      else if s.fw.applying.isSome then (s, some (bmBUSY, 0))
      else go (s.enterService tw 1) tw))

/-- R415. RESUME: a tower in SERVICE is ONLINE again. -/
def execResume (s : State) : Out1 :=
  .next (s.command 0x06 false (fun s =>
    let tw := s.arg 0
    if 8 ≤ tw then (s, some (bmBADARG, 0))
    else if (s.tower tw).st != .service then (s, some (bmSTATE, 0))
    else (s.updTower tw (fun t => { t with st := .online, step := 0 }), some (bmOK, 0))))

/-- R417. TDUMP: the task is pre-empted where it runs, one that a debugger's stop holds too (DEDUCED, log 115), and its frame is copied
out.  A task without a frame answers STATE (log 51). -/
def execTdump (s : State) : Out1 :=
  .next (s.command 0x07 false (fun s =>
    let lno := s.arg 0 % 65536
    let gen := bits (s.arg 0) 31 16
    let dump (s : State) (t : Task) : State × Option (Nat × Nat) :=
      match t.frame with
      | some f => if t.started then s.reply (toBytes (0x80000 + 4096 * t.vcount) (s.mem.readN f (0x80000 + 4096 * t.vcount))) else (s, some (bmSTATE, 0))
      | none => (s, some (bmSTATE, 0))
    if !(s.launch lno).any (fun l => l.live && l.gen == gen) then (s, some (bmBADARG, 0))
    else match s.tasks.find? (fun e => e.2.lno == lno && e.2.named.isNone && e.2.t == s.arg 1) with
      | none => (s, some (if ((s.launch lno).any (fun l => decide (s.arg 1 < l.total))) then bmSTATE else bmBADARG, 0))
      | some (_, t) =>
        if t.st == .running then
          (if s.mayStop t.hart then dump (s.swapOut t.hart .ready .none) t else (s, none))
        else dump s t))

/-- Harts of core c that a mask names. -/
def namedHarts (c mask : Nat) : List Nat := ((List.range 4).filter (bit mask)).map (fun k => 4 * c + k)

/-- R417, R213. DBGSET: attach or detach a debugger. -/
def execDbgset (s : State) : Out1 :=
  .next (s.command 0x08 false (fun s =>
    if 512 ≤ s.arg 0 then (s, some (bmBADARG, 0))
    else ((namedHarts (s.arg 0) (s.arg 1)).foldl (fun s h => s.updHart h (fun t => { t with dbg := bit (s.arg 1) 4 })) s, some (bmOK, 0))))

/-- A hart leaves its Contrail stop (R214): its queue is reissued; an ebrk that stopped it has retired (log 52). -/
def State.goOn (s : State) (h : Nat) : State :=
  let t := s.hart h
  match t.held with
  | none => s
  | some why =>
    let s := (s.updHart h (fun t => { t with held := none, noMatch := true })).reissue h t.queue t.openConvoy t.ctx.vs
    if why = heldByEbrk then s.retire h else s

/-- R417, R214. DBGGO: resume harts held in a Contrail stop. -/
def execDbggo (s : State) : Out1 :=
  .next (s.command 0x09 false (fun s =>
    if 512 ≤ s.arg 0 then (s, some (bmBADARG, 0)) else ((namedHarts (s.arg 0) (s.arg 1)).foldl State.goOn s, some (bmOK, 0))))

/-- R417, R136. HARTON: halted harts return to service; STATE where their tower is not ONLINE. -/
def execHarton (s : State) : Out1 :=
  .next (s.command 0x0A false (fun s =>
    if 512 ≤ s.arg 0 then (s, some (bmBADARG, 0))
    else if (s.tower (s.arg 0 / 64)).st != .online then (s, some (bmSTATE, 0))
    else ((namedHarts (s.arg 0) (s.arg 1)).foldl (fun s h => s.updHart h (fun t => { t with halted := false })) s, some (bmOK, 0))))

/-- Command codes that are assigned (R417, R430, R444, R457). -/
def commandAssigned (code : Nat) : Bool := (decide (1 ≤ code) && decide (code ≤ 0x0A)) || code == 0x10 || code == 0x11 || code == 0x20 || code == 0x21

/-- R416. An unassigned command code answers BADCMD. -/
def execBadcmd (code : Nat) (s : State) : Out1 :=
  .next (if commandAssigned (code % 256) then s else s.command (code % 256) false (fun s => (s, some (bmBADCMD, 0))))

/-- The next masked tower of an apply that is not in SHELTER (R431). -/
def State.nextApply (s : State) : Option Nat :=
  match s.fw.applying with
  | none => none
  | some mask => (List.range 8).find? (fun t => bit mask t && (s.tower t).st != .shelter)

/-- R431, R436. The apply goes on with its next tower: it is skipped, emptied, or loaded, tested and resumed.  An ONLINE tower waits while
another is in SERVICE; one at emergency shelters, and its update waits. -/
def execFirmwareTowerApply (tw : Nat) (pass : Bool) (s : State) : Out1 :=
  if s.nextApply != some tw then .next s
  else match (s.tower tw).st with
    | .offline | .mappedOut => .next (s.applied tw)
    | .shelter => .next s
    | .online =>
      .next (if s.lastOnline tw then s.applied tw
        else if !s.inService.isEmpty then s
        else ((s.enterService tw 2).drainService tw).1)
    | .service =>
      if (s.tower tw).step != 6 then .next (s.drainService tw).1
      else if bit s.thcfg 0 && s.mayShelter tw then .next s.considerShelter
      else
        let s := s.loadFirmware tw
        .next ((if pass then s.updTower tw (fun t => { t with st := .online, step := 0 }) else s.logicFault tw).applied tw)

/-- BMSTAT (R416). -/
def State.bmstat (s : State) : Nat := if 16 ≤ s.bmst then 2 ^ 63 else s.bmst * 2 ^ 59 + s.bmlen

/-- DEVSTAT (R425). -/
def State.devstat (s : State) : Nat :=
  s.fw.runVer % 2 ^ 32 * 2 ^ 32 + s.fw.runSvn % 2 ^ 16 * 2 ^ 16 + b2n s.fw.recovery * 8 + b2n s.fw.applying.isSome * 4 + b2n s.fw.staged * 2 +
  b2n s.fw.ready

/-- A read of eight bytes of BAR0 (R424); elsewhere, and misaligned, zero. -/
def State.barRead (s : State) (off : Nat) : Nat :=
  if off % 8 != 0 then 0
  else if off = 0 then s.devstat
  else if 0x808 ≤ off ∧ off ≤ 0x820 then s.arg ((off - 0x808) / 8)
  else if off = 0x828 then s.bmrsp
  else if off = 0x830 then s.bmstat
  else if 0x2000 ≤ off ∧ off < 0x2200 then s.msixHalf ((off - 0x2000) / 8)
  else if off = 0x3000 then s.pba
  else if 0x10000 ≤ off ∧ off < 0x10400 then
    let k := s.queue ((off - 0x10000) / 0x40)
    match off % 0x40 with
    | 0x00 => k.base
    | 0x08 => b2n k.en * 2 ^ 63 + k.logn
    | 0x10 => k.head
    | 0x18 => k.tail
    | _ => 0
  else 0

/-- Run the mailbox command of a code (R416). -/
def State.mailbox (s : State) (code : Nat) : Out1 :=
  match code with
  | 0x01 => execSummary s
  | 0x02 => execLogread s
  | 0x03 => execRegr s
  | 0x04 => execRegw s
  | 0x05 => execService s
  | 0x06 => execResume s
  | 0x07 => execTdump s
  | 0x08 => execDbgset s
  | 0x09 => execDbggo s
  | 0x0A => execHarton s
  | 0x10 => execFwstage s
  | 0x11 => execFwapply s
  | 0x20 => execNetsync s
  | 0x21 => execCommsync s
  | n => execBadcmd n s

/-- Write LQBASE or LQCFG of queue q (R377); LOGN outside 4 to 16 is ignored (log 53). -/
def State.writeQueue (s : State) (q off v : Nat) : State :=
  let k := s.queue q
  match off with
  | 0x00 => s.setQueue q { k with base := v }
  | 0x08 => s.setQueue q { k with en := bit v 63, logn := if 4 ≤ bits v 4 0 ∧ bits v 4 0 ≤ 16 then bits v 4 0 else k.logn }
  | _ => s

/-- Write half k of the MSI-X table (R424): a vector that is unmasked while it is pending is signalled (log 76). -/
def State.writeMsix (s : State) (k n : Nat) : State :=
  let s : State := { s with msix := Tbl.set s.msix k n }
  let v := k / 2
  if k % 2 == 1 && !bit n 32 && bit s.pba v then State.msi { s with pba := s.pba - 2 ^ v } v else s

/-- A read of eight bytes of configuration space, which has no offset of BAR0 (R422, R426, R350).  MODEL (log 54): 0x2_0000 page requests
([0] enable, [31:16] allocation), 0x2_0008 PASID enable, 0x2_0010 and 0x2_0018 base and size of the HDM decoder, 0x2_0020 the Range Size
registers of the CXL DVSEC, which report the HBM capacity. -/
def State.configRead (s : State) (off : Nat) : Nat :=
  match off with
  | 0x20000 => s.prgSlots * 2 ^ 16 + b2n s.prgEnabled
  | 0x20008 => b2n s.pasidEnabled
  | 0x20010 => s.hdmBase
  | 0x20018 => s.hdmSize
  | 0x20020 => s.hbmSize
  | _ => 0

/-- A write of configuration space, laid out as `State.configRead` says; the Range Size registers are RO. -/
def State.writeConfig (s : State) (off v : Nat) : State :=
  match off with
  | 0x20000 => { s with prgEnabled := bit v 0, prgSlots := bits v 31 16 }
  | 0x20008 => { s with pasidEnabled := bit v 0 }
  | 0x20010 => { s with hdmBase := v }
  | 0x20018 => { s with hdmSize := v }
  | _ => s

/-- R6, R416, R424. An aligned eight-byte write of a register; RO, reserved and absent offsets ignore it. -/
def execRegisterWrite (off : Nat) (v : BitVec 64) (s : State) : Out1 :=
  let n := v.toNat
  if off % 8 != 0 then .next s
  else if off = 0x800 then (if 16 ≤ s.bmst then .next s else s.mailbox (n % 256))
  else if 0x808 ≤ off ∧ off ≤ 0x820 then .next { s with bmarg := Tbl.set s.bmarg ((off - 0x808) / 8) v }
  else if off = 0x828 then .next { s with bmrsp := n }
  else if 0x2000 ≤ off ∧ off < 0x2200 then .next (s.writeMsix ((off - 0x2000) / 8) n)
  else if 0x10000 ≤ off ∧ off < 0x10400 then
    let q := (off - 0x10000) / 0x40
    if off % 0x40 = 0x18 then execDoorbell q v s else .next (s.writeQueue q (off % 0x40) n)
  else .next (s.writeConfig off n)

end Sys2Proof.Machine
end

