-- ==== Sys2Proof/Machine/Fetch.lean ====
section
/-! DEFINITION. Fetch, the choice of the hart whose word is next, the passing of time, and what the engines do while a word waits
(R38, R120, R138, R192, R209, R214, R267, R369). -/

namespace Sys2Proof.Machine

open Sys2Proof

/-- The word at PC of hart h (R120): translated as a fetch, never chased (R313), read as memory stands (log 56).
DESIGN CHOICE (log 99): at a PC that is no multiple of 4 it is the four bytes from there. -/
def fetchWord (h : Nat) : M Word32 := do
  let s ← get
  let pc := (s.pc h).toNat
  if 2 ^ 56 ≤ pc then trapM cSACC (word pc)
  match ← translate (s.reqOf h) .fetch pc with
  | .perm => trapM cSACC (word pc)
  | .miss host => throw (.page { va := pc, host := host } (needOf .fetch (s.ctx h).prv))
  | .ok pa _ =>
    let s ← get
    if !(s.backed pa && s.backed (pa + 3)) then trapM cSACC (word pc)
    if s.poisoned pa 4 then throw (.term cUNCORR (word pc))
    return BitVec.ofNat 32 (s.mem.readN pa 4)

/-- R120. The fetch at PC of hart h cannot be served: SACC, or a page fault. -/
def execInstructionFetchFault (h : Nat) (s : State) : Out1 :=
  match (s.hart h).task, (fetchWord h).run s with
  | some _, .error e t => .next (s.stopped t h e)
  | _, _ => .next s

/-- R73, R89. The word is no instruction: ILL with EVAL holding it. -/
def execNotAnInstruction (w : BitVec 32) (s : State) : Out1 := .next (s.trapEntry s.turn cILL (w.setWidth 64))

/-- Hart h can be offered its next word. -/
def Hart.runs (t : Hart) : Bool := t.task.isSome && t.held.isNone

/-- Cores with a hart that runs, each once, lowest first. -/
def State.runningCores (s : State) : List Nat :=
  (s.harts.filter (fun e => e.2.runs)).foldl (fun l e => if l.contains (coreOf e.1) then l else l ++ [coreOf e.1]) []

/-- The core whose harts are scanned next: which is free (log 7). -/
def State.runCore (s : State) : Option Nat :=
  match s.runningCores with
  | [] => none
  | [c] => some c
  | c :: cs => (c :: cs)[Config.pick s.fresh % (cs.length + 1)]?

/-- The harts of core c that run, in the order of the scan: from the one after the hart last selected (R192). -/
def State.scanOrder (s : State) (c : Nat) : List Nat :=
  ((List.range 4).map (fun k => 4 * c + ((s.core c).lastHart + 1 + k) % 4)).filter (fun h => (s.hart h).runs)

/-- Add cycles to a count of 32 bits (R209): the count and whether it saturates. -/
def satAdd (a n : Nat) : Nat × Bool := (min (2 ^ 32 - 1) (a + n), decide (2 ^ 32 ≤ a + n))

/-- The open strip after n cycles, of which a lanes and m memory were busy (R209). -/
def Strip.pass (p : Strip) (n a m : Nat) : Strip :=
  let c := satAdd p.cyc n
  let x := satAdd p.abusy (min a n)
  let y := satAdd p.mbusy (min m n)
  { p with cyc := c.1, abusy := x.1, mbusy := y.1, sat := p.sat || c.2 || x.2 || y.2 }

/-- A member of hart h's released convoy that is still to complete stands on one of these pipes. -/
def State.worksOn (s : State) (h : Nat) (ps : List Pipe) : Bool :=
  (s.hart h).released && (firstConvoy (s.hart h).queue).any (fun e =>
    !e.done && ((e.desc (s.ctx h)).map (fun v => ps.contains v.pipe)).getD false)

/-- A lane group works on a pipe A or B member of hart h's task (R209). -/
def State.laneBusy (s : State) (h : Nat) : Bool := s.worksOn h [.A, .B]

/-- A pipe L or S member of hart h's task, or an engine transfer that it issued, has an element in flight (R209). -/
def State.memBusy (s : State) (h : Nat) : Bool :=
  s.worksOn h [.L, .S] || (match (s.hart h).task with | some t => !s.transfersDone t | none => false)

/-- A hart after n cycles: its strip and its waits (R209, R369). -/
def Hart.pass (t : Hart) (n a m : Nat) : Hart :=
  if t.task.isNone then t
  else { t with
    ctx := { t.ctx with strip := t.ctx.strip.pass n a m },
    spin := if t.waiting = .none then t.spin else t.spin + n,
    vspin := if t.vwait = .none then t.vspin else t.vspin + n }

/-- The clock of a gated unit, or of one that wakes, is stopped (R208, R263). -/
def GateState.clocked : GateState → Bool
  | .running | .entering => true
  | .gated | .waking => false

/-- n cycles of core c: event counter 0 (R208), and for how long it has been idle (R263). -/
def State.coreClock (s : State) (c n : Nat) : State :=
  (s.count c 0 n).updCore c (fun k => { k with idle := if s.mayGate c then k.idle + n else 0 })

/-- Cycles of a cluster's clock, unless it is stopped (R138, R208, R209, R267): its count, the clock of each of its cores that is not
gated, whether or not a hart has a task, and the strips and waits of its harts.  k is the first of four free numbers: the cycles, how
many of them a busy lane and a busy memory unit was busy (log 6), and whether a monitor came to read below EMERG (log 103). -/
def State.clock (s : State) (cl k : Nat) : State :=
  if !(s.cluster cl).gate.clocked || !(s.tower (cl / 8)).powered then s
  else
    let n := Config.cycles k
    let on (c : Nat) : Bool := (s.core c).gate.clocked
    let s := s.updCluster cl (fun r =>
      let low := r.emergency || (decide (0 < dpEmerg r.dpcfg) && Config.monitorLow (k + 3) cl)
      { r with
        cyc := (r.cyc + n) % 2 ^ 64, emergency := low,
        stretch := if low || s.pkghot then min (2 ^ 32 - 1) (r.stretch + n) else r.stretch })
    let s := (List.range 8).foldl (fun s k => if on (8 * cl + k) then s.coreClock (8 * cl + k) n else s) s
    { s with harts := s.harts.map (fun e =>
      if clusterOf (coreOf e.1) = cl && on (coreOf e.1) then
        (e.1, e.2.pass n (if s.laneBusy e.1 then Config.cycles (k + 1) else 0) (if s.memBusy e.1 then Config.cycles (k + 2) else 0))
      else e) }

/-- Time passes while the harts of core c are offered their words: free numbers of ticks and cycles (log 6). -/
def State.pass (s : State) (c : Nat) : State :=
  let k := s.fresh
  let s : State := { s with fresh := k + 4, time := s.time + Config.ticks k }
  s.clock (clusterOf c) k

/-- Time passes while no hart runs; the clusters that have run anything keep their clocks. -/
def State.idle (s : State) : State :=
  let k := s.fresh
  let s : State := { s with fresh := k + 256, time := s.time + Config.ticks k }
  s.clusters.foldl (fun s e => s.clock e.1 (k + 4 * (e.1 % 64))) s

/-- The next state of a meaning that has one. -/
def orStay (s : State) (o : Out1) : State :=
  match o with
  | .next t => t
  | _ => s

/-- A cluster for which the word of hart h waits ends its wake (R264). -/
def State.wakeHome (s : State) (h : Nat) : State :=
  match (s.hart h).waiting with
  | .wake cl => orStay s (execWakeComplete (.cluster cl) s)
  | _ => s

/-- What the engines of hart h's core, its transfers and the moves of the package do in a step in which its word waits (log 8). -/
def State.enginesGo (s : State) (h : Nat) : State :=
  let c := coreOf h
  let go (s : State) (f : State → Out1) : State := orStay s (f s)
  let cluster := (List.range 8).map (fun k => c / 8 * 8 + k)
  let s := cluster.foldl (fun s k => if (s.core k).inbox.isEmpty then s else go (go s (execWakeComplete (.core k))) (execRemoteBufferMessage k)) s
  let s := (go s (execRemoteReply c)).wakeHome h
  let s := go s (execConvoyCommit h)
  let s := go s (execLayerPass c)
  let s := if (s.cluster (clusterOf c)).pending.isEmpty then s else go s (execSlewStep (clusterOf c))
  let s := go s (execAnvilFree c)
  let s := go s (execCopyRun c 0)
  let s := match s.gathers with
    | g :: _ => go s (execGatherRecord g.ident)
    | [] => s
  let s := (List.range 8).foldl (fun s tw =>
    (s.tower tw).moves.foldl (fun s m =>
      go (go (go s (execDriftCopyLine tw m.1)) (execSwitch tw m.1)) (execChainCompression tw m.1)) s) s
  go s (execGustCycle c)

/-- What a word that acts on the scalar front does when it is reissued from a dump with DONE = 0 (R42). -/
def reissueAct (h : Nat) (e : QEntry) (i : Instr) : M Unit :=
  match i with
  | .mstat _ d => mstatAct h d e
  | .dmove _ d _ => frontAct h i (dmoveAct h d) e
  | .dfix _ d _ => frontAct h i (dfixAct h d) e
  | .dack _ d => frontAct h i (dackAct h d) e
  | .dsweep _ d => dsweepAct h d e
  | .dstat _ d _ _ => frontAct h i (dstatAct h d) e
  | .nwr _ n _ => frontAct h i (nwrAct h n.toNat) e
  | .npost _ d => frontAct h i (npostAct h d) e
  | .nwait _ d _ _ => frontAct h i (nwaitAct h d) e
  | .nctr _ d _ _ => frontAct h i (nctrAct h d) e
  | .cgload _ d _ _ => frontAct h i (cgloadAct h d) e
  | .cgrun _ d _ _ => frontAct h i (cgrunAct h d) e
  | .cgwait _ d _ _ => frontAct h i (cgwaitAct h d) e
  | .cgstat _ d _ _ => frontAct h i (cgstatAct h d) e
  | _ => pure ()

/-- The front acts on a reissued word before it fetches (R42): once the word stands at CP, with its captured operands. -/
def State.reissueFront (s : State) (h : Nat) (e : QEntry) : State :=
  if !(s.hart h).queue.head?.any (fun f => f.actsAtIssue (s.ctx h)) then s.updHart h (fun t => { t with waiting := .older })
  else match ((e.instr.map (reissueAct h e)).getD (pure ())).run s with
    | .ok _ t =>
      (t.markDone h 0).updHart h (fun t => { t.settle with noMatch := false, waiting := .none, spin := 0 })
    | .error (.wait w) t => (keepSide s t).updHart h (fun t => { t with waiting := w })
    | .error x t => s.stopped t h x

/-- The word that led from s to o raised a scalar trap on hart h: its handler runs, or its task has ended. -/
def trapped (s : State) (h : Nat) (o : Out1) : Bool :=
  match o with
  | .next u => (!(s.ctx h).inh && (u.ctx h).inh) || ((s.hart h).task.any (fun t => (u.taskOf t).isNone))
  | _ => false

/-- The word is a scalar atomic other than lrx and scx (R71, R127). -/
def isAtomicWord (w : Nat) : Bool :=
  (w % 64 == 0x1B || w % 64 == 0x1C) && decide (2 ≤ bits w 9 6) && decide (bits w 9 6 ≤ 13) && bit w 31

/-- Hart h may perform the second of two adjacent words first (R277): relaxed atomics on different eight bytes of one tile, through registers
that neither shares with the other. -/
def State.mayPass (s : State) (h w v : Nat) : Bool :=
  let d (w : Nat) : Nat := bits w 30 24
  let a (w : Nat) : Nat := bits w 23 17
  let b (w : Nat) : Nat := bits w 16 10
  let at' (w : Nat) : Nat := (s.x h (BitVec.ofNat 7 (a w))).toNat
  isAtomicWord w && isAtomicWord v && decide (at' w < 2 ^ 62) && decide (at' v < 2 ^ 62) &&
  at' w % 2 ^ 56 / 65536 == at' v % 2 ^ 56 / 65536 && at' w / 8 != at' v / 8 &&
  ([d w, a w].all (fun r => r != d v && r != a v && r != b v)) && d v != b w && a v != b w

/-- A move whose switch is due for the tile of a virtual address (R309). -/
def State.switchDue (s : State) (va : Nat) : Option (Nat × Nat) :=
  s.towers.findSome? (fun e => (e.2.moves.find? (fun m => m.2.phase == 1 && m.2.line == 256 && m.2.srcVa / 65536 == va % 2 ^ 56 / 65536)).map
    (fun m => (e.1, m.1)))

/-- The PC of hart h, set. -/
def State.setPc (s : State) (h : Nat) (pc : Word) : State := s.updCtx h (fun c => { c with pc := pc })

/-- R277, R331. The atomic at PC, which has been fetched as w, and the one after it are performed the other way round, and the switch of their
tile falls between them; none where that is not so, or where either of them does more than perform. -/
noncomputable def State.swapped (s : State) (ex : Instr → State → Out1) (h : Nat) (w : Word32) : Option State :=
  let pc := s.pc h
  if !isAtomicWord w.toNat || !Config.reorder s.fresh then none
  else match s.switchDue (s.x h (BitVec.ofNat 7 (bits w.toNat 23 17))).toNat, decode w, (fetchWord h).run (s.setPc h (pc + 4)) with
    | some m, .ok i, .ok v t =>
      if !s.mayPass h w.toNat v.toNat || (t.comparator h 0 (pc + 4) none).isSome then none
      else match decode v with
        | .ok j =>
          (match ex j t with
          | .next u =>
            if u.pc h != pc + 8 || (u.hart h).waiting != .none then none
            else match ex i ((orStay u (execSwitch m.1 m.2 u)).setPc h pc) with
              | .next x => if x.pc h != pc + 4 || (x.hart h).waiting != .none then none else some (x.setPc h (pc + 8))
              | _ => none
          | _ => none)
        | .error _ => none
    | _, _, _ => none

/-- Hart h is offered its next word; `ex` is the meaning of instructions. -/
noncomputable def State.runHart (s : State) (ex : Instr → State → Out1) (h : Nat) : Out1 :=
  match (s.hart h).queue.find? (fun e => e.actsAtIssue (s.ctx h)) with
  | some e => .next (s.reissueFront h e)
  | none =>
    if s.pc h = 0 then execTaskEnd h s
    else match (fetchWord h).run s with
      | .error _ _ => execInstructionFetchFault h s
      | .ok w t =>
        let o := match decode w with
          | .ok i => ex i t
          | .error _ => execNotAnInstruction w t
        match t.comparator h 0 (t.pc h) none with
        | none => (match t.swapped ex h w with
          | some u => .next u
          | none => o)
        | some n =>
          -- R49: a scalar trap at PC comes before the Contrail stop; R39: a matrix word that has begun completes first
          if trapped t h o then o
          else if t.stoppable h then .next (t.contrailStop h n)
          else .next (t.holdStop h .entry)

/-- The scan over the harts of core c (R192): the first whose word does not wait has issued, and the next scan begins after it.  Those that
wait are passed over. -/
noncomputable def State.scan (s : State) (ex : Instr → State → Out1) (c : Nat) : List Nat → Out1
  | [] => .next s
  | h :: hs =>
    if !(s.hart h).runs then s.scan ex c hs
    else match ({ s with turn := h } : State).runHart ex h with
      | .next t =>
        if (t.hart h).waiting = .none then .next (t.updCore c (fun k => { k with lastHart := h % 4 })) else t.scan ex c hs
      | o => o

/-- While words of core c wait, the engines go on before the scan (log 8). -/
def State.serveWaits (s : State) (hs : List Nat) : State :=
  (hs.filter (fun h => (s.hart h).waiting != .none)).foldl State.enginesGo s

/-- A step that the agenda may hold (log 5): it has no encoding, and its unit exists.  Words come from memory alone. -/
def agendaOk (i : Instr) : Bool :=
  match i with
  | .notAnInstruction _ => false
  | i => (encodeNat i).isNone && i.wellFormed

/-- A launch of one supervisor task whose code stands at address 0x20_0000 (log 3). -/
def probeRecord : Nat := 0x200000 + 2 ^ 748 + 2 ^ 754 + 2 ^ 1024

/-- The launch of `probeRecord`, live, its page table at 0x10_0000. -/
def probeLaunch : Launch :=
  { gen := 0, live := true, rva := 0, record := probeRecord, recPa := none, ptroot := 0x100000, pasen := false, pasid := 0, prio := 0,
    comp := 0, vec := 0, queue := 0xFF, parent := 0, admitted := 0, total := 1, begun := [0], ended := 0, errors := 0, killed := false,
    placed := [], errq := [], eqHeld := false, ctrs := [], posted := 0, graphOf := none, sndDone := true }

/-- Its task, running on hart 0. -/
def probeTask (depoch : Nat) : Task :=
  { lno := 1, t := 0, named := none, st := .running, since := 0, started := true, frame := some 0x400000, home := 0, hart := 0, vcount := 128,
    tepoch := depoch, wake := .none, anvilCore := none, anvilSaved := none, aged := false, addrs := [], openConvoy := false,
    trapAddrs := [], trapOpen := false, moved := [], swDone := false }

/-- Memory with three table entries that map the first GiB, readable, writable and executable, and a word of code. -/
def probeMem (m : Memory) (bytes : Nat) : Memory :=
  (((m.writeN 0x100000 16 0x110001).writeN 0x110000 16 0x120001).writeN 0x120000 16 0x3A).writeN 0x200000 8 bytes

/-- The state in which hart 0 runs that task, with these bytes at its PC, and nothing else happens first. -/
def State.withProbe (s : State) (bytes : Nat) : State :=
  { s with
    agenda := [],
    harts := [(0, { Hart.reset with task := some 1, ctx := startCtx probeLaunch (probeTask s.depoch) 0x400000 0 s.depoch })],
    launches := [(1, probeLaunch)], tasks := [(1, probeTask s.depoch)],
    towers := Tbl.set s.towers 0 Tower.reset, tiles := [], poison := [], mmu := Mmu.reset, pzh := [],
    cores := Tbl.set s.cores 0 Core.reset, mem := probeMem s.mem bytes }

end Sys2Proof.Machine
end

