-- ==== Sys2Proof/Machine/Frames.lean ====
section
/-! DEFINITION. Frames that arrive on an Ethernet port: link-layer retry, then MACsec, then what they carry (R440 to R442). -/

namespace Sys2Proof.Machine

open Sys2Proof

/-- A pause of n quanta of 512 bit times at 1.6 Tb/s, in nanoseconds (R440). -/
def quantaTime (n : Nat) : Nat := cdiv (n * 8) 25

/-- IEEE 802.1Qbb pauses traffic classes of a port, or ends their pauses (R440). -/
def State.pause (s : State) (port : Nat) (classes : List (Nat × Nat)) : State :=
  let e := s.ethPort port
  s.setEth port { e with paused := classes.foldl (fun t x => Tbl.set t (x.1 % 4) (s.time + quantaTime (x.2 % 65536))) e.paused }

/-- What a frame that has passed its port's checks carries goes to the transport, to Jetstream, or to the port (R440, R458). -/
def State.handUp (s : State) (port : Nat) (msg : Carried) : Out1 :=
  match msg with
  | .nothing => .next s
  | .packet p => s.takePacket p
  | .sack peer rod base bitmap nak => .next (s.takeSack peer rod base bitmap nak)
  | .line comm peer lane chunk line data => .next (s.takeLine comm peer lane chunk line data)
  | .credit comm peer lane chunk => .next (s.takeChunkCredit comm peer lane chunk)
  | .reduce comm peer lane chunk tag off fmt half scale data => .next (s.takeReduce comm peer lane chunk tag off fmt half scale data)
  | .pause classes => .next (s.pause port classes)

/-- MACsec on receive (R441): either installed key, with no replay; a frame that fails is dropped and counted. -/
def State.openFrame (s : State) (port key pn : Nat) (frame : List (BitVec 8)) : Option State × State :=
  if !s.macsecOn port then (some s, s)
  else
    let e := s.ethPort port
    let failed := s.setEth port { e with dropped := e.dropped + 1 }
    match e.keys.find? (fun k => k.an == key) with
    | none => (none, failed)
    | some k =>
      if pn ≤ k.rxpn || (Config.macsecOpen k.sak frame).isNone then (none, failed)
      else (some (s.setEth port { e with keys := e.keys.map (fun x => if x.an = key then { x with rxpn := pn } else x) }), failed)

/-- Tell the far end of a port which frames have come (R442; DESIGN CHOICE, log 124): those up to n, or that those from n on be sent again. -/
def State.tellRetry (s : State) (port n : Nat) (again : Bool) : State := s.send .llr [port, b2n again, n]

/-- The far end has taken the frames up to n: they leave the replay area (R442). -/
def State.retryTaken (s : State) (port n : Nat) : State :=
  let e := s.ethPort port
  s.setEth port { e with llrKept := e.llrKept.filter (fun f => decide (n < f.1)) }

/-- The far end asks for the frames from n on: those still in the window are sent again, as they were (R441, R442). -/
def State.retryAgain (s : State) (port n : Nat) : State :=
  let s := s.retryTaken port (n - 1)
  (s.ethPort port).llrKept.foldl (fun s f => s.send f.2.2.kind f.2.2.data) s

/-- R440 to R442. A frame arrives on a port: link-layer retry takes frames in sequence and asks for what it has missed, then MACsec, then what
the frame carries. -/
def execEthernetFrame (port key pn : Nat) (frame : List (BitVec 8)) (pkt : FrameBody) (s : State) : Out1 :=
  let e := s.ethPort port
  let on := bit s.netllr 63
  let above (s : State) : Out1 :=
    let m := s.openFrame port key pn frame
    match m.1 with
    | some t => t.handUp port pkt.msg
    | none => .next m.2
  if !Config.checkOk frame then .next (if on then s.tellRetry port (e.llrRx + 1) true else s)
  else match pkt.retry with
    | .off => above s
    | .taken n => .next (if on then s.retryTaken port n else s)
    | .again n => .next (if on then s.retryAgain port n else s)
    | .frame q =>
      if !on then above s
      else if q = e.llrRx + 1 then above ((s.setEth port { e with llrRx := q }).tellRetry port q false)
      else .next (s.tellRetry port (if q ≤ e.llrRx then e.llrRx else e.llrRx + 1) (decide (e.llrRx < q)))

end Sys2Proof.Machine
end

