-- ==== Sys2Proof/Machine/HostIf.lean ====
section
/-! DEFINITION. CXL.mem accesses, host snoops and SPDM (R412, R421 to R423, R432 to R435). -/

namespace Sys2Proof.Machine

open Sys2Proof

/-- The HDM decoder is programmed as R422 asks: base aligned to 256 MiB, size the HBM capacity present. -/
def State.hdmOn (s : State) : Bool := s.hdmBase % 2 ^ 28 == 0 && s.hdmSize == s.hbmSize

/-- R422, R412, R429. A host access to HBM bytes o, o + 1, …: a read is answered with its bytes or with poison, a write is performed at
the home.  Nothing is reached while the decoder is not programmed, in the recovery loader, which brings up CXL.io only, or beyond HBM. -/
def execHostMemAccess (write : Bool) (o len : Nat) (data : List (BitVec 8)) (s : State) : Out1 :=
  if s.fw.recovery || !s.hdmOn then .next s
  else if write then .next (if o + data.length ≤ s.hbmSize then s.writePa none o data else s)
  else if s.hbmSize < o + len then .next s
  else .next (s.send .memReply (if s.poisoned o len then [1] else [0, s.mem.readN o len]))

/-- R423. The host snoops a 64-byte line of its window: the I/O die answers with the line, and what the host then writes is what the
window holds.  CXL.cache is not up in the recovery loader (R429).  MODEL (log 55): the coherent cache and the host's memory are one copy. -/
def execHostSnoop (line : Nat) (data : List (BitVec 8)) (s : State) : Out1 :=
  let pa := 2 ^ 47 + 64 * line
  if s.fw.recovery || !isHostPa (pa + 63) then .next s
  else
    let s := s.send .snoopReply [line, s.mem.readN pa 64]
    .next (s.writePa none pa (data.take 64))

/-- Request codes of SPDM.  PRESUMED (log 15): the codes of the SPDM standard. -/
def spdmVersion : Nat := 0x84
def spdmCapabilities : Nat := 0xE1
def spdmAlgorithms : Nat := 0xE3
def spdmDigests : Nat := 0x81
def spdmCertificate : Nat := 0x82
def spdmChallenge : Nat := 0x83
def spdmMeasurements : Nat := 0xE0
def spdmKeyExchange : Nat := 0xE4
def spdmFinish : Nat := 0xE5
def spdmEndSession : Nat := 0xEC
def spdmVendor : Nat := 0xFE
def spdmError : Nat := 0x7F

/-- Answer a request that is in order: its code, its arguments and the response join the transcript. -/
def State.spdmAnswer (s : State) (code : Nat) (args body : List Nat) : State :=
  State.send { s with spdm := { s.spdm with transcript := s.spdm.transcript ++ code :: args ++ body } } .spdm ((code - 0x80) :: body)

/-- The content of a response that neither the spec nor a request fixes: free (log 15). -/
def State.spdmFree (s : State) (code : Nat) (args : List Nat) : Nat := Config.spdmBody code (s.spdm.transcript ++ code :: args)

/-- Answer with an SPDM error. -/
def State.spdmRefuse (s : State) : State := s.send .spdm [spdmError]

/-- The private identity key of a certificate slot (R432, R433): 0 Ed25519, 1 ML-DSA-65.  None where no image has been accepted: then
SPDM answers nothing but errors (log 113). -/
def State.slotKey (s : State) (slot : Nat) : Option (List Byte) :=
  match slot with
  | 0 => s.fw.identity.map (·.ed25519)
  | 1 => s.fw.identity.map (·.mldsa)
  | _ => none

/-- The signature of a slot's key over the transcript with what is being answered (R433; log 101). -/
def State.sign (s : State) (slot : Nat) (key : List Byte) (code : Nat) (args body : List Nat) : Nat :=
  ofBytes (Config.signature slot key (s.spdm.transcript ++ code :: args ++ body))

/-- A request that needs the algorithms agreed, and the key of a slot. -/
def State.spdmWith (s : State) (slot : Nat) (act : List Byte → State) : State :=
  match s.slotKey slot with
  | some key => if s.spdm.algs then act key else s.spdmRefuse
  | none => s.spdmRefuse

/-- R433. GET_VERSION begins a connection anew: SPDM 1.3. -/
def execGetVersion (s : State) : Out1 :=
  .next (if s.fw.identity.isNone then s.spdmRefuse
    else State.spdmAnswer { s with spdm :=
      { version := true, caps := false, algs := false, pendingKey := false, session := false, transcript := [] } } spdmVersion [] [0x13])

/-- R433. GET_CAPABILITIES. -/
def execGetCapabilities (flags : Nat) (s : State) : Out1 :=
  .next (if s.spdm.version then
      State.spdmAnswer { s with spdm := { s.spdm with caps := true } } spdmCapabilities [flags] [s.spdmFree spdmCapabilities [flags]]
    else s.spdmRefuse)

/-- The algorithms of R433 as SPDM numbers them: SHA-384, secp384r1, AES-256-GCM.  PRESUMED (log 15): the bits of the SPDM standard. -/
def spdmHash : Nat := 2
def spdmDhe : Nat := 16
def spdmAead : Nat := 2

/-- R433. NEGOTIATE_ALGORITHMS: the offer holds hashes in [31:0], key exchanges in [47:32] and session ciphers in [63:48] (log 15); one
without all three of R433 is refused. -/
def execNegotiateAlgorithms (offer : Nat) (s : State) : Out1 :=
  .next (if s.spdm.caps && bit offer 1 && bit offer 36 && bit offer 49 then
      State.spdmAnswer { s with spdm := { s.spdm with algs := true } } spdmAlgorithms [offer] [spdmHash, spdmDhe, spdmAead]
    else s.spdmRefuse)

/-- R433. GET_DIGESTS: the mask of the slots, and SHA-384 of each chain. -/
def execGetDigests (s : State) : Out1 :=
  .next (s.spdmWith 0 (fun ed => s.spdmWith 1 (fun ml =>
    s.spdmAnswer spdmDigests [] [3, ofBytes (sha384 (Config.certificateChain 0 ed)), ofBytes (sha384 (Config.certificateChain 1 ml))])))

/-- R433. GET_CERTIFICATE: a portion of the chain of a slot, 0 the Ed25519 chain and 1 the ML-DSA-65 chain: slot, bytes given, bytes that
remain, the bytes. -/
def execGetCertificate (slot off len : Nat) (s : State) : Out1 :=
  .next (s.spdmWith slot (fun key =>
    let chain := Config.certificateChain slot key
    let part := fileAt chain off len
    s.spdmAnswer spdmCertificate [slot, off, len] [slot, part.length, chain.length - off - part.length, ofBytes part]))

/-- R433. CHALLENGE: the digest of the slot's chain, the device's nonce, and the signature of the slot's key. -/
def execChallenge (slot nonce : Nat) (s : State) : Out1 :=
  .next (s.spdmWith slot (fun key =>
    let args := [slot, nonce]
    let body := [ofBytes (sha384 (Config.certificateChain slot key)), s.spdmFree spdmChallenge args]
    s.spdmAnswer spdmChallenge args (body ++ [s.sign slot key spdmChallenge args body])))

/-- The measurement of an index (R434): SHA-384 of boot ROM, of the staged image, of a tower's part where it runs one, of the I/O-die and
Barometer parts.
DEDUCED (log 114): the digest of the staged image is that of R110; what is not there, or does not run, measures as zero. -/
def State.measurement (s : State) (n : Nat) : Nat :=
  let part (k : Nat) (i : Option Image) : Nat := (i.map (fun i => ofBytes (sha384 (Config.imagePart k i.bytes)))).getD 0
  if n = 1 then ofBytes (sha384 Config.bootRom)
  else if n = 2 then (if s.fw.staged then ofBytes (sha384 (digestInput s.fw.flash.bytes)) else 0)
  else if 3 ≤ n ∧ n ≤ 10 then
    (let t := s.tower (n - 3)
     if t.st == .offline || t.st == .mappedOut then 0 else part 0 t.fw)
  else if n = 11 then part 1 s.fw.running
  else 0

/-- R434. GET_MEASUREMENTS: the digests of one index, or of all for 0xFF, then a signature under the slot's key. -/
def execGetMeasurements (slot index nonce : Nat) (s : State) : Out1 :=
  .next (if index == 0 || (decide (11 < index) && index != 0xFF) then s.spdmRefuse
    else s.spdmWith slot (fun key =>
      let args := [slot, index, nonce]
      let block := if index = 0xFF then (List.range 11).map (fun k => s.measurement (k + 1)) else [s.measurement index]
      s.spdmAnswer spdmMeasurements args (block ++ [s.sign slot key spdmMeasurements args block])))

/-- R433. KEY_EXCHANGE: a session is being made; the device's share of secp384r1 is free, and the slot's key signs it. -/
def execKeyExchange (slot key : Nat) (s : State) : Out1 :=
  .next (s.spdmWith slot (fun priv =>
    let args := [slot, key]
    let share := s.spdmFree spdmKeyExchange args
    State.spdmAnswer { s with spdm := { s.spdm with pendingKey := true } } spdmKeyExchange args
      [share, s.sign slot priv spdmKeyExchange args [share]]))

/-- R433. FINISH: where its MAC verifies, which is free (log 15), the session is open. -/
def execFinish (mac : Nat) (s : State) : Out1 :=
  if !s.spdm.pendingKey then .next s.spdmRefuse
  else
    let ok := Config.freeBool s.fresh
    let s := { s with fresh := s.fresh + 1, spdm := { s.spdm with pendingKey := false, session := s.spdm.session || ok } }
    .next (if ok then s.spdmAnswer spdmFinish [mac] [] else s.spdmRefuse)

/-- R433. END_SESSION. -/
def execEndSession (s : State) : Out1 :=
  .next (if s.spdm.session then State.spdmAnswer { s with spdm := { s.spdm with session := false } } spdmEndSession [] [] else s.spdmRefuse)

/-- Install a key on a port, the newest first (R435): it replaces the key of its association number, else the older of two. -/
def installKey (keys : List MacKey) (k : MacKey) : List MacKey :=
  if keys.any (fun x => x.an == k.an) then k :: keys.filter (fun x => x.an != k.an) else k :: keys.take 1

/-- R435. KEYSET: only inside a session. -/
def execKeyset (port an sak ssci salt : Nat) (s : State) : Out1 :=
  if !s.spdm.session || decide (7 < port) || decide (3 < an) then .next s.spdmRefuse
  else
    let k : MacKey := { an := an, sak := sak % 2 ^ 256, ssci := ssci % 2 ^ 32, salt := salt % 2 ^ 96, pn := 0, rxpn := 0 }
    let e := s.ethPort port
    .next ((s.setEth port { e with keys := installKey e.keys k }).send .spdm [spdmVendor - 0x80])

end Sys2Proof.Machine
end

