-- ==== Sys2Proof/Machine/Integer.lean ====
section
/-! DEFINITION. Integer words of the scalar front (R113 to R117): each writes x[d] and advances PC. -/

namespace Sys2Proof.Machine

open Sys2Proof

/-- 1 or 0 in a full register (R114). -/
def flag (b : Bool) : Word := if b then 1 else 0

/-- Signed quotient rounded toward zero; a divisor of 0 gives all ones (R115). -/
def divS (p q : Word) : Word := if q = 0 then BitVec.allOnes 64 else p.sdiv q

/-- Natural quotient; a divisor of 0 gives all ones (R115). -/
def divN (p q : Word) : Word := if q = 0 then BitVec.allOnes 64 else p / q

/-- Signed remainder, with the sign of p; a divisor of 0 gives p (R115). -/
def remS (p q : Word) : Word := if q = 0 then p else p.srem q

/-- Natural remainder; a divisor of 0 gives p (R115). -/
def remN (p q : Word) : Word := if q = 0 then p else p % q

/-- High 64 bits of the signed 128-bit product. -/
def mulHighS (p q : Word) : Word := wordS (p.toInt * q.toInt / 2 ^ 64)

/-- High 64 bits of the natural 128-bit product. -/
def mulHighN (p q : Word) : Word := word (p.toNat * q.toNat / 2 ^ 64)

/-- The shift amount q[5:0] (R114). -/
def shamt (q : Word) : Nat := q.toNat % 64

/-- R114. x[d] := p + q. -/
def execAdd (k : Bool) (d a b : BitVec 7) (s : State) : Out1 :=
  alu k (wordR 0x01 0 k d.toNat a.toNat b.toNat) d (s.x s.turn a + s.x s.turn b) s

/-- R114. x[d] := p - q. -/
def execSub (k : Bool) (d a b : BitVec 7) (s : State) : Out1 :=
  alu k (wordR 0x01 1 k d.toNat a.toNat b.toNat) d (s.x s.turn a - s.x s.turn b) s

/-- R114. Bitwise and. -/
def execAnd (k : Bool) (d a b : BitVec 7) (s : State) : Out1 :=
  alu k (wordR 0x01 2 k d.toNat a.toNat b.toNat) d (s.x s.turn a &&& s.x s.turn b) s

/-- R114. Bitwise or. -/
def execOr (k : Bool) (d a b : BitVec 7) (s : State) : Out1 :=
  alu k (wordR 0x01 3 k d.toNat a.toNat b.toNat) d (s.x s.turn a ||| s.x s.turn b) s

/-- R114. Bitwise exclusive or. -/
def execXor (k : Bool) (d a b : BitVec 7) (s : State) : Out1 :=
  alu k (wordR 0x01 4 k d.toNat a.toNat b.toNat) d (s.x s.turn a ^^^ s.x s.turn b) s

/-- R114. Shift left by q[5:0]. -/
def execSll (k : Bool) (d a b : BitVec 7) (s : State) : Out1 :=
  alu k (wordR 0x01 5 k d.toNat a.toNat b.toNat) d (s.x s.turn a <<< shamt (s.x s.turn b)) s

/-- R114. Logical shift right by q[5:0]. -/
def execSrl (k : Bool) (d a b : BitVec 7) (s : State) : Out1 :=
  alu k (wordR 0x01 6 k d.toNat a.toNat b.toNat) d (s.x s.turn a >>> shamt (s.x s.turn b)) s

/-- R114. Arithmetic shift right by q[5:0]. -/
def execSra (k : Bool) (d a b : BitVec 7) (s : State) : Out1 :=
  alu k (wordR 0x01 7 k d.toNat a.toNat b.toNat) d ((s.x s.turn a).sshiftRight (shamt (s.x s.turn b))) s

/-- R114. Signed less-than. -/
def execSlt (k : Bool) (d a b : BitVec 7) (s : State) : Out1 :=
  alu k (wordR 0x01 8 k d.toNat a.toNat b.toNat) d (flag ((s.x s.turn a).slt (s.x s.turn b))) s

/-- R114. Natural less-than. -/
def execSltn (k : Bool) (d a b : BitVec 7) (s : State) : Out1 :=
  alu k (wordR 0x01 9 k d.toNat a.toNat b.toNat) d (flag ((s.x s.turn a).ult (s.x s.turn b))) s

/-- R114. Equality. -/
def execSeq (k : Bool) (d a b : BitVec 7) (s : State) : Out1 :=
  alu k (wordR 0x01 10 k d.toNat a.toNat b.toNat) d (flag (s.x s.turn a == s.x s.turn b)) s

/-- R114. Inequality. -/
def execSne (k : Bool) (d a b : BitVec 7) (s : State) : Out1 :=
  alu k (wordR 0x01 11 k d.toNat a.toNat b.toNat) d (flag (s.x s.turn a != s.x s.turn b)) s

/-- R114. Low 64 bits of the product. -/
def execMul (k : Bool) (d a b : BitVec 7) (s : State) : Out1 :=
  alu k (wordR 0x03 0 k d.toNat a.toNat b.toNat) d (s.x s.turn a * s.x s.turn b) s

/-- R114. High 64 bits, signed by signed. -/
def execMulh (k : Bool) (d a b : BitVec 7) (s : State) : Out1 :=
  alu k (wordR 0x03 1 k d.toNat a.toNat b.toNat) d (mulHighS (s.x s.turn a) (s.x s.turn b)) s

/-- R114. High 64 bits, natural by natural. -/
def execMulhn (k : Bool) (d a b : BitVec 7) (s : State) : Out1 :=
  alu k (wordR 0x03 2 k d.toNat a.toNat b.toNat) d (mulHighN (s.x s.turn a) (s.x s.turn b)) s

/-- R114, R115. Signed quotient. -/
def execDiv (k : Bool) (d a b : BitVec 7) (s : State) : Out1 :=
  alu k (wordR 0x03 3 k d.toNat a.toNat b.toNat) d (divS (s.x s.turn a) (s.x s.turn b)) s

/-- R114, R115. Natural quotient. -/
def execDivn (k : Bool) (d a b : BitVec 7) (s : State) : Out1 :=
  alu k (wordR 0x03 4 k d.toNat a.toNat b.toNat) d (divN (s.x s.turn a) (s.x s.turn b)) s

/-- R114, R115. Signed remainder. -/
def execRem (k : Bool) (d a b : BitVec 7) (s : State) : Out1 :=
  alu k (wordR 0x03 5 k d.toNat a.toNat b.toNat) d (remS (s.x s.turn a) (s.x s.turn b)) s

/-- R114, R115. Natural remainder. -/
def execRemn (k : Bool) (d a b : BitVec 7) (s : State) : Out1 :=
  alu k (wordR 0x03 6 k d.toNat a.toNat b.toNat) d (remN (s.x s.turn a) (s.x s.turn b)) s

/-- R116. x[d] := x[a] + imm11. -/
def execAddi (k : Bool) (d a : BitVec 7) (i : BitVec 11) (s : State) : Out1 :=
  alu k (wordI 0x04 k d.toNat a.toNat i.toNat) d (s.x s.turn a + sx i) s

/-- R116. And with imm8. -/
def execAndi (k : Bool) (d a : BitVec 7) (i : BitVec 8) (s : State) : Out1 :=
  alu k (wordI 0x05 k d.toNat a.toNat (0 + i.toNat)) d (s.x s.turn a &&& sx i) s

/-- R116. Or with imm8. -/
def execOri (k : Bool) (d a : BitVec 7) (i : BitVec 8) (s : State) : Out1 :=
  alu k (wordI 0x05 k d.toNat a.toNat (256 + i.toNat)) d (s.x s.turn a ||| sx i) s

/-- R116. Exclusive or with imm8. -/
def execXori (k : Bool) (d a : BitVec 7) (i : BitVec 8) (s : State) : Out1 :=
  alu k (wordI 0x05 k d.toNat a.toNat (512 + i.toNat)) d (s.x s.turn a ^^^ sx i) s

/-- R116. Signed less-than imm8. -/
def execSlti (k : Bool) (d a : BitVec 7) (i : BitVec 8) (s : State) : Out1 :=
  alu k (wordI 0x05 k d.toNat a.toNat (768 + i.toNat)) d (flag ((s.x s.turn a).slt (sx i))) s

/-- R116. Natural less-than imm8, first sign-extended. -/
def execSltni (k : Bool) (d a : BitVec 7) (i : BitVec 8) (s : State) : Out1 :=
  alu k (wordI 0x05 k d.toNat a.toNat (1024 + i.toNat)) d (flag ((s.x s.turn a).ult (sx i))) s

/-- R116. Shift left by the amount. -/
def execSlli (k : Bool) (d a : BitVec 7) (h : BitVec 6) (s : State) : Out1 :=
  alu k (wordI 0x05 k d.toNat a.toNat (1280 + h.toNat)) d (s.x s.turn a <<< h.toNat) s

/-- R116. Logical shift right by the amount. -/
def execSrli (k : Bool) (d a : BitVec 7) (h : BitVec 6) (s : State) : Out1 :=
  alu k (wordI 0x05 k d.toNat a.toNat (1536 + h.toNat)) d (s.x s.turn a >>> h.toNat) s

/-- R116. Arithmetic shift right by the amount. -/
def execSrai (k : Bool) (d a : BitVec 7) (h : BitVec 6) (s : State) : Out1 :=
  alu k (wordI 0x05 k d.toNat a.toNat (1792 + h.toNat)) d ((s.x s.turn a).sshiftRight h.toNat) s

/-- R117. x[d] := sext(imm18)·2^11. -/
def execLim (k : Bool) (d : BitVec 7) (i : BitVec 18) (s : State) : Out1 :=
  alu k (wordL 0x07 k d.toNat i.toNat) d (sx i <<< 11) s

/-- R117. x[d] := PC + sext(imm18)·2^11. -/
def execApc (k : Bool) (d : BitVec 7) (i : BitVec 18) (s : State) : Out1 :=
  alu k (wordL 0x08 k d.toNat i.toNat) d (s.pc s.turn + (sx i <<< 11)) s

end Sys2Proof.Machine
end

