-- ==== Sys2Proof/Machine/IssueArith.lean ====
section
/-! DEFINITION. The words of majors 0x20 to 0x2E (R143 to R166) at issue: each enters the vector queue with its captured operands; what it does there
is the element loop of its convoy (Convoy.lean). -/

namespace Sys2Proof.Machine

open Sys2Proof

/-- R148. Element-wise float add with tangents. -/
def execVadd (k : Bool) (d a b : BitVec 7) (m : Bool) (s : State) : Out1 :=
  issue (.vadd k d a b m) (wordR 0x20 (0 + b2n m) k d.toNat a.toNat b.toNat) s

/-- R148. Element-wise float subtract. -/
def execVsub (k : Bool) (d a b : BitVec 7) (m : Bool) (s : State) : Out1 :=
  issue (.vsub k d a b m) (wordR 0x20 (2 + b2n m) k d.toNat a.toNat b.toNat) s

/-- R148. Element-wise float multiply. -/
def execVmul (k : Bool) (d a b : BitVec 7) (m : Bool) (s : State) : Out1 :=
  issue (.vmul k d a b m) (wordR 0x20 (4 + b2n m) k d.toNat a.toNat b.toNat) s

/-- R148. Element-wise float divide. -/
def execVdiv (k : Bool) (d a b : BitVec 7) (m : Bool) (s : State) : Out1 :=
  issue (.vdiv k d a b m) (wordR 0x20 (6 + b2n m) k d.toNat a.toNat b.toNat) s

/-- R148. Element-wise float minimum. -/
def execVmin (k : Bool) (d a b : BitVec 7) (m : Bool) (s : State) : Out1 :=
  issue (.vmin k d a b m) (wordR 0x20 (8 + b2n m) k d.toNat a.toNat b.toNat) s

/-- R148. Element-wise float maximum. -/
def execVmax (k : Bool) (d a b : BitVec 7) (m : Bool) (s : State) : Out1 :=
  issue (.vmax k d a b m) (wordR 0x20 (10 + b2n m) k d.toNat a.toNat b.toNat) s

/-- R148. Float add with a broadcast scalar. -/
def execVaddVx (k : Bool) (d a b : BitVec 7) (m : Bool) (s : State) : Out1 :=
  issue (.vaddVx k d a b m) (wordR 0x21 (0 + b2n m) k d.toNat a.toNat b.toNat) s

/-- R148. Float subtract of a broadcast scalar. -/
def execVsubVx (k : Bool) (d a b : BitVec 7) (m : Bool) (s : State) : Out1 :=
  issue (.vsubVx k d a b m) (wordR 0x21 (2 + b2n m) k d.toNat a.toNat b.toNat) s

/-- R148. Float multiply by a broadcast scalar. -/
def execVmulVx (k : Bool) (d a b : BitVec 7) (m : Bool) (s : State) : Out1 :=
  issue (.vmulVx k d a b m) (wordR 0x21 (4 + b2n m) k d.toNat a.toNat b.toNat) s

/-- R148. Float divide by a broadcast scalar. -/
def execVdivVx (k : Bool) (d a b : BitVec 7) (m : Bool) (s : State) : Out1 :=
  issue (.vdivVx k d a b m) (wordR 0x21 (6 + b2n m) k d.toNat a.toNat b.toNat) s

/-- R148. Float minimum with a broadcast scalar. -/
def execVminVx (k : Bool) (d a b : BitVec 7) (m : Bool) (s : State) : Out1 :=
  issue (.vminVx k d a b m) (wordR 0x21 (8 + b2n m) k d.toNat a.toNat b.toNat) s

/-- R148. Float maximum with a broadcast scalar. -/
def execVmaxVx (k : Bool) (d a b : BitVec 7) (m : Bool) (s : State) : Out1 :=
  issue (.vmaxVx k d a b m) (wordR 0x21 (10 + b2n m) k d.toNat a.toNat b.toNat) s

/-- R149. Fused a·b + d per element. -/
def execVfma (k : Bool) (d a b : BitVec 7) (m : Bool) (s : State) : Out1 :=
  issue (.vfma k d a b m) (wordR 0x22 (0 + b2n m) k d.toNat a.toNat b.toNat) s

/-- R149. Fused a·b - d per element. -/
def execVfms (k : Bool) (d a b : BitVec 7) (m : Bool) (s : State) : Out1 :=
  issue (.vfms k d a b m) (wordR 0x22 (2 + b2n m) k d.toNat a.toNat b.toNat) s

/-- R149. Fused -(a·b) + d per element. -/
def execVfnma (k : Bool) (d a b : BitVec 7) (m : Bool) (s : State) : Out1 :=
  issue (.vfnma k d a b m) (wordR 0x22 (4 + b2n m) k d.toNat a.toNat b.toNat) s

/-- R149. Fused -(a·b) - d per element. -/
def execVfnms (k : Bool) (d a b : BitVec 7) (m : Bool) (s : State) : Out1 :=
  issue (.vfnms k d a b m) (wordR 0x22 (6 + b2n m) k d.toNat a.toNat b.toNat) s

/-- R149. vfma with a scalar b. -/
def execVfmaVx (k : Bool) (d a b : BitVec 7) (m : Bool) (s : State) : Out1 :=
  issue (.vfmaVx k d a b m) (wordR 0x22 (8 + b2n m) k d.toNat a.toNat b.toNat) s

/-- R149. vfms with a scalar b. -/
def execVfmsVx (k : Bool) (d a b : BitVec 7) (m : Bool) (s : State) : Out1 :=
  issue (.vfmsVx k d a b m) (wordR 0x22 (10 + b2n m) k d.toNat a.toNat b.toNat) s

/-- R149. vfnma with a scalar b. -/
def execVfnmaVx (k : Bool) (d a b : BitVec 7) (m : Bool) (s : State) : Out1 :=
  issue (.vfnmaVx k d a b m) (wordR 0x22 (12 + b2n m) k d.toNat a.toNat b.toNat) s

/-- R149. vfnms with a scalar b. -/
def execVfnmsVx (k : Bool) (d a b : BitVec 7) (m : Bool) (s : State) : Out1 :=
  issue (.vfnmsVx k d a b m) (wordR 0x22 (14 + b2n m) k d.toNat a.toNat b.toNat) s

/-- R150. Correctly rounded square root per element. -/
def execVsqrt (k : Bool) (d a : BitVec 7) (m : Bool) (s : State) : Out1 :=
  issue (.vsqrt k d a m) (wordR 0x23 (0 + b2n m) k d.toNat a.toNat 0) s

/-- R150. Reciprocal square root per element. -/
def execVrsqrt (k : Bool) (d a : BitVec 7) (m : Bool) (s : State) : Out1 :=
  issue (.vrsqrt k d a m) (wordR 0x23 (2 + b2n m) k d.toNat a.toNat 0) s

/-- R150. Exponential per element. -/
def execVexp (k : Bool) (d a : BitVec 7) (m : Bool) (s : State) : Out1 :=
  issue (.vexp k d a m) (wordR 0x23 (4 + b2n m) k d.toNat a.toNat 0) s

/-- R150. Natural logarithm per element. -/
def execVlog (k : Bool) (d a : BitVec 7) (m : Bool) (s : State) : Out1 :=
  issue (.vlog k d a m) (wordR 0x23 (6 + b2n m) k d.toNat a.toNat 0) s

/-- R150. Hyperbolic tangent per element. -/
def execVtanh (k : Bool) (d a : BitVec 7) (m : Bool) (s : State) : Out1 :=
  issue (.vtanh k d a m) (wordR 0x23 (8 + b2n m) k d.toNat a.toNat 0) s

/-- R150. Logistic sigmoid per element. -/
def execVsigmoid (k : Bool) (d a : BitVec 7) (m : Bool) (s : State) : Out1 :=
  issue (.vsigmoid k d a m) (wordR 0x23 (10 + b2n m) k d.toNat a.toNat 0) s

/-- R150. Floor per element with +0 tangents. -/
def execVfloor (k : Bool) (d a : BitVec 7) (m : Bool) (s : State) : Out1 :=
  issue (.vfloor k d a m) (wordR 0x23 (12 + b2n m) k d.toNat a.toNat 0) s

/-- R150. Round to nearest integer, ties to even, per element. -/
def execVround (k : Bool) (d a : BitVec 7) (m : Bool) (s : State) : Out1 :=
  issue (.vround k d a m) (wordR 0x23 (14 + b2n m) k d.toNat a.toNat 0) s

/-- R151. Clears the sign bit per element. -/
def execVabs (k : Bool) (d a : BitVec 7) (m : Bool) (s : State) : Out1 :=
  issue (.vabs k d a m) (wordR 0x24 (0 + b2n m) k d.toNat a.toNat 0) s

/-- R151. Inverts the sign bit per element. -/
def execVneg (k : Bool) (d a : BitVec 7) (m : Bool) (s : State) : Out1 :=
  issue (.vneg k d a m) (wordR 0x24 (2 + b2n m) k d.toNat a.toNat 0) s

/-- R151. Rectified linear unit per element. -/
def execVrelu (k : Bool) (d a : BitVec 7) (m : Bool) (s : State) : Out1 :=
  issue (.vrelu k d a m) (wordR 0x24 (4 + b2n m) k d.toNat a.toNat 0) s

/-- R151. Copies values and tangents bit for bit. -/
def execVmov (k : Bool) (d a : BitVec 7) (m : Bool) (s : State) : Out1 :=
  issue (.vmov k d a m) (wordR 0x24 (6 + b2n m) k d.toNat a.toNat 0) s

/-- R152. Writes mask bits where elements are equal. -/
def execVeq (k : Bool) (d : BitVec 3) (a b : BitVec 7) (m : Bool) (s : State) : Out1 :=
  issue (.veq k d a b m) (wordR 0x25 (0 + b2n m) k d.toNat a.toNat b.toNat) s

/-- R152. Writes mask bits where elements differ. -/
def execVne (k : Bool) (d : BitVec 3) (a b : BitVec 7) (m : Bool) (s : State) : Out1 :=
  issue (.vne k d a b m) (wordR 0x25 (2 + b2n m) k d.toNat a.toNat b.toNat) s

/-- R152. Writes mask bits where a < b. -/
def execVlt (k : Bool) (d : BitVec 3) (a b : BitVec 7) (m : Bool) (s : State) : Out1 :=
  issue (.vlt k d a b m) (wordR 0x25 (4 + b2n m) k d.toNat a.toNat b.toNat) s

/-- R152. Writes mask bits where a <= b. -/
def execVle (k : Bool) (d : BitVec 3) (a b : BitVec 7) (m : Bool) (s : State) : Out1 :=
  issue (.vle k d a b m) (wordR 0x25 (6 + b2n m) k d.toNat a.toNat b.toNat) s

/-- R152. Compare equal against a scalar. -/
def execVeqVx (k : Bool) (d : BitVec 3) (a b : BitVec 7) (m : Bool) (s : State) : Out1 :=
  issue (.veqVx k d a b m) (wordR 0x25 (8 + b2n m) k d.toNat a.toNat b.toNat) s

/-- R152. Compare not equal against a scalar. -/
def execVneVx (k : Bool) (d : BitVec 3) (a b : BitVec 7) (m : Bool) (s : State) : Out1 :=
  issue (.vneVx k d a b m) (wordR 0x25 (10 + b2n m) k d.toNat a.toNat b.toNat) s

/-- R152. Compare less than against a scalar. -/
def execVltVx (k : Bool) (d : BitVec 3) (a b : BitVec 7) (m : Bool) (s : State) : Out1 :=
  issue (.vltVx k d a b m) (wordR 0x25 (12 + b2n m) k d.toNat a.toNat b.toNat) s

/-- R152. Compare less or equal against a scalar. -/
def execVleVx (k : Bool) (d : BitVec 3) (a b : BitVec 7) (m : Bool) (s : State) : Out1 :=
  issue (.vleVx k d a b m) (wordR 0x25 (14 + b2n m) k d.toNat a.toNat b.toNat) s

/-- R153. Selects each element from va or vb by q[VT.MSEL]. -/
def execVsel (k : Bool) (d a b : BitVec 7) (s : State) : Out1 :=
  issue (.vsel k d a b) (wordR 0x26 0 k d.toNat a.toNat b.toNat) s

/-- R154. Once-acting AND of two whole masks. -/
def execQand (k : Bool) (d a b : BitVec 3) (s : State) : Out1 :=
  issue (.qand k d a b) (wordR 0x26 2 k d.toNat a.toNat b.toNat) s

/-- R154. Once-acting OR of two whole masks. -/
def execQor (k : Bool) (d a b : BitVec 3) (s : State) : Out1 :=
  issue (.qor k d a b) (wordR 0x26 4 k d.toNat a.toNat b.toNat) s

/-- R154. Once-acting XOR of two whole masks. -/
def execQxor (k : Bool) (d a b : BitVec 3) (s : State) : Out1 :=
  issue (.qxor k d a b) (wordR 0x26 6 k d.toNat a.toNat b.toNat) s

/-- R154. Once-acting qa AND NOT qb. -/
def execQsub (k : Bool) (d a b : BitVec 3) (s : State) : Out1 :=
  issue (.qsub k d a b) (wordR 0x26 8 k d.toNat a.toNat b.toNat) s

/-- R154. Once-acting complement of a mask. -/
def execQnot (k : Bool) (d a : BitVec 3) (s : State) : Out1 :=
  issue (.qnot k d a) (wordR 0x26 10 k d.toNat a.toNat 0) s

/-- R154. Once-acting copy of a mask. -/
def execQcpy (k : Bool) (d a : BitVec 3) (s : State) : Out1 :=
  issue (.qcpy k d a) (wordR 0x26 12 k d.toNat a.toNat 0) s

/-- R155. Integer add per element, wrapping or saturating. -/
def execViadd (k : Bool) (d a b : BitVec 7) (m : Bool) (s : State) : Out1 :=
  issue (.viadd k d a b m) (wordR 0x27 (0 + b2n m) k d.toNat a.toNat b.toNat) s

/-- R155. Integer subtract per element. -/
def execVisub (k : Bool) (d a b : BitVec 7) (m : Bool) (s : State) : Out1 :=
  issue (.visub k d a b m) (wordR 0x27 (2 + b2n m) k d.toNat a.toNat b.toNat) s

/-- R155. Integer multiply per element. -/
def execVimul (k : Bool) (d a b : BitVec 7) (m : Bool) (s : State) : Out1 :=
  issue (.vimul k d a b m) (wordR 0x27 (4 + b2n m) k d.toNat a.toNat b.toNat) s

/-- R155. High half of the integer product per element. -/
def execVimulh (k : Bool) (d a b : BitVec 7) (m : Bool) (s : State) : Out1 :=
  issue (.vimulh k d a b m) (wordR 0x27 (6 + b2n m) k d.toNat a.toNat b.toNat) s

/-- R155. Integer minimum per element. -/
def execVimin (k : Bool) (d a b : BitVec 7) (m : Bool) (s : State) : Out1 :=
  issue (.vimin k d a b m) (wordR 0x27 (8 + b2n m) k d.toNat a.toNat b.toNat) s

/-- R155. Integer maximum per element. -/
def execVimax (k : Bool) (d a b : BitVec 7) (m : Bool) (s : State) : Out1 :=
  issue (.vimax k d a b m) (wordR 0x27 (10 + b2n m) k d.toNat a.toNat b.toNat) s

/-- R155. Integer divide per element, all ones and DZ for a zero divisor. -/
def execVidiv (k : Bool) (d a b : BitVec 7) (m : Bool) (s : State) : Out1 :=
  issue (.vidiv k d a b m) (wordR 0x27 (12 + b2n m) k d.toNat a.toNat b.toNat) s

/-- R155. Integer remainder per element. -/
def execVirem (k : Bool) (d a b : BitVec 7) (m : Bool) (s : State) : Out1 :=
  issue (.virem k d a b m) (wordR 0x27 (14 + b2n m) k d.toNat a.toNat b.toNat) s

/-- R156. Bitwise AND per element. -/
def execVand (k : Bool) (d a b : BitVec 7) (m : Bool) (s : State) : Out1 :=
  issue (.vand k d a b m) (wordR 0x28 (0 + b2n m) k d.toNat a.toNat b.toNat) s

/-- R156. Bitwise OR per element. -/
def execVor (k : Bool) (d a b : BitVec 7) (m : Bool) (s : State) : Out1 :=
  issue (.vor k d a b m) (wordR 0x28 (2 + b2n m) k d.toNat a.toNat b.toNat) s

/-- R156. Bitwise XOR per element. -/
def execVxor (k : Bool) (d a b : BitVec 7) (m : Bool) (s : State) : Out1 :=
  issue (.vxor k d a b m) (wordR 0x28 (4 + b2n m) k d.toNat a.toNat b.toNat) s

/-- R156. Shift left per element. -/
def execVsll (k : Bool) (d a b : BitVec 7) (m : Bool) (s : State) : Out1 :=
  issue (.vsll k d a b m) (wordR 0x28 (6 + b2n m) k d.toNat a.toNat b.toNat) s

/-- R156. Logical shift right per element. -/
def execVsrl (k : Bool) (d a b : BitVec 7) (m : Bool) (s : State) : Out1 :=
  issue (.vsrl k d a b m) (wordR 0x28 (8 + b2n m) k d.toNat a.toNat b.toNat) s

/-- R156. Arithmetic shift right per element. -/
def execVsra (k : Bool) (d a b : BitVec 7) (m : Bool) (s : State) : Out1 :=
  issue (.vsra k d a b m) (wordR 0x28 (10 + b2n m) k d.toNat a.toNat b.toNat) s

/-- R156. Integer add of a scalar per element. -/
def execViaddVx (k : Bool) (d a b : BitVec 7) (m : Bool) (s : State) : Out1 :=
  issue (.viaddVx k d a b m) (wordR 0x29 (0 + b2n m) k d.toNat a.toNat b.toNat) s

/-- R156. Integer multiply by a scalar per element. -/
def execVimulVx (k : Bool) (d a b : BitVec 7) (m : Bool) (s : State) : Out1 :=
  issue (.vimulVx k d a b m) (wordR 0x29 (2 + b2n m) k d.toNat a.toNat b.toNat) s

/-- R156. Bitwise AND with a scalar. -/
def execVandVx (k : Bool) (d a b : BitVec 7) (m : Bool) (s : State) : Out1 :=
  issue (.vandVx k d a b m) (wordR 0x29 (4 + b2n m) k d.toNat a.toNat b.toNat) s

/-- R156. Bitwise OR with a scalar. -/
def execVorVx (k : Bool) (d a b : BitVec 7) (m : Bool) (s : State) : Out1 :=
  issue (.vorVx k d a b m) (wordR 0x29 (6 + b2n m) k d.toNat a.toNat b.toNat) s

/-- R156. Bitwise XOR with a scalar. -/
def execVxorVx (k : Bool) (d a b : BitVec 7) (m : Bool) (s : State) : Out1 :=
  issue (.vxorVx k d a b m) (wordR 0x29 (8 + b2n m) k d.toNat a.toNat b.toNat) s

/-- R156. Shift left by a scalar. -/
def execVsllVx (k : Bool) (d a b : BitVec 7) (m : Bool) (s : State) : Out1 :=
  issue (.vsllVx k d a b m) (wordR 0x29 (10 + b2n m) k d.toNat a.toNat b.toNat) s

/-- R156. Logical shift right by a scalar. -/
def execVsrlVx (k : Bool) (d a b : BitVec 7) (m : Bool) (s : State) : Out1 :=
  issue (.vsrlVx k d a b m) (wordR 0x29 (12 + b2n m) k d.toNat a.toNat b.toNat) s

/-- R156. Arithmetic shift right by a scalar. -/
def execVsraVx (k : Bool) (d a b : BitVec 7) (m : Bool) (s : State) : Out1 :=
  issue (.vsraVx k d a b m) (wordR 0x29 (14 + b2n m) k d.toNat a.toNat b.toNat) s

/-- R157. Converts elements from EW to the named format, scaling FP8 sides. -/
def execVcvtTo (k : Bool) (d a : BitVec 7) (f : BitVec 4) (m : Bool) (s : State) : Out1 :=
  issue (.vcvtTo k d a f m) (wordR 0x2A (0 + b2n m) k d.toNat a.toNat f.toNat) s

/-- R157. Converts elements from the named format to EW. -/
def execVcvtFrom (k : Bool) (d a : BitVec 7) (f : BitVec 4) (m : Bool) (s : State) : Out1 :=
  issue (.vcvtFrom k d a f m) (wordR 0x2A (2 + b2n m) k d.toNat a.toNat f.toNat) s

/-- R158. Tree-sums elements 0..VL-1 into element 0, committing as a whole. -/
def execVredsum (k : Bool) (d a : BitVec 7) (m : Bool) (s : State) : Out1 :=
  issue (.vredsum k d a m) (wordR 0x2B (0 + b2n m) k d.toNat a.toNat 0) s

/-- R158. Tree maximum into element 0. -/
def execVredmax (k : Bool) (d a : BitVec 7) (m : Bool) (s : State) : Out1 :=
  issue (.vredmax k d a m) (wordR 0x2B (2 + b2n m) k d.toNat a.toNat 0) s

/-- R158. Tree minimum into element 0. -/
def execVredmin (k : Bool) (d a : BitVec 7) (m : Bool) (s : State) : Out1 :=
  issue (.vredmin k d a m) (wordR 0x2B (4 + b2n m) k d.toNat a.toNat 0) s

/-- R158. Tree AND of integer elements into element 0. -/
def execVredand (k : Bool) (d a : BitVec 7) (m : Bool) (s : State) : Out1 :=
  issue (.vredand k d a m) (wordR 0x2B (6 + b2n m) k d.toNat a.toNat 0) s

/-- R158. Tree OR of integer elements into element 0. -/
def execVredor (k : Bool) (d a : BitVec 7) (m : Bool) (s : State) : Out1 :=
  issue (.vredor k d a m) (wordR 0x2B (8 + b2n m) k d.toNat a.toNat 0) s

/-- R158. Tree XOR of integer elements into element 0. -/
def execVredxor (k : Bool) (d a : BitVec 7) (m : Bool) (s : State) : Out1 :=
  issue (.vredxor k d a m) (wordR 0x2B (10 + b2n m) k d.toNat a.toNat 0) s

/-- R159. Sets each element's value to its index. -/
def execVid (k : Bool) (d : BitVec 7) (m : Bool) (s : State) : Out1 :=
  issue (.vid k d m) (wordR 0x2C (0 + b2n m) k d.toNat 0 0) s

/-- R160. Slides va up by a scalar count. -/
def execVslideup (k : Bool) (d a b : BitVec 7) (m : Bool) (s : State) : Out1 :=
  issue (.vslideup k d a b m) (wordR 0x2C (2 + b2n m) k d.toNat a.toNat b.toNat) s

/-- R160. Slides va down by a scalar count, filling with zero. -/
def execVslidedn (k : Bool) (d a b : BitVec 7) (m : Bool) (s : State) : Out1 :=
  issue (.vslidedn k d a b m) (wordR 0x2C (4 + b2n m) k d.toNat a.toNat b.toNat) s

/-- R160. Permutes va by indices in vb. -/
def execVshuf (k : Bool) (d a b : BitVec 7) (m : Bool) (s : State) : Out1 :=
  issue (.vshuf k d a b m) (wordR 0x2C (6 + b2n m) k d.toNat a.toNat b.toNat) s

/-- R160. Packs selected elements of va to the low positions of vd. -/
def execVcompress (k : Bool) (d a : BitVec 7) (s : State) : Out1 :=
  issue (.vcompress k d a) (wordR 0x2C 8 k d.toNat a.toNat 0) s

/-- R159. Broadcasts a scalar element to every active element. -/
def execVbcast (k : Bool) (d a : BitVec 7) (m : Bool) (s : State) : Out1 :=
  issue (.vbcast k d a m) (wordR 0x2C (10 + b2n m) k d.toNat a.toNat 0) s

/-- R161. Fills elements with raw Hail bits. -/
def execVhail (k : Bool) (d a : BitVec 7) (m : Bool) (s : State) : Out1 :=
  issue (.vhail k d a m) (wordR 0x2D (0 + b2n m) k d.toNat a.toNat 0) s

/-- R162. Writes Bernoulli mask bits from Hail. -/
def execVbern (k : Bool) (d : BitVec 3) (a b : BitVec 7) (s : State) : Out1 :=
  issue (.vbern k d a b) (wordR 0x2D 2 k d.toNat a.toNat b.toNat) s

/-- R163. Writes tangent plane k with Rademacher, one-hot or zero values. -/
def execVseed (k : Bool) (d a b : BitVec 7) (m : Bool) (s : State) : Out1 :=
  issue (.vseed k d a b m) (wordR 0x2E (0 + b2n m) k d.toNat a.toNat b.toNat) s

/-- R164. Writes +0 to every tangent of active elements. -/
def execVtclr (k : Bool) (d : BitVec 7) (m : Bool) (s : State) : Out1 :=
  issue (.vtclr k d m) (wordR 0x2E (2 + b2n m) k d.toNat 0 0) s

/-- R165. Moves tangent plane k into the value. -/
def execVtget (k : Bool) (d a b : BitVec 7) (m : Bool) (s : State) : Out1 :=
  issue (.vtget k d a b m) (wordR 0x2E (4 + b2n m) k d.toNat a.toNat b.toNat) s

/-- R165. Moves the value into tangent plane k. -/
def execVtset (k : Bool) (d a b : BitVec 7) (m : Bool) (s : State) : Out1 :=
  issue (.vtset k d a b m) (wordR 0x2E (6 + b2n m) k d.toNat a.toNat b.toNat) s

/-- R166. Applies a forward-gradient update from regenerated Rademacher directions. -/
def execVfgu (k : Bool) (d a b : BitVec 7) (m : Bool) (s : State) : Out1 :=
  issue (.vfgu k d a b m) (wordR 0x2E (8 + b2n m) k d.toNat a.toNat b.toNat) s

end Sys2Proof.Machine
end

