-- ==== Sys2Proof/Machine/IssueMatrix.lean ====
section
/-! DEFINITION. The words of the multiplying and draining matrix words (R224, R231), the copy words (R238 to R241) and vdfix (R325) at issue: each enters the vector queue with its captured operands; what it does there
is the element loop of its convoy (Convoy.lean). -/

namespace Sys2Proof.Machine

open Sys2Proof

/-- R224. Accumulates a dense BF16 product into tile groups. -/
def execMmulBf16 (k : Bool) (d : BitVec 4) (a b : BitVec 7) (s' : Bool) (s : State) : Out1 :=
  issue (.mmulBf16 k d a b s') (wordR 0x39 (0 + b2n s') k d.toNat a.toNat b.toNat) s

/-- R224. Accumulates a dense E4M3 product. -/
def execMmulE4m3 (k : Bool) (d : BitVec 4) (a b : BitVec 7) (s' : Bool) (s : State) : Out1 :=
  issue (.mmulE4m3 k d a b s') (wordR 0x39 (2 + b2n s') k d.toNat a.toNat b.toNat) s

/-- R224. Accumulates a dense E5M2 product. -/
def execMmulE5m2 (k : Bool) (d : BitVec 4) (a b : BitVec 7) (s' : Bool) (s : State) : Out1 :=
  issue (.mmulE5m2 k d a b s') (wordR 0x39 (4 + b2n s') k d.toNat a.toNat b.toNat) s

/-- R224. Accumulates an NP4 by I8 product. -/
def execMmulNp4 (k : Bool) (d : BitVec 4) (a b : BitVec 7) (s' : Bool) (s : State) : Out1 :=
  issue (.mmulNp4 k d a b s') (wordR 0x39 (6 + b2n s') k d.toNat a.toNat b.toNat) s

/-- R224. Accumulates an NP2 by I8 product. -/
def execMmulNp2 (k : Bool) (d : BitVec 4) (a b : BitVec 7) (s' : Bool) (s : State) : Out1 :=
  issue (.mmulNp2 k d a b s') (wordR 0x39 (8 + b2n s') k d.toNat a.toNat b.toNat) s

/-- R224. Accumulates a sparse BF16 product. -/
def execMmulSpBf16 (k : Bool) (d : BitVec 4) (a b : BitVec 7) (s' : Bool) (s : State) : Out1 :=
  issue (.mmulSpBf16 k d a b s') (wordR 0x3A (0 + b2n s') k d.toNat a.toNat b.toNat) s

/-- R224. Accumulates a sparse E4M3 product. -/
def execMmulSpE4m3 (k : Bool) (d : BitVec 4) (a b : BitVec 7) (s' : Bool) (s : State) : Out1 :=
  issue (.mmulSpE4m3 k d a b s') (wordR 0x3A (2 + b2n s') k d.toNat a.toNat b.toNat) s

/-- R224. Accumulates a sparse E5M2 product. -/
def execMmulSpE5m2 (k : Bool) (d : BitVec 4) (a b : BitVec 7) (s' : Bool) (s : State) : Out1 :=
  issue (.mmulSpE5m2 k d a b s') (wordR 0x3A (4 + b2n s') k d.toNat a.toNat b.toNat) s

/-- R224. Sparse NP4 form, refused with OPND since sparsity excludes it. -/
def execMmulSpNp4 (k : Bool) (d : BitVec 4) (a b : BitVec 7) (s' : Bool) (s : State) : Out1 :=
  issue (.mmulSpNp4 k d a b s') (wordR 0x3A (6 + b2n s') k d.toNat a.toNat b.toNat) s

/-- R224. Sparse NP2 form, refused with OPND since sparsity excludes it. -/
def execMmulSpNp2 (k : Bool) (d : BitVec 4) (a b : BitVec 7) (s' : Bool) (s : State) : Out1 :=
  issue (.mmulSpNp2 k d a b s') (wordR 0x3A (8 + b2n s') k d.toNat a.toNat b.toNat) s

/-- R231. Stores tile elements at unit stride through the vector store unit. -/
def execMdrain (k : Bool) (d : BitVec 4) (a : BitVec 7) (m : Bool) (s : State) : Out1 :=
  issue (.mdrain k d a m) (wordR 0x3B (0 + b2n m) k d.toNat a.toNat 0) s

/-- R231. Stores tile rows at a stride. -/
def execMdrainS (k : Bool) (d : BitVec 4) (a b : BitVec 7) (m : Bool) (s : State) : Out1 :=
  issue (.mdrainS k d a b m) (wordR 0x3B (2 + b2n m) k d.toNat a.toNat b.toNat) s

/-- R231. Stores tile elements at indexed addresses. -/
def execMdrainX (k : Bool) (d : BitVec 4) (a b : BitVec 7) (m : Bool) (s : State) : Out1 :=
  issue (.mdrainX k d a b m) (wordR 0x3B (4 + b2n m) k d.toNat a.toNat b.toNat) s

/-- R239. Once-acting write of one copy-program register. -/
def execCpl (k : Bool) (d : BitVec 3) (a b : BitVec 7) (s : State) : Out1 :=
  issue (.cpl k d a b) (wordR 0x3C 0 k d.toNat a.toNat b.toNat) s

/-- R241. Checks and accepts a copy into memory or buffers. -/
def execCpgo (k : Bool) (a b : BitVec 7) (s : State) : Out1 :=
  issue (.cpgo k a b) (wordR 0x3C 1 k 0 a.toNat b.toNat) s

/-- R241. Checks and accepts a copy into a register group, clearing landed bits. -/
def execCpv (k : Bool) (d a b : BitVec 7) (s : State) : Out1 :=
  issue (.cpv k d a b) (wordR 0x3C 2 k d.toNat a.toNat b.toNat) s

/-- R325. Repairs an index vector through drift marks. -/
def execVdfix (k : Bool) (d a b : BitVec 7) (s : State) : Out1 :=
  issue (.vdfix k d a b) (wordR 0x3C 5 k d.toNat a.toNat b.toNat) s

end Sys2Proof.Machine
end

