-- ==== Sys2Proof/Machine/IssueMem.lean ====
section
/-! DEFINITION. The words of majors 0x30 to 0x35 (R167 to R185) at issue: each enters the vector queue with its captured operands; what it does there
is the element loop of its convoy (Convoy.lean). -/

namespace Sys2Proof.Machine

open Sys2Proof

/-- R172. Unit-stride vector load. -/
def execVld (k : Bool) (d a : BitVec 7) (m : Bool) (s : State) : Out1 :=
  issue (.vld k d a m) (wordR 0x30 (0 + b2n m) k d.toNat a.toNat 0) s

/-- R172. Strided vector load. -/
def execVlds (k : Bool) (d a b : BitVec 7) (m : Bool) (s : State) : Out1 :=
  issue (.vlds k d a b m) (wordR 0x30 (2 + b2n m) k d.toNat a.toNat b.toNat) s

/-- R172. Indexed vector load. -/
def execVldx (k : Bool) (d a b : BitVec 7) (m : Bool) (s : State) : Out1 :=
  issue (.vldx k d a b m) (wordR 0x30 (4 + b2n m) k d.toNat a.toNat b.toNat) s

/-- R173. Unit-stride ordered vector store. -/
def execVst (k : Bool) (d a : BitVec 7) (m : Bool) (s : State) : Out1 :=
  issue (.vst k d a m) (wordR 0x30 (6 + b2n m) k d.toNat a.toNat 0) s

/-- R173. Unit-stride unordered vector store. -/
def execVstU (k : Bool) (d a : BitVec 7) (m : Bool) (s : State) : Out1 :=
  issue (.vstU k d a m) (wordR 0x30 (8 + b2n m) k d.toNat a.toNat 0) s

/-- R173. Strided ordered vector store. -/
def execVsts (k : Bool) (d a b : BitVec 7) (m : Bool) (s : State) : Out1 :=
  issue (.vsts k d a b m) (wordR 0x30 (10 + b2n m) k d.toNat a.toNat b.toNat) s

/-- R173. Indexed ordered vector store. -/
def execVstx (k : Bool) (d a b : BitVec 7) (m : Bool) (s : State) : Out1 :=
  issue (.vstx k d a b m) (wordR 0x30 (12 + b2n m) k d.toNat a.toNat b.toNat) s

/-- R173. Indexed unordered vector store. -/
def execVstxU (k : Bool) (d a b : BitVec 7) (m : Bool) (s : State) : Out1 :=
  issue (.vstxU k d a b m) (wordR 0x30 (14 + b2n m) k d.toNat a.toNat b.toNat) s

/-- R175. Loads elements from the core's W buffer, optionally transposing or waiting on full-empty bits. -/
def execVldw (k : Bool) (d a : BitVec 7) (p e : BitVec 2) (m : Bool) (s : State) : Out1 :=
  issue (.vldw k d a p e m) (wordR 0x31 (0 + b2n m) k d.toNat a.toNat (p.toNat * 4 + e.toNat)) s

/-- R175. Stores elements to the W buffer. -/
def execVstw (k : Bool) (d a : BitVec 7) (e m : Bool) (s : State) : Out1 :=
  issue (.vstw k d a e m) (wordR 0x31 (2 + b2n m) k d.toNat a.toNat (b2n e)) s

/-- R175. Loads from a local or remote A buffer. -/
def execVlda (k : Bool) (d a : BitVec 7) (r : Bool) (p e : BitVec 2) (m : Bool) (s : State) : Out1 :=
  issue (.vlda k d a r p e m) (wordR 0x31 (4 + b2n m) k d.toNat a.toNat (b2n r * 64 + p.toNat * 4 + e.toNat)) s

/-- R175. Stores to a local or remote A buffer. -/
def execVsta (k : Bool) (d a : BitVec 7) (r e m : Bool) (s : State) : Out1 :=
  issue (.vsta k d a r e m) (wordR 0x31 (6 + b2n m) k d.toNat a.toNat (b2n r * 64 + b2n e)) s

/-- R175. Loads from a local or remote C buffer. -/
def execVldc (k : Bool) (d a : BitVec 7) (r : Bool) (p e : BitVec 2) (m : Bool) (s : State) : Out1 :=
  issue (.vldc k d a r p e m) (wordR 0x31 (8 + b2n m) k d.toNat a.toNat (b2n r * 64 + p.toNat * 4 + e.toNat)) s

/-- R175. Stores to a local or remote C buffer. -/
def execVstc (k : Bool) (d a : BitVec 7) (r e m : Bool) (s : State) : Out1 :=
  issue (.vstc k d a r e m) (wordR 0x31 (10 + b2n m) k d.toNat a.toNat (b2n r * 64 + b2n e)) s

/-- R179. Unordered indexed atomic add per element. -/
def execVaadd (k : Bool) (d a b : BitVec 7) (m : Bool) (s : State) : Out1 :=
  issue (.vaadd k d a b m) (wordR 0x32 (0 + b2n m) k d.toNat a.toNat b.toNat) s

/-- R179. Unordered indexed atomic swap. -/
def execVaswap (k : Bool) (d a b : BitVec 7) (m : Bool) (s : State) : Out1 :=
  issue (.vaswap k d a b m) (wordR 0x32 (2 + b2n m) k d.toNat a.toNat b.toNat) s

/-- R179. Unordered indexed atomic signed maximum. -/
def execVamax (k : Bool) (d a b : BitVec 7) (m : Bool) (s : State) : Out1 :=
  issue (.vamax k d a b m) (wordR 0x32 (4 + b2n m) k d.toNat a.toNat b.toNat) s

/-- R179. Unordered indexed atomic signed minimum. -/
def execVamin (k : Bool) (d a b : BitVec 7) (m : Bool) (s : State) : Out1 :=
  issue (.vamin k d a b m) (wordR 0x32 (6 + b2n m) k d.toNat a.toNat b.toNat) s

/-- R179. Unordered indexed atomic natural maximum. -/
def execVamaxn (k : Bool) (d a b : BitVec 7) (m : Bool) (s : State) : Out1 :=
  issue (.vamaxn k d a b m) (wordR 0x32 (8 + b2n m) k d.toNat a.toNat b.toNat) s

/-- R179. Unordered indexed atomic natural minimum. -/
def execVaminn (k : Bool) (d a b : BitVec 7) (m : Bool) (s : State) : Out1 :=
  issue (.vaminn k d a b m) (wordR 0x32 (10 + b2n m) k d.toNat a.toNat b.toNat) s

/-- R179. Unordered indexed atomic AND. -/
def execVaand (k : Bool) (d a b : BitVec 7) (m : Bool) (s : State) : Out1 :=
  issue (.vaand k d a b m) (wordR 0x32 (12 + b2n m) k d.toNat a.toNat b.toNat) s

/-- R179. Unordered indexed atomic OR. -/
def execVaor (k : Bool) (d a b : BitVec 7) (m : Bool) (s : State) : Out1 :=
  issue (.vaor k d a b m) (wordR 0x32 (14 + b2n m) k d.toNat a.toNat b.toNat) s

/-- R180. Ordered indexed atomic add, each element performed before the next. -/
def execVaaddO (k : Bool) (d a b : BitVec 7) (m : Bool) (s : State) : Out1 :=
  issue (.vaaddO k d a b m) (wordR 0x33 (0 + b2n m) k d.toNat a.toNat b.toNat) s

/-- R180. Ordered indexed atomic swap. -/
def execVaswapO (k : Bool) (d a b : BitVec 7) (m : Bool) (s : State) : Out1 :=
  issue (.vaswapO k d a b m) (wordR 0x33 (2 + b2n m) k d.toNat a.toNat b.toNat) s

/-- R180. Ordered indexed atomic signed maximum. -/
def execVamaxO (k : Bool) (d a b : BitVec 7) (m : Bool) (s : State) : Out1 :=
  issue (.vamaxO k d a b m) (wordR 0x33 (4 + b2n m) k d.toNat a.toNat b.toNat) s

/-- R180. Ordered indexed atomic signed minimum. -/
def execVaminO (k : Bool) (d a b : BitVec 7) (m : Bool) (s : State) : Out1 :=
  issue (.vaminO k d a b m) (wordR 0x33 (6 + b2n m) k d.toNat a.toNat b.toNat) s

/-- R180. Ordered indexed atomic natural maximum. -/
def execVamaxnO (k : Bool) (d a b : BitVec 7) (m : Bool) (s : State) : Out1 :=
  issue (.vamaxnO k d a b m) (wordR 0x33 (8 + b2n m) k d.toNat a.toNat b.toNat) s

/-- R180. Ordered indexed atomic natural minimum. -/
def execVaminnO (k : Bool) (d a b : BitVec 7) (m : Bool) (s : State) : Out1 :=
  issue (.vaminnO k d a b m) (wordR 0x33 (10 + b2n m) k d.toNat a.toNat b.toNat) s

/-- R180. Ordered indexed atomic AND. -/
def execVaandO (k : Bool) (d a b : BitVec 7) (m : Bool) (s : State) : Out1 :=
  issue (.vaandO k d a b m) (wordR 0x33 (12 + b2n m) k d.toNat a.toNat b.toNat) s

/-- R180. Ordered indexed atomic OR. -/
def execVaorO (k : Bool) (d a b : BitVec 7) (m : Bool) (s : State) : Out1 :=
  issue (.vaorO k d a b m) (wordR 0x33 (14 + b2n m) k d.toNat a.toNat b.toNat) s

/-- R183. Loads records through a strip handle and advances POS. -/
def execVsld (k : Bool) (d : BitVec 7) (a : BitVec 5) (m : Bool) (s : State) : Out1 :=
  issue (.vsld k d a m) (wordR 0x34 (0 + b2n m) k d.toNat a.toNat 0) s

/-- R183. Stores records through a strip handle and advances POS. -/
def execVsst (k : Bool) (d : BitVec 7) (a : BitVec 5) (m : Bool) (s : State) : Out1 :=
  issue (.vsst k d a m) (wordR 0x34 (2 + b2n m) k d.toNat a.toNat 0) s

/-- R183. Loads through a handle and binds the register to it. -/
def execVbind (k : Bool) (d : BitVec 7) (a : BitVec 5) (s : State) : Out1 :=
  issue (.vbind k d a) (wordR 0x34 4 k d.toNat a.toNat 0) s

/-- R183. Writes the bound register back to its strip and unbinds it. -/
def execVunbind (k : Bool) (d : BitVec 7) (a : BitVec 5) (s : State) : Out1 :=
  issue (.vunbind k d a) (wordR 0x34 6 k d.toNat a.toNat 0) s

/-- R182. Loads a 32-byte strip descriptor into a handle. -/
def execHset (k : Bool) (a : BitVec 5) (b : BitVec 7) (s : State) : Out1 :=
  issue (.hset k a b) (wordR 0x34 8 k 0 a.toNat b.toNat) s

/-- R184. Loads scale-file entries from memory. -/
def execVscl (k : Bool) (a b : BitVec 7) (s : State) : Out1 :=
  issue (.vscl k a b) (wordR 0x34 10 k 0 a.toNat b.toNat) s

/-- R185. Loads a nested-plane tensor at q of P planes into float elements. -/
def execVldnp (k : Bool) (d a : BitVec 7) (p : BitVec 3) (q : BitVec 4) (m : Bool) (s : State) : Out1 :=
  issue (.vldnp k d a p q m) (wordR 0x35 (0 + b2n m) k d.toNat a.toNat (p.toNat * 16 + q.toNat)) s

end Sys2Proof.Machine
end

