-- ==== Sys2Proof/Machine/Paging.lean ====
section
/-! DEFINITION. Page requests, their answers, and ATS invalidation (R348 to R351, R426). -/

namespace Sys2Proof.Machine

open Sys2Proof

/-- Slot k of the pending table (R349). -/
def State.slot (s : State) (k : Nat) : PageSlot := Tbl.get PageSlot.free s.slots k

/-- A slot is allocated: its request is out, or it is DEAD (R350). -/
def PageSlot.taken (p : PageSlot) : Bool := p.dead || p.req.isSome

/-- Numbers of a Page Request Message (R349): slot, page address, PASID present and value, read, write, execute, privileged, last. -/
def State.pageMessage (s : State) (k : Nat) (r : PageReq) : List Nat :=
  let pasid := s.pasidEnabled && (s.launch r.lno).any (·.pasen)
  [k, r.page * 65536, b2n pasid, if pasid then r.pasid else 0, r.need % 2, r.need / 2 % 2, r.need / 4 % 2, r.need / 8 % 2, 1]

/-- R349. The oldest request that waits goes out in a free slot, whose GEN advances. -/
def execPageRequest (s : State) : Out1 :=
  match s.pageWait, (List.range (min 512 s.prgSlots)).find? (fun k => !(s.slot k).taken) with
  | r :: rest, some k =>
    if !s.prgEnabled then .next s
    else
      let p : PageSlot := { gen := ((s.slot k).gen + 1) % 256, dead := false, req := some r }
      .next ({ s with pageWait := rest, slots := Tbl.set s.slots k p }.send .pageRequest (s.pageMessage k r))
  | _, _ => .next s

/-- Take a slot's allocation away; its GEN stays. -/
def State.freeSlotK (s : State) (k : Nat) : State :=
  { s with slots := Tbl.set s.slots k { s.slot k with dead := false, req := none } }

/-- A waiter goes on after a Success (R348, R350, R376, R395, R454, R470). -/
def State.resumeWaiter (s : State) : Waiter → State
  | .task t | .block _ t => s.updTask t (fun t => if t.st == .pagewait then t.toReady s.time else t)
  | .copy c n => s.updCore c (fun k => { k with copies := k.copies.map (fun j => if j.ident = n then { j with held := false } else j) })
  | .gather n => s.updGather n (fun g => { g with held := false })
  | .jet _ _ => s
  | .net l q => s.updWork l q (fun w => { w with held := false })
  | .netTarget _ _ _ _ | .jetTarget _ _ _ _ _ => s
  | .errRing l => (s.updLaunch l (fun x => { x with eqHeld := false })).flushErrors l
  | .sounding l => match s.snd l with
    | some d => (s.setSnd l { d with held := false }).sndWrite l
    | none => s

/-- The record at the head of a launch's error queue goes to the log only (R376). -/
def State.dropError (s : State) (lno : Nat) : State :=
  match s.launch lno with
  | some l => match l.errq with
    | r :: rs => ((s.logError lno r).updLaunch lno (fun l => { l with errq := rs, eqHeld := false })).flushErrors lno
    | [] => s.updLaunch lno (fun l => { l with eqHeld := false })
  | none => s

/-- A waiter fails with its page (R348, R350): `va` is the address it met, `gen` the slot's. -/
def State.failWaiter (s : State) (lno gen va : Nat) : Waiter → State
  | .task t | .block _ t => s.terminateTask t cPGFAIL (word va) va (gen * 256)
  | .copy c n => match (s.core c).copies.find? (fun j => j.ident == n) with
    | some j => s.terminateTask j.task cPGFAIL (word va) va (gen * 256 + 1)
    | none => s
  | .gather n => match s.gathers.find? (fun g => g.ident == n) with
    | some g => s.terminateTask g.task cPGFAIL (word va) va (gen * 256 + 2)
    | none => s
  | .jet g n => s.pageFailRun g n va gen
  | .net l q => match s.findWork l q with
    | some w => s.failWork w nLOCAL
    | none => s
  | .netTarget _ peer rod psn =>
    (s.launchRecord lno cPGFAIL (word va) va (gen * 256 + 4)).acknowledge rod peer (some (psn, nRPGFAIL))
  | .jetTarget _ comm peer lane chunk =>
    (s.launchRecord lno cPGFAIL (word va) va (gen * 256 + 3)).ackJet peer comm lane chunk 0 jACCESS
  | .errRing l => s.dropError l
  | .sounding l => match s.launch l with
    | some x => s.sndDrop l x.blockAt
    | none => s

/-- The request of slot k fails: every waiter does (R350). -/
def State.failSlot (s : State) (k : Nat) : State :=
  match (s.slot k).req with
  | none => s
  | some r =>
    let gen := (s.slot k).gen
    r.waiters.foldl (fun s w => s.failWaiter r.lno gen w.2 w.1) (s.freeSlotK k)

/-- A response that names slot k: discarded for a DEAD slot, discarded and logged for a free one (R350), else acted on. -/
def State.prgResponse (s : State) (k : Nat) (act : PageReq → State) : State :=
  let p := s.slot k
  if p.dead then s.freeSlotK k
  else match p.req with
    | none => s.logHealth 10 0 0 0 0 (k * 256 + p.gen)
    | some r => act r

/-- The page is still invalid after a Success (R350): the walk to it meets an entry with TYPE = 0, or ATS denies the host address again
(R351), which the host decides. -/
def State.pageMissing (s : State) (r : PageReq) : Bool :=
  if r.host then !Config.freeBool s.fresh else s.walk r.lno [] (r.page * 65536) 4 (s.rootOf r.lno) [] == .miss

/-- R350. Success: the waiting walks run again; a third one in a row that leaves the page invalid counts as Invalid Request. -/
def execPrgSuccess (slot : Nat) (s : State) : Out1 :=
  .next (s.prgResponse slot (fun r =>
    let t : State := { s with fresh := s.fresh + 1 }
    if s.pageMissing r then
      if 3 ≤ r.tries + 1 then t.failSlot slot
      else let t := t.freeSlotK slot; { t with pageWait := t.pageWait ++ [{ r with tries := r.tries + 1 }] }
    else
      let t := if r.host then { t with mmu := { t.mmu with ats := (r.page :: t.mmu.ats).take 1024 } } else t
      r.waiters.foldl (fun s w => s.resumeWaiter w.1) (t.freeSlotK slot)))

/-- R350. Invalid Request: every waiter's task ends with PGFAIL. -/
def execPrgInvalidRequest (slot : Nat) (s : State) : Out1 := .next (s.prgResponse slot (fun _ => s.failSlot slot))

/-- R350. Response Failure: as Invalid Request, and no request goes out any more. -/
def execPrgResponseFailure (slot : Nat) (s : State) : Out1 :=
  .next (s.prgResponse slot (fun _ => { s.failSlot slot with prgEnabled := false }))

/-- R351. The host invalidates a translation: it leaves the cache, and the completion goes back. -/
def execAtsInvalidate (page : Nat) (s : State) : Out1 :=
  .next (State.send { s with mmu := { s.mmu with ats := s.mmu.ats.filter (· != page) } } .atsComplete [page])

end Sys2Proof.Machine
end

