-- ==== Sys2Proof/Machine/ScalarFp.lean ====
section
/-! DEFINITION. Scalar FP32 words (R121, R122). -/

namespace Sys2Proof.Machine

open Sys2Proof

/-- The rounding mode of a scalar FP32 word: SR acts as RNE (R121). -/
def Ctx.scalarRm (c : Ctx) : Rm := match c.rm with | .sr => .rne | r => r

/-- The FP32 value in bits [31:0] of a register (R121). -/
def fpOf (w : Word) : Num := fp32.decode (w.toNat % 2 ^ 32)

/-- Round to FP32 as the scalar front does. -/
def Ctx.roundS (c : Ctx) (x : Num) : Nat × Ev := roundNum fp32 c.sat c.scalarRm 0 x

/-- Write the result and the events of a scalar FP32 word: FV collects them (R121). -/
def fpWrite (k : Bool) (w : Nat) (d : BitVec 7) (r : Nat × Ev) (s : State) : Out1 :=
  if k then .next (((s.setX s.turn d (word r.1)).updCtx s.turn (fun c => { c with fv := c.fv ||| r.2 })).retire s.turn)
  else .next (s.trapEntry s.turn cCONV (word w))

/-- A result computed exactly and rounded once, with its operation's events. -/
def Ctx.roundOp (c : Ctx) (x : Num × Ev) : Nat × Ev :=
  let r := c.roundS x.1
  (r.1, r.2 ||| x.2)

/-- min and max (R121): the operand bit for bit, a on equal values, the canonical NaN for a NaN; NV for a signalling NaN. -/
def pickFp (f : Fmt) (max : Bool) (a b : Nat) : Nat × Ev :=
  let x := f.decode a
  let y := f.decode b
  if x.isNaN || y.isNaN then (f.qnan, snanEv [x, y])
  else if max then (if ltNum x y then b else a, 0) else (if ltNum y x then b else a, 0)

/-- A comparison (R121, R122): false for a NaN; `strict` words raise NV for a quiet NaN too. -/
def cmpFp (strict : Bool) (x y : Num) (r : Bool) : Nat × Ev :=
  if x.isNaN || y.isNaN then (0, if strict then evNV else snanEv [x, y]) else (b2n r, 0)

/-- R121. Round(a + b). -/
def execFadd (k : Bool) (d a b : BitVec 7) (s : State) : Out1 :=
  fpWrite k (wordR 0x02 0 k d.toNat a.toNat b.toNat) d ((s.ctx s.turn).roundOp (addNum (s.ctx s.turn).scalarRm (fpOf (s.x s.turn a)) (fpOf (s.x s.turn b)))) s

/-- R121. Round(a - b). -/
def execFsub (k : Bool) (d a b : BitVec 7) (s : State) : Out1 :=
  fpWrite k (wordR 0x02 1 k d.toNat a.toNat b.toNat) d ((s.ctx s.turn).roundOp (addNum (s.ctx s.turn).scalarRm (fpOf (s.x s.turn a)) (fpOf (s.x s.turn b)).negate)) s

/-- R121. Round(a · b). -/
def execFmul (k : Bool) (d a b : BitVec 7) (s : State) : Out1 :=
  fpWrite k (wordR 0x02 2 k d.toNat a.toNat b.toNat) d ((s.ctx s.turn).roundOp (mulNum (fpOf (s.x s.turn a)) (fpOf (s.x s.turn b)))) s

/-- R121. Round(a / b). -/
def execFdiv (k : Bool) (d a b : BitVec 7) (s : State) : Out1 :=
  fpWrite k (wordR 0x02 3 k d.toNat a.toNat b.toNat) d ((s.ctx s.turn).roundOp (divNum (fpOf (s.x s.turn a)) (fpOf (s.x s.turn b)))) s

/-- R121. Round(a·b + d), rounded once; d is x[d] on input. -/
def execFfma (k : Bool) (d a b : BitVec 7) (s : State) : Out1 :=
  fpWrite k (wordR 0x02 4 k d.toNat a.toNat b.toNat) d ((s.ctx s.turn).roundOp (fmaNum (s.ctx s.turn).scalarRm (fpOf (s.x s.turn a)) (fpOf (s.x s.turn b)) (fpOf (s.x s.turn d)))) s

/-- R121. Round(√a). -/
def execFsqrt (k : Bool) (d a : BitVec 7) (s : State) : Out1 :=
  fpWrite k (wordR 0x02 5 k d.toNat a.toNat 0) d ((s.ctx s.turn).roundOp (sqrtNum (fpOf (s.x s.turn a)))) s

/-- R121. The lesser operand. -/
def execFmin (k : Bool) (d a b : BitVec 7) (s : State) : Out1 :=
  fpWrite k (wordR 0x02 6 k d.toNat a.toNat b.toNat) d (pickFp fp32 false ((s.x s.turn a).toNat % 2 ^ 32) ((s.x s.turn b).toNat % 2 ^ 32)) s

/-- R121. The greater operand. -/
def execFmax (k : Bool) (d a b : BitVec 7) (s : State) : Out1 :=
  fpWrite k (wordR 0x02 7 k d.toNat a.toNat b.toNat) d (pickFp fp32 true ((s.x s.turn a).toNat % 2 ^ 32) ((s.x s.turn b).toNat % 2 ^ 32)) s

/-- R121. Equality, false for a NaN. -/
def execFeq (k : Bool) (d a b : BitVec 7) (s : State) : Out1 :=
  fpWrite k (wordR 0x02 8 k d.toNat a.toNat b.toNat) d (cmpFp false (fpOf (s.x s.turn a)) (fpOf (s.x s.turn b)) (eqNum (fpOf (s.x s.turn a)) (fpOf (s.x s.turn b)))) s

/-- R121. Less-than, false for a NaN. -/
def execFlt (k : Bool) (d a b : BitVec 7) (s : State) : Out1 :=
  fpWrite k (wordR 0x02 9 k d.toNat a.toNat b.toNat) d (cmpFp true (fpOf (s.x s.turn a)) (fpOf (s.x s.turn b)) (ltNum (fpOf (s.x s.turn a)) (fpOf (s.x s.turn b)))) s

/-- R121. Less-or-equal, false for a NaN. -/
def execFle (k : Bool) (d a b : BitVec 7) (s : State) : Out1 :=
  fpWrite k (wordR 0x02 10 k d.toNat a.toNat b.toNat) d (cmpFp true (fpOf (s.x s.turn a)) (fpOf (s.x s.turn b)) (!ltNum (fpOf (s.x s.turn b)) (fpOf (s.x s.turn a)))) s

/-- R121. FP32 to I64. -/
def execFcvtI (k : Bool) (d a : BitVec 7) (s : State) : Out1 :=
  fpWrite k (wordR 0x02 11 k d.toNat a.toNat 0) d (toInteger 64 true (s.ctx s.turn).sat (s.ctx s.turn).scalarRm 0 (fpOf (s.x s.turn a))) s

/-- R121. FP32 to N64. -/
def execFcvtN (k : Bool) (d a : BitVec 7) (s : State) : Out1 :=
  fpWrite k (wordR 0x02 12 k d.toNat a.toNat 0) d (toInteger 64 false (s.ctx s.turn).sat (s.ctx s.turn).scalarRm 0 (fpOf (s.x s.turn a))) s

/-- R121. I64 to FP32. -/
def execFcvtFi (k : Bool) (d a : BitVec 7) (s : State) : Out1 :=
  fpWrite k (wordR 0x02 13 k d.toNat a.toNat 0) d ((s.ctx s.turn).roundS (numOfInt (s.x s.turn a).toInt)) s

/-- R121. N64 to FP32. -/
def execFcvtFn (k : Bool) (d a : BitVec 7) (s : State) : Out1 :=
  fpWrite k (wordR 0x02 14 k d.toNat a.toNat 0) d ((s.ctx s.turn).roundS (numOfInt (s.x s.turn a).toNat)) s

end Sys2Proof.Machine
end

