-- ==== Sys2Proof/Machine/Dispatch.lean ====
section
/-! DEFINITION. exec: one arm for every constructor of Instr, each a direct call of its meaning. -/

namespace Sys2Proof.Machine

def exec (i : Instr) (s : State) : Host.Outcome State Fault Refusal :=
  match i with
  | .vadd k d a b m => Sys2Proof.Machine.execVadd k d a b m s
  | .vsub k d a b m => Sys2Proof.Machine.execVsub k d a b m s
  | .vmul k d a b m => Sys2Proof.Machine.execVmul k d a b m s
  | .vdiv k d a b m => Sys2Proof.Machine.execVdiv k d a b m s
  | .vmin k d a b m => Sys2Proof.Machine.execVmin k d a b m s
  | .vmax k d a b m => Sys2Proof.Machine.execVmax k d a b m s
  | .vaddVx k d a b m => Sys2Proof.Machine.execVaddVx k d a b m s
  | .vsubVx k d a b m => Sys2Proof.Machine.execVsubVx k d a b m s
  | .vmulVx k d a b m => Sys2Proof.Machine.execVmulVx k d a b m s
  | .vdivVx k d a b m => Sys2Proof.Machine.execVdivVx k d a b m s
  | .vminVx k d a b m => Sys2Proof.Machine.execVminVx k d a b m s
  | .vmaxVx k d a b m => Sys2Proof.Machine.execVmaxVx k d a b m s
  | .vfma k d a b m => Sys2Proof.Machine.execVfma k d a b m s
  | .vfms k d a b m => Sys2Proof.Machine.execVfms k d a b m s
  | .vfnma k d a b m => Sys2Proof.Machine.execVfnma k d a b m s
  | .vfnms k d a b m => Sys2Proof.Machine.execVfnms k d a b m s
  | .vfmaVx k d a b m => Sys2Proof.Machine.execVfmaVx k d a b m s
  | .vfmsVx k d a b m => Sys2Proof.Machine.execVfmsVx k d a b m s
  | .vfnmaVx k d a b m => Sys2Proof.Machine.execVfnmaVx k d a b m s
  | .vfnmsVx k d a b m => Sys2Proof.Machine.execVfnmsVx k d a b m s
  | .vsqrt k d a m => Sys2Proof.Machine.execVsqrt k d a m s
  | .vrsqrt k d a m => Sys2Proof.Machine.execVrsqrt k d a m s
  | .vexp k d a m => Sys2Proof.Machine.execVexp k d a m s
  | .vlog k d a m => Sys2Proof.Machine.execVlog k d a m s
  | .vtanh k d a m => Sys2Proof.Machine.execVtanh k d a m s
  | .vsigmoid k d a m => Sys2Proof.Machine.execVsigmoid k d a m s
  | .vfloor k d a m => Sys2Proof.Machine.execVfloor k d a m s
  | .vround k d a m => Sys2Proof.Machine.execVround k d a m s
  | .vabs k d a m => Sys2Proof.Machine.execVabs k d a m s
  | .vneg k d a m => Sys2Proof.Machine.execVneg k d a m s
  | .vrelu k d a m => Sys2Proof.Machine.execVrelu k d a m s
  | .vmov k d a m => Sys2Proof.Machine.execVmov k d a m s
  | .veq k d a b m => Sys2Proof.Machine.execVeq k d a b m s
  | .vne k d a b m => Sys2Proof.Machine.execVne k d a b m s
  | .vlt k d a b m => Sys2Proof.Machine.execVlt k d a b m s
  | .vle k d a b m => Sys2Proof.Machine.execVle k d a b m s
  | .veqVx k d a b m => Sys2Proof.Machine.execVeqVx k d a b m s
  | .vneVx k d a b m => Sys2Proof.Machine.execVneVx k d a b m s
  | .vltVx k d a b m => Sys2Proof.Machine.execVltVx k d a b m s
  | .vleVx k d a b m => Sys2Proof.Machine.execVleVx k d a b m s
  | .vsel k d a b => Sys2Proof.Machine.execVsel k d a b s
  | .qand k d a b => Sys2Proof.Machine.execQand k d a b s
  | .qor k d a b => Sys2Proof.Machine.execQor k d a b s
  | .qxor k d a b => Sys2Proof.Machine.execQxor k d a b s
  | .qsub k d a b => Sys2Proof.Machine.execQsub k d a b s
  | .qnot k d a => Sys2Proof.Machine.execQnot k d a s
  | .qcpy k d a => Sys2Proof.Machine.execQcpy k d a s
  | .viadd k d a b m => Sys2Proof.Machine.execViadd k d a b m s
  | .visub k d a b m => Sys2Proof.Machine.execVisub k d a b m s
  | .vimul k d a b m => Sys2Proof.Machine.execVimul k d a b m s
  | .vimulh k d a b m => Sys2Proof.Machine.execVimulh k d a b m s
  | .vimin k d a b m => Sys2Proof.Machine.execVimin k d a b m s
  | .vimax k d a b m => Sys2Proof.Machine.execVimax k d a b m s
  | .vidiv k d a b m => Sys2Proof.Machine.execVidiv k d a b m s
  | .virem k d a b m => Sys2Proof.Machine.execVirem k d a b m s
  | .vand k d a b m => Sys2Proof.Machine.execVand k d a b m s
  | .vor k d a b m => Sys2Proof.Machine.execVor k d a b m s
  | .vxor k d a b m => Sys2Proof.Machine.execVxor k d a b m s
  | .vsll k d a b m => Sys2Proof.Machine.execVsll k d a b m s
  | .vsrl k d a b m => Sys2Proof.Machine.execVsrl k d a b m s
  | .vsra k d a b m => Sys2Proof.Machine.execVsra k d a b m s
  | .viaddVx k d a b m => Sys2Proof.Machine.execViaddVx k d a b m s
  | .vimulVx k d a b m => Sys2Proof.Machine.execVimulVx k d a b m s
  | .vandVx k d a b m => Sys2Proof.Machine.execVandVx k d a b m s
  | .vorVx k d a b m => Sys2Proof.Machine.execVorVx k d a b m s
  | .vxorVx k d a b m => Sys2Proof.Machine.execVxorVx k d a b m s
  | .vsllVx k d a b m => Sys2Proof.Machine.execVsllVx k d a b m s
  | .vsrlVx k d a b m => Sys2Proof.Machine.execVsrlVx k d a b m s
  | .vsraVx k d a b m => Sys2Proof.Machine.execVsraVx k d a b m s
  | .vcvtTo k d a f m => Sys2Proof.Machine.execVcvtTo k d a f m s
  | .vcvtFrom k d a f m => Sys2Proof.Machine.execVcvtFrom k d a f m s
  | .vredsum k d a m => Sys2Proof.Machine.execVredsum k d a m s
  | .vredmax k d a m => Sys2Proof.Machine.execVredmax k d a m s
  | .vredmin k d a m => Sys2Proof.Machine.execVredmin k d a m s
  | .vredand k d a m => Sys2Proof.Machine.execVredand k d a m s
  | .vredor k d a m => Sys2Proof.Machine.execVredor k d a m s
  | .vredxor k d a m => Sys2Proof.Machine.execVredxor k d a m s
  | .vid k d m => Sys2Proof.Machine.execVid k d m s
  | .vslideup k d a b m => Sys2Proof.Machine.execVslideup k d a b m s
  | .vslidedn k d a b m => Sys2Proof.Machine.execVslidedn k d a b m s
  | .vshuf k d a b m => Sys2Proof.Machine.execVshuf k d a b m s
  | .vcompress k d a => Sys2Proof.Machine.execVcompress k d a s
  | .vbcast k d a m => Sys2Proof.Machine.execVbcast k d a m s
  | .vhail k d a m => Sys2Proof.Machine.execVhail k d a m s
  | .vbern k d a b => Sys2Proof.Machine.execVbern k d a b s
  | .vseed k d a b m => Sys2Proof.Machine.execVseed k d a b m s
  | .vtclr k d m => Sys2Proof.Machine.execVtclr k d m s
  | .vtget k d a b m => Sys2Proof.Machine.execVtget k d a b m s
  | .vtset k d a b m => Sys2Proof.Machine.execVtset k d a b m s
  | .vfgu k d a b m => Sys2Proof.Machine.execVfgu k d a b m s
  | .vld k d a m => Sys2Proof.Machine.execVld k d a m s
  | .vlds k d a b m => Sys2Proof.Machine.execVlds k d a b m s
  | .vldx k d a b m => Sys2Proof.Machine.execVldx k d a b m s
  | .vst k d a m => Sys2Proof.Machine.execVst k d a m s
  | .vstU k d a m => Sys2Proof.Machine.execVstU k d a m s
  | .vsts k d a b m => Sys2Proof.Machine.execVsts k d a b m s
  | .vstx k d a b m => Sys2Proof.Machine.execVstx k d a b m s
  | .vstxU k d a b m => Sys2Proof.Machine.execVstxU k d a b m s
  | .vldw k d a p e m => Sys2Proof.Machine.execVldw k d a p e m s
  | .vstw k d a e m => Sys2Proof.Machine.execVstw k d a e m s
  | .vlda k d a r p e m => Sys2Proof.Machine.execVlda k d a r p e m s
  | .vsta k d a r e m => Sys2Proof.Machine.execVsta k d a r e m s
  | .vldc k d a r p e m => Sys2Proof.Machine.execVldc k d a r p e m s
  | .vstc k d a r e m => Sys2Proof.Machine.execVstc k d a r e m s
  | .vaadd k d a b m => Sys2Proof.Machine.execVaadd k d a b m s
  | .vaswap k d a b m => Sys2Proof.Machine.execVaswap k d a b m s
  | .vamax k d a b m => Sys2Proof.Machine.execVamax k d a b m s
  | .vamin k d a b m => Sys2Proof.Machine.execVamin k d a b m s
  | .vamaxn k d a b m => Sys2Proof.Machine.execVamaxn k d a b m s
  | .vaminn k d a b m => Sys2Proof.Machine.execVaminn k d a b m s
  | .vaand k d a b m => Sys2Proof.Machine.execVaand k d a b m s
  | .vaor k d a b m => Sys2Proof.Machine.execVaor k d a b m s
  | .vaaddO k d a b m => Sys2Proof.Machine.execVaaddO k d a b m s
  | .vaswapO k d a b m => Sys2Proof.Machine.execVaswapO k d a b m s
  | .vamaxO k d a b m => Sys2Proof.Machine.execVamaxO k d a b m s
  | .vaminO k d a b m => Sys2Proof.Machine.execVaminO k d a b m s
  | .vamaxnO k d a b m => Sys2Proof.Machine.execVamaxnO k d a b m s
  | .vaminnO k d a b m => Sys2Proof.Machine.execVaminnO k d a b m s
  | .vaandO k d a b m => Sys2Proof.Machine.execVaandO k d a b m s
  | .vaorO k d a b m => Sys2Proof.Machine.execVaorO k d a b m s
  | .vsld k d a m => Sys2Proof.Machine.execVsld k d a m s
  | .vsst k d a m => Sys2Proof.Machine.execVsst k d a m s
  | .vbind k d a => Sys2Proof.Machine.execVbind k d a s
  | .vunbind k d a => Sys2Proof.Machine.execVunbind k d a s
  | .hset k a b => Sys2Proof.Machine.execHset k a b s
  | .vscl k a b => Sys2Proof.Machine.execVscl k a b s
  | .vldnp k d a p q m => Sys2Proof.Machine.execVldnp k d a p q m s
  | .mshape k d a => Sys2Proof.Machine.execMshape k d a s
  | .mlds k a => Sys2Proof.Machine.execMlds k a s
  | .mzero k d => Sys2Proof.Machine.execMzero k d s
  | .mstat k d => Sys2Proof.Machine.execMstat k d s
  | .mmulBf16 k d a b s' => Sys2Proof.Machine.execMmulBf16 k d a b s' s
  | .mmulE4m3 k d a b s' => Sys2Proof.Machine.execMmulE4m3 k d a b s' s
  | .mmulE5m2 k d a b s' => Sys2Proof.Machine.execMmulE5m2 k d a b s' s
  | .mmulNp4 k d a b s' => Sys2Proof.Machine.execMmulNp4 k d a b s' s
  | .mmulNp2 k d a b s' => Sys2Proof.Machine.execMmulNp2 k d a b s' s
  | .mmulSpBf16 k d a b s' => Sys2Proof.Machine.execMmulSpBf16 k d a b s' s
  | .mmulSpE4m3 k d a b s' => Sys2Proof.Machine.execMmulSpE4m3 k d a b s' s
  | .mmulSpE5m2 k d a b s' => Sys2Proof.Machine.execMmulSpE5m2 k d a b s' s
  | .mmulSpNp4 k d a b s' => Sys2Proof.Machine.execMmulSpNp4 k d a b s' s
  | .mmulSpNp2 k d a b s' => Sys2Proof.Machine.execMmulSpNp2 k d a b s' s
  | .mdrain k d a m => Sys2Proof.Machine.execMdrain k d a m s
  | .mdrainS k d a b m => Sys2Proof.Machine.execMdrainS k d a b m s
  | .mdrainX k d a b m => Sys2Proof.Machine.execMdrainX k d a b m s
  | .cpl k d a b => Sys2Proof.Machine.execCpl k d a b s
  | .cpgo k a b => Sys2Proof.Machine.execCpgo k a b s
  | .cpv k d a b => Sys2Proof.Machine.execCpv k d a b s
  | .dmove k d a => Sys2Proof.Machine.execDmove k d a s
  | .dfix k d a => Sys2Proof.Machine.execDfix k d a s
  | .vdfix k d a b => Sys2Proof.Machine.execVdfix k d a b s
  | .dsweep k d => Sys2Proof.Machine.execDsweep k d s
  | .dack k d => Sys2Proof.Machine.execDack k d s
  | .dstat k d a b => Sys2Proof.Machine.execDstat k d a b s
  | .nwr k d a => Sys2Proof.Machine.execNwr k d a s
  | .npost k d => Sys2Proof.Machine.execNpost k d s
  | .nwait k d a b => Sys2Proof.Machine.execNwait k d a b s
  | .nctr k d a b => Sys2Proof.Machine.execNctr k d a b s
  | .cgload k d a b => Sys2Proof.Machine.execCgload k d a b s
  | .cgrun k d a b => Sys2Proof.Machine.execCgrun k d a b s
  | .cgwait k d a b => Sys2Proof.Machine.execCgwait k d a b s
  | .cgstat k d a b => Sys2Proof.Machine.execCgstat k d a b s
  | .add k d a b => Sys2Proof.Machine.execAdd k d a b s
  | .sub k d a b => Sys2Proof.Machine.execSub k d a b s
  | .and k d a b => Sys2Proof.Machine.execAnd k d a b s
  | .or k d a b => Sys2Proof.Machine.execOr k d a b s
  | .xor k d a b => Sys2Proof.Machine.execXor k d a b s
  | .sll k d a b => Sys2Proof.Machine.execSll k d a b s
  | .srl k d a b => Sys2Proof.Machine.execSrl k d a b s
  | .sra k d a b => Sys2Proof.Machine.execSra k d a b s
  | .slt k d a b => Sys2Proof.Machine.execSlt k d a b s
  | .sltn k d a b => Sys2Proof.Machine.execSltn k d a b s
  | .seq k d a b => Sys2Proof.Machine.execSeq k d a b s
  | .sne k d a b => Sys2Proof.Machine.execSne k d a b s
  | .fadd k d a b => Sys2Proof.Machine.execFadd k d a b s
  | .fsub k d a b => Sys2Proof.Machine.execFsub k d a b s
  | .fmul k d a b => Sys2Proof.Machine.execFmul k d a b s
  | .fdiv k d a b => Sys2Proof.Machine.execFdiv k d a b s
  | .ffma k d a b => Sys2Proof.Machine.execFfma k d a b s
  | .fsqrt k d a => Sys2Proof.Machine.execFsqrt k d a s
  | .fmin k d a b => Sys2Proof.Machine.execFmin k d a b s
  | .fmax k d a b => Sys2Proof.Machine.execFmax k d a b s
  | .feq k d a b => Sys2Proof.Machine.execFeq k d a b s
  | .flt k d a b => Sys2Proof.Machine.execFlt k d a b s
  | .fle k d a b => Sys2Proof.Machine.execFle k d a b s
  | .fcvtI k d a => Sys2Proof.Machine.execFcvtI k d a s
  | .fcvtN k d a => Sys2Proof.Machine.execFcvtN k d a s
  | .fcvtFi k d a => Sys2Proof.Machine.execFcvtFi k d a s
  | .fcvtFn k d a => Sys2Proof.Machine.execFcvtFn k d a s
  | .mul k d a b => Sys2Proof.Machine.execMul k d a b s
  | .mulh k d a b => Sys2Proof.Machine.execMulh k d a b s
  | .mulhn k d a b => Sys2Proof.Machine.execMulhn k d a b s
  | .div k d a b => Sys2Proof.Machine.execDiv k d a b s
  | .divn k d a b => Sys2Proof.Machine.execDivn k d a b s
  | .rem k d a b => Sys2Proof.Machine.execRem k d a b s
  | .remn k d a b => Sys2Proof.Machine.execRemn k d a b s
  | .addi k d a i' => Sys2Proof.Machine.execAddi k d a i' s
  | .andi k d a i' => Sys2Proof.Machine.execAndi k d a i' s
  | .ori k d a i' => Sys2Proof.Machine.execOri k d a i' s
  | .xori k d a i' => Sys2Proof.Machine.execXori k d a i' s
  | .slti k d a i' => Sys2Proof.Machine.execSlti k d a i' s
  | .sltni k d a i' => Sys2Proof.Machine.execSltni k d a i' s
  | .slli k d a h => Sys2Proof.Machine.execSlli k d a h s
  | .srli k d a h => Sys2Proof.Machine.execSrli k d a h s
  | .srai k d a h => Sys2Proof.Machine.execSrai k d a h s
  | .jalr k d a i' => Sys2Proof.Machine.execJalr k d a i' s
  | .lim k d i' => Sys2Proof.Machine.execLim k d i' s
  | .apc k d i' => Sys2Proof.Machine.execApc k d i' s
  | .beq k a b o => Sys2Proof.Machine.execBeq k a b o s
  | .bne k a b o => Sys2Proof.Machine.execBne k a b o s
  | .blt k a b o => Sys2Proof.Machine.execBlt k a b o s
  | .bge k a b o => Sys2Proof.Machine.execBge k a b o s
  | .bltn k a b o => Sys2Proof.Machine.execBltn k a b o s
  | .bgen k a b o => Sys2Proof.Machine.execBgen k a b o s
  | .jal k o => Sys2Proof.Machine.execJal k o s
  | .ld64 k d a i' => Sys2Proof.Machine.execLd64 k d a i' s
  | .ld32 k d a i' => Sys2Proof.Machine.execLd32 k d a i' s
  | .ld32n k d a i' => Sys2Proof.Machine.execLd32n k d a i' s
  | .ld16 k d a i' => Sys2Proof.Machine.execLd16 k d a i' s
  | .ld16n k d a i' => Sys2Proof.Machine.execLd16n k d a i' s
  | .ld8 k d a i' => Sys2Proof.Machine.execLd8 k d a i' s
  | .ld8n k d a i' => Sys2Proof.Machine.execLd8n k d a i' s
  | .st64 k a b o => Sys2Proof.Machine.execSt64 k a b o s
  | .st32 k a b o => Sys2Proof.Machine.execSt32 k a b o s
  | .st16 k a b o => Sys2Proof.Machine.execSt16 k a b o s
  | .st8 k a b o => Sys2Proof.Machine.execSt8 k a b o s
  | .lrx k d a => Sys2Proof.Machine.execLrx k d a s
  | .scx k d a b => Sys2Proof.Machine.execScx k d a b s
  | .aswap k d a b => Sys2Proof.Machine.execAswap k d a b s
  | .aadd k d a b => Sys2Proof.Machine.execAadd k d a b s
  | .aand k d a b => Sys2Proof.Machine.execAand k d a b s
  | .aor k d a b => Sys2Proof.Machine.execAor k d a b s
  | .axor k d a b => Sys2Proof.Machine.execAxor k d a b s
  | .amax k d a b => Sys2Proof.Machine.execAmax k d a b s
  | .amin k d a b => Sys2Proof.Machine.execAmin k d a b s
  | .amaxn k d a b => Sys2Proof.Machine.execAmaxn k d a b s
  | .aminn k d a b => Sys2Proof.Machine.execAminn k d a b s
  | .acas k d a b => Sys2Proof.Machine.execAcas k d a b s
  | .ainc k d a b => Sys2Proof.Machine.execAinc k d a b s
  | .afab k d a b => Sys2Proof.Machine.execAfab k d a b s
  | .lrx32 k d a => Sys2Proof.Machine.execLrx32 k d a s
  | .scx32 k d a b => Sys2Proof.Machine.execScx32 k d a b s
  | .aswap32 k d a b => Sys2Proof.Machine.execAswap32 k d a b s
  | .aadd32 k d a b => Sys2Proof.Machine.execAadd32 k d a b s
  | .aand32 k d a b => Sys2Proof.Machine.execAand32 k d a b s
  | .aor32 k d a b => Sys2Proof.Machine.execAor32 k d a b s
  | .axor32 k d a b => Sys2Proof.Machine.execAxor32 k d a b s
  | .amax32 k d a b => Sys2Proof.Machine.execAmax32 k d a b s
  | .amin32 k d a b => Sys2Proof.Machine.execAmin32 k d a b s
  | .amaxn32 k d a b => Sys2Proof.Machine.execAmaxn32 k d a b s
  | .aminn32 k d a b => Sys2Proof.Machine.execAminn32 k d a b s
  | .acas32 k d a b => Sys2Proof.Machine.execAcas32 k d a b s
  | .ainc32 k d a b => Sys2Proof.Machine.execAinc32 k d a b s
  | .afab32 k d a b => Sys2Proof.Machine.execAfab32 k d a b s
  | .halt k => Sys2Proof.Machine.execHalt k s
  | .yield k => Sys2Proof.Machine.execYield k s
  | .tlbinv k a => Sys2Proof.Machine.execTlbinv k a s
  | .rdcyc k d => Sys2Proof.Machine.execRdcyc k d s
  | .rdtime k d => Sys2Proof.Machine.execRdtime k d s
  | .rdctr k d n => Sys2Proof.Machine.execRdctr k d n s
  | .vdrain k => Sys2Proof.Machine.execVdrain k s
  | .fenceAcq k s' => Sys2Proof.Machine.execFenceAcq k s' s
  | .fenceRel k s' => Sys2Proof.Machine.execFenceRel k s' s
  | .fence k s' => Sys2Proof.Machine.execFence k s' s
  | .trap k a => Sys2Proof.Machine.execTrap k a s
  | .tret k => Sys2Proof.Machine.execTret k s
  | .ebrk k => Sys2Proof.Machine.execEbrk k s
  | .cget k d s' => Sys2Proof.Machine.execCget k d s' s
  | .cset k a s' => Sys2Proof.Machine.execCset k a s' s
  | .vcfg k d a => Sys2Proof.Machine.execVcfg k d a s
  | .vgrant k d a => Sys2Proof.Machine.execVgrant k d a s
  | .wbase k a => Sys2Proof.Machine.execWbase k a s
  | .barArrive k d a b => Sys2Proof.Machine.execBarArrive k d a b s
  | .barWait k d a b => Sys2Proof.Machine.execBarWait k d a b s
  | .tskDef k d a b => Sys2Proof.Machine.execTskDef k d a b s
  | .tskDec k d a => Sys2Proof.Machine.execTskDec k d a s
  | .lnch k d a b => Sys2Proof.Machine.execLnch k d a b s
  | .lwait k d a b => Sys2Proof.Machine.execLwait k d a b s
  | .sndClaim k d => Sys2Proof.Machine.execSndClaim k d s
  | .sndGive k d a => Sys2Proof.Machine.execSndGive k d a s
  | .sndStat k d a b => Sys2Proof.Machine.execSndStat k d a b s
  | .convoyCommit h => Sys2Proof.Machine.execConvoyCommit h s
  | .gustCycle c => Sys2Proof.Machine.execGustCycle c s
  | .remoteBufferMessage c => Sys2Proof.Machine.execRemoteBufferMessage c s
  | .remoteReply c => Sys2Proof.Machine.execRemoteReply c s
  | .layerPass c => Sys2Proof.Machine.execLayerPass c s
  | .anvilFree c => Sys2Proof.Machine.execAnvilFree c s
  | .layerTempReport c layer t => Sys2Proof.Machine.execLayerTempReport c layer t s
  | .slewStep cl => Sys2Proof.Machine.execSlewStep cl s
  | .copyRun c i' => Sys2Proof.Machine.execCopyRun c i' s
  | .gatherRecord g => Sys2Proof.Machine.execGatherRecord g s
  | .driftCopyLine tw n => Sys2Proof.Machine.execDriftCopyLine tw n s
  | .switch tw n => Sys2Proof.Machine.execSwitch tw n s
  | .chainCompression tw n => Sys2Proof.Machine.execChainCompression tw n s
  | .taskDispatch h => Sys2Proof.Machine.execTaskDispatch h s
  | .preemption h => Sys2Proof.Machine.execPreemption h s
  | .ageWindowExpiry tid => Sys2Proof.Machine.execAgeWindowExpiry tid s
  | .spinBudgetExpiry h => Sys2Proof.Machine.execSpinBudgetExpiry h s
  | .wake tid => Sys2Proof.Machine.execWake tid s
  | .taskEnd h => Sys2Proof.Machine.execTaskEnd h s
  | .launchEnd lno => Sys2Proof.Machine.execLaunchEnd lno s
  | .graphNodeLaunch gid gen node => Sys2Proof.Machine.execGraphNodeLaunch gid gen node s
  | .soundingSliceForward tw lno => Sys2Proof.Machine.execSoundingSliceForward tw lno s
  | .soundingMerge lno => Sys2Proof.Machine.execSoundingMerge lno s
  | .packageReset => Sys2Proof.Machine.execPackageReset s
  | .selfTest tw pass faulty => Sys2Proof.Machine.execSelfTest tw pass faulty s
  | .powerLoss => Sys2Proof.Machine.execPowerLoss s
  | .summary => Sys2Proof.Machine.execSummary s
  | .logread => Sys2Proof.Machine.execLogread s
  | .regr => Sys2Proof.Machine.execRegr s
  | .regw => Sys2Proof.Machine.execRegw s
  | .thcfgWrite v => Sys2Proof.Machine.execThcfgWrite v s
  | .primeZoneWrite ceiling tw n v => Sys2Proof.Machine.execPrimeZoneWrite ceiling tw n v s
  | .fpoolWrite v => Sys2Proof.Machine.execFpoolWrite v s
  | .jscfgWrite v => Sys2Proof.Machine.execJscfgWrite v s
  | .service => Sys2Proof.Machine.execService s
  | .resume => Sys2Proof.Machine.execResume s
  | .tdump => Sys2Proof.Machine.execTdump s
  | .dbgset => Sys2Proof.Machine.execDbgset s
  | .dbggo => Sys2Proof.Machine.execDbggo s
  | .harton => Sys2Proof.Machine.execHarton s
  | .fwstage => Sys2Proof.Machine.execFwstage s
  | .fwapply => Sys2Proof.Machine.execFwapply s
  | .firmwareTowerApply tw pass => Sys2Proof.Machine.execFirmwareTowerApply tw pass s
  | .netsync => Sys2Proof.Machine.execNetsync s
  | .commsync => Sys2Proof.Machine.execCommsync s
  | .doorbell q v => Sys2Proof.Machine.execDoorbell q v s
  | .launch q => Sys2Proof.Machine.execLaunch q s
  | .gdef q => Sys2Proof.Machine.execGdef q s
  | .gedit q => Sys2Proof.Machine.execGedit q s
  | .grun q => Sys2Proof.Machine.execGrun q s
  | .gfree q => Sys2Proof.Machine.execGfree q s
  | .kill q => Sys2Proof.Machine.execKill q s
  | .registerWrite off v => Sys2Proof.Machine.execRegisterWrite off v s
  | .hostMemAccess write o len data => Sys2Proof.Machine.execHostMemAccess write o len data s
  | .hostSnoop line data => Sys2Proof.Machine.execHostSnoop line data s
  | .atsInvalidate page => Sys2Proof.Machine.execAtsInvalidate page s
  | .pageRequest => Sys2Proof.Machine.execPageRequest s
  | .prgSuccess slot => Sys2Proof.Machine.execPrgSuccess slot s
  | .prgInvalidRequest slot => Sys2Proof.Machine.execPrgInvalidRequest slot s
  | .prgResponseFailure slot => Sys2Proof.Machine.execPrgResponseFailure slot s
  | .getVersion => Sys2Proof.Machine.execGetVersion s
  | .getCapabilities flags => Sys2Proof.Machine.execGetCapabilities flags s
  | .negotiateAlgorithms offer => Sys2Proof.Machine.execNegotiateAlgorithms offer s
  | .getDigests => Sys2Proof.Machine.execGetDigests s
  | .getCertificate slot off len => Sys2Proof.Machine.execGetCertificate slot off len s
  | .challenge slot nonce => Sys2Proof.Machine.execChallenge slot nonce s
  | .getMeasurements slot index nonce => Sys2Proof.Machine.execGetMeasurements slot index nonce s
  | .keyExchange slot key => Sys2Proof.Machine.execKeyExchange slot key s
  | .finish mac => Sys2Proof.Machine.execFinish mac s
  | .endSession => Sys2Proof.Machine.execEndSession s
  | .keyset port an sak ssci salt => Sys2Proof.Machine.execKeyset port an sak ssci salt s
  | .sensorReading sensor t => Sys2Proof.Machine.execSensorReading sensor t s
  | .shelterPowerOff tw => Sys2Proof.Machine.execShelterPowerOff tw s
  | .shelterBoundExpiry tw => Sys2Proof.Machine.execShelterBoundExpiry tw s
  | .shelterReturn tw pass => Sys2Proof.Machine.execShelterReturn tw pass s
  | .watchdogExpiry tw => Sys2Proof.Machine.execWatchdogExpiry tw s
  | .parityError unit replaysFail => Sys2Proof.Machine.execParityError unit replaysFail s
  | .fatalFault tw => Sys2Proof.Machine.execFatalFault tw s
  | .eccError site corrected => Sys2Proof.Machine.execEccError site corrected s
  | .patrolScrub line => Sys2Proof.Machine.execPatrolScrub line s
  | .contrailSample h => Sys2Proof.Machine.execContrailSample h s
  | .dewpointSample cl mm => Sys2Proof.Machine.execDewpointSample cl mm s
  | .coreGate c => Sys2Proof.Machine.execCoreGate c s
  | .gateEntryComplete unit => Sys2Proof.Machine.execGateEntryComplete unit s
  | .wakeComplete unit => Sys2Proof.Machine.execWakeComplete unit s
  | .ldoSettle c g => Sys2Proof.Machine.execLdoSettle c g s
  | .benlarFlit port flit => Sys2Proof.Machine.execBenlarFlit port flit s
  | .benlarLinkLoss port => Sys2Proof.Machine.execBenlarLinkLoss port s
  | .ethernetFrame port key pn frame pkt => Sys2Proof.Machine.execEthernetFrame port key pn frame pkt s
  | .packetSend => Sys2Proof.Machine.execPacketSend s
  | .transportPacket pkt => Sys2Proof.Machine.execTransportPacket pkt s
  | .sack peer rod base bitmap nak => Sys2Proof.Machine.execSack peer rod base bitmap nak s
  | .retransmissionTimeout peer rod psn => Sys2Proof.Machine.execRetransmissionTimeout peer rod psn s
  | .peerTimeout peer => Sys2Proof.Machine.execPeerTimeout peer s
  | .nakRetransmit peer rod psn => Sys2Proof.Machine.execNakRetransmit peer rod psn s
  | .chunkStart => Sys2Proof.Machine.execChunkStart s
  | .chunkEnd e => Sys2Proof.Machine.execChunkEnd e s
  | .chunkLine comm peer lane chunk line data => Sys2Proof.Machine.execChunkLine comm peer lane chunk line data s
  | .credit comm peer lane chunk => Sys2Proof.Machine.execCredit comm peer lane chunk s
  | .adderLine e => Sys2Proof.Machine.execAdderLine e s
  | .rstrArrive comm peer lane chunk tag off fmt half scale data => Sys2Proof.Machine.execRstrArrive comm peer lane chunk tag off fmt half scale data s
  | .jetstreamTimeout gid run op => Sys2Proof.Machine.execJetstreamTimeout gid run op s
  | .notAnInstruction w => Sys2Proof.Machine.execNotAnInstruction w s
  | .instructionFetchFault h => Sys2Proof.Machine.execInstructionFetchFault h s
  | .badcmd code => Sys2Proof.Machine.execBadcmd code s
  | .badrecEntry q => Sys2Proof.Machine.execBadrecEntry q s

end Sys2Proof.Machine
end

