-- ==== Sys2Proof/Machine/Step.lean ====
section
/-! DEFINITION. One step of the package: the next step of the agenda, else the scan of a core whose harts run, else time alone. -/

namespace Sys2Proof.Machine

open Sys2Proof

/-- One step.  What the outside world and the timing of the device make happen stands in the agenda (log 5). -/
noncomputable def step (s : State) : Host.Outcome State Fault Refusal :=
  match s.agenda with
  | i :: rest => if agendaOk i then exec i { s with agenda := rest } else .next { s with agenda := rest }
  | [] =>
    match s.runCore with
    | none => .next s.idle
    | some c => ((s.pass c).serveWaits (s.scanOrder c)).scan exec c (s.scanOrder c)

/-- The state with an instruction where the next step fetches it; its bytes are the hardware's own, low bits first. -/
def State.withFetchWord (s : State) (_nbits w : Nat) : State := s.withProbe w

end Sys2Proof.Machine
end

