-- ==== Sys2Proof/Safety.lean ====
section
/-! DEFINITION. What counts as a safe run, and the predicates that statements about the machine use. -/

namespace Sys2Proof.Machine

open Sys2Proof

/-- A step that goes on: the spec stops a task, a tower or the package, and every such stop is a next state. -/
def GoesOn (s : State) : Prop := ∃ t, step s = .next t

/-- A run of n steps that goes on at each. -/
def SafeFor : Nat → State → Prop
  | 0, _ => True
  | n + 1, s => ∃ t, step s = .next t ∧ SafeFor n t

/-- Every register of every hart but x[d] of hart h holds what it held. -/
def SameX (s t : State) (h : Nat) (d : BitVec 7) : Prop := ∀ g r, (g ≠ h ∨ r ≠ d) → t.x g r = s.x g r

/-- Every byte of physical memory outside the n bytes at a holds what it held. -/
def SameMemBut (s t : State) (a n : Nat) : Prop := ∀ b, (b < a ∨ a + n ≤ b) → t.mem.read b = s.mem.read b

/-- All of physical memory holds what it held. -/
def SameMem (s t : State) : Prop := ∀ b, t.mem.read b = s.mem.read b

/-- Every core is as it was but for its event counters (R208). -/
def SameCores (s t : State) : Prop := ∀ c, { t.core c with ctr := (s.core c).ctr } = s.core c

/-- Nothing but hart h and event counters differs: no other hart, no memory, no other unit or register of the package. -/
def OnlyHart (s t : State) (h : Nat) : Prop :=
  { t with harts := s.harts, cores := s.cores } = s ∧ SameCores s t ∧ ∀ g, g ≠ h → t.hart g = s.hart g

/-- Nothing differs but what a translation may change: translation caches, event counters, the free-value counter, and the log of
conflicts (R343, R346). -/
def SideOnly (s t : State) : Prop :=
  { t with mmu := s.mmu, cores := s.cores, fresh := s.fresh, log := s.log, flashLog := s.flashLog, nextLog := s.nextLog } = s ∧
  SameCores s t

/-- Hart h after a word of the scalar front that leaves it in context c. -/
def frontDone (t : Hart) (c : Ctx) : Hart :=
  { t with ctx := c, openConvoy := false, noMatch := false, waiting := .none, spin := 0 }

/-- The register file of hart h holds v in x[d] and is otherwise what it was; x0 stays 0 (R18). -/
def WritesX (s t : State) (h : Nat) (d : BitVec 7) (v : Word) : Prop := ∀ r, t.x h r = if r = d ∧ d ≠ 0 then v else s.x h r

/-- Hart h has retired a word of the scalar front that wrote x[d]: its context is c but for the register file. -/
def RetiresWith (s t : State) (h : Nat) (d : BitVec 7) (v : Word) (c : Ctx) : Prop :=
  OnlyHart s t h ∧ t.hart h = frontDone (s.hart h) { c with x := (t.ctx h).x } ∧ WritesX s t h d v

/-- The context of hart h with PC past the word there. -/
def State.past (s : State) (h : Nat) : Ctx := { s.ctx h with pc := s.pc h + 4 }

/-- What a word of hart h that reads or writes memory may change: hart h, the reservations of other harts (R129), event counters,
memory and its poison, the writes that a move forwards (R308), caches, the lines that a core-scope acquire is still to drop (R286), the log of
conflicts and the free-value counter. -/
def MemWord (s t : State) (h : Nat) : Prop :=
  { t with harts := s.harts, cores := s.cores, towers := s.towers, mem := s.mem, poison := s.poison, mmu := s.mmu, fresh := s.fresh,
           log := s.log, flashLog := s.flashLog, nextLog := s.nextLog } = s ∧
  (∀ c, { t.core c with ctr := (s.core c).ctr, relLines := (s.core c).relLines } = s.core c) ∧
  ∀ g, g ≠ h → { t.hart g with resv := (s.hart g).resv } = s.hart g

/-- Hart h has retired a memory word that wrote x[d]: its context is c but for the register file. -/
def RetiresMem (s t : State) (h : Nat) (d : BitVec 7) (v : Word) (c : Ctx) : Prop :=
  MemWord s t h ∧ { t.hart h with resv := (s.hart h).resv } = frontDone (s.hart h) { c with x := (t.ctx h).x } ∧ WritesX s t h d v

/-- The n bytes at a of memory are those of v, low byte first (R52). -/
def Holds (t : State) (a n v : Nat) : Prop := ∀ k, k < n → t.mem.read (a + k) = BitVec.ofNat 8 (v / 256 ^ k)

/-- An outcome that is a next state. -/
def IsNext (o : Out1) : Prop := ∃ t, o = .next t

end Sys2Proof.Machine
end

