-- ==== Sys2Proof/Certificates/Slice0/Obligations.lean ====
section
/-! DEFINITION. Statements about the machine, for the provers: each is a rule of the spec, or follows from its sections. -/

set_option linter.unusedVariables false

open Sys2Proof Sys2Proof.Machine

/-! ### Encodings -/

/-- R71, R78 to R88. Decoding the word of a well-formed instruction gives the instruction back. -/
def Obligations.EncodeThenDecode : Prop :=
  ∀ i w, i.wellFormed = true → encode i = some w → decode w = .ok i

/-- R71, R84, R85, R89. A word that the decoder accepts is the word of the instruction it names, which is well-formed: no defined
word has an ignored bit, and no two words decode to one instruction. -/
def Obligations.DecodeThenEncode : Prop :=
  ∀ w i, decode w = .ok i → i.wellFormed = true ∧ encode i = some w

/-- R251 to R259 and the worked encodings. The words that the spec writes out decode to what it says they are. -/
def Obligations.SpecWordsDecode : Prop :=
  decode 0x86142C3E#32 = .ok (.barArrive true 6 10 11) ∧
  decode 0x8714187E#32 = .ok (.barWait true 7 10 6) ∧
  decode 0x881834BE#32 = .ok (.tskDef true 8 12 13) ∧
  decode 0x891000FE#32 = .ok (.tskDec true 9 8) ∧
  decode 0x801E42B4#32 = .ok (.vscl true 15 16)

/-! ### The machine as a whole -/

/-- R44, R48. The spec stops tasks, towers and the package, never the machine: every instruction and every event of the opcode table has
a next state from every state, and from every state a run of every length goes on. -/
def Obligations.EveryStepGoesOn : Prop := (∀ i s, IsNext (exec i s)) ∧ ∀ n s, SafeFor n s

namespace Sys2Proof.Machine

/-- Hart h of z is offered the instruction i: its word has been fetched, which led to t, and neither a reissued word of a dump (R42), nor a
Contrail comparator (R214), nor the performing of two relaxed atomics the other way round (R277) comes before it. -/
def Offered (z : State) (h : Nat) (t : State) (i : Instr) : Prop :=
  ∃ pa fl, let u : State := { z with turn := h }
    (z.hart h).runs = true ∧ z.pc h ≠ 0 ∧ (z.pc h).toNat < 2 ^ 56 ∧
    (translate (u.reqOf h) .fetch (z.pc h).toNat).run u = .ok (.ok pa fl) t ∧
    t.backed pa = true ∧ t.backed (pa + 3) = true ∧ t.poisoned pa 4 = false ∧
    (z.hart h).queue.find? (fun e => e.actsAtIssue (z.ctx h)) = none ∧ t.comparator h 0 (t.pc h) none = none ∧
    t.swapped exec h (BitVec.ofNat 32 (t.mem.readN pa 4)) = none ∧ decode (BitVec.ofNat 32 (t.mem.readN pa 4)) = .ok i

/-- The scan of core c once hart h has been offered its word, whose outcome is o (R192): it ends there and h is the hart last selected,
unless the word waits; then the harts that follow are offered theirs. -/
noncomputable def scanAfter (c h : Nat) (rest : List Nat) (o : Out1) : Out1 :=
  match o with
  | .next v =>
    if (v.hart h).waiting = .none then .next (v.updCore c (fun k => { k with lastHart := h % 4 })) else v.scan exec c rest
  | o => o

end Sys2Proof.Machine

/-- R35, R71, R120, R192. When no event is due and the word at the PC of the hart that the scan of a core comes to decodes to an instruction, the
step is that instruction's meaning in the state that the fetch leaves, and that hart is the one last selected; where the word waits, the
scan goes on with the harts after it. The fetch changes nothing but translation caches and counters. Before the scan, time passes and the
engines that a waiting word needs go on (log 8); which core is scanned is free (log 7). An event at the head of the agenda is the next step
instead (the model's choice, log 5). -/
def Obligations.StepRunsTheDecodedWord : Prop :=
  (∀ (s z : State) (c h : Nat) (rest : List Nat) (t : State) (i : Instr),
    s.agenda = [] → s.runCore = some c → s.scanOrder c = h :: rest → z = (s.pass c).serveWaits (s.scanOrder c) → Offered z h t i →
    step s = scanAfter c h rest (exec i t) ∧ SideOnly { z with turn := h } t ∧ t.mem = z.mem ∧ t.turn = h) ∧
  (∀ (z : State) (c h : Nat) (rest : List Nat) (t : State) (i : Instr), Offered z h t i →
    z.scan exec c (h :: rest) = scanAfter c h rest (exec i t)) ∧
  (∀ (s : State) i rest, s.agenda = i :: rest → agendaOk i = true → step s = exec i { s with agenda := rest })

/-- Every step keeps memory in canonical form: addresses rising, and no entry that equals what an unlisted address reads as. -/
def Obligations.MemoryStaysCanonical : Prop :=
  ∀ s t, s.mem.wf = true → step s = .next t → t.mem.wf = true

/-- R6, R199, R265, R268, R270, R302, R307, R367, R377, R402, R413, R435. The values that the spec gives for reset of GUST, NTCFG,
PGCFG, SLRT, SLCFG, DPCFG, SCHCFG, THCFG and CTCFG; every Anvil free, every tower ONLINE, no tile marked, no key installed, no launch, and launch
queues off with LOGN = 4. Memory lists nothing, which is its canonical form (the model's choice, log 1: an unwritten byte reads as 0), and no
hart has a task or a register set (the model's choice, log 4). -/
def Obligations.ResetValues : Prop :=
  State.reset.mem = [] ∧ State.reset.mem.wf = true ∧
  (∀ c, (State.reset.core c).gustCfg = 2048 * 2 ^ 48 + 64 * 2 ^ 40 + 32 * 2 ^ 32 + 262144 ∧ (State.reset.core c).ntcfg = 0 ∧
    (State.reset.core c).anvil.owner = none ∧ (State.reset.core c).gustLevel = 0) ∧
  (∀ cl, (State.reset.cluster cl).pgcfg = 175000 * 2 ^ 32 + 3 ∧ (State.reset.cluster cl).slrt = 0x0808080808080404 ∧
    (State.reset.cluster cl).slcfg = 0x104 ∧
    (State.reset.cluster cl).dpcfg = 100 * 2 ^ 56 + 72 * 2 ^ 48 + 12 * 2 ^ 42 + 2 * 2 ^ 36 + 4 * 2 ^ 30 + 36 * 2 ^ 22 + 1) ∧
  (∀ tw, (State.reset.tower tw).st = .online) ∧
  (∀ n, (State.reset.tile n).mark = none ∧ (State.reset.tile n).tomb = false ∧ (State.reset.tile n).arrival = false) ∧
  (∀ q, (State.reset.queue q).en = false ∧ (State.reset.queue q).logn = 4) ∧
  (∀ p, (State.reset.ethPort p).keys = []) ∧
  State.reset.schcfg = 1000 * 2 ^ 48 + 200 * 2 ^ 32 + 4096 * 2 ^ 12 ∧
  State.reset.thcfg = 125 * 2 ^ 56 + 110 * 2 ^ 48 + 10 * 2 ^ 40 + 105 * 2 ^ 32 + 5 * 2 ^ 24 + 100 * 2 ^ 8 + 1 ∧
  State.reset.ctcfg = 4 * 2 ^ 57 + 16 * 2 ^ 52 ∧ State.reset.launches = [] ∧ State.reset.harts = []

/-! ### Registers -/

/-- R18, R113. x0 reads as zero and discards writes; a write of another register changes that register of that hart and nothing
else. -/
def Obligations.RegisterFile : Prop :=
  ∀ s h v, State.x s h 0 = 0 ∧ State.setX s h 0 v = s ∧
    ∀ d, d ≠ 0 → (s.setX h d v).x h d = v ∧ OnlyHart s (s.setX h d v) h ∧ SameX s (s.setX h d v) h d ∧
      (s.setX h d v).hart h = { s.hart h with ctx := { s.ctx h with x := ((s.setX h d v).ctx h).x } }

/-! ### Integer words -/

namespace Sys2Proof.Machine

/-- 1 where a relation holds, else 0. -/
def truth (p : Prop) [Decidable p] : Word := if p then 1#64 else 0#64

/-- R114 to R117: the register that an integer word with K = 1 writes, and the value, computed on integers and narrowed once. -/
def integerResult (s : State) : Instr → Option (BitVec 7 × Word)
  | .add true d a b => some (d, wordS ((s.x s.turn a).toInt + (s.x s.turn b).toInt))
  | .sub true d a b => some (d, wordS ((s.x s.turn a).toInt - (s.x s.turn b).toInt))
  | .and true d a b => some (d, s.x s.turn a &&& s.x s.turn b)
  | .or true d a b => some (d, s.x s.turn a ||| s.x s.turn b)
  | .xor true d a b => some (d, s.x s.turn a ^^^ s.x s.turn b)
  | .sll true d a b => some (d, word ((s.x s.turn a).toNat * 2 ^ ((s.x s.turn b).toNat % 64)))
  | .srl true d a b => some (d, word ((s.x s.turn a).toNat / 2 ^ ((s.x s.turn b).toNat % 64)))
  | .sra true d a b => some (d, wordS ((s.x s.turn a).toInt / 2 ^ ((s.x s.turn b).toNat % 64)))
  | .slt true d a b => some (d, truth ((s.x s.turn a).toInt < (s.x s.turn b).toInt))
  | .sltn true d a b => some (d, truth ((s.x s.turn a).toNat < (s.x s.turn b).toNat))
  | .seq true d a b => some (d, truth (s.x s.turn a = s.x s.turn b))
  | .sne true d a b => some (d, truth (s.x s.turn a ≠ s.x s.turn b))
  | .mul true d a b => some (d, wordS ((s.x s.turn a).toInt * (s.x s.turn b).toInt))
  | .mulh true d a b => some (d, wordS ((s.x s.turn a).toInt * (s.x s.turn b).toInt / 2 ^ 64))
  | .mulhn true d a b => some (d, word ((s.x s.turn a).toNat * (s.x s.turn b).toNat / 2 ^ 64))
  | .div true d a b => some (d, if s.x s.turn b = 0 then wordS (-1) else wordS ((s.x s.turn a).toInt.tdiv (s.x s.turn b).toInt))
  | .divn true d a b => some (d, if s.x s.turn b = 0 then wordS (-1) else word ((s.x s.turn a).toNat / (s.x s.turn b).toNat))
  | .rem true d a b => some (d, if s.x s.turn b = 0 then s.x s.turn a else wordS ((s.x s.turn a).toInt.tmod (s.x s.turn b).toInt))
  | .remn true d a b => some (d, if s.x s.turn b = 0 then s.x s.turn a else word ((s.x s.turn a).toNat % (s.x s.turn b).toNat))
  | .addi true d a i => some (d, wordS ((s.x s.turn a).toInt + i.toInt))
  | .andi true d a i => some (d, s.x s.turn a &&& wordS i.toInt)
  | .ori true d a i => some (d, s.x s.turn a ||| wordS i.toInt)
  | .xori true d a i => some (d, s.x s.turn a ^^^ wordS i.toInt)
  | .slti true d a i => some (d, truth ((s.x s.turn a).toInt < i.toInt))
  | .sltni true d a i => some (d, truth ((s.x s.turn a).toNat < (wordS i.toInt).toNat))
  | .slli true d a n => some (d, word ((s.x s.turn a).toNat * 2 ^ n.toNat))
  | .srli true d a n => some (d, word ((s.x s.turn a).toNat / 2 ^ n.toNat))
  | .srai true d a n => some (d, wordS ((s.x s.turn a).toInt / 2 ^ n.toNat))
  | .lim true d i => some (d, wordS (i.toInt * 2 ^ 11))
  | .apc true d i => some (d, wordS ((s.pc s.turn).toInt + i.toInt * 2 ^ 11))
  | _ => none

end Sys2Proof.Machine

/-- R114, R115, R117, and the table of R116. Each integer word completes: it writes x[d] with the result, and changes nothing else of
the package but PC and the issue counter. -/
def Obligations.IntegerResults : Prop :=
  ∀ s i d v, integerResult s i = some (d, v) → ∃ t, exec i s = .next t ∧ RetiresWith s t s.turn d v (s.past s.turn)

/-! ### Branches and jumps -/

namespace Sys2Proof.Machine

/-- R118: whether a branch with K = 1 is taken, and its offset. -/
def branchTaken (s : State) : Instr → Option (Bool × BitVec 11)
  | .beq true a b o => some (decide (s.x s.turn a = s.x s.turn b), o)
  | .bne true a b o => some (decide (s.x s.turn a ≠ s.x s.turn b), o)
  | .blt true a b o => some (decide ((s.x s.turn a).toInt < (s.x s.turn b).toInt), o)
  | .bge true a b o => some (decide ((s.x s.turn b).toInt ≤ (s.x s.turn a).toInt), o)
  | .bltn true a b o => some (decide ((s.x s.turn a).toNat < (s.x s.turn b).toNat), o)
  | .bgen true a b o => some (decide ((s.x s.turn b).toNat ≤ (s.x s.turn a).toNat), o)
  | _ => none

end Sys2Proof.Machine

/-- R118, R119. Each branch completes: PC is PC + 4·offset when it is taken and PC + 4 when not; no register changes.  jal links
through x1 and transfers to PC + 4·offset; jalr computes its target, links through x[d], then transfers. -/
def Obligations.BranchesAndJumps : Prop :=
  (∀ s i c o, branchTaken s i = some (c, o) → ∃ t, exec i s = .next t ∧ OnlyHart s t s.turn ∧
    t.hart s.turn = frontDone (s.hart s.turn)
      { s.ctx s.turn with pc := if c then wordS ((s.pc s.turn).toInt + 4 * o.toInt) else s.pc s.turn + 4 }) ∧
  (∀ s o, ∃ t, exec (.jal true o) s = .next t ∧
    RetiresWith s t s.turn 1 (s.pc s.turn + 4) { s.ctx s.turn with pc := wordS ((s.pc s.turn).toInt + 4 * o.toInt) }) ∧
  (∀ s d a i, ∃ t, exec (.jalr true d a i) s = .next t ∧
    RetiresWith s t s.turn d (s.pc s.turn + 4)
      { s.ctx s.turn with pc := word ((wordS ((s.x s.turn a).toInt + i.toInt)).toNat / 4 * 4) })

/-! ### Words that must begin a convoy, and privilege -/

namespace Sys2Proof.Machine

/-- Words for the supervisor (R90, R136, R137, and the S-write registers of R25). -/
def forSupervisor : Instr → Bool
  | .halt _ | .tlbinv _ _ => true
  | .cset _ _ sel => sel == 0x21 || sel == 0x23 || sel == 0x31
  | _ => false

/-- A control-register word whose select names no register (R25). -/
def badSelect : Instr → Bool
  | .cget _ _ sel => !assignedSelect sel.toNat
  | .cset _ _ sel => !assignedSelect sel.toNat
  | _ => false

end Sys2Proof.Machine

/-- R46, R75, R90, R133, R136, R137. The checks of a word of the scalar majors 0x00 to 0x1F before it has any effect, each with EVAL holding
the word: a select that names no register, and tret outside a handler, raise ILL; else a supervisor word at task privilege raises PRIV,
whatever its K; else a word with K = 0 raises CONV. -/
def Obligations.ScalarWordChecks : Prop :=
  (∀ s i w, encode i = some w → badSelect i = true → exec i s = .next (s.trapEntry s.turn cILL (w.setWidth 64))) ∧
  (∀ s i w, encode i = some w → badSelect i = false → forSupervisor i = true → (s.ctx s.turn).prv = false →
    exec i s = .next (s.trapEntry s.turn cPRIV (w.setWidth 64))) ∧
  (∀ s i w, encode i = some w → w.toNat % 64 < 0x20 → w.toNat < 2 ^ 31 → badSelect i = false →
    (forSupervisor i = true → (s.ctx s.turn).prv = true) → (∀ k, i = .tret k → (s.ctx s.turn).inh = true) →
    exec i s = .next (s.trapEntry s.turn cCONV (w.setWidth 64))) ∧
  (∀ s k w, encode (.tret k) = some w → (s.ctx s.turn).inh = false → exec (.tret k) s = .next (s.trapEntry s.turn cILL (w.setWidth 64)))

/-! ### FP32 on the scalar front -/

namespace Sys2Proof.Machine

/-- R12, R121. An exact result rounded once to FP32 under VT, SR acting as RNE, with the events of the operation. -/
def fp32Result (c : Ctx) (x : Num × Ev) : Nat × Ev :=
  let rm := if c.rm = .sr then .rne else c.rm
  let r := roundNum fp32 c.sat rm 0 x.1
  (r.1, r.2 ||| x.2)

/-- R121: the register that a scalar FP32 word with K = 1 writes, its value as a natural number, and the events it raises. -/
def floatResult (s : State) : Instr → Option (BitVec 7 × Nat × Ev)
  | .fadd true d a b => some (d, fp32Result c (addNum rm (v a) (v b)))
  | .fsub true d a b => some (d, fp32Result c (addNum rm (v a) (v b).negate))
  | .fmul true d a b => some (d, fp32Result c (mulNum (v a) (v b)))
  | .fdiv true d a b => some (d, fp32Result c (divNum (v a) (v b)))
  | .ffma true d a b => some (d, fp32Result c (fmaNum rm (v a) (v b) (v d)))
  | .fsqrt true d a => some (d, fp32Result c (sqrtNum (v a)))
  | .fmin true d a b => some (d,
      if (v a).isNaN || (v b).isNaN then (0x7FC00000, snanEv [v a, v b]) else (if ltNum (v b) (v a) then u b else u a, 0))
  | .fmax true d a b => some (d,
      if (v a).isNaN || (v b).isNaN then (0x7FC00000, snanEv [v a, v b]) else (if ltNum (v a) (v b) then u b else u a, 0))
  | .feq true d a b => some (d,
      if (v a).isNaN || (v b).isNaN then (0, snanEv [v a, v b]) else (if ltNum (v a) (v b) || ltNum (v b) (v a) then 0 else 1, 0))
  | .flt true d a b => some (d, if (v a).isNaN || (v b).isNaN then (0, evNV) else (if ltNum (v a) (v b) then 1 else 0, 0))
  | .fle true d a b => some (d, if (v a).isNaN || (v b).isNaN then (0, evNV) else (if ltNum (v b) (v a) then 0 else 1, 0))
  | .fcvtI true d a => some (d, toInteger 64 true c.sat rm 0 (v a))
  | .fcvtN true d a => some (d, toInteger 64 false c.sat rm 0 (v a))
  | .fcvtFi true d a => some (d, fp32Result c (numOfInt (s.x s.turn a).toInt, 0))
  | .fcvtFn true d a => some (d, fp32Result c (numOfInt (s.x s.turn a).toNat, 0))
  | _ => none
where
  c : Ctx := s.ctx s.turn
  rm : Rm := if (s.ctx s.turn).rm = .sr then .rne else (s.ctx s.turn).rm
  u (r : BitVec 7) : Nat := (s.x s.turn r).toNat % 2 ^ 32
  v (r : BitVec 7) : Num := fp32.decode ((s.x s.turn r).toNat % 2 ^ 32)

end Sys2Proof.Machine

/-- R121, R122. Each scalar FP32 word completes: it writes x[d], ORs its events into FV, and changes nothing else but PC and the issue
counter. -/
def Obligations.FloatResults : Prop :=
  ∀ s i d r e, floatResult s i = some (d, r, e) → ∃ t, exec i s = .next t ∧
    RetiresWith s t s.turn d (word r) { s.past s.turn with fv := (s.ctx s.turn).fv ||| e }

/-- R12. What each deterministic rounding mode gives for the ratio n/d of a sign: RTZ, RDN and RUP the neighbour on their side, RNE the
nearest with ties to even. -/
def Obligations.RoundingModes : Prop :=
  ∀ (neg : Bool) (n d : Nat), 0 < d →
    let q : ℚ := n / d
    let r : Rm → ℚ := fun m => roundNat m 0 neg n d
    (r .rtz ≤ q ∧ q < r .rtz + 1) ∧
    (neg = false → r .rdn ≤ q ∧ q < r .rdn + 1) ∧ (neg = true → q ≤ r .rdn ∧ r .rdn < q + 1) ∧
    (neg = true → r .rup ≤ q ∧ q < r .rup + 1) ∧ (neg = false → q ≤ r .rup ∧ r .rup < q + 1) ∧
    (2 * |r .rne - q| ≤ 1) ∧ (2 * |r .rne - q| = 1 → Even (roundNat .rne 0 neg n d))

/-! ### Loads, stores and atomics -/

namespace Sys2Proof.Machine

/-- R123: destination, base and offset of a load with K = 1, its width in bytes and whether it sign-extends. -/
def loadForm : Instr → Option (BitVec 7 × BitVec 7 × BitVec 11 × Nat × Bool)
  | .ld64 true d a i => some (d, a, i, 8, true)
  | .ld32 true d a i => some (d, a, i, 4, true)
  | .ld32n true d a i => some (d, a, i, 4, false)
  | .ld16 true d a i => some (d, a, i, 2, true)
  | .ld16n true d a i => some (d, a, i, 2, false)
  | .ld8 true d a i => some (d, a, i, 1, true)
  | .ld8n true d a i => some (d, a, i, 1, false)
  | _ => none

/-- R123: base, stored register, offset and width of a store with K = 1. -/
def storeForm : Instr → Option (BitVec 7 × BitVec 7 × BitVec 11 × Nat)
  | .st64 true a b i => some (a, b, i, 8)
  | .st32 true a b i => some (a, b, i, 4)
  | .st16 true a b i => some (a, b, i, 2)
  | .st8 true a b i => some (a, b, i, 1)
  | _ => none

/-- ea of R123. -/
def addressOf (s : State) (a : BitVec 7) (i : BitVec 11) : Word := wordS ((s.x s.turn a).toInt + i.toInt)

/-- A value of n bytes extended to a register. -/
def extended (signed : Bool) (n v : Nat) : Word := if signed then sext (8 * n) v else word v

/-- Where a scalar access of the hart whose turn it is lands: one piece, in a tile that no move has relocated, after which the state
is t (R123, R124, R169). -/
def LandsAt (s : State) (acc : Acc) (ea : Word) (n : Nat) (p : Piece) (t : State) : Prop :=
  (resolveOr (s.reqOf s.turn) acc cSACC ea ea.toNat n).run s = .ok [p] t ∧ p.hops = 0

/-- R127: destination, base, operand, width in bytes, and whether the old value is sign-extended, of an atomic with K = 1. -/
def atomicForm : Instr → Option (BitVec 7 × BitVec 7 × BitVec 7 × Nat × Bool)
  | .aswap true d a b | .aadd true d a b | .aand true d a b | .aor true d a b | .axor true d a b | .amax true d a b | .amin true d a b
  | .acas true d a b => some (d, a, b, 8, true)
  | .amaxn true d a b | .aminn true d a b | .ainc true d a b | .afab true d a b => some (d, a, b, 8, false)
  | .aswap32 true d a b | .aadd32 true d a b | .aand32 true d a b | .aor32 true d a b | .axor32 true d a b | .amax32 true d a b
  | .amin32 true d a b | .acas32 true d a b => some (d, a, b, 4, true)
  | .amaxn32 true d a b | .aminn32 true d a b | .ainc32 true d a b | .afab32 true d a b => some (d, a, b, 4, false)
  | _ => none

/-- R127, R128: what an atomic stores over `old`, none where it stores nothing, and whether it sets FV.SAT; q is the operand and e the
input of x[d], all of n bytes. -/
def atomicNew (old q e : Nat) : Instr → Option Nat × Bool
  | .aswap .. | .aswap32 .. => (some q, false)
  | .aadd .. => (some ((old + q) % 2 ^ 64), false)
  | .aadd32 .. => (some ((old + q) % 2 ^ 32), false)
  | .aand .. | .aand32 .. => (some (old &&& q), false)
  | .aor .. | .aor32 .. => (some (old ||| q), false)
  | .axor .. | .axor32 .. => (some (old ^^^ q), false)
  | .amax .. => (some (if toS 64 old < toS 64 q then q else old), false)
  | .amax32 .. => (some (if toS 32 old < toS 32 q then q else old), false)
  | .amin .. => (some (if toS 64 q < toS 64 old then q else old), false)
  | .amin32 .. => (some (if toS 32 q < toS 32 old then q else old), false)
  | .amaxn .. | .amaxn32 .. => (some (max old q), false)
  | .aminn .. | .aminn32 .. => (some (min old q), false)
  | .acas .. | .acas32 .. => (if old = e then some q else none, false)
  | .ainc .. | .ainc32 .. => (some (if q ≤ old then 0 else old + 1), false)
  | .afab .. | .afab32 .. => if old ≤ e then (some (min (old + q) e), false) else (none, true)
  | _ => (none, false)

/-- R81: the ordering byte of a base register is one that executes, and its release half (R131) has nothing to wait for. -/
def orderReady (s : State) (base : Word) : Prop :=
  base.toNat / 2 ^ 56 % 8 = 0 ∧ base.toNat / 2 ^ 59 % 8 ≤ 4 ∧
  (base.msb = true → (s.hart s.turn).queue = [] ∧ ∀ tid, (s.hart s.turn).task = some tid → s.transfersDone tid = true)

/-- R125: an acquire wider than core scope has emptied the L1 of the hart's core. -/
def acquired (t : State) (h : Nat) (base : Word) : Prop :=
  base.toNat / 2 ^ 62 % 2 = 1 → base.toNat / 2 ^ 59 % 8 ≠ 0 → t.l1 (coreOf h) = []

end Sys2Proof.Machine

/-- R123 to R125. A load of an aligned address that it may read completes: x[d] holds the bytes at home, or those of the L1's line where
that still holds its fill; all of memory and every other register stay.  That the L1 is a list of lines of 64 bytes is the model's choice
(log 9). -/
def Obligations.LoadResults : Prop :=
  ∀ s i d a o n signed p u, loadForm i = some (d, a, o, n, signed) → (addressOf s a o).toNat % n = 0 →
    LandsAt s .load (addressOf s a o) n p u → u.poisoned p.pa n = false →
    ∃ t v, exec i s = .next t ∧ SameMem s t ∧ RetiresMem s t s.turn d (extended signed n v) (s.past s.turn) ∧
      (v = s.mem.readN p.pa n ∨ ∃ l ∈ u.l1 (coreOf s.turn), l.line = p.pa / 64 ∧ v = getAt l.data (p.pa % 64) n)

/-- R123, R276. A store to an aligned address that it may write completes: the bytes at home are the low bytes of x[b], and every other
byte of memory and every register stays. -/
def Obligations.StoreResults : Prop :=
  ∀ s i a b o n p u, s.mem.wf = true → storeForm i = some (a, b, o, n) → (addressOf s a o).toNat % n = 0 →
    LandsAt s .store (addressOf s a o) n p u →
    ∃ t, exec i s = .next t ∧ Holds t p.pa n (s.x s.turn b).toNat ∧ SameMemBut s t p.pa n ∧
      RetiresMem s t s.turn 0 0 (s.past s.turn)

/-- R81, R127, R128. An atomic on an aligned address completes: the old value goes to x[d], memory takes the new value where the
operation stores one, FV.SAT is set by afab past its bound alone, and every other byte and register stays. -/
def Obligations.AtomicResults : Prop :=
  ∀ s i d a b n signed p u, s.mem.wf = true → atomicForm i = some (d, a, b, n, signed) →
    orderReady s (s.x s.turn a) → (s.x s.turn a).toNat % 2 ^ 56 % n = 0 →
    LandsAt s .atomic (word ((s.x s.turn a).toNat % 2 ^ 56)) n p u → u.poisoned p.pa n = false →
    let old := s.mem.readN p.pa n
    let new := atomicNew old ((s.x s.turn b).toNat % 2 ^ (8 * n)) ((s.x s.turn d).toNat % 2 ^ (8 * n)) i
    ∃ t, exec i s = .next t ∧ (∀ v, new.1 = some v → Holds t p.pa n v) ∧ (new.1 = none → SameMem s t) ∧ SameMemBut s t p.pa n ∧
      RetiresMem s t s.turn d (extended signed n old)
        { s.past s.turn with fv := (s.ctx s.turn).fv ||| (if new.2 then evSAT else 0) } ∧
      acquired t s.turn (s.x s.turn a)

/-- R129. lrx reads at home and holds the reservation on the 64-byte block; scx stores and writes 0 where the reservation is held and
covers its block, else stores nothing and writes 1, and ends the reservation either way. -/
def Obligations.ReserveAndConditional : Prop :=
  (∀ s i d a n p u, (i = .lrx true d a ∧ n = 8 ∨ i = .lrx32 true d a ∧ n = 4) →
    orderReady s (s.x s.turn a) → (s.x s.turn a).toNat % 2 ^ 56 % n = 0 →
    LandsAt s .load (word ((s.x s.turn a).toNat % 2 ^ 56)) n p u → u.poisoned p.pa n = false →
    ∃ t, exec i s = .next t ∧ SameMem s t ∧ (t.hart s.turn).resv = some (p.pa / 64) ∧
      RetiresMem s t s.turn d (sext (8 * n) (s.mem.readN p.pa n)) (s.past s.turn) ∧ acquired t s.turn (s.x s.turn a)) ∧
  (∀ s i d a b n p u, s.mem.wf = true → (i = .scx true d a b ∧ n = 8 ∨ i = .scx32 true d a b ∧ n = 4) →
    orderReady s (s.x s.turn a) → (s.x s.turn a).toNat % 2 ^ 56 % n = 0 →
    LandsAt s .store (word ((s.x s.turn a).toNat % 2 ^ 56)) n p u →
    ∃ t, exec i s = .next t ∧ (t.hart s.turn).resv = none ∧ acquired t s.turn (s.x s.turn a) ∧
      (if (s.hart s.turn).resv = some (p.pa / 64) then
        Holds t p.pa n (s.x s.turn b).toNat ∧ SameMemBut s t p.pa n ∧ RetiresMem s t s.turn d 0 (s.past s.turn)
       else SameMem s t ∧ RetiresMem s t s.turn d 1 (s.past s.turn)))

namespace Sys2Proof.Machine

/-- R81: an ordering byte that executes: bits [58:56] clear, and a scope of at most 4. -/
def orderValid (base : Word) : Prop := base.toNat / 2 ^ 56 % 8 = 0 ∧ base.toNat / 2 ^ 59 % 8 ≤ 4

/-- The base register and the width in bytes of an atomic, a load-reserve or a store-conditional with K = 1 (R127, R129). -/
def orderedForm : Instr → Option (BitVec 7 × Nat)
  | .lrx true _ a | .scx true _ a _ => some (a, 8)
  | .lrx32 true _ a | .scx32 true _ a _ => some (a, 4)
  | i => (atomicForm i).map (fun f => (f.2.1, f.2.2.2.1))

end Sys2Proof.Machine

/-- R81, R123, R127, R129. A scalar access to an address that is no multiple of its width raises ALIGN with EVAL holding the address, before it has
any effect: a load, a store, an atomic, a load-reserve or a store-conditional. Of the last three, one whose ordering byte holds a scope
above 4 or a reserved bit raises OPND before that. -/
def Obligations.MisalignedAccessTraps : Prop :=
  (∀ s i d a o n signed, loadForm i = some (d, a, o, n, signed) → (addressOf s a o).toNat % n ≠ 0 →
    exec i s = .next (s.trapEntry s.turn cALIGN (addressOf s a o))) ∧
  (∀ s i a b o n, storeForm i = some (a, b, o, n) → (addressOf s a o).toNat % n ≠ 0 →
    exec i s = .next (s.trapEntry s.turn cALIGN (addressOf s a o))) ∧
  (∀ s i a n, orderedForm i = some (a, n) → orderValid (s.x s.turn a) → (s.x s.turn a).toNat % 2 ^ 56 % n ≠ 0 →
    exec i s = .next (s.trapEntry s.turn cALIGN (word ((s.x s.turn a).toNat % 2 ^ 56)))) ∧
  (∀ s i a n w, orderedForm i = some (a, n) → ¬ orderValid (s.x s.turn a) → encode i = some w →
    exec i s = .next (s.trapEntry s.turn cOPND (w.setWidth 64)))

/-! ### Time, fences, control registers and the other system words -/

namespace Sys2Proof.Machine

/-- R138: every older word of the vector queue is past the Gust gate. -/
def dispatched (s : State) (h : Nat) : Prop :=
  (s.hart h).queue = [] ∨ ((s.hart h).released = true ∧ ∀ e ∈ afterFirst (s.hart h).queue, e.done = true)

/-- R131: a release has nothing to wait for. -/
def releaseReady (s : State) (h : Nat) : Prop :=
  (s.hart h).queue = [] ∧ ∀ tid, (s.hart h).task = some tid → s.transfersDone tid = true

/-- VLMAX of R20: 8·⌊512 / (VW + B·TW)⌋ under a value of VT. -/
def vlmaxOf (vt : Nat) : Nat :=
  8 * (512 / (vwOf (vt % 16) + vt / 32 % 16 * (if vt / 16 % 2 = 1 then 2 else 4)))

/-- R140: VT values that vcfg refuses. -/
def vtRefused (vt : Nat) : Prop :=
  4 < vt / 2 ^ 27 % 8 ∨ vt / 2 ^ 9 % 16 < 5 ∨ 10 < vt / 2 ^ 9 % 16 ∨ vt % 16 ∈ [5, 6, 7]

/-- R6, R25, R133: what a control register reads as after cset of v, where it read as `old` before: fields that are RO or reserved keep
what they held. -/
def written (sel old : Nat) (v : Word) : Nat :=
  match sel with
  | 0x002 => v.toNat % 2 ^ 12
  | 0x005 | 0x006 => old &&& (63 ^^^ v.toNat % 64)
  | 0x020 | 0x021 | 0x022 | 0x023 | 0x032 | 0x033 | 0x034 => v.toNat
  | 0x030 => v.toNat / 4 % 2 ^ 54 * 4
  | 0x031 => v.toNat / 4 % 4 * 4 + old % 4
  | 0x037 => v.toNat / 2 ^ 32 % 64 * 2 ^ 32 + v.toNat % 2 ^ 16
  | 0x03A => v.toNat % 32
  | _ => old

end Sys2Proof.Machine

/-- R125, R130 to R132, R138. Each read of time or of a counter completes once older vector words are past the gate: x[d] holds the
cluster's cycles, the package's time, or counter n of the core, and nothing else changes.  Fences and vdrain complete once what they
wait for is done: no register and no byte of memory changes, an acquire wider than core scope leaves no line in the core's L1, and vdrain
leaves none that a drained vector read has read (R284, R286).  That the L1 is a list of lines, which such a drain or acquire empties, is the
model's choice (log 9). -/
def Obligations.TimeAndFences : Prop :=
  (∀ s d, dispatched s s.turn →
    (∃ t, exec (.rdcyc true d) s = .next t ∧ RetiresWith s t s.turn d (word (s.cluster (s.turn / 32)).cyc) (s.past s.turn)) ∧
    (∃ t, exec (.rdtime true d) s = .next t ∧ RetiresWith s t s.turn d (word s.time) (s.past s.turn)) ∧
    (∀ n : BitVec 4, ∃ t, exec (.rdctr true d n) s = .next t ∧
      RetiresWith s t s.turn d (word (s.counter (s.turn / 4) n.toNat)) (s.past s.turn))) ∧
  (∀ s (c : BitVec 3),
    (∃ t, exec (.fenceAcq true c) s = .next t ∧ SameMem s t ∧ RetiresMem s t s.turn 0 0 (s.past s.turn) ∧
      (c ≠ 0 → t.l1 (coreOf s.turn) = [])) ∧
    (releaseReady s s.turn →
      (∃ t, exec (.fenceRel true c) s = .next t ∧ RetiresWith s t s.turn 0 0 (s.past s.turn)) ∧
      (∃ t, exec (.fence true c) s = .next t ∧ SameMem s t ∧ RetiresMem s t s.turn 0 0 (s.past s.turn) ∧
        (c ≠ 0 → t.l1 (coreOf s.turn) = [])) ∧
      ((s.ctx s.turn).copyFault = none → ∃ t, exec (.vdrain true) s = .next t ∧ SameMem s t ∧ MemWord s t s.turn ∧
        t.hart s.turn = frontDone { s.hart s.turn with vlines := [] } (s.past s.turn) ∧
        ∀ n ∈ (s.hart s.turn).vlines, ∀ l ∈ t.l1 (coreOf s.turn), l.line ≠ n)))

/-- R26, R47, R133. cget of an assigned select outside the trap-area window writes x[d] with the register and changes nothing else. In a
handler, cget and cset of TDLO and TDHI reach the two halves of the dump entry that TDSEL names; outside one they raise OPND. -/
def Obligations.ControlReads : Prop :=
  (∀ s d (sel : BitVec 8), assignedSelect sel.toNat = true → sel ≠ 0x3B → sel ≠ 0x3C → (s.hart s.turn).queue = [] →
    ∃ t, exec (.cget true d sel) s = .next t ∧ RetiresWith s t s.turn d (word (s.ctrl s.turn sel.toNat)) (s.past s.turn)) ∧
  (∀ (s : State) (r : BitVec 7) (hi : Bool), s.stoppable s.turn = true →
    let sel : BitVec 8 := if hi then 0x3C else 0x3B
    let at' : Nat := (s.ctx s.turn).frm + 0xC00 + 16 * ((s.ctx s.turn).tdsel % 32) + (if hi then 8 else 0)
    ((s.ctx s.turn).inh = true →
      (s.poisoned at' 8 = false → ∃ t, exec (.cget true r sel) s = .next t ∧ RetiresWith s t s.turn r (word (s.mem.readN at' 8)) (s.past s.turn)) ∧
      (∃ t, exec (.cset true r sel) s = .next t ∧ SameMemBut s t at' 8 ∧ MemWord s t s.turn ∧ WritesX s t s.turn 0 0 ∧
        (s.mem.wf = true → Holds t at' 8 (s.x s.turn r).toNat) ∧ t.pc s.turn = s.pc s.turn + 4)) ∧
    ((s.ctx s.turn).inh = false →
      (∀ w, encode (.cget true r sel) = some w → exec (.cget true r sel) s = .next (s.trapEntry s.turn cOPND (w.setWidth 64))) ∧
      (∀ w, encode (.cset true r sel) = some w → exec (.cset true r sel) s = .next (s.trapEntry s.turn cOPND (w.setWidth 64)))))

/-- R6, R25, R26, R133. cset writes its register field by field and no other: every other control register, every scalar register, every
other hart and all of memory stay (GB holds the priority field of TSTAT). -/
def Obligations.ControlWrites : Prop :=
  ∀ s a (sel : BitVec 8), assignedSelect sel.toNat = true → sel ≠ 0x3B → sel ≠ 0x3C → (s.hart s.turn).queue = [] →
    (sel = 0x21 ∨ sel = 0x23 ∨ sel = 0x31 → (s.ctx s.turn).prv = true) →
    ∃ t, exec (.cset true a sel) s = .next t ∧ OnlyHart s t s.turn ∧ (t.ctx s.turn).x = (s.ctx s.turn).x ∧
      t.pc s.turn = s.pc s.turn + 4 ∧
      t.ctrl s.turn sel.toNat = written sel.toNat (s.ctrl s.turn sel.toNat) (s.x s.turn a) ∧
      ∀ sel', sel' ≠ sel.toNat → sel' ≠ 0x029 → t.ctrl s.turn sel' = s.ctrl s.turn sel'

/-- R20, R140 to R142. With an empty queue, vcfg loads a VT it accepts, clips VL, clears VS and writes VLMAX; wbase moves the window where
the bank holds it; both refuse other values with OPND.  vgrant sets VL to the lesser of x[a] and VLMAX, clears VS and writes VL to x[d];
no other scalar register and no context of another hart changes. -/
def Obligations.VectorConfiguration : Prop :=
  (∀ (s : State) d a, (s.hart s.turn).queue = [] → s.stoppable s.turn = true →
    let vt := (s.x s.turn a).toNat % 2 ^ 32
    let wb := (s.x s.turn a).toNat
    (¬ vtRefused vt → ∃ t, exec (.vcfg true d a) s = .next t ∧
      RetiresWith s t s.turn d (word (vlmaxOf vt))
        { s.past s.turn with vt := vt, vl := min (s.ctx s.turn).vl (vlmaxOf vt), vs := 0 }) ∧
    (∀ w, vtRefused vt → encode (.vcfg true d a) = some w → exec (.vcfg true d a) s = .next (s.trapEntry s.turn cOPND (w.setWidth 64))) ∧
    (wb % 64 = 0 → wb + 128 ≤ (s.ctx s.turn).vcount → ∃ t, exec (.wbase true a) s = .next t ∧
      RetiresWith s t s.turn 0 0 { s.past s.turn with wb := wb }) ∧
    (∀ w, ¬ (wb % 64 = 0 ∧ wb + 128 ≤ (s.ctx s.turn).vcount) → encode (.wbase true a) = some w →
      exec (.wbase true a) s = .next (s.trapEntry s.turn cOPND (w.setWidth 64)))) ∧
  (∀ (s : State) d a, (s.hart s.turn).queue = [] →
    let vl := min (s.x s.turn a).toNat (vlmaxOf (s.ctx s.turn).vt)
    ∃ t, exec (.vgrant true d a) s = .next t ∧ WritesX s t s.turn d (word vl) ∧ (t.ctx s.turn).vl = vl ∧ (t.ctx s.turn).vs = 0 ∧
      (t.ctx s.turn).vt = (s.ctx s.turn).vt ∧ (t.ctx s.turn).wb = (s.ctx s.turn).wb ∧ t.pc s.turn = s.pc s.turn + 4 ∧
      ∀ g, g ≠ s.turn → t.ctx g = s.ctx g)

/-- R135 to R137. yield goes on, without its reservation, where the scheduler would place no other task here, else the task leaves the
hart as READY; halt, for the supervisor and with everything drained, leaves the hart without a task and out of service, its task READY
since now.  tlbinv, for the supervisor, with bits [62:56] clear and with no leaf kept for a released store (R288) that it would drop,
leaves no cached translation that covers the address, or none at all, at any level; no register changes, and no byte of memory outside
the destination of a move that it aborts (R308, R320).  Three readings are the model's: when yield stops (log 82), that every yield ends the
reservation (log 93), and that tlbinv of one address finds moves by the virtual addresses of their descriptors (log 24). -/
def Obligations.SupervisorWords : Prop :=
  (∀ s : State, (s.retire s.turn).yieldsTo s.turn = false → ∃ t, exec (.yield true) s = .next t ∧ (t.hart s.turn).resv = none ∧
      RetiresWith (s.updHart s.turn (fun k => { k with resv := none })) t s.turn 0 0 (s.past s.turn)) ∧
  (∀ (s : State) tid, (s.hart s.turn).task = some tid → (s.taskOf tid).isSome = true → (s.retire s.turn).yieldsTo s.turn = true →
    s.savable s.turn = true → ∃ t, exec (.yield true) s = .next t ∧ (t.hart s.turn).task = none ∧
      (t.taskOf tid).map (fun k => (k.st, k.since)) = some (.ready, s.time)) ∧
  (∀ (s : State) tid, (s.hart s.turn).task = some tid → (s.taskOf tid).isSome = true → (s.ctx s.turn).prv = true → (s.hart s.turn).queue = [] →
    s.transfersDone tid = true → ∃ t, exec (.halt true) s = .next t ∧ (t.hart s.turn).task = none ∧ (t.hart s.turn).halted = true ∧
      (t.taskOf tid).map (fun k => (k.st, k.since)) = some (.ready, s.time)) ∧
  (∀ (s : State) a, (s.ctx s.turn).prv = true → (s.x s.turn a).toNat / 2 ^ 56 % 128 = 0 →
    let all := (s.x s.turn a).msb
    let va := (s.x s.turn a).toNat % 2 ^ 56
    let aborts (m : Move) : Prop := all = false ∧ m.phase = 1 ∧ (m.srcVa = va / 65536 * 65536 ∨ m.dstVa = va / 65536 * 65536)
    (∀ g, ∀ e ∈ s.kept g, all = false ∧ ¬ (e.va ≤ va ∧ va < e.va + 2 ^ e.size)) →
    ∃ t, exec (.tlbinv true a) s = .next t ∧
      (∀ b, (∀ e ∈ s.towers, ∀ m ∈ e.2.moves, aborts m.2 → b / 65536 ≠ m.2.dst) → t.mem.read b = s.mem.read b) ∧ WritesX s t s.turn 0 0 ∧ t.pc s.turn = s.pc s.turn + 4 ∧
      (∀ g, g ≠ s.turn → { t.hart g with pins := (s.hart g).pins } = s.hart g) ∧
      ∀ c e, (e ∈ Tbl.get [] t.mmu.tlb1 c ∨ e ∈ Tbl.get [] t.mmu.tlb2 c ∨ e ∈ Tbl.get [] t.mmu.tlbBase c) →
        all = false ∧ ¬ (e.va ≤ va ∧ va < e.va + 2 ^ e.size))

/-! ### Exceptions -/

/-- R45, R48, R374. Taking a trap with a handler: EPC, ECP, EVS, ECAUSE and EVAL are saved, INH is set, VS is zero, PC is TVEC, the
vector queue is empty and the reservation lost; the scalar registers and the privilege stay.  Without a handler, or in one, the task
ends: the hart is left without it and its scheduler entry is gone. -/
def Obligations.TrapEntrySaves : Prop :=
  (∀ (s : State) h cause val, s.stoppable h = true → (s.ctx h).tvec ≠ 0 → (s.ctx h).inh = false →
    let t := s.trapEntry h cause val
    (t.ctx h).epc = s.pc h ∧ (t.ctx h).ecp = s.cp h ∧ (t.ctx h).evs = word (s.ctx h).vs ∧ (t.ctx h).ecause = word cause ∧
    (t.ctx h).evalr = val ∧ (t.ctx h).inh = true ∧ (t.ctx h).pc = (s.ctx h).tvec ∧ (t.ctx h).vs = 0 ∧
    (t.ctx h).prv = (s.ctx h).prv ∧ (t.ctx h).enqN = (s.hart h).queue.length ∧ (t.hart h).queue = [] ∧ (t.hart h).resv = none ∧
    (∀ g r, t.x g r = s.x g r) ∧ (t.hart h).task = (s.hart h).task ∧ ∀ g, g ≠ h → t.ctx g = s.ctx g) ∧
  (∀ (s : State) h cause val tid, s.stoppable h = true → ((s.ctx h).tvec = 0 ∨ (s.ctx h).inh = true) → (s.hart h).task = some tid →
    (s.taskOf tid).isSome = true →
    s.trapEntry h cause val = s.terminate h cause val ∧ ((s.terminate h cause val).hart h).task = none ∧
      (s.terminate h cause val).taskOf tid = none)

namespace Sys2Proof.Machine

/-- R46, step by step: hart h with VT, VL and WB from the trap area, VS from EVS, INH clear, and lane targets computed anew. -/
def handlerLeft (s : State) (h : Nat) : State :=
  let saved := fun k => s.mem.readN ((s.ctx h).frm + 0xA00 + 8 * k) 8
  (s.updCtx h (fun c => { c with
    vt := saved 0 % 2 ^ 32, vl := saved 1 % 2 ^ 13, wb := saved 2 % 2 ^ 11, vs := c.evs.toNat % 2 ^ 12, inh := false })).retarget (coreOf h)

/-- Entry k of a dump whose 16 bytes are n: its word, its captured scalars, DONE and its sequence number (R40). -/
def isDumped (e : QEntry) (n seq : Nat) : Prop :=
  e.word = BitVec.ofNat 32 n ∧ e.opA = BitVec.ofNat 64 (n / 2 ^ 32) ∧ e.opB = (BitVec.ofNat 24 (n / 2 ^ 96)).signExtend 64 ∧
  e.done = decide (n / 2 ^ 123 % 2 = 1) ∧ e.seq = seq % 2 ^ 16

end Sys2Proof.Machine

/-- R42, R44, R46, R134. trap raises TRAP with EVAL = x[a]; ebrk raises EBRK with EVAL = PC where no debugger is attached, and otherwise
holds the hart with its PC at the word.  With an empty queue, tret in a handler whose trap area is not poisoned
restores VT, VL and WB from the trap area, VS from EVS and PC from EPC, and clears INH; outside a handler it raises ILL.  The N entries of
the saved dump, read as R40 lays them out with sequence numbers from SEQ0, are then in the queue again but for convoys at its head whose
entries all have DONE = 1, where VT, VL and the dump pass the checks of R42; where one fails the task ends with RSTR. -/
def Obligations.TrapWords : Prop :=
  (∀ s : State, s.stoppable s.turn = true →
    (∀ a, exec (.trap true a) s = .next (s.trapEntry s.turn cTRAP (s.x s.turn a))) ∧
    ((s.hart s.turn).dbg = false → exec (.ebrk true) s = .next (s.trapEntry s.turn cEBRK (s.pc s.turn))) ∧
    ((s.hart s.turn).dbg = true → ∃ t, exec (.ebrk true) s = .next t ∧ { t with harts := s.harts, cores := s.cores } = s ∧
      (∀ c, { t.core c with ctr := (s.core c).ctr, interlock := (s.core c).interlock, inbox := (s.core c).inbox } = s.core c) ∧
      (∀ g, g ≠ s.turn → t.hart g = s.hart g) ∧ (∀ r, t.x s.turn r = s.x s.turn r) ∧ (t.hart s.turn).held.isSome = true ∧
      t.pc s.turn = s.pc s.turn ∧ (t.hart s.turn).queue = (s.hart s.turn).queue)) ∧
  (∀ s : State,
    (let c := s.ctx s.turn
     let saved := fun k => s.mem.readN (c.frm + 0xA00 + 8 * k) 8
     c.inh = true → (s.hart s.turn).queue = [] → s.poisoned (c.frm + 0xA00) 0x400 = false →
     let u := handlerLeft s s.turn
     ∃ es : List (Nat × QEntry),
       es = u.readDump c.frm 0xC00 (min c.enqN 32) c.enqSeq0 (((s.hartTask s.turn).map (·.trapAddrs)).getD []) c.ecp ∧
       (∀ k, k < min c.enqN 32 → ∃ e, es[k]? = some (s.mem.readN (c.frm + 0xC00 + 16 * k) 16, e) ∧
         isDumped e (s.mem.readN (c.frm + 0xC00 + 16 * k) 16) (c.enqSeq0 + k)) ∧
       (u.dumpOk s.turn c.enqN es = true → ∃ t, exec (.tret true) s = .next t ∧ (t.ctx s.turn).inh = false ∧ t.pc s.turn = c.epc ∧
         (t.ctx s.turn).vs = c.evs.toNat % 2 ^ 12 ∧ (t.ctx s.turn).vt = saved 0 % 2 ^ 32 ∧ (t.ctx s.turn).vl = saved 1 % 2 ^ 13 ∧
         (t.ctx s.turn).wb = saved 2 % 2 ^ 11 ∧ (t.hart s.turn).queue = dropDone 33 (es.map Prod.snd) ∧ (∀ g r, t.x g r = s.x g r) ∧
         SameMem s t ∧ ∀ g, g ≠ s.turn → t.ctx g = s.ctx g) ∧
       (u.dumpOk s.turn c.enqN es = false → exec (.tret true) s = .next (u.terminateAt s.turn cRSTR 0 c.ecp)) ∧
       (c.enqN = 0 → (u.dumpOk s.turn c.enqN es = vtOk (saved 0 % 2 ^ 32) (saved 1 % 2 ^ 13)))) ∧
    (∀ w, (s.ctx s.turn).inh = false → encode (.tret true) = some w →
      exec (.tret true) s = .next (s.trapEntry s.turn cILL (w.setWidth 64))))

/-- R73, R89, R120, R348. A word that is no instruction raises ILL with EVAL holding it; a fetch at an address with bits [63:56] nonzero
raises SACC with EVAL holding the PC, and one whose translation misses swaps the task out.  A hart access that misses leaves the hart
free, the task waiting for its page, and the page asked for on its behalf: where ATS denied it, the untranslated host page (R351). -/
def Obligations.FetchAndPageFaults : Prop :=
  (∀ (s : State) w, exec (.notAnInstruction w) s = .next (s.trapEntry s.turn cILL (w.setWidth 64))) ∧
  (∀ (s : State) h, (s.hart h).task.isSome = true → s.stoppable h = true → 2 ^ 56 ≤ (s.pc h).toNat →
    exec (.instructionFetchFault h) s = .next (s.trapEntry h cSACC (s.pc h))) ∧
  (∀ (s : State) h t host, (s.hart h).task.isSome = true → (s.pc h).toNat < 2 ^ 56 →
    (translate (s.reqOf h) .fetch (s.pc h).toNat).run s = .ok (.miss host) t →
    exec (.instructionFetchFault h) s =
      .next ((keepSide s t).pageFault h { va := (s.pc h).toNat, host := host } (needOf .fetch (s.ctx h).prv))) ∧
  (∀ (s : State) h (p : PageAddr) need tid, s.savable h = true → (s.hart h).task = some tid → (s.taskOf tid).isSome = true →
    ((s.pageFault h p need).hart h).task = none ∧
    ((s.pageFault h p need).taskOf tid).map (fun k => k.st) = some .pagewait ∧
    ((∃ r ∈ (s.pageFault h p need).pageWait, r.lno = s.hartLno h ∧ r.page = p.host.getD p.va / 65536) ∨
     (∃ k sl r, (k, sl) ∈ (s.pageFault h p need).slots ∧ sl.req = some r ∧ r.lno = s.hartLno h ∧ r.page = p.host.getD p.va / 65536)))

/-- R17, R372, R373. A context that is saved and read back is what it was: the scalar registers, PC and CP, the control and exception
registers, the handles, the masks, the Sounding registers and the latches, each within its fields (R6); and the frame holds the whole
vector region. -/
def Obligations.SavedContextReturns : Prop :=
  ∀ (s : State) h cp dump, s.mem.wf = true →
    let c := s.ctx h
    let u := s.saveFrame h cp dump
    let r := u.readFrame c.frm
    (∀ k, 0 < k → k < 128 → Tbl.get 0 r.x k = Tbl.get 0 c.x k) ∧ r.pc = c.pc ∧ u.frameCp c.frm = cp ∧
    r.tvec = c.tvec &&& word (2 ^ 56 - 4) ∧ r.epc = c.epc ∧ r.ecp = c.ecp ∧ r.evs = c.evs ∧ r.ecause = c.ecause &&& word 255 ∧ r.evalr = c.evalr ∧ r.key = c.key ∧
    r.strm = c.strm ∧ r.srq = c.srq ∧ r.pkey = c.pkey ∧ r.ast = c.ast &&& word (2 ^ 64 - 1 - (2 ^ 24 - 4)) ∧ r.prv = c.prv ∧ r.inh = c.inh ∧ r.prio = c.prio % 4 ∧
    r.vt = c.vt % 2 ^ 32 ∧ r.vl = c.vl % 2 ^ 13 ∧ r.vs = c.vs % 2 ^ 12 ∧ r.wb = c.wb % 2 ^ 11 ∧ r.fv = c.fv % 2 ^ 6 ∧
    r.ft = c.ft % 2 ^ 6 ∧ r.cnt = c.cnt % 2 ^ 64 ∧ r.mean = c.mean % 2 ^ 64 ∧ r.m2 = c.m2 % 2 ^ 64 ∧ r.out = c.out % 2 ^ 21 ∧
    (∀ k, k < 8 → Tbl.get 0 r.q k = c.mask k % 2 ^ 4096) ∧ (∀ k, k < 32 → Tbl.get 0 r.h k = Tbl.get 0 c.h k % 2 ^ 256) ∧
    (∀ k, k < 8 → Tbl.get 0 r.sw k = Tbl.get 0 c.sw k) ∧
    ((∀ b, c.bovf = some b → b < 8) → r.copyFault = c.copyFault ∧ r.bovf = c.bovf) ∧
    ∀ n, n < c.vcount → u.mem.readN (c.frm + 0x80000 + 4096 * n) 4096 = s.vreg (coreOf h) (c.vbase + n) % 2 ^ 32768

/-! ### Words of the vector queue -/

namespace Sys2Proof.Machine

/-- R41: the captured operands of a word on hart h. -/
def opA (s : State) (h : Nat) (v : VWord) : Word := match v.capA with | some r => s.x h r | none => 0
def opB (s : State) (h : Nat) (v : VWord) : Word := match v.capB with | some r => ((s.x h r).setWidth 24).signExtend 64 | none => 0

/-- A word that waits in the vector queue and acts there: all of R83 to R88 but those that act at issue. -/
def queued (v : VWord) (i : Instr) : Prop := v.kind = .element ∨ v.kind = .once ∨ isMmul i = true ∨ ∃ k d, i = .mzero k d

/-- The context of hart h after a word of the vector queue has issued (R31, R35). -/
def issuedCtx (c : Ctx) : Ctx := { c with vseq := (c.vseq + 1) % 2 ^ 16, pc := c.pc + 4 }

/-- A queue word that is complete at issue has issued on hart h: PC is past it, a sequence number is taken, memory and every other hart
are as they were. -/
def IssuedAlone (s t : State) (h : Nat) : Prop :=
  t.pc h = s.pc h + 4 ∧ (t.ctx h).vseq = ((s.ctx h).vseq + 1) % 2 ^ 16 ∧ SameMem s t ∧ ∀ g, g ≠ h → t.hart g = s.hart g

/-- A run-ahead word i has issued on hart h with OPA a, and stands behind the others in the queue until the gate releases it (R37, R193). -/
def IssuedBehind (s t : State) (h : Nat) (i : Instr) (a : Word) : Prop :=
  IssuedAlone s t h ∧ ∃ e : QEntry, (t.hart h).queue = (s.hart h).queue ++ [e] ∧ e.addr = s.pc h ∧ e.seq = (s.ctx h).vseq ∧ e.opA = a ∧
    e.done = false ∧ ∀ w, encode i = some w → e.word = w

/-- No matrix word and no drain is open in the queue of hart h (R221, R235), and the queue has room (R36). -/
def matrixFree (s : State) (h : Nat) : Prop :=
  (∀ e ∈ (s.hart h).queue, e.ahead = false ∧ (e.done = false → (e.instr.map isDrain).getD false = false)) ∧
  (s.hart h).queue.length < 32

/-- R222, R55: the code of storage element e of a plane whose weights begin at byte `off` of a W allocation: its bytes, or of a planar
format the bits that the planes read hold of it, plane 0 first. -/
def storedCode (p : Plane) (w : Memory) (off e : Nat) : Nat :=
  if p.fmt = 0 then w.readN (off + 2 * e) 2
  else if p.fmt ≤ 2 then w.readN (off + e) 1
  else (List.range (if p.fmt = 3 then 4 else 2)).foldl (fun v g =>
    2 * v + (w.read (off + 16 * p.ps * (e / 128) + 16 * g + e % 128 / 8)).toNat / 2 ^ (e % 8) % 2) 0

/-- R222: the plane p after an mlds of hart h has read it at byte `off` of the W allocation: where each weight stands, its code, and the
scale that the scale file gives it. -/
def Loaded (p q : Plane) (c : Ctx) (w : Memory) (off : Nat) : Prop :=
  ∃ ws : List Weight, q = { p with weights := ws } ∧
    (p.spn = 0 → ws.length = p.kg * p.ng ∧ ∀ e, e < p.kg * p.ng → ∃ x, ws[e]? = some x ∧ x.kk = e / p.ng ∧ x.n = e % p.ng ∧ x.e = e ∧
      x.code = storedCode p w off e ∧ (p.fmt ≠ 0 → x.scale = c.scaleExp e)) ∧
    (p.spn ≠ 0 →
      let kept := if p.spn = 1 then 8 else 4
      let total := p.kg / 16 * kept * p.ng
      let index := off + 16 * ((total * (if p.fmt = 0 then 2 else 1) + 15) / 16)
      ws.length = total ∧ ∀ e, e < total → ∃ x, ws[e]? = some x ∧
        x.kk = 16 * (e / p.ng / kept) + (w.read (index + e / 2)).toNat / 16 ^ (e % 2) % 16 ∧ x.n = e % p.ng ∧ x.e = e ∧
        x.code = storedCode p w off e ∧ (p.fmt ≠ 0 → x.scale = c.scaleExp e))

/-- R219, R220: the shape that a request grants. -/
def granted (r : Nat) : Shape :=
  let fmt := r / 2 ^ 44 % 8
  let spn := r / 2 ^ 47 % 4
  { sx := r / 2 ^ 55 % 256, ps := r / 2 ^ 49 % 16, spn := spn, fmt := fmt, org := r / 2 ^ 29 % 2 ^ 15, mg := min (r / 2 ^ 21 % 128) 64,
    ng := min (r / 2 ^ 11 % 2 ^ 10) (planeCols fmt), kg := min (r % 2 ^ 11) (planeDepth spn) }

/-- R220: what mshape writes for a grant. -/
def grantWord (s : State) (c r : Nat) : Word :=
  word (2 ^ 63 + (s.core c).avail * 2 ^ 56 + (granted r).mg * 2 ^ 21 + (granted r).ng * 2 ^ 11 + (granted r).kg)

end Sys2Proof.Machine

/-- R31, R35, R36, R41, R75, R76, R84. Every word that the vector unit performs issues where it meets the convoy rules and its operand
checks and the queue has room: it takes the place behind the others with its captured operands and its sequence number, PC moves past
it, and no other hart, register or byte of memory changes. A word that breaks the convoy rules raises CONV, one that fails its operand
checks OPND. -/
def Obligations.QueueWordsEnter : Prop :=
  ∀ s i w v, encode i = some w → vword (s.ctx s.turn) i = some v → queued v i →
    let bad := issueBad s s.turn v (opA s s.turn v) (opB s s.turn v) i
    let rules := s.convoyOk s.turn (v.withOpA (opA s s.turn v) i)
    (rules = true → bad = false → (s.hart s.turn).queue.length < 32 →
      ∃ (t : State) (e : QEntry), exec i s = .next t ∧ e.word = w ∧ e.addr = s.pc s.turn ∧ e.opA = opA s s.turn v ∧ e.opB = opB s s.turn v ∧
        e.capA = v.capA.isSome ∧ e.capB = v.capB.isSome ∧ e.seq = (s.ctx s.turn).vseq ∧ e.done = false ∧
        t.hart s.turn = { s.hart s.turn with
          queue := (s.hart s.turn).queue ++ [e], ctx := issuedCtx (s.ctx s.turn), openConvoy := (t.hart s.turn).openConvoy,
          noMatch := false, waiting := .none, spin := 0 } ∧
        (∀ g, g ≠ s.turn → t.hart g = s.hart g) ∧ { t with harts := s.harts, cores := s.cores } = s ∧
        ∀ c, { t.core c with job := (s.core c).job } = s.core c) ∧
    (rules = false → exec i s = .next (s.trapEntry s.turn cCONV (w.setWidth 64))) ∧
    (rules = true → bad = true → exec i s = .next (s.trapEntry s.turn cOPND (w.setWidth 64)))

/-- R216, R220, R222, R232, R233. What the matrix words do at issue, and at the gate. mshape grants a free Anvil, with every tile +0 and both
planes empty, reshapes the owner's, answers 0 where another task holds it or one is releasing it, and gives it up; mlds makes the next plane
active and fixes its record; mstat writes the Anvil's state. mshape, mlds and mzero stand in the queue until a cycle of the gate releases
them: then mlds reads the weights of its plane from the W allocation, mzero clears its tile group alone, and a releasing mshape has
completed. -/
def Obligations.MatrixWordsAtIssue : Prop :=
  (∀ s : State, matrixFree s s.turn →
    let h := s.turn
    let c := s.turn / 4
    (∀ d, ∃ t, exec (.mstat true d) s = .next t ∧ IssuedAlone s t h ∧ WritesX s t h d (word (s.mstat h)) ∧ t.core c = s.core c) ∧
    (∀ d a tid, (s.hart h).task = some tid → mshapeBad (s.x h a).toNat = false → (s.x h a).msb = false →
      let r := (s.x h a).toNat
      (((s.anvil c).owner = none ∧ (s.anvil c).releasing = none) ∨ (s.anvil c).owner = some tid →
        (s.anvil c).releasing = none →
        ∃ t, exec (.mshape true d a) s = .next t ∧ IssuedBehind s t h (.mshape true d a) (s.x h a) ∧ WritesX s t h d (grantWord s c r) ∧
          (t.anvil c).owner = some tid ∧ (t.anvil c).shape = granted r ∧
          (if (s.anvil c).owner = none then
            (∀ k, Tbl.get 0 (t.anvil c).tiles k = 0) ∧ (t.anvil c).plane0 = none ∧ (t.anvil c).plane1 = none
           else { t.anvil c with shape := (s.anvil c).shape } = s.anvil c)) ∧
      (((s.anvil c).owner.isSome = true ∧ (s.anvil c).owner ≠ some tid) ∨
          ((s.anvil c).owner = none ∧ (s.anvil c).releasing.isSome = true) → (s.anvil c).releasing ≠ some tid →
        ∃ t, exec (.mshape true d a) s = .next t ∧ IssuedBehind s t h (.mshape true d a) (s.x h a) ∧ WritesX s t h d 0 ∧
          t.anvil c = s.anvil c)) ∧
    (∀ d a tid, (s.hart h).task = some tid → (s.x h a).toNat = 2 ^ 63 →
      ∃ t, exec (.mshape true d a) s = .next t ∧ IssuedBehind s t h (.mshape true d a) (s.x h a) ∧ WritesX s t h d 0 ∧
        (if (s.anvil c).owner = some tid then (t.anvil c).owner = none ∧ (t.anvil c).releasing = some tid ∧ (t.anvil c).relDone = false
         else t.anvil c = s.anvil c)) ∧
    (∀ a, s.ownsAnvil h = true → ownIssueBad s h (s.x h a) 0 (.mlds true a) = false →
      ∃ t, exec (.mlds true a) s = .next t ∧ IssuedBehind s t h (.mlds true a) (s.x h a) ∧ WritesX s t h 0 0 ∧
        (t.anvil c).loads = (s.anvil c).loads + 1 ∧
        (t.anvil c).active = (s.anvil c).loads % 2 ∧ (t.anvil c).tiles = (s.anvil c).tiles ∧
        ∃ p, (t.anvil c).activePlane = some p ∧ p.fmt = (s.anvil c).shape.fmt ∧ p.kg = (s.anvil c).shape.kg ∧
          p.ng = (s.anvil c).shape.ng ∧ p.spn = (s.anvil c).shape.spn ∧ p.ps = (s.anvil c).shape.ps ∧
          p.j0 = (s.x h a).toNat / 2 ^ 24) ∧
    (∀ d : BitVec 4, s.ownsAnvil h = true → (s.ctx h).tileOk d.toNat = true →
      ∃ t, exec (.mzero true d) s = .next t ∧ IssuedBehind s t h (.mzero true d) 0 ∧ WritesX s t h 0 0 ∧ t.anvil c = s.anvil c)) ∧
  (∀ (s : State) c k (e : QEntry) rest, k < 4 → (∀ j, j < 4 → j ≠ k → (s.hart (4 * c + j)).queue = []) →
    let h := 4 * c + k
    let level := (s.core c).gustLevel - gustLeak (s.core c).gustCfg
    (s.hart h).dbg = false → (s.hart h).queue = e :: rest → e.ahead = true → s.aheadReady h = true → (s.hart h).released = false →
    (level ≤ gustLimit (s.core c).gustCfg (s.ctx h).prio ∨ level = 0) →
    let gone (t : State) : Prop := exec (.gustCycle c) s = .next t ∧ (t.hart h).queue = dropDone 33 ({ e with done := true } :: rest) ∧
      (t.core c).gustLevel = min (2 ^ 24 - 1) level ∧ (∀ g r, t.x g r = s.x g r) ∧ t.mem = s.mem
    (∀ k' a p, e.instr = some (.mlds k' a) → (s.anvil c).plane (s.planeOf h 0) = some p →
      ∃ t q, gone t ∧ (t.anvil c).plane (s.planeOf h 0) = some q ∧ (t.anvil c).tiles = (s.anvil c).tiles ∧
        Loaded p q (s.ctx h) (s.buf c (s.hartLno h) .w).data (e.opA.toNat % 2 ^ 24)) ∧
    (∀ k' (d : BitVec 4), e.instr = some (.mzero k' d) →
      ∃ t, gone t ∧ ∀ n, n < 65536 → Tbl.get 0 (t.anvil c).tiles n =
        if d.toNat ≤ n / 4096 ∧ n / 4096 ≤ d.toNat + (s.ctx h).b then 0 else Tbl.get 0 (s.anvil c).tiles n) ∧
    (∀ k' d a, e.instr = some (.mshape k' d a) →
      ∃ t, gone t ∧ { t.anvil c with relDone := (s.anvil c).relDone } = s.anvil c ∧
        (e.opA.msb = true → (s.anvil c).releasing.isSome = true → (s.anvil c).releasing = (s.hart h).task → (t.anvil c).relDone = true)))

/-! ### The cluster -/

namespace Sys2Proof.Machine

/-- A word of the scalar front has completed on the hart whose turn it is: x[d] := v, PC past it; memory and every other hart are as
they were. -/
def Completes (s t : State) (d : BitVec 7) (v : Word) : Prop :=
  WritesX s t s.turn d v ∧ t.pc s.turn = s.pc s.turn + 4 ∧ SameMem s t ∧ ∀ g, g ≠ s.turn → t.hart g = s.hart g

/-- R253: a barrier after an arrival of n with expected count e, where its OV was cleared first if `clear`; and whether the arrival
was refused. -/
def arrived (b : Barrier) (e n : Nat) (clear : Bool) : Barrier × Bool :=
  let ov := b.ov && !clear
  let exp := if b.cnt = 0 then e else b.exp
  let total := b.cnt + n
  if total < exp then ({ ph := b.ph, cnt := total, exp := exp, ov := ov }, false)
  else if 2 * exp < total then ({ ph := b.ph, cnt := b.cnt, exp := exp, ov := true }, true)
  else if total = 2 * exp then ({ ph := (b.ph + 2) % 2 ^ 16, cnt := 0, exp := exp, ov := ov || decide (exp < total) }, false)
  else ({ ph := (b.ph + 1) % 2 ^ 16, cnt := total - exp, exp := exp, ov := ov || decide (exp < total) }, false)

/-- The home cluster of the hart whose turn it is has not lost what its launch held (R262), and serves a message at once: it runs, its gate
entry is aborted by the message (R264), or its tower has no power and the router serves (R404). -/
def clusterHeld (s : State) : Prop :=
  let cl := s.homeCluster s.turn
  (s.cluster cl).lost.contains (s.hartLno s.turn) = false ∧
  ((s.cluster cl).gate = .running ∨ (s.cluster cl).gate = .entering ∨ (s.tower (cl / 8)).powered = false)

/-- The word on the hart whose turn it is waits for its gated home cluster, which its message wakes (R264): the word is still at PC, and
nothing of the cluster but its gate and nothing of memory has changed. -/
def WaitsForWake (s t : State) : Prop :=
  let cl := s.homeCluster s.turn
  (t.cluster cl).gate = .waking ∧ { t.cluster cl with gate := (s.cluster cl).gate } = s.cluster cl ∧ t.pc s.turn = s.pc s.turn ∧
  (t.hart s.turn).waiting = .wake cl ∧ t.mem = s.mem ∧ (∀ g r, t.x g r = s.x g r) ∧ t.tasks = s.tasks

end Sys2Proof.Machine

/-- R251 to R255, R264. bar.arrive counts its arrivals as R253 lays down, latches a refused one, and writes the phase before; bar.wait on a
phase that has passed, with nothing latched, acquires and writes the status word. A message to a gated cluster wakes it and waits until
it runs. That a refused arrival at CNT = 0 leaves EXP set is the model's reading (log 122). -/
def Obligations.BarrierWords : Prop :=
  (∀ (s : State) (d a b : BitVec 7), (s.cluster (s.homeCluster s.turn)).lost.contains (s.hartLno s.turn) = false →
    (s.cluster (s.homeCluster s.turn)).gate = .gated → (s.tower (s.homeCluster s.turn / 8)).powered = true →
    (∃ t, exec (.barArrive true d a b) s = .next t ∧ WaitsForWake s t) ∧
    (∃ t, exec (.barWait true d a b) s = .next t ∧ WaitsForWake s t) ∧
    (∃ t, exec (.tskDef true d a b) s = .next t ∧ WaitsForWake s t) ∧
    (∃ t, exec (.tskDec true d a) s = .next t ∧ WaitsForWake s t)) ∧
  ∀ (s : State) (d a b : BitVec 7), clusterHeld s → barWordBad (s.x s.turn a).toNat = false →
    let cl := s.homeCluster s.turn
    let lno := s.hartLno s.turn
    let x := (s.x s.turn a).toNat
    let old := (s.cluster cl).bar lno (x % 8)
    (let n := (s.x s.turn b).toNat
     let e := x / 2 ^ 16 % 2 ^ 12
     releaseReady s s.turn → e ≠ 0 → 1 ≤ n → n ≤ 4095 → (old.cnt = 0 ∨ old.exp = e) →
     let r := arrived old e n ((s.x s.turn a).msb)
     ∃ t, exec (.barArrive true d a b) s = .next t ∧ Completes s t d (word old.ph) ∧ (t.cluster cl).bar lno (x % 8) = r.1 ∧
       (t.ctx s.turn).bovf = (if r.2 then some (x % 8) else (s.ctx s.turn).bovf)) ∧
    (phasePassed old.ph ((s.x s.turn b).toNat % 2 ^ 16) = true → (s.ctx s.turn).bovf = none → (s.ctx s.turn).guard = none →
      (s.ctx s.turn).copyFault = none →
      ∃ t, exec (.barWait true d a b) s = .next t ∧
        Completes s t d (word (b2n old.ov * 2 ^ 63 + old.exp % 2 ^ 12 * 2 ^ 48 + old.cnt % 2 ^ 12 * 2 ^ 32 + old.ph)) ∧
        (t.cluster cl).bar lno (x % 8) = old ∧ (x / 2 ^ 59 % 8 ≠ 0 → t.l1 (coreOf s.turn) = []))

/-- R257 to R260. tsk.def of a record it may read takes the lowest free counter of the home slice and writes its number, or all ones
when none is free; tsk.dec writes the count before, and frees a counter that reaches zero, with a ready task in its place. -/
def Obligations.NamedTaskWords : Prop :=
  ∀ (s : State) (d a b : BitVec 7), clusterHeld s →
    let cl := s.homeCluster s.turn
    let lno := s.hartLno s.turn
    (∀ n rec ps u, (s.x s.turn a).toNat % 64 = 0 → (s.x s.turn a).toNat < 2 ^ 56 → n = (s.x s.turn b).toNat → 1 ≤ n → n ≤ 65535 →
      let s' := s.wakeCluster cl
      (readHome (s'.reqOf s.turn) cSACC (s.x s.turn a) (s.x s.turn a).toNat 64).run s' = .ok (rec, ps) u →
      defBad rec = false →
      (∀ c, c < 1024 → Tbl.find (s.cluster cl).counters c = none → (∀ k, k < c → (Tbl.find (s.cluster cl).counters k).isSome = true) →
        ∃ (t : State) (dc : DepCounter), exec (.tskDef true d a b) s = .next t ∧ Completes s t d (word c) ∧
          Tbl.find (t.cluster cl).counters c = some dc ∧ dc.lno = lno ∧ dc.count = n ∧ dc.record = rec ∧ dc.prio = (s.ctx s.turn).prio ∧
          dc.prv = (s.ctx s.turn).prv) ∧
      ((∀ k, k < 1024 → (Tbl.find (s.cluster cl).counters k).isSome = true) →
        ∃ t, exec (.tskDef true d a b) s = .next t ∧ Completes s t d (word (2 ^ 64 - 1)) ∧
          (t.cluster cl).counters = (s.cluster cl).counters)) ∧
    (∀ c dc, c = (s.x s.turn a).toNat → c < 1024 → releaseReady s s.turn → Tbl.find (s.cluster cl).counters c = some dc → dc.lno = lno →
      ∃ t, exec (.tskDec true d a) s = .next t ∧ Completes s t d (word dc.count) ∧
        (2 ≤ dc.count → Tbl.find (t.cluster cl).counters c = some { dc with count := dc.count - 1 }) ∧
        (dc.count ≤ 1 → Tbl.find (t.cluster cl).counters c = none ∧
          ∃ k, Tbl.find t.tasks s.nextTask = some k ∧ k.st = .ready ∧ k.lno = lno ∧ k.home = cl ∧ k.started = false))

/-- R263 to R268. Power gates, wakes, LDOs and the Dewpoint loop: a core that has been idle for GIDLE cycles begins gate entry, an entry whose conditions still hold
gates the unit and one whose conditions no longer hold leaves it running, a wake ends with the unit running and the messages at its port performed, a settled lane group
leaves the list, and a sample moves VCODE by at most one step between its bounds and sets the emergency by its margin or by a monitor that
reads low outside the sample (the device decides, log 103). -/
def Obligations.PowerEvents : Prop :=
  ∀ s : State,
    (∀ c, (s.core c).gate = .running → s.mayGate c = true → (s.cluster (clusterOf c)).pgcfg / 2 ^ 32 % 2 ^ 32 ≤ (s.core c).idle →
      ∃ t, exec (.coreGate c) s = .next t ∧ (t.core c).gate = .entering ∧ ∀ k, k ≠ c → t.core k = s.core k) ∧
    (∀ c, (s.core c).gate = .entering → s.mayGate c = true →
      ∃ t, exec (.gateEntryComplete (.core c)) s = .next t ∧ (t.core c).gate = .gated) ∧
    (∀ cl, (s.cluster cl).gate = .entering → s.mayGateCluster cl = false →
      ∃ t, exec (.gateEntryComplete (.cluster cl)) s = .next t ∧ (t.cluster cl).gate = .running ∧ t.cores = s.cores) ∧
    (∀ c, (s.core c).gate = .waking → ∃ t, exec (.wakeComplete (.core c)) s = .next t ∧ (t.core c).gate = .running ∧
      t.clusters = s.clusters) ∧
    (∀ cl, (s.cluster cl).gate = .waking → (s.cluster cl).port = [] →
      ∃ t, exec (.wakeComplete (.cluster cl)) s = .next t ∧ t.cluster cl = { s.cluster cl with gate := .running } ∧ t.tasks = s.tasks ∧
        t.cores = s.cores ∧ ∀ k, k ≠ cl → t.cluster k = s.cluster k) ∧
    (∀ cl lno c dc, (s.cluster cl).gate = .waking → (s.cluster cl).port = [(lno, c)] → Tbl.find (s.cluster cl).counters c = some dc →
      dc.lno = lno → 2 ≤ dc.count →
      ∃ t, exec (.wakeComplete (.cluster cl)) s = .next t ∧ (t.cluster cl).gate = .running ∧ (t.cluster cl).port = [] ∧
        Tbl.find (t.cluster cl).counters c = some { dc with count := dc.count - 1 } ∧ t.tasks = s.tasks) ∧
    (∀ c g, ∃ t, exec (.ldoSettle c g) s = .next t ∧ (∀ k, k ∈ (t.core c).settling ↔ k ∈ (s.core c).settling ∧ k ≠ g) ∧
      ∀ k, k ≠ c → t.core k = s.core k) ∧
    (∀ cl mm, mm < 64 → (s.cluster cl).dpcfg % 2 = 1 →
      let p := (s.cluster cl).dpcfg
      let target := p / 2 ^ 42 % 64
      let hyst := p / 2 ^ 36 % 64
      ∃ t, exec (.dewpointSample cl mm) s = .next t ∧ (t.cluster cl).mm = mm ∧
        (mm < p / 2 ^ 30 % 64 → (t.cluster cl).emergency = true) ∧
        ((t.cluster cl).emergency = true → mm < p / 2 ^ 30 % 64 ∨
          (0 < p / 2 ^ 30 % 64 ∧ Config.monitorLow s.fresh cl = true)) ∧
        (t.cluster cl).vcode =
          (if mm + hyst < target then min (p / 2 ^ 56 % 256) ((s.cluster cl).vcode + 1)
           else if target + hyst < mm then max (p / 2 ^ 48 % 256) ((s.cluster cl).vcode - 1) else (s.cluster cl).vcode) ∧
        ∀ k, k ≠ cl → t.cluster k = s.cluster k)

/-! ### Launches and Sounding -/

/-- R375, R379 to R381. lnch of a record it may read and admit starts a live launch and writes its handle, or FULL; of a graph, starts an
instance. lwait writes the END word of what has ended, and RUNNING at once where it may not wait. -/
def Obligations.LaunchWords : Prop :=
  ∀ (s : State) (d a b : BitVec 7),
    let r := (s.x s.turn a).toNat
    let f := (s.x s.turn b).toNat
    (∀ n ps u, releaseReady s s.turn → f = 0 → r % 64 = 0 → r < 2 ^ 56 →
      (readHome (s.reqOf s.turn) cSACC (s.x s.turn a) r 256).run s = .ok (n, ps) u →
      recordBad n false = false → recPrio n ≤ (s.ctx s.turn).prio → s.pasidEnabled = true →
      ((s.ctx s.turn).prv = true ∨ (recSupv n = false ∧ recPasen n = false ∧ recPasid n = 0 ∧ recPtroot n = 0)) →
      ((∀ k, ({ s with fresh := k } : State).admitFull n = false) →
        ∃ (t : State) (lno : Nat) (l : Launch), exec (.lnch true d a b) s = .next t ∧ Completes s t d (word (l.gen * 2 ^ 16 + lno)) ∧ t.launch lno = some l ∧
          l.live = true ∧ l.record = n ∧ l.rva = r ∧ l.parent = s.hartLno s.turn ∧ l.total = recTotal n ∧ l.ended = 0) ∧
      ((∀ k, ({ s with fresh := k } : State).admitFull n = true) →
        ∃ t, exec (.lnch true d a b) s = .next t ∧ Completes s t d (word (2 ^ 60)) ∧ t.launches = s.launches)) ∧
    (releaseReady s s.turn → f = 1 → r < 256 → (s.graph r).nodes ≠ [] → (s.graph r).runs.length < 4 →
      ∃ t, exec (.lnch true d a b) s = .next t ∧ Completes s t d (word (2 ^ 32 + (s.graph r).gen * 2 ^ 16 + r)) ∧
        (t.graph r).runs.length = (s.graph r).runs.length + 1) ∧
    (∀ g : Bool, g = decide (r / 2 ^ 32 % 2 = 1) → f ≤ 1 → r / 2 ^ 33 % 2 ^ 27 = 0 → 
      (g = false → r % 2 ^ 16 ≠ 0 ∧
        (r % 2 ^ 16 = s.hartLno s.turn → (s.launch (r % 2 ^ 16)).any (fun l => l.gen == r / 2 ^ 16 % 2 ^ 16) = false)) →
      (g = true → r / 2 ^ 8 % 2 ^ 8 = 0) →
      (∀ e, s.handleEnd g (r % 2 ^ 16) (r / 2 ^ 16 % 2 ^ 16) = some e →
        ∃ t, exec (.lwait true d a b) s = .next t ∧ Completes s t d (word e) ∧ t.l1 (coreOf s.turn) = []) ∧
      (s.handleEnd g (r % 2 ^ 16) (r / 2 ^ 16 % 2 ^ 16) = none → f = 1 →
        ∃ t, exec (.lwait true d a b) s = .next t ∧ Completes s t d (word (15 * 2 ^ 60))))

/-- R390, R391, R393, R394, R396. snd.claim takes the next range under the quantum and the limit; snd.give takes one position off what is
owed and folds the sample, widened to binary64, into CNT, MEAN and M2, each operation rounded once, sets NONFIN for one that is not finite,
and with the last position owed sends the statistic to the slice of its tower; snd.stat writes what its selector names; a slice forwards its partial; the combiner takes in an arrived
partial and what it carried is no longer owed. -/
def Obligations.SoundingWords : Prop :=
  ∀ (s : State) (d a b : BitVec 7) (c : Sounding),
    let lno := s.hartLno s.turn
    s.snd lno = some c →
    (let q := min (sxQuant (s.sx lno)) (sxMax (s.sx lno) - c.cc)
     (s.ctx s.turn).out = 0 →
     (c.isSealed = false → ∃ (t : State) (c' : Sounding), exec (.sndClaim true d) s = .next t ∧ Completes s t d (word (q * 2 ^ 41 + c.cc)) ∧
       (t.ctx s.turn).out = q ∧ t.snd lno = some c' ∧ c'.cc = c.cc + q ∧ c'.x = c.x + q ∧
       (c'.isSealed = true ↔ c.cc + q = sxMax (s.sx lno))) ∧
     (c.isSealed = true → ∃ t, exec (.sndClaim true d) s = .next t ∧ Completes s t d (word (2 ^ 62 + c.s)) ∧
       t.snd lno = some c ∧ (t.ctx s.turn).out = 0)) ∧
    ((s.ctx s.turn).out ≠ 0 → ∃ t, exec (.sndGive true d a) s = .next t ∧ Completes s t d (word ((s.ctx s.turn).out - 1)) ∧
      (t.ctx s.turn).out = (s.ctx s.turn).out - 1 ∧
      (let y := r64 (fp32.decode ((s.x s.turn a).toNat % 2 ^ 32))
       let n := ((s.ctx s.turn).cnt + 1) % 2 ^ 64
       let δ := sub64 y (s.ctx s.turn).mean
       let m := add64 (s.ctx s.turn).mean (div64 (n64 δ) (natNum n))
       let m2 := add64 (s.ctx s.turn).m2 (mul64 δ (sub64 y m))
       t.snd lno = some { c with nonfin := c.nonfin || (n64 y).isNaN || (n64 y).isInf } ∧
       ((s.ctx s.turn).out = 1 → (t.ctx s.turn).cnt = 0 ∧ (t.ctx s.turn).mean = 0 ∧ (t.ctx s.turn).m2 = 0 ∧
         Tbl.find (t.tower (hartTower s.turn)).slices lno = some
           (((Tbl.find (s.tower (hartTower s.turn)).slices lno).getD { n := 0, mean := 0, m2 := 0 }).merge { n := n, mean := m, m2 := m2 })) ∧
       ((s.ctx s.turn).out ≠ 1 → (t.ctx s.turn).cnt = n ∧ (t.ctx s.turn).mean = m ∧ (t.ctx s.turn).m2 = m2 ∧ t.towers = s.towers))) ∧
    (∀ v, (match (s.x s.turn b).toNat % 2 ^ 24 with
       | 0 => some c.status
       | 1 => if (s.x s.turn a).toNat < sxItems (s.sx lno) then
           some (perm (word (recPkey (((s.launch lno).map (·.record)).getD 0))) (sxItems (s.sx lno)) (s.x s.turn a).toNat) else none
       | 2 => some c.n | 3 => some c.mean | 4 => some c.m2 | 5 => some c.hw | 6 => some (s.ctx s.turn).out | _ => none) = some v →
      ∃ t, exec (.sndStat true d a b) s = .next t ∧ RetiresWith s t s.turn d (word v) (s.past s.turn)) ∧
    (∀ tw p, Tbl.find (s.tower tw).slices lno = some p → p.n ≠ 0 → (s.tower tw).flight = [] →
      ∃ t, exec (.soundingSliceForward tw lno) s = .next t ∧ Tbl.find (t.tower tw).flight lno = some p ∧
        Tbl.find (t.tower tw).slices lno = none ∧ ∀ k, k ≠ tw → t.tower k = s.tower k) ∧
    (∀ p, Tbl.find (s.tower 0).flight lno = some p → p.n < c.x →
      ∃ (t : State) (c' : Sounding), exec (.soundingMerge lno) s = .next t ∧ t.snd lno = some c' ∧ c'.x = c.x - p.n ∧
        ({ n := c'.n, mean := c'.mean, m2 := c'.m2 } : Partial) = ({ n := c.n, mean := c.mean, m2 := c.m2 } : Partial).merge p ∧
        Tbl.find (t.tower 0).flight lno = none ∧ SameMem s t)

/-! ### What the core's engines do between words -/

namespace Sys2Proof.Machine

/-- A word that is complete at issue has issued on the hart whose turn it is, whose queue was empty and is empty again: x[d] := v. -/
def FrontWord (s t : State) (d : BitVec 7) (v : Word) : Prop :=
  WritesX s t s.turn d v ∧ IssuedAlone s t s.turn ∧ (t.hart s.turn).queue = []

end Sys2Proof.Machine

/-- R37, R38, R194, R241. When the last element of the released convoy at CP commits without a stop, every member has acted on it in convoy order,
CP passes the convoy, VS is zero and the gate may release the next one. Before the first element of a convoy that has just been released come
its checks and the acceptance of its copy words, and memory is looked at as its loads will take it (R287; the model's reading, log 118). -/
def Obligations.ConvoyCommitEnds : Prop :=
  ∀ (s s0 s1 u : State) h, (s.hart h).released = true → (s.hart h).remote = .idle → (s.hart h).queue ≠ [] → s.settlesOnly h = false →
    let c := s.ctx h
    let span := convoySpan c (firstConvoy (s.hart h).queue)
    (if c.vs = (s.hart h).startVs then
      (∃ v, (firstChecks h span).run s = .ok () v) ∧
      s.openMembersOf h span (firstConvoy (s.hart h).queue).zipIdx = (s0, true) ∧ s1 = s0.takeSnap h
     else s1 = s) →
    (s1.hart h).dbg = false → (s1.ctx h).vs = c.vs → span = c.vs + 1 →
    let s2 := ({ s1 with fresh := s1.fresh + 1 } : State).count (coreOf h) 5 (s1.groupCycles h)
    let s3 := if s2.reachesBuffers h c.vs (coreOf h) then s2.countConflicts (coreOf h) else s2
    (elementStep h c.vs).run s3 = .ok () u → s3.remoteTargets h c.vs = [] →
    ∃ t, exec (.convoyCommit h) s = .next t ∧ (t.ctx h).vs = 0 ∧ (t.hart h).released = false ∧ (t.hart h).snap = none ∧
      (t.hart h).queue = dropDone 33 (afterFirst (u.hart h).queue) ∧ t.mem = u.mem ∧
      (∀ k, { t.core k with interlock := (u.core k).interlock } = u.core k) ∧
      (∀ g, g ≠ h → t.hart g = u.hart g) ∧ (t.ctx h).x = (u.ctx h).x

namespace Sys2Proof.Machine

/-- An operand of an element-wise word: a vector register or its captured scalar (R145). -/
def elemSrc (L : Lane) (s : State) : Option (BitVec 7) → Nat
  | some r => s.elemAt L.core L.c (vwOf L.c.ew) r.toNat L.i
  | none => L.e.opA.toNat % 2 ^ (8 * vwOf L.c.ew)

/-- The bits of SR for index n, where VT.RM asks for them (R12). -/
def drawVt (L : Lane) (n : Nat) : Nat := if L.c.rm = .sr then srBits L.c.key L.c.strm L.c.srq n else 0

/-- An exact value rounded under VT to a format, with draw number n, and the events that led to it (R12, R57). -/
def roundVt (L : Lane) (f : Fmt) (n : Nat) (x : Num × Ev) : Nat × Ev :=
  ((roundNum f L.c.sat L.c.rm (drawVt L n) x.1).1, x.2 ||| (roundNum f L.c.sat L.c.rm (drawVt L n) x.1).2)

/-- Events of tangents 0 to B - 1. -/
def orEvents (n : Nat) (e : Nat → Ev) : Ev := (List.range n).foldl (fun x k => x ||| e k) 0

/-- Element j of register d, laid out under a value width, holds a value and tangents; every other element, value and tangents, every other
vector register and every scalar register hold what they held. -/
def PutsElement (L : Lane) (s t : State) (w : Nat) (d : BitVec 7) (j v : Nat) (tan : Nat → Nat) : Prop :=
  t.elemAt L.core L.c w d.toNat j = v % 2 ^ (8 * w) ∧
  (∀ k < L.c.b, t.tanAt L.core L.c w d.toNat j k = tan k % 2 ^ (8 * L.c.tw)) ∧
  (∀ n < L.c.vlmaxOf w, n ≠ j → t.elemAt L.core L.c w d.toNat n = s.elemAt L.core L.c w d.toNat n ∧
    ∀ k < L.c.b, t.tanAt L.core L.c w d.toNat n k = s.tanAt L.core L.c w d.toNat n k) ∧
  (∀ c p, (c ≠ L.core ∨ p ≠ L.c.phys d.toNat) → t.vreg c p = s.vreg c p) ∧ ∀ h r, t.x h r = s.x h r

/-- The lane's element raises value and tangent events (R62). -/
def Raised (L : Lane) (s t : State) (v tan : Ev) : Prop :=
  (t.ctx L.h).fv = (s.ctx L.h).fv ||| v ∧ (t.ctx L.h).ft = (s.ctx L.h).ft ||| tan

/-- The element is left out by the mask (R144). -/
def MaskedOff (L : Lane) (m : Bool) : Prop := m = true ∧ L.c.mask L.c.msel / 2 ^ L.i % 2 = 0

/-- An element that the mask leaves out changes nothing, and an active one completes in a state that P describes. -/
def Acts (L : Lane) (s : State) (i : Instr) (m : Bool) (P : State → Prop) : Prop :=
  (MaskedOff L m → (L.perform i).run s = .ok () s) ∧ (¬ MaskedOff L m → ∃ t, (L.perform i).run s = .ok () t ∧ P t)

/-- R53, R155, R156: what an integer or bit word gives for one element, with its events: `x` and `z` the codes, w the width in bits. -/
def intWordResult (L : Lane) (s : State) : Instr → Option (BitVec 7 × Bool × Nat × Ev)
  | .viadd _ d a b m => some (d, m, fit (z a + z' (some b)))
  | .visub _ d a b m => some (d, m, fit (z a - z' (some b)))
  | .vimul _ d a b m => some (d, m, fit (z a * z' (some b)))
  | .vimulh _ d a b m => some (d, m, ofS w (z a * z' (some b) / 2 ^ w), 0)
  | .vimin _ d a b m => some (d, m, fit (min (z a) (z' (some b))))
  | .vimax _ d a b m => some (d, m, fit (max (z a) (z' (some b))))
  | .vidiv _ d a b m => some (d, m, if z' (some b) = 0 then (2 ^ w - 1, evDZ) else fit ((z a).tdiv (z' (some b))))
  | .virem _ d a b m => some (d, m, if z' (some b) = 0 then (ofS w (z a), evDZ) else fit ((z a).tmod (z' (some b))))
  | .viaddVx _ d a _ m => some (d, m, fit (z a + z' none))
  | .vimulVx _ d a _ m => some (d, m, fit (z a * z' none))
  | .vand _ d a b m => some (d, m, n a &&& elemSrc L s (some b), 0)
  | .vor _ d a b m => some (d, m, n a ||| elemSrc L s (some b), 0)
  | .vxor _ d a b m => some (d, m, n a ^^^ elemSrc L s (some b), 0)
  | .vandVx _ d a _ m => some (d, m, n a &&& elemSrc L s none, 0)
  | .vorVx _ d a _ m => some (d, m, n a ||| elemSrc L s none, 0)
  | .vxorVx _ d a _ m => some (d, m, n a ^^^ elemSrc L s none, 0)
  | .vsll _ d a b m => some (d, m, n a * 2 ^ (elemSrc L s (some b) % w), 0)
  | .vsrl _ d a b m => some (d, m, n a / 2 ^ (elemSrc L s (some b) % w), 0)
  | .vsra _ d a b m => some (d, m, ofS w (toS w (n a) / 2 ^ (elemSrc L s (some b) % w)), 0)
  | .vsllVx _ d a _ m => some (d, m, n a * 2 ^ (elemSrc L s none % w), 0)
  | .vsrlVx _ d a _ m => some (d, m, n a / 2 ^ (elemSrc L s none % w), 0)
  | .vsraVx _ d a _ m => some (d, m, ofS w (toS w (n a) / 2 ^ (elemSrc L s none % w)), 0)
  | _ => none
where
  w : Nat := 8 * vwOf L.c.ew
  n (r : BitVec 7) : Nat := elemSrc L s (some r)
  z (r : BitVec 7) : Int := if isSigned L.c.ew then toS w (n r) else n r
  z' (r : Option (BitVec 7)) : Int := if isSigned L.c.ew then toS w (elemSrc L s r) else elemSrc L s r
  lo : Int := if isSigned L.c.ew then -2 ^ (w - 1) else 0
  hi : Int := if isSigned L.c.ew then 2 ^ (w - 1) - 1 else 2 ^ w - 1
  fit (v : Int) : Nat × Ev :=
    if L.c.sat = true ∧ v < lo then (ofS w lo, evSAT) else if L.c.sat = true ∧ hi < v then (ofS w hi, evSAT) else (ofS w v, 0)

/-- R152: the bit that a comparison of two integers writes, and its mask bit. -/
def intCompare (L : Lane) (s : State) : Instr → Option (BitVec 3 × Bool × Bool)
  | .veq _ q a b m => some (q, m, decide (z (some a) = z (some b)))
  | .vne _ q a b m => some (q, m, decide (z (some a) ≠ z (some b)))
  | .vlt _ q a b m => some (q, m, decide (z (some a) < z (some b)))
  | .vle _ q a b m => some (q, m, decide (z (some a) ≤ z (some b)))
  | .veqVx _ q a _ m => some (q, m, decide (z (some a) = z none))
  | .vneVx _ q a _ m => some (q, m, decide (z (some a) ≠ z none))
  | .vltVx _ q a _ m => some (q, m, decide (z (some a) < z none))
  | .vleVx _ q a _ m => some (q, m, decide (z (some a) ≤ z none))
  | _ => none
where
  z (r : Option (BitVec 7)) : Int := intWordResult.z' L s r

/-- R153, R159 to R161, R164: a word that moves or makes an element bit for bit: its register, whether element i acts, the element that it
writes, and the value and tangents written. -/
def movedElement (L : Lane) (s : State) : Instr → Option (BitVec 7 × Bool × Nat × Nat × (Nat → Nat))
  | .vsel _ d a b => some (d, true, L.i, element (if sel L.i then a else b) L.i)
  | .vslideup _ d a _ m => some (d, (!m || sel L.i) && decide (L.e.opA.toNat ≤ L.i), L.i, element a (L.i - L.e.opA.toNat))
  | .vslidedn _ d a _ m =>
    some (d, !m || sel L.i, L.i, if L.i + L.e.opA.toNat < L.c.vl then element a (L.i + L.e.opA.toNat) else (0, fun _ => 0))
  | .vshuf _ d a b m =>
    some (d, !m || sel L.i, L.i, if elemSrc L s (some b) < L.c.vl then element a (elemSrc L s (some b)) else (0, fun _ => 0))
  | .vcompress _ d a => some (d, sel L.i, ((List.range L.i).filter sel).length, element a L.i)
  | .vbcast _ d _ m => some (d, !m || sel L.i, L.i, elemSrc L s none, fun _ => 0)
  | .vhail _ d _ m =>
    some (d, !m || sel L.i, L.i, (hail L.c.key L.c.strm (word (L.e.opA.toNat * 4096 + L.i))).toNat, fun _ => 0)
  | .vtclr _ d m => some (d, !m || sel L.i, L.i, elemSrc L s (some d), fun _ => 0)
  | _ => none
where
  sel (j : Nat) : Bool := decide (L.c.mask L.c.msel / 2 ^ j % 2 = 1)
  element (a : BitVec 7) (j : Nat) : Nat × (Nat → Nat) :=
    (s.elemAt L.core L.c (vwOf L.c.ew) a.toNat j, fun k => if L.c.tm then 0 else s.tanAt L.core L.c (vwOf L.c.ew) a.toNat j k)

/-- R154: the mask that a mask word writes, and its bit j. -/
def maskResult (L : Lane) (j : Nat) : Instr → Option (BitVec 3 × Bool)
  | .qand _ d a b => some (d, q a && q b)
  | .qor _ d a b => some (d, q a || q b)
  | .qxor _ d a b => some (d, q a != q b)
  | .qsub _ d a b => some (d, q a && !q b)
  | .qnot _ d a => some (d, !q a)
  | .qcpy _ d a => some (d, q a)
  | _ => none
where
  q (r : BitVec 3) : Bool := decide (L.c.mask r.toNat / 2 ^ j % 2 = 1)

/-- Hart h's mask q is the only thing of the machine that has changed. -/
def OnlyMask (s t : State) (h q : Nat) : Prop :=
  { t with harts := s.harts } = s ∧ (∀ g, g ≠ h → t.hart g = s.hart g) ∧ (∀ p, p ≠ q → (t.ctx h).mask p = (s.ctx h).mask p) ∧
  { t.hart h with ctx := { t.ctx h with q := (s.ctx h).q } } = s.hart h

end Sys2Proof.Machine

/-- R20, R53, R144, R145, R152 to R156, R159 to R162, R164. One element of an integer or bit word, of a word that moves or makes elements, of an integer
comparison, and of the mask words, which act whole: an active element of d takes the result, with +0 tangents or those of the element that
it moves, and its events go to FV; every other element of d, every other vector register, every scalar register and all of memory stay, and an
inactive element changes nothing. (vid keeps +0 tangents where its value is NaN, log 129.) -/
def Obligations.IntegerElements : Prop :=
  (∀ (L : Lane) s i d m v e, intWordResult L s i = some (d, m, v, e) → L.i < L.c.vlmax →
    Acts L s i m (fun t => PutsElement L s t (vwOf L.c.ew) d L.i v (fun _ => 0) ∧ Raised L s t e 0 ∧ t.mem = s.mem)) ∧
  (∀ (L : Lane) s k d m, L.i < L.c.vlmax →
    let r := if isFloat L.c.ew then roundVt L (fmtOf L.c.ew) L.i (numOfInt L.i, 0) else intWordResult.fit L L.i
    Acts L s (.vid k d m) m (fun t => PutsElement L s t (vwOf L.c.ew) d L.i r.1 (fun _ => 0) ∧ Raised L s t r.2 0 ∧ t.mem = s.mem)) ∧
  (∀ (L : Lane) s i d j v tan, movedElement L s i = some (d, false, j, v, tan) → (L.perform i).run s = .ok () s) ∧
  (∀ (L : Lane) s i d j v tan, movedElement L s i = some (d, true, j, v, tan) → L.i < L.c.vlmax →
    ∃ t, (L.perform i).run s = .ok () t ∧ PutsElement L s t (vwOf L.c.ew) d j v tan ∧ Raised L s t 0 0 ∧ t.mem = s.mem) ∧
  (∀ (L : Lane) s i q m b, intCompare L s i = some (q, m, b) → 5 ≤ L.c.ew → L.i < 4096 →
    Acts L s i m (fun t => OnlyMask s t L.h q.toNat ∧ ((t.ctx L.h).mask q.toNat / 2 ^ L.i % 2 = 1 ↔ b = true) ∧
      ∀ j, j ≠ L.i → (t.ctx L.h).mask q.toNat / 2 ^ j % 2 = (s.ctx L.h).mask q.toNat / 2 ^ j % 2)) ∧
  (∀ (L : Lane) s i q, (∀ j, ∃ b, maskResult L j i = some (q, b)) →
    ∃ t, (L.perform i).run s = .ok () t ∧ OnlyMask s t L.h q.toNat ∧
      ∀ j < 4096, ∀ b, maskResult L j i = some (q, b) → ((t.ctx L.h).mask q.toNat / 2 ^ j % 2 = 1 ↔ b = true)) ∧
  (∀ (L : Lane) s k (q : BitVec 3) a b, let p := (hail L.c.key L.c.strm (word (L.e.opB.toNat * 4096 + L.i))).toNat / 2 ^ 40
    ∃ t, (L.perform (.vbern k q a b)).run s = .ok () t ∧ OnlyMask s t L.h q.toNat ∧
      ((t.ctx L.h).mask q.toNat / 2 ^ L.i % 2 = 1 ↔ p < L.e.opA.toNat) ∧
      ∀ j, j ≠ L.i → (t.ctx L.h).mask q.toNat / 2 ^ j % 2 = (s.ctx L.h).mask q.toNat / 2 ^ j % 2)

/-- R197 to R200. A cycle of a Gust gate at which no convoy waits lowers the level by LEAK and releases nothing; one at which a single
convoy is ready, with no run-ahead word behind it, and fits under the limit releases it and adds its charge. -/
def Obligations.GustCycles : Prop :=
  (∀ s c, (∀ k, k < 4 → (s.hart (4 * c + k)).queue = []) →
    ∃ t, exec (.gustCycle c) s = .next t ∧ (t.core c).gustLevel = (s.core c).gustLevel - max 1 ((s.core c).gustCfg / 2 ^ 48 % 2 ^ 16) ∧
      (∀ k, k < 4 → (t.hart (4 * c + k)).released = (s.hart (4 * c + k)).released) ∧ (∀ g r, t.x g r = s.x g r) ∧ t.mem = s.mem) ∧
  (∀ s c k, k < 4 → (∀ j, j < 4 → j ≠ k → (s.hart (4 * c + j)).queue = []) → (s.hart (4 * c + k)).dbg = false →
    (∀ e ∈ (s.hart (4 * c + k)).queue, e.ahead = false) →
    let h := 4 * c + k
    let level := (s.core c).gustLevel - gustLeak (s.core c).gustCfg
    let ms := firstConvoy (s.hart h).queue
    let charge := convoyCharge (s.ctx h) ms
    s.gateReady h = true → ms.any (({ s with cores := (s.updCore c (fun r => { r with gustLevel := level })).cores } : State).memberHeld h) = false →
    (s.ctx h).vs < convoySpan (s.ctx h) ms → (level + charge ≤ gustLimit (s.core c).gustCfg (s.ctx h).prio ∨ level = 0) →
    ∃ t, exec (.gustCycle c) s = .next t ∧ (t.hart h).released = true ∧ (t.hart h).startVs = (s.ctx h).vs ∧
      (t.core c).gustLevel = min (2 ^ 24 - 1) (level + charge) ∧ (∀ g r, t.x g r = s.x g r) ∧ t.mem = s.mem)

namespace Sys2Proof.Machine

/-- R231: tile group, mask bit and address of element i of a drain. -/
def drainForm (L : Lane) (s : State) : Instr → Option (Nat × Bool × Nat)
  | .mdrain _ d _ m => some (d.toNat, m, (L.e.opA + word (L.i * L.c.rs)).toNat)
  | .mdrainS _ d _ _ m => some (d.toNat, m,
      (L.e.opA + word (L.i / (s.anvil L.core).shape.ng) * L.e.opB + word (L.i % (s.anvil L.core).shape.ng * L.c.rs)).toNat)
  | .mdrainX _ d _ b m => some (d.toNat, m, (L.e.opA + word (elemSrc L s (some b))).toNat)
  | _ => none

/-- R231: the FP32 value of a drain's element in the tile group at d, or of its tangent k; elements go along the rows of the block. -/
def drained (L : Lane) (s : State) (d : Nat) (k : Option Nat) : Machine.Num :=
  let t := (s.anvil L.core).shape.org + L.i
  let ng := (s.anvil L.core).shape.ng
  fp32.decode ((s.anvil L.core).tileAt L.c d (t / ng) (t % ng) k)

/-- R231: the code that a drain stores for its value, and for tangent k, with their events. -/
def drainCode (L : Lane) (x : Machine.Num) : Nat × Ev :=
  if isFloat L.c.ew then roundVt L (fmtOf L.c.ew) L.i (x, snanEv [x])
  else toInteger (8 * vwOf L.c.ew) (isSigned L.c.ew) L.c.sat L.c.rm (drawVt L L.i) x
def drainTangent (L : Lane) (x : Machine.Num) (k : Nat) : Nat × Ev := roundVt L L.c.tfmt ((k + 1) * 4096 + L.i) (x, snanEv [x])

end Sys2Proof.Machine

/-- R216, R227, R229, R231, R233, R249, R269. The other events of a core: a message at its port, the last of its element's, is performed and its reply leaves; a reply lets its
convoy go on with its guard touches latched; a granted layer-pass runs and is counted; a released Anvil is free; a layer's reading
takes it out or back in; a cluster's slew level falls no faster than DOWN, and what it stands above the layers that run is filler on those
whose passes ended last.  An element of a drain stores the rounded value of its tile and, where the record has them, its tangents (those of a NaN
by log 129).  That a word with SRC = 1 reads the A allocation at its first pass is the model's reading (log 110). -/
def Obligations.CoreEvents : Prop :=
  (∀ s c h rest u, (s.core c).inbox = h :: rest → (s.core c).gate = .running →
    (s.updCore c (fun k => { k with inbox := rest })).cores.any (fun e => e.2.inbox.contains h) = false → (elementStep h (s.ctx h).vs).run s = .ok () u →
    ∃ t, exec (.remoteBufferMessage c) s = .next t ∧ (t.core c).inbox = rest ∧ (t.hart h).remote = .performed ∧
      (t.ctx h).vs = (s.ctx h).vs + 1 ∧ h ∈ (t.core (coreOf h)).replies ∧ t.mem = u.mem) ∧
  (∀ (s : State) c h rest, (s.core c).replies = h :: rest →
    ∃ t, exec (.remoteReply c) s = .next t ∧ (t.core c).replies = rest ∧ (t.hart h).remote = .idle ∧ (t.hart h).guardPending = [] ∧
      (t.ctx h).guard = ((s.hart h).guardPending.foldl (fun c g => c.touchGuard g.1 g.2.1 g.2.2) (s.ctx h)).guard ∧ t.mem = s.mem) ∧
  (∀ s c h j e w p pass, s.matrixWord c = some (h, j, e, w, p) → j.granted = true →
    (passPlan (s.ctx h) w p j.avail)[j.passes]? = some pass →
    ∃ t, exec (.layerPass c) s = .next t ∧ t.counter c 6 = (s.counter c 6 + 1) % 2 ^ 64 ∧ t.mem = s.mem ∧ (∀ g r, t.x g r = s.x g r) ∧
      (t.anvil c).tiles = (((if j.passes = 0 then s.clearTangents h w p (s.anvil c).shape.mg else s).runPass h w e.opA
        (j.acts.getD (s.buf c (s.hartLno h) .a).data) p (s.anvil c).shape.mg pass).anvil c).tiles) ∧
  (∀ s c tid, (s.anvil c).releasing = some tid → (s.anvil c).relDone = true → (s.core c).job = none →
    ∃ t, exec (.anvilFree c) s = .next t ∧ t.anvil c = Anvil.free ∧ (∀ k, k ≠ c → t.core k = s.core k) ∧ t.mem = s.mem) ∧
  (∀ (s : State) c layer q, layer < 4 →
    let limit := 4 * (s.thcfg / 2 ^ 32 % 256)
    let back := 4 * (s.thcfg / 2 ^ 32 % 256 - s.thcfg / 2 ^ 24 % 256)
    ∃ t, exec (.layerTempReport c layer q) s = .next t ∧
      (limit ≤ q → (t.core c).hotLayers = (s.core c).hotLayers ||| 2 ^ layer) ∧
      (q < limit → q < back → (t.core c).hotLayers = (s.core c).hotLayers &&& (15 ^^^ 2 ^ layer)) ∧
      (q < limit → back ≤ q → (t.core c).hotLayers = (s.core c).hotLayers) ∧
      (t.core c).overLayers = (if limit ≤ q then (s.core c).overLayers ||| 2 ^ layer else (s.core c).overLayers &&& (15 ^^^ 2 ^ layer)) ∧ ∀ k, k ≠ c → t.core k = s.core k) ∧
  (∀ s cl, (s.cluster cl).pending = [] →
    let real := ((List.range 8).map (fun c => s.runningHosts (8 * cl + c))).foldl (· + ·) 0
    ∃ t, exec (.slewStep cl) s = .next t ∧
      (t.cluster cl).lvl = max real ((s.cluster cl).lvl - max 1 ((s.cluster cl).slcfg % 256)) ∧
      (t.cluster cl).filler = (if (s.cluster cl).slcfg / 256 % 2 = 1 then (s.cluster cl).passEnds.take ((t.cluster cl).lvl - real) else []) ∧
      (∀ k, k ≠ cl → t.cluster k = s.cluster k) ∧ t.cores = s.cores) ∧
  (∀ (L : Lane) s i d m ea, drainForm L s i = some (d, m, ea) →
    (MaskedOff L m → (L.perform i).run s = .ok () s) ∧
    (¬ MaskedOff L m → ∀ p u, (resolveOr (s.vecReqOf L.h) .store cVACC (word ea) ea L.c.rs).run s = .ok [p] u → p.hops = 0 →
      s.mem.wf = true →
      let w := vwOf L.c.ew
      let v := drainCode L (drained L s d none)
      let tan (k : Nat) : Nat × Ev := drainTangent L (drained L s d (some k)) k
      ∃ t, (L.perform i).run s = .ok () t ∧ (∀ c q, t.vreg c q = s.vreg c q) ∧ (∀ h r, t.x h r = s.x h r) ∧
        (∀ k, k < L.c.rs → t.mem.read (p.pa + k) =
          BitVec.ofNat 8 (if k < w then v.1 / 256 ^ k else (tan ((k - w) / L.c.tw)).1 / 256 ^ ((k - w) % L.c.tw))) ∧
        SameMemBut s t p.pa L.c.rs ∧ Raised L s t v.2 (if L.c.rs = w then 0 else orEvents L.c.b (fun k => (tan k).2))))

/-- R238 to R243, R353, R354. cpl writes a register of the copy program. cpgo and cpv accept the copy that the program and their operands describe:
it joins the core's copies with its interlock entry, and the rows of cpv's group that it reaches are no longer landed; one without a run is over at once.
A run of a copy, and a record of a gather, that is performed counts; the last ends the transfer and frees its interlock entry. -/
def Obligations.TransferSteps : Prop :=
  (∀ (L : Lane) s k (n : BitVec 3) a b own, ∃ t, (L.perform (.cpl k n a b)).run s = .ok () t ∧ { t with harts := s.harts } = s ∧
    (∀ g, g ≠ L.h → t.hart g = s.hart g) ∧ { t.hart L.h with ctx := { t.ctx L.h with cp := (s.ctx L.h).cp } } = s.hart L.h ∧
    (∀ j, j ≠ n.toNat → (t.ctx L.h).copyReg j = (s.ctx L.h).copyReg j) ∧
    (n.toNat ≤ 5 → (t.ctx L.h).copyLevel n.toNat =
      (L.e.opB.toNat % 2 ^ 23, toS 32 (L.e.opA.toNat / 2 ^ 32), toS 32 (L.e.opA.toNat % 2 ^ 32))) ∧
    (6 ≤ n.toNat →
      let rem := decide (L.e.opB.toNat / 2 ^ 6 % 2 = 1)
      (t.ctx L.h).copyEnd own n.toNat = { rem := rem, core := if rem then own / 8 * 8 + L.e.opB.toNat / 8 % 8 else own,
                                          space := L.e.opB.toNat % 8, base := L.e.opA.toNat })) ∧
  (∀ (L : Lane) s i g, copyGroup i = some g →
    let j := L.copyJob s g
    (j.hart = L.h ∧ j.lno = s.hartLno L.h ∧ j.next = 0 ∧ j.held = false ∧ j.run = L.e.opB.toNat % 2 ^ 16 ∧ j.xp = L.e.opB.toNat / 2 ^ 22 % 4 ∧
      j.src = L.c.copyEnd L.core 6 ∧ j.dst = L.c.copyEnd L.core 7 ∧ j.counts = (List.range 6).map (fun l => (L.c.copyLevel l).1) ∧
      j.dstr = (List.range 6).map (fun l => (L.c.copyLevel l).2.1) ∧ j.sstr = (List.range 6).map (fun l => (L.c.copyLevel l).2.2) ∧
      (g = none → j.cnt = L.e.opA.toNat % 2 ^ 10 ∧ (j.dec = true ↔ L.e.opA.toNat / 2 ^ 63 % 2 = 1)) ∧
      ∀ v, g = some v → j.group = L.c.phys v ∧ j.nr = L.e.opA.toNat % 2 ^ 6 ∧ j.dec = false) ∧
    (runsOf j.counts ≠ 0 → ∃ t, (L.perform i).run s = .ok () t ∧ t.nextIdent = s.nextIdent + 1 ∧ (∀ c, c ≠ L.core → t.core c = s.core c) ∧
      (t.core L.core).copies = (s.core L.core).copies ++ [j] ∧
      (t.core L.core).interlock = (s.core L.core).interlock ++ [{ hart := L.h, kind := 0, ident := j.ident, ivs := j.intervals L.core }] ∧
      (∀ r, Tbl.get false (t.core L.core).unlanded r = (Tbl.get false (s.core L.core).unlanded r || (g.isSome && j.rows.contains r))) ∧
      t.harts = s.harts ∧ t.mem = s.mem) ∧
    (runsOf j.counts = 0 → ∃ t, (L.perform i).run s = .ok () t ∧ (∀ x ∈ (t.core L.core).copies, x.ident ≠ j.ident) ∧
      ∀ e ∈ (t.core L.core).interlock, e.kind ≠ 0 ∨ e.ident ≠ j.ident)) ∧
  (∀ s c i j u, (s.core c).copies[i]? = some j → j.held = false →
    (j.next = 0 → ∀ e ∈ (s.core c).copies.take i, e.hart = j.hart → e.next ≠ 0) →
    (j.perform c j.next).run s = .ok (.ok ()) u →
    ∃ t, exec (.copyRun c i) s = .next t ∧ t.mem = u.mem ∧
      (j.next + 1 ≠ runsOf j.counts → (t.core c).copies =
        (u.core c).copies.map (fun x => if x.ident = j.ident then { x with next := j.next + 1 } else x)) ∧
      (j.next + 1 = runsOf j.counts → (∀ x ∈ (t.core c).copies, x.ident ≠ j.ident) ∧
        ∀ e ∈ (t.core c).interlock, e.kind ≠ 0 ∨ e.ident ≠ j.ident)) ∧
  (∀ s g j u, s.gathers.find? (fun x => x.ident == g) = some j → j.held = false → j.next < gaCount j.block →
    (j.perform j.next).run s = .ok (.ok ()) u →
    ∃ t, exec (.gatherRecord g) s = .next t ∧ t.mem = u.mem ∧
      (j.next + 1 ≠ gaCount j.block →
        t.gathers = u.gathers.map (fun x => if x.ident = g then { x with next := j.next + 1 } else x)) ∧
      (j.next + 1 = gaCount j.block → (∀ x ∈ t.gathers, x.ident ≠ j.ident) ∧
        ∀ e ∈ (t.core (coreOf j.hart)).interlock, e.kind ≠ 1 ∨ e.ident ≠ j.ident))

/-! ### Drift -/

/-- R317, R323 to R328. The Drift words, with an empty queue: dmove of a descriptor it may read names an admitted move by its ticket, or
the arbiter's refusal; dfix keeps bits [63:56] of its pointer; dsweep leaves no mark of the launch below the horizon that is not pending;
an element of vdfix takes its index resolved, or keeps it and raises SAT where it does not fit; dack takes the package's epoch; dstat writes what its
selector names, of a tile its mark, tomb and move, and of an address in the buffer
aperture 0. -/
def Obligations.DriftWords : Prop :=
  ∀ (s : State) (d a b : BitVec 7), (s.hart s.turn).queue = [] →
    let h := s.turn
    let lno := s.hartLno h
    let x := s.x h a
    (∃ t, exec (.dack true d) s = .next t ∧ FrontWord s t d (word s.depoch) ∧ (t.ctx h).tepoch = s.depoch) ∧
    (∃ t, exec (.dsweep true d) s = .next t ∧ FrontWord s t d (word (t.marksOf lno)) ∧
      ∀ e ∈ t.tiles, ∀ m, e.2.mark = some m → m.lno = lno → t.owned m = true → s.horizon lno ≤ m.epoch ∨ m.pend = true) ∧
    (∀ v, (match (low24 (s.x h b)).toNat with
        | 0 => some s.depoch | 1 => some (s.ctx h).tepoch | 2 => some (s.horizon lno) | 3 => some (s.ticket x.toNat)
        | 6 => some (s.marksOf lno) | _ => none) = some v →
      ∃ t, exec (.dstat true d a b) s = .next t ∧ FrontWord s t d (word v)) ∧
    (∀ sel, (low24 (s.x h b)).toNat = sel → sel = 4 ∨ sel = 5 →
      (inAperture (x.toNat % 2 ^ 56) = true → ∃ t, exec (.dstat true d a b) s = .next t ∧ FrontWord s t d 0) ∧
      (∀ pa fl u, inAperture (x.toNat % 2 ^ 56) = false →
        (translate (s.reqOf h) .load (x.toNat % 2 ^ 56)).run s = .ok (.ok pa fl) u → pa < 2 ^ 47 →
        let tile := u.tile (pa / 65536)
        let moves := if u.moving (pa / 65536) then 2 ^ 61 else 0
        ∃ t, exec (.dstat true d a b) s = .next t ∧ FrontWord s t d (word (match tile.mark with
          | some m => 2 ^ 63 + (if sel = 4 then moves + m.dest / 65536 * 65536 else m.epoch % 2 ^ 48)
          | none => if sel = 4 then (if tile.tomb then 2 ^ 62 else 0) + moves else 0)))) ∧
    (∀ f u, (fixAddr (s.reqOf h) cSACC (word (x.toNat % 2 ^ 56)) (x.toNat % 2 ^ 56)).run s = .ok f u →
      ∃ t, exec (.dfix true d a) s = .next t ∧ FrontWord s t d (word (x.toNat / 2 ^ 56 * 2 ^ 56 + f % 2 ^ 56))) ∧
    (∀ v ps u es ed u1 u2, x.toNat % 32 = 0 → x.toNat < 2 ^ 56 →
      (readHome (s.reqOf h) cSACC x x.toNat 32).run s = .ok (v, ps) u →
      let q := MoveReq.of v
      v / 2 ^ 208 % 2 ^ 48 = 0 → v / 2 ^ 138 % 2 ^ 53 = 0 → tileAddrBad q.src = false → tileAddrBad q.dst = false → q.src ≠ q.dst →
      (q.tlno ≠ 0 → (s.ctx h).prv = true) → (q.dec = true → s.holdsCounter (s.homeCluster h) lno q.cnt = true) →
      (lookEntry (s.reqOf h) q.src).run (u.countHops (coreOf h) ps) = .ok (some (some es)) u1 →
      (lookEntry (s.reqOf h) q.dst).run u1 = .ok (some (some ed)) u2 →
      u2.permitted (s.reqOf h) .load es = true → u2.permitted (s.reqOf h) .store ed = true →
      let es' := { es with pa := es.pa + (q.src - es.va) }
      let ed' := { ed with pa := ed.pa + (q.dst - ed.va) }
      let home := u2.tileHome (es'.pa / 65536) es.skew
      let n := (u2.tower home).nextMove
      (u2.admission es' ed' home = 0 → ∃ (t : State) (m : Move), exec (.dmove true d a) s = .next t ∧ FrontWord s t d (word (home * 2 ^ 45 + n % 2 ^ 45)) ∧
        t.move home n = some m ∧ m.phase = 1 ∧ m.src = es'.pa / 65536 ∧ m.dst = ed'.pa / 65536 ∧ m.line = 0 ∧
        m.lno = (if q.tlno = 0 then lno else q.tlno) ∧ m.issuer = lno) ∧
      (u2.admission es' ed' home ≠ 0 → ∃ t, exec (.dmove true d a) s = .next t ∧
        FrontWord s t d (word (u2.admission es' ed' home * 2 ^ 60)) ∧ t.towers = u2.towers)) ∧
    (∀ (L : Lane) k, L.i < L.c.vlmax →
      let i : Instr := .vdfix k d a b
      let w := vwOf L.c.ew
      let base := L.e.opA.toNat % 2 ^ 56
      let sum := base + elemSrc L s (some b)
      (2 ^ 56 ≤ sum → ∃ t, (L.perform i).run s = .error (.trap cVACC (word sum) false) t) ∧
      ∀ f u, sum < 2 ^ 56 → (fixAddr (s.vecReqOf L.h) cVACC (word sum) sum).run s = .ok f u →
        let n := (f + 2 ^ 64 - base) % 2 ^ 64
        (n < 2 ^ (8 * w) → ∃ t, (L.perform i).run s = .ok () t ∧ PutsElement L s t w d L.i n (fun _ => 0) ∧ Raised L s t 0 0 ∧ t.mem = s.mem) ∧
        (2 ^ (8 * w) ≤ n → ∃ t, (L.perform i).run s = .ok () t ∧ (∀ c q, t.vreg c q = s.vreg c q) ∧ Raised L s t evSAT 0 ∧
          t.mem = s.mem))

/-- R307 to R309, R312. The engine copies one line of a move; the switch of a copied move marks its source with its destination and the
epoch, which then advances, with PEND set, and ends the destination's arrival; compression rewrites every record that a live launch
owns and that names the source, whichever launch's it is. -/
def Obligations.DriftEvents : Prop :=
  ∀ s tw n m, s.move tw n = some m → m.src ≠ m.dst →
    (s.mem.wf = true → m.phase = 1 → m.line < 256 →
      ∃ t, exec (.driftCopyLine tw n) s = .next t ∧ t.move tw n = some { m with line := m.line + 1 } ∧
        (∀ k, k < 256 → t.mem.read (m.dst * 65536 + 256 * m.line + k) = s.mem.read (m.src * 65536 + 256 * m.line + k)) ∧
        SameMemBut s t (m.dst * 65536 + 256 * m.line) 256) ∧
    (m.phase = 1 → m.line = 256 →
      ∃ (t : State) (r : MarkRec), exec (.switch tw n) s = .next t ∧ (t.move tw n).map (·.phase) = some 2 ∧ t.depoch = (s.depoch + 1) % 2 ^ 48 ∧
        (t.tile m.src).mark = some r ∧ r.lno = m.lno ∧ r.gen = m.gen ∧ r.dest = m.dstVa ∧ r.epoch = s.depoch ∧ r.pend = true ∧ (t.tile m.dst).arrival = false) ∧
    (m.phase = 2 →
      let dest := ((s.tile m.src).mark.map (·.dest)).getD m.dstVa
      ∃ t, exec (.chainCompression tw n) s = .next t ∧ (t.move tw n).map (·.phase) = some 3 ∧
        ∀ k r, (s.tile k).mark = some r → s.owned r = true → (s.launch r.lno).any (·.live) = true →
          ∃ r', (t.tile k).mark = some r' ∧ r'.epoch = r.epoch ∧ r'.lno = r.lno ∧ r'.dest = if s.names m r then dest else r.dest)

/-! ### The network words -/

/-- R445 to R450. nwr stages a word; npost queues a valid request and writes its sequence number, or FULL or NOPEER; nwait on a counter at
or below its bound acquires and writes it; nctr reads, sets or adds and writes the old value. -/
def Obligations.NetworkWords : Prop :=
  ∀ (s : State) (d a b : BitVec 7), (s.hart s.turn).queue = [] →
    let h := s.turn
    let lno := s.hartLno h
    let w := (s.ctx h).staged
    (∀ n : BitVec 3, ∃ t, exec (.nwr true n a) s = .next t ∧ FrontWord s t 0 0 ∧ Tbl.get 0 (t.ctx h).sw n.toNat = s.x h a ∧
      ∀ k, k ≠ n.toNat → Tbl.get 0 (t.ctx h).sw k = Tbl.get 0 (s.ctx h).sw k) ∧
    (∀ (p : Nat) (u : State), workBad w = false → wrKind w ≠ 3 → releaseReady s h → (peerEntry (wrPeer w)).run s = .ok p u →
      let usable := s.netOn = true ∧ peerOk p = true ∧ p / 2 ^ 224 % 4 ≠ 3 ∧ (peerLno p = 0 ∨ peerLno p = lno)
      (¬ usable → ∃ t, exec (.npost true d) s = .next t ∧ FrontWord s t d (word (2 * 2 ^ 60)) ∧ t.work = s.work) ∧
      (usable → 256 ≤ s.outstanding lno → ∃ t, exec (.npost true d) s = .next t ∧ FrontWord s t d (word (2 ^ 60)) ∧ t.work = s.work) ∧
      (usable → s.outstanding lno < 256 → ∃ (t : State) (r : WorkReq), exec (.npost true d) s = .next t ∧
        FrontWord s t d (word (((s.launch lno).map (·.posted)).getD 0)) ∧ t.work = s.work ++ [r] ∧ r.w = w ∧ r.lno = lno ∧ r.sent = 0 ∧
        r.seq = ((s.launch lno).map (·.posted)).getD 0)) ∧
    (∀ (v : Nat) (u : State), workBad w = false → wrKind w = 3 → releaseReady s h → s.outstanding lno < 256 →
      (gatherBlock h w (wordR 0x3D 1 true d.toNat 0 0)).run s = .ok v u →
      ∃ (t : State) (g : Gather), exec (.npost true d) s = .next t ∧ FrontWord s t d (word (((s.launch lno).map (·.posted)).getD 0)) ∧
        t.gathers = s.gathers ++ [g] ∧ g.block = v ∧ g.next = 0 ∧ g.lno = lno ∧ g.hart = h) ∧
    (let c := (s.x h a).toNat
     c < 64 → (s.ctr lno c).toInt ≤ (s.x h b).toInt →
     ∃ t, exec (.nwait true d a b) s = .next t ∧ FrontWord s t d (s.ctr lno c) ∧ t.l1 (coreOf h) = []) ∧
    (let c := (s.x h a).toNat % 64
     let op := (s.x h a).toNat / 2 ^ 62
     (s.x h a).toNat / 2 ^ 6 % 2 ^ 56 = 0 → op ≠ 3 → (s.launch lno).isSome = true →
     ∃ t, exec (.nctr true d a b) s = .next t ∧ FrontWord s t d (s.ctr lno c) ∧
       t.ctr lno c = (if op = 0 then s.ctr lno c else if op = 1 then s.x h b else s.ctr lno c + s.x h b) ∧
       ∀ k, k ≠ c → t.ctr lno k = s.ctr lno k)

/-! ### Elements of the other words of the vector unit -/

namespace Sys2Proof.Machine

/-- R57, R148 to R151: what a float word gives for one element: the exact result rounded once to the element format, with its events; the whole
numbers of vfloor and vround and the sign words keep or make their codes. -/
def floatWordResult (L : Lane) (s : State) : Instr → Option (BitVec 7 × Bool × Nat × Ev)
  | .vadd _ d a b m => some (d, m, rnd (addNum L.c.rm (v (some a)) (v (some b))))
  | .vsub _ d a b m => some (d, m, rnd (addNum L.c.rm (v (some a)) (v (some b)).negate))
  | .vmul _ d a b m => some (d, m, rnd (mulNum (v (some a)) (v (some b))))
  | .vdiv _ d a b m => some (d, m, rnd (divNum (v (some a)) (v (some b))))
  | .vmin _ d a b m => some (d, m, pick (ltNum (v (some b)) (v (some a))) a (some b))
  | .vmax _ d a b m => some (d, m, pick (ltNum (v (some a)) (v (some b))) a (some b))
  | .vaddVx _ d a _ m => some (d, m, rnd (addNum L.c.rm (v (some a)) (v none)))
  | .vsubVx _ d a _ m => some (d, m, rnd (addNum L.c.rm (v (some a)) (v none).negate))
  | .vmulVx _ d a _ m => some (d, m, rnd (mulNum (v (some a)) (v none)))
  | .vdivVx _ d a _ m => some (d, m, rnd (divNum (v (some a)) (v none)))
  | .vminVx _ d a _ m => some (d, m, pick (ltNum (v none) (v (some a))) a none)
  | .vmaxVx _ d a _ m => some (d, m, pick (ltNum (v (some a)) (v none)) a none)
  | .vfma _ d a b m => some (d, m, rnd (fmaNum L.c.rm (v (some a)) (v (some b)) (v (some d))))
  | .vfms _ d a b m => some (d, m, rnd (fmaNum L.c.rm (v (some a)) (v (some b)) (v (some d)).negate))
  | .vfnma _ d a b m => some (d, m, rnd (fmaNum L.c.rm (v (some a)).negate (v (some b)) (v (some d))))
  | .vfnms _ d a b m => some (d, m, rnd (fmaNum L.c.rm (v (some a)).negate (v (some b)) (v (some d)).negate))
  | .vfmaVx _ d a _ m => some (d, m, rnd (fmaNum L.c.rm (v (some a)) (v none) (v (some d))))
  | .vfmsVx _ d a _ m => some (d, m, rnd (fmaNum L.c.rm (v (some a)) (v none) (v (some d)).negate))
  | .vfnmaVx _ d a _ m => some (d, m, rnd (fmaNum L.c.rm (v (some a)).negate (v none) (v (some d))))
  | .vfnmsVx _ d a _ m => some (d, m, rnd (fmaNum L.c.rm (v (some a)).negate (v none) (v (some d)).negate))
  | .vsqrt _ d a m => some (d, m, rnd (sqrtNum (v (some a))))
  | .vrsqrt _ d a m => some (d, m, rnd (rsqrtNum (v (some a))))
  | .vexp _ d a m => some (d, m, fn .exp a)
  | .vlog _ d a m => some (d, m, fn .log a)
  | .vtanh _ d a m => some (d, m, fn .tanh a)
  | .vsigmoid _ d a m => some (d, m, fn .sigmoid a)
  | .vfloor _ d a m => some (d, m, whole .rdn a)
  | .vround _ d a m => some (d, m, whole .rne a)
  | .vabs _ d a m => some (d, m, keep a (elemSrc L s (some a) % 2 ^ ((fmtOf L.c.ew).width - 1)))
  | .vneg _ d a m => some (d, m, keep a (elemSrc L s (some a) ^^^ 2 ^ ((fmtOf L.c.ew).width - 1)))
  | .vrelu _ d a m => some (d, m, keep a (if (v (some a)).isZero || (v (some a)).neg then 0 else elemSrc L s (some a)))
  | .vmov _ d a m => some (d, m, elemSrc L s (some a), 0)
  | _ => none
where
  v (r : Option (BitVec 7)) : Num := (fmtOf L.c.ew).decode (elemSrc L s r)
  rnd (x : Num × Ev) : Nat × Ev := roundVt L (fmtOf L.c.ew) L.i x
  fn (f : TransFn) (a : BitVec 7) : Nat × Ev :=
    transcend f (fmtOf L.c.ew) L.c.sat L.c.rm (drawVt L L.i) (elemSrc L s (some a)) (v (some a))
  whole (rm : Rm) (a : BitVec 7) : Nat × Ev :=
    match v (some a) with
    | .nan q => ((fmtOf L.c.ew).qnan, if q then evNV else 0)
    | .inf _ => (elemSrc L s (some a), 0)
    | .fin neg n d => ((roundNum (fmtOf L.c.ew) false .rtz 0 (.fin neg (roundNat rm 0 neg n d) 1)).1, 0)
  keep (a : BitVec 7) (code : Nat) : Nat × Ev :=
    if (v (some a)).isNaN then ((fmtOf L.c.ew).qnan, snanEv [v (some a)]) else (code, 0)
  pick (second : Bool) (a : BitVec 7) (b : Option (BitVec 7)) : Nat × Ev :=
    if (v (some a)).isNaN || (v b).isNaN then ((fmtOf L.c.ew).qnan, snanEv [v (some a), v b])
    else (elemSrc L s (if second then b else some a), 0)

/-- R152: the bit that a comparison of two floats writes, with its events, and its mask; an ordered relation with a NaN is false. -/
def floatCompare (L : Lane) (s : State) : Instr → Option (BitVec 3 × Bool × Bool × Ev)
  | .veq _ q a b m => some (q, m, eqNum (v (some a)) (v (some b)), snanEv [v (some a), v (some b)])
  | .vne _ q a b m => some (q, m, !eqNum (v (some a)) (v (some b)), snanEv [v (some a), v (some b)])
  | .vlt _ q a b m => some (q, m, ltNum (v (some a)) (v (some b)), nanEv a (some b))
  | .vle _ q a b m => some (q, m, le a (some b), nanEv a (some b))
  | .veqVx _ q a _ m => some (q, m, eqNum (v (some a)) (v none), snanEv [v (some a), v none])
  | .vneVx _ q a _ m => some (q, m, !eqNum (v (some a)) (v none), snanEv [v (some a), v none])
  | .vltVx _ q a _ m => some (q, m, ltNum (v (some a)) (v none), nanEv a none)
  | .vleVx _ q a _ m => some (q, m, le a none, nanEv a none)
  | _ => none
where
  v (r : Option (BitVec 7)) : Num := (fmtOf L.c.ew).decode (elemSrc L s r)
  nanEv (a : BitVec 7) (b : Option (BitVec 7)) : Ev := if (v (some a)).isNaN || (v b).isNaN then evNV else 0
  le (a : BitVec 7) (b : Option (BitVec 7)) : Bool := !((v (some a)).isNaN || (v b).isNaN) && !ltNum (v b) (v (some a))

/-- R65, R66, R148 to R151: the last step of tangent k of a float word, the value v committed; +0 for a word without a row. -/
def tangentStep (L : Lane) (s : State) (v : Num) (k : Nat) : Instr → Num × Ev
  | .vadd _ _ a b _ => addNum L.c.rm (t (some a)) (t (some b))
  | .vsub _ _ a b _ => addNum L.c.rm (t (some a)) (t (some b)).negate
  | .vmul _ _ a b _ => product a (some b)
  | .vdiv _ _ a b _ => quotient a (some b)
  | .vmin _ _ a b _ => takeTan (if ltNum (x (some b)) (x (some a)) then t (some b) else t (some a))
  | .vmax _ _ a b _ => takeTan (if ltNum (x (some a)) (x (some b)) then t (some b) else t (some a))
  | .vaddVx _ _ a _ _ => addNum L.c.rm (t (some a)) (t none)
  | .vsubVx _ _ a _ _ => addNum L.c.rm (t (some a)) (t none).negate
  | .vmulVx _ _ a _ _ => product a none
  | .vdivVx _ _ a _ _ => quotient a none
  | .vminVx _ _ a _ _ => takeTan (if ltNum (x none) (x (some a)) then t none else t (some a))
  | .vmaxVx _ _ a _ _ => takeTan (if ltNum (x (some a)) (x none) then t none else t (some a))
  | .vfma _ d a b _ => fused false false d a (some b)
  | .vfms _ d a b _ => fused false true d a (some b)
  | .vfnma _ d a b _ => fused true false d a (some b)
  | .vfnms _ d a b _ => fused true true d a (some b)
  | .vfmaVx _ d a _ _ => fused false false d a none
  | .vfmsVx _ d a _ _ => fused false true d a none
  | .vfnmaVx _ d a _ _ => fused true false d a none
  | .vfnmsVx _ d a _ _ => fused true true d a none
  | .vsqrt _ _ a _ => after (midStep (mulNum (.fin false 2 1) v)) (fun u => tanDiv (t (some a)) u)
  | .vrsqrt _ _ a _ =>
    after (midStep (after (midStep (after (midStep (mulNum v v)) (fun u => mulNum u v))) (fun u => mulNum (.fin true 1 2) u)))
      (fun u => tanMul (t (some a)) u)
  | .vexp _ _ a _ => tanMul (t (some a)) v
  | .vlog _ _ a _ => tanDiv (t (some a)) (x (some a))
  | .vtanh _ _ a _ => after (midStep (fmaNum .rne v.negate v (.fin false 1 1))) (fun u => tanMul (t (some a)) u)
  | .vsigmoid _ _ a _ =>
    after (midStep (after (midStep (addNum .rne (.fin false 1 1) v.negate)) (fun u => mulNum v u))) (fun u => tanMul (t (some a)) u)
  | .vabs _ _ a _ =>
    if (x (some a)).isZero then (.fin false 0 1, 0) else takeTan (if (x (some a)).neg then (t (some a)).negate else t (some a))
  | .vneg _ _ a _ => takeTan (t (some a)).negate
  | .vrelu _ _ a _ => if (x (some a)).isZero || (x (some a)).neg then (.fin false 0 1, 0) else takeTan (t (some a))
  | _ => (.fin false 0 1, 0)
where
  x (r : Option (BitVec 7)) : Num := (fmtOf L.c.ew).decode (elemSrc L s r)
  t (r : Option (BitVec 7)) : Num :=
    match r with
    | some r => L.c.tfmt.decode (s.tanAt L.core L.c (vwOf L.c.ew) r.toNat L.i k)
    | none => .fin false 0 1
  product (a : BitVec 7) (b : Option (BitVec 7)) : Num × Ev :=
    after (midStep (tanMul (t b) (x (some a)))) (fun u => tanFma L.c.rm (t (some a)) (x b) u)
  quotient (a : BitVec 7) (b : Option (BitVec 7)) : Num × Ev :=
    after (midStep (after (midStep (tanMul (t b) v)) (fun u => addNum .rne (t (some a)) u.negate))) (fun u => tanDiv u (x b))
  fused (n1 n2 : Bool) (d a : BitVec 7) (b : Option (BitVec 7)) : Num × Ev :=
    let sg (n : Bool) (z : Num) : Num := if n then z.negate else z
    after (midStep (tanFma .rne (t b) (sg n1 (x (some a))) (sg n2 (t (some d))))) (fun u => tanFma L.c.rm (sg n1 (t (some a))) (x b) u)

/-- R65: tangent k that a float word's element writes beside a value code v: +0 under VT.TM, the canonical NaN beside a NaN, else its last
step rounded to TF; vmov copies its bits. -/
def floatTangent (L : Lane) (s : State) (i : Instr) (v k : Nat) : Nat × Ev :=
  if L.c.tm then (0, 0)
  else match i with
    | .vmov _ _ a _ => (s.tanAt L.core L.c (vwOf L.c.ew) a.toNat L.i k, 0)
    | _ =>
      if ((fmtOf L.c.ew).decode v).isNaN then (L.c.tfmt.qnan, 0)
      else roundVt L L.c.tfmt ((k + 1) * 4096 + L.i) (tangentStep L s ((fmtOf L.c.ew).decode v) k i)

/-- A conversion's destination, mask bit, formats and source (R157). -/
def convertForm (L : Lane) : Instr → Option (BitVec 7 × Bool × Nat × Nat × BitVec 7)
  | .vcvtTo _ d a f m => some (d, m, L.c.ew, f.toNat, a)
  | .vcvtFrom _ d a f m => some (d, m, f.toNat, L.c.ew, a)
  | _ => none

/-- R54, R61, R157: value and tangents of a converted element, each with its events. -/
def converted (L : Lane) (s : State) (src dst : Nat) (a : BitVec 7) : (Nat × Ev) × (Nat → Nat × Ev) :=
  let code := s.elemAt L.core L.c (vwOf src) a.toNat L.i
  let entry := L.c.scale ((L.c.sb + L.i / 2 ^ L.c.bl) % 2048)
  let fp8 (f : Nat) : Bool := f == 3 || f == 4
  let e : Int := if entry = 255 then 0 else (if fp8 src then (entry : Int) - 127 else 0) - (if fp8 dst then (entry : Int) - 127 else 0)
  let bad := (fp8 src || fp8 dst) && entry == 255
  let x := if isFloat src then (fmtOf src).decode code else numOfInt (intOf src code)
  let nv : Ev := (if bad then evNV else 0) ||| snanEv [x]
  let y := if bad then Num.nan false else scaleNum x e
  let v : Nat × Ev :=
    if isFloat dst then roundVt L (fmtOf dst) L.i (y, nv)
    else if isFloat src || bad then
      let z := toInteger (8 * vwOf dst) (isSigned dst) L.c.sat L.c.rm (drawVt L L.i) y
      (z.1, nv ||| z.2)
    else intFit dst L.c.sat (intOf src code)
  (v, fun k =>
    let t := L.c.tfmt.decode (s.tanAt L.core L.c (vwOf src) a.toNat L.i k)
    if !isFloat dst || !isFloat src || L.c.tm then (0, 0)
    else if ((fmtOf dst).decode v.1).isNaN then (L.c.tfmt.qnan, 0)
    else roundVt L L.c.tfmt ((k + 1) * 4096 + L.i) (scaleNum t e, snanEv [t]))

/-- A reduction's operation, destination, source and mask bit (R158). -/
def reduceForm : Instr → Option (Red × BitVec 7 × BitVec 7 × Bool)
  | .vredsum _ d a m => some (.sum, d, a, m)
  | .vredmax _ d a m => some (.max, d, a, m)
  | .vredmin _ d a m => some (.min, d, a, m)
  | .vredand _ d a m => some (.and, d, a, m)
  | .vredor _ d a m => some (.or, d, a, m)
  | .vredxor _ d a m => some (.xor, d, a, m)
  | _ => none

/-- The tree of R63 over the 2^k positions from lo: two subtrees that hold something are combined at the middle, an empty one is passed. -/
def treeOf {α : Type} (leaf : Nat → Option α) (comb : Nat → α → α → α) : Nat → Nat → Option α
  | 0, lo => leaf lo
  | k + 1, lo =>
    match treeOf leaf comb k lo, treeOf leaf comb k (lo + 2 ^ k) with
    | some a, some b => some (comb (lo + 2 ^ k) a b)
    | some a, none => some a
    | none, r => r

/-- What a position of the tree holds: value code, its events, tangents, their events. -/
abbrev Held := Nat × Ev × List Nat × Ev

/-- Two positions combined at index mid (R53, R63, R66, R158). -/
def combineHeld (L : Lane) (op : Red) (mid : Nat) (a b : Held) : Held :=
  let f := fmtOf L.c.ew
  let x := f.decode a.1
  let y := f.decode b.1
  let z (n : Nat) : Int := intOf L.c.ew n
  let join (v : Nat × Ev) (t : List Nat) (e : Ev) : Held := (v.1, a.2.1 ||| b.2.1 ||| v.2, t, a.2.2.2 ||| b.2.2.2 ||| e)
  let tanOf (l : List Nat) (k : Nat) : Num := L.c.tfmt.decode ((l[k]?).getD 0)
  let pick (second : Bool) : Held := if second then join (b.1, 0) b.2.2.1 0 else join (a.1, 0) a.2.2.1 0
  match op, isFloat L.c.ew with
  | .sum, true =>
    let ts := (List.range L.c.b).map (fun k => if L.c.tm then (0, 0)
      else roundVt L L.c.tfmt ((k + 1) * 4096 + mid) (addNum L.c.rm (tanOf a.2.2.1 k) (tanOf b.2.2.1 k)))
    join (roundVt L f mid (addNum L.c.rm x y)) (ts.map (·.1)) (orEvents ts.length (fun k => ((ts[k]?).map (·.2)).getD 0))
  | .sum, false => join (intFit L.c.ew L.c.sat (z a.1 + z b.1)) a.2.2.1 0
  | .max, true => if x.isNaN || y.isNaN then join (f.qnan, snanEv [x, y]) a.2.2.1 0 else pick (ltNum x y)
  | .min, true => if x.isNaN || y.isNaN then join (f.qnan, snanEv [x, y]) a.2.2.1 0 else pick (ltNum y x)
  | .max, false => pick (decide (z a.1 < z b.1))
  | .min, false => pick (decide (z b.1 < z a.1))
  | .and, _ => join (a.1 &&& b.1, 0) a.2.2.1 0
  | .or, _ => join (a.1 ||| b.1, 0) a.2.2.1 0
  | .xor, _ => join ((a.1 ^^^ b.1) % 2 ^ (8 * vwOf L.c.ew), 0) a.2.2.1 0

/-- What an empty tree gives (R158). -/
def emptyTree (ew : Nat) : Red → Nat
  | .sum | .or | .xor => 0
  | .and => 2 ^ (8 * vwOf ew) - 1
  | .max => if ew = 3 then 0x7F else if isFloat ew then (fmtOf ew).infCode true else if isSigned ew then 2 ^ (8 * vwOf ew - 1) else 0
  | .min => if ew = 3 then 0x7F else if isFloat ew then (fmtOf ew).infCode false
    else if isSigned ew then 2 ^ (8 * vwOf ew - 1) - 1 else 2 ^ (8 * vwOf ew) - 1

/-- R63, R158: value and tangents that a reduction writes, with the events of each; under a NaN tangents are canonical (log 97). -/
def reduced (L : Lane) (s : State) (op : Red) (a : BitVec 7) (m : Bool) : (Nat × Ev) × (Nat → Nat) × Ev :=
  let f := fmtOf L.c.ew
  let w := vwOf L.c.ew
  let float := isFloat L.c.ew
  let leaf (j : Nat) : Option Held :=
    if j < L.c.vl ∧ (m = false ∨ L.c.mask L.c.msel / 2 ^ j % 2 = 1) then
      let v := s.elemAt L.core L.c w a.toNat j
      let ts := (List.range L.c.b).map (s.tanAt L.core L.c w a.toNat j)
      some (v, (if float && (f.decode v).isSNaN then evNV else 0), ts, if op = .sum then snanEv (ts.map L.c.tfmt.decode) else 0)
    else none
  let root := (treeOf leaf (combineHeld L op) (log2 (pow2Ceil L.c.vl)) 0).getD (emptyTree L.c.ew op, 0, [], 0)
  let nan := float && (f.decode root.1).isNaN
  let quiet (n : Nat) : Nat := if (L.c.tfmt.decode n).isNaN then L.c.tfmt.qnan else n
  ((if nan then f.qnan else root.1, root.2.1),
   (fun k => if !float || L.c.tm then 0 else if nan then L.c.tfmt.qnan else quiet ((root.2.2.1[k]?).getD 0)),
   if !float || nan || L.c.tm then 0 else root.2.2.2 ||| (if op = .sum then 0 else snanEv (root.2.2.1.map L.c.tfmt.decode)))

/-- R163 to R165: what one plane of tangents becomes under vseed and vtset: register, mask bit, plane, code and events. -/
def planeWord (L : Lane) (s : State) : Instr → Option (BitVec 7 × Bool × Nat × Nat × Ev)
  | .vseed _ d _ _ m =>
    let k := L.e.opB.toNat % 16
    let sigma (neg : Bool) : Nat × Ev := put k (scaleNum (.fin neg 1 1) (((L.e.opB.toNat / 2 ^ 8 % 256 : Nat) : Int) - 127), 0)
    some (d, m, k,
      if L.e.opB.toNat / 16 % 4 = 0 then sigma (radNeg L.c.key L.c.strm k ((L.e.opA.toNat + L.i) % 2 ^ 40))
      else if L.e.opB.toNat / 16 % 4 = 1 ∧ L.i = L.e.opA.toNat then sigma false else (0, 0))
  | .vtset _ d a _ m =>
    let x := (fmtOf L.c.ew).decode (elemSrc L s (some a))
    some (d, m, L.e.opA.toNat, put L.e.opA.toNat (x, snanEv [x]))
  | _ => none
where
  put (k : Nat) (x : Num × Ev) : Nat × Ev := if L.c.tm then (0, 0) else roundVt L L.c.tfmt ((k + 1) * 4096 + L.i) x

/-- The address of element i of a word of major 0x30 that steps by records, by a stride or by an index register (R168). -/
def elementAddress (L : Lane) (s : State) : Instr → Option (BitVec 7 × Bool × Bool × Nat)
  | .vld _ d _ m => some (d, m, true, (L.e.opA + word (L.i * L.c.rs)).toNat)
  | .vlds _ d _ _ m => some (d, m, true, (L.e.opA + word L.i * L.e.opB).toNat)
  | .vldx _ d _ b m => some (d, m, true, (L.e.opA + word (elemSrc L s (some b))).toNat)
  | .vst _ d _ m | .vstU _ d _ m => some (d, m, false, (L.e.opA + word (L.i * L.c.rs)).toNat)
  | .vsts _ d _ _ m => some (d, m, false, (L.e.opA + word L.i * L.e.opB).toNat)
  | .vstx _ d _ b m | .vstxU _ d _ b m => some (d, m, false, (L.e.opA + word (elemSrc L s (some b))).toNat)
  | _ => none

/-- The first piece of an access that lands in one place which no move has relocated. -/
def OnePlace (L : Lane) (s : State) (acc : Acc) (ea len : Nat) (p : Piece) (u : State) : Prop :=
  (resolveOr (s.vecReqOf L.h) acc cVACC (word ea) ea len).run s = .ok [p] u ∧ p.hops = 0

/-- Byte k of the record of element i of register d: the value, then the tangents (R167). -/
def recordByte (L : Lane) (s : State) (d : BitVec 7) (k : Nat) : BitVec 8 :=
  let w := vwOf L.c.ew
  BitVec.ofNat 8 (if k < w then elemSrc L s (some d) / 256 ^ k
    else s.tanAt L.core L.c w d.toNat L.i ((k - w) / L.c.tw) / 256 ^ ((k - w) % L.c.tw))

/-- Element i of register d takes the record r: its value, and its tangents where the record has them (R167). -/
def TakesRecord (L : Lane) (s t : State) (d : BitVec 7) (r : Nat) : Prop :=
  PutsElement L s t (vwOf L.c.ew) d L.i r
    (fun k => if L.c.rs = vwOf L.c.ew then 0 else r / 2 ^ (8 * (vwOf L.c.ew + k * L.c.tw)))

/-- The registers of the package that a store of memory leaves as they were. -/
def SameRegisters (s t : State) : Prop := (∀ c p, t.vreg c p = s.vreg c p) ∧ ∀ h r, t.x h r = s.x h r

/-- R181, R183: destination, handle, mask bit of a stream word, and whether it loads. -/
def streamForm : Instr → Option (BitVec 7 × BitVec 5 × Bool × Bool)
  | .vsld _ d a m => some (d, a, m, true)
  | .vsst _ d a m => some (d, a, m, false)
  | .vbind _ d a => some (d, a, false, true)
  | .vunbind _ d a => some (d, a, false, false)
  | _ => none

/-- The position from which a stream word of handle n addresses (R183). -/
def streamStart (n : Nat) : Instr → Nat
  | .vunbind .. => n / 2 ^ 192 % 2 ^ 40
  | _ => n / 2 ^ 128 % 2 ^ 40

/-- Handle n after a stream word's last element (R183). -/
def handleAfter (L : Lane) (n : Nat) (i : Instr) : Nat :=
  let p := n / 2 ^ 128 % 2 ^ 40 + L.c.vl * L.c.rs
  let moved (n : Nat) : Nat := setBits n 167 128 (if n / 2 ^ 254 % 2 = 1 then p % (n / 2 ^ 64 % 2 ^ 40) else p)
  match i with
  | .vunbind .. => setBits n 243 243 0
  | .vbind _ d _ => moved (setBits (setBits (setBits n 243 243 1) 242 232 (L.c.phys d.toNat)) 231 192 (n / 2 ^ 128 % 2 ^ 40))
  | _ => moved n

/-- The handles after an element: the word's own is written with the last one. -/
def HandlesAfter (L : Lane) (s t : State) (a : BitVec 5) (i : Instr) : Prop :=
  (t.ctx L.h).h = if L.i + 1 = L.c.vl then Tbl.set (s.ctx L.h).h a.toNat (handleAfter L (Tbl.get 0 L.c.h a.toNat) i) else (s.ctx L.h).h

/-- R175, R176: buffer, register, R, XP, FE, mask bit of a buffer word, and whether it loads. -/
def bufferForm : Instr → Option (BufKind × BitVec 7 × Bool × Nat × Nat × Bool × Bool)
  | .vldw _ d _ p e m => some (.w, d, false, p.toNat, e.toNat, m, true)
  | .vlda _ d _ r p e m => some (.a, d, r, p.toNat, e.toNat, m, true)
  | .vldc _ d _ r p e m => some (.c, d, r, p.toNat, e.toNat, m, true)
  | .vstw _ d _ e m => some (.w, d, false, 0, e.toNat, m, false)
  | .vsta _ d _ r e m => some (.a, d, r, 0, e.toNat, m, false)
  | .vstc _ d _ r e m => some (.c, d, r, 0, e.toNat, m, false)
  | _ => none

/-- Offset of element j of a buffer word (R175, R176). -/
def bufferOff (L : Lane) (xp j : Nat) : Nat :=
  L.e.opA.toNat % 2 ^ 24 + (if xp = 0 then j * L.c.rs else (64 * (j % 64) + j / 64) * xp)

/-- Core whose buffer the word reaches (R175). -/
def bufferAt (L : Lane) (r : Bool) : Nat := if r then L.core / 8 * 8 + L.e.opA.toNat / 2 ^ 24 % 8 else L.core

/-- The n bytes at an offset lie in an allocation of a size, or reach its guard but nothing outside (R177, R202). -/
def inAlloc (size off n : Nat) : Prop := off + n ≤ 2 ^ 24 ∧ 16 * ((off + n - 1) / 16) < size
def inGuard (size off n : Nat) : Prop := ¬ inAlloc size off n ∧ off + n ≤ 2 ^ 24 ∧ size ≠ 0 ∧ 16 * ((off + n - 1) / 16) < size + 256

/-- A guard touch at an offset of a buffer of a size (R203): latched on the hart's own core, else when the reply returns. -/
def Touched (L : Lane) (s t : State) (core : Nat) (k : BufKind) (size off : Nat) : Prop :=
  let o := max off (16 * ((size + 15) / 16))
  let bank := match k with | .a => o / 32 % 32 | _ => o / 16 % 32
  if core = L.core then
    (t.ctx L.h).guard = some (match (s.ctx L.h).guard with
      | none => { buf := k.num, bank := bank, off := o, more := 0 }
      | some g => { g with more := min 65535 (g.more + 1) })
  else (t.hart L.h).guardPending = (s.hart L.h).guardPending ++ [(k.num, bank, o)]

/-- No typed buffer changes but, with `some`, the n bytes at an offset of one. -/
def SameBuffers (s t : State) (but : Option (Nat × Nat × BufKind × Nat × Nat)) : Prop :=
  ∀ c l k, match but with
    | some (c', l', k', o, n) => if c = c' ∧ l = l' ∧ k = k' then
        (t.buf c l k).size = (s.buf c l k).size ∧ (t.buf c l k).full = (s.buf c l k).full ∧
          ∀ b, (b < o ∨ o + n ≤ b) → (t.buf c l k).data.read b = (s.buf c l k).data.read b
      else t.buf c l k = s.buf c l k
    | none => t.buf c l k = s.buf c l k

/-- R179: operation, register of operands and results, index register and mask bit of a vector atomic. -/
def vatomicForm : Instr → Option (VAtomic × BitVec 7 × BitVec 7 × Bool)
  | .vaadd _ d _ b m | .vaaddO _ d _ b m => some (.add, d, b, m)
  | .vaswap _ d _ b m | .vaswapO _ d _ b m => some (.swap, d, b, m)
  | .vamax _ d _ b m | .vamaxO _ d _ b m => some (.max, d, b, m)
  | .vamin _ d _ b m | .vaminO _ d _ b m => some (.min, d, b, m)
  | .vamaxn _ d _ b m | .vamaxnO _ d _ b m => some (.maxn, d, b, m)
  | .vaminn _ d _ b m | .vaminnO _ d _ b m => some (.minn, d, b, m)
  | .vaand _ d _ b m | .vaandO _ d _ b m => some (.and, d, b, m)
  | .vaor _ d _ b m | .vaorO _ d _ b m => some (.or, d, b, m)
  | _ => none

/-- R179: what a vector atomic stores over `old` with the operand q, and its events. -/
def atomicStores (L : Lane) (old q : Nat) : VAtomic → Nat × Ev
  | .add =>
    if isFloat L.c.ew then roundVt L (fmtOf L.c.ew) L.i (addNum L.c.rm ((fmtOf L.c.ew).decode old) ((fmtOf L.c.ew).decode q))
    else ((old + q) % 2 ^ (8 * vwOf L.c.ew), 0)
  | .swap => (q, 0)
  | .max => (if toS (8 * vwOf L.c.ew) q ≤ toS (8 * vwOf L.c.ew) old then old else q, 0)
  | .min => (if toS (8 * vwOf L.c.ew) old ≤ toS (8 * vwOf L.c.ew) q then old else q, 0)
  | .maxn => (max old q, 0)
  | .minn => (min old q, 0)
  | .and => (old &&& q, 0)
  | .or => (old ||| q, 0)

/-- R185: address of granule g of the block of element i of a tensor of p planes. -/
def planeAddress (L : Lane) (p g : Nat) : Nat := (L.e.opA + word (16 * p * (L.i / 128) + 16 * g)).toNat

/-- R56, R185: element code of a vldnp of q of p planes from the granules, the top plane first, with its events. -/
def planesValue (L : Lane) (p q : Nat) (granule : Nat → Nat) : Nat × Ev :=
  let entry := L.c.scale ((L.c.sb + L.i / 2 ^ L.c.bl) % 2048)
  let v := (List.range q).foldl (fun v g => 2 * v + granule g / 2 ^ (L.i % 128) % 2) 0
  let z : Int := if q = p then toS q v else toS q v * 2 ^ (p - q) + 2 ^ (p - q - 1)
  if entry = 255 then ((fmtOf L.c.ew).qnan, evNV)
  else roundVt L (fmtOf L.c.ew) L.i (scaleNum (scaleNum (numOfInt z) (1 - (p : Int))) ((entry : Int) - 127), 0)

/-- R173: an element that an unordered indexed store has performed since its convoy began writes the byte at an address. -/
def lowerWrites (L : Lane) (s : State) (i : Instr) (a : Nat) : Prop :=
  match i with
  | .vstxU .. => ∃ z ∈ (s.hart L.h).unordered, z ≤ a ∧ a < z + L.c.rs
  | _ => False

end Sys2Proof.Machine

/-- R65 to R67, R144, R145, R148 to R152. One element of a float word: an active element of d takes the exact result rounded once, each tangent
its last step rounded to TF, an active bit of q the relation; the events go to FV and FT, and nothing else of a register or of memory changes; an
inactive element changes nothing. The specials of the transcendental words are those of R150. (Of vfloor and vround the tangents under a
NaN are the model's reading, log 98.) -/
def Obligations.FloatElements : Prop :=
  (∀ (L : Lane) s i d m v e, floatWordResult L s i = some (d, m, v, e) → L.i < L.c.vlmax →
    Acts L s i m (fun t => PutsElement L s t (vwOf L.c.ew) d L.i v (fun k => (floatTangent L s i v k).1) ∧
      Raised L s t e (orEvents L.c.b (fun k => (floatTangent L s i v k).2)) ∧ t.mem = s.mem)) ∧
  (∀ (L : Lane) s i q m b e, floatCompare L s i = some (q, m, b, e) → L.c.ew ≤ 4 → L.i < 4096 →
    Acts L s i m (fun t => ((t.ctx L.h).mask q.toNat / 2 ^ L.i % 2 = 1 ↔ b = true) ∧
      (∀ j, j ≠ L.i → (t.ctx L.h).mask q.toNat / 2 ^ j % 2 = (s.ctx L.h).mask q.toNat / 2 ^ j % 2) ∧
      (∀ p, p ≠ q.toNat → (t.ctx L.h).mask p = (s.ctx L.h).mask p) ∧ Raised L s t e 0 ∧
      (∀ h r, t.x h r = s.x h r) ∧ t.mem = s.mem ∧ t.cores = s.cores)) ∧
  (∀ f sat rm r op neg d,
    let of (fn : TransFn) (x : Machine.Num) : Nat × Ev := transcend fn f sat rm r op x
    let rnd (x : Machine.Num) : Nat × Ev := roundNum f sat rm r x
    (∀ fn (q : Bool), of fn (.nan q) = (f.qnan, if q then evNV else 0)) ∧
    of .exp (.fin neg 0 d) = rnd (.fin false 1 1) ∧ of .exp (.inf true) = rnd (.fin false 0 1) ∧ of .exp (.inf false) = rnd (.inf false) ∧
    of .log (.fin neg 0 d) = ((rnd (.inf true)).1, (rnd (.inf true)).2 ||| evDZ) ∧ (0 < d → of .log (.fin false d d) = rnd (.fin false 0 1)) ∧
    of .log (.inf false) = rnd (.inf false) ∧ (∀ n, 0 < n → of .log (.fin true n d) = (f.qnan, evNV)) ∧ of .log (.inf true) = (f.qnan, evNV) ∧
    of .tanh (.fin neg 0 d) = rnd (.fin neg 0 1) ∧ of .tanh (.inf neg) = rnd (.fin neg 1 1) ∧
    of .sigmoid (.fin neg 0 d) = rnd (.fin false 1 2) ∧ of .sigmoid (.inf false) = rnd (.fin false 1 1) ∧
    of .sigmoid (.inf true) = rnd (.fin false 0 1))

/-- R54, R61, R63, R66, R144, R146 to R166. Every word of majors 0x20 to 0x2E completes on every element, in every state, and reaches nothing but
the vector registers of its own core and, of its own hart, masks and events. A conversion gives its element the rounded value and tangents under
its scale; a reduction acts as its last element commits, on element 0, by the tree of R63 (tangents under a NaN by log 97); vseed and vtset write one plane
of tangents, vtget a tangent as a value, and vfgu takes the update off the value; a NaN that comes from an integer, and one that vtget
or vfgu gives, leaves the tangents that the word's own rule says (log 129). -/
def Obligations.ArithmeticElementsComplete : Prop :=
  (∀ (L : Lane) s i, ∃ t, (L.arith i).run s = .ok () t ∧ { t with harts := s.harts, cores := s.cores } = s ∧
    (∀ g, g ≠ L.h → t.hart g = s.hart g) ∧ (∀ c, c ≠ L.core → t.core c = s.core c) ∧
    (∀ c, { t.core c with vf := (s.core c).vf } = s.core c) ∧
    ∃ q fv ft ev et, t.hart L.h =
      { s.hart L.h with ctx := { s.ctx L.h with q := q, fv := fv, ft := ft, eixV := ev, eixT := et } }) ∧
  (∀ (L : Lane) s i d m src dst a, convertForm L i = some (d, m, src, dst, a) → L.i < L.c.vlmaxOf (vwOf dst) →
    let r := converted L s src dst a
    Acts L s i m (fun t => PutsElement L s t (vwOf dst) d L.i r.1.1 (fun k => (r.2 k).1) ∧
      Raised L s t r.1.2 (orEvents L.c.b (fun k => (r.2 k).2)))) ∧
  (∀ (L : Lane) s i op d a m, reduceForm i = some (op, d, a, m) →
    (L.i + 1 ≠ L.c.vl → (L.perform i).run s = .ok () s) ∧
    (L.i + 1 = L.c.vl → L.c.vl ≤ L.c.vlmax →
      let r := reduced L s op a m
      ∃ t, (L.perform i).run s = .ok () t ∧ PutsElement L s t (vwOf L.c.ew) d 0 r.1.1 r.2.1 ∧ Raised L s t r.1.2 r.2.2)) ∧
  (∀ (L : Lane) s i d m n v e, planeWord L s i = some (d, m, n, v, e) → n < L.c.b → L.i < L.c.vlmax →
    Acts L s i m (fun t => PutsElement L s t (vwOf L.c.ew) d L.i (elemSrc L s (some d))
      (fun k => if k = n then v else s.tanAt L.core L.c (vwOf L.c.ew) d.toNat L.i k) ∧ Raised L s t 0 e)) ∧
  (∀ (L : Lane) s k d a b m, L.i < L.c.vlmax →
    let x := L.c.tfmt.decode (s.tanAt L.core L.c (vwOf L.c.ew) a.toNat L.i L.e.opA.toNat)
    let r := roundVt L (fmtOf L.c.ew) L.i (x, snanEv [x])
    Acts L s (.vtget k d a b m) m (fun t => PutsElement L s t (vwOf L.c.ew) d L.i r.1 (fun _ => 0) ∧ Raised L s t r.2 0)) ∧
  (∀ (L : Lane) s k d a b m, L.i < L.c.vlmax →
    let coef (n : Nat) : Machine.Num := (fmtOf L.c.ew).decode (s.elemAt L.core L.c (vwOf L.c.ew) a.toNat n)
    let signed (n : Nat) : Machine.Num :=
      if radNeg L.c.key L.c.strm n ((L.e.opA.toNat + L.i) % 2 ^ 40) then (coef n).negate else coef n
    let u := (List.range L.c.b).foldl (fun u n => midStep (after u (fun x => addNum .rne x (signed n)))) ((.fin false 0 1 : Machine.Num), (0 : Ev))
    let r := roundVt L (fmtOf L.c.ew) L.i (after u (fun x => addNum L.c.rm ((fmtOf L.c.ew).decode (elemSrc L s (some d))) x.negate))
    Acts L s (.vfgu k d a b m) m (fun t =>
      PutsElement L s t (vwOf L.c.ew) d L.i r.1 (fun k => s.tanAt L.core L.c (vwOf L.c.ew) d.toNat L.i k) ∧ Raised L s t r.2 0))

namespace Sys2Proof.Machine

/-- R167, R168, R172, R173, R181 to R185. One element of a load or store of the virtual space, which lands in one place that no move has
relocated: a load gives its element the record at home, tangents with it, and changes no memory, a store writes the record at home and changes
no register; an inactive element changes nothing.  A byte that an element of vstx.u performed before it in its convoy writes too holds
either (the model's choice, log 30); a convoy's loads see memory as its first element finds it (log 118). A stream word does so at its handle's
position, which its last element moves on; hset fills a handle, vscl the scale file, and vldnp makes its element of bit planes. -/
def vectorSpaceElements : Prop :=
  (∀ (L : Lane) s i d m isLoad ea, elementAddress L s i = some (d, m, isLoad, ea) → L.i < L.c.vlmax →
    (MaskedOff L m → (L.perform i).run s = .ok () s) ∧
    (¬ MaskedOff L m → ∀ p u, OnePlace L s (if isLoad then .load else .store) ea L.c.rs p u →
      (isLoad = true → u.poisoned p.pa L.c.rs = false → ∃ t, (L.perform i).run s = .ok () t ∧
        TakesRecord L s t d ((s.loadMem L.h).readN p.pa L.c.rs) ∧ t.mem = s.mem) ∧
      (isLoad = false → s.mem.wf = true → ∃ t, (L.perform i).run s = .ok () t ∧
        (∀ k, k < L.c.rs → t.mem.read (p.pa + k) = recordByte L s d k ∨
          (lowerWrites L s i (ea + k) ∧ t.mem.read (p.pa + k) = s.mem.read (p.pa + k))) ∧
        SameMemBut s t p.pa L.c.rs ∧ SameRegisters s t))) ∧
  (∀ (L : Lane) s i d a m isLoad, streamForm i = some (d, a, m, isLoad) → L.i < L.c.vlmax →
    let n := Tbl.get 0 L.c.h a.toNat
    let o := streamStart n i + L.i * L.c.rs
    let ea := n % 2 ^ 56 + (if n / 2 ^ 254 % 2 = 1 then o % (n / 2 ^ 64 % 2 ^ 40) else o)
    (MaskedOff L m → ∃ t, (L.perform i).run s = .ok () t ∧ HandlesAfter L s t a i ∧ t.mem = s.mem ∧ SameRegisters s t) ∧
    (¬ MaskedOff L m → ∀ p u, OnePlace L s (if isLoad then .load else .store) ea L.c.rs p u →
      (isLoad = true → u.poisoned p.pa L.c.rs = false → ∃ t, (L.perform i).run s = .ok () t ∧ HandlesAfter L s t a i ∧
        TakesRecord L s t d ((s.loadMem L.h).readN p.pa L.c.rs) ∧ t.mem = s.mem) ∧
      (isLoad = false → s.mem.wf = true → ∃ t, (L.perform i).run s = .ok () t ∧ HandlesAfter L s t a i ∧
        (∀ k, k < L.c.rs → t.mem.read (p.pa + k) = recordByte L s d k) ∧ SameMemBut s t p.pa L.c.rs ∧ SameRegisters s t))) ∧
  (∀ (L : Lane) s k a b, (L.i ≠ 0 → (L.perform (.hset k a b)).run s = .ok () s) ∧
    (L.i = 0 → ∀ p u, OnePlace L s .load L.e.opA.toNat 32 p u → u.poisoned p.pa 32 = false →
      let n := (s.loadMem L.h).readN p.pa 32
      (hsetBad n = true → ∃ t, (L.perform (.hset k a b)).run s = .error (.trap cOPND (L.e.word.setWidth 64) false) t) ∧
      (hsetBad n = false → ∃ t, (L.perform (.hset k a b)).run s = .ok () t ∧ t.mem = s.mem ∧ SameRegisters s t ∧
        (t.ctx L.h).h = Tbl.set (s.ctx L.h).h a.toNat n))) ∧
  (∀ (L : Lane) s k a b, let i : Instr := .vscl k a b
    let ea := (L.e.opA + word L.i * L.e.opB).toNat
    (¬ L.i * 2 ^ L.c.bl < L.c.vl → (L.perform i).run s = .ok () s) ∧
    (L.i * 2 ^ L.c.bl < L.c.vl → ∀ p u, OnePlace L s .load ea 1 p u → u.poisoned p.pa 1 = false →
      ∃ t, (L.perform i).run s = .ok () t ∧ t.mem = s.mem ∧ SameRegisters s t ∧
        (t.ctx L.h).sf = Tbl.set (s.ctx L.h).sf ((L.c.sb + L.i) % 2048) ((s.loadMem L.h).readN p.pa 1))) ∧
  (∀ (L : Lane) s k d a (p : BitVec 3) (q : BitVec 4) m, let i : Instr := .vldnp k d a p q m
    L.i < L.c.vlmax → (MaskedOff L m → (L.perform i).run s = .ok () s) ∧
    (¬ MaskedOff L m → ∀ ps u,
      (L.resolveParts ((List.range q.toNat).map (fun g => (planeAddress L (p.toNat + 1) g, 16)))).run s = .ok ps u →
      (∀ l ∈ ps, ∀ x ∈ l, x.hops = 0) →
      let r := planesValue L (p.toNat + 1) q.toNat (fun g => u.loadPieces L.h ((ps[g]?).getD []))
      ∃ t, (L.perform i).run s = .ok () t ∧ PutsElement L s t (vwOf L.c.ew) d L.i r.1 (fun _ => 0) ∧ Raised L s t r.2 0 ∧ t.mem = s.mem))

/-- R175 to R178, R202, R203. One element of a buffer word. A load gives its element the record of the allocation, a
store writes it there; one that reaches the guard touches it, and reads as zero and writes nothing; one outside raises VACC; a load with FE waits for
its granules to be full, and the word's last element that touches a granule clears it for fe.take and sets it for fe.set. -/
def bufferElements : Prop :=
  ∀ (L : Lane) s i kind d r xp fe m isLoad, bufferForm i = some (kind, d, r, xp, fe, m, isLoad) → L.i < L.c.vlmax →
    let core := bufferAt L r
    let lno := s.hartLno L.h
    let off := bufferOff L xp L.i
    let size := (s.buf core lno kind).size
    let full (g : Nat) : Bool := Tbl.get false (s.buf core lno kind).full g
    let gs (g : Nat) : Prop := off / 16 ≤ g ∧ g ≤ (off + L.c.rs - 1) / 16
    (MaskedOff L m → (L.perform i).run s = .ok () s) ∧
    (¬ MaskedOff L m →
      (inAlloc size off L.c.rs → isLoad = true → (fe ≠ 0 → ∀ g, gs g → full g = true) →
        ∃ t, (L.perform i).run s = .ok () t ∧ SameBuffers s t none ∧ t.mem = s.mem ∧
          TakesRecord L s t d ((if fe = 0 then s.loadBuffer L.h core lno kind else s.buf core lno kind).data.readN off L.c.rs)) ∧
      (inAlloc size off L.c.rs → isLoad = true → fe ≠ 0 → (∃ g, gs g ∧ full g = false) →
        ∃ g t, gs g ∧ full g = false ∧ (L.perform i).run s = .error (.wait (.granule core kind.num lno g)) t) ∧
      (inAlloc size off L.c.rs → isLoad = false → (s.buf core lno kind).data.wf = true →
        ∃ t, (L.perform i).run s = .ok () t ∧ SameRegisters s t ∧ t.mem = s.mem ∧ SameBuffers s t (some (core, lno, kind, off, L.c.rs)) ∧
          ∀ k, k < L.c.rs → (t.buf core lno kind).data.read (off + k) = recordByte L s d k) ∧
      (inGuard size off L.c.rs → isLoad = false ∨ fe = 0 →
        ∃ t, (L.perform i).run s = .ok () t ∧ SameBuffers s t none ∧ t.mem = s.mem ∧ Touched L s t core kind size off ∧
          if isLoad then TakesRecord L s t d 0 else SameRegisters s t) ∧
      (¬ inAlloc size off L.c.rs → ¬ inGuard size off L.c.rs → ∃ t, (L.perform i).run s = .error (.trap cVACC
        (word (kind.num * 2 ^ 56 + (if r then L.e.opA.toNat / 2 ^ 24 % 8 else 0) * 2 ^ 24 + off % 2 ^ 24)) false) t) ∧
      (inAlloc size off L.c.rs → L.maskPending s m = false → (isLoad = true ∧ fe = 2) ∨ (isLoad = false ∧ fe = 1) →
        let later (g : Nat) : Prop := ∃ j, L.i < j ∧ j < L.c.vl ∧ (m = false ∨ L.c.mask L.c.msel / 2 ^ j % 2 = 1) ∧
          bufferOff L xp j / 16 ≤ g ∧ g ≤ (bufferOff L xp j + L.c.rs - 1) / 16
        ∃ t, (L.markWord true i).run s = .ok () t ∧
          (∀ g, gs g → ¬ later g → Tbl.get false (t.buf core lno kind).full g = !isLoad) ∧
          ∀ g, ¬ gs g ∨ later g → Tbl.get false (t.buf core lno kind).full g = full g))

/-- R179, R180, R206. One element of a vector atomic: it gives its element the old value and stores the new one, at home or through the
aperture; one that reaches the guard touches it and reads as zero, one that is misaligned or names no place of the allocation raises VACC. -/
def vatomicElements : Prop :=
  ∀ (L : Lane) s i op d b m, vatomicForm i = some (op, d, b, m) → L.i < L.c.vlmax →
    let ea := (L.e.opA.toNat % 2 ^ 56 + elemSrc L s (some b)) % 2 ^ 64
    let w := vwOf L.c.ew
    let q := elemSrc L s (some d)
    let took (t : State) (old : Nat) : Prop := PutsElement L s t w d L.i old (fun _ => 0) ∧ Raised L s t (atomicStores L old q op).2 0
    ¬ MaskedOff L m →
    (ea % w ≠ 0 → ∃ t, (L.perform i).run s = .error (.trap cVACC (word ea) false) t) ∧
    (ea % w = 0 → ea / 2 ^ 32 ≠ 0xFFFFFF → ∀ p u, (resolveOr (s.vecReqOf L.h) .atomic cVACC (word ea) ea w).run s = .ok [p] u →
      u.poisoned p.pa w = false → s.mem.wf = true →
      let old := s.mem.readN p.pa w
      ∃ t, (L.perform i).run s = .ok () t ∧ took t old ∧ SameMemBut s t p.pa w ∧ Holds t p.pa w (atomicStores L old q op).1) ∧
    (ea % w = 0 → ea / 2 ^ 32 = 0xFFFFFF →
      let core := L.core / 8 * 8 + ea / 2 ^ 24 % 8
      let kind : BufKind := if ea / 2 ^ 27 % 4 = 2 then .a else .c
      let lno := s.hartLno L.h
      let off := ea % 2 ^ 24
      let buf := s.buf core lno kind
      (ea / 2 ^ 29 % 8 ≠ 0 ∨ ea / 2 ^ 27 % 4 < 2 ∨ (¬ inAlloc buf.size off w ∧ ¬ inGuard buf.size off w) →
        ∃ t, (L.perform i).run s = .error (.trap cVACC (word ea) false) t) ∧
      (ea / 2 ^ 29 % 8 = 0 → 2 ≤ ea / 2 ^ 27 % 4 →
        (inGuard buf.size off w → ∃ t, (L.perform i).run s = .ok () t ∧ PutsElement L s t w d L.i 0 (fun _ => 0) ∧
          Touched L s t core kind buf.size off ∧ SameBuffers s t none ∧ t.mem = s.mem) ∧
        (inAlloc buf.size off w → buf.data.wf = true →
          let old := buf.data.readN off w
          ∃ t, (L.perform i).run s = .ok () t ∧ took t old ∧ SameBuffers s t (some (core, lno, kind, off, w)) ∧ t.mem = s.mem ∧
            ∀ k, k < w → (t.buf core lno kind).data.read (off + k) = BitVec.ofNat 8 ((atomicStores L old q op).1 / 256 ^ k))))

end Sys2Proof.Machine

/-- R167, R168, R172 to R185, R202, R203, R206. One element of a vector memory word. A load gives its element of d the record that it reads, and
the tangents that lie behind it, or +0; a store leaves the record; an inactive element changes nothing. So do the streams, the strip
handles, the scale file and the bit planes; the typed buffers, with a read of a guard as 0 and a touch of one latched; and the vector atomics, whose
old value goes to d. Two readings are the model's: an element of vstx.u may leave the bytes of a lower one that its convoy has performed,
taken by virtual address (log 30); and a load of a convoy in flight reads memory as its first element found it (log 118). -/
def Obligations.VectorMemoryElements : Prop := vectorSpaceElements ∧ bufferElements ∧ vatomicElements

/-! ### The scheduler -/

/-- R361, R365 to R369, R374. What the scheduler does. A free hart of a running core takes a task of a launch that it may place there:
the task starts at the record's entry point with the record's registers (here of a launch without a stack area). A stop that is due
saves the task, which is ready since now; a task ready for AGEW is aged; a wait past SPIN leaves the hart free, its task parked or, where
the condition holds, ready; a parked task whose condition holds is ready since now; and a task at address 0 with nothing left ends. A free
hart that takes a task that has run before (R42, R373) installs what its frame holds: the context, the vector region, VBASE and FRM its
own and the trap area's ENQ where it was in a handler; then it reissues the saved dump where the checks of R42 pass, and the task ends with
RSTR where they fail. -/
def Obligations.SchedulerEvents : Prop :=
  (∀ (s : State) h key lno n placed l, s.nextFree h = true → s.candidate h = some (key, .fresh lno n placed) → s.launch lno = some l →
    (s.core (coreOf h)).gate = .running → (s.freeFrame (recVcount l.record)).isSome = true →
    (s.freeRegion (coreOf h) h (recVcount l.record)).isSome = true → recStack l.record = 0 →
    ∃ (t : State) (k : Task), exec (.taskDispatch h) s = .next t ∧ (t.hart h).task = some s.nextTask ∧ t.taskOf s.nextTask = some k ∧ k.st = .running ∧
      k.lno = lno ∧ k.t = n ∧ t.pc h = word (recEntry l.record) ∧ t.x h 2 = 0 ∧ t.x h 3 = 0 ∧ t.x h 4 = word l.rva ∧
      (t.ctx h).prv = recSupv l.record ∧ (t.ctx h).prio = l.prio ∧ (t.ctx h).key = word (recKey l.record) ∧
      (t.ctx h).strm = word (recStrm l.record + n) ∧ (t.ctx h).tvec = word (recTvec l.record) ∧ (t.ctx h).vs = 0 ∧
      (t.hart h).queue = [] ∧ SameMem s t) ∧
  (∀ (s : State) h key tid k f vb, s.nextFree h = true → s.candidate h = some (key, .task tid) → s.taskOf tid = some k → k.started = true →
    k.frame = some f → (k.anvilSaved = none ∨ (s.core (coreOf h)).anvil.owner = none ∧ (s.core (coreOf h)).anvil.releasing = none) →
    (s.core (coreOf h)).gate = .running → s.freeRegion (coreOf h) h k.vcount = some vb → s.poisoned f (0x80000 + 4096 * k.vcount) = false →
    let c := { s.readFrame f with vbase := vb, vcount := k.vcount, frm := f }
    let enq := s.mem.readN (f + trapArea + 24) 8
    ∃ u : State, (u.hart h).task = some tid ∧ (u.taskOf tid).map (fun k' => (k'.st, k'.hart, k'.started)) = some (.running, h, true) ∧ SameMem s u ∧
      u.ctx h = (if c.inh then { c with enqN := bits enq 37 32, enqSeq0 := bits enq 15 0 } else c) ∧
      (∀ n < k.vcount, Tbl.get 0 (u.core (coreOf h)).vf (vb + n) = s.mem.readN (f + 0x80000 + 4096 * n) 4096) ∧ u.l1 (coreOf h) = [] ∧
      let es := u.readDump f 0x800 (min c.enqN 32) c.enqSeq0 k.addrs (s.frameCp f)
      exec (.taskDispatch h) s = .next (if u.dumpOk h c.enqN es then u.reissue h (es.map Prod.snd) k.openConvoy c.vs
        else u.terminateAt h cRSTR 0 (s.frameCp f))) ∧
  (∀ (s : State) h, s.nextFree h = true → s.candidate h = none → exec (.taskDispatch h) s = .next s) ∧
  (∀ (s : State) h tid, s.preempts h = true → s.mayStop h = true → (s.hart h).held = none → (s.hart h).task = some tid → (s.taskOf tid).isSome = true →
    ∃ t, exec (.preemption h) s = .next t ∧ (t.hart h).task = none ∧
      (t.taskOf tid).map (fun k => (k.st, k.since)) = some (.ready, s.time)) ∧
  (∀ (s : State) tid k, s.taskOf tid = some k → k.st = .ready → k.since + 1000 * max 1 (s.schcfg / 2 ^ 48 % 2 ^ 16) ≤ s.time →
    ∃ t, exec (.ageWindowExpiry tid) s = .next t ∧ t.taskOf tid = some { k with aged := true } ∧
      ∀ n, n ≠ tid → t.taskOf n = s.taskOf n) ∧
  (∀ (s : State) h tid w, s.spunOut h = some w → s.savable h = true → (s.hart h).task = some tid → (s.taskOf tid).isSome = true →
    ∃ t, exec (.spinBudgetExpiry h) s = .next t ∧ (t.hart h).task = none ∧
      (t.taskOf tid).map (fun k => (k.st, k.since)) = some (if s.wakes (s.hartLno h) w then .ready else .parked, s.time)) ∧
  (∀ (s : State) tid k, s.taskOf tid = some k → k.st = .parked → s.wakes k.lno k.wake = true →
    ∃ t, exec (.wake tid) s = .next t ∧ t.taskOf tid = some { k with st := .ready, since := s.time, wake := .none, aged := false } ∧
      ∀ n, n ≠ tid → t.taskOf n = s.taskOf n) ∧
  (∀ (s : State) h tid k, (s.hart h).task = some tid → s.taskOf tid = some k → s.pc h = 0 → (s.hart h).queue = [] → s.savable h = true →
    ∃ t, exec (.taskEnd h) s = .next t ∧ (t.hart h).task = none ∧ t.taskOf tid = none ∧
      (t.launch k.lno).map (·.ended) = (s.launch k.lno).map (·.ended + 1))

/-- R375, R379, R383. A launch whose tasks, transfers, requests, instances and records are done ends: it is no longer live, holds no
allocation on any core, and its END word stands in its completion block. A node of an instance whose predecessors have ended launches
where the launch can be admitted. -/
def Obligations.LaunchesEnd : Prop :=
  (∀ (s : State) lno l, s.launch lno = some l → s.mayEnd lno l = true → l.graphOf = none →
    (∀ e ∈ s.clusters, ∀ c ∈ e.2.counters, c.2.lno ≠ lno) →
    ∃ t, exec (.launchEnd lno) s = .next t ∧ t.launch lno = some { l with live := false } ∧
      (∀ c a, a ∈ (t.core c).allocs → a.lno ≠ lno) ∧ (∀ n, n ≠ lno → t.launch n = s.launch n) ∧
      (s.mem.wf = true → l.comp ≠ 0 → s.backed (l.comp + 16) = true → s.backed (l.comp + 23) = true →
        Holds t (l.comp + 16) 8 (endWord l.endSt l.errors))) ∧
  (∀ (s : State) gid gen node r n rva pred pa, (s.graph gid).runs.find? (fun r => r.gen == gen) = some r →
    (s.graph gid).nodes[node]? = some (n, rva, pred, pa) → (∀ m, m < 64 → pred / 2 ^ m % 2 = 1 → m ∈ r.ended) →
    Tbl.find r.node node = none → (∀ k, Tbl.get 0 s.gens k < 65536) → s.admitFull n = false →
    (recPasen n = true → s.pasidEnabled = true) →
    ∃ (t : State) (lno : Nat) (l : Launch), exec (.graphNodeLaunch gid gen node) s = .next t ∧ s.isLive lno = false ∧ t.launch lno = some l ∧ l.live = true ∧
      l.record = n ∧ l.rva = rva ∧ l.graphOf = some (gid, gen, node) ∧
      ∃ r' ∈ (t.graph gid).runs, r'.gen = gen ∧ Tbl.find r'.node node = some lno)

/-! ### Jetstream -/

namespace Sys2Proof.Machine

/-- Address a lies in the replay areas of link-layer retry (R442), which a frame that leaves may write. -/
def inReplay (s : State) (a : Nat) : Prop :=
  s.netllr / 2 ^ 63 % 2 = 1 ∧ s.netllr / 2 ^ 31 % 2 ^ 17 * 2 ^ 31 ≤ a ∧ a < s.netllr / 2 ^ 31 % 2 ^ 17 * 2 ^ 31 + 2 ^ 31

/-- From s, messages have been sent besides what led to the memory of m: t has that memory, but for the replay areas. -/
def SentMem (s m t : State) : Prop := s.mem.wf = true → ∀ a, ¬ inReplay s a → t.mem.read a = m.mem.read a

/-- The launch of the hart whose turn it is owns communicator n, which is valid (R472). -/
def jetOwns (s : State) (n : Nat) : Prop :=
  coOk (s.comm n).entry = true ∧ coLno (s.comm n).entry = s.hartLno s.turn ∧
  (s.launch (s.hartLno s.turn)).any (fun l => l.gen == coGen (s.comm n).entry) = true

end Sys2Proof.Machine

/-- R472 to R476. The Jetstream words, with an empty queue. cgload of an image that it may read and that keeps R465 fills the lowest free
slot of the graph store and writes its handle, or FULL; with x[b] = 1 it frees a graph with no live instance. cgrun starts an instance
of a graph; a handle that names nothing, a communicator whose entry is not valid or that is in FAULT, and a graph with four live instances
are answered with STALE, BADCOMM, FAULT and FULL, and nothing starts. cgwait writes how an ended instance ended, and RUNNING where it may
not wait; cgstat writes what its selector names: an instance, the chunks sent and freed of a channel, a rank's highest tag, a communicator;
0 where the communicator's entry is not valid. A handle that names nothing is answered so. -/
def Obligations.JetWords : Prop :=
  ∀ (s : State) (d a b : BitVec 7), (s.hart s.turn).queue = [] →
    let h := s.turn
    let x := (s.x h a).toNat
    let f := (s.x h b).toNat
    (∀ (hd : List Nat) (u : State) (body : List Nat) (u' : State), f = 0 → x % 64 = 0 → x < 2 ^ 56 → (readUnits h x 1).run s = .ok hd u →
      let n := ofUnits hd
      let nop := n / 2 ^ 32 % 2 ^ 11
      let nsucc := n / 2 ^ 64 % 2 ^ 16
      let comm := n / 2 ^ 48 % 64
      n / 2 ^ 80 % 2 ^ 432 = 0 → n / 2 ^ 54 % 2 ^ 10 = 0 → n / 2 ^ 43 % 2 ^ 5 = 0 → n % 2 ^ 32 = 0x4A475248 → 1 ≤ nop → nop ≤ 1024 →
      (readUnits h (x + 64) ((32 * nop + 2 * nsucc + 63) / 64)).run u = .ok body u' →
      let ops := (List.range nop).map (fun k => ofUnits ((body.drop (16 * k)).take 16))
      let succ := (body.drop (16 * nop)).take nsucc
      graphBad ops succ = false → jetOwns u' comm → (∀ r ∈ ops, u'.rankBad (u'.comm comm).entry r = false) →
      (∀ k, k < 256 → (u'.jgraph (k + 1)).ops = [] → (∀ j, j < k → (u'.jgraph (j + 1)).ops ≠ []) → u'.storedOps + nop ≤ 65536 →
        ∃ t, exec (.cgload true d a b) s = .next t ∧ FrontWord s t d (word ((u'.jgraph (k + 1)).gen * 2 ^ 16 + (k + 1))) ∧
          (t.jgraph (k + 1)).ops = ops ∧ (t.jgraph (k + 1)).succ = succ ∧ (t.jgraph (k + 1)).comm = comm ∧
          (t.jgraph (k + 1)).gen = (u'.jgraph (k + 1)).gen ∧ ∀ g, g ≠ k + 1 → t.jgraph g = u'.jgraph g) ∧
      ((∀ k, k < 256 → (u'.jgraph (k + 1)).ops ≠ []) →
        ∃ t, exec (.cgload true d a b) s = .next t ∧ FrontWord s t d (word (2 ^ 60)) ∧ t.jgraphs = u'.jgraphs)) ∧
    (∀ (g : JetGraph), f = 1 → s.graphFor x = some g → jetOwns s g.comm → s.jets.any (fun j => j.gid == x % 65536) = false →
      ∃ t, exec (.cgload true d a b) s = .next t ∧ FrontWord s t d (word (x % 2 ^ 32)) ∧ (t.jgraph (x % 65536)).ops = [] ∧
        (t.jgraph (x % 65536)).gen = (g.gen + 1) % 65536) ∧
    (f = 1 → s.graphFor x = none →
      ∃ t, exec (.cgload true d a b) s = .next t ∧ FrontWord s t d (word (4 * 2 ^ 60 + x % 2 ^ 32)) ∧ t.jgraphs = s.jgraphs) ∧
    (∀ (units : List Nat) (u : State) (g : JetGraph), f % 64 = 0 → f < 2 ^ 56 → releaseReady s h → (readUnits h f 3).run s = .ok units u →
      runBlockBad (ofUnits units) = false → u.graphFor x = some g → jetOwns u g.comm → (u.comm g.comm).fault = false →
      (u.jets.filter (fun j => j.gid == x % 65536)).length < 4 →
      ∃ (t : State) (j : JetRun), exec (.cgrun true d a b) s = .next t ∧ FrontWord s t d (word (g.runs % 65536 * 2 ^ 32 + x % 2 ^ 32)) ∧
        t.jets = u.jets ++ [j] ∧ j.gid = x % 65536 ∧ j.run = g.runs ∧ j.lno = u.hartLno h ∧ j.bases = ofUnits units % 2 ^ 1024 ∧
        j.started = [] ∧ j.completed = [] ∧ j.failed = false) ∧
    (∀ (units : List Nat) (u : State), f % 64 = 0 → f < 2 ^ 56 → releaseReady s h → (readUnits h f 3).run s = .ok units u →
      runBlockBad (ofUnits units) = false →
      let turned := fun (v : Nat) => ∃ t : State, exec (.cgrun true d a b) s = .next t ∧ FrontWord s t d (word (v * 2 ^ 60 + x % 2 ^ 32)) ∧
        t.jets = u.jets ∧ t.jgraphs = u.jgraphs
      (u.graphFor x = none → turned 4) ∧
      (∀ g, u.graphFor x = some g → coOk (u.comm g.comm).entry = false → turned 2) ∧
      ∀ g, u.graphFor x = some g → jetOwns u g.comm →
        ((u.comm g.comm).fault = true → turned 6) ∧
        ((u.comm g.comm).fault = false → 4 ≤ (u.jets.filter (fun j => j.gid == x % 65536)).length → turned 5)) ∧
    (f ≤ 1 → s.graphFor x = none →
      ∃ t, exec (.cgwait true d a b) s = .next t ∧ FrontWord s t d (word (2 * 2 ^ 60)) ∧ t.l1 (coreOf h) = []) ∧
    (∀ (g : JetGraph), s.graphFor x = some g → jetOwns s g.comm →
      (∀ (e : Nat × Nat), f ≤ 1 → s.liveRun x = none → g.endOf x = some e →
        ∃ t, exec (.cgwait true d a b) s = .next t ∧ FrontWord s t d (word e.1) ∧ t.l1 (coreOf h) = []) ∧
      (f = 1 → (s.liveRun x).isSome = true →
        ∃ t, exec (.cgwait true d a b) s = .next t ∧ FrontWord s t d (word (15 * 2 ^ 60)) ∧ t.jets = s.jets) ∧
      (f % 2 ^ 24 = 0 → ∃ t, exec (.cgstat true d a b) s = .next t ∧ FrontWord s t d (word (s.runStat x)) ∧ t.jets = s.jets)) ∧
    (∀ (sel n v : Nat), f % 2 ^ 24 = sel → (sel = 1 ∧ n = x / 4096 ∧
          v = Tbl.get 0 (s.comm n).sent (x % 4096) % 2 ^ 32 * 2 ^ 32 + (Tbl.get [] (s.comm n).freed (x % 4096)).length % 2 ^ 32 ∨
        sel = 2 ∧ n = x / 4096 ∧ v = Tbl.get 0 (s.comm n).tagH (x % 4096) ∨ sel = 3 ∧ n = x ∧ coOk (s.comm n).entry = false) →
      (jetOwns s n → ∃ t, exec (.cgstat true d a b) s = .next t ∧ FrontWord s t d (word v) ∧ t.jets = s.jets ∧ t.comms = s.comms) ∧
      (coOk (s.comm n).entry = false → ∃ t, exec (.cgstat true d a b) s = .next t ∧ FrontWord s t d 0 ∧ t.jets = s.jets ∧ t.comms = s.comms)) ∧
    (f % 2 ^ 24 = 3 → jetOwns s x → ∃ t, exec (.cgstat true d a b) s = .next t ∧
      FrontWord s t d (word ((if (s.comm x).fault then 2 ^ 63 else 0) + s.runsOn x % 256)))

/-- R457, R459, R460, R463, R467 to R471. What Jetstream's engines do. A free engine takes the first operation that can start; an
operation that performs completes and frees its engine; the adders add one destination line of an RRED; a line that arrives for a slot
that is free stands in it with its flag; a credit is kept; a tagged reduce-store is added once by its tag; an operation kept from
starting for 10 s fails its instance and puts its communicator in FAULT; and COMMSYNC takes a changed entry and restarts its channels, the
tags it has accepted staying (R469). A message here comes in by a port that applies no MACsec. A reduce-store that has come before changes no memory
and no record of tags; a new one whose tag is dropped frees its slot. The model's readings: the ten seconds start where the operation's last
predecessor completed, or where its instance began (log 91); a reduce-store's window is resolved through tower zero (log 109). -/
def Obligations.JetEvents : Prop :=
  (∀ (s : State) e c gid run n rest need u, (List.range s.engineCount).find? (fun k => (Tbl.find s.engines k).isNone) = some e →
    s.readyOps = (c, gid, run, n) :: rest → s.tryOp c gid run n = (some need, u) →
    ∃ t, exec .chunkStart s = .next t ∧ Tbl.find t.engines e = some { gid := gid, run := run, op := n, line := 0, need := need } ∧
      t.mem = u.mem) ∧
  (∀ (s : State) e k j ps u, Tbl.find s.engines e = some k → s.jetRun k.gid k.run = some j → opKind ((s.jgraph k.gid).op k.op) ≠ 3 →
    (jetResolve j.req (opLen ((s.jgraph k.gid).op k.op)) (j.ranges ((s.jgraph k.gid).op k.op))).run s = .ok (.ok ps) u →
    u.opPoison j k.op ps = none →
    ∃ t, exec (.chunkEnd e) s = .next t ∧ Tbl.find t.engines e = none ∧ SentMem s (u.opEffect j k.op ps) t ∧
      ∀ j', t.jetRun k.gid k.run = some j' → Tbl.get false j'.completed k.op = true) ∧
  (∀ (s : State) e k j u, Tbl.find s.engines e = some k → s.jetRun k.gid k.run = some j → opKind ((s.jgraph k.gid).op k.op) = 3 →
    let r := (s.jgraph k.gid).op k.op
    k.line < (rredLines (j.dst r) (opLen r)).length →
    (adderLine j k.op r k.line (s.slotBytes (s.comm (s.jgraph k.gid).comm).entry (opChan r) (Tbl.get 0 j.chunk k.op) (opWire r))).run s =
      .ok (.ok ()) u → s.opPoison j k.op [] = none →
    ∃ t, exec (.adderLine e) s = .next t ∧ Tbl.find t.engines e = some { k with line := k.line + 1 } ∧ t.mem = u.mem) ∧
  (∀ (s : State) comm peer lane chunk, s.hears peer = false →
    (∀ line data, exec (.chunkLine comm peer lane chunk line data) s = .next s) ∧ exec (.credit comm peer lane chunk) s = .next s ∧
    ∀ tag off fmt half scale data, exec (.rstrArrive comm peer lane chunk tag off fmt half scale data) s = .next s) ∧
  (∀ (s : State) comm peer lane chunk line data rank, s.hears peer = true → s.senderRank comm peer = some rank → s.mem.wf = true →
    let ch := rank * 4 + lane
    let e := (s.comm comm).entry
    let freed := Tbl.get [] (s.comm comm).freed ch
    let a := slotAddr e ch chunk + 128 * line
    (chunk ∉ freed → (chunk < coDepth e ∨ chunk - coDepth e ∈ freed) → (∀ k < 128, ¬ inReplay s (a + k)) →
      ∃ t, exec (.chunkLine comm peer lane chunk line data) s = .next t ∧ Holds t a 120 (ofBytes (data.take 120)) ∧
        Holds t (a + 120) 8 (lineFlag e ch chunk line) ∧
        ∀ b, (b < a ∨ a + 128 ≤ b) → ¬ inReplay s b → t.mem.read b = s.mem.read b) ∧
    (chunk ∈ freed → ∃ t, exec (.chunkLine comm peer lane chunk line data) s = .next t ∧ SentMem s s t)) ∧
  (∀ (s : State) comm peer lane chunk rank, s.hears peer = true → s.senderRank comm peer = some rank →
    ∃ t, exec (.credit comm peer lane chunk) s = .next t ∧ chunk ∈ Tbl.get [] (t.comm comm).credits (rank * 4 + lane) ∧ SentMem s s t) ∧
  (∀ (s : State) comm peer lane chunk tag off fmt half scale data rank, s.hears peer = true → s.senderRank comm peer = some rank →
    let w := localWidth half
    let n := data.length / (if fmt = 0 then w else wireWidth fmt)
    let e := (s.comm comm).entry
    let freed := Tbl.get [] (s.comm comm).freed (rank * 4 + lane)
    (chunk ∈ freed →
      ∃ t, exec (.rstrArrive comm peer lane chunk tag off fmt half scale data) s = .next t ∧ SentMem s s t ∧ t.comms = s.comms) ∧
    (chunk ∉ freed → (s.comm comm).takeTag rank tag = none →
      ∃ t, exec (.rstrArrive comm peer lane chunk tag off fmt half scale data) s = .next t ∧ SentMem s s t ∧
        (t.comm comm).tagH = (s.comm comm).tagH ∧ (t.comm comm).tags = (s.comm comm).tags ∧
        chunk ∈ Tbl.get [] (t.comm comm).freed (rank * 4 + lane)) ∧
    (∀ c ps u, chunk ∉ freed → (s.comm comm).takeTag rank tag = some c → off + w * n ≤ coRslen e →
      (resolve { via := .base 0, lno := coLno e, sup := ((s.launch (coLno e)).map (fun l => recSupv l.record)).getD false, hart := none }
        .atomic ((coRsbase e + off) % 2 ^ 64) (w * n)).run s = .ok (.ok ps) u → u.piecesPoisoned ps = false →
      let old := toBytes (w * n) (u.readPieces ps)
      let out := (List.range n).flatMap (fun i =>
        toBytes w (reduceElem half .rne 0 (elemAt old w i) (decodeElem fmt half scale data i)))
      ∃ t, exec (.rstrArrive comm peer lane chunk tag off fmt half scale data) s = .next t ∧
        SentMem s (u.writePieces none ps (ofBytes out)) t ∧ (t.comm comm).tagH = c.tagH ∧ (t.comm comm).tags = c.tags ∧
        chunk ∈ Tbl.get [] (t.comm comm).freed (rank * 4 + lane))) ∧
  (∀ (s : State) gid run op j, s.jetRun gid run = some j → op < (s.jgraph gid).ops.length → j.open' op = true →
    s.needsMet j op = false → ((Tbl.find j.since op).getD j.began) + 10 ^ 10 ≤ s.time →
    ∃ t, exec (.jetstreamTimeout gid run op) s = .next t ∧ (t.comm (s.jgraph gid).comm).fault = true ∧
      ∀ j', t.jetRun gid run = some j' → j'.failed = true) ∧
  (∀ (s : State) n, n < 64 → s.bmst < 16 → s.fw.recovery = false → s.commChanged n = true →
    (∀ m, m < 64 → m ≠ n → s.commChanged m = false) → s.runsOn n = 0 → s.commsBad = false →
    ∃ t, exec .commsync s = .next t ∧ t.bmst = 0 ∧ (t.comm n).entry = s.tableEntry n ∧ (t.comm n).fault = false ∧
      (t.comm n).outNext = [] ∧ (t.comm n).freed = [] ∧ (t.comm n).tagH = (s.comm n).tagH ∧ (t.comm n).tags = (s.comm n).tags ∧ ∀ m, m ≠ n → t.comm m = s.comm m)

/-! ### Reset, firmware and faults of a tower -/

/-- R409, R410, R427, R430. Package reset leaves everything at its reset value but flash, fuses, the health log's flash, layers mapped out
and towers mapped out. Where boot ROM accepts the image and four towers or more are left, that image runs and the self-test of every
such tower starts; else the recovery loader runs, and nothing of the image. Power loss does the same, and a flash write that it cut short
leaves STAGED = 0; a fatal fault logs a FATAL record and maps its tower out. That memory is what State.reset has is the model's choice
(log 81). -/
def Obligations.PackageReset : Prop :=
  (∀ s : State, ∃ t, exec .packageReset s = .next t ∧
    { t with agenda := [], fresh := 0, outbox := [], towers := [], flashLog := [], nextLog := 0, layerFlash := [], cores := [],
             fw := State.reset.fw } = State.reset ∧
    t.flashLog = s.flashLog ∧ t.layerFlash = s.layerFlash ∧ t.fw.flash = s.fw.flash ∧ t.fw.minSvn = s.fw.minSvn ∧
    t.fw.revoked = s.fw.revoked ∧ t.fw.staged = s.fw.staged ∧ t.fw.ready = false ∧
    (t.fw.recovery = false ↔ s.fw.bootable = true ∧ 4 ≤ ((List.range 8).filter (fun tw => (s.tower tw).st != .mappedOut)).length) ∧
    (if t.fw.recovery then t.fw.running = none ∧ t.fw.identity = none
      else t.fw.running = some s.fw.flash ∧ t.fw.identity = some (Identity.derive s.fw.flash)) ∧
    (∀ tw, tw < 8 → if (s.tower tw).st = .mappedOut then (t.tower tw).st = .mappedOut
      else (t.tower tw).st = .online ∧ (t.tower tw).testing = !t.fw.recovery ∧ (t.tower tw).fw = t.fw.running)) ∧
  (∀ s : State, s.fw.staged = false → ∃ t, exec .powerLoss s = .next t ∧ t.fw.staged = false ∧ t.fw.writing = false ∧
    t.fw.recovery = true ∧ t.launches = [] ∧ t.tasks = []) ∧
  (∀ s : State, exec .powerLoss s = exec .packageReset s) ∧
  (∀ (s : State) tw, tw < 8 → ∃ (t : State) (r : Health), exec (.fatalFault tw) s = .next t ∧ (t.tower tw).st = .mappedOut ∧ r ∈ t.flashLog ∧ r.cls = 4 ∧
    r.seq = s.nextLog ∧ t.launches = [] ∧ t.tasks = [])

/-- R408, R427. The self-test of a tower ends: one that fails, or a core without an Anvil layer, leaves the tower OFFLINE, and with the
last one the package is ready unless the recovery loader runs. A watchdog leaves its tower OFFLINE and unpowered; a tower out of service stays as it is. -/
def Obligations.TowerTests : Prop :=
  (∀ (s : State) tw, (s.tower tw).testing = true → (∀ k, k < 8 → k ≠ tw → (s.tower k).testing = false) →
    s.deadCore tw = false → ∃ t, exec (.selfTest tw true []) s = .next t ∧ (t.tower tw).testing = false ∧ (t.tower tw).st = (s.tower tw).st ∧
      t.fw.ready = !s.fw.recovery) ∧
  (∀ (s : State) tw pass, (s.tower tw).testing = true → (s.tower tw).st = .online → pass = false ∨ s.deadCore tw = true →
    ∃ t, exec (.selfTest tw pass []) s = .next t ∧ (t.tower tw).st = .offline ∧ (t.tower tw).testing = false) ∧
  (∀ (s : State) tw, (s.tower tw).st ≠ .offline → (s.tower tw).st ≠ .mappedOut →
    ∃ t, exec (.watchdogExpiry tw) s = .next t ∧ (t.tower tw).st = .offline ∧ (t.tower tw).powered = false ∧
      ∀ c, c / 64 = tw → (t.core c).allocs = [] ∧ (t.core c).anvil.owner = none) ∧
  (∀ (s : State) tw, (s.tower tw).st = .offline ∨ (s.tower tw).st = .mappedOut → exec (.watchdogExpiry tw) s = .next s)

namespace Sys2Proof.Machine

/-- A mailbox command can run: none is in progress, and the recovery loader does not run (R416, R429). -/
def mailboxFree (s : State) : Prop := s.bmst < 16 ∧ s.fw.recovery = false

/-- The response buffer can take n bytes (R416). -/
def bufferReady (s : State) (n : Nat) : Prop := s.bmrsp % 64 = 0 ∧ s.backedRange s.bmrsp n = true

/-- What BMSTAT then shows (R416): a status and a length. -/
def Answered (t : State) (st len : Nat) : Prop := t.bmst = st ∧ t.bmlen = len

end Sys2Proof.Machine

/-- R428, R430, R431. FWSTAGE writes an image that the checks accept to flash, with STAGED = 0 and the command busy until it is there, and
answers why it refuses another, which changes nothing, an apply running or not; FWAPPLY takes a mask of towers while an image is staged and
fewer than two towers are in SERVICE (R436; log 117), and is BUSY while a stage or an apply runs; an apply loads a tower that has been
emptied with the image that it began with, which is ONLINE again where its test passes and OFFLINE where it fails, waits while a tower in SERVICE
is an emergency's, and gives up a tower that is out of service or the last one. -/
def Obligations.FirmwareUpdates : Prop :=
  (∀ s : State, mailboxFree s → s.arg 1 ≠ 0 → s.backedRange (s.arg 0) (s.arg 1) = true →
    s.fw.writing = false →
    let b := toBytes (s.arg 1) (s.mem.readN (s.arg 0) (s.arg 1))
    ∃ t, exec .fwstage s = .next t ∧ t.mem = s.mem ∧ (if s.fw.check b = bmOK then
      t.fw = { s.fw with flash := .loaded b, staged := false, writing := true } ∧ t.bmstat = 2 ^ 63 ∧
        ∃ u, exec .fwstage t = .next u ∧ Answered u 0 0 ∧ u.fw = { s.fw with flash := .loaded b, staged := true, writing := false }
      else Answered t (s.fw.check b) 0 ∧ t.fw = s.fw)) ∧
  (∀ s : State, mailboxFree s → s.fw.writing = true ∨ s.fw.applying ≠ none → ∃ t, exec .fwapply s = .next t ∧ Answered t 1 0 ∧ t.fw = s.fw) ∧
  (∀ s : State, mailboxFree s → s.fw.writing = false → s.fw.applying = none → s.fw.staged = false ∨ 2 ≤ s.inService.length →
    ∃ t, exec .fwapply s = .next t ∧ Answered t 5 0 ∧ t.fw = s.fw) ∧
  (∀ s : State, mailboxFree s → s.fw.writing = false → s.fw.staged = true → s.fw.applying = none → s.inService.length < 2 → s.arg 0 % 256 ≠ 0 →
    ∃ t, exec .fwapply s = .next t ∧ Answered t 0 0 ∧ t.fw = { s.fw with applying := some (s.arg 0 % 256), image := s.fw.flash }) ∧
  (∀ (s : State) tw mask, s.fw.applying = some mask → s.nextApply = some tw → (s.tower tw).st = .service → (s.tower tw).step = 6 →
    (s.thcfg % 2 = 1 → s.mayShelter tw = true → ∀ pass, exec (.firmwareTowerApply tw pass) s = .next s.considerShelter) ∧
    (s.thcfg % 2 = 0 ∨ s.mayShelter tw = false →
      (∃ t, exec (.firmwareTowerApply tw true) s = .next t ∧ (t.tower tw).st = .online ∧ (t.tower tw).fw = some s.fw.image ∧
        t.fw.applying = if mask = 2 ^ tw then none else some (mask - 2 ^ tw)) ∧
      ∃ t, exec (.firmwareTowerApply tw false) s = .next t ∧ (t.tower tw).st = .offline ∧
        t.fw.applying = if mask = 2 ^ tw then none else some (mask - 2 ^ tw))) ∧
  (∀ (s : State) tw mask pass, s.fw.applying = some mask → s.nextApply = some tw →
    ((s.tower tw).st = .offline ∨ (s.tower tw).st = .mappedOut ∨ ((s.tower tw).st = .online ∧ s.lastOnline tw = true)) →
    ∃ t, exec (.firmwareTowerApply tw pass) s = .next t ∧ t.towers = s.towers ∧
      t.fw.applying = if mask = 2 ^ tw then none else some (mask - 2 ^ tw))

/-! ### The mailbox -/

namespace Sys2Proof.Machine

/-- A value that R402, R341 or R417 refuses for a register. -/
def writeRefused (s : State) (code unit v : Nat) : Prop :=
  (code = 0x01 ∧ thcfgBad v = true) ∨ (code = 0x05 ∧ s.anyTaskLive = true) ∨
  (0x30 ≤ code ∧ code ≤ 0x37 ∧
    zoneBad v 8388608 (((List.range 8).filter (· != code - 0x30)).map (Tbl.get 0 s.pzh)) = true) ∨
  (0x38 ≤ code ∧ code ≤ 0x3B ∧
    zoneBad v 786432 (((List.range 4).filter (· != code - 0x38)).map (Tbl.get 0 (s.tower unit).pzc)) = true)

/-- The register reads as the value written but for its reserved fields, and every other register reads as before (R7, R417). -/
def RegisterWritten (s t : State) (code unit raw : Nat) : Prop :=
  t.readReg code unit = regFields code raw ∧
  ∀ code' unit', unit' < regUnits code' → (code' ≠ code ∨ unit' ≠ unit) → t.readReg code' unit' = s.readReg code' unit'

end Sys2Proof.Machine

/-- R6, R7, R341, R402, R416, R417, R477. REGR answers a register's eight bytes; REGW writes one, and no other register changes; THCFG out
of order is refused with BADARG and FPOOL with a live task with STATE; and a code or unit that names no register is BADARG. The writes of
THCFG, FPOOL, a prime zone and JSCFG are REGW. -/
def Obligations.RegisterAccess : Prop :=
  (∀ s : State, mailboxFree s → s.arg 1 < regUnits (s.arg 0) → bufferReady s 8 → s.mem.wf = true →
    ∃ t, exec .regr s = .next t ∧ Answered t 0 8 ∧ Holds t s.bmrsp 8 (s.readReg (s.arg 0) (s.arg 1)) ∧ SameMemBut s t s.bmrsp 8) ∧
  (∀ s : State, mailboxFree s → regUnits (s.arg 0) ≤ s.arg 1 →
    (∃ t, exec .regr s = .next t ∧ Answered t 3 0 ∧ t.mem = s.mem) ∧ ∃ t, exec .regw s = .next t ∧ Answered t 3 0) ∧
  (∀ s : State, mailboxFree s → s.arg 1 < regUnits (s.arg 0) → regRo (s.arg 0) = false →
    ¬ writeRefused s (s.arg 0) (s.arg 1) (regFields (s.arg 0) (s.arg 2)) →
    ∃ t, exec .regw s = .next t ∧ Answered t 0 0 ∧ RegisterWritten s t (s.arg 0) (s.arg 1) (s.arg 2)) ∧
  (∀ (s : State) v, mailboxFree s → thcfgBad (regFields 0x01 v.toNat) = false →
    ∃ t, exec (.thcfgWrite v) s = .next t ∧ Answered t 0 0 ∧ t.thcfg = regFields 0x01 v.toNat) ∧
  (∀ (s : State) v, mailboxFree s → thcfgBad (regFields 0x01 v.toNat) = true →
    ∃ t, exec (.thcfgWrite v) s = .next t ∧ Answered t 3 0 ∧ t.thcfg = s.thcfg) ∧
  (∀ (s : State) v, mailboxFree s → s.anyTaskLive = false →
    ∃ t, exec (.fpoolWrite v) s = .next t ∧ Answered t 0 0 ∧ t.fpool = v.toNat % 2 ^ 48) ∧
  (∀ (s : State) v, mailboxFree s → s.anyTaskLive = true →
    ∃ t, exec (.fpoolWrite v) s = .next t ∧ Answered t 5 0 ∧ t.fpool = s.fpool) ∧
  (∀ (s : State) ceiling tw n v, tw < 8 → mailboxFree s →
    let code := if ceiling then 0x38 + n % 4 else 0x30 + n % 8
    let unit := if ceiling then tw else 0
    ¬ writeRefused s code unit (regFields code v.toNat) →
    ∃ t, exec (.primeZoneWrite ceiling tw n v) s = .next t ∧ Answered t 0 0 ∧ RegisterWritten s t code unit v.toNat) ∧
  (∀ (s : State) v, mailboxFree s →
    ∃ t, exec (.jscfgWrite v) s = .next t ∧ Answered t 0 0 ∧ t.jscfg = v.toNat % 2 ^ 6)

/-- R136, R213, R214, R372, R416 to R419, R444. The other mailbox commands: SUMMARY writes its header and the report, and LOGREAD its
records, or SHORT with the length that SUMMARY needs; SERVICE takes a tower that is ONLINE and not the last, but is BUSY while an apply runs
(log 117), RESUME brings one back; TDUMP copies a saved task's frame out;
DBGSET attaches or detaches a debugger, DBGGO ends Contrail stops, HARTON returns harts to service; NETSYNC drops the engine's copies;
an unassigned code is BADCMD. -/
def Obligations.MailboxCommands : Prop :=
  (∀ s : State, s.bmst < 16 → s.mem.wf = true →
    let n := s.report.length + 8
    (s.arg 0 < n → ∃ t, exec .summary s = .next t ∧ Answered t 4 n ∧ t.mem = s.mem) ∧
    (n ≤ s.arg 0 → bufferReady s n → ∃ t, exec .summary s = .next t ∧ Answered t 0 n ∧ SameMemBut s t s.bmrsp n ∧
      ∀ k b, (toBytes 8 n ++ s.report)[k]? = some b → t.mem.read (s.bmrsp + k) = b)) ∧
  (∀ s : State, s.bmst < 16 → s.mem.wf = true →
    let rs := (s.records.filter (fun r => decide (s.arg 0 ≤ r.seq))).take (s.arg 1)
    bufferReady s (32 * rs.length) → ∃ t, exec .logread s = .next t ∧ Answered t 0 (32 * rs.length) ∧
      ∀ k r, rs[k]? = some r → Holds t (s.bmrsp + 32 * k) 32 r.record) ∧
  (∀ s : State, mailboxFree s → s.arg 0 < 8 → (s.tower (s.arg 0)).st = .online → s.lastOnline (s.arg 0) = false →
    s.fw.applying = none → ∃ t, exec .service s = .next t ∧ (t.tower (s.arg 0)).st = .service ∧
      (s.runningIn (s.arg 0) = [] → Answered t 0 0 ∧ (t.tower (s.arg 0)).step = 6)) ∧
  (∀ s : State, mailboxFree s → s.arg 0 < 8 → ((s.tower (s.arg 0)).st ≠ .online ∨ s.lastOnline (s.arg 0) = true) →
    ∃ t, exec .service s = .next t ∧ Answered t 5 0 ∧ t.towers = s.towers) ∧
  (∀ s : State, mailboxFree s → s.arg 0 < 8 → (s.tower (s.arg 0)).st = .online → s.lastOnline (s.arg 0) = false →
    s.fw.applying ≠ none → ∃ t, exec .service s = .next t ∧ Answered t 1 0 ∧ t.towers = s.towers) ∧
  (∀ s : State, mailboxFree s → s.arg 0 < 8 → (s.tower (s.arg 0)).st = .service →
    ∃ t, exec .resume s = .next t ∧ Answered t 0 0 ∧ (t.tower (s.arg 0)).st = .online ∧
      ∀ k, k ≠ s.arg 0 → t.tower k = s.tower k) ∧
  (∀ (s : State) l tid k f, mailboxFree s → s.mem.wf = true → s.launch (s.arg 0 % 65536) = some l → l.live = true →
    l.gen = s.arg 0 / 2 ^ 16 % 2 ^ 16 →
    s.tasks.find? (fun e => e.2.lno == s.arg 0 % 65536 && e.2.named.isNone && e.2.t == s.arg 1) = some (tid, k) →
    k.st ≠ .running → k.started = true → k.frame = some f → bufferReady s (0x80000 + 4096 * k.vcount) →
    ∃ t, exec .tdump s = .next t ∧ Answered t 0 (0x80000 + 4096 * k.vcount) ∧
      ∀ i, i < 0x80000 + 4096 * k.vcount → t.mem.read (s.bmrsp + i) = s.mem.read (f + i)) ∧
  (∀ s : State, mailboxFree s → s.arg 0 < 512 →
    (∃ t, exec .dbgset s = .next t ∧ Answered t 0 0 ∧
      ∀ h, t.hart h = if h / 4 = s.arg 0 ∧ s.arg 1 / 2 ^ (h % 4) % 2 = 1 then { s.hart h with dbg := decide (s.arg 1 / 16 % 2 = 1) }
        else s.hart h) ∧
    (∃ t, exec .dbggo s = .next t ∧ Answered t 0 0 ∧
      ∀ h, (h / 4 = s.arg 0 ∧ s.arg 1 / 2 ^ (h % 4) % 2 = 1 → (t.hart h).held = none) ∧
        (¬ (h / 4 = s.arg 0 ∧ s.arg 1 / 2 ^ (h % 4) % 2 = 1) → t.hart h = s.hart h)) ∧
    ((s.tower (s.arg 0 / 64)).st = .online → ∃ t, exec .harton s = .next t ∧ Answered t 0 0 ∧
      ∀ h, t.hart h = if h / 4 = s.arg 0 ∧ s.arg 1 / 2 ^ (h % 4) % 2 = 1 then { s.hart h with halted := false } else s.hart h) ∧
    ((s.tower (s.arg 0 / 64)).st ≠ .online → ∃ t, exec .harton s = .next t ∧ Answered t 5 0 ∧ t.harts = s.harts)) ∧
  (∀ s : State, mailboxFree s → ∃ t, exec .netsync s = .next t ∧ Answered t 0 0 ∧ t.peers = [] ∧ t.endpoints = []) ∧
  (∀ (s : State) code, mailboxFree s → commandAssigned (code % 256) = false →
    ∃ t, exec (.badcmd code) s = .next t ∧ Answered t 2 0 ∧ t.mem = s.mem ∧ t.harts = s.harts)

/-! ### The host -/

namespace Sys2Proof.Machine

/-- The commands of the mailbox by code (R416). -/
def mailboxCodes : List (Nat × Instr) :=
  [(0x01, .summary), (0x02, .logread), (0x03, .regr), (0x04, .regw), (0x05, .service), (0x06, .resume), (0x07, .tdump), (0x08, .dbgset),
   (0x09, .dbggo), (0x0A, .harton), (0x10, .fwstage), (0x11, .fwapply), (0x20, .netsync), (0x21, .commsync)]

end Sys2Proof.Machine

/-- R377, R416, R424. A write of BAR0: a misaligned one changes nothing, BMCMD runs the command that its low byte names unless one is in progress, BMARG and BMRSP
take the value, LQTAIL is a doorbell; a doorbell takes the tail, and one too far ahead turns its queue off with a record. -/
def Obligations.HostRegisters : Prop :=
  (∀ (s : State) off v, off % 8 ≠ 0 → exec (.registerWrite off v) s = .next s) ∧
  (∀ (s : State) v, s.bmst < 16 → ∀ c ∈ mailboxCodes, v.toNat % 256 = c.1 → exec (.registerWrite 0x800 v) s = exec c.2 s) ∧
  (∀ (s : State) v, s.bmst < 16 → (∀ c ∈ mailboxCodes, v.toNat % 256 ≠ c.1) →
    exec (.registerWrite 0x800 v) s = exec (.badcmd (v.toNat % 256)) s) ∧
  (∀ (s : State) v, 16 ≤ s.bmst → exec (.registerWrite 0x800 v) s = .next s) ∧
  (∀ (s : State) n v, n < 4 → ∃ t, exec (.registerWrite (0x808 + 8 * n) v) s = .next t ∧ t.arg n = v.toNat ∧
    { t with bmarg := s.bmarg } = s ∧ ∀ k, k ≠ n → t.arg k = s.arg k) ∧
  (∀ (s : State) v, exec (.registerWrite 0x828 v) s = .next { s with bmrsp := v.toNat }) ∧
  (∀ (s : State) q v, q < 16 → exec (.registerWrite (0x10018 + 0x40 * q) v) s = exec (.doorbell q v) s) ∧
  (∀ (s : State) q (v : BitVec 64), q < 16 → (v.toNat % 2 ^ 32 + 2 ^ 32 - (s.queue q).head) % 2 ^ 32 ≤ 2 ^ (s.queue q).logn →
    ∃ t, exec (.doorbell q v) s = .next t ∧ t.queue q = { s.queue q with tail := v.toNat % 2 ^ 32 } ∧
      ∀ k, k ≠ q → t.queue k = s.queue k) ∧
  (∀ (s : State) q (v : BitVec 64), q < 16 → 2 ^ (s.queue q).logn < (v.toNat % 2 ^ 32 + 2 ^ 32 - (s.queue q).head) % 2 ^ 32 →
    ∃ t, exec (.doorbell q v) s = .next t ∧ (t.queue q).en = false ∧ t.nextLog = s.nextLog + 1)

namespace Sys2Proof.Machine

/-- The entry e that queue q has at its head is of a kind and reserves nothing (R378). -/
def headIs (s : State) (q kind e : Nat) : Prop := s.headEntry q = some e ∧ e / 2 ^ 240 % 16 = kind ∧ e / 2 ^ 244 % 2 ^ 268 = 0

/-- The head entry e of queue q has been answered with an ADMIT word (R378, R379): the queue is past it, and the word stands in the
entry's completion block where it names one. -/
def EntryAnswered (s t : State) (q e w : Nat) : Prop :=
  (t.queue q).head = ((s.queue q).head + 1) % 2 ^ 32 ∧ (t.queue q).tail = (s.queue q).tail ∧
  (s.mem.wf = true → e / 2 ^ 128 % 2 ^ 64 ≠ 0 → s.backed (e / 2 ^ 128 % 2 ^ 64) = true → s.backed (e / 2 ^ 128 % 2 ^ 64 + 7) = true →
    Holds t (e / 2 ^ 128 % 2 ^ 64) 8 w)

end Sys2Proof.Machine

/-- R375, R377 to R379, R382, R383. Each kind of queue entry is answered by its ADMIT word and the queue moves on: LAUNCH admits a record
that keeps R360, or FULL; GDEF and GEDIT put a descriptor that keeps R382 into a graph slot; GRUN starts an instance; GFREE empties a
slot; KILL ends every task of its launch and frees its counters; an entry of no kind, or with a reserved bit, is BADREC. That GDEF forgets the
ends of the graph before it, and GEDIT keeps them, is the model's reading (log 112). -/
def Obligations.HostQueueEntries : Prop :=
  ∀ (s : State) q e,
    let g := e / 2 ^ 192 % 2 ^ 16
    let rva := e / 2 ^ 64 % 2 ^ 64
    let pa := e % 2 ^ 64
    (∀ r, headIs s q 1 e → s.recordAt pa = some r → recordBad r true = false → (recPasen r = true → s.pasidEnabled = true) →
      (s.admitFull r = false → ∃ (t : State) (lno : Nat) (l : Launch), exec (.launch q) s = .next t ∧ EntryAnswered s t q e (l.gen * 2 ^ 16 + lno) ∧
        s.isLive lno = false ∧ t.launch lno = some l ∧ l.live = true ∧ l.record = r ∧ l.rva = rva ∧ l.prio = q / 4 ∧ l.queue = q ∧
        l.total = recTotal r ∧ l.ended = 0) ∧
      (s.admitFull r = true → ∃ t, exec (.launch q) s = .next t ∧ EntryAnswered s t q e (2 ^ 60) ∧ t.launches = s.launches)) ∧
    (∀ ns, headIs s q 2 e → g < 256 → (s.graph g).nodes = [] → s.descriptor pa = some ns →
      ∃ t, exec (.gdef q) s = .next t ∧ EntryAnswered s t q e g ∧ t.graph g = { s.graph g with nodes := ns, ends := [] }) ∧
    (∀ ns, headIs s q 3 e → g < 256 → (s.graph g).nodes ≠ [] → (s.graph g).runs = [] → s.descriptor pa = some ns →
      ∃ t, exec (.gedit q) s = .next t ∧ EntryAnswered s t q e g ∧ t.graph g = { s.graph g with nodes := ns }) ∧
    (headIs s q 4 e → g < 256 → (s.graph g).nodes ≠ [] → (s.graph g).runs.length < 4 →
      ∃ t, exec (.grun q) s = .next t ∧ EntryAnswered s t q e (2 ^ 32 + (s.graph g).gen * 2 ^ 16 + g) ∧
        (t.graph g).runs.length = (s.graph g).runs.length + 1) ∧
    (headIs s q 5 e → (s.graph g).nodes ≠ [] → (s.graph g).runs = [] →
      ∃ t, exec (.gfree q) s = .next t ∧ EntryAnswered s t q e g ∧ t.graph g = { s.graph g with nodes := [] }) ∧
    (∀ l, headIs s q 6 e → s.launch g = some l → l.live = true → l.gen = e / 2 ^ 208 % 2 ^ 16 →
      ∃ t, exec (.kill q) s = .next t ∧ EntryAnswered s t q e (l.gen * 2 ^ 16 + g) ∧
        (t.launch g).map (·.killed) = some true ∧ (∀ tid k, t.taskOf tid = some k → k.lno ≠ g) ∧
        ∀ c ∈ t.clusters, ∀ k ∈ c.2.counters, k.2.lno ≠ g) ∧
    (s.headEntry q = some e → (e / 2 ^ 240 % 16 = 0 ∨ 6 < e / 2 ^ 240 % 16 ∨ e / 2 ^ 244 % 2 ^ 268 ≠ 0) →
      ∃ t, exec (.badrecEntry q) s = .next t ∧ EntryAnswered s t q e (5 * 2 ^ 60) ∧ t.launches = s.launches)

/-- R349 to R351, R412, R422, R423. Host accesses to HBM are performed at the home once the decoder is programmed; a snoop is answered with
the line and takes what the host writes; an invalidation leaves no cached translation of its page. The oldest page request goes out in
the lowest free slot under its next generation; Success lets every waiting task go on, Invalid Request ends it, and Response Failure
also stops requests; a response to a free slot is logged. -/
def Obligations.HostMemory : Prop :=
  (∀ (s : State) o len data, s.fw.recovery = false → s.hdmBase % 2 ^ 28 = 0 → s.hdmSize = s.hbmSize → s.mem.wf = true →
    (o + data.length ≤ s.hbmSize → ∃ t, exec (.hostMemAccess true o len data) s = .next t ∧
      (∀ k b, data[k]? = some b → t.mem.read (o + k) = b) ∧ SameMemBut s t o data.length) ∧
    (o + len ≤ s.hbmSize → ∃ t, exec (.hostMemAccess false o len data) s = .next t ∧ t.mem = s.mem ∧
      t.outbox = s.outbox ++ [{ kind := .memReply, data := if s.poisoned o len then [1] else [0, s.mem.readN o len] }])) ∧
  (∀ (s : State) line data, s.fw.recovery = false → data.length = 64 → 64 * line + 64 ≤ 2 ^ 47 → s.mem.wf = true →
    ∃ t, exec (.hostSnoop line data) s = .next t ∧ (∀ k b, data[k]? = some b → t.mem.read (2 ^ 47 + 64 * line + k) = b) ∧
      SameMemBut s t (2 ^ 47 + 64 * line) 64 ∧
      t.outbox = s.outbox ++ [{ kind := .snoopReply, data := [line, s.mem.readN (2 ^ 47 + 64 * line) 64] }]) ∧
  (∀ (s : State) page, ∃ t, exec (.atsInvalidate page) s = .next t ∧ page ∉ t.mmu.ats ∧ (∀ p, p ≠ page → (p ∈ t.mmu.ats ↔ p ∈ s.mmu.ats)) ∧
    t.outbox = s.outbox ++ [{ kind := .atsComplete, data := [page] }] ∧ t.mem = s.mem) ∧
  (∀ (s : State) r rest k, s.pageWait = r :: rest → k < 512 → k < s.prgSlots → (s.slot k).taken = false →
    (∀ j, j < k → (s.slot j).taken = true) → s.prgEnabled = true →
    ∃ t, exec .pageRequest s = .next t ∧ t.pageWait = rest ∧ t.slot k = { gen := ((s.slot k).gen + 1) % 256, dead := false, req := some r } ∧
      (∀ j, j ≠ k → t.slot j = s.slot j) ∧ ∃ d, t.outbox = s.outbox ++ [{ kind := .pageRequest, data := k :: r.page * 65536 :: d }]) ∧
  (∀ (s : State) k r, Tbl.sortedFrom 0 s.slots = true → (s.slot k).dead = false → (s.slot k).req = some r →
    (s.pageMissing r = false → ∃ t, exec (.prgSuccess k) s = .next t ∧ (t.slot k).req = none ∧
      ∀ tid va w, (.task tid, va) ∈ r.waiters → s.taskOf tid = some w → w.st = .pagewait →
        (t.taskOf tid).map (fun w => (w.st, w.since)) = some (.ready, s.time)) ∧
    (∃ t, exec (.prgInvalidRequest k) s = .next t ∧ ∀ tid va, (.task tid, va) ∈ r.waiters → t.taskOf tid = none) ∧
    (∃ t, exec (.prgResponseFailure k) s = .next t ∧ t.prgEnabled = false ∧
      ∀ tid va, (.task tid, va) ∈ r.waiters → t.taskOf tid = none)) ∧
  (∀ (s : State) k, (s.slot k).dead = false → (s.slot k).req = none →
    ∃ t, exec (.prgSuccess k) s = .next t ∧ t.nextLog = s.nextLog + 1 ∧ t.slots = s.slots ∧ t.tasks = s.tasks)

namespace Sys2Proof.Machine

/-- An SPDM request is refused: an error leaves, and nothing else happens. -/
def spdmRefused (i : Instr) (s : State) : Prop := ∃ d, exec i s = .next (s.send .spdm d)

/-- An SPDM request is answered: one response leaves, the connection is then in state p but for its transcript, and nothing else
changes. -/
def spdmAnswered (i : Instr) (s : State) (p : Spdm) : Prop :=
  ∃ t d, exec i s = .next t ∧ t.outbox = s.outbox ++ [{ kind := .spdm, data := d }] ∧ { t.spdm with transcript := p.transcript } = p ∧
    { t with spdm := s.spdm, outbox := s.outbox } = s

end Sys2Proof.Machine

/-- R432 to R435. The order of SPDM requests, which nothing but an error answers where no image has been accepted: a version before
capabilities, capabilities before algorithms, of which SHA-384, secp384r1 and AES-256-GCM must be offered, algorithms before digests,
certificates, challenges, measurements and key exchange; a session opens with FINISH after KEY_EXCHANGE alone and ends with END_SESSION;
and KEYSET installs a port's key inside a session alone, the newest first. The positions of the algorithms' bits and GET_VERSION's new start are
those of the DMTF standard (log 15, presumed); that no request is answered where no image has been accepted is the model's reading (log 113). -/
def Obligations.SpdmRequests : Prop :=
  ∀ s : State,
    let p := s.spdm
    (if s.fw.identity.isSome then
        spdmAnswered .getVersion s { version := true, caps := false, algs := false, pendingKey := false, session := false, transcript := [] }
      else spdmRefused .getVersion s) ∧
    (∀ f, if p.version then spdmAnswered (.getCapabilities f) s { p with caps := true } else spdmRefused (.getCapabilities f) s) ∧
    (∀ f, if p.caps = true ∧ f / 2 % 2 = 1 ∧ f / 2 ^ 36 % 2 = 1 ∧ f / 2 ^ 49 % 2 = 1 then
        spdmAnswered (.negotiateAlgorithms f) s { p with algs := true }
      else spdmRefused (.negotiateAlgorithms f) s) ∧
    (if p.algs = true ∧ s.fw.identity.isSome = true then spdmAnswered .getDigests s p else spdmRefused .getDigests s) ∧
    (∀ k o n, if p.algs = true ∧ s.fw.identity.isSome = true ∧ k ≤ 1 then spdmAnswered (.getCertificate k o n) s p else spdmRefused (.getCertificate k o n) s) ∧
    (∀ k n, if p.algs = true ∧ s.fw.identity.isSome = true ∧ k ≤ 1 then spdmAnswered (.challenge k n) s p else spdmRefused (.challenge k n) s) ∧
    (∀ k j n, if p.algs = true ∧ s.fw.identity.isSome = true ∧ k ≤ 1 ∧ ((1 ≤ j ∧ j ≤ 11) ∨ j = 0xFF) then spdmAnswered (.getMeasurements k j n) s p
      else spdmRefused (.getMeasurements k j n) s) ∧
    (∀ k x, p.algs = true → s.fw.identity.isSome = true → k ≤ 1 → spdmAnswered (.keyExchange k x) s { p with pendingKey := true }) ∧
    (∀ m, p.pendingKey = false → spdmRefused (.finish m) s) ∧
    (∀ m, p.pendingKey = true → ∃ t, exec (.finish m) s = .next t ∧ t.spdm.pendingKey = false ∧ (p.session = true → t.spdm.session = true)) ∧
    (if p.session then spdmAnswered .endSession s { p with session := false } else spdmRefused .endSession s) ∧
    (∀ port an sak ssci salt, (p.session = false ∨ 7 < port ∨ 3 < an → spdmRefused (.keyset port an sak ssci salt) s) ∧
      (p.session = true → port ≤ 7 → an ≤ 3 → ∃ (t : State) (ks : List MacKey), exec (.keyset port an sak ssci salt) s = .next t ∧
        (t.ethPort port).keys =
          { an := an, sak := sak % 2 ^ 256, ssci := ssci % 2 ^ 32, salt := salt % 2 ^ 96, pn := 0, rxpn := 0 } :: ks ∧
        (∀ k ∈ ks, k.an ≠ an ∧ k ∈ (s.ethPort port).keys) ∧ ∀ n, n ≠ port → t.ethPort n = s.ethPort n))

/-! ### Health -/

/-- R229, R401 to R408, R411 to R415. A reading of a tower's sensor is kept, and one at TRIP shelters its tower unpowered at once; a shelter
whose tasks are saved, or whose 5 ms are over, whatever still runs, ends unpowered; after the dwell below the exit limit a tower whose test passes is ONLINE, one
whose test fails OFFLINE. Parity errors whose replays fail map their layer out or take their tower OFFLINE; an uncorrected memory line is
poisoned and an uncorrected L1 line dropped; the scrub changes no byte; and a trace sample, one for each 2^SPER cycles of its
cluster, stands in the next slot of the ring, or is counted lost. -/
def Obligations.HealthEvents : Prop :=
  (∀ (s : State) sensor tw n temp, towerSensor sensor = some (tw, n) →
    ∃ t, exec (.sensorReading sensor temp) s = .next t ∧ Tbl.get 0 (t.tower tw).temps n = temp ∧
      (n < 272 → 4 * (s.thcfg / 2 ^ 56 % 256) ≤ temp → (s.tower tw).powered = true →
        (s.tower tw).st = .online ∨ (s.tower tw).st = .service ∨ (s.tower tw).st = .shelter →
        (t.tower tw).st = .shelter ∧ (t.tower tw).powered = false ∧ (t.tower tw).step = 6)) ∧
  (∀ (s : State) tw, (s.tower tw).st = .shelter → (s.tower tw).step ≠ 6 →
    (s.runningIn tw = [] → ∃ t, exec (.shelterPowerOff tw) s = .next t ∧ (t.tower tw).st = .shelter ∧ (t.tower tw).step = 6 ∧
      (t.tower tw).powered = false) ∧
    ((s.tower tw).since + 5 * 10 ^ 6 ≤ s.time → ∃ t, exec (.shelterBoundExpiry tw) s = .next t ∧ exec (.shelterPowerOff tw) s = .next t ∧
      (t.tower tw).st = .shelter ∧ (t.tower tw).step = 6 ∧ (t.tower tw).powered = false)) ∧
  (∀ (s : State) tw since, (s.tower tw).st = .shelter → (s.tower tw).step = 6 → (s.tower tw).coolSince = some since →
    since + s.thcfg / 2 ^ 8 % 2 ^ 16 * 10 ^ 6 ≤ s.time →
    (∃ t, exec (.shelterReturn tw true) s = .next t ∧ (t.tower tw).st = .online ∧ (t.tower tw).powered = true ∧
      (t.tower tw).step = 0) ∧
    (∃ t, exec (.shelterReturn tw false) s = .next t ∧ (t.tower tw).st = .offline)) ∧
  (∀ (s : State) c l, l < 4 → ∃ t, exec (.parityError (.anvil c l) true) s = .next t ∧ (t.core c).outLayers / 2 ^ l % 2 = 1) ∧
  (∀ (s : State) c, (s.tower (c / 64)).st = .online →
    ∃ t, exec (.parityError (.front c) true) s = .next t ∧ (t.tower (c / 64)).st = .offline) ∧
  (∀ (s : State) unit, ∃ t, exec (.parityError unit false) s = .next t ∧ t.mem = s.mem ∧ t.harts = s.harts ∧ t.towers = s.towers ∧
    (t.nextLog = s.nextLog + 1 ∨ t.ceCount = s.ceCount + 1)) ∧
  (∀ (s : State) line, s.backed (line * 256) = true →
    ∃ t, exec (.eccError (.hbmLine line) false) s = .next t ∧ Tbl.get false t.poison line = true ∧ t.mem = s.mem ∧
      t.nextLog = s.nextLog + 1) ∧
  (∀ (s : State) c line, ∃ t, exec (.eccError (.scalarL1 c line) false) s = .next t ∧ (∀ l ∈ t.l1 c, l.line ≠ line) ∧ t.mem = s.mem) ∧
  (∀ (s : State) h tid, (s.hart h).task = some tid → ∃ t, exec (.eccError (.scaleFile h) false) s = .next t ∧ t.taskOf tid = none) ∧
  (∀ (s : State) line, s.mem.wf = true → ∃ t, exec (.patrolScrub line) s = .next t ∧ t = s) ∧
  (∀ (s : State) h tid, (s.hart h).task = some tid → s.ctcfg / 2 ^ 63 % 2 = 1 → s.ctcfg % 2 ^ 16 = 0 → s.mem.wf = true →
    let n := 2 ^ (s.ctcfg / 2 ^ 57 % 2 ^ 5)
    let period := 2 ^ (s.ctcfg / 2 ^ 52 % 2 ^ 5)
    let cyc := (s.cluster (h / 32)).cyc
    let pa := s.ctcfg / 2 ^ 16 % 2 ^ 32 * 65536 + 32 * (s.ctNext % n)
    (cyc / period ≤ (s.hart h).sampleCyc / period → exec (.contrailSample h) s = .next s) ∧
    ((s.hart h).sampleCyc / period < cyc / period → s.backedRange pa 32 = true → s.ctcfg / 2 ^ 62 % 2 = 0 ∨ s.ctNext < n →
      ∃ t, exec (.contrailSample h) s = .next t ∧ Holds t pa 32 (s.sample h) ∧ SameMemBut s t pa 32 ∧
        t.ctWritten = min (2 ^ 32 - 1) (s.ctWritten + 1) ∧ t.ctNext = s.ctNext + 1 ∧ (t.hart h).sampleCyc = cyc) ∧
    ((s.hart h).sampleCyc / period < cyc / period → s.ctcfg / 2 ^ 62 % 2 = 1 → n ≤ s.ctNext →
      ∃ t, exec (.contrailSample h) s = .next t ∧ t.mem = s.mem ∧ t.ctLost = min (2 ^ 32 - 1) (s.ctLost + 1)))

/-! ### Links and transport -/

/-- R437 to R444, R451, R452, R454. An intact flit on an enabled port is taken in link order alone; a link that fails is down, its replay buffer
lost and its bit out of every route. A frame without its check is dropped, and link-layer retry asks for it again; retry takes frames in
sequence, keeps what the far end has not taken, and sends it again; on a MACsec port a frame under no installed key, replayed, or whose
check fails is counted and dropped, whatever it carries; what passes is handed up, a message as it would come in by itself, and a
pause holds its traffic class. The engine sends the next packet of the request that is its turn; a packet is placed once, where its
endpoint resolves, and one that was trimmed is reported and nothing else; a SACK takes what it shows out of flight; a packet not acknowledged for
twice the smoothed round trip, at least 10 µs, is sent again; and a second of silence fails every request to a peer of which one is as old. The
model's choices: the types 0 and 4 have no link sequence (log 94) and the types 5 to 15 in order advance it (log 65); how retry tells the far
end (log 124); how the round trip is smoothed (log 121). -/
def Obligations.Transport : Prop :=
  (∀ (s : State) port flit, s.linked port = true → flit.length = 256 →
    let n := flitSeq (ofBytes (flit.take 16))
    let type := ofBytes (flit.take 16) / 2 ^ 96 % 16
    let crc := ofBytes (flit.drop 248) = Config.crc64 (flit.take 248) % 2 ^ 64
    ∃ t, exec (.benlarFlit port flit) s = .next t ∧ t.mem = s.mem ∧ (crc ∨ t = s) ∧ (t.benlarPort port).rxSeq =
      if crc ∧ type ≠ 0 ∧ type ≠ 4 ∧ n = ((s.benlarPort port).rxSeq + 1) % 2 ^ 32 then n else (s.benlarPort port).rxSeq) ∧
  (∀ (s : State) port flit, s.linked port = false → exec (.benlarFlit port flit) s = .next s) ∧
  (∀ (s : State) port, (s.linked port = true ↔ s.blcfg / 2 ^ port % 2 = 1 ∧ (s.benlarPort port).up = true)) ∧
  (∀ (s : State) port, ∃ t, exec (.benlarLinkLoss port) s = .next t ∧ (t.benlarPort port).up = false ∧ (t.benlarPort port).replay = [] ∧
    (t.benlarPort port).parts = [] ∧ (∀ d, Tbl.get 0 t.routes d / 2 ^ port % 2 = 0) ∧ ∀ p, p ≠ port → t.benlarPort p = s.benlarPort p) ∧
  (∀ (s : State) port retry key pn frame msg,
    let e := s.ethPort port
    let llr := s.netllr / 2 ^ 63 % 2 = 1
    let run := exec (.ethernetFrame port key pn frame { retry := retry, msg := msg }) s
    let tell (t : State) (n : Nat) (again : Bool) : State := t.send .llr [port, if again then 1 else 0, n]
    (Config.checkOk frame = false → run = .next (if llr then tell s (e.llrRx + 1) true else s)) ∧
    (Config.checkOk frame = true → llr →
      (∀ q, retry = .frame q → q ≤ e.llrRx → run = .next (tell s e.llrRx false)) ∧
      (∀ q, retry = .frame q → e.llrRx + 1 < q → run = .next (tell s (e.llrRx + 1) true)) ∧
      (∀ n, retry = .taken n → run = .next (s.setEth port { e with llrKept := e.llrKept.filter (fun f => decide (n < f.1)) })) ∧
      (∀ n, retry = .again n → 0 < n → ∃ t : State, run = .next t ∧
        t.outbox = s.outbox ++ (e.llrKept.filter (fun f => decide (n ≤ f.1))).map (fun f => f.2.2) ∧ t.mem = s.mem) ∧
      (retry = .frame (e.llrRx + 1) →
        run = exec (.ethernetFrame port key pn frame { retry := .off, msg := msg }) (tell (s.setEth port { e with llrRx := e.llrRx + 1 }) (e.llrRx + 1) false))) ∧
    (Config.checkOk frame = true → retry = .off ∨ ¬ llr ∧ (∃ q, retry = .frame q) →
      let dropped := s.setEth port { e with dropped := e.dropped + 1 }
      (s.macsecOn port = false → run = s.handUp port msg) ∧
      (s.macsecOn port = true → (∀ k ∈ e.keys, k.an = key → pn ≤ k.rxpn) → run = .next dropped) ∧
      ∀ k, s.macsecOn port = true → e.keys.find? (fun k => k.an == key) = some k → k.rxpn < pn →
        run = if (Config.macsecOpen k.sak frame).isNone then .next dropped
          else (s.setEth port { e with keys := e.keys.map (fun x => if x.an = key then { x with rxpn := pn } else x) }).handUp port msg)) ∧
  (∀ (s : State) port,
    (∀ pkt, s.hears pkt.peer = true → exec (.transportPacket pkt) s = s.handUp port (.packet pkt)) ∧
    (∀ peer rod base bitmap nak, s.hears (s.peerOf peer) = true →
      exec (.sack peer rod base bitmap nak) s = s.handUp port (.sack peer rod base bitmap nak)) ∧
    (∀ comm peer lane chunk, s.hears peer = true →
      (∀ line data, exec (.chunkLine comm peer lane chunk line data) s = s.handUp port (.line comm peer lane chunk line data)) ∧
      exec (.credit comm peer lane chunk) s = s.handUp port (.credit comm peer lane chunk) ∧
      ∀ tag off fmt half scale data, exec (.rstrArrive comm peer lane chunk tag off fmt half scale data) s =
        s.handUp port (.reduce comm peer lane chunk tag off fmt half scale data)) ∧
    s.handUp port .nothing = .next s ∧
    (∀ c q, ∃ t, s.handUp port (.pause [(c, q)]) = .next t ∧ t.mem = s.mem ∧
      Tbl.get 0 (t.ethPort port).paused (c % 4) = s.time + (q % 65536 * 8 + 24) / 25) ∧
    (∀ (r : Route) w c, s.openWay r = some w → w.1 ≠ 1 → r.vc < 4 → Tbl.find (s.ethPort w.2.1).paused r.vc = some c → c ≤ s.time)) ∧
  (∀ s : State, s.nextWork = none → exec .packetSend s = .next s) ∧
  (∀ (s : State) r, s.nextWork = some r → s.findWork r.lno r.seq = some r →
    (∀ v, wrKind r.w = 2 →
      s.sendPacket (wrRod r.w) (wrPeer r.w) r.peerE (wrSpray r.w) (wrTc r.w) (.request r.lno r.seq r.sent) r.num
        (.read (peerRep r.peerE) (wrRoff r.w) (wrLen r.w) (r.off r.sent) (r.size r.sent)) = some v →
      ∃ t, exec .packetSend s = .next t ∧ t.findWork r.lno r.seq = some { r with sent := r.sent + 1 } ∧ t.outbox = v.outbox) ∧
    (∀ ps u, wrKind r.w ≠ 2 → (resolve r.req .load (wrLaddr r.w + r.off r.sent) (r.size r.sent)).run s = .ok (.ok ps) u →
      (u.piecesPoisoned ps = true → ∃ t, exec .packetSend s = .next t ∧ t.findWork r.lno r.seq = none) ∧
      ∀ v, u.piecesPoisoned ps = false →
        u.sendPacket (wrRod r.w) (wrPeer r.w) r.peerE (wrSpray r.w) (wrTc r.w) (.request r.lno r.seq r.sent) r.num
          (.write (peerRep r.peerE) (wrRoff r.w) (wrLen r.w) (r.off r.sent) (wrRctr r.w) (toBytes (r.size r.sent) (u.readPieces ps))) =
          some v →
        ∃ t, exec .packetSend s = .next t ∧ t.findWork r.lno r.seq = some { r with sent := r.sent + 1 } ∧ t.outbox = v.outbox ∧
          t.mem = v.mem)) ∧
  (∀ (s : State) pkt, s.hears pkt.peer = false → exec (.transportPacket pkt) s = .next s) ∧
  (∀ (s : State) pkt, pkt.psn < (s.delivery pkt.rod pkt.peer).rxBase →
    ∃ t, exec (.transportPacket pkt) s = .next t ∧ SentMem s s t ∧ t.work = s.work ∧ t.launches = s.launches) ∧
  (∀ (s : State) pkt, pkt.body = .trimmed → ∃ t, exec (.transportPacket pkt) s = .next t ∧ SentMem s s t ∧ t.work = s.work ∧
    t.launches = s.launches) ∧
  (∀ (s : State) pkt rep roff len off rctr data lno base e ps u, pkt.body = .write rep roff len off rctr data →
    let s' := s.setDelivery pkt.rod pkt.peer ((s.delivery pkt.rod pkt.peer).skipTo pkt.low)
    let d := s'.delivery pkt.rod pkt.peer
    d.rxBase ≤ pkt.psn → pkt.psn < d.rxBase + 256 → (pkt.rod = true → pkt.psn = d.rxBase) → Tbl.find d.rxSeen pkt.psn = none →
    s'.endpointFor pkt rep roff len = (.ok (lno, base), e) →
    (resolve (e.launchReq lno 0) .store ((base + roff + off) % 2 ^ 64) data.length).run e = .ok (.ok ps) u →
    ∃ t, s.takePacket pkt = .next t ∧ (s.hears pkt.peer = true → exec (.transportPacket pkt) s = .next t) ∧
      SentMem s (u.writePieces none ps (ofBytes data)) t ∧
      (pkt.psn < (t.delivery pkt.rod pkt.peer).rxBase ∨ (Tbl.find (t.delivery pkt.rod pkt.peer).rxSeen pkt.psn).isSome = true)) ∧
  (∀ (s : State) peer rod base bitmap, s.hears (s.peerOf peer) = true → ∃ t, exec (.sack peer rod base bitmap none) s = .next t ∧
    ∀ f ∈ (t.delivery rod peer).inFlight, sackShows base bitmap f.psn = false) ∧
  (∀ (s : State) peer rod psn f u, s.inFlightAt rod peer psn = some f →
    s.emit f.route ((s.delivery rod peer).again f.msg) = some u →
    (f.nak = false → f.sentAt + max 10000 (2 * (s.delivery rod peer).srtt) ≤ s.time →
      ∃ t, exec (.retransmissionTimeout peer rod psn) s = .next t ∧ t.outbox = u.outbox ∧
        ∀ x ∈ (t.delivery rod peer).inFlight, x.psn = psn → x.sentAt = s.time) ∧
    (f.nak = true → f.sentAt + 100000 ≤ s.time →
      ∃ t, exec (.nakRetransmit peer rod psn) s = .next t ∧ t.outbox = u.outbox ∧
        ∀ x ∈ (t.delivery rod peer).inFlight, x.psn = psn → x.sentAt = s.time)) ∧
  (∀ (s : State) peer, peer < 4096 → (∃ r ∈ s.work, wrPeer r.w = peer ∧ r.posted + 10 ^ 9 ≤ s.time) → s.peerSilent peer = true →
    ∃ t, exec (.peerTimeout peer) s = .next t ∧ (∀ r ∈ t.work, wrPeer r.w ≠ peer) ∧
      (t.delivery false peer).inFlight = [] ∧ (t.delivery true peer).inFlight = [])
end

