-- ==== Sys2Proof/Laws/Encoding.lean ====
section
/-! SUPPORT. The fields of a word of each format (R71), and what the decoder makes of a word of each major. -/

namespace Sys2Proof.Laws

open Sys2Proof Sys2Proof.Machine

theorem b2n_lt (k : Bool) : b2n k < 2 := by cases k <;> decide

/-- A word of format R is a 32-bit word. -/
theorem wordR_lt {m f d a b : Nat} (k : Bool) (hm : m < 64) (hf : f < 16) (hb : b < 128) (ha : a < 128) (hd : d < 128) :
    wordR m f k d a b < 2 ^ 32 := by
  have := b2n_lt k; simp only [wordR]; omega

/-- The fields of a word of format R. -/
theorem wordR_fields {m f d a b : Nat} (k : Bool) (hm : m < 64) (hf : f < 16) (hb : b < 128) (ha : a < 128) (hd : d < 128) :
    wordR m f k d a b % 64 = m ∧ wordR m f k d a b / 64 % 16 = f ∧ wordR m f k d a b / 2 ^ 10 % 128 = b ∧
    wordR m f k d a b / 2 ^ 17 % 128 = a ∧ wordR m f k d a b / 2 ^ 24 % 128 = d ∧ (wordR m f k d a b / 2 ^ 31 % 2 == 1) = k := by
  have h := b2n_lt k
  have hk : wordR m f k d a b / 2 ^ 31 % 2 = b2n k := by simp only [wordR]; omega
  refine ⟨?_, ?_, ?_, ?_, ?_, ?_⟩
  iterate 5 (simp only [wordR]; omega)
  rw [hk]; cases k <;> rfl

/-- Formats I, B and S are format R with the eleven low bits split. -/
theorem wordI_eq (m i d a : Nat) (k : Bool) : wordI m k d a i = wordR m (i % 16) k d a (i / 16) := by
  simp only [wordI, wordR]; omega

/-- The fields of a word of format I. -/
theorem wordI_fields {m i d a : Nat} (k : Bool) (hm : m < 64) (hi : i < 2048) (ha : a < 128) (hd : d < 128) :
    wordI m k d a i % 64 = m ∧ wordI m k d a i / 64 % 2048 = i ∧ wordI m k d a i / 2 ^ 17 % 128 = a ∧
    wordI m k d a i / 2 ^ 24 % 128 = d ∧ (wordI m k d a i / 2 ^ 31 % 2 == 1) = k := by
  have h := b2n_lt k
  have hk : wordI m k d a i / 2 ^ 31 % 2 = b2n k := by simp only [wordI]; omega
  refine ⟨?_, ?_, ?_, ?_, ?_⟩
  iterate 4 (simp only [wordI]; omega)
  rw [hk]; cases k <;> rfl

/-- The fields of a word of format L. -/
theorem wordL_fields {m i d : Nat} (k : Bool) (hm : m < 64) (hi : i < 2 ^ 18) (hd : d < 128) :
    wordL m k d i < 2 ^ 32 ∧ wordL m k d i % 64 = m ∧ wordL m k d i / 64 % 2 ^ 18 = i ∧ wordL m k d i / 2 ^ 24 % 128 = d ∧
    (wordL m k d i / 2 ^ 31 % 2 == 1) = k := by
  have h := b2n_lt k
  have hk : wordL m k d i / 2 ^ 31 % 2 = b2n k := by simp only [wordL]; omega
  refine ⟨?_, ?_, ?_, ?_, ?_⟩
  iterate 4 (simp only [wordL]; omega)
  rw [hk]; cases k <;> rfl

/-- The fields of a word of format J. -/
theorem wordJ_fields {m i : Nat} (k : Bool) (hm : m < 64) (hi : i < 2 ^ 25) :
    wordJ m k i < 2 ^ 32 ∧ wordJ m k i % 64 = m ∧ wordJ m k i / 64 % 2 ^ 25 = i ∧ (wordJ m k i / 2 ^ 31 % 2 == 1) = k := by
  have h := b2n_lt k
  have hk : wordJ m k i / 2 ^ 31 % 2 = b2n k := by simp only [wordJ]; omega
  refine ⟨?_, ?_, ?_, ?_⟩
  iterate 3 (simp only [wordJ]; omega)
  rw [hk]; cases k <;> rfl

theorem decode_20 {n f b a d : Nat} {k : Bool} (hm : n % 64 = 0x20) (hf : n / 64 % 16 = f) (hb : n / 2 ^ 10 % 128 = b) (ha : n / 2 ^ 17 % 128 = a) (hd : n / 2 ^ 24 % 128 = d) (hk : (n / 2 ^ 31 % 2 == 1) = k) :
    decodeNat n = dec20 k d a b (f / 2) (f % 2 == 1) := by
  subst hf hb ha hd hk
  simp only [decodeNat, decodeQueue, hm]

theorem decode_21 {n f b a d : Nat} {k : Bool} (hm : n % 64 = 0x21) (hf : n / 64 % 16 = f) (hb : n / 2 ^ 10 % 128 = b) (ha : n / 2 ^ 17 % 128 = a) (hd : n / 2 ^ 24 % 128 = d) (hk : (n / 2 ^ 31 % 2 == 1) = k) :
    decodeNat n = dec21 k d a b (f / 2) (f % 2 == 1) := by
  subst hf hb ha hd hk
  simp only [decodeNat, decodeQueue, hm]

theorem decode_22 {n f b a d : Nat} {k : Bool} (hm : n % 64 = 0x22) (hf : n / 64 % 16 = f) (hb : n / 2 ^ 10 % 128 = b) (ha : n / 2 ^ 17 % 128 = a) (hd : n / 2 ^ 24 % 128 = d) (hk : (n / 2 ^ 31 % 2 == 1) = k) :
    decodeNat n = dec22 k d a b (f / 2) (f % 2 == 1) := by
  subst hf hb ha hd hk
  simp only [decodeNat, decodeQueue, hm]

theorem decode_23 {n f b a d : Nat} {k : Bool} (hm : n % 64 = 0x23) (hf : n / 64 % 16 = f) (hb : n / 2 ^ 10 % 128 = b) (ha : n / 2 ^ 17 % 128 = a) (hd : n / 2 ^ 24 % 128 = d) (hk : (n / 2 ^ 31 % 2 == 1) = k) :
    decodeNat n = dec23 k d a b (f / 2) (f % 2 == 1) := by
  subst hf hb ha hd hk
  simp only [decodeNat, decodeQueue, hm]

theorem decode_24 {n f b a d : Nat} {k : Bool} (hm : n % 64 = 0x24) (hf : n / 64 % 16 = f) (hb : n / 2 ^ 10 % 128 = b) (ha : n / 2 ^ 17 % 128 = a) (hd : n / 2 ^ 24 % 128 = d) (hk : (n / 2 ^ 31 % 2 == 1) = k) :
    decodeNat n = dec24 k d a b (f / 2) (f % 2 == 1) := by
  subst hf hb ha hd hk
  simp only [decodeNat, decodeQueue, hm]

theorem decode_25 {n f b a d : Nat} {k : Bool} (hm : n % 64 = 0x25) (hf : n / 64 % 16 = f) (hb : n / 2 ^ 10 % 128 = b) (ha : n / 2 ^ 17 % 128 = a) (hd : n / 2 ^ 24 % 128 = d) (hk : (n / 2 ^ 31 % 2 == 1) = k) :
    decodeNat n = dec25 k d a b (f / 2) (f % 2 == 1) := by
  subst hf hb ha hd hk
  simp only [decodeNat, decodeQueue, hm]

theorem decode_26 {n f b a d : Nat} {k : Bool} (hm : n % 64 = 0x26) (hf : n / 64 % 16 = f) (hb : n / 2 ^ 10 % 128 = b) (ha : n / 2 ^ 17 % 128 = a) (hd : n / 2 ^ 24 % 128 = d) (hk : (n / 2 ^ 31 % 2 == 1) = k) :
    decodeNat n = dec26 k d a b (f / 2) (f % 2 == 1) := by
  subst hf hb ha hd hk
  simp only [decodeNat, decodeQueue, hm]

theorem decode_27 {n f b a d : Nat} {k : Bool} (hm : n % 64 = 0x27) (hf : n / 64 % 16 = f) (hb : n / 2 ^ 10 % 128 = b) (ha : n / 2 ^ 17 % 128 = a) (hd : n / 2 ^ 24 % 128 = d) (hk : (n / 2 ^ 31 % 2 == 1) = k) :
    decodeNat n = dec27 k d a b (f / 2) (f % 2 == 1) := by
  subst hf hb ha hd hk
  simp only [decodeNat, decodeQueue, hm]

theorem decode_28 {n f b a d : Nat} {k : Bool} (hm : n % 64 = 0x28) (hf : n / 64 % 16 = f) (hb : n / 2 ^ 10 % 128 = b) (ha : n / 2 ^ 17 % 128 = a) (hd : n / 2 ^ 24 % 128 = d) (hk : (n / 2 ^ 31 % 2 == 1) = k) :
    decodeNat n = dec28 k d a b (f / 2) (f % 2 == 1) := by
  subst hf hb ha hd hk
  simp only [decodeNat, decodeQueue, hm]

theorem decode_29 {n f b a d : Nat} {k : Bool} (hm : n % 64 = 0x29) (hf : n / 64 % 16 = f) (hb : n / 2 ^ 10 % 128 = b) (ha : n / 2 ^ 17 % 128 = a) (hd : n / 2 ^ 24 % 128 = d) (hk : (n / 2 ^ 31 % 2 == 1) = k) :
    decodeNat n = dec29 k d a b (f / 2) (f % 2 == 1) := by
  subst hf hb ha hd hk
  simp only [decodeNat, decodeQueue, hm]

theorem decode_2A {n f b a d : Nat} {k : Bool} (hm : n % 64 = 0x2A) (hf : n / 64 % 16 = f) (hb : n / 2 ^ 10 % 128 = b) (ha : n / 2 ^ 17 % 128 = a) (hd : n / 2 ^ 24 % 128 = d) (hk : (n / 2 ^ 31 % 2 == 1) = k) :
    decodeNat n = dec2A k d a b (f / 2) (f % 2 == 1) := by
  subst hf hb ha hd hk
  simp only [decodeNat, decodeQueue, hm]

theorem decode_2B {n f b a d : Nat} {k : Bool} (hm : n % 64 = 0x2B) (hf : n / 64 % 16 = f) (hb : n / 2 ^ 10 % 128 = b) (ha : n / 2 ^ 17 % 128 = a) (hd : n / 2 ^ 24 % 128 = d) (hk : (n / 2 ^ 31 % 2 == 1) = k) :
    decodeNat n = dec2B k d a b (f / 2) (f % 2 == 1) := by
  subst hf hb ha hd hk
  simp only [decodeNat, decodeQueue, hm]

theorem decode_2C {n f b a d : Nat} {k : Bool} (hm : n % 64 = 0x2C) (hf : n / 64 % 16 = f) (hb : n / 2 ^ 10 % 128 = b) (ha : n / 2 ^ 17 % 128 = a) (hd : n / 2 ^ 24 % 128 = d) (hk : (n / 2 ^ 31 % 2 == 1) = k) :
    decodeNat n = dec2C k d a b (f / 2) (f % 2 == 1) := by
  subst hf hb ha hd hk
  simp only [decodeNat, decodeQueue, hm]

theorem decode_2D {n f b a d : Nat} {k : Bool} (hm : n % 64 = 0x2D) (hf : n / 64 % 16 = f) (hb : n / 2 ^ 10 % 128 = b) (ha : n / 2 ^ 17 % 128 = a) (hd : n / 2 ^ 24 % 128 = d) (hk : (n / 2 ^ 31 % 2 == 1) = k) :
    decodeNat n = dec2D k d a b (f / 2) (f % 2 == 1) := by
  subst hf hb ha hd hk
  simp only [decodeNat, decodeQueue, hm]

theorem decode_2E {n f b a d : Nat} {k : Bool} (hm : n % 64 = 0x2E) (hf : n / 64 % 16 = f) (hb : n / 2 ^ 10 % 128 = b) (ha : n / 2 ^ 17 % 128 = a) (hd : n / 2 ^ 24 % 128 = d) (hk : (n / 2 ^ 31 % 2 == 1) = k) :
    decodeNat n = dec2E k d a b (f / 2) (f % 2 == 1) := by
  subst hf hb ha hd hk
  simp only [decodeNat, decodeQueue, hm]

theorem decode_30 {n f b a d : Nat} {k : Bool} (hm : n % 64 = 0x30) (hf : n / 64 % 16 = f) (hb : n / 2 ^ 10 % 128 = b) (ha : n / 2 ^ 17 % 128 = a) (hd : n / 2 ^ 24 % 128 = d) (hk : (n / 2 ^ 31 % 2 == 1) = k) :
    decodeNat n = dec30 k d a b (f / 2) (f % 2 == 1) := by
  subst hf hb ha hd hk
  simp only [decodeNat, decodeQueue, hm]

theorem decode_31 {n f b a d : Nat} {k : Bool} (hm : n % 64 = 0x31) (hf : n / 64 % 16 = f) (hb : n / 2 ^ 10 % 128 = b) (ha : n / 2 ^ 17 % 128 = a) (hd : n / 2 ^ 24 % 128 = d) (hk : (n / 2 ^ 31 % 2 == 1) = k) :
    decodeNat n = dec31 k d a b (f / 2) (f % 2 == 1) := by
  subst hf hb ha hd hk
  simp only [decodeNat, decodeQueue, hm]

theorem decode_32 {n f b a d : Nat} {k : Bool} (hm : n % 64 = 0x32) (hf : n / 64 % 16 = f) (hb : n / 2 ^ 10 % 128 = b) (ha : n / 2 ^ 17 % 128 = a) (hd : n / 2 ^ 24 % 128 = d) (hk : (n / 2 ^ 31 % 2 == 1) = k) :
    decodeNat n = dec32 k d a b (f / 2) (f % 2 == 1) := by
  subst hf hb ha hd hk
  simp only [decodeNat, decodeQueue, hm]

theorem decode_33 {n f b a d : Nat} {k : Bool} (hm : n % 64 = 0x33) (hf : n / 64 % 16 = f) (hb : n / 2 ^ 10 % 128 = b) (ha : n / 2 ^ 17 % 128 = a) (hd : n / 2 ^ 24 % 128 = d) (hk : (n / 2 ^ 31 % 2 == 1) = k) :
    decodeNat n = dec33 k d a b (f / 2) (f % 2 == 1) := by
  subst hf hb ha hd hk
  simp only [decodeNat, decodeQueue, hm]

theorem decode_34 {n f b a d : Nat} {k : Bool} (hm : n % 64 = 0x34) (hf : n / 64 % 16 = f) (hb : n / 2 ^ 10 % 128 = b) (ha : n / 2 ^ 17 % 128 = a) (hd : n / 2 ^ 24 % 128 = d) (hk : (n / 2 ^ 31 % 2 == 1) = k) :
    decodeNat n = dec34 k d a b (f / 2) (f % 2 == 1) := by
  subst hf hb ha hd hk
  simp only [decodeNat, decodeQueue, hm]

theorem decode_35 {n f b a d : Nat} {k : Bool} (hm : n % 64 = 0x35) (hf : n / 64 % 16 = f) (hb : n / 2 ^ 10 % 128 = b) (ha : n / 2 ^ 17 % 128 = a) (hd : n / 2 ^ 24 % 128 = d) (hk : (n / 2 ^ 31 % 2 == 1) = k) :
    decodeNat n = dec35 k d a b (f / 2) (f % 2 == 1) := by
  subst hf hb ha hd hk
  simp only [decodeNat, decodeQueue, hm]

theorem decode_38 {n f b a d : Nat} {k : Bool} (hm : n % 64 = 0x38) (hf : n / 64 % 16 = f) (hb : n / 2 ^ 10 % 128 = b) (ha : n / 2 ^ 17 % 128 = a) (hd : n / 2 ^ 24 % 128 = d) (hk : (n / 2 ^ 31 % 2 == 1) = k) :
    decodeNat n = dec38 k d a b (f / 2) (f % 2 == 1) := by
  subst hf hb ha hd hk
  simp only [decodeNat, decodeQueue, hm]

theorem decode_39 {n f b a d : Nat} {k : Bool} (hm : n % 64 = 0x39) (hf : n / 64 % 16 = f) (hb : n / 2 ^ 10 % 128 = b) (ha : n / 2 ^ 17 % 128 = a) (hd : n / 2 ^ 24 % 128 = d) (hk : (n / 2 ^ 31 % 2 == 1) = k) :
    decodeNat n = dec39 k d a b (f / 2) (f % 2 == 1) := by
  subst hf hb ha hd hk
  simp only [decodeNat, decodeQueue, hm]

theorem decode_3A {n f b a d : Nat} {k : Bool} (hm : n % 64 = 0x3A) (hf : n / 64 % 16 = f) (hb : n / 2 ^ 10 % 128 = b) (ha : n / 2 ^ 17 % 128 = a) (hd : n / 2 ^ 24 % 128 = d) (hk : (n / 2 ^ 31 % 2 == 1) = k) :
    decodeNat n = dec3A k d a b (f / 2) (f % 2 == 1) := by
  subst hf hb ha hd hk
  simp only [decodeNat, decodeQueue, hm]

theorem decode_3B {n f b a d : Nat} {k : Bool} (hm : n % 64 = 0x3B) (hf : n / 64 % 16 = f) (hb : n / 2 ^ 10 % 128 = b) (ha : n / 2 ^ 17 % 128 = a) (hd : n / 2 ^ 24 % 128 = d) (hk : (n / 2 ^ 31 % 2 == 1) = k) :
    decodeNat n = dec3B k d a b (f / 2) (f % 2 == 1) := by
  subst hf hb ha hd hk
  simp only [decodeNat, decodeQueue, hm]

theorem decode_3C {n f b a d : Nat} {k : Bool} (hm : n % 64 = 0x3C) (hf : n / 64 % 16 = f) (hb : n / 2 ^ 10 % 128 = b) (ha : n / 2 ^ 17 % 128 = a) (hd : n / 2 ^ 24 % 128 = d) (hk : (n / 2 ^ 31 % 2 == 1) = k) :
    decodeNat n = dec3C k d a b f := by
  subst hf hb ha hd hk
  simp only [decodeNat, decodeQueue, hm]

theorem decode_3D {n f b a d : Nat} {k : Bool} (hm : n % 64 = 0x3D) (hf : n / 64 % 16 = f) (hb : n / 2 ^ 10 % 128 = b) (ha : n / 2 ^ 17 % 128 = a) (hd : n / 2 ^ 24 % 128 = d) (hk : (n / 2 ^ 31 % 2 == 1) = k) :
    decodeNat n = dec3D k d a b f := by
  subst hf hb ha hd hk
  simp only [decodeNat, decodeQueue, hm]

theorem decode_00 {n i a d : Nat} {k : Bool} (hm : n % 64 = 0x00) (hi : n / 64 % 2048 = i) (ha : n / 2 ^ 17 % 128 = a) (hd : n / 2 ^ 24 % 128 = d) (hk : (n / 2 ^ 31 % 2 == 1) = k) :
    decodeNat n = dec00 k d a i := by
  subst hi ha hd hk
  simp only [decodeNat, decodeQueue, hm]

theorem decode_01 {n f b a d : Nat} {k : Bool} (hm : n % 64 = 0x01) (hf : n / 64 % 16 = f) (hb : n / 2 ^ 10 % 128 = b) (ha : n / 2 ^ 17 % 128 = a) (hd : n / 2 ^ 24 % 128 = d) (hk : (n / 2 ^ 31 % 2 == 1) = k) :
    decodeNat n = dec01 k d a b f := by
  subst hf hb ha hd hk
  simp only [decodeNat, decodeQueue, hm]

theorem decode_02 {n f b a d : Nat} {k : Bool} (hm : n % 64 = 0x02) (hf : n / 64 % 16 = f) (hb : n / 2 ^ 10 % 128 = b) (ha : n / 2 ^ 17 % 128 = a) (hd : n / 2 ^ 24 % 128 = d) (hk : (n / 2 ^ 31 % 2 == 1) = k) :
    decodeNat n = dec02 k d a b f := by
  subst hf hb ha hd hk
  simp only [decodeNat, decodeQueue, hm]

theorem decode_03 {n f b a d : Nat} {k : Bool} (hm : n % 64 = 0x03) (hf : n / 64 % 16 = f) (hb : n / 2 ^ 10 % 128 = b) (ha : n / 2 ^ 17 % 128 = a) (hd : n / 2 ^ 24 % 128 = d) (hk : (n / 2 ^ 31 % 2 == 1) = k) :
    decodeNat n = dec03 k d a b f := by
  subst hf hb ha hd hk
  simp only [decodeNat, decodeQueue, hm]

theorem decode_04 {n i a d : Nat} {k : Bool} (hm : n % 64 = 0x04) (hi : n / 64 % 2048 = i) (ha : n / 2 ^ 17 % 128 = a) (hd : n / 2 ^ 24 % 128 = d) (hk : (n / 2 ^ 31 % 2 == 1) = k) :
    decodeNat n = .ok (.addi k (.ofNat 7 d) (.ofNat 7 a) (.ofNat 11 i)) := by
  subst hi ha hd hk
  simp only [decodeNat, decodeQueue, hm]

theorem decode_05 {n i a d : Nat} {k : Bool} (hm : n % 64 = 0x05) (hi : n / 64 % 2048 = i) (ha : n / 2 ^ 17 % 128 = a) (hd : n / 2 ^ 24 % 128 = d) (hk : (n / 2 ^ 31 % 2 == 1) = k) :
    decodeNat n = dec05 k d a i := by
  subst hi ha hd hk
  simp only [decodeNat, decodeQueue, hm]

theorem decode_06 {n i a d : Nat} {k : Bool} (hm : n % 64 = 0x06) (hi : n / 64 % 2048 = i) (ha : n / 2 ^ 17 % 128 = a) (hd : n / 2 ^ 24 % 128 = d) (hk : (n / 2 ^ 31 % 2 == 1) = k) :
    decodeNat n = .ok (.jalr k (.ofNat 7 d) (.ofNat 7 a) (.ofNat 11 i)) := by
  subst hi ha hd hk
  simp only [decodeNat, decodeQueue, hm]

theorem decode_07 {n i d : Nat} {k : Bool} (hm : n % 64 = 0x07) (hi : n / 64 % 2 ^ 18 = i) (hd : n / 2 ^ 24 % 128 = d) (hk : (n / 2 ^ 31 % 2 == 1) = k) :
    decodeNat n = .ok (.lim k (.ofNat 7 d) (.ofNat 18 i)) := by
  subst hi hd hk
  simp only [decodeNat, decodeQueue, hm]

theorem decode_08 {n i d : Nat} {k : Bool} (hm : n % 64 = 0x08) (hi : n / 64 % 2 ^ 18 = i) (hd : n / 2 ^ 24 % 128 = d) (hk : (n / 2 ^ 31 % 2 == 1) = k) :
    decodeNat n = .ok (.apc k (.ofNat 7 d) (.ofNat 18 i)) := by
  subst hi hd hk
  simp only [decodeNat, decodeQueue, hm]

theorem decode_09 {n i a d : Nat} {k : Bool} (hm : n % 64 = 0x09) (hi : n / 64 % 2048 = i) (ha : n / 2 ^ 17 % 128 = a) (hd : n / 2 ^ 24 % 128 = d) (hk : (n / 2 ^ 31 % 2 == 1) = k) :
    decodeNat n = .ok (.beq k (.ofNat 7 d) (.ofNat 7 a) (.ofNat 11 i)) := by
  subst hi ha hd hk
  simp only [decodeNat, decodeQueue, hm]

theorem decode_0A {n i a d : Nat} {k : Bool} (hm : n % 64 = 0x0A) (hi : n / 64 % 2048 = i) (ha : n / 2 ^ 17 % 128 = a) (hd : n / 2 ^ 24 % 128 = d) (hk : (n / 2 ^ 31 % 2 == 1) = k) :
    decodeNat n = .ok (.bne k (.ofNat 7 d) (.ofNat 7 a) (.ofNat 11 i)) := by
  subst hi ha hd hk
  simp only [decodeNat, decodeQueue, hm]

theorem decode_0B {n i a d : Nat} {k : Bool} (hm : n % 64 = 0x0B) (hi : n / 64 % 2048 = i) (ha : n / 2 ^ 17 % 128 = a) (hd : n / 2 ^ 24 % 128 = d) (hk : (n / 2 ^ 31 % 2 == 1) = k) :
    decodeNat n = .ok (.blt k (.ofNat 7 d) (.ofNat 7 a) (.ofNat 11 i)) := by
  subst hi ha hd hk
  simp only [decodeNat, decodeQueue, hm]

theorem decode_0C {n i a d : Nat} {k : Bool} (hm : n % 64 = 0x0C) (hi : n / 64 % 2048 = i) (ha : n / 2 ^ 17 % 128 = a) (hd : n / 2 ^ 24 % 128 = d) (hk : (n / 2 ^ 31 % 2 == 1) = k) :
    decodeNat n = .ok (.bge k (.ofNat 7 d) (.ofNat 7 a) (.ofNat 11 i)) := by
  subst hi ha hd hk
  simp only [decodeNat, decodeQueue, hm]

theorem decode_0D {n i a d : Nat} {k : Bool} (hm : n % 64 = 0x0D) (hi : n / 64 % 2048 = i) (ha : n / 2 ^ 17 % 128 = a) (hd : n / 2 ^ 24 % 128 = d) (hk : (n / 2 ^ 31 % 2 == 1) = k) :
    decodeNat n = .ok (.bltn k (.ofNat 7 d) (.ofNat 7 a) (.ofNat 11 i)) := by
  subst hi ha hd hk
  simp only [decodeNat, decodeQueue, hm]

theorem decode_0E {n i a d : Nat} {k : Bool} (hm : n % 64 = 0x0E) (hi : n / 64 % 2048 = i) (ha : n / 2 ^ 17 % 128 = a) (hd : n / 2 ^ 24 % 128 = d) (hk : (n / 2 ^ 31 % 2 == 1) = k) :
    decodeNat n = .ok (.bgen k (.ofNat 7 d) (.ofNat 7 a) (.ofNat 11 i)) := by
  subst hi ha hd hk
  simp only [decodeNat, decodeQueue, hm]

theorem decode_0F {n i : Nat} {k : Bool} (hm : n % 64 = 0x0F) (hi : n / 64 % 2 ^ 25 = i) (hk : (n / 2 ^ 31 % 2 == 1) = k) :
    decodeNat n = .ok (.jal k (.ofNat 25 i)) := by
  subst hi hk
  simp only [decodeNat, decodeQueue, hm]

theorem decode_10 {n i a d : Nat} {k : Bool} (hm : n % 64 = 0x10) (hi : n / 64 % 2048 = i) (ha : n / 2 ^ 17 % 128 = a) (hd : n / 2 ^ 24 % 128 = d) (hk : (n / 2 ^ 31 % 2 == 1) = k) :
    decodeNat n = .ok (.ld64 k (.ofNat 7 d) (.ofNat 7 a) (.ofNat 11 i)) := by
  subst hi ha hd hk
  simp only [decodeNat, decodeQueue, hm]

theorem decode_11 {n i a d : Nat} {k : Bool} (hm : n % 64 = 0x11) (hi : n / 64 % 2048 = i) (ha : n / 2 ^ 17 % 128 = a) (hd : n / 2 ^ 24 % 128 = d) (hk : (n / 2 ^ 31 % 2 == 1) = k) :
    decodeNat n = .ok (.ld32 k (.ofNat 7 d) (.ofNat 7 a) (.ofNat 11 i)) := by
  subst hi ha hd hk
  simp only [decodeNat, decodeQueue, hm]

theorem decode_12 {n i a d : Nat} {k : Bool} (hm : n % 64 = 0x12) (hi : n / 64 % 2048 = i) (ha : n / 2 ^ 17 % 128 = a) (hd : n / 2 ^ 24 % 128 = d) (hk : (n / 2 ^ 31 % 2 == 1) = k) :
    decodeNat n = .ok (.ld32n k (.ofNat 7 d) (.ofNat 7 a) (.ofNat 11 i)) := by
  subst hi ha hd hk
  simp only [decodeNat, decodeQueue, hm]

theorem decode_13 {n i a d : Nat} {k : Bool} (hm : n % 64 = 0x13) (hi : n / 64 % 2048 = i) (ha : n / 2 ^ 17 % 128 = a) (hd : n / 2 ^ 24 % 128 = d) (hk : (n / 2 ^ 31 % 2 == 1) = k) :
    decodeNat n = .ok (.ld16 k (.ofNat 7 d) (.ofNat 7 a) (.ofNat 11 i)) := by
  subst hi ha hd hk
  simp only [decodeNat, decodeQueue, hm]

theorem decode_14 {n i a d : Nat} {k : Bool} (hm : n % 64 = 0x14) (hi : n / 64 % 2048 = i) (ha : n / 2 ^ 17 % 128 = a) (hd : n / 2 ^ 24 % 128 = d) (hk : (n / 2 ^ 31 % 2 == 1) = k) :
    decodeNat n = .ok (.ld16n k (.ofNat 7 d) (.ofNat 7 a) (.ofNat 11 i)) := by
  subst hi ha hd hk
  simp only [decodeNat, decodeQueue, hm]

theorem decode_15 {n i a d : Nat} {k : Bool} (hm : n % 64 = 0x15) (hi : n / 64 % 2048 = i) (ha : n / 2 ^ 17 % 128 = a) (hd : n / 2 ^ 24 % 128 = d) (hk : (n / 2 ^ 31 % 2 == 1) = k) :
    decodeNat n = .ok (.ld8 k (.ofNat 7 d) (.ofNat 7 a) (.ofNat 11 i)) := by
  subst hi ha hd hk
  simp only [decodeNat, decodeQueue, hm]

theorem decode_16 {n i a d : Nat} {k : Bool} (hm : n % 64 = 0x16) (hi : n / 64 % 2048 = i) (ha : n / 2 ^ 17 % 128 = a) (hd : n / 2 ^ 24 % 128 = d) (hk : (n / 2 ^ 31 % 2 == 1) = k) :
    decodeNat n = .ok (.ld8n k (.ofNat 7 d) (.ofNat 7 a) (.ofNat 11 i)) := by
  subst hi ha hd hk
  simp only [decodeNat, decodeQueue, hm]

theorem decode_17 {n i a d : Nat} {k : Bool} (hm : n % 64 = 0x17) (hi : n / 64 % 2048 = i) (ha : n / 2 ^ 17 % 128 = a) (hd : n / 2 ^ 24 % 128 = d) (hk : (n / 2 ^ 31 % 2 == 1) = k) :
    decodeNat n = .ok (.st64 k (.ofNat 7 d) (.ofNat 7 a) (.ofNat 11 i)) := by
  subst hi ha hd hk
  simp only [decodeNat, decodeQueue, hm]

theorem decode_18 {n i a d : Nat} {k : Bool} (hm : n % 64 = 0x18) (hi : n / 64 % 2048 = i) (ha : n / 2 ^ 17 % 128 = a) (hd : n / 2 ^ 24 % 128 = d) (hk : (n / 2 ^ 31 % 2 == 1) = k) :
    decodeNat n = .ok (.st32 k (.ofNat 7 d) (.ofNat 7 a) (.ofNat 11 i)) := by
  subst hi ha hd hk
  simp only [decodeNat, decodeQueue, hm]

theorem decode_19 {n i a d : Nat} {k : Bool} (hm : n % 64 = 0x19) (hi : n / 64 % 2048 = i) (ha : n / 2 ^ 17 % 128 = a) (hd : n / 2 ^ 24 % 128 = d) (hk : (n / 2 ^ 31 % 2 == 1) = k) :
    decodeNat n = .ok (.st16 k (.ofNat 7 d) (.ofNat 7 a) (.ofNat 11 i)) := by
  subst hi ha hd hk
  simp only [decodeNat, decodeQueue, hm]

theorem decode_1A {n i a d : Nat} {k : Bool} (hm : n % 64 = 0x1A) (hi : n / 64 % 2048 = i) (ha : n / 2 ^ 17 % 128 = a) (hd : n / 2 ^ 24 % 128 = d) (hk : (n / 2 ^ 31 % 2 == 1) = k) :
    decodeNat n = .ok (.st8 k (.ofNat 7 d) (.ofNat 7 a) (.ofNat 11 i)) := by
  subst hi ha hd hk
  simp only [decodeNat, decodeQueue, hm]

theorem decode_1B {n f b a d : Nat} {k : Bool} (hm : n % 64 = 0x1B) (hf : n / 64 % 16 = f) (hb : n / 2 ^ 10 % 128 = b) (ha : n / 2 ^ 17 % 128 = a) (hd : n / 2 ^ 24 % 128 = d) (hk : (n / 2 ^ 31 % 2 == 1) = k) :
    decodeNat n = dec1B k d a b f := by
  subst hf hb ha hd hk
  simp only [decodeNat, decodeQueue, hm]

theorem decode_1C {n f b a d : Nat} {k : Bool} (hm : n % 64 = 0x1C) (hf : n / 64 % 16 = f) (hb : n / 2 ^ 10 % 128 = b) (ha : n / 2 ^ 17 % 128 = a) (hd : n / 2 ^ 24 % 128 = d) (hk : (n / 2 ^ 31 % 2 == 1) = k) :
    decodeNat n = dec1C k d a b f := by
  subst hf hb ha hd hk
  simp only [decodeNat, decodeQueue, hm]

theorem decode_1D {n i a d : Nat} {k : Bool} (hm : n % 64 = 0x1D) (hi : n / 64 % 2048 = i) (ha : n / 2 ^ 17 % 128 = a) (hd : n / 2 ^ 24 % 128 = d) (hk : (n / 2 ^ 31 % 2 == 1) = k) :
    decodeNat n = dec1D k d a i := by
  subst hi ha hd hk
  simp only [decodeNat, decodeQueue, hm]

theorem decode_1E {n i a d : Nat} {k : Bool} (hm : n % 64 = 0x1E) (hi : n / 64 % 2048 = i) (ha : n / 2 ^ 17 % 128 = a) (hd : n / 2 ^ 24 % 128 = d) (hk : (n / 2 ^ 31 % 2 == 1) = k) :
    decodeNat n = chk [(decide (i < 256), .unassignedSelect), (a == 0, .unusedField), (assignedSelect i, .unassignedSelect)] (.cget k (.ofNat 7 d) (.ofNat 8 i)) := by
  subst hi ha hd hk
  simp only [decodeNat, decodeQueue, hm]

theorem decode_1F {n i a d : Nat} {k : Bool} (hm : n % 64 = 0x1F) (hi : n / 64 % 2048 = i) (ha : n / 2 ^ 17 % 128 = a) (hd : n / 2 ^ 24 % 128 = d) (hk : (n / 2 ^ 31 % 2 == 1) = k) :
    decodeNat n = chk [(decide (i < 256), .unassignedSelect), (d == 0, .unusedField), (assignedSelect i, .unassignedSelect)] (.cset k (.ofNat 7 a) (.ofNat 8 i)) := by
  subst hi ha hd hk
  simp only [decodeNat, decodeQueue, hm]

theorem decode_2F {n f b a d : Nat} {k : Bool} (hm : n % 64 = 0x2F) (hf : n / 64 % 16 = f) (hb : n / 2 ^ 10 % 128 = b) (ha : n / 2 ^ 17 % 128 = a) (hd : n / 2 ^ 24 % 128 = d) (hk : (n / 2 ^ 31 % 2 == 1) = k) :
    decodeNat n = dec2F k d a b (f / 2) (f % 2 == 1) := by
  subst hf hb ha hd hk
  simp only [decodeNat, decodeQueue, hm]

theorem decode_3E {n f b a d : Nat} {k : Bool} (hm : n % 64 = 0x3E) (hf : n / 64 % 16 = f) (hb : n / 2 ^ 10 % 128 = b) (ha : n / 2 ^ 17 % 128 = a) (hd : n / 2 ^ 24 % 128 = d) (hk : (n / 2 ^ 31 % 2 == 1) = k) :
    decodeNat n = dec3E k d a b f := by
  subst hf hb ha hd hk
  simp only [decodeNat, decodeQueue, hm]

end Sys2Proof.Laws
end

