-- ==== Sys2Proof/Laws/Table.lean ====
section
/-! SUPPORT. Laws of tables and of memory: what is read after a write, and that every write keeps memory in its canonical form. -/

namespace Sys2Proof.Machine

open Sys2Proof

/-- What a table holds at a key after one entry is set. -/
theorem Tbl.get_set {α : Type} (d : α) (t : Tbl α) (k j : Nat) (v : α) : Tbl.get d (Tbl.set t k v) j = if k = j then v else Tbl.get d t j := by
  induction t with
  | nil => simp [Tbl.set, Tbl.get]
  | cons e t ih =>
    obtain ⟨i, u⟩ := e
    simp only [Tbl.set]
    split
    · simp [Tbl.get]
    · split
      · subst_vars
        by_cases h : i = j <;> simp [Tbl.get, h]
      · simp only [Tbl.get, ih]
        by_cases h1 : i = j
        · have : ¬ k = j := by omega
          simp [h1, this]
        · simp [h1]

@[simp] theorem Tbl.get_set_self {α : Type} (d : α) (t : Tbl α) (k : Nat) (v : α) : Tbl.get d (Tbl.set t k v) k = v := by
  simp [Tbl.get_set]

theorem Tbl.get_set_ne {α : Type} (d : α) (t : Tbl α) {k j : Nat} (v : α) (h : k ≠ j) :
    Tbl.get d (Tbl.set t k v) j = Tbl.get d t j := by
  simp [Tbl.get_set, h]

/-- The same for a lookup. -/
theorem Tbl.find_set {α : Type} (t : Tbl α) (k j : Nat) (v : α) : Tbl.find (Tbl.set t k v) j = if k = j then some v else Tbl.find t j := by
  induction t with
  | nil => simp [Tbl.set, Tbl.find]
  | cons e t ih =>
    obtain ⟨i, u⟩ := e
    simp only [Tbl.set]
    split
    · simp [Tbl.find]
    · split
      · subst_vars
        by_cases h : i = j <;> simp [Tbl.find, h]
      · simp only [Tbl.find, ih]
        by_cases h1 : i = j
        · have : ¬ k = j := by omega
          simp [h1, this]
        · simp [h1]

@[simp] theorem Tbl.find_set_self {α : Type} (t : Tbl α) (k : Nat) (v : α) : Tbl.find (Tbl.set t k v) k = some v := by
  simp [Tbl.find_set]

/-- A lookup that finds nothing reads the default. -/
theorem Tbl.get_eq_find {α : Type} (d : α) (t : Tbl α) (k : Nat) : Tbl.get d t k = (Tbl.find t k).getD d := by
  induction t with
  | nil => rfl
  | cons e t ih =>
    obtain ⟨i, u⟩ := e
    by_cases h : i = k <;> simp [Tbl.get, Tbl.find, h, ih]

/-- A deleted entry leaves the others. -/
theorem Tbl.get_del_ne {α : Type} (d : α) (t : Tbl α) {k j : Nat} (h : k ≠ j) : Tbl.get d (Tbl.del t k) j = Tbl.get d t j := by
  induction t with
  | nil => rfl
  | cons e t ih =>
    obtain ⟨i, u⟩ := e
    simp only [Tbl.del]
    by_cases h1 : i = k
    · subst h1
      simp [Tbl.get, h, ih]
    · by_cases h2 : i = j
      · subst h2; simp [h1, Tbl.get]
      · simp [h1, Tbl.get, h2, ih]

/-- A deleted entry is gone. -/
theorem Tbl.find_del {α : Type} (t : Tbl α) (k : Nat) : Tbl.find (Tbl.del t k) k = none := by
  induction t with
  | nil => rfl
  | cons e t ih =>
    obtain ⟨i, u⟩ := e
    simp only [Tbl.del]
    by_cases h1 : i = k
    · simp [h1, ih]
    · simp [h1, Tbl.find, ih]

/-- A write to one address leaves what another reads. -/
theorem Memory.read_write_ne (m : Memory) {a b : Nat} (v : Byte) (h : a ≠ b) : (m.write a v).read b = m.read b := by
  induction m with
  | nil =>
    simp only [Memory.write]
    split
    · rfl
    · simp [Memory.read, h]
  | cons e m ih =>
    obtain ⟨i, u⟩ := e
    simp only [Memory.write]
    split
    · split
      · rfl
      · simp [Memory.read, h]
    · split
      · subst_vars
        split
        · simp [Memory.read, h]
        · simp [Memory.read, h]
      · simp only [Memory.read, ih]

/-- Reading below the first address of a canonical memory gives what an unlisted address reads as. -/
theorem Memory.read_below {m : Memory} {lo a : Nat} (h : m.wfFrom lo = true) (ha : a < lo) : m.read a = Memory.blank := by
  induction m generalizing lo with
  | nil => rfl
  | cons e m ih =>
    obtain ⟨i, u⟩ := e
    simp only [Memory.wfFrom, Bool.and_eq_true, decide_eq_true_eq] at h
    have h1 : ¬ i = a := by omega
    simp only [Memory.read, h1, if_false]
    exact ih h.2 (by omega)

/-- What was written is read. -/
theorem Memory.read_write_self {m : Memory} {lo : Nat} (h : m.wfFrom lo = true) (a : Nat) (v : Byte) : (m.write a v).read a = v := by
  induction m generalizing lo with
  | nil =>
    simp only [Memory.write]
    split
    · subst_vars; rfl
    · simp [Memory.read]
  | cons e m ih =>
    obtain ⟨i, u⟩ := e
    have hw := h
    simp only [Memory.wfFrom, Bool.and_eq_true, decide_eq_true_eq] at h
    simp only [Memory.write]
    split
    · split
      · subst_vars
        have h1 : ¬ i = a := by omega
        simp only [Memory.read, h1, if_false]
        exact Memory.read_below h.2 (by omega)
      · simp [Memory.read]
    · split
      · subst_vars
        split
        · subst_vars
          exact Memory.read_below h.2 (by omega)
        · simp [Memory.read]
      · have h1 : ¬ i = a := by omega
        simp only [Memory.read, h1, if_false]
        exact ih h.2

/-- A lower bound may be lowered. -/
theorem Memory.wfFrom_mono {m : Memory} {lo lo' : Nat} (h : m.wfFrom lo = true) (hl : lo' ≤ lo) : m.wfFrom lo' = true := by
  cases m with
  | nil => rfl
  | cons e m =>
    obtain ⟨i, u⟩ := e
    simp only [Memory.wfFrom, Bool.and_eq_true, decide_eq_true_eq] at h ⊢
    exact ⟨⟨by omega, h.1.2⟩, h.2⟩

/-- A write keeps the canonical form. -/
theorem Memory.wfFrom_write {m : Memory} {lo : Nat} (h : m.wfFrom lo = true) {a : Nat} (ha : lo ≤ a) (v : Byte) :
    (m.write a v).wfFrom lo = true := by
  induction m generalizing lo with
  | nil =>
    simp only [Memory.write]
    split
    · rfl
    · simp [Memory.wfFrom, *]
  | cons e m ih =>
    obtain ⟨i, u⟩ := e
    have hw := h
    simp only [Memory.wfFrom, Bool.and_eq_true, decide_eq_true_eq] at h
    simp only [Memory.write]
    split
    · split
      · exact hw
      · simp only [Memory.wfFrom, Bool.and_eq_true, decide_eq_true_eq]
        exact ⟨⟨ha, by assumption⟩, ⟨by omega, h.1.2⟩, h.2⟩
    · split
      · split
        · exact Memory.wfFrom_mono h.2 (by omega)
        · simp only [Memory.wfFrom, Bool.and_eq_true, decide_eq_true_eq]
          exact ⟨⟨ha, by assumption⟩, by subst_vars; exact h.2⟩
      · simp only [Memory.wfFrom, Bool.and_eq_true, decide_eq_true_eq]
        exact ⟨h.1, ih h.2 (by omega)⟩

/-- A write of one byte keeps the canonical form. -/
theorem Memory.wf_write {m : Memory} (h : m.wf = true) (a : Nat) (v : Byte) : (m.write a v).wf = true :=
  Memory.wfFrom_write h (Nat.zero_le a) v

/-- A write of a number keeps the canonical form. -/
theorem Memory.wf_writeN {m : Memory} (h : m.wf = true) (a k n : Nat) : (m.writeN a k n).wf = true := by
  induction k generalizing m a n with
  | zero => exact h
  | succ k ih => exact ih (Memory.wf_write h a _) (a + 1) (n / 256)

/-- A write of a list of bytes keeps the canonical form. -/
theorem Memory.wf_writeBytes {m : Memory} (h : m.wf = true) (a : Nat) (bs : List Byte) : (m.writeBytes a bs).wf = true := by
  induction bs generalizing m a with
  | nil => exact h
  | cons b bs ih => exact ih (Memory.wf_write h a b) (a + 1)

/-- A write of a list of bytes leaves every byte outside them. -/
theorem Memory.read_writeBytes_outside (m : Memory) (a : Nat) (bs : List Byte) {b : Nat} (h : b < a ∨ a + bs.length ≤ b) :
    (m.writeBytes a bs).read b = m.read b := by
  induction bs generalizing m a with
  | nil => rfl
  | cons v bs ih =>
    simp only [List.length_cons] at h
    rw [Memory.writeBytes, ih _ _ (by omega), Memory.read_write_ne m v (by omega)]

/-- A list of bytes written is read back, byte by byte. -/
theorem Memory.read_writeBytes_inside {m : Memory} (hm : m.wf = true) (a : Nat) (bs : List Byte) (k : Nat) (hk : k < bs.length) :
    (m.writeBytes a bs).read (a + k) = bs[k] := by
  induction bs generalizing m a k with
  | nil => simp at hk
  | cons v bs ih =>
    cases k with
    | zero =>
      rw [Memory.writeBytes, Nat.add_zero, Memory.read_writeBytes_outside _ _ _ (by omega)]
      simpa using Memory.read_write_self hm a v
    | succ k =>
      rw [Memory.writeBytes, show a + (k + 1) = (a + 1) + k by omega, ih (Memory.wf_write hm a v) (a + 1) k (by simpa using hk)]
      simp

/-- Bytes outside a range do not matter to a number read inside it. -/
theorem Memory.readN_congr {m n : Memory} {a k : Nat} (h : ∀ b, a ≤ b → b < a + k → m.read b = n.read b) : m.readN a k = n.readN a k := by
  induction k generalizing a with
  | zero => rfl
  | succ k ih =>
    rw [Memory.readN, Memory.readN, h a (by omega) (by omega), ih (fun b h1 h2 => h b (by omega) (by omega))]

/-- The number of k little-endian bytes. -/
theorem toBytes_length (k n : Nat) : (toBytes k n).length = k := by
  induction k generalizing n with
  | zero => rfl
  | succ k ih => simp [toBytes, ih]

/-- Memory with nothing listed is canonical. -/
theorem Memory.wf_nil : Memory.wf [] = true := rfl

end Sys2Proof.Machine
end

