-- ==== Sys2Proof/Laws/State.lean ====
section
/-! SUPPORT. What each field of `State`, and each unit of the machine, is after one unit is replaced. -/

namespace Sys2Proof.Machine

open Sys2Proof

theorem State.updHart_eq (s : State) (h : Nat) (f : Hart → Hart) : s.updHart h f = s.setHart h (f (s.hart h)) := rfl
theorem State.updCtx_eq (s : State) (h : Nat) (f : Ctx → Ctx) : s.updCtx h f = s.setHart h { s.hart h with ctx := f (s.hart h).ctx } := rfl
theorem State.count_eq (s : State) (c n k : Nat) :
    s.count c n k = s.updCore c (fun r => { r with ctr := Tbl.set r.ctr n ((Tbl.get 0 r.ctr n + k) % 2 ^ 64) }) := rfl

@[simp] theorem State.setHart_agenda (s : State) (h : Nat) (v : Hart) : (s.setHart h v).agenda = s.agenda := rfl
@[simp] theorem State.setHart_turn (s : State) (h : Nat) (v : Hart) : (s.setHart h v).turn = s.turn := rfl
@[simp] theorem State.setHart_fresh (s : State) (h : Nat) (v : Hart) : (s.setHart h v).fresh = s.fresh := rfl
@[simp] theorem State.setHart_cores (s : State) (h : Nat) (v : Hart) : (s.setHart h v).cores = s.cores := rfl
@[simp] theorem State.setHart_clusters (s : State) (h : Nat) (v : Hart) : (s.setHart h v).clusters = s.clusters := rfl
@[simp] theorem State.setHart_towers (s : State) (h : Nat) (v : Hart) : (s.setHart h v).towers = s.towers := rfl
@[simp] theorem State.setHart_mem (s : State) (h : Nat) (v : Hart) : (s.setHart h v).mem = s.mem := rfl
@[simp] theorem State.setHart_poison (s : State) (h : Nat) (v : Hart) : (s.setHart h v).poison = s.poison := rfl
@[simp] theorem State.setHart_tiles (s : State) (h : Nat) (v : Hart) : (s.setHart h v).tiles = s.tiles := rfl
@[simp] theorem State.setHart_mmu (s : State) (h : Nat) (v : Hart) : (s.setHart h v).mmu = s.mmu := rfl
@[simp] theorem State.setHart_depoch (s : State) (h : Nat) (v : Hart) : (s.setHart h v).depoch = s.depoch := rfl
@[simp] theorem State.setHart_launches (s : State) (h : Nat) (v : Hart) : (s.setHart h v).launches = s.launches := rfl
@[simp] theorem State.setHart_gens (s : State) (h : Nat) (v : Hart) : (s.setHart h v).gens = s.gens := rfl
@[simp] theorem State.setHart_tasks (s : State) (h : Nat) (v : Hart) : (s.setHart h v).tasks = s.tasks := rfl
@[simp] theorem State.setHart_nextTask (s : State) (h : Nat) (v : Hart) : (s.setHart h v).nextTask = s.nextTask := rfl
@[simp] theorem State.setHart_time (s : State) (h : Nat) (v : Hart) : (s.setHart h v).time = s.time := rfl
@[simp] theorem State.setHart_schcfg (s : State) (h : Nat) (v : Hart) : (s.setHart h v).schcfg = s.schcfg := rfl
@[simp] theorem State.setHart_thcfg (s : State) (h : Nat) (v : Hart) : (s.setHart h v).thcfg = s.thcfg := rfl
@[simp] theorem State.setHart_ctcfg (s : State) (h : Nat) (v : Hart) : (s.setHart h v).ctcfg = s.ctcfg := rfl
@[simp] theorem State.setHart_ctWritten (s : State) (h : Nat) (v : Hart) : (s.setHart h v).ctWritten = s.ctWritten := rfl
@[simp] theorem State.setHart_ctLost (s : State) (h : Nat) (v : Hart) : (s.setHart h v).ctLost = s.ctLost := rfl
@[simp] theorem State.setHart_ctNext (s : State) (h : Nat) (v : Hart) : (s.setHart h v).ctNext = s.ctNext := rfl
@[simp] theorem State.setHart_fpool (s : State) (h : Nat) (v : Hart) : (s.setHart h v).fpool = s.fpool := rfl
@[simp] theorem State.setHart_pzh (s : State) (h : Nat) (v : Hart) : (s.setHart h v).pzh = s.pzh := rfl
@[simp] theorem State.setHart_queues (s : State) (h : Nat) (v : Hart) : (s.setHart h v).queues = s.queues := rfl
@[simp] theorem State.setHart_served (s : State) (h : Nat) (v : Hart) : (s.setHart h v).served = s.served := rfl
@[simp] theorem State.setHart_graphs (s : State) (h : Nat) (v : Hart) : (s.setHart h v).graphs = s.graphs := rfl
@[simp] theorem State.setHart_slots (s : State) (h : Nat) (v : Hart) : (s.setHart h v).slots = s.slots := rfl
@[simp] theorem State.setHart_pageWait (s : State) (h : Nat) (v : Hart) : (s.setHart h v).pageWait = s.pageWait := rfl
@[simp] theorem State.setHart_prgEnabled (s : State) (h : Nat) (v : Hart) : (s.setHart h v).prgEnabled = s.prgEnabled := rfl
@[simp] theorem State.setHart_prgSlots (s : State) (h : Nat) (v : Hart) : (s.setHart h v).prgSlots = s.prgSlots := rfl
@[simp] theorem State.setHart_pasidEnabled (s : State) (h : Nat) (v : Hart) : (s.setHart h v).pasidEnabled = s.pasidEnabled := rfl
@[simp] theorem State.setHart_gathers (s : State) (h : Nat) (v : Hart) : (s.setHart h v).gathers = s.gathers := rfl
@[simp] theorem State.setHart_nextIdent (s : State) (h : Nat) (v : Hart) : (s.setHart h v).nextIdent = s.nextIdent := rfl
@[simp] theorem State.setHart_sounding (s : State) (h : Nat) (v : Hart) : (s.setHart h v).sounding = s.sounding := rfl
@[simp] theorem State.setHart_log (s : State) (h : Nat) (v : Hart) : (s.setHart h v).log = s.log := rfl
@[simp] theorem State.setHart_flashLog (s : State) (h : Nat) (v : Hart) : (s.setHart h v).flashLog = s.flashLog := rfl
@[simp] theorem State.setHart_nextLog (s : State) (h : Nat) (v : Hart) : (s.setHart h v).nextLog = s.nextLog := rfl
@[simp] theorem State.setHart_ceCount (s : State) (h : Nat) (v : Hart) : (s.setHart h v).ceCount = s.ceCount := rfl
@[simp] theorem State.setHart_ceUnits (s : State) (h : Nat) (v : Hart) : (s.setHart h v).ceUnits = s.ceUnits := rfl
@[simp] theorem State.setHart_ceSecond (s : State) (h : Nat) (v : Hart) : (s.setHart h v).ceSecond = s.ceSecond := rfl
@[simp] theorem State.setHart_pkghot (s : State) (h : Nat) (v : Hart) : (s.setHart h v).pkghot = s.pkghot := rfl
@[simp] theorem State.setHart_layerFlash (s : State) (h : Nat) (v : Hart) : (s.setHart h v).layerFlash = s.layerFlash := rfl
@[simp] theorem State.setHart_bmarg (s : State) (h : Nat) (v : Hart) : (s.setHart h v).bmarg = s.bmarg := rfl
@[simp] theorem State.setHart_bmrsp (s : State) (h : Nat) (v : Hart) : (s.setHart h v).bmrsp = s.bmrsp := rfl
@[simp] theorem State.setHart_bmst (s : State) (h : Nat) (v : Hart) : (s.setHart h v).bmst = s.bmst := rfl
@[simp] theorem State.setHart_bmlen (s : State) (h : Nat) (v : Hart) : (s.setHart h v).bmlen = s.bmlen := rfl
@[simp] theorem State.setHart_bmheld (s : State) (h : Nat) (v : Hart) : (s.setHart h v).bmheld = s.bmheld := rfl
@[simp] theorem State.setHart_fw (s : State) (h : Nat) (v : Hart) : (s.setHart h v).fw = s.fw := rfl
@[simp] theorem State.setHart_spdm (s : State) (h : Nat) (v : Hart) : (s.setHart h v).spdm = s.spdm := rfl
@[simp] theorem State.setHart_msix (s : State) (h : Nat) (v : Hart) : (s.setHart h v).msix = s.msix := rfl
@[simp] theorem State.setHart_pba (s : State) (h : Nat) (v : Hart) : (s.setHart h v).pba = s.pba := rfl
@[simp] theorem State.setHart_hdmBase (s : State) (h : Nat) (v : Hart) : (s.setHart h v).hdmBase = s.hdmBase := rfl
@[simp] theorem State.setHart_hdmSize (s : State) (h : Nat) (v : Hart) : (s.setHart h v).hdmSize = s.hdmSize := rfl
@[simp] theorem State.setHart_netcfg (s : State) (h : Nat) (v : Hart) : (s.setHart h v).netcfg = s.netcfg := rfl
@[simp] theorem State.setHart_netllr (s : State) (h : Nat) (v : Hart) : (s.setHart h v).netllr = s.netllr := rfl
@[simp] theorem State.setHart_blcfg (s : State) (h : Nat) (v : Hart) : (s.setHart h v).blcfg = s.blcfg := rfl
@[simp] theorem State.setHart_routes (s : State) (h : Nat) (v : Hart) : (s.setHart h v).routes = s.routes := rfl
@[simp] theorem State.setHart_peers (s : State) (h : Nat) (v : Hart) : (s.setHart h v).peers = s.peers := rfl
@[simp] theorem State.setHart_endpoints (s : State) (h : Nat) (v : Hart) : (s.setHart h v).endpoints = s.endpoints := rfl
@[simp] theorem State.setHart_work (s : State) (h : Nat) (v : Hart) : (s.setHart h v).work = s.work := rfl
@[simp] theorem State.setHart_netTurn (s : State) (h : Nat) (v : Hart) : (s.setHart h v).netTurn = s.netTurn := rfl
@[simp] theorem State.setHart_rud (s : State) (h : Nat) (v : Hart) : (s.setHart h v).rud = s.rud := rfl
@[simp] theorem State.setHart_rod (s : State) (h : Nat) (v : Hart) : (s.setHart h v).rod = s.rod := rfl
@[simp] theorem State.setHart_benlar (s : State) (h : Nat) (v : Hart) : (s.setHart h v).benlar = s.benlar := rfl
@[simp] theorem State.setHart_eth (s : State) (h : Nat) (v : Hart) : (s.setHart h v).eth = s.eth := rfl
@[simp] theorem State.setHart_commcfg (s : State) (h : Nat) (v : Hart) : (s.setHart h v).commcfg = s.commcfg := rfl
@[simp] theorem State.setHart_jscfg (s : State) (h : Nat) (v : Hart) : (s.setHart h v).jscfg = s.jscfg := rfl
@[simp] theorem State.setHart_comms (s : State) (h : Nat) (v : Hart) : (s.setHart h v).comms = s.comms := rfl
@[simp] theorem State.setHart_jets (s : State) (h : Nat) (v : Hart) : (s.setHart h v).jets = s.jets := rfl
@[simp] theorem State.setHart_jgraphs (s : State) (h : Nat) (v : Hart) : (s.setHart h v).jgraphs = s.jgraphs := rfl
@[simp] theorem State.setHart_engines (s : State) (h : Nat) (v : Hart) : (s.setHart h v).engines = s.engines := rfl
@[simp] theorem State.setHart_jetTurn (s : State) (h : Nat) (v : Hart) : (s.setHart h v).jetTurn = s.jetTurn := rfl
@[simp] theorem State.setHart_nextRun (s : State) (h : Nat) (v : Hart) : (s.setHart h v).nextRun = s.nextRun := rfl
@[simp] theorem State.setHart_outbox (s : State) (h : Nat) (v : Hart) : (s.setHart h v).outbox = s.outbox := rfl
@[simp] theorem State.setHart_at_core (s : State) (h : Nat) (v : Hart) (d : Nat) : (s.setHart h v).core d = s.core d := rfl
@[simp] theorem State.setHart_at_cluster (s : State) (h : Nat) (v : Hart) (d : Nat) : (s.setHart h v).cluster d = s.cluster d := rfl
@[simp] theorem State.setHart_at_tower (s : State) (h : Nat) (v : Hart) (d : Nat) : (s.setHart h v).tower d = s.tower d := rfl
@[simp] theorem State.setHart_at_tile (s : State) (h : Nat) (v : Hart) (d : Nat) : (s.setHart h v).tile d = s.tile d := rfl
@[simp] theorem State.setHart_at_launch (s : State) (h : Nat) (v : Hart) (m : Nat) : (s.setHart h v).launch m = s.launch m := rfl
@[simp] theorem State.setHart_at_taskOf (s : State) (h : Nat) (v : Hart) (m : Nat) : (s.setHart h v).taskOf m = s.taskOf m := rfl

@[simp] theorem State.updCore_agenda (s : State) (c : Nat) (f : Core → Core) : (s.updCore c f).agenda = s.agenda := rfl
@[simp] theorem State.updCore_turn (s : State) (c : Nat) (f : Core → Core) : (s.updCore c f).turn = s.turn := rfl
@[simp] theorem State.updCore_fresh (s : State) (c : Nat) (f : Core → Core) : (s.updCore c f).fresh = s.fresh := rfl
@[simp] theorem State.updCore_harts (s : State) (c : Nat) (f : Core → Core) : (s.updCore c f).harts = s.harts := rfl
@[simp] theorem State.updCore_clusters (s : State) (c : Nat) (f : Core → Core) : (s.updCore c f).clusters = s.clusters := rfl
@[simp] theorem State.updCore_towers (s : State) (c : Nat) (f : Core → Core) : (s.updCore c f).towers = s.towers := rfl
@[simp] theorem State.updCore_mem (s : State) (c : Nat) (f : Core → Core) : (s.updCore c f).mem = s.mem := rfl
@[simp] theorem State.updCore_poison (s : State) (c : Nat) (f : Core → Core) : (s.updCore c f).poison = s.poison := rfl
@[simp] theorem State.updCore_tiles (s : State) (c : Nat) (f : Core → Core) : (s.updCore c f).tiles = s.tiles := rfl
@[simp] theorem State.updCore_mmu (s : State) (c : Nat) (f : Core → Core) : (s.updCore c f).mmu = s.mmu := rfl
@[simp] theorem State.updCore_depoch (s : State) (c : Nat) (f : Core → Core) : (s.updCore c f).depoch = s.depoch := rfl
@[simp] theorem State.updCore_launches (s : State) (c : Nat) (f : Core → Core) : (s.updCore c f).launches = s.launches := rfl
@[simp] theorem State.updCore_gens (s : State) (c : Nat) (f : Core → Core) : (s.updCore c f).gens = s.gens := rfl
@[simp] theorem State.updCore_tasks (s : State) (c : Nat) (f : Core → Core) : (s.updCore c f).tasks = s.tasks := rfl
@[simp] theorem State.updCore_nextTask (s : State) (c : Nat) (f : Core → Core) : (s.updCore c f).nextTask = s.nextTask := rfl
@[simp] theorem State.updCore_time (s : State) (c : Nat) (f : Core → Core) : (s.updCore c f).time = s.time := rfl
@[simp] theorem State.updCore_schcfg (s : State) (c : Nat) (f : Core → Core) : (s.updCore c f).schcfg = s.schcfg := rfl
@[simp] theorem State.updCore_thcfg (s : State) (c : Nat) (f : Core → Core) : (s.updCore c f).thcfg = s.thcfg := rfl
@[simp] theorem State.updCore_ctcfg (s : State) (c : Nat) (f : Core → Core) : (s.updCore c f).ctcfg = s.ctcfg := rfl
@[simp] theorem State.updCore_ctWritten (s : State) (c : Nat) (f : Core → Core) : (s.updCore c f).ctWritten = s.ctWritten := rfl
@[simp] theorem State.updCore_ctLost (s : State) (c : Nat) (f : Core → Core) : (s.updCore c f).ctLost = s.ctLost := rfl
@[simp] theorem State.updCore_ctNext (s : State) (c : Nat) (f : Core → Core) : (s.updCore c f).ctNext = s.ctNext := rfl
@[simp] theorem State.updCore_fpool (s : State) (c : Nat) (f : Core → Core) : (s.updCore c f).fpool = s.fpool := rfl
@[simp] theorem State.updCore_pzh (s : State) (c : Nat) (f : Core → Core) : (s.updCore c f).pzh = s.pzh := rfl
@[simp] theorem State.updCore_queues (s : State) (c : Nat) (f : Core → Core) : (s.updCore c f).queues = s.queues := rfl
@[simp] theorem State.updCore_served (s : State) (c : Nat) (f : Core → Core) : (s.updCore c f).served = s.served := rfl
@[simp] theorem State.updCore_graphs (s : State) (c : Nat) (f : Core → Core) : (s.updCore c f).graphs = s.graphs := rfl
@[simp] theorem State.updCore_slots (s : State) (c : Nat) (f : Core → Core) : (s.updCore c f).slots = s.slots := rfl
@[simp] theorem State.updCore_pageWait (s : State) (c : Nat) (f : Core → Core) : (s.updCore c f).pageWait = s.pageWait := rfl
@[simp] theorem State.updCore_prgEnabled (s : State) (c : Nat) (f : Core → Core) : (s.updCore c f).prgEnabled = s.prgEnabled := rfl
@[simp] theorem State.updCore_prgSlots (s : State) (c : Nat) (f : Core → Core) : (s.updCore c f).prgSlots = s.prgSlots := rfl
@[simp] theorem State.updCore_pasidEnabled (s : State) (c : Nat) (f : Core → Core) : (s.updCore c f).pasidEnabled = s.pasidEnabled := rfl
@[simp] theorem State.updCore_gathers (s : State) (c : Nat) (f : Core → Core) : (s.updCore c f).gathers = s.gathers := rfl
@[simp] theorem State.updCore_nextIdent (s : State) (c : Nat) (f : Core → Core) : (s.updCore c f).nextIdent = s.nextIdent := rfl
@[simp] theorem State.updCore_sounding (s : State) (c : Nat) (f : Core → Core) : (s.updCore c f).sounding = s.sounding := rfl
@[simp] theorem State.updCore_log (s : State) (c : Nat) (f : Core → Core) : (s.updCore c f).log = s.log := rfl
@[simp] theorem State.updCore_flashLog (s : State) (c : Nat) (f : Core → Core) : (s.updCore c f).flashLog = s.flashLog := rfl
@[simp] theorem State.updCore_nextLog (s : State) (c : Nat) (f : Core → Core) : (s.updCore c f).nextLog = s.nextLog := rfl
@[simp] theorem State.updCore_ceCount (s : State) (c : Nat) (f : Core → Core) : (s.updCore c f).ceCount = s.ceCount := rfl
@[simp] theorem State.updCore_ceUnits (s : State) (c : Nat) (f : Core → Core) : (s.updCore c f).ceUnits = s.ceUnits := rfl
@[simp] theorem State.updCore_ceSecond (s : State) (c : Nat) (f : Core → Core) : (s.updCore c f).ceSecond = s.ceSecond := rfl
@[simp] theorem State.updCore_pkghot (s : State) (c : Nat) (f : Core → Core) : (s.updCore c f).pkghot = s.pkghot := rfl
@[simp] theorem State.updCore_layerFlash (s : State) (c : Nat) (f : Core → Core) : (s.updCore c f).layerFlash = s.layerFlash := rfl
@[simp] theorem State.updCore_bmarg (s : State) (c : Nat) (f : Core → Core) : (s.updCore c f).bmarg = s.bmarg := rfl
@[simp] theorem State.updCore_bmrsp (s : State) (c : Nat) (f : Core → Core) : (s.updCore c f).bmrsp = s.bmrsp := rfl
@[simp] theorem State.updCore_bmst (s : State) (c : Nat) (f : Core → Core) : (s.updCore c f).bmst = s.bmst := rfl
@[simp] theorem State.updCore_bmlen (s : State) (c : Nat) (f : Core → Core) : (s.updCore c f).bmlen = s.bmlen := rfl
@[simp] theorem State.updCore_bmheld (s : State) (c : Nat) (f : Core → Core) : (s.updCore c f).bmheld = s.bmheld := rfl
@[simp] theorem State.updCore_fw (s : State) (c : Nat) (f : Core → Core) : (s.updCore c f).fw = s.fw := rfl
@[simp] theorem State.updCore_spdm (s : State) (c : Nat) (f : Core → Core) : (s.updCore c f).spdm = s.spdm := rfl
@[simp] theorem State.updCore_msix (s : State) (c : Nat) (f : Core → Core) : (s.updCore c f).msix = s.msix := rfl
@[simp] theorem State.updCore_pba (s : State) (c : Nat) (f : Core → Core) : (s.updCore c f).pba = s.pba := rfl
@[simp] theorem State.updCore_hdmBase (s : State) (c : Nat) (f : Core → Core) : (s.updCore c f).hdmBase = s.hdmBase := rfl
@[simp] theorem State.updCore_hdmSize (s : State) (c : Nat) (f : Core → Core) : (s.updCore c f).hdmSize = s.hdmSize := rfl
@[simp] theorem State.updCore_netcfg (s : State) (c : Nat) (f : Core → Core) : (s.updCore c f).netcfg = s.netcfg := rfl
@[simp] theorem State.updCore_netllr (s : State) (c : Nat) (f : Core → Core) : (s.updCore c f).netllr = s.netllr := rfl
@[simp] theorem State.updCore_blcfg (s : State) (c : Nat) (f : Core → Core) : (s.updCore c f).blcfg = s.blcfg := rfl
@[simp] theorem State.updCore_routes (s : State) (c : Nat) (f : Core → Core) : (s.updCore c f).routes = s.routes := rfl
@[simp] theorem State.updCore_peers (s : State) (c : Nat) (f : Core → Core) : (s.updCore c f).peers = s.peers := rfl
@[simp] theorem State.updCore_endpoints (s : State) (c : Nat) (f : Core → Core) : (s.updCore c f).endpoints = s.endpoints := rfl
@[simp] theorem State.updCore_work (s : State) (c : Nat) (f : Core → Core) : (s.updCore c f).work = s.work := rfl
@[simp] theorem State.updCore_netTurn (s : State) (c : Nat) (f : Core → Core) : (s.updCore c f).netTurn = s.netTurn := rfl
@[simp] theorem State.updCore_rud (s : State) (c : Nat) (f : Core → Core) : (s.updCore c f).rud = s.rud := rfl
@[simp] theorem State.updCore_rod (s : State) (c : Nat) (f : Core → Core) : (s.updCore c f).rod = s.rod := rfl
@[simp] theorem State.updCore_benlar (s : State) (c : Nat) (f : Core → Core) : (s.updCore c f).benlar = s.benlar := rfl
@[simp] theorem State.updCore_eth (s : State) (c : Nat) (f : Core → Core) : (s.updCore c f).eth = s.eth := rfl
@[simp] theorem State.updCore_commcfg (s : State) (c : Nat) (f : Core → Core) : (s.updCore c f).commcfg = s.commcfg := rfl
@[simp] theorem State.updCore_jscfg (s : State) (c : Nat) (f : Core → Core) : (s.updCore c f).jscfg = s.jscfg := rfl
@[simp] theorem State.updCore_comms (s : State) (c : Nat) (f : Core → Core) : (s.updCore c f).comms = s.comms := rfl
@[simp] theorem State.updCore_jets (s : State) (c : Nat) (f : Core → Core) : (s.updCore c f).jets = s.jets := rfl
@[simp] theorem State.updCore_jgraphs (s : State) (c : Nat) (f : Core → Core) : (s.updCore c f).jgraphs = s.jgraphs := rfl
@[simp] theorem State.updCore_engines (s : State) (c : Nat) (f : Core → Core) : (s.updCore c f).engines = s.engines := rfl
@[simp] theorem State.updCore_jetTurn (s : State) (c : Nat) (f : Core → Core) : (s.updCore c f).jetTurn = s.jetTurn := rfl
@[simp] theorem State.updCore_nextRun (s : State) (c : Nat) (f : Core → Core) : (s.updCore c f).nextRun = s.nextRun := rfl
@[simp] theorem State.updCore_outbox (s : State) (c : Nat) (f : Core → Core) : (s.updCore c f).outbox = s.outbox := rfl
@[simp] theorem State.updCore_at_hart (s : State) (c : Nat) (f : Core → Core) (g : Nat) : (s.updCore c f).hart g = s.hart g := rfl
@[simp] theorem State.updCore_at_ctx (s : State) (c : Nat) (f : Core → Core) (g : Nat) : (s.updCore c f).ctx g = s.ctx g := rfl
@[simp] theorem State.updCore_at_x (s : State) (c : Nat) (f : Core → Core) (g : Nat) (r : BitVec 7) : (s.updCore c f).x g r = s.x g r := rfl
@[simp] theorem State.updCore_at_pc (s : State) (c : Nat) (f : Core → Core) (g : Nat) : (s.updCore c f).pc g = s.pc g := rfl
@[simp] theorem State.updCore_at_cluster (s : State) (c : Nat) (f : Core → Core) (d : Nat) : (s.updCore c f).cluster d = s.cluster d := rfl
@[simp] theorem State.updCore_at_tower (s : State) (c : Nat) (f : Core → Core) (d : Nat) : (s.updCore c f).tower d = s.tower d := rfl
@[simp] theorem State.updCore_at_tile (s : State) (c : Nat) (f : Core → Core) (d : Nat) : (s.updCore c f).tile d = s.tile d := rfl
@[simp] theorem State.updCore_at_launch (s : State) (c : Nat) (f : Core → Core) (m : Nat) : (s.updCore c f).launch m = s.launch m := rfl
@[simp] theorem State.updCore_at_taskOf (s : State) (c : Nat) (f : Core → Core) (m : Nat) : (s.updCore c f).taskOf m = s.taskOf m := rfl

@[simp] theorem State.updCluster_agenda (s : State) (c : Nat) (f : Cluster → Cluster) : (s.updCluster c f).agenda = s.agenda := rfl
@[simp] theorem State.updCluster_turn (s : State) (c : Nat) (f : Cluster → Cluster) : (s.updCluster c f).turn = s.turn := rfl
@[simp] theorem State.updCluster_fresh (s : State) (c : Nat) (f : Cluster → Cluster) : (s.updCluster c f).fresh = s.fresh := rfl
@[simp] theorem State.updCluster_harts (s : State) (c : Nat) (f : Cluster → Cluster) : (s.updCluster c f).harts = s.harts := rfl
@[simp] theorem State.updCluster_cores (s : State) (c : Nat) (f : Cluster → Cluster) : (s.updCluster c f).cores = s.cores := rfl
@[simp] theorem State.updCluster_towers (s : State) (c : Nat) (f : Cluster → Cluster) : (s.updCluster c f).towers = s.towers := rfl
@[simp] theorem State.updCluster_mem (s : State) (c : Nat) (f : Cluster → Cluster) : (s.updCluster c f).mem = s.mem := rfl
@[simp] theorem State.updCluster_poison (s : State) (c : Nat) (f : Cluster → Cluster) : (s.updCluster c f).poison = s.poison := rfl
@[simp] theorem State.updCluster_tiles (s : State) (c : Nat) (f : Cluster → Cluster) : (s.updCluster c f).tiles = s.tiles := rfl
@[simp] theorem State.updCluster_mmu (s : State) (c : Nat) (f : Cluster → Cluster) : (s.updCluster c f).mmu = s.mmu := rfl
@[simp] theorem State.updCluster_depoch (s : State) (c : Nat) (f : Cluster → Cluster) : (s.updCluster c f).depoch = s.depoch := rfl
@[simp] theorem State.updCluster_launches (s : State) (c : Nat) (f : Cluster → Cluster) : (s.updCluster c f).launches = s.launches := rfl
@[simp] theorem State.updCluster_gens (s : State) (c : Nat) (f : Cluster → Cluster) : (s.updCluster c f).gens = s.gens := rfl
@[simp] theorem State.updCluster_tasks (s : State) (c : Nat) (f : Cluster → Cluster) : (s.updCluster c f).tasks = s.tasks := rfl
@[simp] theorem State.updCluster_nextTask (s : State) (c : Nat) (f : Cluster → Cluster) : (s.updCluster c f).nextTask = s.nextTask := rfl
@[simp] theorem State.updCluster_time (s : State) (c : Nat) (f : Cluster → Cluster) : (s.updCluster c f).time = s.time := rfl
@[simp] theorem State.updCluster_schcfg (s : State) (c : Nat) (f : Cluster → Cluster) : (s.updCluster c f).schcfg = s.schcfg := rfl
@[simp] theorem State.updCluster_thcfg (s : State) (c : Nat) (f : Cluster → Cluster) : (s.updCluster c f).thcfg = s.thcfg := rfl
@[simp] theorem State.updCluster_ctcfg (s : State) (c : Nat) (f : Cluster → Cluster) : (s.updCluster c f).ctcfg = s.ctcfg := rfl
@[simp] theorem State.updCluster_ctWritten (s : State) (c : Nat) (f : Cluster → Cluster) : (s.updCluster c f).ctWritten = s.ctWritten := rfl
@[simp] theorem State.updCluster_ctLost (s : State) (c : Nat) (f : Cluster → Cluster) : (s.updCluster c f).ctLost = s.ctLost := rfl
@[simp] theorem State.updCluster_ctNext (s : State) (c : Nat) (f : Cluster → Cluster) : (s.updCluster c f).ctNext = s.ctNext := rfl
@[simp] theorem State.updCluster_fpool (s : State) (c : Nat) (f : Cluster → Cluster) : (s.updCluster c f).fpool = s.fpool := rfl
@[simp] theorem State.updCluster_pzh (s : State) (c : Nat) (f : Cluster → Cluster) : (s.updCluster c f).pzh = s.pzh := rfl
@[simp] theorem State.updCluster_queues (s : State) (c : Nat) (f : Cluster → Cluster) : (s.updCluster c f).queues = s.queues := rfl
@[simp] theorem State.updCluster_served (s : State) (c : Nat) (f : Cluster → Cluster) : (s.updCluster c f).served = s.served := rfl
@[simp] theorem State.updCluster_graphs (s : State) (c : Nat) (f : Cluster → Cluster) : (s.updCluster c f).graphs = s.graphs := rfl
@[simp] theorem State.updCluster_slots (s : State) (c : Nat) (f : Cluster → Cluster) : (s.updCluster c f).slots = s.slots := rfl
@[simp] theorem State.updCluster_pageWait (s : State) (c : Nat) (f : Cluster → Cluster) : (s.updCluster c f).pageWait = s.pageWait := rfl
@[simp] theorem State.updCluster_prgEnabled (s : State) (c : Nat) (f : Cluster → Cluster) : (s.updCluster c f).prgEnabled = s.prgEnabled := rfl
@[simp] theorem State.updCluster_prgSlots (s : State) (c : Nat) (f : Cluster → Cluster) : (s.updCluster c f).prgSlots = s.prgSlots := rfl
@[simp] theorem State.updCluster_pasidEnabled (s : State) (c : Nat) (f : Cluster → Cluster) : (s.updCluster c f).pasidEnabled = s.pasidEnabled := rfl
@[simp] theorem State.updCluster_gathers (s : State) (c : Nat) (f : Cluster → Cluster) : (s.updCluster c f).gathers = s.gathers := rfl
@[simp] theorem State.updCluster_nextIdent (s : State) (c : Nat) (f : Cluster → Cluster) : (s.updCluster c f).nextIdent = s.nextIdent := rfl
@[simp] theorem State.updCluster_sounding (s : State) (c : Nat) (f : Cluster → Cluster) : (s.updCluster c f).sounding = s.sounding := rfl
@[simp] theorem State.updCluster_log (s : State) (c : Nat) (f : Cluster → Cluster) : (s.updCluster c f).log = s.log := rfl
@[simp] theorem State.updCluster_flashLog (s : State) (c : Nat) (f : Cluster → Cluster) : (s.updCluster c f).flashLog = s.flashLog := rfl
@[simp] theorem State.updCluster_nextLog (s : State) (c : Nat) (f : Cluster → Cluster) : (s.updCluster c f).nextLog = s.nextLog := rfl
@[simp] theorem State.updCluster_ceCount (s : State) (c : Nat) (f : Cluster → Cluster) : (s.updCluster c f).ceCount = s.ceCount := rfl
@[simp] theorem State.updCluster_ceUnits (s : State) (c : Nat) (f : Cluster → Cluster) : (s.updCluster c f).ceUnits = s.ceUnits := rfl
@[simp] theorem State.updCluster_ceSecond (s : State) (c : Nat) (f : Cluster → Cluster) : (s.updCluster c f).ceSecond = s.ceSecond := rfl
@[simp] theorem State.updCluster_pkghot (s : State) (c : Nat) (f : Cluster → Cluster) : (s.updCluster c f).pkghot = s.pkghot := rfl
@[simp] theorem State.updCluster_layerFlash (s : State) (c : Nat) (f : Cluster → Cluster) : (s.updCluster c f).layerFlash = s.layerFlash := rfl
@[simp] theorem State.updCluster_bmarg (s : State) (c : Nat) (f : Cluster → Cluster) : (s.updCluster c f).bmarg = s.bmarg := rfl
@[simp] theorem State.updCluster_bmrsp (s : State) (c : Nat) (f : Cluster → Cluster) : (s.updCluster c f).bmrsp = s.bmrsp := rfl
@[simp] theorem State.updCluster_bmst (s : State) (c : Nat) (f : Cluster → Cluster) : (s.updCluster c f).bmst = s.bmst := rfl
@[simp] theorem State.updCluster_bmlen (s : State) (c : Nat) (f : Cluster → Cluster) : (s.updCluster c f).bmlen = s.bmlen := rfl
@[simp] theorem State.updCluster_bmheld (s : State) (c : Nat) (f : Cluster → Cluster) : (s.updCluster c f).bmheld = s.bmheld := rfl
@[simp] theorem State.updCluster_fw (s : State) (c : Nat) (f : Cluster → Cluster) : (s.updCluster c f).fw = s.fw := rfl
@[simp] theorem State.updCluster_spdm (s : State) (c : Nat) (f : Cluster → Cluster) : (s.updCluster c f).spdm = s.spdm := rfl
@[simp] theorem State.updCluster_msix (s : State) (c : Nat) (f : Cluster → Cluster) : (s.updCluster c f).msix = s.msix := rfl
@[simp] theorem State.updCluster_pba (s : State) (c : Nat) (f : Cluster → Cluster) : (s.updCluster c f).pba = s.pba := rfl
@[simp] theorem State.updCluster_hdmBase (s : State) (c : Nat) (f : Cluster → Cluster) : (s.updCluster c f).hdmBase = s.hdmBase := rfl
@[simp] theorem State.updCluster_hdmSize (s : State) (c : Nat) (f : Cluster → Cluster) : (s.updCluster c f).hdmSize = s.hdmSize := rfl
@[simp] theorem State.updCluster_netcfg (s : State) (c : Nat) (f : Cluster → Cluster) : (s.updCluster c f).netcfg = s.netcfg := rfl
@[simp] theorem State.updCluster_netllr (s : State) (c : Nat) (f : Cluster → Cluster) : (s.updCluster c f).netllr = s.netllr := rfl
@[simp] theorem State.updCluster_blcfg (s : State) (c : Nat) (f : Cluster → Cluster) : (s.updCluster c f).blcfg = s.blcfg := rfl
@[simp] theorem State.updCluster_routes (s : State) (c : Nat) (f : Cluster → Cluster) : (s.updCluster c f).routes = s.routes := rfl
@[simp] theorem State.updCluster_peers (s : State) (c : Nat) (f : Cluster → Cluster) : (s.updCluster c f).peers = s.peers := rfl
@[simp] theorem State.updCluster_endpoints (s : State) (c : Nat) (f : Cluster → Cluster) : (s.updCluster c f).endpoints = s.endpoints := rfl
@[simp] theorem State.updCluster_work (s : State) (c : Nat) (f : Cluster → Cluster) : (s.updCluster c f).work = s.work := rfl
@[simp] theorem State.updCluster_netTurn (s : State) (c : Nat) (f : Cluster → Cluster) : (s.updCluster c f).netTurn = s.netTurn := rfl
@[simp] theorem State.updCluster_rud (s : State) (c : Nat) (f : Cluster → Cluster) : (s.updCluster c f).rud = s.rud := rfl
@[simp] theorem State.updCluster_rod (s : State) (c : Nat) (f : Cluster → Cluster) : (s.updCluster c f).rod = s.rod := rfl
@[simp] theorem State.updCluster_benlar (s : State) (c : Nat) (f : Cluster → Cluster) : (s.updCluster c f).benlar = s.benlar := rfl
@[simp] theorem State.updCluster_eth (s : State) (c : Nat) (f : Cluster → Cluster) : (s.updCluster c f).eth = s.eth := rfl
@[simp] theorem State.updCluster_commcfg (s : State) (c : Nat) (f : Cluster → Cluster) : (s.updCluster c f).commcfg = s.commcfg := rfl
@[simp] theorem State.updCluster_jscfg (s : State) (c : Nat) (f : Cluster → Cluster) : (s.updCluster c f).jscfg = s.jscfg := rfl
@[simp] theorem State.updCluster_comms (s : State) (c : Nat) (f : Cluster → Cluster) : (s.updCluster c f).comms = s.comms := rfl
@[simp] theorem State.updCluster_jets (s : State) (c : Nat) (f : Cluster → Cluster) : (s.updCluster c f).jets = s.jets := rfl
@[simp] theorem State.updCluster_jgraphs (s : State) (c : Nat) (f : Cluster → Cluster) : (s.updCluster c f).jgraphs = s.jgraphs := rfl
@[simp] theorem State.updCluster_engines (s : State) (c : Nat) (f : Cluster → Cluster) : (s.updCluster c f).engines = s.engines := rfl
@[simp] theorem State.updCluster_jetTurn (s : State) (c : Nat) (f : Cluster → Cluster) : (s.updCluster c f).jetTurn = s.jetTurn := rfl
@[simp] theorem State.updCluster_nextRun (s : State) (c : Nat) (f : Cluster → Cluster) : (s.updCluster c f).nextRun = s.nextRun := rfl
@[simp] theorem State.updCluster_outbox (s : State) (c : Nat) (f : Cluster → Cluster) : (s.updCluster c f).outbox = s.outbox := rfl
@[simp] theorem State.updCluster_at_hart (s : State) (c : Nat) (f : Cluster → Cluster) (g : Nat) : (s.updCluster c f).hart g = s.hart g := rfl
@[simp] theorem State.updCluster_at_ctx (s : State) (c : Nat) (f : Cluster → Cluster) (g : Nat) : (s.updCluster c f).ctx g = s.ctx g := rfl
@[simp] theorem State.updCluster_at_x (s : State) (c : Nat) (f : Cluster → Cluster) (g : Nat) (r : BitVec 7) : (s.updCluster c f).x g r = s.x g r := rfl
@[simp] theorem State.updCluster_at_pc (s : State) (c : Nat) (f : Cluster → Cluster) (g : Nat) : (s.updCluster c f).pc g = s.pc g := rfl
@[simp] theorem State.updCluster_at_core (s : State) (c : Nat) (f : Cluster → Cluster) (d : Nat) : (s.updCluster c f).core d = s.core d := rfl
@[simp] theorem State.updCluster_at_tower (s : State) (c : Nat) (f : Cluster → Cluster) (d : Nat) : (s.updCluster c f).tower d = s.tower d := rfl
@[simp] theorem State.updCluster_at_tile (s : State) (c : Nat) (f : Cluster → Cluster) (d : Nat) : (s.updCluster c f).tile d = s.tile d := rfl
@[simp] theorem State.updCluster_at_launch (s : State) (c : Nat) (f : Cluster → Cluster) (m : Nat) : (s.updCluster c f).launch m = s.launch m := rfl
@[simp] theorem State.updCluster_at_taskOf (s : State) (c : Nat) (f : Cluster → Cluster) (m : Nat) : (s.updCluster c f).taskOf m = s.taskOf m := rfl

@[simp] theorem State.updTower_agenda (s : State) (t : Nat) (f : Tower → Tower) : (s.updTower t f).agenda = s.agenda := rfl
@[simp] theorem State.updTower_turn (s : State) (t : Nat) (f : Tower → Tower) : (s.updTower t f).turn = s.turn := rfl
@[simp] theorem State.updTower_fresh (s : State) (t : Nat) (f : Tower → Tower) : (s.updTower t f).fresh = s.fresh := rfl
@[simp] theorem State.updTower_harts (s : State) (t : Nat) (f : Tower → Tower) : (s.updTower t f).harts = s.harts := rfl
@[simp] theorem State.updTower_cores (s : State) (t : Nat) (f : Tower → Tower) : (s.updTower t f).cores = s.cores := rfl
@[simp] theorem State.updTower_clusters (s : State) (t : Nat) (f : Tower → Tower) : (s.updTower t f).clusters = s.clusters := rfl
@[simp] theorem State.updTower_mem (s : State) (t : Nat) (f : Tower → Tower) : (s.updTower t f).mem = s.mem := rfl
@[simp] theorem State.updTower_poison (s : State) (t : Nat) (f : Tower → Tower) : (s.updTower t f).poison = s.poison := rfl
@[simp] theorem State.updTower_tiles (s : State) (t : Nat) (f : Tower → Tower) : (s.updTower t f).tiles = s.tiles := rfl
@[simp] theorem State.updTower_mmu (s : State) (t : Nat) (f : Tower → Tower) : (s.updTower t f).mmu = s.mmu := rfl
@[simp] theorem State.updTower_depoch (s : State) (t : Nat) (f : Tower → Tower) : (s.updTower t f).depoch = s.depoch := rfl
@[simp] theorem State.updTower_launches (s : State) (t : Nat) (f : Tower → Tower) : (s.updTower t f).launches = s.launches := rfl
@[simp] theorem State.updTower_gens (s : State) (t : Nat) (f : Tower → Tower) : (s.updTower t f).gens = s.gens := rfl
@[simp] theorem State.updTower_tasks (s : State) (t : Nat) (f : Tower → Tower) : (s.updTower t f).tasks = s.tasks := rfl
@[simp] theorem State.updTower_nextTask (s : State) (t : Nat) (f : Tower → Tower) : (s.updTower t f).nextTask = s.nextTask := rfl
@[simp] theorem State.updTower_time (s : State) (t : Nat) (f : Tower → Tower) : (s.updTower t f).time = s.time := rfl
@[simp] theorem State.updTower_schcfg (s : State) (t : Nat) (f : Tower → Tower) : (s.updTower t f).schcfg = s.schcfg := rfl
@[simp] theorem State.updTower_thcfg (s : State) (t : Nat) (f : Tower → Tower) : (s.updTower t f).thcfg = s.thcfg := rfl
@[simp] theorem State.updTower_ctcfg (s : State) (t : Nat) (f : Tower → Tower) : (s.updTower t f).ctcfg = s.ctcfg := rfl
@[simp] theorem State.updTower_ctWritten (s : State) (t : Nat) (f : Tower → Tower) : (s.updTower t f).ctWritten = s.ctWritten := rfl
@[simp] theorem State.updTower_ctLost (s : State) (t : Nat) (f : Tower → Tower) : (s.updTower t f).ctLost = s.ctLost := rfl
@[simp] theorem State.updTower_ctNext (s : State) (t : Nat) (f : Tower → Tower) : (s.updTower t f).ctNext = s.ctNext := rfl
@[simp] theorem State.updTower_fpool (s : State) (t : Nat) (f : Tower → Tower) : (s.updTower t f).fpool = s.fpool := rfl
@[simp] theorem State.updTower_pzh (s : State) (t : Nat) (f : Tower → Tower) : (s.updTower t f).pzh = s.pzh := rfl
@[simp] theorem State.updTower_queues (s : State) (t : Nat) (f : Tower → Tower) : (s.updTower t f).queues = s.queues := rfl
@[simp] theorem State.updTower_served (s : State) (t : Nat) (f : Tower → Tower) : (s.updTower t f).served = s.served := rfl
@[simp] theorem State.updTower_graphs (s : State) (t : Nat) (f : Tower → Tower) : (s.updTower t f).graphs = s.graphs := rfl
@[simp] theorem State.updTower_slots (s : State) (t : Nat) (f : Tower → Tower) : (s.updTower t f).slots = s.slots := rfl
@[simp] theorem State.updTower_pageWait (s : State) (t : Nat) (f : Tower → Tower) : (s.updTower t f).pageWait = s.pageWait := rfl
@[simp] theorem State.updTower_prgEnabled (s : State) (t : Nat) (f : Tower → Tower) : (s.updTower t f).prgEnabled = s.prgEnabled := rfl
@[simp] theorem State.updTower_prgSlots (s : State) (t : Nat) (f : Tower → Tower) : (s.updTower t f).prgSlots = s.prgSlots := rfl
@[simp] theorem State.updTower_pasidEnabled (s : State) (t : Nat) (f : Tower → Tower) : (s.updTower t f).pasidEnabled = s.pasidEnabled := rfl
@[simp] theorem State.updTower_gathers (s : State) (t : Nat) (f : Tower → Tower) : (s.updTower t f).gathers = s.gathers := rfl
@[simp] theorem State.updTower_nextIdent (s : State) (t : Nat) (f : Tower → Tower) : (s.updTower t f).nextIdent = s.nextIdent := rfl
@[simp] theorem State.updTower_sounding (s : State) (t : Nat) (f : Tower → Tower) : (s.updTower t f).sounding = s.sounding := rfl
@[simp] theorem State.updTower_log (s : State) (t : Nat) (f : Tower → Tower) : (s.updTower t f).log = s.log := rfl
@[simp] theorem State.updTower_flashLog (s : State) (t : Nat) (f : Tower → Tower) : (s.updTower t f).flashLog = s.flashLog := rfl
@[simp] theorem State.updTower_nextLog (s : State) (t : Nat) (f : Tower → Tower) : (s.updTower t f).nextLog = s.nextLog := rfl
@[simp] theorem State.updTower_ceCount (s : State) (t : Nat) (f : Tower → Tower) : (s.updTower t f).ceCount = s.ceCount := rfl
@[simp] theorem State.updTower_ceUnits (s : State) (t : Nat) (f : Tower → Tower) : (s.updTower t f).ceUnits = s.ceUnits := rfl
@[simp] theorem State.updTower_ceSecond (s : State) (t : Nat) (f : Tower → Tower) : (s.updTower t f).ceSecond = s.ceSecond := rfl
@[simp] theorem State.updTower_pkghot (s : State) (t : Nat) (f : Tower → Tower) : (s.updTower t f).pkghot = s.pkghot := rfl
@[simp] theorem State.updTower_layerFlash (s : State) (t : Nat) (f : Tower → Tower) : (s.updTower t f).layerFlash = s.layerFlash := rfl
@[simp] theorem State.updTower_bmarg (s : State) (t : Nat) (f : Tower → Tower) : (s.updTower t f).bmarg = s.bmarg := rfl
@[simp] theorem State.updTower_bmrsp (s : State) (t : Nat) (f : Tower → Tower) : (s.updTower t f).bmrsp = s.bmrsp := rfl
@[simp] theorem State.updTower_bmst (s : State) (t : Nat) (f : Tower → Tower) : (s.updTower t f).bmst = s.bmst := rfl
@[simp] theorem State.updTower_bmlen (s : State) (t : Nat) (f : Tower → Tower) : (s.updTower t f).bmlen = s.bmlen := rfl
@[simp] theorem State.updTower_bmheld (s : State) (t : Nat) (f : Tower → Tower) : (s.updTower t f).bmheld = s.bmheld := rfl
@[simp] theorem State.updTower_fw (s : State) (t : Nat) (f : Tower → Tower) : (s.updTower t f).fw = s.fw := rfl
@[simp] theorem State.updTower_spdm (s : State) (t : Nat) (f : Tower → Tower) : (s.updTower t f).spdm = s.spdm := rfl
@[simp] theorem State.updTower_msix (s : State) (t : Nat) (f : Tower → Tower) : (s.updTower t f).msix = s.msix := rfl
@[simp] theorem State.updTower_pba (s : State) (t : Nat) (f : Tower → Tower) : (s.updTower t f).pba = s.pba := rfl
@[simp] theorem State.updTower_hdmBase (s : State) (t : Nat) (f : Tower → Tower) : (s.updTower t f).hdmBase = s.hdmBase := rfl
@[simp] theorem State.updTower_hdmSize (s : State) (t : Nat) (f : Tower → Tower) : (s.updTower t f).hdmSize = s.hdmSize := rfl
@[simp] theorem State.updTower_netcfg (s : State) (t : Nat) (f : Tower → Tower) : (s.updTower t f).netcfg = s.netcfg := rfl
@[simp] theorem State.updTower_netllr (s : State) (t : Nat) (f : Tower → Tower) : (s.updTower t f).netllr = s.netllr := rfl
@[simp] theorem State.updTower_blcfg (s : State) (t : Nat) (f : Tower → Tower) : (s.updTower t f).blcfg = s.blcfg := rfl
@[simp] theorem State.updTower_routes (s : State) (t : Nat) (f : Tower → Tower) : (s.updTower t f).routes = s.routes := rfl
@[simp] theorem State.updTower_peers (s : State) (t : Nat) (f : Tower → Tower) : (s.updTower t f).peers = s.peers := rfl
@[simp] theorem State.updTower_endpoints (s : State) (t : Nat) (f : Tower → Tower) : (s.updTower t f).endpoints = s.endpoints := rfl
@[simp] theorem State.updTower_work (s : State) (t : Nat) (f : Tower → Tower) : (s.updTower t f).work = s.work := rfl
@[simp] theorem State.updTower_netTurn (s : State) (t : Nat) (f : Tower → Tower) : (s.updTower t f).netTurn = s.netTurn := rfl
@[simp] theorem State.updTower_rud (s : State) (t : Nat) (f : Tower → Tower) : (s.updTower t f).rud = s.rud := rfl
@[simp] theorem State.updTower_rod (s : State) (t : Nat) (f : Tower → Tower) : (s.updTower t f).rod = s.rod := rfl
@[simp] theorem State.updTower_benlar (s : State) (t : Nat) (f : Tower → Tower) : (s.updTower t f).benlar = s.benlar := rfl
@[simp] theorem State.updTower_eth (s : State) (t : Nat) (f : Tower → Tower) : (s.updTower t f).eth = s.eth := rfl
@[simp] theorem State.updTower_commcfg (s : State) (t : Nat) (f : Tower → Tower) : (s.updTower t f).commcfg = s.commcfg := rfl
@[simp] theorem State.updTower_jscfg (s : State) (t : Nat) (f : Tower → Tower) : (s.updTower t f).jscfg = s.jscfg := rfl
@[simp] theorem State.updTower_comms (s : State) (t : Nat) (f : Tower → Tower) : (s.updTower t f).comms = s.comms := rfl
@[simp] theorem State.updTower_jets (s : State) (t : Nat) (f : Tower → Tower) : (s.updTower t f).jets = s.jets := rfl
@[simp] theorem State.updTower_jgraphs (s : State) (t : Nat) (f : Tower → Tower) : (s.updTower t f).jgraphs = s.jgraphs := rfl
@[simp] theorem State.updTower_engines (s : State) (t : Nat) (f : Tower → Tower) : (s.updTower t f).engines = s.engines := rfl
@[simp] theorem State.updTower_jetTurn (s : State) (t : Nat) (f : Tower → Tower) : (s.updTower t f).jetTurn = s.jetTurn := rfl
@[simp] theorem State.updTower_nextRun (s : State) (t : Nat) (f : Tower → Tower) : (s.updTower t f).nextRun = s.nextRun := rfl
@[simp] theorem State.updTower_outbox (s : State) (t : Nat) (f : Tower → Tower) : (s.updTower t f).outbox = s.outbox := rfl
@[simp] theorem State.updTower_at_hart (s : State) (t : Nat) (f : Tower → Tower) (g : Nat) : (s.updTower t f).hart g = s.hart g := rfl
@[simp] theorem State.updTower_at_ctx (s : State) (t : Nat) (f : Tower → Tower) (g : Nat) : (s.updTower t f).ctx g = s.ctx g := rfl
@[simp] theorem State.updTower_at_x (s : State) (t : Nat) (f : Tower → Tower) (g : Nat) (r : BitVec 7) : (s.updTower t f).x g r = s.x g r := rfl
@[simp] theorem State.updTower_at_pc (s : State) (t : Nat) (f : Tower → Tower) (g : Nat) : (s.updTower t f).pc g = s.pc g := rfl
@[simp] theorem State.updTower_at_core (s : State) (t : Nat) (f : Tower → Tower) (d : Nat) : (s.updTower t f).core d = s.core d := rfl
@[simp] theorem State.updTower_at_cluster (s : State) (t : Nat) (f : Tower → Tower) (d : Nat) : (s.updTower t f).cluster d = s.cluster d := rfl
@[simp] theorem State.updTower_at_tile (s : State) (t : Nat) (f : Tower → Tower) (d : Nat) : (s.updTower t f).tile d = s.tile d := rfl
@[simp] theorem State.updTower_at_launch (s : State) (t : Nat) (f : Tower → Tower) (m : Nat) : (s.updTower t f).launch m = s.launch m := rfl
@[simp] theorem State.updTower_at_taskOf (s : State) (t : Nat) (f : Tower → Tower) (m : Nat) : (s.updTower t f).taskOf m = s.taskOf m := rfl

@[simp] theorem State.updTile_agenda (s : State) (t : Nat) (f : TileMark → TileMark) : (s.updTile t f).agenda = s.agenda := rfl
@[simp] theorem State.updTile_turn (s : State) (t : Nat) (f : TileMark → TileMark) : (s.updTile t f).turn = s.turn := rfl
@[simp] theorem State.updTile_fresh (s : State) (t : Nat) (f : TileMark → TileMark) : (s.updTile t f).fresh = s.fresh := rfl
@[simp] theorem State.updTile_harts (s : State) (t : Nat) (f : TileMark → TileMark) : (s.updTile t f).harts = s.harts := rfl
@[simp] theorem State.updTile_cores (s : State) (t : Nat) (f : TileMark → TileMark) : (s.updTile t f).cores = s.cores := rfl
@[simp] theorem State.updTile_clusters (s : State) (t : Nat) (f : TileMark → TileMark) : (s.updTile t f).clusters = s.clusters := rfl
@[simp] theorem State.updTile_towers (s : State) (t : Nat) (f : TileMark → TileMark) : (s.updTile t f).towers = s.towers := rfl
@[simp] theorem State.updTile_mem (s : State) (t : Nat) (f : TileMark → TileMark) : (s.updTile t f).mem = s.mem := rfl
@[simp] theorem State.updTile_poison (s : State) (t : Nat) (f : TileMark → TileMark) : (s.updTile t f).poison = s.poison := rfl
@[simp] theorem State.updTile_mmu (s : State) (t : Nat) (f : TileMark → TileMark) : (s.updTile t f).mmu = s.mmu := rfl
@[simp] theorem State.updTile_depoch (s : State) (t : Nat) (f : TileMark → TileMark) : (s.updTile t f).depoch = s.depoch := rfl
@[simp] theorem State.updTile_launches (s : State) (t : Nat) (f : TileMark → TileMark) : (s.updTile t f).launches = s.launches := rfl
@[simp] theorem State.updTile_gens (s : State) (t : Nat) (f : TileMark → TileMark) : (s.updTile t f).gens = s.gens := rfl
@[simp] theorem State.updTile_tasks (s : State) (t : Nat) (f : TileMark → TileMark) : (s.updTile t f).tasks = s.tasks := rfl
@[simp] theorem State.updTile_nextTask (s : State) (t : Nat) (f : TileMark → TileMark) : (s.updTile t f).nextTask = s.nextTask := rfl
@[simp] theorem State.updTile_time (s : State) (t : Nat) (f : TileMark → TileMark) : (s.updTile t f).time = s.time := rfl
@[simp] theorem State.updTile_schcfg (s : State) (t : Nat) (f : TileMark → TileMark) : (s.updTile t f).schcfg = s.schcfg := rfl
@[simp] theorem State.updTile_thcfg (s : State) (t : Nat) (f : TileMark → TileMark) : (s.updTile t f).thcfg = s.thcfg := rfl
@[simp] theorem State.updTile_ctcfg (s : State) (t : Nat) (f : TileMark → TileMark) : (s.updTile t f).ctcfg = s.ctcfg := rfl
@[simp] theorem State.updTile_ctWritten (s : State) (t : Nat) (f : TileMark → TileMark) : (s.updTile t f).ctWritten = s.ctWritten := rfl
@[simp] theorem State.updTile_ctLost (s : State) (t : Nat) (f : TileMark → TileMark) : (s.updTile t f).ctLost = s.ctLost := rfl
@[simp] theorem State.updTile_ctNext (s : State) (t : Nat) (f : TileMark → TileMark) : (s.updTile t f).ctNext = s.ctNext := rfl
@[simp] theorem State.updTile_fpool (s : State) (t : Nat) (f : TileMark → TileMark) : (s.updTile t f).fpool = s.fpool := rfl
@[simp] theorem State.updTile_pzh (s : State) (t : Nat) (f : TileMark → TileMark) : (s.updTile t f).pzh = s.pzh := rfl
@[simp] theorem State.updTile_queues (s : State) (t : Nat) (f : TileMark → TileMark) : (s.updTile t f).queues = s.queues := rfl
@[simp] theorem State.updTile_served (s : State) (t : Nat) (f : TileMark → TileMark) : (s.updTile t f).served = s.served := rfl
@[simp] theorem State.updTile_graphs (s : State) (t : Nat) (f : TileMark → TileMark) : (s.updTile t f).graphs = s.graphs := rfl
@[simp] theorem State.updTile_slots (s : State) (t : Nat) (f : TileMark → TileMark) : (s.updTile t f).slots = s.slots := rfl
@[simp] theorem State.updTile_pageWait (s : State) (t : Nat) (f : TileMark → TileMark) : (s.updTile t f).pageWait = s.pageWait := rfl
@[simp] theorem State.updTile_prgEnabled (s : State) (t : Nat) (f : TileMark → TileMark) : (s.updTile t f).prgEnabled = s.prgEnabled := rfl
@[simp] theorem State.updTile_prgSlots (s : State) (t : Nat) (f : TileMark → TileMark) : (s.updTile t f).prgSlots = s.prgSlots := rfl
@[simp] theorem State.updTile_pasidEnabled (s : State) (t : Nat) (f : TileMark → TileMark) : (s.updTile t f).pasidEnabled = s.pasidEnabled := rfl
@[simp] theorem State.updTile_gathers (s : State) (t : Nat) (f : TileMark → TileMark) : (s.updTile t f).gathers = s.gathers := rfl
@[simp] theorem State.updTile_nextIdent (s : State) (t : Nat) (f : TileMark → TileMark) : (s.updTile t f).nextIdent = s.nextIdent := rfl
@[simp] theorem State.updTile_sounding (s : State) (t : Nat) (f : TileMark → TileMark) : (s.updTile t f).sounding = s.sounding := rfl
@[simp] theorem State.updTile_log (s : State) (t : Nat) (f : TileMark → TileMark) : (s.updTile t f).log = s.log := rfl
@[simp] theorem State.updTile_flashLog (s : State) (t : Nat) (f : TileMark → TileMark) : (s.updTile t f).flashLog = s.flashLog := rfl
@[simp] theorem State.updTile_nextLog (s : State) (t : Nat) (f : TileMark → TileMark) : (s.updTile t f).nextLog = s.nextLog := rfl
@[simp] theorem State.updTile_ceCount (s : State) (t : Nat) (f : TileMark → TileMark) : (s.updTile t f).ceCount = s.ceCount := rfl
@[simp] theorem State.updTile_ceUnits (s : State) (t : Nat) (f : TileMark → TileMark) : (s.updTile t f).ceUnits = s.ceUnits := rfl
@[simp] theorem State.updTile_ceSecond (s : State) (t : Nat) (f : TileMark → TileMark) : (s.updTile t f).ceSecond = s.ceSecond := rfl
@[simp] theorem State.updTile_pkghot (s : State) (t : Nat) (f : TileMark → TileMark) : (s.updTile t f).pkghot = s.pkghot := rfl
@[simp] theorem State.updTile_layerFlash (s : State) (t : Nat) (f : TileMark → TileMark) : (s.updTile t f).layerFlash = s.layerFlash := rfl
@[simp] theorem State.updTile_bmarg (s : State) (t : Nat) (f : TileMark → TileMark) : (s.updTile t f).bmarg = s.bmarg := rfl
@[simp] theorem State.updTile_bmrsp (s : State) (t : Nat) (f : TileMark → TileMark) : (s.updTile t f).bmrsp = s.bmrsp := rfl
@[simp] theorem State.updTile_bmst (s : State) (t : Nat) (f : TileMark → TileMark) : (s.updTile t f).bmst = s.bmst := rfl
@[simp] theorem State.updTile_bmlen (s : State) (t : Nat) (f : TileMark → TileMark) : (s.updTile t f).bmlen = s.bmlen := rfl
@[simp] theorem State.updTile_bmheld (s : State) (t : Nat) (f : TileMark → TileMark) : (s.updTile t f).bmheld = s.bmheld := rfl
@[simp] theorem State.updTile_fw (s : State) (t : Nat) (f : TileMark → TileMark) : (s.updTile t f).fw = s.fw := rfl
@[simp] theorem State.updTile_spdm (s : State) (t : Nat) (f : TileMark → TileMark) : (s.updTile t f).spdm = s.spdm := rfl
@[simp] theorem State.updTile_msix (s : State) (t : Nat) (f : TileMark → TileMark) : (s.updTile t f).msix = s.msix := rfl
@[simp] theorem State.updTile_pba (s : State) (t : Nat) (f : TileMark → TileMark) : (s.updTile t f).pba = s.pba := rfl
@[simp] theorem State.updTile_hdmBase (s : State) (t : Nat) (f : TileMark → TileMark) : (s.updTile t f).hdmBase = s.hdmBase := rfl
@[simp] theorem State.updTile_hdmSize (s : State) (t : Nat) (f : TileMark → TileMark) : (s.updTile t f).hdmSize = s.hdmSize := rfl
@[simp] theorem State.updTile_netcfg (s : State) (t : Nat) (f : TileMark → TileMark) : (s.updTile t f).netcfg = s.netcfg := rfl
@[simp] theorem State.updTile_netllr (s : State) (t : Nat) (f : TileMark → TileMark) : (s.updTile t f).netllr = s.netllr := rfl
@[simp] theorem State.updTile_blcfg (s : State) (t : Nat) (f : TileMark → TileMark) : (s.updTile t f).blcfg = s.blcfg := rfl
@[simp] theorem State.updTile_routes (s : State) (t : Nat) (f : TileMark → TileMark) : (s.updTile t f).routes = s.routes := rfl
@[simp] theorem State.updTile_peers (s : State) (t : Nat) (f : TileMark → TileMark) : (s.updTile t f).peers = s.peers := rfl
@[simp] theorem State.updTile_endpoints (s : State) (t : Nat) (f : TileMark → TileMark) : (s.updTile t f).endpoints = s.endpoints := rfl
@[simp] theorem State.updTile_work (s : State) (t : Nat) (f : TileMark → TileMark) : (s.updTile t f).work = s.work := rfl
@[simp] theorem State.updTile_netTurn (s : State) (t : Nat) (f : TileMark → TileMark) : (s.updTile t f).netTurn = s.netTurn := rfl
@[simp] theorem State.updTile_rud (s : State) (t : Nat) (f : TileMark → TileMark) : (s.updTile t f).rud = s.rud := rfl
@[simp] theorem State.updTile_rod (s : State) (t : Nat) (f : TileMark → TileMark) : (s.updTile t f).rod = s.rod := rfl
@[simp] theorem State.updTile_benlar (s : State) (t : Nat) (f : TileMark → TileMark) : (s.updTile t f).benlar = s.benlar := rfl
@[simp] theorem State.updTile_eth (s : State) (t : Nat) (f : TileMark → TileMark) : (s.updTile t f).eth = s.eth := rfl
@[simp] theorem State.updTile_commcfg (s : State) (t : Nat) (f : TileMark → TileMark) : (s.updTile t f).commcfg = s.commcfg := rfl
@[simp] theorem State.updTile_jscfg (s : State) (t : Nat) (f : TileMark → TileMark) : (s.updTile t f).jscfg = s.jscfg := rfl
@[simp] theorem State.updTile_comms (s : State) (t : Nat) (f : TileMark → TileMark) : (s.updTile t f).comms = s.comms := rfl
@[simp] theorem State.updTile_jets (s : State) (t : Nat) (f : TileMark → TileMark) : (s.updTile t f).jets = s.jets := rfl
@[simp] theorem State.updTile_jgraphs (s : State) (t : Nat) (f : TileMark → TileMark) : (s.updTile t f).jgraphs = s.jgraphs := rfl
@[simp] theorem State.updTile_engines (s : State) (t : Nat) (f : TileMark → TileMark) : (s.updTile t f).engines = s.engines := rfl
@[simp] theorem State.updTile_jetTurn (s : State) (t : Nat) (f : TileMark → TileMark) : (s.updTile t f).jetTurn = s.jetTurn := rfl
@[simp] theorem State.updTile_nextRun (s : State) (t : Nat) (f : TileMark → TileMark) : (s.updTile t f).nextRun = s.nextRun := rfl
@[simp] theorem State.updTile_outbox (s : State) (t : Nat) (f : TileMark → TileMark) : (s.updTile t f).outbox = s.outbox := rfl
@[simp] theorem State.updTile_at_hart (s : State) (t : Nat) (f : TileMark → TileMark) (g : Nat) : (s.updTile t f).hart g = s.hart g := rfl
@[simp] theorem State.updTile_at_ctx (s : State) (t : Nat) (f : TileMark → TileMark) (g : Nat) : (s.updTile t f).ctx g = s.ctx g := rfl
@[simp] theorem State.updTile_at_x (s : State) (t : Nat) (f : TileMark → TileMark) (g : Nat) (r : BitVec 7) : (s.updTile t f).x g r = s.x g r := rfl
@[simp] theorem State.updTile_at_pc (s : State) (t : Nat) (f : TileMark → TileMark) (g : Nat) : (s.updTile t f).pc g = s.pc g := rfl
@[simp] theorem State.updTile_at_core (s : State) (t : Nat) (f : TileMark → TileMark) (d : Nat) : (s.updTile t f).core d = s.core d := rfl
@[simp] theorem State.updTile_at_cluster (s : State) (t : Nat) (f : TileMark → TileMark) (d : Nat) : (s.updTile t f).cluster d = s.cluster d := rfl
@[simp] theorem State.updTile_at_tower (s : State) (t : Nat) (f : TileMark → TileMark) (d : Nat) : (s.updTile t f).tower d = s.tower d := rfl
@[simp] theorem State.updTile_at_launch (s : State) (t : Nat) (f : TileMark → TileMark) (m : Nat) : (s.updTile t f).launch m = s.launch m := rfl
@[simp] theorem State.updTile_at_taskOf (s : State) (t : Nat) (f : TileMark → TileMark) (m : Nat) : (s.updTile t f).taskOf m = s.taskOf m := rfl

@[simp] theorem State.send_agenda (s : State) (k : OutKind) (d : List Nat) : (s.send k d).agenda = s.agenda := rfl
@[simp] theorem State.send_turn (s : State) (k : OutKind) (d : List Nat) : (s.send k d).turn = s.turn := rfl
@[simp] theorem State.send_fresh (s : State) (k : OutKind) (d : List Nat) : (s.send k d).fresh = s.fresh := rfl
@[simp] theorem State.send_harts (s : State) (k : OutKind) (d : List Nat) : (s.send k d).harts = s.harts := rfl
@[simp] theorem State.send_cores (s : State) (k : OutKind) (d : List Nat) : (s.send k d).cores = s.cores := rfl
@[simp] theorem State.send_clusters (s : State) (k : OutKind) (d : List Nat) : (s.send k d).clusters = s.clusters := rfl
@[simp] theorem State.send_towers (s : State) (k : OutKind) (d : List Nat) : (s.send k d).towers = s.towers := rfl
@[simp] theorem State.send_mem (s : State) (k : OutKind) (d : List Nat) : (s.send k d).mem = s.mem := rfl
@[simp] theorem State.send_poison (s : State) (k : OutKind) (d : List Nat) : (s.send k d).poison = s.poison := rfl
@[simp] theorem State.send_tiles (s : State) (k : OutKind) (d : List Nat) : (s.send k d).tiles = s.tiles := rfl
@[simp] theorem State.send_mmu (s : State) (k : OutKind) (d : List Nat) : (s.send k d).mmu = s.mmu := rfl
@[simp] theorem State.send_depoch (s : State) (k : OutKind) (d : List Nat) : (s.send k d).depoch = s.depoch := rfl
@[simp] theorem State.send_launches (s : State) (k : OutKind) (d : List Nat) : (s.send k d).launches = s.launches := rfl
@[simp] theorem State.send_gens (s : State) (k : OutKind) (d : List Nat) : (s.send k d).gens = s.gens := rfl
@[simp] theorem State.send_tasks (s : State) (k : OutKind) (d : List Nat) : (s.send k d).tasks = s.tasks := rfl
@[simp] theorem State.send_nextTask (s : State) (k : OutKind) (d : List Nat) : (s.send k d).nextTask = s.nextTask := rfl
@[simp] theorem State.send_time (s : State) (k : OutKind) (d : List Nat) : (s.send k d).time = s.time := rfl
@[simp] theorem State.send_schcfg (s : State) (k : OutKind) (d : List Nat) : (s.send k d).schcfg = s.schcfg := rfl
@[simp] theorem State.send_thcfg (s : State) (k : OutKind) (d : List Nat) : (s.send k d).thcfg = s.thcfg := rfl
@[simp] theorem State.send_ctcfg (s : State) (k : OutKind) (d : List Nat) : (s.send k d).ctcfg = s.ctcfg := rfl
@[simp] theorem State.send_ctWritten (s : State) (k : OutKind) (d : List Nat) : (s.send k d).ctWritten = s.ctWritten := rfl
@[simp] theorem State.send_ctLost (s : State) (k : OutKind) (d : List Nat) : (s.send k d).ctLost = s.ctLost := rfl
@[simp] theorem State.send_ctNext (s : State) (k : OutKind) (d : List Nat) : (s.send k d).ctNext = s.ctNext := rfl
@[simp] theorem State.send_fpool (s : State) (k : OutKind) (d : List Nat) : (s.send k d).fpool = s.fpool := rfl
@[simp] theorem State.send_pzh (s : State) (k : OutKind) (d : List Nat) : (s.send k d).pzh = s.pzh := rfl
@[simp] theorem State.send_queues (s : State) (k : OutKind) (d : List Nat) : (s.send k d).queues = s.queues := rfl
@[simp] theorem State.send_served (s : State) (k : OutKind) (d : List Nat) : (s.send k d).served = s.served := rfl
@[simp] theorem State.send_graphs (s : State) (k : OutKind) (d : List Nat) : (s.send k d).graphs = s.graphs := rfl
@[simp] theorem State.send_slots (s : State) (k : OutKind) (d : List Nat) : (s.send k d).slots = s.slots := rfl
@[simp] theorem State.send_pageWait (s : State) (k : OutKind) (d : List Nat) : (s.send k d).pageWait = s.pageWait := rfl
@[simp] theorem State.send_prgEnabled (s : State) (k : OutKind) (d : List Nat) : (s.send k d).prgEnabled = s.prgEnabled := rfl
@[simp] theorem State.send_prgSlots (s : State) (k : OutKind) (d : List Nat) : (s.send k d).prgSlots = s.prgSlots := rfl
@[simp] theorem State.send_pasidEnabled (s : State) (k : OutKind) (d : List Nat) : (s.send k d).pasidEnabled = s.pasidEnabled := rfl
@[simp] theorem State.send_gathers (s : State) (k : OutKind) (d : List Nat) : (s.send k d).gathers = s.gathers := rfl
@[simp] theorem State.send_nextIdent (s : State) (k : OutKind) (d : List Nat) : (s.send k d).nextIdent = s.nextIdent := rfl
@[simp] theorem State.send_sounding (s : State) (k : OutKind) (d : List Nat) : (s.send k d).sounding = s.sounding := rfl
@[simp] theorem State.send_log (s : State) (k : OutKind) (d : List Nat) : (s.send k d).log = s.log := rfl
@[simp] theorem State.send_flashLog (s : State) (k : OutKind) (d : List Nat) : (s.send k d).flashLog = s.flashLog := rfl
@[simp] theorem State.send_nextLog (s : State) (k : OutKind) (d : List Nat) : (s.send k d).nextLog = s.nextLog := rfl
@[simp] theorem State.send_ceCount (s : State) (k : OutKind) (d : List Nat) : (s.send k d).ceCount = s.ceCount := rfl
@[simp] theorem State.send_ceUnits (s : State) (k : OutKind) (d : List Nat) : (s.send k d).ceUnits = s.ceUnits := rfl
@[simp] theorem State.send_ceSecond (s : State) (k : OutKind) (d : List Nat) : (s.send k d).ceSecond = s.ceSecond := rfl
@[simp] theorem State.send_pkghot (s : State) (k : OutKind) (d : List Nat) : (s.send k d).pkghot = s.pkghot := rfl
@[simp] theorem State.send_layerFlash (s : State) (k : OutKind) (d : List Nat) : (s.send k d).layerFlash = s.layerFlash := rfl
@[simp] theorem State.send_bmarg (s : State) (k : OutKind) (d : List Nat) : (s.send k d).bmarg = s.bmarg := rfl
@[simp] theorem State.send_bmrsp (s : State) (k : OutKind) (d : List Nat) : (s.send k d).bmrsp = s.bmrsp := rfl
@[simp] theorem State.send_bmst (s : State) (k : OutKind) (d : List Nat) : (s.send k d).bmst = s.bmst := rfl
@[simp] theorem State.send_bmlen (s : State) (k : OutKind) (d : List Nat) : (s.send k d).bmlen = s.bmlen := rfl
@[simp] theorem State.send_bmheld (s : State) (k : OutKind) (d : List Nat) : (s.send k d).bmheld = s.bmheld := rfl
@[simp] theorem State.send_fw (s : State) (k : OutKind) (d : List Nat) : (s.send k d).fw = s.fw := rfl
@[simp] theorem State.send_spdm (s : State) (k : OutKind) (d : List Nat) : (s.send k d).spdm = s.spdm := rfl
@[simp] theorem State.send_msix (s : State) (k : OutKind) (d : List Nat) : (s.send k d).msix = s.msix := rfl
@[simp] theorem State.send_pba (s : State) (k : OutKind) (d : List Nat) : (s.send k d).pba = s.pba := rfl
@[simp] theorem State.send_hdmBase (s : State) (k : OutKind) (d : List Nat) : (s.send k d).hdmBase = s.hdmBase := rfl
@[simp] theorem State.send_hdmSize (s : State) (k : OutKind) (d : List Nat) : (s.send k d).hdmSize = s.hdmSize := rfl
@[simp] theorem State.send_netcfg (s : State) (k : OutKind) (d : List Nat) : (s.send k d).netcfg = s.netcfg := rfl
@[simp] theorem State.send_netllr (s : State) (k : OutKind) (d : List Nat) : (s.send k d).netllr = s.netllr := rfl
@[simp] theorem State.send_blcfg (s : State) (k : OutKind) (d : List Nat) : (s.send k d).blcfg = s.blcfg := rfl
@[simp] theorem State.send_routes (s : State) (k : OutKind) (d : List Nat) : (s.send k d).routes = s.routes := rfl
@[simp] theorem State.send_peers (s : State) (k : OutKind) (d : List Nat) : (s.send k d).peers = s.peers := rfl
@[simp] theorem State.send_endpoints (s : State) (k : OutKind) (d : List Nat) : (s.send k d).endpoints = s.endpoints := rfl
@[simp] theorem State.send_work (s : State) (k : OutKind) (d : List Nat) : (s.send k d).work = s.work := rfl
@[simp] theorem State.send_netTurn (s : State) (k : OutKind) (d : List Nat) : (s.send k d).netTurn = s.netTurn := rfl
@[simp] theorem State.send_rud (s : State) (k : OutKind) (d : List Nat) : (s.send k d).rud = s.rud := rfl
@[simp] theorem State.send_rod (s : State) (k : OutKind) (d : List Nat) : (s.send k d).rod = s.rod := rfl
@[simp] theorem State.send_benlar (s : State) (k : OutKind) (d : List Nat) : (s.send k d).benlar = s.benlar := rfl
@[simp] theorem State.send_eth (s : State) (k : OutKind) (d : List Nat) : (s.send k d).eth = s.eth := rfl
@[simp] theorem State.send_commcfg (s : State) (k : OutKind) (d : List Nat) : (s.send k d).commcfg = s.commcfg := rfl
@[simp] theorem State.send_jscfg (s : State) (k : OutKind) (d : List Nat) : (s.send k d).jscfg = s.jscfg := rfl
@[simp] theorem State.send_comms (s : State) (k : OutKind) (d : List Nat) : (s.send k d).comms = s.comms := rfl
@[simp] theorem State.send_jets (s : State) (k : OutKind) (d : List Nat) : (s.send k d).jets = s.jets := rfl
@[simp] theorem State.send_jgraphs (s : State) (k : OutKind) (d : List Nat) : (s.send k d).jgraphs = s.jgraphs := rfl
@[simp] theorem State.send_engines (s : State) (k : OutKind) (d : List Nat) : (s.send k d).engines = s.engines := rfl
@[simp] theorem State.send_jetTurn (s : State) (k : OutKind) (d : List Nat) : (s.send k d).jetTurn = s.jetTurn := rfl
@[simp] theorem State.send_nextRun (s : State) (k : OutKind) (d : List Nat) : (s.send k d).nextRun = s.nextRun := rfl
@[simp] theorem State.send_at_hart (s : State) (k : OutKind) (d : List Nat) (g : Nat) : (s.send k d).hart g = s.hart g := rfl
@[simp] theorem State.send_at_ctx (s : State) (k : OutKind) (d : List Nat) (g : Nat) : (s.send k d).ctx g = s.ctx g := rfl
@[simp] theorem State.send_at_x (s : State) (k : OutKind) (d : List Nat) (g : Nat) (r : BitVec 7) : (s.send k d).x g r = s.x g r := rfl
@[simp] theorem State.send_at_pc (s : State) (k : OutKind) (d : List Nat) (g : Nat) : (s.send k d).pc g = s.pc g := rfl
@[simp] theorem State.send_at_core (s : State) (k : OutKind) (d : List Nat) (i : Nat) : (s.send k d).core i = s.core i := rfl
@[simp] theorem State.send_at_cluster (s : State) (k : OutKind) (d : List Nat) (i : Nat) : (s.send k d).cluster i = s.cluster i := rfl
@[simp] theorem State.send_at_tower (s : State) (k : OutKind) (d : List Nat) (i : Nat) : (s.send k d).tower i = s.tower i := rfl
@[simp] theorem State.send_at_tile (s : State) (k : OutKind) (d : List Nat) (i : Nat) : (s.send k d).tile i = s.tile i := rfl
@[simp] theorem State.send_at_launch (s : State) (k : OutKind) (d : List Nat) (m : Nat) : (s.send k d).launch m = s.launch m := rfl
@[simp] theorem State.send_at_taskOf (s : State) (k : OutKind) (d : List Nat) (m : Nat) : (s.send k d).taskOf m = s.taskOf m := rfl

@[simp] theorem State.updLaunch_agenda (s : State) (n : Nat) (f : Launch → Launch) : (s.updLaunch n f).agenda = s.agenda := by unfold State.updLaunch; split <;> rfl
@[simp] theorem State.updLaunch_turn (s : State) (n : Nat) (f : Launch → Launch) : (s.updLaunch n f).turn = s.turn := by unfold State.updLaunch; split <;> rfl
@[simp] theorem State.updLaunch_fresh (s : State) (n : Nat) (f : Launch → Launch) : (s.updLaunch n f).fresh = s.fresh := by unfold State.updLaunch; split <;> rfl
@[simp] theorem State.updLaunch_harts (s : State) (n : Nat) (f : Launch → Launch) : (s.updLaunch n f).harts = s.harts := by unfold State.updLaunch; split <;> rfl
@[simp] theorem State.updLaunch_cores (s : State) (n : Nat) (f : Launch → Launch) : (s.updLaunch n f).cores = s.cores := by unfold State.updLaunch; split <;> rfl
@[simp] theorem State.updLaunch_clusters (s : State) (n : Nat) (f : Launch → Launch) : (s.updLaunch n f).clusters = s.clusters := by unfold State.updLaunch; split <;> rfl
@[simp] theorem State.updLaunch_towers (s : State) (n : Nat) (f : Launch → Launch) : (s.updLaunch n f).towers = s.towers := by unfold State.updLaunch; split <;> rfl
@[simp] theorem State.updLaunch_mem (s : State) (n : Nat) (f : Launch → Launch) : (s.updLaunch n f).mem = s.mem := by unfold State.updLaunch; split <;> rfl
@[simp] theorem State.updLaunch_poison (s : State) (n : Nat) (f : Launch → Launch) : (s.updLaunch n f).poison = s.poison := by unfold State.updLaunch; split <;> rfl
@[simp] theorem State.updLaunch_tiles (s : State) (n : Nat) (f : Launch → Launch) : (s.updLaunch n f).tiles = s.tiles := by unfold State.updLaunch; split <;> rfl
@[simp] theorem State.updLaunch_mmu (s : State) (n : Nat) (f : Launch → Launch) : (s.updLaunch n f).mmu = s.mmu := by unfold State.updLaunch; split <;> rfl
@[simp] theorem State.updLaunch_depoch (s : State) (n : Nat) (f : Launch → Launch) : (s.updLaunch n f).depoch = s.depoch := by unfold State.updLaunch; split <;> rfl
@[simp] theorem State.updLaunch_gens (s : State) (n : Nat) (f : Launch → Launch) : (s.updLaunch n f).gens = s.gens := by unfold State.updLaunch; split <;> rfl
@[simp] theorem State.updLaunch_tasks (s : State) (n : Nat) (f : Launch → Launch) : (s.updLaunch n f).tasks = s.tasks := by unfold State.updLaunch; split <;> rfl
@[simp] theorem State.updLaunch_nextTask (s : State) (n : Nat) (f : Launch → Launch) : (s.updLaunch n f).nextTask = s.nextTask := by unfold State.updLaunch; split <;> rfl
@[simp] theorem State.updLaunch_time (s : State) (n : Nat) (f : Launch → Launch) : (s.updLaunch n f).time = s.time := by unfold State.updLaunch; split <;> rfl
@[simp] theorem State.updLaunch_schcfg (s : State) (n : Nat) (f : Launch → Launch) : (s.updLaunch n f).schcfg = s.schcfg := by unfold State.updLaunch; split <;> rfl
@[simp] theorem State.updLaunch_thcfg (s : State) (n : Nat) (f : Launch → Launch) : (s.updLaunch n f).thcfg = s.thcfg := by unfold State.updLaunch; split <;> rfl
@[simp] theorem State.updLaunch_ctcfg (s : State) (n : Nat) (f : Launch → Launch) : (s.updLaunch n f).ctcfg = s.ctcfg := by unfold State.updLaunch; split <;> rfl
@[simp] theorem State.updLaunch_ctWritten (s : State) (n : Nat) (f : Launch → Launch) : (s.updLaunch n f).ctWritten = s.ctWritten := by unfold State.updLaunch; split <;> rfl
@[simp] theorem State.updLaunch_ctLost (s : State) (n : Nat) (f : Launch → Launch) : (s.updLaunch n f).ctLost = s.ctLost := by unfold State.updLaunch; split <;> rfl
@[simp] theorem State.updLaunch_ctNext (s : State) (n : Nat) (f : Launch → Launch) : (s.updLaunch n f).ctNext = s.ctNext := by unfold State.updLaunch; split <;> rfl
@[simp] theorem State.updLaunch_fpool (s : State) (n : Nat) (f : Launch → Launch) : (s.updLaunch n f).fpool = s.fpool := by unfold State.updLaunch; split <;> rfl
@[simp] theorem State.updLaunch_pzh (s : State) (n : Nat) (f : Launch → Launch) : (s.updLaunch n f).pzh = s.pzh := by unfold State.updLaunch; split <;> rfl
@[simp] theorem State.updLaunch_queues (s : State) (n : Nat) (f : Launch → Launch) : (s.updLaunch n f).queues = s.queues := by unfold State.updLaunch; split <;> rfl
@[simp] theorem State.updLaunch_served (s : State) (n : Nat) (f : Launch → Launch) : (s.updLaunch n f).served = s.served := by unfold State.updLaunch; split <;> rfl
@[simp] theorem State.updLaunch_graphs (s : State) (n : Nat) (f : Launch → Launch) : (s.updLaunch n f).graphs = s.graphs := by unfold State.updLaunch; split <;> rfl
@[simp] theorem State.updLaunch_slots (s : State) (n : Nat) (f : Launch → Launch) : (s.updLaunch n f).slots = s.slots := by unfold State.updLaunch; split <;> rfl
@[simp] theorem State.updLaunch_pageWait (s : State) (n : Nat) (f : Launch → Launch) : (s.updLaunch n f).pageWait = s.pageWait := by unfold State.updLaunch; split <;> rfl
@[simp] theorem State.updLaunch_prgEnabled (s : State) (n : Nat) (f : Launch → Launch) : (s.updLaunch n f).prgEnabled = s.prgEnabled := by unfold State.updLaunch; split <;> rfl
@[simp] theorem State.updLaunch_prgSlots (s : State) (n : Nat) (f : Launch → Launch) : (s.updLaunch n f).prgSlots = s.prgSlots := by unfold State.updLaunch; split <;> rfl
@[simp] theorem State.updLaunch_pasidEnabled (s : State) (n : Nat) (f : Launch → Launch) : (s.updLaunch n f).pasidEnabled = s.pasidEnabled := by unfold State.updLaunch; split <;> rfl
@[simp] theorem State.updLaunch_gathers (s : State) (n : Nat) (f : Launch → Launch) : (s.updLaunch n f).gathers = s.gathers := by unfold State.updLaunch; split <;> rfl
@[simp] theorem State.updLaunch_nextIdent (s : State) (n : Nat) (f : Launch → Launch) : (s.updLaunch n f).nextIdent = s.nextIdent := by unfold State.updLaunch; split <;> rfl
@[simp] theorem State.updLaunch_sounding (s : State) (n : Nat) (f : Launch → Launch) : (s.updLaunch n f).sounding = s.sounding := by unfold State.updLaunch; split <;> rfl
@[simp] theorem State.updLaunch_log (s : State) (n : Nat) (f : Launch → Launch) : (s.updLaunch n f).log = s.log := by unfold State.updLaunch; split <;> rfl
@[simp] theorem State.updLaunch_flashLog (s : State) (n : Nat) (f : Launch → Launch) : (s.updLaunch n f).flashLog = s.flashLog := by unfold State.updLaunch; split <;> rfl
@[simp] theorem State.updLaunch_nextLog (s : State) (n : Nat) (f : Launch → Launch) : (s.updLaunch n f).nextLog = s.nextLog := by unfold State.updLaunch; split <;> rfl
@[simp] theorem State.updLaunch_ceCount (s : State) (n : Nat) (f : Launch → Launch) : (s.updLaunch n f).ceCount = s.ceCount := by unfold State.updLaunch; split <;> rfl
@[simp] theorem State.updLaunch_ceUnits (s : State) (n : Nat) (f : Launch → Launch) : (s.updLaunch n f).ceUnits = s.ceUnits := by unfold State.updLaunch; split <;> rfl
@[simp] theorem State.updLaunch_ceSecond (s : State) (n : Nat) (f : Launch → Launch) : (s.updLaunch n f).ceSecond = s.ceSecond := by unfold State.updLaunch; split <;> rfl
@[simp] theorem State.updLaunch_pkghot (s : State) (n : Nat) (f : Launch → Launch) : (s.updLaunch n f).pkghot = s.pkghot := by unfold State.updLaunch; split <;> rfl
@[simp] theorem State.updLaunch_layerFlash (s : State) (n : Nat) (f : Launch → Launch) : (s.updLaunch n f).layerFlash = s.layerFlash := by unfold State.updLaunch; split <;> rfl
@[simp] theorem State.updLaunch_bmarg (s : State) (n : Nat) (f : Launch → Launch) : (s.updLaunch n f).bmarg = s.bmarg := by unfold State.updLaunch; split <;> rfl
@[simp] theorem State.updLaunch_bmrsp (s : State) (n : Nat) (f : Launch → Launch) : (s.updLaunch n f).bmrsp = s.bmrsp := by unfold State.updLaunch; split <;> rfl
@[simp] theorem State.updLaunch_bmst (s : State) (n : Nat) (f : Launch → Launch) : (s.updLaunch n f).bmst = s.bmst := by unfold State.updLaunch; split <;> rfl
@[simp] theorem State.updLaunch_bmlen (s : State) (n : Nat) (f : Launch → Launch) : (s.updLaunch n f).bmlen = s.bmlen := by unfold State.updLaunch; split <;> rfl
@[simp] theorem State.updLaunch_bmheld (s : State) (n : Nat) (f : Launch → Launch) : (s.updLaunch n f).bmheld = s.bmheld := by unfold State.updLaunch; split <;> rfl
@[simp] theorem State.updLaunch_fw (s : State) (n : Nat) (f : Launch → Launch) : (s.updLaunch n f).fw = s.fw := by unfold State.updLaunch; split <;> rfl
@[simp] theorem State.updLaunch_spdm (s : State) (n : Nat) (f : Launch → Launch) : (s.updLaunch n f).spdm = s.spdm := by unfold State.updLaunch; split <;> rfl
@[simp] theorem State.updLaunch_msix (s : State) (n : Nat) (f : Launch → Launch) : (s.updLaunch n f).msix = s.msix := by unfold State.updLaunch; split <;> rfl
@[simp] theorem State.updLaunch_pba (s : State) (n : Nat) (f : Launch → Launch) : (s.updLaunch n f).pba = s.pba := by unfold State.updLaunch; split <;> rfl
@[simp] theorem State.updLaunch_hdmBase (s : State) (n : Nat) (f : Launch → Launch) : (s.updLaunch n f).hdmBase = s.hdmBase := by unfold State.updLaunch; split <;> rfl
@[simp] theorem State.updLaunch_hdmSize (s : State) (n : Nat) (f : Launch → Launch) : (s.updLaunch n f).hdmSize = s.hdmSize := by unfold State.updLaunch; split <;> rfl
@[simp] theorem State.updLaunch_netcfg (s : State) (n : Nat) (f : Launch → Launch) : (s.updLaunch n f).netcfg = s.netcfg := by unfold State.updLaunch; split <;> rfl
@[simp] theorem State.updLaunch_netllr (s : State) (n : Nat) (f : Launch → Launch) : (s.updLaunch n f).netllr = s.netllr := by unfold State.updLaunch; split <;> rfl
@[simp] theorem State.updLaunch_blcfg (s : State) (n : Nat) (f : Launch → Launch) : (s.updLaunch n f).blcfg = s.blcfg := by unfold State.updLaunch; split <;> rfl
@[simp] theorem State.updLaunch_routes (s : State) (n : Nat) (f : Launch → Launch) : (s.updLaunch n f).routes = s.routes := by unfold State.updLaunch; split <;> rfl
@[simp] theorem State.updLaunch_peers (s : State) (n : Nat) (f : Launch → Launch) : (s.updLaunch n f).peers = s.peers := by unfold State.updLaunch; split <;> rfl
@[simp] theorem State.updLaunch_endpoints (s : State) (n : Nat) (f : Launch → Launch) : (s.updLaunch n f).endpoints = s.endpoints := by unfold State.updLaunch; split <;> rfl
@[simp] theorem State.updLaunch_work (s : State) (n : Nat) (f : Launch → Launch) : (s.updLaunch n f).work = s.work := by unfold State.updLaunch; split <;> rfl
@[simp] theorem State.updLaunch_netTurn (s : State) (n : Nat) (f : Launch → Launch) : (s.updLaunch n f).netTurn = s.netTurn := by unfold State.updLaunch; split <;> rfl
@[simp] theorem State.updLaunch_rud (s : State) (n : Nat) (f : Launch → Launch) : (s.updLaunch n f).rud = s.rud := by unfold State.updLaunch; split <;> rfl
@[simp] theorem State.updLaunch_rod (s : State) (n : Nat) (f : Launch → Launch) : (s.updLaunch n f).rod = s.rod := by unfold State.updLaunch; split <;> rfl
@[simp] theorem State.updLaunch_benlar (s : State) (n : Nat) (f : Launch → Launch) : (s.updLaunch n f).benlar = s.benlar := by unfold State.updLaunch; split <;> rfl
@[simp] theorem State.updLaunch_eth (s : State) (n : Nat) (f : Launch → Launch) : (s.updLaunch n f).eth = s.eth := by unfold State.updLaunch; split <;> rfl
@[simp] theorem State.updLaunch_commcfg (s : State) (n : Nat) (f : Launch → Launch) : (s.updLaunch n f).commcfg = s.commcfg := by unfold State.updLaunch; split <;> rfl
@[simp] theorem State.updLaunch_jscfg (s : State) (n : Nat) (f : Launch → Launch) : (s.updLaunch n f).jscfg = s.jscfg := by unfold State.updLaunch; split <;> rfl
@[simp] theorem State.updLaunch_comms (s : State) (n : Nat) (f : Launch → Launch) : (s.updLaunch n f).comms = s.comms := by unfold State.updLaunch; split <;> rfl
@[simp] theorem State.updLaunch_jets (s : State) (n : Nat) (f : Launch → Launch) : (s.updLaunch n f).jets = s.jets := by unfold State.updLaunch; split <;> rfl
@[simp] theorem State.updLaunch_jgraphs (s : State) (n : Nat) (f : Launch → Launch) : (s.updLaunch n f).jgraphs = s.jgraphs := by unfold State.updLaunch; split <;> rfl
@[simp] theorem State.updLaunch_engines (s : State) (n : Nat) (f : Launch → Launch) : (s.updLaunch n f).engines = s.engines := by unfold State.updLaunch; split <;> rfl
@[simp] theorem State.updLaunch_jetTurn (s : State) (n : Nat) (f : Launch → Launch) : (s.updLaunch n f).jetTurn = s.jetTurn := by unfold State.updLaunch; split <;> rfl
@[simp] theorem State.updLaunch_nextRun (s : State) (n : Nat) (f : Launch → Launch) : (s.updLaunch n f).nextRun = s.nextRun := by unfold State.updLaunch; split <;> rfl
@[simp] theorem State.updLaunch_outbox (s : State) (n : Nat) (f : Launch → Launch) : (s.updLaunch n f).outbox = s.outbox := by unfold State.updLaunch; split <;> rfl
@[simp] theorem State.updLaunch_at_hart (s : State) (n : Nat) (f : Launch → Launch) (g : Nat) : (s.updLaunch n f).hart g = s.hart g := by unfold State.updLaunch; split <;> rfl
@[simp] theorem State.updLaunch_at_ctx (s : State) (n : Nat) (f : Launch → Launch) (g : Nat) : (s.updLaunch n f).ctx g = s.ctx g := by unfold State.updLaunch; split <;> rfl
@[simp] theorem State.updLaunch_at_x (s : State) (n : Nat) (f : Launch → Launch) (g : Nat) (r : BitVec 7) : (s.updLaunch n f).x g r = s.x g r := by unfold State.updLaunch; split <;> rfl
@[simp] theorem State.updLaunch_at_pc (s : State) (n : Nat) (f : Launch → Launch) (g : Nat) : (s.updLaunch n f).pc g = s.pc g := by unfold State.updLaunch; split <;> rfl
@[simp] theorem State.updLaunch_at_core (s : State) (n : Nat) (f : Launch → Launch) (d : Nat) : (s.updLaunch n f).core d = s.core d := by unfold State.updLaunch; split <;> rfl
@[simp] theorem State.updLaunch_at_cluster (s : State) (n : Nat) (f : Launch → Launch) (d : Nat) : (s.updLaunch n f).cluster d = s.cluster d := by unfold State.updLaunch; split <;> rfl
@[simp] theorem State.updLaunch_at_tower (s : State) (n : Nat) (f : Launch → Launch) (d : Nat) : (s.updLaunch n f).tower d = s.tower d := by unfold State.updLaunch; split <;> rfl
@[simp] theorem State.updLaunch_at_tile (s : State) (n : Nat) (f : Launch → Launch) (d : Nat) : (s.updLaunch n f).tile d = s.tile d := by unfold State.updLaunch; split <;> rfl
@[simp] theorem State.updLaunch_at_taskOf (s : State) (n : Nat) (f : Launch → Launch) (m : Nat) : (s.updLaunch n f).taskOf m = s.taskOf m := by unfold State.updLaunch; split <;> rfl

@[simp] theorem State.updTask_agenda (s : State) (n : Nat) (f : Task → Task) : (s.updTask n f).agenda = s.agenda := by unfold State.updTask; split <;> rfl
@[simp] theorem State.updTask_turn (s : State) (n : Nat) (f : Task → Task) : (s.updTask n f).turn = s.turn := by unfold State.updTask; split <;> rfl
@[simp] theorem State.updTask_fresh (s : State) (n : Nat) (f : Task → Task) : (s.updTask n f).fresh = s.fresh := by unfold State.updTask; split <;> rfl
@[simp] theorem State.updTask_harts (s : State) (n : Nat) (f : Task → Task) : (s.updTask n f).harts = s.harts := by unfold State.updTask; split <;> rfl
@[simp] theorem State.updTask_cores (s : State) (n : Nat) (f : Task → Task) : (s.updTask n f).cores = s.cores := by unfold State.updTask; split <;> rfl
@[simp] theorem State.updTask_clusters (s : State) (n : Nat) (f : Task → Task) : (s.updTask n f).clusters = s.clusters := by unfold State.updTask; split <;> rfl
@[simp] theorem State.updTask_towers (s : State) (n : Nat) (f : Task → Task) : (s.updTask n f).towers = s.towers := by unfold State.updTask; split <;> rfl
@[simp] theorem State.updTask_mem (s : State) (n : Nat) (f : Task → Task) : (s.updTask n f).mem = s.mem := by unfold State.updTask; split <;> rfl
@[simp] theorem State.updTask_poison (s : State) (n : Nat) (f : Task → Task) : (s.updTask n f).poison = s.poison := by unfold State.updTask; split <;> rfl
@[simp] theorem State.updTask_tiles (s : State) (n : Nat) (f : Task → Task) : (s.updTask n f).tiles = s.tiles := by unfold State.updTask; split <;> rfl
@[simp] theorem State.updTask_mmu (s : State) (n : Nat) (f : Task → Task) : (s.updTask n f).mmu = s.mmu := by unfold State.updTask; split <;> rfl
@[simp] theorem State.updTask_depoch (s : State) (n : Nat) (f : Task → Task) : (s.updTask n f).depoch = s.depoch := by unfold State.updTask; split <;> rfl
@[simp] theorem State.updTask_launches (s : State) (n : Nat) (f : Task → Task) : (s.updTask n f).launches = s.launches := by unfold State.updTask; split <;> rfl
@[simp] theorem State.updTask_gens (s : State) (n : Nat) (f : Task → Task) : (s.updTask n f).gens = s.gens := by unfold State.updTask; split <;> rfl
@[simp] theorem State.updTask_nextTask (s : State) (n : Nat) (f : Task → Task) : (s.updTask n f).nextTask = s.nextTask := by unfold State.updTask; split <;> rfl
@[simp] theorem State.updTask_time (s : State) (n : Nat) (f : Task → Task) : (s.updTask n f).time = s.time := by unfold State.updTask; split <;> rfl
@[simp] theorem State.updTask_schcfg (s : State) (n : Nat) (f : Task → Task) : (s.updTask n f).schcfg = s.schcfg := by unfold State.updTask; split <;> rfl
@[simp] theorem State.updTask_thcfg (s : State) (n : Nat) (f : Task → Task) : (s.updTask n f).thcfg = s.thcfg := by unfold State.updTask; split <;> rfl
@[simp] theorem State.updTask_ctcfg (s : State) (n : Nat) (f : Task → Task) : (s.updTask n f).ctcfg = s.ctcfg := by unfold State.updTask; split <;> rfl
@[simp] theorem State.updTask_ctWritten (s : State) (n : Nat) (f : Task → Task) : (s.updTask n f).ctWritten = s.ctWritten := by unfold State.updTask; split <;> rfl
@[simp] theorem State.updTask_ctLost (s : State) (n : Nat) (f : Task → Task) : (s.updTask n f).ctLost = s.ctLost := by unfold State.updTask; split <;> rfl
@[simp] theorem State.updTask_ctNext (s : State) (n : Nat) (f : Task → Task) : (s.updTask n f).ctNext = s.ctNext := by unfold State.updTask; split <;> rfl
@[simp] theorem State.updTask_fpool (s : State) (n : Nat) (f : Task → Task) : (s.updTask n f).fpool = s.fpool := by unfold State.updTask; split <;> rfl
@[simp] theorem State.updTask_pzh (s : State) (n : Nat) (f : Task → Task) : (s.updTask n f).pzh = s.pzh := by unfold State.updTask; split <;> rfl
@[simp] theorem State.updTask_queues (s : State) (n : Nat) (f : Task → Task) : (s.updTask n f).queues = s.queues := by unfold State.updTask; split <;> rfl
@[simp] theorem State.updTask_served (s : State) (n : Nat) (f : Task → Task) : (s.updTask n f).served = s.served := by unfold State.updTask; split <;> rfl
@[simp] theorem State.updTask_graphs (s : State) (n : Nat) (f : Task → Task) : (s.updTask n f).graphs = s.graphs := by unfold State.updTask; split <;> rfl
@[simp] theorem State.updTask_slots (s : State) (n : Nat) (f : Task → Task) : (s.updTask n f).slots = s.slots := by unfold State.updTask; split <;> rfl
@[simp] theorem State.updTask_pageWait (s : State) (n : Nat) (f : Task → Task) : (s.updTask n f).pageWait = s.pageWait := by unfold State.updTask; split <;> rfl
@[simp] theorem State.updTask_prgEnabled (s : State) (n : Nat) (f : Task → Task) : (s.updTask n f).prgEnabled = s.prgEnabled := by unfold State.updTask; split <;> rfl
@[simp] theorem State.updTask_prgSlots (s : State) (n : Nat) (f : Task → Task) : (s.updTask n f).prgSlots = s.prgSlots := by unfold State.updTask; split <;> rfl
@[simp] theorem State.updTask_pasidEnabled (s : State) (n : Nat) (f : Task → Task) : (s.updTask n f).pasidEnabled = s.pasidEnabled := by unfold State.updTask; split <;> rfl
@[simp] theorem State.updTask_gathers (s : State) (n : Nat) (f : Task → Task) : (s.updTask n f).gathers = s.gathers := by unfold State.updTask; split <;> rfl
@[simp] theorem State.updTask_nextIdent (s : State) (n : Nat) (f : Task → Task) : (s.updTask n f).nextIdent = s.nextIdent := by unfold State.updTask; split <;> rfl
@[simp] theorem State.updTask_sounding (s : State) (n : Nat) (f : Task → Task) : (s.updTask n f).sounding = s.sounding := by unfold State.updTask; split <;> rfl
@[simp] theorem State.updTask_log (s : State) (n : Nat) (f : Task → Task) : (s.updTask n f).log = s.log := by unfold State.updTask; split <;> rfl
@[simp] theorem State.updTask_flashLog (s : State) (n : Nat) (f : Task → Task) : (s.updTask n f).flashLog = s.flashLog := by unfold State.updTask; split <;> rfl
@[simp] theorem State.updTask_nextLog (s : State) (n : Nat) (f : Task → Task) : (s.updTask n f).nextLog = s.nextLog := by unfold State.updTask; split <;> rfl
@[simp] theorem State.updTask_ceCount (s : State) (n : Nat) (f : Task → Task) : (s.updTask n f).ceCount = s.ceCount := by unfold State.updTask; split <;> rfl
@[simp] theorem State.updTask_ceUnits (s : State) (n : Nat) (f : Task → Task) : (s.updTask n f).ceUnits = s.ceUnits := by unfold State.updTask; split <;> rfl
@[simp] theorem State.updTask_ceSecond (s : State) (n : Nat) (f : Task → Task) : (s.updTask n f).ceSecond = s.ceSecond := by unfold State.updTask; split <;> rfl
@[simp] theorem State.updTask_pkghot (s : State) (n : Nat) (f : Task → Task) : (s.updTask n f).pkghot = s.pkghot := by unfold State.updTask; split <;> rfl
@[simp] theorem State.updTask_layerFlash (s : State) (n : Nat) (f : Task → Task) : (s.updTask n f).layerFlash = s.layerFlash := by unfold State.updTask; split <;> rfl
@[simp] theorem State.updTask_bmarg (s : State) (n : Nat) (f : Task → Task) : (s.updTask n f).bmarg = s.bmarg := by unfold State.updTask; split <;> rfl
@[simp] theorem State.updTask_bmrsp (s : State) (n : Nat) (f : Task → Task) : (s.updTask n f).bmrsp = s.bmrsp := by unfold State.updTask; split <;> rfl
@[simp] theorem State.updTask_bmst (s : State) (n : Nat) (f : Task → Task) : (s.updTask n f).bmst = s.bmst := by unfold State.updTask; split <;> rfl
@[simp] theorem State.updTask_bmlen (s : State) (n : Nat) (f : Task → Task) : (s.updTask n f).bmlen = s.bmlen := by unfold State.updTask; split <;> rfl
@[simp] theorem State.updTask_bmheld (s : State) (n : Nat) (f : Task → Task) : (s.updTask n f).bmheld = s.bmheld := by unfold State.updTask; split <;> rfl
@[simp] theorem State.updTask_fw (s : State) (n : Nat) (f : Task → Task) : (s.updTask n f).fw = s.fw := by unfold State.updTask; split <;> rfl
@[simp] theorem State.updTask_spdm (s : State) (n : Nat) (f : Task → Task) : (s.updTask n f).spdm = s.spdm := by unfold State.updTask; split <;> rfl
@[simp] theorem State.updTask_msix (s : State) (n : Nat) (f : Task → Task) : (s.updTask n f).msix = s.msix := by unfold State.updTask; split <;> rfl
@[simp] theorem State.updTask_pba (s : State) (n : Nat) (f : Task → Task) : (s.updTask n f).pba = s.pba := by unfold State.updTask; split <;> rfl
@[simp] theorem State.updTask_hdmBase (s : State) (n : Nat) (f : Task → Task) : (s.updTask n f).hdmBase = s.hdmBase := by unfold State.updTask; split <;> rfl
@[simp] theorem State.updTask_hdmSize (s : State) (n : Nat) (f : Task → Task) : (s.updTask n f).hdmSize = s.hdmSize := by unfold State.updTask; split <;> rfl
@[simp] theorem State.updTask_netcfg (s : State) (n : Nat) (f : Task → Task) : (s.updTask n f).netcfg = s.netcfg := by unfold State.updTask; split <;> rfl
@[simp] theorem State.updTask_netllr (s : State) (n : Nat) (f : Task → Task) : (s.updTask n f).netllr = s.netllr := by unfold State.updTask; split <;> rfl
@[simp] theorem State.updTask_blcfg (s : State) (n : Nat) (f : Task → Task) : (s.updTask n f).blcfg = s.blcfg := by unfold State.updTask; split <;> rfl
@[simp] theorem State.updTask_routes (s : State) (n : Nat) (f : Task → Task) : (s.updTask n f).routes = s.routes := by unfold State.updTask; split <;> rfl
@[simp] theorem State.updTask_peers (s : State) (n : Nat) (f : Task → Task) : (s.updTask n f).peers = s.peers := by unfold State.updTask; split <;> rfl
@[simp] theorem State.updTask_endpoints (s : State) (n : Nat) (f : Task → Task) : (s.updTask n f).endpoints = s.endpoints := by unfold State.updTask; split <;> rfl
@[simp] theorem State.updTask_work (s : State) (n : Nat) (f : Task → Task) : (s.updTask n f).work = s.work := by unfold State.updTask; split <;> rfl
@[simp] theorem State.updTask_netTurn (s : State) (n : Nat) (f : Task → Task) : (s.updTask n f).netTurn = s.netTurn := by unfold State.updTask; split <;> rfl
@[simp] theorem State.updTask_rud (s : State) (n : Nat) (f : Task → Task) : (s.updTask n f).rud = s.rud := by unfold State.updTask; split <;> rfl
@[simp] theorem State.updTask_rod (s : State) (n : Nat) (f : Task → Task) : (s.updTask n f).rod = s.rod := by unfold State.updTask; split <;> rfl
@[simp] theorem State.updTask_benlar (s : State) (n : Nat) (f : Task → Task) : (s.updTask n f).benlar = s.benlar := by unfold State.updTask; split <;> rfl
@[simp] theorem State.updTask_eth (s : State) (n : Nat) (f : Task → Task) : (s.updTask n f).eth = s.eth := by unfold State.updTask; split <;> rfl
@[simp] theorem State.updTask_commcfg (s : State) (n : Nat) (f : Task → Task) : (s.updTask n f).commcfg = s.commcfg := by unfold State.updTask; split <;> rfl
@[simp] theorem State.updTask_jscfg (s : State) (n : Nat) (f : Task → Task) : (s.updTask n f).jscfg = s.jscfg := by unfold State.updTask; split <;> rfl
@[simp] theorem State.updTask_comms (s : State) (n : Nat) (f : Task → Task) : (s.updTask n f).comms = s.comms := by unfold State.updTask; split <;> rfl
@[simp] theorem State.updTask_jets (s : State) (n : Nat) (f : Task → Task) : (s.updTask n f).jets = s.jets := by unfold State.updTask; split <;> rfl
@[simp] theorem State.updTask_jgraphs (s : State) (n : Nat) (f : Task → Task) : (s.updTask n f).jgraphs = s.jgraphs := by unfold State.updTask; split <;> rfl
@[simp] theorem State.updTask_engines (s : State) (n : Nat) (f : Task → Task) : (s.updTask n f).engines = s.engines := by unfold State.updTask; split <;> rfl
@[simp] theorem State.updTask_jetTurn (s : State) (n : Nat) (f : Task → Task) : (s.updTask n f).jetTurn = s.jetTurn := by unfold State.updTask; split <;> rfl
@[simp] theorem State.updTask_nextRun (s : State) (n : Nat) (f : Task → Task) : (s.updTask n f).nextRun = s.nextRun := by unfold State.updTask; split <;> rfl
@[simp] theorem State.updTask_outbox (s : State) (n : Nat) (f : Task → Task) : (s.updTask n f).outbox = s.outbox := by unfold State.updTask; split <;> rfl
@[simp] theorem State.updTask_at_hart (s : State) (n : Nat) (f : Task → Task) (g : Nat) : (s.updTask n f).hart g = s.hart g := by unfold State.updTask; split <;> rfl
@[simp] theorem State.updTask_at_ctx (s : State) (n : Nat) (f : Task → Task) (g : Nat) : (s.updTask n f).ctx g = s.ctx g := by unfold State.updTask; split <;> rfl
@[simp] theorem State.updTask_at_x (s : State) (n : Nat) (f : Task → Task) (g : Nat) (r : BitVec 7) : (s.updTask n f).x g r = s.x g r := by unfold State.updTask; split <;> rfl
@[simp] theorem State.updTask_at_pc (s : State) (n : Nat) (f : Task → Task) (g : Nat) : (s.updTask n f).pc g = s.pc g := by unfold State.updTask; split <;> rfl
@[simp] theorem State.updTask_at_core (s : State) (n : Nat) (f : Task → Task) (d : Nat) : (s.updTask n f).core d = s.core d := by unfold State.updTask; split <;> rfl
@[simp] theorem State.updTask_at_cluster (s : State) (n : Nat) (f : Task → Task) (d : Nat) : (s.updTask n f).cluster d = s.cluster d := by unfold State.updTask; split <;> rfl
@[simp] theorem State.updTask_at_tower (s : State) (n : Nat) (f : Task → Task) (d : Nat) : (s.updTask n f).tower d = s.tower d := by unfold State.updTask; split <;> rfl
@[simp] theorem State.updTask_at_tile (s : State) (n : Nat) (f : Task → Task) (d : Nat) : (s.updTask n f).tile d = s.tile d := by unfold State.updTask; split <;> rfl
@[simp] theorem State.updTask_at_launch (s : State) (n : Nat) (f : Task → Task) (m : Nat) : (s.updTask n f).launch m = s.launch m := by unfold State.updTask; split <;> rfl

/-- The harts after one is replaced. -/
@[simp] theorem State.hart_setHart (s : State) (h g : Nat) (v : Hart) : (s.setHart h v).hart g = if h = g then v else s.hart g :=
  Tbl.get_set _ _ _ _ _

@[simp] theorem State.ctx_setHart (s : State) (h g : Nat) (v : Hart) : (s.setHart h v).ctx g = if h = g then v.ctx else s.ctx g := by
  simp only [State.ctx, State.hart_setHart]; split <;> rfl

theorem State.setHart_setHart_hart (s : State) (h : Nat) (u v : Hart) (g : Nat) :
    ((s.setHart h u).setHart h v).hart g = (s.setHart h v).hart g := by
  simp only [State.hart_setHart]; split <;> simp_all

/-- The units after one is changed. -/
@[simp] theorem State.core_updCore (s : State) (c d : Nat) (f : Core → Core) : (s.updCore c f).core d = if c = d then f (s.core c) else s.core d :=
  Tbl.get_set _ _ _ _ _

@[simp] theorem State.cluster_updCluster (s : State) (c d : Nat) (f : Cluster → Cluster) :
    (s.updCluster c f).cluster d = if c = d then f (s.cluster c) else s.cluster d := Tbl.get_set _ _ _ _ _

@[simp] theorem State.tower_updTower (s : State) (c d : Nat) (f : Tower → Tower) :
    (s.updTower c f).tower d = if c = d then f (s.tower c) else s.tower d := Tbl.get_set _ _ _ _ _

@[simp] theorem State.tile_updTile (s : State) (c d : Nat) (f : TileMark → TileMark) :
    (s.updTile c f).tile d = if c = d then f (s.tile c) else s.tile d := Tbl.get_set _ _ _ _ _

@[simp] theorem State.send_outbox (s : State) (k : OutKind) (d : List Nat) : (s.send k d).outbox = s.outbox ++ [{ kind := k, data := d }] := rfl

/-- A launch after a change of one. -/
theorem State.launch_updLaunch (s : State) (n m : Nat) (f : Launch → Launch) :
    (s.updLaunch n f).launch m = if n = m then (s.launch n).map f else s.launch m := by
  unfold State.updLaunch
  split
  · simp only [State.launch] at *
    rw [Tbl.find_set]; split <;> simp_all
  · split <;> simp_all [State.launch]

/-- A task after a change of one. -/
theorem State.taskOf_updTask (s : State) (n m : Nat) (f : Task → Task) :
    (s.updTask n f).taskOf m = if n = m then (s.taskOf n).map f else s.taskOf m := by
  unfold State.updTask
  split
  · simp only [State.taskOf] at *
    rw [Tbl.find_set]; split <;> simp_all
  · split <;> simp_all [State.taskOf]

/-- x[r] after a write of x[d] (R18). -/
theorem State.x_setX (s : State) (h g : Nat) (d r : BitVec 7) (v : Word) :
    (s.setX h d v).x g r = if h = g ∧ r = d ∧ d ≠ 0 then v else s.x g r := by
  unfold State.setX
  split
  · simp_all
  · simp only [State.updCtx_eq, State.x, State.ctx_setHart]
    by_cases hg : h = g
    · subst hg
      by_cases hr : r = 0
      · by_cases hd : d = 0 <;> simp_all
        intro; simp_all
      · simp only [hr, if_false, if_true, true_and, Tbl.get_set]
        by_cases hrd : r = d
        · subst hrd; simp_all
        · have : ¬ d.toNat = r.toNat := fun e => hrd (BitVec.eq_of_toNat_eq e.symm)
          simp [this, hrd, State.ctx]
    · simp [hg]

/-- x0 reads as zero (R18). -/
@[simp] theorem State.x_zero (s : State) (h : Nat) : s.x h 0 = 0 := by simp [State.x]

/-- A write of x0 is discarded (R18). -/
@[simp] theorem State.setX_zero (s : State) (h : Nat) (v : Word) : s.setX h 0 v = s := by simp [State.setX]

end Sys2Proof.Machine
end

