-- ==== Sys2Proof/Laws/Ops.lean ====
section
/-! SUPPORT. What each shared operation can do, once for all its callers: retiring, writing memory, finishing a word, a word of the
scalar front, the issue of a queue word, and trap entry. -/

namespace Sys2Proof.Machine

open Sys2Proof

/-! ### Counting and retiring -/

/-- Counting an event changes a counter and nothing else. -/
theorem count_sameCores (s : State) (c n k : Nat) : SameCores s (s.count c n k) := by
  intro d
  simp only [State.count_eq, State.core_updCore]
  split
  · subst_vars; rfl
  · rfl

@[simp] theorem count_hart (s : State) (c n k g : Nat) : (s.count c n k).hart g = s.hart g := rfl
@[simp] theorem count_mem (s : State) (c n k : Nat) : (s.count c n k).mem = s.mem := rfl
@[simp] theorem count_ctx (s : State) (c n k g : Nat) : (s.count c n k).ctx g = s.ctx g := rfl
@[simp] theorem count_x (s : State) (c n k g : Nat) (r : BitVec 7) : (s.count c n k).x g r = s.x g r := rfl

/-- Counting leaves the package as it was. -/
theorem count_onlyHart (s : State) (c n k h : Nat) : OnlyHart s (s.count c n k) h :=
  ⟨rfl, count_sameCores s c n k, fun _ _ => rfl⟩

/-- Replacing hart h changes hart h alone. -/
theorem setHart_onlyHart (s : State) (h : Nat) (v : Hart) : OnlyHart s (s.setHart h v) h :=
  ⟨rfl, fun _ => rfl, fun g hg => by simp [State.hart_setHart, Ne.symm hg]⟩

/-- Changes of one hart compose. -/
theorem OnlyHart.trans {s t u : State} {h : Nat} (a : OnlyHart s t h) (b : OnlyHart t u h) : OnlyHart s u h := by
  obtain ⟨a1, a2, a3⟩ := a
  obtain ⟨b1, b2, b3⟩ := b
  refine ⟨?_, fun c => ?_, fun g hg => (b3 g hg).trans (a3 g hg)⟩
  · rw [← a1, ← b1]
  · have h1 := a2 c
    have h2 := b2 c
    rw [← h1, ← h2]

/-- The hart after its word has retired to a PC. -/
theorem retireTo_hart (s : State) (h : Nat) (pc : Word) :
    (s.retireTo h pc).hart h = frontDone (s.hart h) { s.ctx h with pc := pc } := by
  simp only [State.retireTo, count_hart, State.hart_setHart, if_true]; rfl

/-- Retiring changes its hart and a counter. -/
theorem retireTo_onlyHart (s : State) (h : Nat) (pc : Word) : OnlyHart s (s.retireTo h pc) h :=
  (setHart_onlyHart s h _).trans (count_onlyHart _ _ _ _ _)

@[simp] theorem retireTo_x (s : State) (h : Nat) (pc : Word) (g : Nat) (r : BitVec 7) : (s.retireTo h pc).x g r = s.x g r := by
  simp only [State.retireTo, State.x]
  by_cases hg : h = g
  · subst hg; simp [State.ctx]
  · simp [hg]

@[simp] theorem retireTo_mem (s : State) (h : Nat) (pc : Word) : (s.retireTo h pc).mem = s.mem := rfl

/-- A write of x[d] changes its hart alone. -/
theorem setX_onlyHart (s : State) (h : Nat) (d : BitVec 7) (v : Word) : OnlyHart s (s.setX h d v) h := by
  unfold State.setX
  split
  · exact ⟨rfl, fun _ => rfl, fun _ _ => rfl⟩
  · exact setHart_onlyHart s h _

/-- The context after a write of x[d]: the register file apart, what it was. -/
theorem setX_ctx (s : State) (h : Nat) (d : BitVec 7) (v : Word) :
    (s.setX h d v).hart h = { s.hart h with ctx := { s.ctx h with x := ((s.setX h d v).ctx h).x } } := by
  unfold State.setX
  split
  · rfl
  · simp [State.updCtx_eq, State.ctx]

/-- x[d] := v and on to a PC: the whole effect of a word of the scalar front that only computes. -/
theorem setX_retireTo (s : State) (h : Nat) (d : BitVec 7) (v pc : Word) :
    RetiresWith s ((s.setX h d v).retireTo h pc) h d v { s.ctx h with pc := pc } := by
  refine ⟨(setX_onlyHart s h d v).trans (retireTo_onlyHart _ h pc), ?_, fun r => ?_⟩
  · have e : (((s.setX h d v).retireTo h pc).ctx h).x = ((s.setX h d v).ctx h).x := by
      rw [State.ctx, retireTo_hart]; rfl
    have hx := setX_ctx s h d v
    rw [e, retireTo_hart]
    generalize ((s.setX h d v).ctx h).x = xs at hx
    rw [State.ctx, hx]
    rfl
  · rw [retireTo_x, State.x_setX]; simp

@[simp] theorem setX_pc (s : State) (h : Nat) (d : BitVec 7) (v : Word) (g : Nat) : (s.setX h d v).pc g = s.pc g := by
  unfold State.setX State.pc
  split
  · rfl
  · simp only [State.updCtx_eq, State.ctx_setHart]
    split
    · subst_vars; rfl
    · rfl

/-- The same with PC moving past the word. -/
theorem setX_retire (s : State) (h : Nat) (d : BitVec 7) (v : Word) : RetiresWith s ((s.setX h d v).retire h) h d v (s.past h) := by
  unfold State.retire
  rw [setX_pc]
  exact setX_retireTo s h d v _

/-! ### Outcomes -/

@[simp] theorem isNext_next (t : State) : IsNext (.next t) := ⟨t, rfl⟩

@[simp] theorem isNext_ite (c : Prop) [Decidable c] (a b : Out1) (ha : IsNext a) (hb : IsNext b) : IsNext (if c then a else b) := by
  split <;> assumption

/-- A word that may stop always has a next state. -/
@[simp] theorem finish_isNext (s : State) (h : Nat) (m : M Unit) : IsNext (s.finish h m) := by
  unfold State.finish
  split <;> exact ⟨_, rfl⟩

@[simp] theorem scalarWord_isNext (k : Bool) (w : Nat) (s : State) (m : M Unit) : IsNext (scalarWord k w s m) := by
  unfold scalarWord
  split
  · exact finish_isNext _ _ _
  · exact ⟨_, rfl⟩

@[simp] theorem alu_isNext (k : Bool) (w : Nat) (d : BitVec 7) (v : Word) (s : State) : IsNext (alu k w d v s) := by
  unfold alu
  split <;> exact ⟨_, rfl⟩

@[simp] theorem supervisor_isNext (w : Nat) (s : State) (o : Out1) (h : IsNext o) : IsNext (supervisor w s o) := by
  unfold supervisor
  split
  · exact h
  · exact ⟨_, rfl⟩

@[simp] theorem issueWith_isNext (i : Instr) (w : Nat) (done : Bool) (act : QEntry → M Unit) (s : State) : IsNext (issueWith i w done act s) := by
  unfold issueWith
  dsimp only
  split
  · exact ⟨_, rfl⟩
  · split
    · exact ⟨_, rfl⟩
    · split
      · exact ⟨_, rfl⟩
      · split
        · exact ⟨_, rfl⟩
        · exact finish_isNext _ _ _

@[simp] theorem issue_isNext (i : Instr) (w : Nat) (s : State) : IsNext (issue i w s) := issueWith_isNext _ _ _ _ _

/-- A word of the scalar front with K = 1 whose meaning completes in t. -/
theorem scalarWord_ok {w : Nat} {s t : State} {m : M Unit} (h : m.run s = .ok () t) : scalarWord true w s m = .next t := by
  simp [scalarWord, State.finish, h]

/-- A word of the scalar front with K = 0 raises CONV (R75). -/
theorem scalarWord_conv (w : Nat) (s : State) (m : M Unit) : scalarWord false w s m = .next (s.trapEntry s.turn cCONV (word w)) := rfl

/-- x[d] := v with K = 1. -/
theorem alu_next (w : Nat) (d : BitVec 7) (v : Word) (s : State) :
    ∃ t, alu true w d v s = .next t ∧ RetiresWith s t s.turn d v (s.past s.turn) := ⟨_, rfl, setX_retire _ _ _ _⟩

/-- The issue of a queue word that meets every rule: it enters the queue and PC moves on (R36, R41). -/
theorem issue_next {i : Instr} {w : Nat} {s : State} {v : VWord} (hv : vword (s.ctx s.turn) i = some v)
    (hc : s.convoyOk s.turn (v.withOpA (s.entryOf s.turn v w false).opA i) = true)
    (hb : issueBad s s.turn v (s.entryOf s.turn v w false).opA (s.entryOf s.turn v w false).opB i = false)
    (hq : (s.hart s.turn).queue.length < 32) :
    issue i w s = .next (s.enqueue s.turn v.alone (s.entryOf s.turn v w false)) := by
  have h32 : ¬ 32 ≤ (s.hart s.turn).queue.length := by omega
  simp only [issue, issueWith, hv, hc, hb, h32, Bool.not_true, Bool.false_eq_true, if_false, decide_false]
  rfl

/-! ### Memory -/

@[simp] theorem healPoison_mem (s : State) (pa len : Nat) : (s.healPoison pa len).mem = s.mem := by
  unfold State.healPoison; split <;> rfl

@[simp] theorem breakResv_mem (s : State) (own : Option Nat) (pa len : Nat) : (s.breakResv own pa len).mem = s.mem := by
  unfold State.breakResv; split <;> rfl

@[simp] theorem forwardWrites_mem (s : State) (pa : Nat) (bs : List Byte) : (s.forwardWrites pa bs).mem = s.mem := rfl

/-- A write at home changes exactly its bytes. -/
@[simp] theorem writePa_mem (s : State) (own : Option Nat) (pa : Nat) (bs : List Byte) :
    (s.writePa own pa bs).mem = s.mem.writeBytes pa bs := by
  simp [State.writePa]

/-- It keeps memory canonical. -/
theorem writePa_wf {s : State} (h : s.mem.wf = true) (own : Option Nat) (pa : Nat) (bs : List Byte) : (s.writePa own pa bs).mem.wf = true := by
  rw [writePa_mem]; exact Memory.wf_writeBytes h pa bs

/-- Writes over pieces keep memory canonical. -/
theorem writePieces_wf {s : State} (h : s.mem.wf = true) (own : Option Nat) (ps : List Piece) (v : Nat) :
    (s.writePieces own ps v).mem.wf = true := by
  induction ps generalizing s v with
  | nil => exact h
  | cons p ps ih => exact ih (writePa_wf h own _ _) _

/-- Writes over pieces leave every byte outside them. -/
theorem writePieces_outside (s : State) (own : Option Nat) (ps : List Piece) (v b : Nat)
    (h : ∀ p ∈ ps, b < p.pa ∨ p.pa + p.len ≤ b) : (s.writePieces own ps v).mem.read b = s.mem.read b := by
  induction ps generalizing s v with
  | nil => rfl
  | cons p ps ih =>
    rw [State.writePieces, ih _ _ (fun q hq => h q (List.mem_cons_of_mem _ hq)), writePa_mem,
      Memory.read_writeBytes_outside _ _ _ (by rw [toBytes_length]; exact h p List.mem_cons_self)]

/-- The fields of a frame keep memory canonical. -/
theorem putFields_wf {s : State} (h : s.mem.wf = true) (base : Nat) (fs : List (Nat × Nat × Nat)) : (s.putFields base fs).mem.wf = true := by
  unfold State.putFields
  induction fs generalizing s with
  | nil => exact h
  | cons f fs ih => exact ih (writePa_wf h none _ _)

/-- Reset memory is canonical. -/
theorem reset_wf : State.reset.mem.wf = true := rfl

end Sys2Proof.Machine
end

