-- ==== Sys2Proof/Laws/Monad.lean ====
section
/-! SUPPORT. What a meaning that may stop keeps from the state it starts in, whatever way it ends, by the steps it is made of; and
that translating and resolving an address change nothing but caches and counters. -/

namespace Sys2Proof.Machine

open Sys2Proof

/-- However m ends when run from s, the state it leaves is in relation P to s. -/
def KeepsAt {α : Type} (P : State → State → Prop) (s : State) (m : M α) : Prop :=
  match m.run s with
  | .ok _ t => P s t
  | .error _ t => P s t

/-- However m ends, from every state. -/
def Keeps {α : Type} (P : State → State → Prop) (m : M α) : Prop := ∀ s, KeepsAt P s m

/-- A relation that a sequence of steps composes. -/
structure Composes (P : State → State → Prop) : Prop where
  refl : ∀ s, P s s
  trans : ∀ {s t u}, P s t → P t u → P s u

section
variable {P : State → State → Prop} {α β : Type}

theorem keeps_pure (hP : Composes P) (a : α) : Keeps P (pure a : M α) := fun s => hP.refl s
theorem keeps_throw (hP : Composes P) (e : Stop) : Keeps P (throw e : M α) := fun s => hP.refl s
theorem keeps_get (hP : Composes P) : Keeps P (get : M State) := fun s => hP.refl s
theorem keepsAt_set {s t : State} (h : P s t) : KeepsAt P s (set t : M Unit) := h
theorem keeps_modify {f : State → State} (h : ∀ s, P s (f s)) : Keeps P (modify f : M Unit) := fun s => h s

theorem keepsAt_bind (hP : Composes P) {s : State} {m : M α} {f : α → M β} (hm : KeepsAt P s m)
    (hf : ∀ a t, m.run s = .ok a t → KeepsAt P t (f a)) : KeepsAt P s (m >>= f) := by
  unfold KeepsAt at *
  have e : (m >>= f).run s = match m.run s with | .ok a t => (f a).run t | .error e t => .error e t := by
    simp only [bind, EStateM.bind, EStateM.run]
    cases m s <;> rfl
  rw [e]
  cases hr : m.run s with
  | ok a t =>
    rw [hr] at hm
    have := hf a t hr
    simp only
    cases hr2 : (f a).run t with
    | ok b u => rw [hr2] at this; exact hP.trans hm this
    | error x u => rw [hr2] at this; exact hP.trans hm this
  | error x t => rw [hr] at hm; exact hm

theorem keeps_bind (hP : Composes P) {m : M α} {f : α → M β} (hm : Keeps P m) (hf : ∀ a, Keeps P (f a)) : Keeps P (m >>= f) :=
  fun s => keepsAt_bind hP (hm s) (fun a t _ => hf a t)

/-- A meaning that begins by looking at the state. -/
theorem keeps_get_bind (hP : Composes P) {f : State → M β} (h : ∀ s, KeepsAt P s (f s)) : Keeps P (get >>= f) :=
  fun s => keepsAt_bind hP (hP.refl s) (fun a t e => by cases e; exact h s)

theorem keepsAt_get_bind (hP : Composes P) {s : State} {f : State → M β} (h : KeepsAt P s (f s)) : KeepsAt P s (get >>= f) :=
  keepsAt_bind hP (hP.refl s) (fun a t e => by cases e; exact h)

theorem keeps_trapM (hP : Composes P) (c : Nat) (v : Word) : Keeps P (trapM c v : M α) := keeps_throw hP _
theorem keeps_waitM (hP : Composes P) (w : WaitFor) : Keeps P (waitM w : M α) := keeps_throw hP _

end

/-! ### Translation -/

theorem sideOnly_composes : Composes SideOnly where
  refl s := ⟨rfl, fun _ => rfl⟩
  trans := by
    intro s t u a b
    obtain ⟨a1, a2⟩ := a
    obtain ⟨b1, b2⟩ := b
    refine ⟨?_, fun c => ?_⟩
    · rw [← a1, ← b1]
    · have h1 := a2 c
      have h2 := b2 c
      rw [← h1, ← h2]

theorem count_sideOnly (s : State) (c n k : Nat) : SideOnly s (s.count c n k) := ⟨rfl, count_sameCores s c n k⟩

theorem logConflict_sideOnly (s : State) (lno va : Nat) (es : List TlbEntry) : SideOnly s (s.logConflict lno va es) := by
  have e : (decide (2 ≤ 7) && decide (7 ≤ 6)) = false := rfl
  unfold State.logConflict State.logHealth
  simp only [e, Bool.false_eq_true, if_false]
  exact ⟨rfl, fun _ => rfl⟩

theorem mmu_sideOnly (s : State) (m : Mmu) : SideOnly s { s with mmu := m } := ⟨rfl, fun _ => rfl⟩

theorem drawM_keeps : Keeps SideOnly drawM := fun _ => ⟨rfl, fun _ => rfl⟩

theorem walkFill_keeps (r : Req) (va : Nat) : Keeps SideOnly (walkFill r va) := by
  unfold walkFill
  refine keeps_get_bind sideOnly_composes (fun s => ?_)
  dsimp only
  split
  · split
    · exact sideOnly_composes.refl s
    · exact sideOnly_composes.refl s
    · exact keepsAt_bind sideOnly_composes (drawM_keeps s) (fun k t _ =>
        keeps_bind sideOnly_composes (keeps_modify (fun s => mmu_sideOnly s _)) (fun _ => keeps_pure sideOnly_composes _) t)
  · split
    · exact sideOnly_composes.refl s
    · exact sideOnly_composes.refl s
    · exact keepsAt_bind sideOnly_composes (drawM_keeps s) (fun k t _ =>
        keeps_bind sideOnly_composes (keeps_modify (fun s => mmu_sideOnly s _)) (fun _ => keeps_pure sideOnly_composes _) t)
  · split
    · exact sideOnly_composes.refl s
    · exact sideOnly_composes.refl s
    · exact keepsAt_bind sideOnly_composes (drawM_keeps s) (fun k t _ =>
        keeps_bind sideOnly_composes (keeps_modify (fun s => mmu_sideOnly s _)) (fun _ => keeps_pure sideOnly_composes _) t)

/-- The precise stop of a multi-hit is taken before the access goes on (R346). -/
theorem conflict_keeps (r : Req) {m : M α} (hm : Keeps SideOnly m) :
    Keeps SideOnly ((if r.vec then do throw .conflict; m else m : M α)) := by
  intro s
  split
  · exact keeps_bind sideOnly_composes (keeps_throw sideOnly_composes _) (fun _ => hm) s
  · exact hm s

theorem lookShared_keeps (r : Req) (va : Nat) : Keeps SideOnly (lookShared r va) := by
  unfold lookShared
  refine keeps_get_bind sideOnly_composes (fun s => ?_)
  dsimp only
  split
  · exact sideOnly_composes.refl s
  · exact walkFill_keeps r va s
  · refine keepsAt_bind sideOnly_composes (keepsAt_set ?_) (fun _ t _ => ?_)
    · refine sideOnly_composes.trans ?_ (logConflict_sideOnly _ _ _ _)
      cases r.via <;> exact ⟨rfl, fun _ => rfl⟩
    · exact conflict_keeps r (walkFill_keeps r va) t

theorem lookEntry_keeps (r : Req) (va : Nat) : Keeps SideOnly (lookEntry r va) := by
  unfold lookEntry
  split
  · refine keeps_get_bind sideOnly_composes (fun s => ?_)
    dsimp only
    split
    · exact sideOnly_composes.refl s
    · have after : ∀ c, Keeps SideOnly (do
          match ← lookShared r va with
          | some (some e) =>
            let k ← drawM
            modify (fun s => { s with mmu := { s.mmu with tlb1 := Tbl.upd [] s.mmu.tlb1 c (tlbInsert 12 32 (Config.choice k) e) } })
            return some (some e)
          | o => return o) := fun c => by
        refine keeps_bind sideOnly_composes (lookShared_keeps r va) (fun o => ?_)
        split
        · exact keeps_bind sideOnly_composes drawM_keeps (fun k =>
            keeps_bind sideOnly_composes (keeps_modify (fun s => mmu_sideOnly s _)) (fun _ => keeps_pure sideOnly_composes _))
        · exact keeps_pure sideOnly_composes _
      split
      · exact keepsAt_bind sideOnly_composes (keepsAt_set
          (sideOnly_composes.trans (mmu_sideOnly _ _) (logConflict_sideOnly _ _ _ _))) (fun _ t _ => conflict_keeps r (after _) t)
      · exact keepsAt_bind sideOnly_composes (keepsAt_set (count_sideOnly _ _ _ _)) (fun _ t _ => after _ t)
  · exact lookShared_keeps r va

/-- A request that keeps no leaf for a release (R288) changes no hart as it notes its leaf. -/
theorem keepsLeaf_keeps {r : Req} (hr : r.keep = none) (e : TlbEntry) : Keeps SideOnly (r.keeps e) := by
  unfold Req.keeps
  rw [hr]
  exact keeps_pure sideOnly_composes _

/-- A translation that keeps no leaf for a release changes caches, counters and the log of conflicts only. -/
theorem translate_keeps {r : Req} (hr : r.keep = none) (a : Acc) (va : Nat) : Keeps SideOnly (translate r a va) := by
  have noted : ∀ e (b : Tr), Keeps SideOnly (do r.keeps e; return b) := fun e b =>
    keeps_bind sideOnly_composes (keepsLeaf_keeps hr e) (fun _ => keeps_pure sideOnly_composes _)
  unfold translate
  split
  · exact keeps_pure sideOnly_composes _
  · refine keeps_get_bind sideOnly_composes (fun s => ?_)
    split
    · exact sideOnly_composes.refl s
    · refine keeps_bind sideOnly_composes (lookEntry_keeps r va) (fun o => ?_) s
      split
      · exact keeps_pure sideOnly_composes _
      · exact keeps_pure sideOnly_composes _
      · refine keeps_get_bind sideOnly_composes (fun s => ?_)
        split
        · dsimp only
          split
          · refine keeps_get_bind sideOnly_composes (fun s => ?_) s
            split
            · exact noted _ _ s
            · refine keepsAt_bind sideOnly_composes (drawM_keeps s) (fun k t _ => ?_)
              split
              · exact keeps_bind sideOnly_composes (keeps_modify (fun s => mmu_sideOnly s _)) (fun _ => noted _ _) t
              · exact sideOnly_composes.refl t
          · exact noted _ _ s
        · exact sideOnly_composes.refl s

theorem chase_keeps {r : Req} (hr : r.keep = none) (a : Acc) (len : Nat) (fuel : Nat) : ∀ va hops, Keeps SideOnly (chase r a va len hops fuel) := by
  induction fuel with
  | zero => intro va hops; exact keeps_pure sideOnly_composes _
  | succ n ih =>
    intro va hops
    unfold chase
    refine keeps_bind sideOnly_composes (translate_keeps hr a va) (fun o => ?_)
    split
    · exact keeps_pure sideOnly_composes _
    · exact keeps_pure sideOnly_composes _
    · refine keeps_get_bind sideOnly_composes (fun s => ?_)
      dsimp only
      split
      · exact sideOnly_composes.refl s
      · split
        · exact sideOnly_composes.refl s
        · split
          · exact sideOnly_composes.refl s
          · split
            · exact ih _ _ s
            · split
              · exact keepsAt_bind sideOnly_composes (keeps_waitM sideOnly_composes _ s) (fun _ t _ => sideOnly_composes.refl t)
              · exact sideOnly_composes.refl s

/-- Resolving an access that keeps no leaf changes caches, counters and the log of conflicts only. -/
theorem resolve_keeps {r : Req} (hr : r.keep = none) (a : Acc) (va len : Nat) : Keeps SideOnly (resolve r a va len) := by
  unfold resolve
  split
  · exact keeps_pure sideOnly_composes _
  · dsimp only
    refine keeps_bind sideOnly_composes (chase_keeps hr a _ 5 va 0) (fun o => ?_)
    split
    · exact keeps_pure sideOnly_composes _
    · refine keeps_bind sideOnly_composes (chase_keeps hr a _ 5 _ 0) (fun o => ?_)
      split <;> exact keeps_pure sideOnly_composes _

theorem resolveOr_keeps {r : Req} (hr : r.keep = none) (a : Acc) (cause : Nat) (orig : Word) (va len : Nat) : Keeps SideOnly (resolveOr r a cause orig va len) := by
  unfold resolveOr
  refine keeps_bind sideOnly_composes (resolve_keeps hr a va len) (fun o => ?_)
  split
  · exact keeps_pure sideOnly_composes _
  · unfold stopAccess
    split
    · exact keeps_trapM sideOnly_composes _ _
    · exact keeps_throw sideOnly_composes _
    · exact keeps_trapM sideOnly_composes _ _
    · exact keeps_throw sideOnly_composes _

/-- The memory that a translation leaves. -/
theorem SideOnly.mem {s t : State} (h : SideOnly s t) : t.mem = s.mem := by
  have := congrArg State.mem h.1
  exact this

theorem SideOnly.harts {s t : State} (h : SideOnly s t) : t.harts = s.harts := by
  have := congrArg State.harts h.1
  exact this

end Sys2Proof.Machine
end

