-- ==== Sys2Proof/Laws/PerInstr.lean ====
section
/-! SUPPORT. Decoding an encoded instruction word gives the instruction back, one lemma for every constructor. -/

set_option linter.unusedSimpArgs false

namespace Sys2Proof.Laws.Encoding

open Sys2Proof Sys2Proof.Machine Sys2Proof.Laws

/-- The word of a well-formed instruction decodes to it. -/
def Statement (i : Instr) : Prop := i.wellFormed = true → ∀ w, encode i = some w → decode w = .ok i

/-- From the word as a number to the word. -/
theorem of_nat {i : Instr} {n : Nat} (h : encodeNat i = some n) (hn : n < 2 ^ 32) (hd : i.wellFormed = true → decodeNat n = .ok i) :
    Statement i := by
  intro hw w he
  rw [encode, h, Option.map_some, Option.some.injEq] at he
  subst he
  rw [decode, BitVec.toNat_ofNat, Nat.mod_eq_of_lt hn]
  exact hd hw

/-- A step that is no word has no encoding. -/
theorem of_none {i : Instr} (h : encodeNat i = none) : Statement i := by
  intro _ w he
  rw [encode, h] at he
  exact absurd he (by simp)

theorem vadd (k : Bool) (d : BitVec 7) (a : BitVec 7) (b : BitVec 7) (m : Bool) : Statement (.vadd k d a b m) := by
  have := d.isLt; have := a.isLt; have := b.isLt; have := b2n_lt m
  refine of_nat rfl (wordR_lt k (by decide) (by omega) (by omega) (by omega) (by omega)) (fun hw => ?_)
  obtain ⟨h0, h1, h2, h3, h4, h5⟩ := wordR_fields (m := 0x20) (f := (0 + b2n m)) (d := d.toNat) (a := a.toNat) (b := b.toNat) k (by decide) (by omega) (by omega) (by omega) (by omega)
  rw [decode_20 h0 h1 h2 h3 h4 h5]

  cases m <;> simp [dec20, b2n, chk]

theorem vsub (k : Bool) (d : BitVec 7) (a : BitVec 7) (b : BitVec 7) (m : Bool) : Statement (.vsub k d a b m) := by
  have := d.isLt; have := a.isLt; have := b.isLt; have := b2n_lt m
  refine of_nat rfl (wordR_lt k (by decide) (by omega) (by omega) (by omega) (by omega)) (fun hw => ?_)
  obtain ⟨h0, h1, h2, h3, h4, h5⟩ := wordR_fields (m := 0x20) (f := (2 + b2n m)) (d := d.toNat) (a := a.toNat) (b := b.toNat) k (by decide) (by omega) (by omega) (by omega) (by omega)
  rw [decode_20 h0 h1 h2 h3 h4 h5]

  cases m <;> simp [dec20, b2n, chk]

theorem vmul (k : Bool) (d : BitVec 7) (a : BitVec 7) (b : BitVec 7) (m : Bool) : Statement (.vmul k d a b m) := by
  have := d.isLt; have := a.isLt; have := b.isLt; have := b2n_lt m
  refine of_nat rfl (wordR_lt k (by decide) (by omega) (by omega) (by omega) (by omega)) (fun hw => ?_)
  obtain ⟨h0, h1, h2, h3, h4, h5⟩ := wordR_fields (m := 0x20) (f := (4 + b2n m)) (d := d.toNat) (a := a.toNat) (b := b.toNat) k (by decide) (by omega) (by omega) (by omega) (by omega)
  rw [decode_20 h0 h1 h2 h3 h4 h5]

  cases m <;> simp [dec20, b2n, chk]

theorem vdiv (k : Bool) (d : BitVec 7) (a : BitVec 7) (b : BitVec 7) (m : Bool) : Statement (.vdiv k d a b m) := by
  have := d.isLt; have := a.isLt; have := b.isLt; have := b2n_lt m
  refine of_nat rfl (wordR_lt k (by decide) (by omega) (by omega) (by omega) (by omega)) (fun hw => ?_)
  obtain ⟨h0, h1, h2, h3, h4, h5⟩ := wordR_fields (m := 0x20) (f := (6 + b2n m)) (d := d.toNat) (a := a.toNat) (b := b.toNat) k (by decide) (by omega) (by omega) (by omega) (by omega)
  rw [decode_20 h0 h1 h2 h3 h4 h5]

  cases m <;> simp [dec20, b2n, chk]

theorem vmin (k : Bool) (d : BitVec 7) (a : BitVec 7) (b : BitVec 7) (m : Bool) : Statement (.vmin k d a b m) := by
  have := d.isLt; have := a.isLt; have := b.isLt; have := b2n_lt m
  refine of_nat rfl (wordR_lt k (by decide) (by omega) (by omega) (by omega) (by omega)) (fun hw => ?_)
  obtain ⟨h0, h1, h2, h3, h4, h5⟩ := wordR_fields (m := 0x20) (f := (8 + b2n m)) (d := d.toNat) (a := a.toNat) (b := b.toNat) k (by decide) (by omega) (by omega) (by omega) (by omega)
  rw [decode_20 h0 h1 h2 h3 h4 h5]

  cases m <;> simp [dec20, b2n, chk]

theorem vmax (k : Bool) (d : BitVec 7) (a : BitVec 7) (b : BitVec 7) (m : Bool) : Statement (.vmax k d a b m) := by
  have := d.isLt; have := a.isLt; have := b.isLt; have := b2n_lt m
  refine of_nat rfl (wordR_lt k (by decide) (by omega) (by omega) (by omega) (by omega)) (fun hw => ?_)
  obtain ⟨h0, h1, h2, h3, h4, h5⟩ := wordR_fields (m := 0x20) (f := (10 + b2n m)) (d := d.toNat) (a := a.toNat) (b := b.toNat) k (by decide) (by omega) (by omega) (by omega) (by omega)
  rw [decode_20 h0 h1 h2 h3 h4 h5]

  cases m <;> simp [dec20, b2n, chk]

theorem vaddVx (k : Bool) (d : BitVec 7) (a : BitVec 7) (b : BitVec 7) (m : Bool) : Statement (.vaddVx k d a b m) := by
  have := d.isLt; have := a.isLt; have := b.isLt; have := b2n_lt m
  refine of_nat rfl (wordR_lt k (by decide) (by omega) (by omega) (by omega) (by omega)) (fun hw => ?_)
  obtain ⟨h0, h1, h2, h3, h4, h5⟩ := wordR_fields (m := 0x21) (f := (0 + b2n m)) (d := d.toNat) (a := a.toNat) (b := b.toNat) k (by decide) (by omega) (by omega) (by omega) (by omega)
  rw [decode_21 h0 h1 h2 h3 h4 h5]

  cases m <;> simp [dec21, b2n, chk]

theorem vsubVx (k : Bool) (d : BitVec 7) (a : BitVec 7) (b : BitVec 7) (m : Bool) : Statement (.vsubVx k d a b m) := by
  have := d.isLt; have := a.isLt; have := b.isLt; have := b2n_lt m
  refine of_nat rfl (wordR_lt k (by decide) (by omega) (by omega) (by omega) (by omega)) (fun hw => ?_)
  obtain ⟨h0, h1, h2, h3, h4, h5⟩ := wordR_fields (m := 0x21) (f := (2 + b2n m)) (d := d.toNat) (a := a.toNat) (b := b.toNat) k (by decide) (by omega) (by omega) (by omega) (by omega)
  rw [decode_21 h0 h1 h2 h3 h4 h5]

  cases m <;> simp [dec21, b2n, chk]

theorem vmulVx (k : Bool) (d : BitVec 7) (a : BitVec 7) (b : BitVec 7) (m : Bool) : Statement (.vmulVx k d a b m) := by
  have := d.isLt; have := a.isLt; have := b.isLt; have := b2n_lt m
  refine of_nat rfl (wordR_lt k (by decide) (by omega) (by omega) (by omega) (by omega)) (fun hw => ?_)
  obtain ⟨h0, h1, h2, h3, h4, h5⟩ := wordR_fields (m := 0x21) (f := (4 + b2n m)) (d := d.toNat) (a := a.toNat) (b := b.toNat) k (by decide) (by omega) (by omega) (by omega) (by omega)
  rw [decode_21 h0 h1 h2 h3 h4 h5]

  cases m <;> simp [dec21, b2n, chk]

theorem vdivVx (k : Bool) (d : BitVec 7) (a : BitVec 7) (b : BitVec 7) (m : Bool) : Statement (.vdivVx k d a b m) := by
  have := d.isLt; have := a.isLt; have := b.isLt; have := b2n_lt m
  refine of_nat rfl (wordR_lt k (by decide) (by omega) (by omega) (by omega) (by omega)) (fun hw => ?_)
  obtain ⟨h0, h1, h2, h3, h4, h5⟩ := wordR_fields (m := 0x21) (f := (6 + b2n m)) (d := d.toNat) (a := a.toNat) (b := b.toNat) k (by decide) (by omega) (by omega) (by omega) (by omega)
  rw [decode_21 h0 h1 h2 h3 h4 h5]

  cases m <;> simp [dec21, b2n, chk]

theorem vminVx (k : Bool) (d : BitVec 7) (a : BitVec 7) (b : BitVec 7) (m : Bool) : Statement (.vminVx k d a b m) := by
  have := d.isLt; have := a.isLt; have := b.isLt; have := b2n_lt m
  refine of_nat rfl (wordR_lt k (by decide) (by omega) (by omega) (by omega) (by omega)) (fun hw => ?_)
  obtain ⟨h0, h1, h2, h3, h4, h5⟩ := wordR_fields (m := 0x21) (f := (8 + b2n m)) (d := d.toNat) (a := a.toNat) (b := b.toNat) k (by decide) (by omega) (by omega) (by omega) (by omega)
  rw [decode_21 h0 h1 h2 h3 h4 h5]

  cases m <;> simp [dec21, b2n, chk]

theorem vmaxVx (k : Bool) (d : BitVec 7) (a : BitVec 7) (b : BitVec 7) (m : Bool) : Statement (.vmaxVx k d a b m) := by
  have := d.isLt; have := a.isLt; have := b.isLt; have := b2n_lt m
  refine of_nat rfl (wordR_lt k (by decide) (by omega) (by omega) (by omega) (by omega)) (fun hw => ?_)
  obtain ⟨h0, h1, h2, h3, h4, h5⟩ := wordR_fields (m := 0x21) (f := (10 + b2n m)) (d := d.toNat) (a := a.toNat) (b := b.toNat) k (by decide) (by omega) (by omega) (by omega) (by omega)
  rw [decode_21 h0 h1 h2 h3 h4 h5]

  cases m <;> simp [dec21, b2n, chk]

theorem vfma (k : Bool) (d : BitVec 7) (a : BitVec 7) (b : BitVec 7) (m : Bool) : Statement (.vfma k d a b m) := by
  have := d.isLt; have := a.isLt; have := b.isLt; have := b2n_lt m
  refine of_nat rfl (wordR_lt k (by decide) (by omega) (by omega) (by omega) (by omega)) (fun hw => ?_)
  obtain ⟨h0, h1, h2, h3, h4, h5⟩ := wordR_fields (m := 0x22) (f := (0 + b2n m)) (d := d.toNat) (a := a.toNat) (b := b.toNat) k (by decide) (by omega) (by omega) (by omega) (by omega)
  rw [decode_22 h0 h1 h2 h3 h4 h5]

  cases m <;> simp [dec22, b2n, chk]

theorem vfms (k : Bool) (d : BitVec 7) (a : BitVec 7) (b : BitVec 7) (m : Bool) : Statement (.vfms k d a b m) := by
  have := d.isLt; have := a.isLt; have := b.isLt; have := b2n_lt m
  refine of_nat rfl (wordR_lt k (by decide) (by omega) (by omega) (by omega) (by omega)) (fun hw => ?_)
  obtain ⟨h0, h1, h2, h3, h4, h5⟩ := wordR_fields (m := 0x22) (f := (2 + b2n m)) (d := d.toNat) (a := a.toNat) (b := b.toNat) k (by decide) (by omega) (by omega) (by omega) (by omega)
  rw [decode_22 h0 h1 h2 h3 h4 h5]

  cases m <;> simp [dec22, b2n, chk]

theorem vfnma (k : Bool) (d : BitVec 7) (a : BitVec 7) (b : BitVec 7) (m : Bool) : Statement (.vfnma k d a b m) := by
  have := d.isLt; have := a.isLt; have := b.isLt; have := b2n_lt m
  refine of_nat rfl (wordR_lt k (by decide) (by omega) (by omega) (by omega) (by omega)) (fun hw => ?_)
  obtain ⟨h0, h1, h2, h3, h4, h5⟩ := wordR_fields (m := 0x22) (f := (4 + b2n m)) (d := d.toNat) (a := a.toNat) (b := b.toNat) k (by decide) (by omega) (by omega) (by omega) (by omega)
  rw [decode_22 h0 h1 h2 h3 h4 h5]

  cases m <;> simp [dec22, b2n, chk]

theorem vfnms (k : Bool) (d : BitVec 7) (a : BitVec 7) (b : BitVec 7) (m : Bool) : Statement (.vfnms k d a b m) := by
  have := d.isLt; have := a.isLt; have := b.isLt; have := b2n_lt m
  refine of_nat rfl (wordR_lt k (by decide) (by omega) (by omega) (by omega) (by omega)) (fun hw => ?_)
  obtain ⟨h0, h1, h2, h3, h4, h5⟩ := wordR_fields (m := 0x22) (f := (6 + b2n m)) (d := d.toNat) (a := a.toNat) (b := b.toNat) k (by decide) (by omega) (by omega) (by omega) (by omega)
  rw [decode_22 h0 h1 h2 h3 h4 h5]

  cases m <;> simp [dec22, b2n, chk]

theorem vfmaVx (k : Bool) (d : BitVec 7) (a : BitVec 7) (b : BitVec 7) (m : Bool) : Statement (.vfmaVx k d a b m) := by
  have := d.isLt; have := a.isLt; have := b.isLt; have := b2n_lt m
  refine of_nat rfl (wordR_lt k (by decide) (by omega) (by omega) (by omega) (by omega)) (fun hw => ?_)
  obtain ⟨h0, h1, h2, h3, h4, h5⟩ := wordR_fields (m := 0x22) (f := (8 + b2n m)) (d := d.toNat) (a := a.toNat) (b := b.toNat) k (by decide) (by omega) (by omega) (by omega) (by omega)
  rw [decode_22 h0 h1 h2 h3 h4 h5]

  cases m <;> simp [dec22, b2n, chk]

theorem vfmsVx (k : Bool) (d : BitVec 7) (a : BitVec 7) (b : BitVec 7) (m : Bool) : Statement (.vfmsVx k d a b m) := by
  have := d.isLt; have := a.isLt; have := b.isLt; have := b2n_lt m
  refine of_nat rfl (wordR_lt k (by decide) (by omega) (by omega) (by omega) (by omega)) (fun hw => ?_)
  obtain ⟨h0, h1, h2, h3, h4, h5⟩ := wordR_fields (m := 0x22) (f := (10 + b2n m)) (d := d.toNat) (a := a.toNat) (b := b.toNat) k (by decide) (by omega) (by omega) (by omega) (by omega)
  rw [decode_22 h0 h1 h2 h3 h4 h5]

  cases m <;> simp [dec22, b2n, chk]

theorem vfnmaVx (k : Bool) (d : BitVec 7) (a : BitVec 7) (b : BitVec 7) (m : Bool) : Statement (.vfnmaVx k d a b m) := by
  have := d.isLt; have := a.isLt; have := b.isLt; have := b2n_lt m
  refine of_nat rfl (wordR_lt k (by decide) (by omega) (by omega) (by omega) (by omega)) (fun hw => ?_)
  obtain ⟨h0, h1, h2, h3, h4, h5⟩ := wordR_fields (m := 0x22) (f := (12 + b2n m)) (d := d.toNat) (a := a.toNat) (b := b.toNat) k (by decide) (by omega) (by omega) (by omega) (by omega)
  rw [decode_22 h0 h1 h2 h3 h4 h5]

  cases m <;> simp [dec22, b2n, chk]

theorem vfnmsVx (k : Bool) (d : BitVec 7) (a : BitVec 7) (b : BitVec 7) (m : Bool) : Statement (.vfnmsVx k d a b m) := by
  have := d.isLt; have := a.isLt; have := b.isLt; have := b2n_lt m
  refine of_nat rfl (wordR_lt k (by decide) (by omega) (by omega) (by omega) (by omega)) (fun hw => ?_)
  obtain ⟨h0, h1, h2, h3, h4, h5⟩ := wordR_fields (m := 0x22) (f := (14 + b2n m)) (d := d.toNat) (a := a.toNat) (b := b.toNat) k (by decide) (by omega) (by omega) (by omega) (by omega)
  rw [decode_22 h0 h1 h2 h3 h4 h5]

  cases m <;> simp [dec22, b2n, chk]

theorem vsqrt (k : Bool) (d : BitVec 7) (a : BitVec 7) (m : Bool) : Statement (.vsqrt k d a m) := by
  have := d.isLt; have := a.isLt; have := b2n_lt m
  refine of_nat rfl (wordR_lt k (by decide) (by omega) (by omega) (by omega) (by omega)) (fun hw => ?_)
  obtain ⟨h0, h1, h2, h3, h4, h5⟩ := wordR_fields (m := 0x23) (f := (0 + b2n m)) (d := d.toNat) (a := a.toNat) (b := 0) k (by decide) (by omega) (by omega) (by omega) (by omega)
  rw [decode_23 h0 h1 h2 h3 h4 h5]

  cases m <;> simp [dec23, b2n, chk]

theorem vrsqrt (k : Bool) (d : BitVec 7) (a : BitVec 7) (m : Bool) : Statement (.vrsqrt k d a m) := by
  have := d.isLt; have := a.isLt; have := b2n_lt m
  refine of_nat rfl (wordR_lt k (by decide) (by omega) (by omega) (by omega) (by omega)) (fun hw => ?_)
  obtain ⟨h0, h1, h2, h3, h4, h5⟩ := wordR_fields (m := 0x23) (f := (2 + b2n m)) (d := d.toNat) (a := a.toNat) (b := 0) k (by decide) (by omega) (by omega) (by omega) (by omega)
  rw [decode_23 h0 h1 h2 h3 h4 h5]

  cases m <;> simp [dec23, b2n, chk]

theorem vexp (k : Bool) (d : BitVec 7) (a : BitVec 7) (m : Bool) : Statement (.vexp k d a m) := by
  have := d.isLt; have := a.isLt; have := b2n_lt m
  refine of_nat rfl (wordR_lt k (by decide) (by omega) (by omega) (by omega) (by omega)) (fun hw => ?_)
  obtain ⟨h0, h1, h2, h3, h4, h5⟩ := wordR_fields (m := 0x23) (f := (4 + b2n m)) (d := d.toNat) (a := a.toNat) (b := 0) k (by decide) (by omega) (by omega) (by omega) (by omega)
  rw [decode_23 h0 h1 h2 h3 h4 h5]

  cases m <;> simp [dec23, b2n, chk]

theorem vlog (k : Bool) (d : BitVec 7) (a : BitVec 7) (m : Bool) : Statement (.vlog k d a m) := by
  have := d.isLt; have := a.isLt; have := b2n_lt m
  refine of_nat rfl (wordR_lt k (by decide) (by omega) (by omega) (by omega) (by omega)) (fun hw => ?_)
  obtain ⟨h0, h1, h2, h3, h4, h5⟩ := wordR_fields (m := 0x23) (f := (6 + b2n m)) (d := d.toNat) (a := a.toNat) (b := 0) k (by decide) (by omega) (by omega) (by omega) (by omega)
  rw [decode_23 h0 h1 h2 h3 h4 h5]

  cases m <;> simp [dec23, b2n, chk]

theorem vtanh (k : Bool) (d : BitVec 7) (a : BitVec 7) (m : Bool) : Statement (.vtanh k d a m) := by
  have := d.isLt; have := a.isLt; have := b2n_lt m
  refine of_nat rfl (wordR_lt k (by decide) (by omega) (by omega) (by omega) (by omega)) (fun hw => ?_)
  obtain ⟨h0, h1, h2, h3, h4, h5⟩ := wordR_fields (m := 0x23) (f := (8 + b2n m)) (d := d.toNat) (a := a.toNat) (b := 0) k (by decide) (by omega) (by omega) (by omega) (by omega)
  rw [decode_23 h0 h1 h2 h3 h4 h5]

  cases m <;> simp [dec23, b2n, chk]

theorem vsigmoid (k : Bool) (d : BitVec 7) (a : BitVec 7) (m : Bool) : Statement (.vsigmoid k d a m) := by
  have := d.isLt; have := a.isLt; have := b2n_lt m
  refine of_nat rfl (wordR_lt k (by decide) (by omega) (by omega) (by omega) (by omega)) (fun hw => ?_)
  obtain ⟨h0, h1, h2, h3, h4, h5⟩ := wordR_fields (m := 0x23) (f := (10 + b2n m)) (d := d.toNat) (a := a.toNat) (b := 0) k (by decide) (by omega) (by omega) (by omega) (by omega)
  rw [decode_23 h0 h1 h2 h3 h4 h5]

  cases m <;> simp [dec23, b2n, chk]

theorem vfloor (k : Bool) (d : BitVec 7) (a : BitVec 7) (m : Bool) : Statement (.vfloor k d a m) := by
  have := d.isLt; have := a.isLt; have := b2n_lt m
  refine of_nat rfl (wordR_lt k (by decide) (by omega) (by omega) (by omega) (by omega)) (fun hw => ?_)
  obtain ⟨h0, h1, h2, h3, h4, h5⟩ := wordR_fields (m := 0x23) (f := (12 + b2n m)) (d := d.toNat) (a := a.toNat) (b := 0) k (by decide) (by omega) (by omega) (by omega) (by omega)
  rw [decode_23 h0 h1 h2 h3 h4 h5]

  cases m <;> simp [dec23, b2n, chk]

theorem vround (k : Bool) (d : BitVec 7) (a : BitVec 7) (m : Bool) : Statement (.vround k d a m) := by
  have := d.isLt; have := a.isLt; have := b2n_lt m
  refine of_nat rfl (wordR_lt k (by decide) (by omega) (by omega) (by omega) (by omega)) (fun hw => ?_)
  obtain ⟨h0, h1, h2, h3, h4, h5⟩ := wordR_fields (m := 0x23) (f := (14 + b2n m)) (d := d.toNat) (a := a.toNat) (b := 0) k (by decide) (by omega) (by omega) (by omega) (by omega)
  rw [decode_23 h0 h1 h2 h3 h4 h5]

  cases m <;> simp [dec23, b2n, chk]

theorem vabs (k : Bool) (d : BitVec 7) (a : BitVec 7) (m : Bool) : Statement (.vabs k d a m) := by
  have := d.isLt; have := a.isLt; have := b2n_lt m
  refine of_nat rfl (wordR_lt k (by decide) (by omega) (by omega) (by omega) (by omega)) (fun hw => ?_)
  obtain ⟨h0, h1, h2, h3, h4, h5⟩ := wordR_fields (m := 0x24) (f := (0 + b2n m)) (d := d.toNat) (a := a.toNat) (b := 0) k (by decide) (by omega) (by omega) (by omega) (by omega)
  rw [decode_24 h0 h1 h2 h3 h4 h5]

  cases m <;> simp [dec24, b2n, chk]

theorem vneg (k : Bool) (d : BitVec 7) (a : BitVec 7) (m : Bool) : Statement (.vneg k d a m) := by
  have := d.isLt; have := a.isLt; have := b2n_lt m
  refine of_nat rfl (wordR_lt k (by decide) (by omega) (by omega) (by omega) (by omega)) (fun hw => ?_)
  obtain ⟨h0, h1, h2, h3, h4, h5⟩ := wordR_fields (m := 0x24) (f := (2 + b2n m)) (d := d.toNat) (a := a.toNat) (b := 0) k (by decide) (by omega) (by omega) (by omega) (by omega)
  rw [decode_24 h0 h1 h2 h3 h4 h5]

  cases m <;> simp [dec24, b2n, chk]

theorem vrelu (k : Bool) (d : BitVec 7) (a : BitVec 7) (m : Bool) : Statement (.vrelu k d a m) := by
  have := d.isLt; have := a.isLt; have := b2n_lt m
  refine of_nat rfl (wordR_lt k (by decide) (by omega) (by omega) (by omega) (by omega)) (fun hw => ?_)
  obtain ⟨h0, h1, h2, h3, h4, h5⟩ := wordR_fields (m := 0x24) (f := (4 + b2n m)) (d := d.toNat) (a := a.toNat) (b := 0) k (by decide) (by omega) (by omega) (by omega) (by omega)
  rw [decode_24 h0 h1 h2 h3 h4 h5]

  cases m <;> simp [dec24, b2n, chk]

theorem vmov (k : Bool) (d : BitVec 7) (a : BitVec 7) (m : Bool) : Statement (.vmov k d a m) := by
  have := d.isLt; have := a.isLt; have := b2n_lt m
  refine of_nat rfl (wordR_lt k (by decide) (by omega) (by omega) (by omega) (by omega)) (fun hw => ?_)
  obtain ⟨h0, h1, h2, h3, h4, h5⟩ := wordR_fields (m := 0x24) (f := (6 + b2n m)) (d := d.toNat) (a := a.toNat) (b := 0) k (by decide) (by omega) (by omega) (by omega) (by omega)
  rw [decode_24 h0 h1 h2 h3 h4 h5]

  cases m <;> simp [dec24, b2n, chk]

theorem veq (k : Bool) (d : BitVec 3) (a : BitVec 7) (b : BitVec 7) (m : Bool) : Statement (.veq k d a b m) := by
  have := d.isLt; have := a.isLt; have := b.isLt; have := b2n_lt m
  refine of_nat rfl (wordR_lt k (by decide) (by omega) (by omega) (by omega) (by omega)) (fun hw => ?_)
  obtain ⟨h0, h1, h2, h3, h4, h5⟩ := wordR_fields (m := 0x25) (f := (0 + b2n m)) (d := d.toNat) (a := a.toNat) (b := b.toNat) k (by decide) (by omega) (by omega) (by omega) (by omega)
  rw [decode_25 h0 h1 h2 h3 h4 h5]
  clear h0 h1 h2 h3 h4 h5
  cases m <;> simp [dec25, b2n, chk, *]

theorem vne (k : Bool) (d : BitVec 3) (a : BitVec 7) (b : BitVec 7) (m : Bool) : Statement (.vne k d a b m) := by
  have := d.isLt; have := a.isLt; have := b.isLt; have := b2n_lt m
  refine of_nat rfl (wordR_lt k (by decide) (by omega) (by omega) (by omega) (by omega)) (fun hw => ?_)
  obtain ⟨h0, h1, h2, h3, h4, h5⟩ := wordR_fields (m := 0x25) (f := (2 + b2n m)) (d := d.toNat) (a := a.toNat) (b := b.toNat) k (by decide) (by omega) (by omega) (by omega) (by omega)
  rw [decode_25 h0 h1 h2 h3 h4 h5]
  clear h0 h1 h2 h3 h4 h5
  cases m <;> simp [dec25, b2n, chk, *]

theorem vlt (k : Bool) (d : BitVec 3) (a : BitVec 7) (b : BitVec 7) (m : Bool) : Statement (.vlt k d a b m) := by
  have := d.isLt; have := a.isLt; have := b.isLt; have := b2n_lt m
  refine of_nat rfl (wordR_lt k (by decide) (by omega) (by omega) (by omega) (by omega)) (fun hw => ?_)
  obtain ⟨h0, h1, h2, h3, h4, h5⟩ := wordR_fields (m := 0x25) (f := (4 + b2n m)) (d := d.toNat) (a := a.toNat) (b := b.toNat) k (by decide) (by omega) (by omega) (by omega) (by omega)
  rw [decode_25 h0 h1 h2 h3 h4 h5]
  clear h0 h1 h2 h3 h4 h5
  cases m <;> simp [dec25, b2n, chk, *]

theorem vle (k : Bool) (d : BitVec 3) (a : BitVec 7) (b : BitVec 7) (m : Bool) : Statement (.vle k d a b m) := by
  have := d.isLt; have := a.isLt; have := b.isLt; have := b2n_lt m
  refine of_nat rfl (wordR_lt k (by decide) (by omega) (by omega) (by omega) (by omega)) (fun hw => ?_)
  obtain ⟨h0, h1, h2, h3, h4, h5⟩ := wordR_fields (m := 0x25) (f := (6 + b2n m)) (d := d.toNat) (a := a.toNat) (b := b.toNat) k (by decide) (by omega) (by omega) (by omega) (by omega)
  rw [decode_25 h0 h1 h2 h3 h4 h5]
  clear h0 h1 h2 h3 h4 h5
  cases m <;> simp [dec25, b2n, chk, *]

theorem veqVx (k : Bool) (d : BitVec 3) (a : BitVec 7) (b : BitVec 7) (m : Bool) : Statement (.veqVx k d a b m) := by
  have := d.isLt; have := a.isLt; have := b.isLt; have := b2n_lt m
  refine of_nat rfl (wordR_lt k (by decide) (by omega) (by omega) (by omega) (by omega)) (fun hw => ?_)
  obtain ⟨h0, h1, h2, h3, h4, h5⟩ := wordR_fields (m := 0x25) (f := (8 + b2n m)) (d := d.toNat) (a := a.toNat) (b := b.toNat) k (by decide) (by omega) (by omega) (by omega) (by omega)
  rw [decode_25 h0 h1 h2 h3 h4 h5]
  clear h0 h1 h2 h3 h4 h5
  cases m <;> simp [dec25, b2n, chk, *]

theorem vneVx (k : Bool) (d : BitVec 3) (a : BitVec 7) (b : BitVec 7) (m : Bool) : Statement (.vneVx k d a b m) := by
  have := d.isLt; have := a.isLt; have := b.isLt; have := b2n_lt m
  refine of_nat rfl (wordR_lt k (by decide) (by omega) (by omega) (by omega) (by omega)) (fun hw => ?_)
  obtain ⟨h0, h1, h2, h3, h4, h5⟩ := wordR_fields (m := 0x25) (f := (10 + b2n m)) (d := d.toNat) (a := a.toNat) (b := b.toNat) k (by decide) (by omega) (by omega) (by omega) (by omega)
  rw [decode_25 h0 h1 h2 h3 h4 h5]
  clear h0 h1 h2 h3 h4 h5
  cases m <;> simp [dec25, b2n, chk, *]

theorem vltVx (k : Bool) (d : BitVec 3) (a : BitVec 7) (b : BitVec 7) (m : Bool) : Statement (.vltVx k d a b m) := by
  have := d.isLt; have := a.isLt; have := b.isLt; have := b2n_lt m
  refine of_nat rfl (wordR_lt k (by decide) (by omega) (by omega) (by omega) (by omega)) (fun hw => ?_)
  obtain ⟨h0, h1, h2, h3, h4, h5⟩ := wordR_fields (m := 0x25) (f := (12 + b2n m)) (d := d.toNat) (a := a.toNat) (b := b.toNat) k (by decide) (by omega) (by omega) (by omega) (by omega)
  rw [decode_25 h0 h1 h2 h3 h4 h5]
  clear h0 h1 h2 h3 h4 h5
  cases m <;> simp [dec25, b2n, chk, *]

theorem vleVx (k : Bool) (d : BitVec 3) (a : BitVec 7) (b : BitVec 7) (m : Bool) : Statement (.vleVx k d a b m) := by
  have := d.isLt; have := a.isLt; have := b.isLt; have := b2n_lt m
  refine of_nat rfl (wordR_lt k (by decide) (by omega) (by omega) (by omega) (by omega)) (fun hw => ?_)
  obtain ⟨h0, h1, h2, h3, h4, h5⟩ := wordR_fields (m := 0x25) (f := (14 + b2n m)) (d := d.toNat) (a := a.toNat) (b := b.toNat) k (by decide) (by omega) (by omega) (by omega) (by omega)
  rw [decode_25 h0 h1 h2 h3 h4 h5]
  clear h0 h1 h2 h3 h4 h5
  cases m <;> simp [dec25, b2n, chk, *]

theorem vsel (k : Bool) (d : BitVec 7) (a : BitVec 7) (b : BitVec 7) : Statement (.vsel k d a b) := by
  have := d.isLt; have := a.isLt; have := b.isLt
  refine of_nat rfl (wordR_lt k (by decide) (by omega) (by omega) (by omega) (by omega)) (fun hw => ?_)
  obtain ⟨h0, h1, h2, h3, h4, h5⟩ := wordR_fields (m := 0x26) (f := 0) (d := d.toNat) (a := a.toNat) (b := b.toNat) k (by decide) (by omega) (by omega) (by omega) (by omega)
  rw [decode_26 h0 h1 h2 h3 h4 h5]

  simp [dec26, b2n, chk]

theorem qand (k : Bool) (d : BitVec 3) (a : BitVec 3) (b : BitVec 3) : Statement (.qand k d a b) := by
  have := d.isLt; have := a.isLt; have := b.isLt
  refine of_nat rfl (wordR_lt k (by decide) (by omega) (by omega) (by omega) (by omega)) (fun hw => ?_)
  obtain ⟨h0, h1, h2, h3, h4, h5⟩ := wordR_fields (m := 0x26) (f := 2) (d := d.toNat) (a := a.toNat) (b := b.toNat) k (by decide) (by omega) (by omega) (by omega) (by omega)
  rw [decode_26 h0 h1 h2 h3 h4 h5]
  clear h0 h1 h2 h3 h4 h5
  simp [dec26, b2n, chk, *]

theorem qor (k : Bool) (d : BitVec 3) (a : BitVec 3) (b : BitVec 3) : Statement (.qor k d a b) := by
  have := d.isLt; have := a.isLt; have := b.isLt
  refine of_nat rfl (wordR_lt k (by decide) (by omega) (by omega) (by omega) (by omega)) (fun hw => ?_)
  obtain ⟨h0, h1, h2, h3, h4, h5⟩ := wordR_fields (m := 0x26) (f := 4) (d := d.toNat) (a := a.toNat) (b := b.toNat) k (by decide) (by omega) (by omega) (by omega) (by omega)
  rw [decode_26 h0 h1 h2 h3 h4 h5]
  clear h0 h1 h2 h3 h4 h5
  simp [dec26, b2n, chk, *]

theorem qxor (k : Bool) (d : BitVec 3) (a : BitVec 3) (b : BitVec 3) : Statement (.qxor k d a b) := by
  have := d.isLt; have := a.isLt; have := b.isLt
  refine of_nat rfl (wordR_lt k (by decide) (by omega) (by omega) (by omega) (by omega)) (fun hw => ?_)
  obtain ⟨h0, h1, h2, h3, h4, h5⟩ := wordR_fields (m := 0x26) (f := 6) (d := d.toNat) (a := a.toNat) (b := b.toNat) k (by decide) (by omega) (by omega) (by omega) (by omega)
  rw [decode_26 h0 h1 h2 h3 h4 h5]
  clear h0 h1 h2 h3 h4 h5
  simp [dec26, b2n, chk, *]

theorem qsub (k : Bool) (d : BitVec 3) (a : BitVec 3) (b : BitVec 3) : Statement (.qsub k d a b) := by
  have := d.isLt; have := a.isLt; have := b.isLt
  refine of_nat rfl (wordR_lt k (by decide) (by omega) (by omega) (by omega) (by omega)) (fun hw => ?_)
  obtain ⟨h0, h1, h2, h3, h4, h5⟩ := wordR_fields (m := 0x26) (f := 8) (d := d.toNat) (a := a.toNat) (b := b.toNat) k (by decide) (by omega) (by omega) (by omega) (by omega)
  rw [decode_26 h0 h1 h2 h3 h4 h5]
  clear h0 h1 h2 h3 h4 h5
  simp [dec26, b2n, chk, *]

theorem qnot (k : Bool) (d : BitVec 3) (a : BitVec 3) : Statement (.qnot k d a) := by
  have := d.isLt; have := a.isLt
  refine of_nat rfl (wordR_lt k (by decide) (by omega) (by omega) (by omega) (by omega)) (fun hw => ?_)
  obtain ⟨h0, h1, h2, h3, h4, h5⟩ := wordR_fields (m := 0x26) (f := 10) (d := d.toNat) (a := a.toNat) (b := 0) k (by decide) (by omega) (by omega) (by omega) (by omega)
  rw [decode_26 h0 h1 h2 h3 h4 h5]
  clear h0 h1 h2 h3 h4 h5
  simp [dec26, b2n, chk, *]

theorem qcpy (k : Bool) (d : BitVec 3) (a : BitVec 3) : Statement (.qcpy k d a) := by
  have := d.isLt; have := a.isLt
  refine of_nat rfl (wordR_lt k (by decide) (by omega) (by omega) (by omega) (by omega)) (fun hw => ?_)
  obtain ⟨h0, h1, h2, h3, h4, h5⟩ := wordR_fields (m := 0x26) (f := 12) (d := d.toNat) (a := a.toNat) (b := 0) k (by decide) (by omega) (by omega) (by omega) (by omega)
  rw [decode_26 h0 h1 h2 h3 h4 h5]
  clear h0 h1 h2 h3 h4 h5
  simp [dec26, b2n, chk, *]

theorem viadd (k : Bool) (d : BitVec 7) (a : BitVec 7) (b : BitVec 7) (m : Bool) : Statement (.viadd k d a b m) := by
  have := d.isLt; have := a.isLt; have := b.isLt; have := b2n_lt m
  refine of_nat rfl (wordR_lt k (by decide) (by omega) (by omega) (by omega) (by omega)) (fun hw => ?_)
  obtain ⟨h0, h1, h2, h3, h4, h5⟩ := wordR_fields (m := 0x27) (f := (0 + b2n m)) (d := d.toNat) (a := a.toNat) (b := b.toNat) k (by decide) (by omega) (by omega) (by omega) (by omega)
  rw [decode_27 h0 h1 h2 h3 h4 h5]

  cases m <;> simp [dec27, b2n, chk]

theorem visub (k : Bool) (d : BitVec 7) (a : BitVec 7) (b : BitVec 7) (m : Bool) : Statement (.visub k d a b m) := by
  have := d.isLt; have := a.isLt; have := b.isLt; have := b2n_lt m
  refine of_nat rfl (wordR_lt k (by decide) (by omega) (by omega) (by omega) (by omega)) (fun hw => ?_)
  obtain ⟨h0, h1, h2, h3, h4, h5⟩ := wordR_fields (m := 0x27) (f := (2 + b2n m)) (d := d.toNat) (a := a.toNat) (b := b.toNat) k (by decide) (by omega) (by omega) (by omega) (by omega)
  rw [decode_27 h0 h1 h2 h3 h4 h5]

  cases m <;> simp [dec27, b2n, chk]

theorem vimul (k : Bool) (d : BitVec 7) (a : BitVec 7) (b : BitVec 7) (m : Bool) : Statement (.vimul k d a b m) := by
  have := d.isLt; have := a.isLt; have := b.isLt; have := b2n_lt m
  refine of_nat rfl (wordR_lt k (by decide) (by omega) (by omega) (by omega) (by omega)) (fun hw => ?_)
  obtain ⟨h0, h1, h2, h3, h4, h5⟩ := wordR_fields (m := 0x27) (f := (4 + b2n m)) (d := d.toNat) (a := a.toNat) (b := b.toNat) k (by decide) (by omega) (by omega) (by omega) (by omega)
  rw [decode_27 h0 h1 h2 h3 h4 h5]

  cases m <;> simp [dec27, b2n, chk]

theorem vimulh (k : Bool) (d : BitVec 7) (a : BitVec 7) (b : BitVec 7) (m : Bool) : Statement (.vimulh k d a b m) := by
  have := d.isLt; have := a.isLt; have := b.isLt; have := b2n_lt m
  refine of_nat rfl (wordR_lt k (by decide) (by omega) (by omega) (by omega) (by omega)) (fun hw => ?_)
  obtain ⟨h0, h1, h2, h3, h4, h5⟩ := wordR_fields (m := 0x27) (f := (6 + b2n m)) (d := d.toNat) (a := a.toNat) (b := b.toNat) k (by decide) (by omega) (by omega) (by omega) (by omega)
  rw [decode_27 h0 h1 h2 h3 h4 h5]

  cases m <;> simp [dec27, b2n, chk]

theorem vimin (k : Bool) (d : BitVec 7) (a : BitVec 7) (b : BitVec 7) (m : Bool) : Statement (.vimin k d a b m) := by
  have := d.isLt; have := a.isLt; have := b.isLt; have := b2n_lt m
  refine of_nat rfl (wordR_lt k (by decide) (by omega) (by omega) (by omega) (by omega)) (fun hw => ?_)
  obtain ⟨h0, h1, h2, h3, h4, h5⟩ := wordR_fields (m := 0x27) (f := (8 + b2n m)) (d := d.toNat) (a := a.toNat) (b := b.toNat) k (by decide) (by omega) (by omega) (by omega) (by omega)
  rw [decode_27 h0 h1 h2 h3 h4 h5]

  cases m <;> simp [dec27, b2n, chk]

theorem vimax (k : Bool) (d : BitVec 7) (a : BitVec 7) (b : BitVec 7) (m : Bool) : Statement (.vimax k d a b m) := by
  have := d.isLt; have := a.isLt; have := b.isLt; have := b2n_lt m
  refine of_nat rfl (wordR_lt k (by decide) (by omega) (by omega) (by omega) (by omega)) (fun hw => ?_)
  obtain ⟨h0, h1, h2, h3, h4, h5⟩ := wordR_fields (m := 0x27) (f := (10 + b2n m)) (d := d.toNat) (a := a.toNat) (b := b.toNat) k (by decide) (by omega) (by omega) (by omega) (by omega)
  rw [decode_27 h0 h1 h2 h3 h4 h5]

  cases m <;> simp [dec27, b2n, chk]

theorem vidiv (k : Bool) (d : BitVec 7) (a : BitVec 7) (b : BitVec 7) (m : Bool) : Statement (.vidiv k d a b m) := by
  have := d.isLt; have := a.isLt; have := b.isLt; have := b2n_lt m
  refine of_nat rfl (wordR_lt k (by decide) (by omega) (by omega) (by omega) (by omega)) (fun hw => ?_)
  obtain ⟨h0, h1, h2, h3, h4, h5⟩ := wordR_fields (m := 0x27) (f := (12 + b2n m)) (d := d.toNat) (a := a.toNat) (b := b.toNat) k (by decide) (by omega) (by omega) (by omega) (by omega)
  rw [decode_27 h0 h1 h2 h3 h4 h5]

  cases m <;> simp [dec27, b2n, chk]

theorem virem (k : Bool) (d : BitVec 7) (a : BitVec 7) (b : BitVec 7) (m : Bool) : Statement (.virem k d a b m) := by
  have := d.isLt; have := a.isLt; have := b.isLt; have := b2n_lt m
  refine of_nat rfl (wordR_lt k (by decide) (by omega) (by omega) (by omega) (by omega)) (fun hw => ?_)
  obtain ⟨h0, h1, h2, h3, h4, h5⟩ := wordR_fields (m := 0x27) (f := (14 + b2n m)) (d := d.toNat) (a := a.toNat) (b := b.toNat) k (by decide) (by omega) (by omega) (by omega) (by omega)
  rw [decode_27 h0 h1 h2 h3 h4 h5]

  cases m <;> simp [dec27, b2n, chk]

theorem vand (k : Bool) (d : BitVec 7) (a : BitVec 7) (b : BitVec 7) (m : Bool) : Statement (.vand k d a b m) := by
  have := d.isLt; have := a.isLt; have := b.isLt; have := b2n_lt m
  refine of_nat rfl (wordR_lt k (by decide) (by omega) (by omega) (by omega) (by omega)) (fun hw => ?_)
  obtain ⟨h0, h1, h2, h3, h4, h5⟩ := wordR_fields (m := 0x28) (f := (0 + b2n m)) (d := d.toNat) (a := a.toNat) (b := b.toNat) k (by decide) (by omega) (by omega) (by omega) (by omega)
  rw [decode_28 h0 h1 h2 h3 h4 h5]

  cases m <;> simp [dec28, b2n, chk]

theorem vor (k : Bool) (d : BitVec 7) (a : BitVec 7) (b : BitVec 7) (m : Bool) : Statement (.vor k d a b m) := by
  have := d.isLt; have := a.isLt; have := b.isLt; have := b2n_lt m
  refine of_nat rfl (wordR_lt k (by decide) (by omega) (by omega) (by omega) (by omega)) (fun hw => ?_)
  obtain ⟨h0, h1, h2, h3, h4, h5⟩ := wordR_fields (m := 0x28) (f := (2 + b2n m)) (d := d.toNat) (a := a.toNat) (b := b.toNat) k (by decide) (by omega) (by omega) (by omega) (by omega)
  rw [decode_28 h0 h1 h2 h3 h4 h5]

  cases m <;> simp [dec28, b2n, chk]

theorem vxor (k : Bool) (d : BitVec 7) (a : BitVec 7) (b : BitVec 7) (m : Bool) : Statement (.vxor k d a b m) := by
  have := d.isLt; have := a.isLt; have := b.isLt; have := b2n_lt m
  refine of_nat rfl (wordR_lt k (by decide) (by omega) (by omega) (by omega) (by omega)) (fun hw => ?_)
  obtain ⟨h0, h1, h2, h3, h4, h5⟩ := wordR_fields (m := 0x28) (f := (4 + b2n m)) (d := d.toNat) (a := a.toNat) (b := b.toNat) k (by decide) (by omega) (by omega) (by omega) (by omega)
  rw [decode_28 h0 h1 h2 h3 h4 h5]

  cases m <;> simp [dec28, b2n, chk]

theorem vsll (k : Bool) (d : BitVec 7) (a : BitVec 7) (b : BitVec 7) (m : Bool) : Statement (.vsll k d a b m) := by
  have := d.isLt; have := a.isLt; have := b.isLt; have := b2n_lt m
  refine of_nat rfl (wordR_lt k (by decide) (by omega) (by omega) (by omega) (by omega)) (fun hw => ?_)
  obtain ⟨h0, h1, h2, h3, h4, h5⟩ := wordR_fields (m := 0x28) (f := (6 + b2n m)) (d := d.toNat) (a := a.toNat) (b := b.toNat) k (by decide) (by omega) (by omega) (by omega) (by omega)
  rw [decode_28 h0 h1 h2 h3 h4 h5]

  cases m <;> simp [dec28, b2n, chk]

theorem vsrl (k : Bool) (d : BitVec 7) (a : BitVec 7) (b : BitVec 7) (m : Bool) : Statement (.vsrl k d a b m) := by
  have := d.isLt; have := a.isLt; have := b.isLt; have := b2n_lt m
  refine of_nat rfl (wordR_lt k (by decide) (by omega) (by omega) (by omega) (by omega)) (fun hw => ?_)
  obtain ⟨h0, h1, h2, h3, h4, h5⟩ := wordR_fields (m := 0x28) (f := (8 + b2n m)) (d := d.toNat) (a := a.toNat) (b := b.toNat) k (by decide) (by omega) (by omega) (by omega) (by omega)
  rw [decode_28 h0 h1 h2 h3 h4 h5]

  cases m <;> simp [dec28, b2n, chk]

theorem vsra (k : Bool) (d : BitVec 7) (a : BitVec 7) (b : BitVec 7) (m : Bool) : Statement (.vsra k d a b m) := by
  have := d.isLt; have := a.isLt; have := b.isLt; have := b2n_lt m
  refine of_nat rfl (wordR_lt k (by decide) (by omega) (by omega) (by omega) (by omega)) (fun hw => ?_)
  obtain ⟨h0, h1, h2, h3, h4, h5⟩ := wordR_fields (m := 0x28) (f := (10 + b2n m)) (d := d.toNat) (a := a.toNat) (b := b.toNat) k (by decide) (by omega) (by omega) (by omega) (by omega)
  rw [decode_28 h0 h1 h2 h3 h4 h5]

  cases m <;> simp [dec28, b2n, chk]

theorem viaddVx (k : Bool) (d : BitVec 7) (a : BitVec 7) (b : BitVec 7) (m : Bool) : Statement (.viaddVx k d a b m) := by
  have := d.isLt; have := a.isLt; have := b.isLt; have := b2n_lt m
  refine of_nat rfl (wordR_lt k (by decide) (by omega) (by omega) (by omega) (by omega)) (fun hw => ?_)
  obtain ⟨h0, h1, h2, h3, h4, h5⟩ := wordR_fields (m := 0x29) (f := (0 + b2n m)) (d := d.toNat) (a := a.toNat) (b := b.toNat) k (by decide) (by omega) (by omega) (by omega) (by omega)
  rw [decode_29 h0 h1 h2 h3 h4 h5]

  cases m <;> simp [dec29, b2n, chk]

theorem vimulVx (k : Bool) (d : BitVec 7) (a : BitVec 7) (b : BitVec 7) (m : Bool) : Statement (.vimulVx k d a b m) := by
  have := d.isLt; have := a.isLt; have := b.isLt; have := b2n_lt m
  refine of_nat rfl (wordR_lt k (by decide) (by omega) (by omega) (by omega) (by omega)) (fun hw => ?_)
  obtain ⟨h0, h1, h2, h3, h4, h5⟩ := wordR_fields (m := 0x29) (f := (2 + b2n m)) (d := d.toNat) (a := a.toNat) (b := b.toNat) k (by decide) (by omega) (by omega) (by omega) (by omega)
  rw [decode_29 h0 h1 h2 h3 h4 h5]

  cases m <;> simp [dec29, b2n, chk]

theorem vandVx (k : Bool) (d : BitVec 7) (a : BitVec 7) (b : BitVec 7) (m : Bool) : Statement (.vandVx k d a b m) := by
  have := d.isLt; have := a.isLt; have := b.isLt; have := b2n_lt m
  refine of_nat rfl (wordR_lt k (by decide) (by omega) (by omega) (by omega) (by omega)) (fun hw => ?_)
  obtain ⟨h0, h1, h2, h3, h4, h5⟩ := wordR_fields (m := 0x29) (f := (4 + b2n m)) (d := d.toNat) (a := a.toNat) (b := b.toNat) k (by decide) (by omega) (by omega) (by omega) (by omega)
  rw [decode_29 h0 h1 h2 h3 h4 h5]

  cases m <;> simp [dec29, b2n, chk]

theorem vorVx (k : Bool) (d : BitVec 7) (a : BitVec 7) (b : BitVec 7) (m : Bool) : Statement (.vorVx k d a b m) := by
  have := d.isLt; have := a.isLt; have := b.isLt; have := b2n_lt m
  refine of_nat rfl (wordR_lt k (by decide) (by omega) (by omega) (by omega) (by omega)) (fun hw => ?_)
  obtain ⟨h0, h1, h2, h3, h4, h5⟩ := wordR_fields (m := 0x29) (f := (6 + b2n m)) (d := d.toNat) (a := a.toNat) (b := b.toNat) k (by decide) (by omega) (by omega) (by omega) (by omega)
  rw [decode_29 h0 h1 h2 h3 h4 h5]

  cases m <;> simp [dec29, b2n, chk]

theorem vxorVx (k : Bool) (d : BitVec 7) (a : BitVec 7) (b : BitVec 7) (m : Bool) : Statement (.vxorVx k d a b m) := by
  have := d.isLt; have := a.isLt; have := b.isLt; have := b2n_lt m
  refine of_nat rfl (wordR_lt k (by decide) (by omega) (by omega) (by omega) (by omega)) (fun hw => ?_)
  obtain ⟨h0, h1, h2, h3, h4, h5⟩ := wordR_fields (m := 0x29) (f := (8 + b2n m)) (d := d.toNat) (a := a.toNat) (b := b.toNat) k (by decide) (by omega) (by omega) (by omega) (by omega)
  rw [decode_29 h0 h1 h2 h3 h4 h5]

  cases m <;> simp [dec29, b2n, chk]

theorem vsllVx (k : Bool) (d : BitVec 7) (a : BitVec 7) (b : BitVec 7) (m : Bool) : Statement (.vsllVx k d a b m) := by
  have := d.isLt; have := a.isLt; have := b.isLt; have := b2n_lt m
  refine of_nat rfl (wordR_lt k (by decide) (by omega) (by omega) (by omega) (by omega)) (fun hw => ?_)
  obtain ⟨h0, h1, h2, h3, h4, h5⟩ := wordR_fields (m := 0x29) (f := (10 + b2n m)) (d := d.toNat) (a := a.toNat) (b := b.toNat) k (by decide) (by omega) (by omega) (by omega) (by omega)
  rw [decode_29 h0 h1 h2 h3 h4 h5]

  cases m <;> simp [dec29, b2n, chk]

theorem vsrlVx (k : Bool) (d : BitVec 7) (a : BitVec 7) (b : BitVec 7) (m : Bool) : Statement (.vsrlVx k d a b m) := by
  have := d.isLt; have := a.isLt; have := b.isLt; have := b2n_lt m
  refine of_nat rfl (wordR_lt k (by decide) (by omega) (by omega) (by omega) (by omega)) (fun hw => ?_)
  obtain ⟨h0, h1, h2, h3, h4, h5⟩ := wordR_fields (m := 0x29) (f := (12 + b2n m)) (d := d.toNat) (a := a.toNat) (b := b.toNat) k (by decide) (by omega) (by omega) (by omega) (by omega)
  rw [decode_29 h0 h1 h2 h3 h4 h5]

  cases m <;> simp [dec29, b2n, chk]

theorem vsraVx (k : Bool) (d : BitVec 7) (a : BitVec 7) (b : BitVec 7) (m : Bool) : Statement (.vsraVx k d a b m) := by
  have := d.isLt; have := a.isLt; have := b.isLt; have := b2n_lt m
  refine of_nat rfl (wordR_lt k (by decide) (by omega) (by omega) (by omega) (by omega)) (fun hw => ?_)
  obtain ⟨h0, h1, h2, h3, h4, h5⟩ := wordR_fields (m := 0x29) (f := (14 + b2n m)) (d := d.toNat) (a := a.toNat) (b := b.toNat) k (by decide) (by omega) (by omega) (by omega) (by omega)
  rw [decode_29 h0 h1 h2 h3 h4 h5]

  cases m <;> simp [dec29, b2n, chk]

theorem vcvtTo (k : Bool) (d : BitVec 7) (a : BitVec 7) (f : BitVec 4) (m : Bool) : Statement (.vcvtTo k d a f m) := by
  have := d.isLt; have := a.isLt; have := f.isLt; have := b2n_lt m
  refine of_nat rfl (wordR_lt k (by decide) (by omega) (by omega) (by omega) (by omega)) (fun hw => ?_)
  obtain ⟨h0, h1, h2, h3, h4, h5⟩ := wordR_fields (m := 0x2A) (f := (0 + b2n m)) (d := d.toNat) (a := a.toNat) (b := f.toNat) k (by decide) (by omega) (by omega) (by omega) (by omega)
  rw [decode_2A h0 h1 h2 h3 h4 h5]
  clear h0 h1 h2 h3 h4 h5
  simp [Instr.wellFormed, assignedFormat] at hw
  cases m <;> simp [dec2A, b2n, chk, *]

theorem vcvtFrom (k : Bool) (d : BitVec 7) (a : BitVec 7) (f : BitVec 4) (m : Bool) : Statement (.vcvtFrom k d a f m) := by
  have := d.isLt; have := a.isLt; have := f.isLt; have := b2n_lt m
  refine of_nat rfl (wordR_lt k (by decide) (by omega) (by omega) (by omega) (by omega)) (fun hw => ?_)
  obtain ⟨h0, h1, h2, h3, h4, h5⟩ := wordR_fields (m := 0x2A) (f := (2 + b2n m)) (d := d.toNat) (a := a.toNat) (b := f.toNat) k (by decide) (by omega) (by omega) (by omega) (by omega)
  rw [decode_2A h0 h1 h2 h3 h4 h5]
  clear h0 h1 h2 h3 h4 h5
  simp [Instr.wellFormed, assignedFormat] at hw
  cases m <;> simp [dec2A, b2n, chk, *]

theorem vredsum (k : Bool) (d : BitVec 7) (a : BitVec 7) (m : Bool) : Statement (.vredsum k d a m) := by
  have := d.isLt; have := a.isLt; have := b2n_lt m
  refine of_nat rfl (wordR_lt k (by decide) (by omega) (by omega) (by omega) (by omega)) (fun hw => ?_)
  obtain ⟨h0, h1, h2, h3, h4, h5⟩ := wordR_fields (m := 0x2B) (f := (0 + b2n m)) (d := d.toNat) (a := a.toNat) (b := 0) k (by decide) (by omega) (by omega) (by omega) (by omega)
  rw [decode_2B h0 h1 h2 h3 h4 h5]

  cases m <;> simp [dec2B, b2n, chk]

theorem vredmax (k : Bool) (d : BitVec 7) (a : BitVec 7) (m : Bool) : Statement (.vredmax k d a m) := by
  have := d.isLt; have := a.isLt; have := b2n_lt m
  refine of_nat rfl (wordR_lt k (by decide) (by omega) (by omega) (by omega) (by omega)) (fun hw => ?_)
  obtain ⟨h0, h1, h2, h3, h4, h5⟩ := wordR_fields (m := 0x2B) (f := (2 + b2n m)) (d := d.toNat) (a := a.toNat) (b := 0) k (by decide) (by omega) (by omega) (by omega) (by omega)
  rw [decode_2B h0 h1 h2 h3 h4 h5]

  cases m <;> simp [dec2B, b2n, chk]

theorem vredmin (k : Bool) (d : BitVec 7) (a : BitVec 7) (m : Bool) : Statement (.vredmin k d a m) := by
  have := d.isLt; have := a.isLt; have := b2n_lt m
  refine of_nat rfl (wordR_lt k (by decide) (by omega) (by omega) (by omega) (by omega)) (fun hw => ?_)
  obtain ⟨h0, h1, h2, h3, h4, h5⟩ := wordR_fields (m := 0x2B) (f := (4 + b2n m)) (d := d.toNat) (a := a.toNat) (b := 0) k (by decide) (by omega) (by omega) (by omega) (by omega)
  rw [decode_2B h0 h1 h2 h3 h4 h5]

  cases m <;> simp [dec2B, b2n, chk]

theorem vredand (k : Bool) (d : BitVec 7) (a : BitVec 7) (m : Bool) : Statement (.vredand k d a m) := by
  have := d.isLt; have := a.isLt; have := b2n_lt m
  refine of_nat rfl (wordR_lt k (by decide) (by omega) (by omega) (by omega) (by omega)) (fun hw => ?_)
  obtain ⟨h0, h1, h2, h3, h4, h5⟩ := wordR_fields (m := 0x2B) (f := (6 + b2n m)) (d := d.toNat) (a := a.toNat) (b := 0) k (by decide) (by omega) (by omega) (by omega) (by omega)
  rw [decode_2B h0 h1 h2 h3 h4 h5]

  cases m <;> simp [dec2B, b2n, chk]

theorem vredor (k : Bool) (d : BitVec 7) (a : BitVec 7) (m : Bool) : Statement (.vredor k d a m) := by
  have := d.isLt; have := a.isLt; have := b2n_lt m
  refine of_nat rfl (wordR_lt k (by decide) (by omega) (by omega) (by omega) (by omega)) (fun hw => ?_)
  obtain ⟨h0, h1, h2, h3, h4, h5⟩ := wordR_fields (m := 0x2B) (f := (8 + b2n m)) (d := d.toNat) (a := a.toNat) (b := 0) k (by decide) (by omega) (by omega) (by omega) (by omega)
  rw [decode_2B h0 h1 h2 h3 h4 h5]

  cases m <;> simp [dec2B, b2n, chk]

theorem vredxor (k : Bool) (d : BitVec 7) (a : BitVec 7) (m : Bool) : Statement (.vredxor k d a m) := by
  have := d.isLt; have := a.isLt; have := b2n_lt m
  refine of_nat rfl (wordR_lt k (by decide) (by omega) (by omega) (by omega) (by omega)) (fun hw => ?_)
  obtain ⟨h0, h1, h2, h3, h4, h5⟩ := wordR_fields (m := 0x2B) (f := (10 + b2n m)) (d := d.toNat) (a := a.toNat) (b := 0) k (by decide) (by omega) (by omega) (by omega) (by omega)
  rw [decode_2B h0 h1 h2 h3 h4 h5]

  cases m <;> simp [dec2B, b2n, chk]

theorem vid (k : Bool) (d : BitVec 7) (m : Bool) : Statement (.vid k d m) := by
  have := d.isLt; have := b2n_lt m
  refine of_nat rfl (wordR_lt k (by decide) (by omega) (by omega) (by omega) (by omega)) (fun hw => ?_)
  obtain ⟨h0, h1, h2, h3, h4, h5⟩ := wordR_fields (m := 0x2C) (f := (0 + b2n m)) (d := d.toNat) (a := 0) (b := 0) k (by decide) (by omega) (by omega) (by omega) (by omega)
  rw [decode_2C h0 h1 h2 h3 h4 h5]

  cases m <;> simp [dec2C, b2n, chk]

theorem vslideup (k : Bool) (d : BitVec 7) (a : BitVec 7) (b : BitVec 7) (m : Bool) : Statement (.vslideup k d a b m) := by
  have := d.isLt; have := a.isLt; have := b.isLt; have := b2n_lt m
  refine of_nat rfl (wordR_lt k (by decide) (by omega) (by omega) (by omega) (by omega)) (fun hw => ?_)
  obtain ⟨h0, h1, h2, h3, h4, h5⟩ := wordR_fields (m := 0x2C) (f := (2 + b2n m)) (d := d.toNat) (a := a.toNat) (b := b.toNat) k (by decide) (by omega) (by omega) (by omega) (by omega)
  rw [decode_2C h0 h1 h2 h3 h4 h5]

  cases m <;> simp [dec2C, b2n, chk]

theorem vslidedn (k : Bool) (d : BitVec 7) (a : BitVec 7) (b : BitVec 7) (m : Bool) : Statement (.vslidedn k d a b m) := by
  have := d.isLt; have := a.isLt; have := b.isLt; have := b2n_lt m
  refine of_nat rfl (wordR_lt k (by decide) (by omega) (by omega) (by omega) (by omega)) (fun hw => ?_)
  obtain ⟨h0, h1, h2, h3, h4, h5⟩ := wordR_fields (m := 0x2C) (f := (4 + b2n m)) (d := d.toNat) (a := a.toNat) (b := b.toNat) k (by decide) (by omega) (by omega) (by omega) (by omega)
  rw [decode_2C h0 h1 h2 h3 h4 h5]

  cases m <;> simp [dec2C, b2n, chk]

theorem vshuf (k : Bool) (d : BitVec 7) (a : BitVec 7) (b : BitVec 7) (m : Bool) : Statement (.vshuf k d a b m) := by
  have := d.isLt; have := a.isLt; have := b.isLt; have := b2n_lt m
  refine of_nat rfl (wordR_lt k (by decide) (by omega) (by omega) (by omega) (by omega)) (fun hw => ?_)
  obtain ⟨h0, h1, h2, h3, h4, h5⟩ := wordR_fields (m := 0x2C) (f := (6 + b2n m)) (d := d.toNat) (a := a.toNat) (b := b.toNat) k (by decide) (by omega) (by omega) (by omega) (by omega)
  rw [decode_2C h0 h1 h2 h3 h4 h5]

  cases m <;> simp [dec2C, b2n, chk]

theorem vcompress (k : Bool) (d : BitVec 7) (a : BitVec 7) : Statement (.vcompress k d a) := by
  have := d.isLt; have := a.isLt
  refine of_nat rfl (wordR_lt k (by decide) (by omega) (by omega) (by omega) (by omega)) (fun hw => ?_)
  obtain ⟨h0, h1, h2, h3, h4, h5⟩ := wordR_fields (m := 0x2C) (f := 8) (d := d.toNat) (a := a.toNat) (b := 0) k (by decide) (by omega) (by omega) (by omega) (by omega)
  rw [decode_2C h0 h1 h2 h3 h4 h5]

  simp [dec2C, b2n, chk]

theorem vbcast (k : Bool) (d : BitVec 7) (a : BitVec 7) (m : Bool) : Statement (.vbcast k d a m) := by
  have := d.isLt; have := a.isLt; have := b2n_lt m
  refine of_nat rfl (wordR_lt k (by decide) (by omega) (by omega) (by omega) (by omega)) (fun hw => ?_)
  obtain ⟨h0, h1, h2, h3, h4, h5⟩ := wordR_fields (m := 0x2C) (f := (10 + b2n m)) (d := d.toNat) (a := a.toNat) (b := 0) k (by decide) (by omega) (by omega) (by omega) (by omega)
  rw [decode_2C h0 h1 h2 h3 h4 h5]

  cases m <;> simp [dec2C, b2n, chk]

theorem vhail (k : Bool) (d : BitVec 7) (a : BitVec 7) (m : Bool) : Statement (.vhail k d a m) := by
  have := d.isLt; have := a.isLt; have := b2n_lt m
  refine of_nat rfl (wordR_lt k (by decide) (by omega) (by omega) (by omega) (by omega)) (fun hw => ?_)
  obtain ⟨h0, h1, h2, h3, h4, h5⟩ := wordR_fields (m := 0x2D) (f := (0 + b2n m)) (d := d.toNat) (a := a.toNat) (b := 0) k (by decide) (by omega) (by omega) (by omega) (by omega)
  rw [decode_2D h0 h1 h2 h3 h4 h5]

  cases m <;> simp [dec2D, b2n, chk]

theorem vbern (k : Bool) (d : BitVec 3) (a : BitVec 7) (b : BitVec 7) : Statement (.vbern k d a b) := by
  have := d.isLt; have := a.isLt; have := b.isLt
  refine of_nat rfl (wordR_lt k (by decide) (by omega) (by omega) (by omega) (by omega)) (fun hw => ?_)
  obtain ⟨h0, h1, h2, h3, h4, h5⟩ := wordR_fields (m := 0x2D) (f := 2) (d := d.toNat) (a := a.toNat) (b := b.toNat) k (by decide) (by omega) (by omega) (by omega) (by omega)
  rw [decode_2D h0 h1 h2 h3 h4 h5]
  clear h0 h1 h2 h3 h4 h5
  simp [dec2D, b2n, chk, *]

theorem vseed (k : Bool) (d : BitVec 7) (a : BitVec 7) (b : BitVec 7) (m : Bool) : Statement (.vseed k d a b m) := by
  have := d.isLt; have := a.isLt; have := b.isLt; have := b2n_lt m
  refine of_nat rfl (wordR_lt k (by decide) (by omega) (by omega) (by omega) (by omega)) (fun hw => ?_)
  obtain ⟨h0, h1, h2, h3, h4, h5⟩ := wordR_fields (m := 0x2E) (f := (0 + b2n m)) (d := d.toNat) (a := a.toNat) (b := b.toNat) k (by decide) (by omega) (by omega) (by omega) (by omega)
  rw [decode_2E h0 h1 h2 h3 h4 h5]

  cases m <;> simp [dec2E, b2n, chk]

theorem vtclr (k : Bool) (d : BitVec 7) (m : Bool) : Statement (.vtclr k d m) := by
  have := d.isLt; have := b2n_lt m
  refine of_nat rfl (wordR_lt k (by decide) (by omega) (by omega) (by omega) (by omega)) (fun hw => ?_)
  obtain ⟨h0, h1, h2, h3, h4, h5⟩ := wordR_fields (m := 0x2E) (f := (2 + b2n m)) (d := d.toNat) (a := 0) (b := 0) k (by decide) (by omega) (by omega) (by omega) (by omega)
  rw [decode_2E h0 h1 h2 h3 h4 h5]

  cases m <;> simp [dec2E, b2n, chk]

theorem vtget (k : Bool) (d : BitVec 7) (a : BitVec 7) (b : BitVec 7) (m : Bool) : Statement (.vtget k d a b m) := by
  have := d.isLt; have := a.isLt; have := b.isLt; have := b2n_lt m
  refine of_nat rfl (wordR_lt k (by decide) (by omega) (by omega) (by omega) (by omega)) (fun hw => ?_)
  obtain ⟨h0, h1, h2, h3, h4, h5⟩ := wordR_fields (m := 0x2E) (f := (4 + b2n m)) (d := d.toNat) (a := a.toNat) (b := b.toNat) k (by decide) (by omega) (by omega) (by omega) (by omega)
  rw [decode_2E h0 h1 h2 h3 h4 h5]

  cases m <;> simp [dec2E, b2n, chk]

theorem vtset (k : Bool) (d : BitVec 7) (a : BitVec 7) (b : BitVec 7) (m : Bool) : Statement (.vtset k d a b m) := by
  have := d.isLt; have := a.isLt; have := b.isLt; have := b2n_lt m
  refine of_nat rfl (wordR_lt k (by decide) (by omega) (by omega) (by omega) (by omega)) (fun hw => ?_)
  obtain ⟨h0, h1, h2, h3, h4, h5⟩ := wordR_fields (m := 0x2E) (f := (6 + b2n m)) (d := d.toNat) (a := a.toNat) (b := b.toNat) k (by decide) (by omega) (by omega) (by omega) (by omega)
  rw [decode_2E h0 h1 h2 h3 h4 h5]

  cases m <;> simp [dec2E, b2n, chk]

theorem vfgu (k : Bool) (d : BitVec 7) (a : BitVec 7) (b : BitVec 7) (m : Bool) : Statement (.vfgu k d a b m) := by
  have := d.isLt; have := a.isLt; have := b.isLt; have := b2n_lt m
  refine of_nat rfl (wordR_lt k (by decide) (by omega) (by omega) (by omega) (by omega)) (fun hw => ?_)
  obtain ⟨h0, h1, h2, h3, h4, h5⟩ := wordR_fields (m := 0x2E) (f := (8 + b2n m)) (d := d.toNat) (a := a.toNat) (b := b.toNat) k (by decide) (by omega) (by omega) (by omega) (by omega)
  rw [decode_2E h0 h1 h2 h3 h4 h5]

  cases m <;> simp [dec2E, b2n, chk]

theorem vld (k : Bool) (d : BitVec 7) (a : BitVec 7) (m : Bool) : Statement (.vld k d a m) := by
  have := d.isLt; have := a.isLt; have := b2n_lt m
  refine of_nat rfl (wordR_lt k (by decide) (by omega) (by omega) (by omega) (by omega)) (fun hw => ?_)
  obtain ⟨h0, h1, h2, h3, h4, h5⟩ := wordR_fields (m := 0x30) (f := (0 + b2n m)) (d := d.toNat) (a := a.toNat) (b := 0) k (by decide) (by omega) (by omega) (by omega) (by omega)
  rw [decode_30 h0 h1 h2 h3 h4 h5]

  cases m <;> simp [dec30, b2n, chk]

theorem vlds (k : Bool) (d : BitVec 7) (a : BitVec 7) (b : BitVec 7) (m : Bool) : Statement (.vlds k d a b m) := by
  have := d.isLt; have := a.isLt; have := b.isLt; have := b2n_lt m
  refine of_nat rfl (wordR_lt k (by decide) (by omega) (by omega) (by omega) (by omega)) (fun hw => ?_)
  obtain ⟨h0, h1, h2, h3, h4, h5⟩ := wordR_fields (m := 0x30) (f := (2 + b2n m)) (d := d.toNat) (a := a.toNat) (b := b.toNat) k (by decide) (by omega) (by omega) (by omega) (by omega)
  rw [decode_30 h0 h1 h2 h3 h4 h5]

  cases m <;> simp [dec30, b2n, chk]

theorem vldx (k : Bool) (d : BitVec 7) (a : BitVec 7) (b : BitVec 7) (m : Bool) : Statement (.vldx k d a b m) := by
  have := d.isLt; have := a.isLt; have := b.isLt; have := b2n_lt m
  refine of_nat rfl (wordR_lt k (by decide) (by omega) (by omega) (by omega) (by omega)) (fun hw => ?_)
  obtain ⟨h0, h1, h2, h3, h4, h5⟩ := wordR_fields (m := 0x30) (f := (4 + b2n m)) (d := d.toNat) (a := a.toNat) (b := b.toNat) k (by decide) (by omega) (by omega) (by omega) (by omega)
  rw [decode_30 h0 h1 h2 h3 h4 h5]

  cases m <;> simp [dec30, b2n, chk]

theorem vst (k : Bool) (d : BitVec 7) (a : BitVec 7) (m : Bool) : Statement (.vst k d a m) := by
  have := d.isLt; have := a.isLt; have := b2n_lt m
  refine of_nat rfl (wordR_lt k (by decide) (by omega) (by omega) (by omega) (by omega)) (fun hw => ?_)
  obtain ⟨h0, h1, h2, h3, h4, h5⟩ := wordR_fields (m := 0x30) (f := (6 + b2n m)) (d := d.toNat) (a := a.toNat) (b := 0) k (by decide) (by omega) (by omega) (by omega) (by omega)
  rw [decode_30 h0 h1 h2 h3 h4 h5]

  cases m <;> simp [dec30, b2n, chk]

theorem vstU (k : Bool) (d : BitVec 7) (a : BitVec 7) (m : Bool) : Statement (.vstU k d a m) := by
  have := d.isLt; have := a.isLt; have := b2n_lt m
  refine of_nat rfl (wordR_lt k (by decide) (by omega) (by omega) (by omega) (by omega)) (fun hw => ?_)
  obtain ⟨h0, h1, h2, h3, h4, h5⟩ := wordR_fields (m := 0x30) (f := (8 + b2n m)) (d := d.toNat) (a := a.toNat) (b := 0) k (by decide) (by omega) (by omega) (by omega) (by omega)
  rw [decode_30 h0 h1 h2 h3 h4 h5]

  cases m <;> simp [dec30, b2n, chk]

theorem vsts (k : Bool) (d : BitVec 7) (a : BitVec 7) (b : BitVec 7) (m : Bool) : Statement (.vsts k d a b m) := by
  have := d.isLt; have := a.isLt; have := b.isLt; have := b2n_lt m
  refine of_nat rfl (wordR_lt k (by decide) (by omega) (by omega) (by omega) (by omega)) (fun hw => ?_)
  obtain ⟨h0, h1, h2, h3, h4, h5⟩ := wordR_fields (m := 0x30) (f := (10 + b2n m)) (d := d.toNat) (a := a.toNat) (b := b.toNat) k (by decide) (by omega) (by omega) (by omega) (by omega)
  rw [decode_30 h0 h1 h2 h3 h4 h5]

  cases m <;> simp [dec30, b2n, chk]

theorem vstx (k : Bool) (d : BitVec 7) (a : BitVec 7) (b : BitVec 7) (m : Bool) : Statement (.vstx k d a b m) := by
  have := d.isLt; have := a.isLt; have := b.isLt; have := b2n_lt m
  refine of_nat rfl (wordR_lt k (by decide) (by omega) (by omega) (by omega) (by omega)) (fun hw => ?_)
  obtain ⟨h0, h1, h2, h3, h4, h5⟩ := wordR_fields (m := 0x30) (f := (12 + b2n m)) (d := d.toNat) (a := a.toNat) (b := b.toNat) k (by decide) (by omega) (by omega) (by omega) (by omega)
  rw [decode_30 h0 h1 h2 h3 h4 h5]

  cases m <;> simp [dec30, b2n, chk]

theorem vstxU (k : Bool) (d : BitVec 7) (a : BitVec 7) (b : BitVec 7) (m : Bool) : Statement (.vstxU k d a b m) := by
  have := d.isLt; have := a.isLt; have := b.isLt; have := b2n_lt m
  refine of_nat rfl (wordR_lt k (by decide) (by omega) (by omega) (by omega) (by omega)) (fun hw => ?_)
  obtain ⟨h0, h1, h2, h3, h4, h5⟩ := wordR_fields (m := 0x30) (f := (14 + b2n m)) (d := d.toNat) (a := a.toNat) (b := b.toNat) k (by decide) (by omega) (by omega) (by omega) (by omega)
  rw [decode_30 h0 h1 h2 h3 h4 h5]

  cases m <;> simp [dec30, b2n, chk]

theorem vldw (k : Bool) (d : BitVec 7) (a : BitVec 7) (p : BitVec 2) (e : BitVec 2) (m : Bool) : Statement (.vldw k d a p e m) := by
  have := d.isLt; have := a.isLt; have := p.isLt; have := e.isLt; have := b2n_lt m
  refine of_nat rfl (wordR_lt k (by decide) (by omega) (by omega) (by omega) (by omega)) (fun hw => ?_)
  obtain ⟨h0, h1, h2, h3, h4, h5⟩ := wordR_fields (m := 0x31) (f := (0 + b2n m)) (d := d.toNat) (a := a.toNat) (b := (p.toNat * 4 + e.toNat)) k (by decide) (by omega) (by omega) (by omega) (by omega)
  rw [decode_31 h0 h1 h2 h3 h4 h5]
  clear h0 h1 h2 h3 h4 h5
  simp [Instr.wellFormed, ← BitVec.toNat_inj] at hw
  have e1 : (p.toNat * 4 + e.toNat) / 4 % 4 = p.toNat := by omega
  have e2 : (p.toNat * 4 + e.toNat) % 4 = e.toNat := by omega
  have e3 : (p.toNat * 4 + e.toNat) / 16 % 4 = 0 := by omega
  have e4 : (p.toNat * 4 + e.toNat) / 64 = 0 := by omega
  have e5 : p.toNat * 4 + e.toNat < 64 := by omega
  generalize (p.toNat * 4 + e.toNat) = z at *
  cases m <;> simp [dec31, b2n, chk, *]

theorem vstw (k : Bool) (d : BitVec 7) (a : BitVec 7) (e : Bool) (m : Bool) : Statement (.vstw k d a e m) := by
  have := d.isLt; have := a.isLt; have := b2n_lt e; have := b2n_lt m
  refine of_nat rfl (wordR_lt k (by decide) (by omega) (by omega) (by omega) (by omega)) (fun hw => ?_)
  obtain ⟨h0, h1, h2, h3, h4, h5⟩ := wordR_fields (m := 0x31) (f := (2 + b2n m)) (d := d.toNat) (a := a.toNat) (b := (b2n e)) k (by decide) (by omega) (by omega) (by omega) (by omega)
  rw [decode_31 h0 h1 h2 h3 h4 h5]

  cases e <;> cases m <;> simp [dec31, b2n, chk]

theorem vlda (k : Bool) (d : BitVec 7) (a : BitVec 7) (r : Bool) (p : BitVec 2) (e : BitVec 2) (m : Bool) : Statement (.vlda k d a r p e m) := by
  have := d.isLt; have := a.isLt; have := b2n_lt r; have := p.isLt; have := e.isLt; have := b2n_lt m
  refine of_nat rfl (wordR_lt k (by decide) (by omega) (by omega) (by omega) (by omega)) (fun hw => ?_)
  obtain ⟨h0, h1, h2, h3, h4, h5⟩ := wordR_fields (m := 0x31) (f := (4 + b2n m)) (d := d.toNat) (a := a.toNat) (b := (b2n r * 64 + p.toNat * 4 + e.toNat)) k (by decide) (by omega) (by omega) (by omega) (by omega)
  rw [decode_31 h0 h1 h2 h3 h4 h5]
  clear h0 h1 h2 h3 h4 h5
  simp [Instr.wellFormed, ← BitVec.toNat_inj] at hw
  have e1 : (b2n r * 64 + p.toNat * 4 + e.toNat) / 4 % 4 = p.toNat := by omega
  have e2 : (b2n r * 64 + p.toNat * 4 + e.toNat) % 4 = e.toNat := by omega
  have e3 : (b2n r * 64 + p.toNat * 4 + e.toNat) / 16 % 4 = 0 := by omega
  have e4 : (b2n r * 64 + p.toNat * 4 + e.toNat) / 64 = b2n r := by omega
  generalize (b2n r * 64 + p.toNat * 4 + e.toNat) = z at *
  cases r <;> cases m <;> simp [dec31, b2n, chk, *]

theorem vsta (k : Bool) (d : BitVec 7) (a : BitVec 7) (r : Bool) (e : Bool) (m : Bool) : Statement (.vsta k d a r e m) := by
  have := d.isLt; have := a.isLt; have := b2n_lt r; have := b2n_lt e; have := b2n_lt m
  refine of_nat rfl (wordR_lt k (by decide) (by omega) (by omega) (by omega) (by omega)) (fun hw => ?_)
  obtain ⟨h0, h1, h2, h3, h4, h5⟩ := wordR_fields (m := 0x31) (f := (6 + b2n m)) (d := d.toNat) (a := a.toNat) (b := (b2n r * 64 + b2n e)) k (by decide) (by omega) (by omega) (by omega) (by omega)
  rw [decode_31 h0 h1 h2 h3 h4 h5]

  cases r <;> cases e <;> cases m <;> simp [dec31, b2n, chk]

theorem vldc (k : Bool) (d : BitVec 7) (a : BitVec 7) (r : Bool) (p : BitVec 2) (e : BitVec 2) (m : Bool) : Statement (.vldc k d a r p e m) := by
  have := d.isLt; have := a.isLt; have := b2n_lt r; have := p.isLt; have := e.isLt; have := b2n_lt m
  refine of_nat rfl (wordR_lt k (by decide) (by omega) (by omega) (by omega) (by omega)) (fun hw => ?_)
  obtain ⟨h0, h1, h2, h3, h4, h5⟩ := wordR_fields (m := 0x31) (f := (8 + b2n m)) (d := d.toNat) (a := a.toNat) (b := (b2n r * 64 + p.toNat * 4 + e.toNat)) k (by decide) (by omega) (by omega) (by omega) (by omega)
  rw [decode_31 h0 h1 h2 h3 h4 h5]
  clear h0 h1 h2 h3 h4 h5
  simp [Instr.wellFormed, ← BitVec.toNat_inj] at hw
  have e1 : (b2n r * 64 + p.toNat * 4 + e.toNat) / 4 % 4 = p.toNat := by omega
  have e2 : (b2n r * 64 + p.toNat * 4 + e.toNat) % 4 = e.toNat := by omega
  have e3 : (b2n r * 64 + p.toNat * 4 + e.toNat) / 16 % 4 = 0 := by omega
  have e4 : (b2n r * 64 + p.toNat * 4 + e.toNat) / 64 = b2n r := by omega
  generalize (b2n r * 64 + p.toNat * 4 + e.toNat) = z at *
  cases r <;> cases m <;> simp [dec31, b2n, chk, *]

theorem vstc (k : Bool) (d : BitVec 7) (a : BitVec 7) (r : Bool) (e : Bool) (m : Bool) : Statement (.vstc k d a r e m) := by
  have := d.isLt; have := a.isLt; have := b2n_lt r; have := b2n_lt e; have := b2n_lt m
  refine of_nat rfl (wordR_lt k (by decide) (by omega) (by omega) (by omega) (by omega)) (fun hw => ?_)
  obtain ⟨h0, h1, h2, h3, h4, h5⟩ := wordR_fields (m := 0x31) (f := (10 + b2n m)) (d := d.toNat) (a := a.toNat) (b := (b2n r * 64 + b2n e)) k (by decide) (by omega) (by omega) (by omega) (by omega)
  rw [decode_31 h0 h1 h2 h3 h4 h5]

  cases r <;> cases e <;> cases m <;> simp [dec31, b2n, chk]

theorem vaadd (k : Bool) (d : BitVec 7) (a : BitVec 7) (b : BitVec 7) (m : Bool) : Statement (.vaadd k d a b m) := by
  have := d.isLt; have := a.isLt; have := b.isLt; have := b2n_lt m
  refine of_nat rfl (wordR_lt k (by decide) (by omega) (by omega) (by omega) (by omega)) (fun hw => ?_)
  obtain ⟨h0, h1, h2, h3, h4, h5⟩ := wordR_fields (m := 0x32) (f := (0 + b2n m)) (d := d.toNat) (a := a.toNat) (b := b.toNat) k (by decide) (by omega) (by omega) (by omega) (by omega)
  rw [decode_32 h0 h1 h2 h3 h4 h5]

  cases m <;> simp [dec32, b2n, chk]

theorem vaswap (k : Bool) (d : BitVec 7) (a : BitVec 7) (b : BitVec 7) (m : Bool) : Statement (.vaswap k d a b m) := by
  have := d.isLt; have := a.isLt; have := b.isLt; have := b2n_lt m
  refine of_nat rfl (wordR_lt k (by decide) (by omega) (by omega) (by omega) (by omega)) (fun hw => ?_)
  obtain ⟨h0, h1, h2, h3, h4, h5⟩ := wordR_fields (m := 0x32) (f := (2 + b2n m)) (d := d.toNat) (a := a.toNat) (b := b.toNat) k (by decide) (by omega) (by omega) (by omega) (by omega)
  rw [decode_32 h0 h1 h2 h3 h4 h5]

  cases m <;> simp [dec32, b2n, chk]

theorem vamax (k : Bool) (d : BitVec 7) (a : BitVec 7) (b : BitVec 7) (m : Bool) : Statement (.vamax k d a b m) := by
  have := d.isLt; have := a.isLt; have := b.isLt; have := b2n_lt m
  refine of_nat rfl (wordR_lt k (by decide) (by omega) (by omega) (by omega) (by omega)) (fun hw => ?_)
  obtain ⟨h0, h1, h2, h3, h4, h5⟩ := wordR_fields (m := 0x32) (f := (4 + b2n m)) (d := d.toNat) (a := a.toNat) (b := b.toNat) k (by decide) (by omega) (by omega) (by omega) (by omega)
  rw [decode_32 h0 h1 h2 h3 h4 h5]

  cases m <;> simp [dec32, b2n, chk]

theorem vamin (k : Bool) (d : BitVec 7) (a : BitVec 7) (b : BitVec 7) (m : Bool) : Statement (.vamin k d a b m) := by
  have := d.isLt; have := a.isLt; have := b.isLt; have := b2n_lt m
  refine of_nat rfl (wordR_lt k (by decide) (by omega) (by omega) (by omega) (by omega)) (fun hw => ?_)
  obtain ⟨h0, h1, h2, h3, h4, h5⟩ := wordR_fields (m := 0x32) (f := (6 + b2n m)) (d := d.toNat) (a := a.toNat) (b := b.toNat) k (by decide) (by omega) (by omega) (by omega) (by omega)
  rw [decode_32 h0 h1 h2 h3 h4 h5]

  cases m <;> simp [dec32, b2n, chk]

theorem vamaxn (k : Bool) (d : BitVec 7) (a : BitVec 7) (b : BitVec 7) (m : Bool) : Statement (.vamaxn k d a b m) := by
  have := d.isLt; have := a.isLt; have := b.isLt; have := b2n_lt m
  refine of_nat rfl (wordR_lt k (by decide) (by omega) (by omega) (by omega) (by omega)) (fun hw => ?_)
  obtain ⟨h0, h1, h2, h3, h4, h5⟩ := wordR_fields (m := 0x32) (f := (8 + b2n m)) (d := d.toNat) (a := a.toNat) (b := b.toNat) k (by decide) (by omega) (by omega) (by omega) (by omega)
  rw [decode_32 h0 h1 h2 h3 h4 h5]

  cases m <;> simp [dec32, b2n, chk]

theorem vaminn (k : Bool) (d : BitVec 7) (a : BitVec 7) (b : BitVec 7) (m : Bool) : Statement (.vaminn k d a b m) := by
  have := d.isLt; have := a.isLt; have := b.isLt; have := b2n_lt m
  refine of_nat rfl (wordR_lt k (by decide) (by omega) (by omega) (by omega) (by omega)) (fun hw => ?_)
  obtain ⟨h0, h1, h2, h3, h4, h5⟩ := wordR_fields (m := 0x32) (f := (10 + b2n m)) (d := d.toNat) (a := a.toNat) (b := b.toNat) k (by decide) (by omega) (by omega) (by omega) (by omega)
  rw [decode_32 h0 h1 h2 h3 h4 h5]

  cases m <;> simp [dec32, b2n, chk]

theorem vaand (k : Bool) (d : BitVec 7) (a : BitVec 7) (b : BitVec 7) (m : Bool) : Statement (.vaand k d a b m) := by
  have := d.isLt; have := a.isLt; have := b.isLt; have := b2n_lt m
  refine of_nat rfl (wordR_lt k (by decide) (by omega) (by omega) (by omega) (by omega)) (fun hw => ?_)
  obtain ⟨h0, h1, h2, h3, h4, h5⟩ := wordR_fields (m := 0x32) (f := (12 + b2n m)) (d := d.toNat) (a := a.toNat) (b := b.toNat) k (by decide) (by omega) (by omega) (by omega) (by omega)
  rw [decode_32 h0 h1 h2 h3 h4 h5]

  cases m <;> simp [dec32, b2n, chk]

theorem vaor (k : Bool) (d : BitVec 7) (a : BitVec 7) (b : BitVec 7) (m : Bool) : Statement (.vaor k d a b m) := by
  have := d.isLt; have := a.isLt; have := b.isLt; have := b2n_lt m
  refine of_nat rfl (wordR_lt k (by decide) (by omega) (by omega) (by omega) (by omega)) (fun hw => ?_)
  obtain ⟨h0, h1, h2, h3, h4, h5⟩ := wordR_fields (m := 0x32) (f := (14 + b2n m)) (d := d.toNat) (a := a.toNat) (b := b.toNat) k (by decide) (by omega) (by omega) (by omega) (by omega)
  rw [decode_32 h0 h1 h2 h3 h4 h5]

  cases m <;> simp [dec32, b2n, chk]

theorem vaaddO (k : Bool) (d : BitVec 7) (a : BitVec 7) (b : BitVec 7) (m : Bool) : Statement (.vaaddO k d a b m) := by
  have := d.isLt; have := a.isLt; have := b.isLt; have := b2n_lt m
  refine of_nat rfl (wordR_lt k (by decide) (by omega) (by omega) (by omega) (by omega)) (fun hw => ?_)
  obtain ⟨h0, h1, h2, h3, h4, h5⟩ := wordR_fields (m := 0x33) (f := (0 + b2n m)) (d := d.toNat) (a := a.toNat) (b := b.toNat) k (by decide) (by omega) (by omega) (by omega) (by omega)
  rw [decode_33 h0 h1 h2 h3 h4 h5]

  cases m <;> simp [dec33, b2n, chk]

theorem vaswapO (k : Bool) (d : BitVec 7) (a : BitVec 7) (b : BitVec 7) (m : Bool) : Statement (.vaswapO k d a b m) := by
  have := d.isLt; have := a.isLt; have := b.isLt; have := b2n_lt m
  refine of_nat rfl (wordR_lt k (by decide) (by omega) (by omega) (by omega) (by omega)) (fun hw => ?_)
  obtain ⟨h0, h1, h2, h3, h4, h5⟩ := wordR_fields (m := 0x33) (f := (2 + b2n m)) (d := d.toNat) (a := a.toNat) (b := b.toNat) k (by decide) (by omega) (by omega) (by omega) (by omega)
  rw [decode_33 h0 h1 h2 h3 h4 h5]

  cases m <;> simp [dec33, b2n, chk]

theorem vamaxO (k : Bool) (d : BitVec 7) (a : BitVec 7) (b : BitVec 7) (m : Bool) : Statement (.vamaxO k d a b m) := by
  have := d.isLt; have := a.isLt; have := b.isLt; have := b2n_lt m
  refine of_nat rfl (wordR_lt k (by decide) (by omega) (by omega) (by omega) (by omega)) (fun hw => ?_)
  obtain ⟨h0, h1, h2, h3, h4, h5⟩ := wordR_fields (m := 0x33) (f := (4 + b2n m)) (d := d.toNat) (a := a.toNat) (b := b.toNat) k (by decide) (by omega) (by omega) (by omega) (by omega)
  rw [decode_33 h0 h1 h2 h3 h4 h5]

  cases m <;> simp [dec33, b2n, chk]

theorem vaminO (k : Bool) (d : BitVec 7) (a : BitVec 7) (b : BitVec 7) (m : Bool) : Statement (.vaminO k d a b m) := by
  have := d.isLt; have := a.isLt; have := b.isLt; have := b2n_lt m
  refine of_nat rfl (wordR_lt k (by decide) (by omega) (by omega) (by omega) (by omega)) (fun hw => ?_)
  obtain ⟨h0, h1, h2, h3, h4, h5⟩ := wordR_fields (m := 0x33) (f := (6 + b2n m)) (d := d.toNat) (a := a.toNat) (b := b.toNat) k (by decide) (by omega) (by omega) (by omega) (by omega)
  rw [decode_33 h0 h1 h2 h3 h4 h5]

  cases m <;> simp [dec33, b2n, chk]

theorem vamaxnO (k : Bool) (d : BitVec 7) (a : BitVec 7) (b : BitVec 7) (m : Bool) : Statement (.vamaxnO k d a b m) := by
  have := d.isLt; have := a.isLt; have := b.isLt; have := b2n_lt m
  refine of_nat rfl (wordR_lt k (by decide) (by omega) (by omega) (by omega) (by omega)) (fun hw => ?_)
  obtain ⟨h0, h1, h2, h3, h4, h5⟩ := wordR_fields (m := 0x33) (f := (8 + b2n m)) (d := d.toNat) (a := a.toNat) (b := b.toNat) k (by decide) (by omega) (by omega) (by omega) (by omega)
  rw [decode_33 h0 h1 h2 h3 h4 h5]

  cases m <;> simp [dec33, b2n, chk]

theorem vaminnO (k : Bool) (d : BitVec 7) (a : BitVec 7) (b : BitVec 7) (m : Bool) : Statement (.vaminnO k d a b m) := by
  have := d.isLt; have := a.isLt; have := b.isLt; have := b2n_lt m
  refine of_nat rfl (wordR_lt k (by decide) (by omega) (by omega) (by omega) (by omega)) (fun hw => ?_)
  obtain ⟨h0, h1, h2, h3, h4, h5⟩ := wordR_fields (m := 0x33) (f := (10 + b2n m)) (d := d.toNat) (a := a.toNat) (b := b.toNat) k (by decide) (by omega) (by omega) (by omega) (by omega)
  rw [decode_33 h0 h1 h2 h3 h4 h5]

  cases m <;> simp [dec33, b2n, chk]

theorem vaandO (k : Bool) (d : BitVec 7) (a : BitVec 7) (b : BitVec 7) (m : Bool) : Statement (.vaandO k d a b m) := by
  have := d.isLt; have := a.isLt; have := b.isLt; have := b2n_lt m
  refine of_nat rfl (wordR_lt k (by decide) (by omega) (by omega) (by omega) (by omega)) (fun hw => ?_)
  obtain ⟨h0, h1, h2, h3, h4, h5⟩ := wordR_fields (m := 0x33) (f := (12 + b2n m)) (d := d.toNat) (a := a.toNat) (b := b.toNat) k (by decide) (by omega) (by omega) (by omega) (by omega)
  rw [decode_33 h0 h1 h2 h3 h4 h5]

  cases m <;> simp [dec33, b2n, chk]

theorem vaorO (k : Bool) (d : BitVec 7) (a : BitVec 7) (b : BitVec 7) (m : Bool) : Statement (.vaorO k d a b m) := by
  have := d.isLt; have := a.isLt; have := b.isLt; have := b2n_lt m
  refine of_nat rfl (wordR_lt k (by decide) (by omega) (by omega) (by omega) (by omega)) (fun hw => ?_)
  obtain ⟨h0, h1, h2, h3, h4, h5⟩ := wordR_fields (m := 0x33) (f := (14 + b2n m)) (d := d.toNat) (a := a.toNat) (b := b.toNat) k (by decide) (by omega) (by omega) (by omega) (by omega)
  rw [decode_33 h0 h1 h2 h3 h4 h5]

  cases m <;> simp [dec33, b2n, chk]

theorem vsld (k : Bool) (d : BitVec 7) (a : BitVec 5) (m : Bool) : Statement (.vsld k d a m) := by
  have := d.isLt; have := a.isLt; have := b2n_lt m
  refine of_nat rfl (wordR_lt k (by decide) (by omega) (by omega) (by omega) (by omega)) (fun hw => ?_)
  obtain ⟨h0, h1, h2, h3, h4, h5⟩ := wordR_fields (m := 0x34) (f := (0 + b2n m)) (d := d.toNat) (a := a.toNat) (b := 0) k (by decide) (by omega) (by omega) (by omega) (by omega)
  rw [decode_34 h0 h1 h2 h3 h4 h5]
  clear h0 h1 h2 h3 h4 h5
  cases m <;> simp [dec34, b2n, chk, *]

theorem vsst (k : Bool) (d : BitVec 7) (a : BitVec 5) (m : Bool) : Statement (.vsst k d a m) := by
  have := d.isLt; have := a.isLt; have := b2n_lt m
  refine of_nat rfl (wordR_lt k (by decide) (by omega) (by omega) (by omega) (by omega)) (fun hw => ?_)
  obtain ⟨h0, h1, h2, h3, h4, h5⟩ := wordR_fields (m := 0x34) (f := (2 + b2n m)) (d := d.toNat) (a := a.toNat) (b := 0) k (by decide) (by omega) (by omega) (by omega) (by omega)
  rw [decode_34 h0 h1 h2 h3 h4 h5]
  clear h0 h1 h2 h3 h4 h5
  cases m <;> simp [dec34, b2n, chk, *]

theorem vbind (k : Bool) (d : BitVec 7) (a : BitVec 5) : Statement (.vbind k d a) := by
  have := d.isLt; have := a.isLt
  refine of_nat rfl (wordR_lt k (by decide) (by omega) (by omega) (by omega) (by omega)) (fun hw => ?_)
  obtain ⟨h0, h1, h2, h3, h4, h5⟩ := wordR_fields (m := 0x34) (f := 4) (d := d.toNat) (a := a.toNat) (b := 0) k (by decide) (by omega) (by omega) (by omega) (by omega)
  rw [decode_34 h0 h1 h2 h3 h4 h5]
  clear h0 h1 h2 h3 h4 h5
  simp [dec34, b2n, chk, *]

theorem vunbind (k : Bool) (d : BitVec 7) (a : BitVec 5) : Statement (.vunbind k d a) := by
  have := d.isLt; have := a.isLt
  refine of_nat rfl (wordR_lt k (by decide) (by omega) (by omega) (by omega) (by omega)) (fun hw => ?_)
  obtain ⟨h0, h1, h2, h3, h4, h5⟩ := wordR_fields (m := 0x34) (f := 6) (d := d.toNat) (a := a.toNat) (b := 0) k (by decide) (by omega) (by omega) (by omega) (by omega)
  rw [decode_34 h0 h1 h2 h3 h4 h5]
  clear h0 h1 h2 h3 h4 h5
  simp [dec34, b2n, chk, *]

theorem hset (k : Bool) (a : BitVec 5) (b : BitVec 7) : Statement (.hset k a b) := by
  have := a.isLt; have := b.isLt
  refine of_nat rfl (wordR_lt k (by decide) (by omega) (by omega) (by omega) (by omega)) (fun hw => ?_)
  obtain ⟨h0, h1, h2, h3, h4, h5⟩ := wordR_fields (m := 0x34) (f := 8) (d := 0) (a := a.toNat) (b := b.toNat) k (by decide) (by omega) (by omega) (by omega) (by omega)
  rw [decode_34 h0 h1 h2 h3 h4 h5]
  clear h0 h1 h2 h3 h4 h5
  simp [dec34, b2n, chk, *]

theorem vscl (k : Bool) (a : BitVec 7) (b : BitVec 7) : Statement (.vscl k a b) := by
  have := a.isLt; have := b.isLt
  refine of_nat rfl (wordR_lt k (by decide) (by omega) (by omega) (by omega) (by omega)) (fun hw => ?_)
  obtain ⟨h0, h1, h2, h3, h4, h5⟩ := wordR_fields (m := 0x34) (f := 10) (d := 0) (a := a.toNat) (b := b.toNat) k (by decide) (by omega) (by omega) (by omega) (by omega)
  rw [decode_34 h0 h1 h2 h3 h4 h5]

  simp [dec34, b2n, chk]

theorem vldnp (k : Bool) (d : BitVec 7) (a : BitVec 7) (p : BitVec 3) (q : BitVec 4) (m : Bool) : Statement (.vldnp k d a p q m) := by
  have := d.isLt; have := a.isLt; have := p.isLt; have := q.isLt; have := b2n_lt m
  refine of_nat rfl (wordR_lt k (by decide) (by omega) (by omega) (by omega) (by omega)) (fun hw => ?_)
  obtain ⟨h0, h1, h2, h3, h4, h5⟩ := wordR_fields (m := 0x35) (f := (0 + b2n m)) (d := d.toNat) (a := a.toNat) (b := (p.toNat * 16 + q.toNat)) k (by decide) (by omega) (by omega) (by omega) (by omega)
  rw [decode_35 h0 h1 h2 h3 h4 h5]
  clear h0 h1 h2 h3 h4 h5
  simp [Instr.wellFormed, ← BitVec.toNat_inj] at hw
  have e1 : (p.toNat * 16 + q.toNat) / 16 = p.toNat := by omega
  have e2 : (p.toNat * 16 + q.toNat) % 16 = q.toNat := by omega
  generalize p.toNat * 16 + q.toNat = z at *
  cases m <;> simp [dec35, b2n, chk, *]

theorem mshape (k : Bool) (d : BitVec 7) (a : BitVec 7) : Statement (.mshape k d a) := by
  have := d.isLt; have := a.isLt
  refine of_nat rfl (wordR_lt k (by decide) (by omega) (by omega) (by omega) (by omega)) (fun hw => ?_)
  obtain ⟨h0, h1, h2, h3, h4, h5⟩ := wordR_fields (m := 0x38) (f := 0) (d := d.toNat) (a := a.toNat) (b := 0) k (by decide) (by omega) (by omega) (by omega) (by omega)
  rw [decode_38 h0 h1 h2 h3 h4 h5]

  simp [dec38, b2n, chk]

theorem mlds (k : Bool) (a : BitVec 7) : Statement (.mlds k a) := by
  have := a.isLt
  refine of_nat rfl (wordR_lt k (by decide) (by omega) (by omega) (by omega) (by omega)) (fun hw => ?_)
  obtain ⟨h0, h1, h2, h3, h4, h5⟩ := wordR_fields (m := 0x38) (f := 2) (d := 0) (a := a.toNat) (b := 0) k (by decide) (by omega) (by omega) (by omega) (by omega)
  rw [decode_38 h0 h1 h2 h3 h4 h5]

  simp [dec38, b2n, chk]

theorem mzero (k : Bool) (d : BitVec 4) : Statement (.mzero k d) := by
  have := d.isLt
  refine of_nat rfl (wordR_lt k (by decide) (by omega) (by omega) (by omega) (by omega)) (fun hw => ?_)
  obtain ⟨h0, h1, h2, h3, h4, h5⟩ := wordR_fields (m := 0x38) (f := 4) (d := d.toNat) (a := 0) (b := 0) k (by decide) (by omega) (by omega) (by omega) (by omega)
  rw [decode_38 h0 h1 h2 h3 h4 h5]
  clear h0 h1 h2 h3 h4 h5
  simp [dec38, b2n, chk, *]

theorem mstat (k : Bool) (d : BitVec 7) : Statement (.mstat k d) := by
  have := d.isLt
  refine of_nat rfl (wordR_lt k (by decide) (by omega) (by omega) (by omega) (by omega)) (fun hw => ?_)
  obtain ⟨h0, h1, h2, h3, h4, h5⟩ := wordR_fields (m := 0x38) (f := 6) (d := d.toNat) (a := 0) (b := 0) k (by decide) (by omega) (by omega) (by omega) (by omega)
  rw [decode_38 h0 h1 h2 h3 h4 h5]

  simp [dec38, b2n, chk]

theorem mmulBf16 (k : Bool) (d : BitVec 4) (a : BitVec 7) (b : BitVec 7) (s : Bool) : Statement (.mmulBf16 k d a b s) := by
  have := d.isLt; have := a.isLt; have := b.isLt; have := b2n_lt s
  refine of_nat rfl (wordR_lt k (by decide) (by omega) (by omega) (by omega) (by omega)) (fun hw => ?_)
  obtain ⟨h0, h1, h2, h3, h4, h5⟩ := wordR_fields (m := 0x39) (f := (0 + b2n s)) (d := d.toNat) (a := a.toNat) (b := b.toNat) k (by decide) (by omega) (by omega) (by omega) (by omega)
  rw [decode_39 h0 h1 h2 h3 h4 h5]

  simp [Instr.wellFormed, srcRule] at hw
  cases s <;> simp [dec39, b2n, chk] <;> simp_all

theorem mmulE4m3 (k : Bool) (d : BitVec 4) (a : BitVec 7) (b : BitVec 7) (s : Bool) : Statement (.mmulE4m3 k d a b s) := by
  have := d.isLt; have := a.isLt; have := b.isLt; have := b2n_lt s
  refine of_nat rfl (wordR_lt k (by decide) (by omega) (by omega) (by omega) (by omega)) (fun hw => ?_)
  obtain ⟨h0, h1, h2, h3, h4, h5⟩ := wordR_fields (m := 0x39) (f := (2 + b2n s)) (d := d.toNat) (a := a.toNat) (b := b.toNat) k (by decide) (by omega) (by omega) (by omega) (by omega)
  rw [decode_39 h0 h1 h2 h3 h4 h5]

  simp [Instr.wellFormed, srcRule] at hw
  cases s <;> simp [dec39, b2n, chk] <;> simp_all

theorem mmulE5m2 (k : Bool) (d : BitVec 4) (a : BitVec 7) (b : BitVec 7) (s : Bool) : Statement (.mmulE5m2 k d a b s) := by
  have := d.isLt; have := a.isLt; have := b.isLt; have := b2n_lt s
  refine of_nat rfl (wordR_lt k (by decide) (by omega) (by omega) (by omega) (by omega)) (fun hw => ?_)
  obtain ⟨h0, h1, h2, h3, h4, h5⟩ := wordR_fields (m := 0x39) (f := (4 + b2n s)) (d := d.toNat) (a := a.toNat) (b := b.toNat) k (by decide) (by omega) (by omega) (by omega) (by omega)
  rw [decode_39 h0 h1 h2 h3 h4 h5]

  simp [Instr.wellFormed, srcRule] at hw
  cases s <;> simp [dec39, b2n, chk] <;> simp_all

theorem mmulNp4 (k : Bool) (d : BitVec 4) (a : BitVec 7) (b : BitVec 7) (s : Bool) : Statement (.mmulNp4 k d a b s) := by
  have := d.isLt; have := a.isLt; have := b.isLt; have := b2n_lt s
  refine of_nat rfl (wordR_lt k (by decide) (by omega) (by omega) (by omega) (by omega)) (fun hw => ?_)
  obtain ⟨h0, h1, h2, h3, h4, h5⟩ := wordR_fields (m := 0x39) (f := (6 + b2n s)) (d := d.toNat) (a := a.toNat) (b := b.toNat) k (by decide) (by omega) (by omega) (by omega) (by omega)
  rw [decode_39 h0 h1 h2 h3 h4 h5]

  simp [Instr.wellFormed, srcRule] at hw
  cases s <;> simp [dec39, b2n, chk] <;> simp_all

theorem mmulNp2 (k : Bool) (d : BitVec 4) (a : BitVec 7) (b : BitVec 7) (s : Bool) : Statement (.mmulNp2 k d a b s) := by
  have := d.isLt; have := a.isLt; have := b.isLt; have := b2n_lt s
  refine of_nat rfl (wordR_lt k (by decide) (by omega) (by omega) (by omega) (by omega)) (fun hw => ?_)
  obtain ⟨h0, h1, h2, h3, h4, h5⟩ := wordR_fields (m := 0x39) (f := (8 + b2n s)) (d := d.toNat) (a := a.toNat) (b := b.toNat) k (by decide) (by omega) (by omega) (by omega) (by omega)
  rw [decode_39 h0 h1 h2 h3 h4 h5]

  simp [Instr.wellFormed, srcRule] at hw
  cases s <;> simp [dec39, b2n, chk] <;> simp_all

theorem mmulSpBf16 (k : Bool) (d : BitVec 4) (a : BitVec 7) (b : BitVec 7) (s : Bool) : Statement (.mmulSpBf16 k d a b s) := by
  have := d.isLt; have := a.isLt; have := b.isLt; have := b2n_lt s
  refine of_nat rfl (wordR_lt k (by decide) (by omega) (by omega) (by omega) (by omega)) (fun hw => ?_)
  obtain ⟨h0, h1, h2, h3, h4, h5⟩ := wordR_fields (m := 0x3A) (f := (0 + b2n s)) (d := d.toNat) (a := a.toNat) (b := b.toNat) k (by decide) (by omega) (by omega) (by omega) (by omega)
  rw [decode_3A h0 h1 h2 h3 h4 h5]

  simp [Instr.wellFormed, srcRule] at hw
  cases s <;> simp [dec3A, b2n, chk] <;> simp_all

theorem mmulSpE4m3 (k : Bool) (d : BitVec 4) (a : BitVec 7) (b : BitVec 7) (s : Bool) : Statement (.mmulSpE4m3 k d a b s) := by
  have := d.isLt; have := a.isLt; have := b.isLt; have := b2n_lt s
  refine of_nat rfl (wordR_lt k (by decide) (by omega) (by omega) (by omega) (by omega)) (fun hw => ?_)
  obtain ⟨h0, h1, h2, h3, h4, h5⟩ := wordR_fields (m := 0x3A) (f := (2 + b2n s)) (d := d.toNat) (a := a.toNat) (b := b.toNat) k (by decide) (by omega) (by omega) (by omega) (by omega)
  rw [decode_3A h0 h1 h2 h3 h4 h5]

  simp [Instr.wellFormed, srcRule] at hw
  cases s <;> simp [dec3A, b2n, chk] <;> simp_all

theorem mmulSpE5m2 (k : Bool) (d : BitVec 4) (a : BitVec 7) (b : BitVec 7) (s : Bool) : Statement (.mmulSpE5m2 k d a b s) := by
  have := d.isLt; have := a.isLt; have := b.isLt; have := b2n_lt s
  refine of_nat rfl (wordR_lt k (by decide) (by omega) (by omega) (by omega) (by omega)) (fun hw => ?_)
  obtain ⟨h0, h1, h2, h3, h4, h5⟩ := wordR_fields (m := 0x3A) (f := (4 + b2n s)) (d := d.toNat) (a := a.toNat) (b := b.toNat) k (by decide) (by omega) (by omega) (by omega) (by omega)
  rw [decode_3A h0 h1 h2 h3 h4 h5]

  simp [Instr.wellFormed, srcRule] at hw
  cases s <;> simp [dec3A, b2n, chk] <;> simp_all

theorem mmulSpNp4 (k : Bool) (d : BitVec 4) (a : BitVec 7) (b : BitVec 7) (s : Bool) : Statement (.mmulSpNp4 k d a b s) := by
  have := d.isLt; have := a.isLt; have := b.isLt; have := b2n_lt s
  refine of_nat rfl (wordR_lt k (by decide) (by omega) (by omega) (by omega) (by omega)) (fun hw => ?_)
  obtain ⟨h0, h1, h2, h3, h4, h5⟩ := wordR_fields (m := 0x3A) (f := (6 + b2n s)) (d := d.toNat) (a := a.toNat) (b := b.toNat) k (by decide) (by omega) (by omega) (by omega) (by omega)
  rw [decode_3A h0 h1 h2 h3 h4 h5]

  simp [Instr.wellFormed, srcRule] at hw
  cases s <;> simp [dec3A, b2n, chk] <;> simp_all

theorem mmulSpNp2 (k : Bool) (d : BitVec 4) (a : BitVec 7) (b : BitVec 7) (s : Bool) : Statement (.mmulSpNp2 k d a b s) := by
  have := d.isLt; have := a.isLt; have := b.isLt; have := b2n_lt s
  refine of_nat rfl (wordR_lt k (by decide) (by omega) (by omega) (by omega) (by omega)) (fun hw => ?_)
  obtain ⟨h0, h1, h2, h3, h4, h5⟩ := wordR_fields (m := 0x3A) (f := (8 + b2n s)) (d := d.toNat) (a := a.toNat) (b := b.toNat) k (by decide) (by omega) (by omega) (by omega) (by omega)
  rw [decode_3A h0 h1 h2 h3 h4 h5]

  simp [Instr.wellFormed, srcRule] at hw
  cases s <;> simp [dec3A, b2n, chk] <;> simp_all

theorem mdrain (k : Bool) (d : BitVec 4) (a : BitVec 7) (m : Bool) : Statement (.mdrain k d a m) := by
  have := d.isLt; have := a.isLt; have := b2n_lt m
  refine of_nat rfl (wordR_lt k (by decide) (by omega) (by omega) (by omega) (by omega)) (fun hw => ?_)
  obtain ⟨h0, h1, h2, h3, h4, h5⟩ := wordR_fields (m := 0x3B) (f := (0 + b2n m)) (d := d.toNat) (a := a.toNat) (b := 0) k (by decide) (by omega) (by omega) (by omega) (by omega)
  rw [decode_3B h0 h1 h2 h3 h4 h5]
  clear h0 h1 h2 h3 h4 h5
  cases m <;> simp [dec3B, b2n, chk, *]

theorem mdrainS (k : Bool) (d : BitVec 4) (a : BitVec 7) (b : BitVec 7) (m : Bool) : Statement (.mdrainS k d a b m) := by
  have := d.isLt; have := a.isLt; have := b.isLt; have := b2n_lt m
  refine of_nat rfl (wordR_lt k (by decide) (by omega) (by omega) (by omega) (by omega)) (fun hw => ?_)
  obtain ⟨h0, h1, h2, h3, h4, h5⟩ := wordR_fields (m := 0x3B) (f := (2 + b2n m)) (d := d.toNat) (a := a.toNat) (b := b.toNat) k (by decide) (by omega) (by omega) (by omega) (by omega)
  rw [decode_3B h0 h1 h2 h3 h4 h5]
  clear h0 h1 h2 h3 h4 h5
  cases m <;> simp [dec3B, b2n, chk, *]

theorem mdrainX (k : Bool) (d : BitVec 4) (a : BitVec 7) (b : BitVec 7) (m : Bool) : Statement (.mdrainX k d a b m) := by
  have := d.isLt; have := a.isLt; have := b.isLt; have := b2n_lt m
  refine of_nat rfl (wordR_lt k (by decide) (by omega) (by omega) (by omega) (by omega)) (fun hw => ?_)
  obtain ⟨h0, h1, h2, h3, h4, h5⟩ := wordR_fields (m := 0x3B) (f := (4 + b2n m)) (d := d.toNat) (a := a.toNat) (b := b.toNat) k (by decide) (by omega) (by omega) (by omega) (by omega)
  rw [decode_3B h0 h1 h2 h3 h4 h5]
  clear h0 h1 h2 h3 h4 h5
  cases m <;> simp [dec3B, b2n, chk, *]

theorem cpl (k : Bool) (d : BitVec 3) (a : BitVec 7) (b : BitVec 7) : Statement (.cpl k d a b) := by
  have := d.isLt; have := a.isLt; have := b.isLt
  refine of_nat rfl (wordR_lt k (by decide) (by omega) (by omega) (by omega) (by omega)) (fun hw => ?_)
  obtain ⟨h0, h1, h2, h3, h4, h5⟩ := wordR_fields (m := 0x3C) (f := 0) (d := d.toNat) (a := a.toNat) (b := b.toNat) k (by decide) (by omega) (by omega) (by omega) (by omega)
  rw [decode_3C h0 h1 h2 h3 h4 h5]
  clear h0 h1 h2 h3 h4 h5
  simp [dec3C, b2n, chk, *]

theorem cpgo (k : Bool) (a : BitVec 7) (b : BitVec 7) : Statement (.cpgo k a b) := by
  have := a.isLt; have := b.isLt
  refine of_nat rfl (wordR_lt k (by decide) (by omega) (by omega) (by omega) (by omega)) (fun hw => ?_)
  obtain ⟨h0, h1, h2, h3, h4, h5⟩ := wordR_fields (m := 0x3C) (f := 1) (d := 0) (a := a.toNat) (b := b.toNat) k (by decide) (by omega) (by omega) (by omega) (by omega)
  rw [decode_3C h0 h1 h2 h3 h4 h5]

  simp [dec3C, b2n, chk]

theorem cpv (k : Bool) (d : BitVec 7) (a : BitVec 7) (b : BitVec 7) : Statement (.cpv k d a b) := by
  have := d.isLt; have := a.isLt; have := b.isLt
  refine of_nat rfl (wordR_lt k (by decide) (by omega) (by omega) (by omega) (by omega)) (fun hw => ?_)
  obtain ⟨h0, h1, h2, h3, h4, h5⟩ := wordR_fields (m := 0x3C) (f := 2) (d := d.toNat) (a := a.toNat) (b := b.toNat) k (by decide) (by omega) (by omega) (by omega) (by omega)
  rw [decode_3C h0 h1 h2 h3 h4 h5]

  simp [dec3C, b2n, chk]

theorem dmove (k : Bool) (d : BitVec 7) (a : BitVec 7) : Statement (.dmove k d a) := by
  have := d.isLt; have := a.isLt
  refine of_nat rfl (wordR_lt k (by decide) (by omega) (by omega) (by omega) (by omega)) (fun hw => ?_)
  obtain ⟨h0, h1, h2, h3, h4, h5⟩ := wordR_fields (m := 0x3C) (f := 3) (d := d.toNat) (a := a.toNat) (b := 0) k (by decide) (by omega) (by omega) (by omega) (by omega)
  rw [decode_3C h0 h1 h2 h3 h4 h5]

  simp [dec3C, b2n, chk]

theorem dfix (k : Bool) (d : BitVec 7) (a : BitVec 7) : Statement (.dfix k d a) := by
  have := d.isLt; have := a.isLt
  refine of_nat rfl (wordR_lt k (by decide) (by omega) (by omega) (by omega) (by omega)) (fun hw => ?_)
  obtain ⟨h0, h1, h2, h3, h4, h5⟩ := wordR_fields (m := 0x3C) (f := 4) (d := d.toNat) (a := a.toNat) (b := 0) k (by decide) (by omega) (by omega) (by omega) (by omega)
  rw [decode_3C h0 h1 h2 h3 h4 h5]

  simp [dec3C, b2n, chk]

theorem vdfix (k : Bool) (d : BitVec 7) (a : BitVec 7) (b : BitVec 7) : Statement (.vdfix k d a b) := by
  have := d.isLt; have := a.isLt; have := b.isLt
  refine of_nat rfl (wordR_lt k (by decide) (by omega) (by omega) (by omega) (by omega)) (fun hw => ?_)
  obtain ⟨h0, h1, h2, h3, h4, h5⟩ := wordR_fields (m := 0x3C) (f := 5) (d := d.toNat) (a := a.toNat) (b := b.toNat) k (by decide) (by omega) (by omega) (by omega) (by omega)
  rw [decode_3C h0 h1 h2 h3 h4 h5]

  simp [dec3C, b2n, chk]

theorem dsweep (k : Bool) (d : BitVec 7) : Statement (.dsweep k d) := by
  have := d.isLt
  refine of_nat rfl (wordR_lt k (by decide) (by omega) (by omega) (by omega) (by omega)) (fun hw => ?_)
  obtain ⟨h0, h1, h2, h3, h4, h5⟩ := wordR_fields (m := 0x3C) (f := 6) (d := d.toNat) (a := 0) (b := 0) k (by decide) (by omega) (by omega) (by omega) (by omega)
  rw [decode_3C h0 h1 h2 h3 h4 h5]

  simp [dec3C, b2n, chk]

theorem dack (k : Bool) (d : BitVec 7) : Statement (.dack k d) := by
  have := d.isLt
  refine of_nat rfl (wordR_lt k (by decide) (by omega) (by omega) (by omega) (by omega)) (fun hw => ?_)
  obtain ⟨h0, h1, h2, h3, h4, h5⟩ := wordR_fields (m := 0x3C) (f := 7) (d := d.toNat) (a := 0) (b := 0) k (by decide) (by omega) (by omega) (by omega) (by omega)
  rw [decode_3C h0 h1 h2 h3 h4 h5]

  simp [dec3C, b2n, chk]

theorem dstat (k : Bool) (d : BitVec 7) (a : BitVec 7) (b : BitVec 7) : Statement (.dstat k d a b) := by
  have := d.isLt; have := a.isLt; have := b.isLt
  refine of_nat rfl (wordR_lt k (by decide) (by omega) (by omega) (by omega) (by omega)) (fun hw => ?_)
  obtain ⟨h0, h1, h2, h3, h4, h5⟩ := wordR_fields (m := 0x3C) (f := 8) (d := d.toNat) (a := a.toNat) (b := b.toNat) k (by decide) (by omega) (by omega) (by omega) (by omega)
  rw [decode_3C h0 h1 h2 h3 h4 h5]

  simp [dec3C, b2n, chk]

theorem nwr (k : Bool) (d : BitVec 3) (a : BitVec 7) : Statement (.nwr k d a) := by
  have := d.isLt; have := a.isLt
  refine of_nat rfl (wordR_lt k (by decide) (by omega) (by omega) (by omega) (by omega)) (fun hw => ?_)
  obtain ⟨h0, h1, h2, h3, h4, h5⟩ := wordR_fields (m := 0x3D) (f := 0) (d := d.toNat) (a := a.toNat) (b := 0) k (by decide) (by omega) (by omega) (by omega) (by omega)
  rw [decode_3D h0 h1 h2 h3 h4 h5]
  clear h0 h1 h2 h3 h4 h5
  simp [dec3D, b2n, chk, *]

theorem npost (k : Bool) (d : BitVec 7) : Statement (.npost k d) := by
  have := d.isLt
  refine of_nat rfl (wordR_lt k (by decide) (by omega) (by omega) (by omega) (by omega)) (fun hw => ?_)
  obtain ⟨h0, h1, h2, h3, h4, h5⟩ := wordR_fields (m := 0x3D) (f := 1) (d := d.toNat) (a := 0) (b := 0) k (by decide) (by omega) (by omega) (by omega) (by omega)
  rw [decode_3D h0 h1 h2 h3 h4 h5]

  simp [dec3D, b2n, chk]

theorem nwait (k : Bool) (d : BitVec 7) (a : BitVec 7) (b : BitVec 7) : Statement (.nwait k d a b) := by
  have := d.isLt; have := a.isLt; have := b.isLt
  refine of_nat rfl (wordR_lt k (by decide) (by omega) (by omega) (by omega) (by omega)) (fun hw => ?_)
  obtain ⟨h0, h1, h2, h3, h4, h5⟩ := wordR_fields (m := 0x3D) (f := 2) (d := d.toNat) (a := a.toNat) (b := b.toNat) k (by decide) (by omega) (by omega) (by omega) (by omega)
  rw [decode_3D h0 h1 h2 h3 h4 h5]

  simp [dec3D, b2n, chk]

theorem nctr (k : Bool) (d : BitVec 7) (a : BitVec 7) (b : BitVec 7) : Statement (.nctr k d a b) := by
  have := d.isLt; have := a.isLt; have := b.isLt
  refine of_nat rfl (wordR_lt k (by decide) (by omega) (by omega) (by omega) (by omega)) (fun hw => ?_)
  obtain ⟨h0, h1, h2, h3, h4, h5⟩ := wordR_fields (m := 0x3D) (f := 3) (d := d.toNat) (a := a.toNat) (b := b.toNat) k (by decide) (by omega) (by omega) (by omega) (by omega)
  rw [decode_3D h0 h1 h2 h3 h4 h5]

  simp [dec3D, b2n, chk]

theorem cgload (k : Bool) (d : BitVec 7) (a : BitVec 7) (b : BitVec 7) : Statement (.cgload k d a b) := by
  have := d.isLt; have := a.isLt; have := b.isLt
  refine of_nat rfl (wordR_lt k (by decide) (by omega) (by omega) (by omega) (by omega)) (fun hw => ?_)
  obtain ⟨h0, h1, h2, h3, h4, h5⟩ := wordR_fields (m := 0x3D) (f := 4) (d := d.toNat) (a := a.toNat) (b := b.toNat) k (by decide) (by omega) (by omega) (by omega) (by omega)
  rw [decode_3D h0 h1 h2 h3 h4 h5]

  simp [dec3D, b2n, chk]

theorem cgrun (k : Bool) (d : BitVec 7) (a : BitVec 7) (b : BitVec 7) : Statement (.cgrun k d a b) := by
  have := d.isLt; have := a.isLt; have := b.isLt
  refine of_nat rfl (wordR_lt k (by decide) (by omega) (by omega) (by omega) (by omega)) (fun hw => ?_)
  obtain ⟨h0, h1, h2, h3, h4, h5⟩ := wordR_fields (m := 0x3D) (f := 5) (d := d.toNat) (a := a.toNat) (b := b.toNat) k (by decide) (by omega) (by omega) (by omega) (by omega)
  rw [decode_3D h0 h1 h2 h3 h4 h5]

  simp [dec3D, b2n, chk]

theorem cgwait (k : Bool) (d : BitVec 7) (a : BitVec 7) (b : BitVec 7) : Statement (.cgwait k d a b) := by
  have := d.isLt; have := a.isLt; have := b.isLt
  refine of_nat rfl (wordR_lt k (by decide) (by omega) (by omega) (by omega) (by omega)) (fun hw => ?_)
  obtain ⟨h0, h1, h2, h3, h4, h5⟩ := wordR_fields (m := 0x3D) (f := 6) (d := d.toNat) (a := a.toNat) (b := b.toNat) k (by decide) (by omega) (by omega) (by omega) (by omega)
  rw [decode_3D h0 h1 h2 h3 h4 h5]

  simp [dec3D, b2n, chk]

theorem cgstat (k : Bool) (d : BitVec 7) (a : BitVec 7) (b : BitVec 7) : Statement (.cgstat k d a b) := by
  have := d.isLt; have := a.isLt; have := b.isLt
  refine of_nat rfl (wordR_lt k (by decide) (by omega) (by omega) (by omega) (by omega)) (fun hw => ?_)
  obtain ⟨h0, h1, h2, h3, h4, h5⟩ := wordR_fields (m := 0x3D) (f := 7) (d := d.toNat) (a := a.toNat) (b := b.toNat) k (by decide) (by omega) (by omega) (by omega) (by omega)
  rw [decode_3D h0 h1 h2 h3 h4 h5]

  simp [dec3D, b2n, chk]

theorem add (k : Bool) (d : BitVec 7) (a : BitVec 7) (b : BitVec 7) : Statement (.add k d a b) := by
  have := d.isLt; have := a.isLt; have := b.isLt
  refine of_nat rfl (wordR_lt k (by decide) (by omega) (by omega) (by omega) (by omega)) (fun hw => ?_)
  obtain ⟨h0, h1, h2, h3, h4, h5⟩ := wordR_fields (m := 0x01) (f := 0) (d := d.toNat) (a := a.toNat) (b := b.toNat) k (by decide) (by omega) (by omega) (by omega) (by omega)
  rw [decode_01 h0 h1 h2 h3 h4 h5]

  simp [dec01, b2n, chk]

theorem sub (k : Bool) (d : BitVec 7) (a : BitVec 7) (b : BitVec 7) : Statement (.sub k d a b) := by
  have := d.isLt; have := a.isLt; have := b.isLt
  refine of_nat rfl (wordR_lt k (by decide) (by omega) (by omega) (by omega) (by omega)) (fun hw => ?_)
  obtain ⟨h0, h1, h2, h3, h4, h5⟩ := wordR_fields (m := 0x01) (f := 1) (d := d.toNat) (a := a.toNat) (b := b.toNat) k (by decide) (by omega) (by omega) (by omega) (by omega)
  rw [decode_01 h0 h1 h2 h3 h4 h5]

  simp [dec01, b2n, chk]

theorem and (k : Bool) (d : BitVec 7) (a : BitVec 7) (b : BitVec 7) : Statement (.and k d a b) := by
  have := d.isLt; have := a.isLt; have := b.isLt
  refine of_nat rfl (wordR_lt k (by decide) (by omega) (by omega) (by omega) (by omega)) (fun hw => ?_)
  obtain ⟨h0, h1, h2, h3, h4, h5⟩ := wordR_fields (m := 0x01) (f := 2) (d := d.toNat) (a := a.toNat) (b := b.toNat) k (by decide) (by omega) (by omega) (by omega) (by omega)
  rw [decode_01 h0 h1 h2 h3 h4 h5]

  simp [dec01, b2n, chk]

theorem or (k : Bool) (d : BitVec 7) (a : BitVec 7) (b : BitVec 7) : Statement (.or k d a b) := by
  have := d.isLt; have := a.isLt; have := b.isLt
  refine of_nat rfl (wordR_lt k (by decide) (by omega) (by omega) (by omega) (by omega)) (fun hw => ?_)
  obtain ⟨h0, h1, h2, h3, h4, h5⟩ := wordR_fields (m := 0x01) (f := 3) (d := d.toNat) (a := a.toNat) (b := b.toNat) k (by decide) (by omega) (by omega) (by omega) (by omega)
  rw [decode_01 h0 h1 h2 h3 h4 h5]

  simp [dec01, b2n, chk]

theorem xor (k : Bool) (d : BitVec 7) (a : BitVec 7) (b : BitVec 7) : Statement (.xor k d a b) := by
  have := d.isLt; have := a.isLt; have := b.isLt
  refine of_nat rfl (wordR_lt k (by decide) (by omega) (by omega) (by omega) (by omega)) (fun hw => ?_)
  obtain ⟨h0, h1, h2, h3, h4, h5⟩ := wordR_fields (m := 0x01) (f := 4) (d := d.toNat) (a := a.toNat) (b := b.toNat) k (by decide) (by omega) (by omega) (by omega) (by omega)
  rw [decode_01 h0 h1 h2 h3 h4 h5]

  simp [dec01, b2n, chk]

theorem sll (k : Bool) (d : BitVec 7) (a : BitVec 7) (b : BitVec 7) : Statement (.sll k d a b) := by
  have := d.isLt; have := a.isLt; have := b.isLt
  refine of_nat rfl (wordR_lt k (by decide) (by omega) (by omega) (by omega) (by omega)) (fun hw => ?_)
  obtain ⟨h0, h1, h2, h3, h4, h5⟩ := wordR_fields (m := 0x01) (f := 5) (d := d.toNat) (a := a.toNat) (b := b.toNat) k (by decide) (by omega) (by omega) (by omega) (by omega)
  rw [decode_01 h0 h1 h2 h3 h4 h5]

  simp [dec01, b2n, chk]

theorem srl (k : Bool) (d : BitVec 7) (a : BitVec 7) (b : BitVec 7) : Statement (.srl k d a b) := by
  have := d.isLt; have := a.isLt; have := b.isLt
  refine of_nat rfl (wordR_lt k (by decide) (by omega) (by omega) (by omega) (by omega)) (fun hw => ?_)
  obtain ⟨h0, h1, h2, h3, h4, h5⟩ := wordR_fields (m := 0x01) (f := 6) (d := d.toNat) (a := a.toNat) (b := b.toNat) k (by decide) (by omega) (by omega) (by omega) (by omega)
  rw [decode_01 h0 h1 h2 h3 h4 h5]

  simp [dec01, b2n, chk]

theorem sra (k : Bool) (d : BitVec 7) (a : BitVec 7) (b : BitVec 7) : Statement (.sra k d a b) := by
  have := d.isLt; have := a.isLt; have := b.isLt
  refine of_nat rfl (wordR_lt k (by decide) (by omega) (by omega) (by omega) (by omega)) (fun hw => ?_)
  obtain ⟨h0, h1, h2, h3, h4, h5⟩ := wordR_fields (m := 0x01) (f := 7) (d := d.toNat) (a := a.toNat) (b := b.toNat) k (by decide) (by omega) (by omega) (by omega) (by omega)
  rw [decode_01 h0 h1 h2 h3 h4 h5]

  simp [dec01, b2n, chk]

theorem slt (k : Bool) (d : BitVec 7) (a : BitVec 7) (b : BitVec 7) : Statement (.slt k d a b) := by
  have := d.isLt; have := a.isLt; have := b.isLt
  refine of_nat rfl (wordR_lt k (by decide) (by omega) (by omega) (by omega) (by omega)) (fun hw => ?_)
  obtain ⟨h0, h1, h2, h3, h4, h5⟩ := wordR_fields (m := 0x01) (f := 8) (d := d.toNat) (a := a.toNat) (b := b.toNat) k (by decide) (by omega) (by omega) (by omega) (by omega)
  rw [decode_01 h0 h1 h2 h3 h4 h5]

  simp [dec01, b2n, chk]

theorem sltn (k : Bool) (d : BitVec 7) (a : BitVec 7) (b : BitVec 7) : Statement (.sltn k d a b) := by
  have := d.isLt; have := a.isLt; have := b.isLt
  refine of_nat rfl (wordR_lt k (by decide) (by omega) (by omega) (by omega) (by omega)) (fun hw => ?_)
  obtain ⟨h0, h1, h2, h3, h4, h5⟩ := wordR_fields (m := 0x01) (f := 9) (d := d.toNat) (a := a.toNat) (b := b.toNat) k (by decide) (by omega) (by omega) (by omega) (by omega)
  rw [decode_01 h0 h1 h2 h3 h4 h5]

  simp [dec01, b2n, chk]

theorem seq (k : Bool) (d : BitVec 7) (a : BitVec 7) (b : BitVec 7) : Statement (.seq k d a b) := by
  have := d.isLt; have := a.isLt; have := b.isLt
  refine of_nat rfl (wordR_lt k (by decide) (by omega) (by omega) (by omega) (by omega)) (fun hw => ?_)
  obtain ⟨h0, h1, h2, h3, h4, h5⟩ := wordR_fields (m := 0x01) (f := 10) (d := d.toNat) (a := a.toNat) (b := b.toNat) k (by decide) (by omega) (by omega) (by omega) (by omega)
  rw [decode_01 h0 h1 h2 h3 h4 h5]

  simp [dec01, b2n, chk]

theorem sne (k : Bool) (d : BitVec 7) (a : BitVec 7) (b : BitVec 7) : Statement (.sne k d a b) := by
  have := d.isLt; have := a.isLt; have := b.isLt
  refine of_nat rfl (wordR_lt k (by decide) (by omega) (by omega) (by omega) (by omega)) (fun hw => ?_)
  obtain ⟨h0, h1, h2, h3, h4, h5⟩ := wordR_fields (m := 0x01) (f := 11) (d := d.toNat) (a := a.toNat) (b := b.toNat) k (by decide) (by omega) (by omega) (by omega) (by omega)
  rw [decode_01 h0 h1 h2 h3 h4 h5]

  simp [dec01, b2n, chk]

theorem fadd (k : Bool) (d : BitVec 7) (a : BitVec 7) (b : BitVec 7) : Statement (.fadd k d a b) := by
  have := d.isLt; have := a.isLt; have := b.isLt
  refine of_nat rfl (wordR_lt k (by decide) (by omega) (by omega) (by omega) (by omega)) (fun hw => ?_)
  obtain ⟨h0, h1, h2, h3, h4, h5⟩ := wordR_fields (m := 0x02) (f := 0) (d := d.toNat) (a := a.toNat) (b := b.toNat) k (by decide) (by omega) (by omega) (by omega) (by omega)
  rw [decode_02 h0 h1 h2 h3 h4 h5]

  simp [dec02, b2n, chk]

theorem fsub (k : Bool) (d : BitVec 7) (a : BitVec 7) (b : BitVec 7) : Statement (.fsub k d a b) := by
  have := d.isLt; have := a.isLt; have := b.isLt
  refine of_nat rfl (wordR_lt k (by decide) (by omega) (by omega) (by omega) (by omega)) (fun hw => ?_)
  obtain ⟨h0, h1, h2, h3, h4, h5⟩ := wordR_fields (m := 0x02) (f := 1) (d := d.toNat) (a := a.toNat) (b := b.toNat) k (by decide) (by omega) (by omega) (by omega) (by omega)
  rw [decode_02 h0 h1 h2 h3 h4 h5]

  simp [dec02, b2n, chk]

theorem fmul (k : Bool) (d : BitVec 7) (a : BitVec 7) (b : BitVec 7) : Statement (.fmul k d a b) := by
  have := d.isLt; have := a.isLt; have := b.isLt
  refine of_nat rfl (wordR_lt k (by decide) (by omega) (by omega) (by omega) (by omega)) (fun hw => ?_)
  obtain ⟨h0, h1, h2, h3, h4, h5⟩ := wordR_fields (m := 0x02) (f := 2) (d := d.toNat) (a := a.toNat) (b := b.toNat) k (by decide) (by omega) (by omega) (by omega) (by omega)
  rw [decode_02 h0 h1 h2 h3 h4 h5]

  simp [dec02, b2n, chk]

theorem fdiv (k : Bool) (d : BitVec 7) (a : BitVec 7) (b : BitVec 7) : Statement (.fdiv k d a b) := by
  have := d.isLt; have := a.isLt; have := b.isLt
  refine of_nat rfl (wordR_lt k (by decide) (by omega) (by omega) (by omega) (by omega)) (fun hw => ?_)
  obtain ⟨h0, h1, h2, h3, h4, h5⟩ := wordR_fields (m := 0x02) (f := 3) (d := d.toNat) (a := a.toNat) (b := b.toNat) k (by decide) (by omega) (by omega) (by omega) (by omega)
  rw [decode_02 h0 h1 h2 h3 h4 h5]

  simp [dec02, b2n, chk]

theorem ffma (k : Bool) (d : BitVec 7) (a : BitVec 7) (b : BitVec 7) : Statement (.ffma k d a b) := by
  have := d.isLt; have := a.isLt; have := b.isLt
  refine of_nat rfl (wordR_lt k (by decide) (by omega) (by omega) (by omega) (by omega)) (fun hw => ?_)
  obtain ⟨h0, h1, h2, h3, h4, h5⟩ := wordR_fields (m := 0x02) (f := 4) (d := d.toNat) (a := a.toNat) (b := b.toNat) k (by decide) (by omega) (by omega) (by omega) (by omega)
  rw [decode_02 h0 h1 h2 h3 h4 h5]

  simp [dec02, b2n, chk]

theorem fsqrt (k : Bool) (d : BitVec 7) (a : BitVec 7) : Statement (.fsqrt k d a) := by
  have := d.isLt; have := a.isLt
  refine of_nat rfl (wordR_lt k (by decide) (by omega) (by omega) (by omega) (by omega)) (fun hw => ?_)
  obtain ⟨h0, h1, h2, h3, h4, h5⟩ := wordR_fields (m := 0x02) (f := 5) (d := d.toNat) (a := a.toNat) (b := 0) k (by decide) (by omega) (by omega) (by omega) (by omega)
  rw [decode_02 h0 h1 h2 h3 h4 h5]

  simp [dec02, b2n, chk]

theorem fmin (k : Bool) (d : BitVec 7) (a : BitVec 7) (b : BitVec 7) : Statement (.fmin k d a b) := by
  have := d.isLt; have := a.isLt; have := b.isLt
  refine of_nat rfl (wordR_lt k (by decide) (by omega) (by omega) (by omega) (by omega)) (fun hw => ?_)
  obtain ⟨h0, h1, h2, h3, h4, h5⟩ := wordR_fields (m := 0x02) (f := 6) (d := d.toNat) (a := a.toNat) (b := b.toNat) k (by decide) (by omega) (by omega) (by omega) (by omega)
  rw [decode_02 h0 h1 h2 h3 h4 h5]

  simp [dec02, b2n, chk]

theorem fmax (k : Bool) (d : BitVec 7) (a : BitVec 7) (b : BitVec 7) : Statement (.fmax k d a b) := by
  have := d.isLt; have := a.isLt; have := b.isLt
  refine of_nat rfl (wordR_lt k (by decide) (by omega) (by omega) (by omega) (by omega)) (fun hw => ?_)
  obtain ⟨h0, h1, h2, h3, h4, h5⟩ := wordR_fields (m := 0x02) (f := 7) (d := d.toNat) (a := a.toNat) (b := b.toNat) k (by decide) (by omega) (by omega) (by omega) (by omega)
  rw [decode_02 h0 h1 h2 h3 h4 h5]

  simp [dec02, b2n, chk]

theorem feq (k : Bool) (d : BitVec 7) (a : BitVec 7) (b : BitVec 7) : Statement (.feq k d a b) := by
  have := d.isLt; have := a.isLt; have := b.isLt
  refine of_nat rfl (wordR_lt k (by decide) (by omega) (by omega) (by omega) (by omega)) (fun hw => ?_)
  obtain ⟨h0, h1, h2, h3, h4, h5⟩ := wordR_fields (m := 0x02) (f := 8) (d := d.toNat) (a := a.toNat) (b := b.toNat) k (by decide) (by omega) (by omega) (by omega) (by omega)
  rw [decode_02 h0 h1 h2 h3 h4 h5]

  simp [dec02, b2n, chk]

theorem flt (k : Bool) (d : BitVec 7) (a : BitVec 7) (b : BitVec 7) : Statement (.flt k d a b) := by
  have := d.isLt; have := a.isLt; have := b.isLt
  refine of_nat rfl (wordR_lt k (by decide) (by omega) (by omega) (by omega) (by omega)) (fun hw => ?_)
  obtain ⟨h0, h1, h2, h3, h4, h5⟩ := wordR_fields (m := 0x02) (f := 9) (d := d.toNat) (a := a.toNat) (b := b.toNat) k (by decide) (by omega) (by omega) (by omega) (by omega)
  rw [decode_02 h0 h1 h2 h3 h4 h5]

  simp [dec02, b2n, chk]

theorem fle (k : Bool) (d : BitVec 7) (a : BitVec 7) (b : BitVec 7) : Statement (.fle k d a b) := by
  have := d.isLt; have := a.isLt; have := b.isLt
  refine of_nat rfl (wordR_lt k (by decide) (by omega) (by omega) (by omega) (by omega)) (fun hw => ?_)
  obtain ⟨h0, h1, h2, h3, h4, h5⟩ := wordR_fields (m := 0x02) (f := 10) (d := d.toNat) (a := a.toNat) (b := b.toNat) k (by decide) (by omega) (by omega) (by omega) (by omega)
  rw [decode_02 h0 h1 h2 h3 h4 h5]

  simp [dec02, b2n, chk]

theorem fcvtI (k : Bool) (d : BitVec 7) (a : BitVec 7) : Statement (.fcvtI k d a) := by
  have := d.isLt; have := a.isLt
  refine of_nat rfl (wordR_lt k (by decide) (by omega) (by omega) (by omega) (by omega)) (fun hw => ?_)
  obtain ⟨h0, h1, h2, h3, h4, h5⟩ := wordR_fields (m := 0x02) (f := 11) (d := d.toNat) (a := a.toNat) (b := 0) k (by decide) (by omega) (by omega) (by omega) (by omega)
  rw [decode_02 h0 h1 h2 h3 h4 h5]

  simp [dec02, b2n, chk]

theorem fcvtN (k : Bool) (d : BitVec 7) (a : BitVec 7) : Statement (.fcvtN k d a) := by
  have := d.isLt; have := a.isLt
  refine of_nat rfl (wordR_lt k (by decide) (by omega) (by omega) (by omega) (by omega)) (fun hw => ?_)
  obtain ⟨h0, h1, h2, h3, h4, h5⟩ := wordR_fields (m := 0x02) (f := 12) (d := d.toNat) (a := a.toNat) (b := 0) k (by decide) (by omega) (by omega) (by omega) (by omega)
  rw [decode_02 h0 h1 h2 h3 h4 h5]

  simp [dec02, b2n, chk]

theorem fcvtFi (k : Bool) (d : BitVec 7) (a : BitVec 7) : Statement (.fcvtFi k d a) := by
  have := d.isLt; have := a.isLt
  refine of_nat rfl (wordR_lt k (by decide) (by omega) (by omega) (by omega) (by omega)) (fun hw => ?_)
  obtain ⟨h0, h1, h2, h3, h4, h5⟩ := wordR_fields (m := 0x02) (f := 13) (d := d.toNat) (a := a.toNat) (b := 0) k (by decide) (by omega) (by omega) (by omega) (by omega)
  rw [decode_02 h0 h1 h2 h3 h4 h5]

  simp [dec02, b2n, chk]

theorem fcvtFn (k : Bool) (d : BitVec 7) (a : BitVec 7) : Statement (.fcvtFn k d a) := by
  have := d.isLt; have := a.isLt
  refine of_nat rfl (wordR_lt k (by decide) (by omega) (by omega) (by omega) (by omega)) (fun hw => ?_)
  obtain ⟨h0, h1, h2, h3, h4, h5⟩ := wordR_fields (m := 0x02) (f := 14) (d := d.toNat) (a := a.toNat) (b := 0) k (by decide) (by omega) (by omega) (by omega) (by omega)
  rw [decode_02 h0 h1 h2 h3 h4 h5]

  simp [dec02, b2n, chk]

theorem mul (k : Bool) (d : BitVec 7) (a : BitVec 7) (b : BitVec 7) : Statement (.mul k d a b) := by
  have := d.isLt; have := a.isLt; have := b.isLt
  refine of_nat rfl (wordR_lt k (by decide) (by omega) (by omega) (by omega) (by omega)) (fun hw => ?_)
  obtain ⟨h0, h1, h2, h3, h4, h5⟩ := wordR_fields (m := 0x03) (f := 0) (d := d.toNat) (a := a.toNat) (b := b.toNat) k (by decide) (by omega) (by omega) (by omega) (by omega)
  rw [decode_03 h0 h1 h2 h3 h4 h5]

  simp [dec03, b2n, chk]

theorem mulh (k : Bool) (d : BitVec 7) (a : BitVec 7) (b : BitVec 7) : Statement (.mulh k d a b) := by
  have := d.isLt; have := a.isLt; have := b.isLt
  refine of_nat rfl (wordR_lt k (by decide) (by omega) (by omega) (by omega) (by omega)) (fun hw => ?_)
  obtain ⟨h0, h1, h2, h3, h4, h5⟩ := wordR_fields (m := 0x03) (f := 1) (d := d.toNat) (a := a.toNat) (b := b.toNat) k (by decide) (by omega) (by omega) (by omega) (by omega)
  rw [decode_03 h0 h1 h2 h3 h4 h5]

  simp [dec03, b2n, chk]

theorem mulhn (k : Bool) (d : BitVec 7) (a : BitVec 7) (b : BitVec 7) : Statement (.mulhn k d a b) := by
  have := d.isLt; have := a.isLt; have := b.isLt
  refine of_nat rfl (wordR_lt k (by decide) (by omega) (by omega) (by omega) (by omega)) (fun hw => ?_)
  obtain ⟨h0, h1, h2, h3, h4, h5⟩ := wordR_fields (m := 0x03) (f := 2) (d := d.toNat) (a := a.toNat) (b := b.toNat) k (by decide) (by omega) (by omega) (by omega) (by omega)
  rw [decode_03 h0 h1 h2 h3 h4 h5]

  simp [dec03, b2n, chk]

theorem div (k : Bool) (d : BitVec 7) (a : BitVec 7) (b : BitVec 7) : Statement (.div k d a b) := by
  have := d.isLt; have := a.isLt; have := b.isLt
  refine of_nat rfl (wordR_lt k (by decide) (by omega) (by omega) (by omega) (by omega)) (fun hw => ?_)
  obtain ⟨h0, h1, h2, h3, h4, h5⟩ := wordR_fields (m := 0x03) (f := 3) (d := d.toNat) (a := a.toNat) (b := b.toNat) k (by decide) (by omega) (by omega) (by omega) (by omega)
  rw [decode_03 h0 h1 h2 h3 h4 h5]

  simp [dec03, b2n, chk]

theorem divn (k : Bool) (d : BitVec 7) (a : BitVec 7) (b : BitVec 7) : Statement (.divn k d a b) := by
  have := d.isLt; have := a.isLt; have := b.isLt
  refine of_nat rfl (wordR_lt k (by decide) (by omega) (by omega) (by omega) (by omega)) (fun hw => ?_)
  obtain ⟨h0, h1, h2, h3, h4, h5⟩ := wordR_fields (m := 0x03) (f := 4) (d := d.toNat) (a := a.toNat) (b := b.toNat) k (by decide) (by omega) (by omega) (by omega) (by omega)
  rw [decode_03 h0 h1 h2 h3 h4 h5]

  simp [dec03, b2n, chk]

theorem rem (k : Bool) (d : BitVec 7) (a : BitVec 7) (b : BitVec 7) : Statement (.rem k d a b) := by
  have := d.isLt; have := a.isLt; have := b.isLt
  refine of_nat rfl (wordR_lt k (by decide) (by omega) (by omega) (by omega) (by omega)) (fun hw => ?_)
  obtain ⟨h0, h1, h2, h3, h4, h5⟩ := wordR_fields (m := 0x03) (f := 5) (d := d.toNat) (a := a.toNat) (b := b.toNat) k (by decide) (by omega) (by omega) (by omega) (by omega)
  rw [decode_03 h0 h1 h2 h3 h4 h5]

  simp [dec03, b2n, chk]

theorem remn (k : Bool) (d : BitVec 7) (a : BitVec 7) (b : BitVec 7) : Statement (.remn k d a b) := by
  have := d.isLt; have := a.isLt; have := b.isLt
  refine of_nat rfl (wordR_lt k (by decide) (by omega) (by omega) (by omega) (by omega)) (fun hw => ?_)
  obtain ⟨h0, h1, h2, h3, h4, h5⟩ := wordR_fields (m := 0x03) (f := 6) (d := d.toNat) (a := a.toNat) (b := b.toNat) k (by decide) (by omega) (by omega) (by omega) (by omega)
  rw [decode_03 h0 h1 h2 h3 h4 h5]

  simp [dec03, b2n, chk]

theorem addi (k : Bool) (d : BitVec 7) (a : BitVec 7) (i : BitVec 11) : Statement (.addi k d a i) := by
  have := d.isLt; have := a.isLt; have := i.isLt
  refine of_nat rfl (by rw [wordI_eq]; exact wordR_lt k (by decide) (by omega) (by omega) (by omega) (by omega)) (fun hw => ?_)
  obtain ⟨h0, h1, h3, h4, h5⟩ := wordI_fields (m := 0x04) (i := i.toNat) (d := d.toNat) (a := a.toNat) k (by decide) (by omega) (by omega) (by omega)
  rw [decode_04 h0 h1 h3 h4 h5]

  simp [chk]

theorem andi (k : Bool) (d : BitVec 7) (a : BitVec 7) (i : BitVec 8) : Statement (.andi k d a i) := by
  have := d.isLt; have := a.isLt; have := i.isLt
  refine of_nat rfl (by rw [wordI_eq]; exact wordR_lt k (by decide) (by omega) (by omega) (by omega) (by omega)) (fun hw => ?_)
  obtain ⟨h0, h1, h3, h4, h5⟩ := wordI_fields (m := 0x05) (i := (0 * 256 + i.toNat)) (d := d.toNat) (a := a.toNat) k (by decide) (by omega) (by omega) (by omega)
  rw [decode_05 h0 h1 h3 h4 h5]
  clear h0 h1 h3 h4 h5
  have e1 : (0 * 256 + i.toNat) / 256 = 0 := by omega
  have e2 : (0 * 256 + i.toNat) % 256 = i.toNat := by omega
  simp only [dec05, e1, e2]
  simp [chk]

theorem ori (k : Bool) (d : BitVec 7) (a : BitVec 7) (i : BitVec 8) : Statement (.ori k d a i) := by
  have := d.isLt; have := a.isLt; have := i.isLt
  refine of_nat rfl (by rw [wordI_eq]; exact wordR_lt k (by decide) (by omega) (by omega) (by omega) (by omega)) (fun hw => ?_)
  obtain ⟨h0, h1, h3, h4, h5⟩ := wordI_fields (m := 0x05) (i := (1 * 256 + i.toNat)) (d := d.toNat) (a := a.toNat) k (by decide) (by omega) (by omega) (by omega)
  rw [decode_05 h0 h1 h3 h4 h5]
  clear h0 h1 h3 h4 h5
  have e1 : (1 * 256 + i.toNat) / 256 = 1 := by omega
  have e2 : (1 * 256 + i.toNat) % 256 = i.toNat := by omega
  simp only [dec05, e1, e2]
  simp [chk]

theorem xori (k : Bool) (d : BitVec 7) (a : BitVec 7) (i : BitVec 8) : Statement (.xori k d a i) := by
  have := d.isLt; have := a.isLt; have := i.isLt
  refine of_nat rfl (by rw [wordI_eq]; exact wordR_lt k (by decide) (by omega) (by omega) (by omega) (by omega)) (fun hw => ?_)
  obtain ⟨h0, h1, h3, h4, h5⟩ := wordI_fields (m := 0x05) (i := (2 * 256 + i.toNat)) (d := d.toNat) (a := a.toNat) k (by decide) (by omega) (by omega) (by omega)
  rw [decode_05 h0 h1 h3 h4 h5]
  clear h0 h1 h3 h4 h5
  have e1 : (2 * 256 + i.toNat) / 256 = 2 := by omega
  have e2 : (2 * 256 + i.toNat) % 256 = i.toNat := by omega
  simp only [dec05, e1, e2]
  simp [chk]

theorem slti (k : Bool) (d : BitVec 7) (a : BitVec 7) (i : BitVec 8) : Statement (.slti k d a i) := by
  have := d.isLt; have := a.isLt; have := i.isLt
  refine of_nat rfl (by rw [wordI_eq]; exact wordR_lt k (by decide) (by omega) (by omega) (by omega) (by omega)) (fun hw => ?_)
  obtain ⟨h0, h1, h3, h4, h5⟩ := wordI_fields (m := 0x05) (i := (3 * 256 + i.toNat)) (d := d.toNat) (a := a.toNat) k (by decide) (by omega) (by omega) (by omega)
  rw [decode_05 h0 h1 h3 h4 h5]
  clear h0 h1 h3 h4 h5
  have e1 : (3 * 256 + i.toNat) / 256 = 3 := by omega
  have e2 : (3 * 256 + i.toNat) % 256 = i.toNat := by omega
  simp only [dec05, e1, e2]
  simp [chk]

theorem sltni (k : Bool) (d : BitVec 7) (a : BitVec 7) (i : BitVec 8) : Statement (.sltni k d a i) := by
  have := d.isLt; have := a.isLt; have := i.isLt
  refine of_nat rfl (by rw [wordI_eq]; exact wordR_lt k (by decide) (by omega) (by omega) (by omega) (by omega)) (fun hw => ?_)
  obtain ⟨h0, h1, h3, h4, h5⟩ := wordI_fields (m := 0x05) (i := (4 * 256 + i.toNat)) (d := d.toNat) (a := a.toNat) k (by decide) (by omega) (by omega) (by omega)
  rw [decode_05 h0 h1 h3 h4 h5]
  clear h0 h1 h3 h4 h5
  have e1 : (4 * 256 + i.toNat) / 256 = 4 := by omega
  have e2 : (4 * 256 + i.toNat) % 256 = i.toNat := by omega
  simp only [dec05, e1, e2]
  simp [chk]

theorem slli (k : Bool) (d : BitVec 7) (a : BitVec 7) (h : BitVec 6) : Statement (.slli k d a h) := by
  have := d.isLt; have := a.isLt; have := h.isLt
  refine of_nat rfl (by rw [wordI_eq]; exact wordR_lt k (by decide) (by omega) (by omega) (by omega) (by omega)) (fun hw => ?_)
  obtain ⟨h0, h1, h3, h4, h5⟩ := wordI_fields (m := 0x05) (i := (5 * 256 + h.toNat)) (d := d.toNat) (a := a.toNat) k (by decide) (by omega) (by omega) (by omega)
  rw [decode_05 h0 h1 h3 h4 h5]
  clear h0 h1 h3 h4 h5
  have e1 : (5 * 256 + h.toNat) / 256 = 5 := by omega
  have e2 : (5 * 256 + h.toNat) % 256 = h.toNat := by omega
  have e3 : (5 * 256 + h.toNat) / 64 % 4 = 0 := by omega
  have e4 : (5 * 256 + h.toNat) % 64 = h.toNat := by omega
  simp only [dec05, e1, e2, e3, e4]
  simp [chk]

theorem srli (k : Bool) (d : BitVec 7) (a : BitVec 7) (h : BitVec 6) : Statement (.srli k d a h) := by
  have := d.isLt; have := a.isLt; have := h.isLt
  refine of_nat rfl (by rw [wordI_eq]; exact wordR_lt k (by decide) (by omega) (by omega) (by omega) (by omega)) (fun hw => ?_)
  obtain ⟨h0, h1, h3, h4, h5⟩ := wordI_fields (m := 0x05) (i := (6 * 256 + h.toNat)) (d := d.toNat) (a := a.toNat) k (by decide) (by omega) (by omega) (by omega)
  rw [decode_05 h0 h1 h3 h4 h5]
  clear h0 h1 h3 h4 h5
  have e1 : (6 * 256 + h.toNat) / 256 = 6 := by omega
  have e2 : (6 * 256 + h.toNat) % 256 = h.toNat := by omega
  have e3 : (6 * 256 + h.toNat) / 64 % 4 = 0 := by omega
  have e4 : (6 * 256 + h.toNat) % 64 = h.toNat := by omega
  simp only [dec05, e1, e2, e3, e4]
  simp [chk]

theorem srai (k : Bool) (d : BitVec 7) (a : BitVec 7) (h : BitVec 6) : Statement (.srai k d a h) := by
  have := d.isLt; have := a.isLt; have := h.isLt
  refine of_nat rfl (by rw [wordI_eq]; exact wordR_lt k (by decide) (by omega) (by omega) (by omega) (by omega)) (fun hw => ?_)
  obtain ⟨h0, h1, h3, h4, h5⟩ := wordI_fields (m := 0x05) (i := (7 * 256 + h.toNat)) (d := d.toNat) (a := a.toNat) k (by decide) (by omega) (by omega) (by omega)
  rw [decode_05 h0 h1 h3 h4 h5]
  clear h0 h1 h3 h4 h5
  have e1 : (7 * 256 + h.toNat) / 256 = 7 := by omega
  have e2 : (7 * 256 + h.toNat) % 256 = h.toNat := by omega
  have e3 : (7 * 256 + h.toNat) / 64 % 4 = 0 := by omega
  have e4 : (7 * 256 + h.toNat) % 64 = h.toNat := by omega
  simp only [dec05, e1, e2, e3, e4]
  simp [chk]

theorem jalr (k : Bool) (d : BitVec 7) (a : BitVec 7) (i : BitVec 11) : Statement (.jalr k d a i) := by
  have := d.isLt; have := a.isLt; have := i.isLt
  refine of_nat rfl (by rw [wordI_eq]; exact wordR_lt k (by decide) (by omega) (by omega) (by omega) (by omega)) (fun hw => ?_)
  obtain ⟨h0, h1, h3, h4, h5⟩ := wordI_fields (m := 0x06) (i := i.toNat) (d := d.toNat) (a := a.toNat) k (by decide) (by omega) (by omega) (by omega)
  rw [decode_06 h0 h1 h3 h4 h5]

  simp [chk]

theorem lim (k : Bool) (d : BitVec 7) (i : BitVec 18) : Statement (.lim k d i) := by
  have := d.isLt; have := i.isLt
  refine of_nat rfl ((wordL_fields (m := 0x07) k (by decide) (by omega) (by omega)).1) (fun hw => ?_)
  obtain ⟨-, h0, h1, h4, h5⟩ := wordL_fields (m := 0x07) (i := i.toNat) (d := d.toNat) k (by decide) (by omega) (by omega)
  rw [decode_07 h0 h1 h4 h5]
  clear h0 h1 h4 h5
  simp [chk, *]

theorem apc (k : Bool) (d : BitVec 7) (i : BitVec 18) : Statement (.apc k d i) := by
  have := d.isLt; have := i.isLt
  refine of_nat rfl ((wordL_fields (m := 0x08) k (by decide) (by omega) (by omega)).1) (fun hw => ?_)
  obtain ⟨-, h0, h1, h4, h5⟩ := wordL_fields (m := 0x08) (i := i.toNat) (d := d.toNat) k (by decide) (by omega) (by omega)
  rw [decode_08 h0 h1 h4 h5]
  clear h0 h1 h4 h5
  simp [chk, *]

theorem beq (k : Bool) (a : BitVec 7) (b : BitVec 7) (o : BitVec 11) : Statement (.beq k a b o) := by
  have := a.isLt; have := b.isLt; have := o.isLt
  refine of_nat rfl (by rw [wordI_eq]; exact wordR_lt k (by decide) (by omega) (by omega) (by omega) (by omega)) (fun hw => ?_)
  obtain ⟨h0, h1, h3, h4, h5⟩ := wordI_fields (m := 0x09) (i := o.toNat) (d := a.toNat) (a := b.toNat) k (by decide) (by omega) (by omega) (by omega)
  rw [decode_09 h0 h1 h3 h4 h5]

  simp [chk]

theorem bne (k : Bool) (a : BitVec 7) (b : BitVec 7) (o : BitVec 11) : Statement (.bne k a b o) := by
  have := a.isLt; have := b.isLt; have := o.isLt
  refine of_nat rfl (by rw [wordI_eq]; exact wordR_lt k (by decide) (by omega) (by omega) (by omega) (by omega)) (fun hw => ?_)
  obtain ⟨h0, h1, h3, h4, h5⟩ := wordI_fields (m := 0x0A) (i := o.toNat) (d := a.toNat) (a := b.toNat) k (by decide) (by omega) (by omega) (by omega)
  rw [decode_0A h0 h1 h3 h4 h5]

  simp [chk]

theorem blt (k : Bool) (a : BitVec 7) (b : BitVec 7) (o : BitVec 11) : Statement (.blt k a b o) := by
  have := a.isLt; have := b.isLt; have := o.isLt
  refine of_nat rfl (by rw [wordI_eq]; exact wordR_lt k (by decide) (by omega) (by omega) (by omega) (by omega)) (fun hw => ?_)
  obtain ⟨h0, h1, h3, h4, h5⟩ := wordI_fields (m := 0x0B) (i := o.toNat) (d := a.toNat) (a := b.toNat) k (by decide) (by omega) (by omega) (by omega)
  rw [decode_0B h0 h1 h3 h4 h5]

  simp [chk]

theorem bge (k : Bool) (a : BitVec 7) (b : BitVec 7) (o : BitVec 11) : Statement (.bge k a b o) := by
  have := a.isLt; have := b.isLt; have := o.isLt
  refine of_nat rfl (by rw [wordI_eq]; exact wordR_lt k (by decide) (by omega) (by omega) (by omega) (by omega)) (fun hw => ?_)
  obtain ⟨h0, h1, h3, h4, h5⟩ := wordI_fields (m := 0x0C) (i := o.toNat) (d := a.toNat) (a := b.toNat) k (by decide) (by omega) (by omega) (by omega)
  rw [decode_0C h0 h1 h3 h4 h5]

  simp [chk]

theorem bltn (k : Bool) (a : BitVec 7) (b : BitVec 7) (o : BitVec 11) : Statement (.bltn k a b o) := by
  have := a.isLt; have := b.isLt; have := o.isLt
  refine of_nat rfl (by rw [wordI_eq]; exact wordR_lt k (by decide) (by omega) (by omega) (by omega) (by omega)) (fun hw => ?_)
  obtain ⟨h0, h1, h3, h4, h5⟩ := wordI_fields (m := 0x0D) (i := o.toNat) (d := a.toNat) (a := b.toNat) k (by decide) (by omega) (by omega) (by omega)
  rw [decode_0D h0 h1 h3 h4 h5]

  simp [chk]

theorem bgen (k : Bool) (a : BitVec 7) (b : BitVec 7) (o : BitVec 11) : Statement (.bgen k a b o) := by
  have := a.isLt; have := b.isLt; have := o.isLt
  refine of_nat rfl (by rw [wordI_eq]; exact wordR_lt k (by decide) (by omega) (by omega) (by omega) (by omega)) (fun hw => ?_)
  obtain ⟨h0, h1, h3, h4, h5⟩ := wordI_fields (m := 0x0E) (i := o.toNat) (d := a.toNat) (a := b.toNat) k (by decide) (by omega) (by omega) (by omega)
  rw [decode_0E h0 h1 h3 h4 h5]

  simp [chk]

theorem jal (k : Bool) (o : BitVec 25) : Statement (.jal k o) := by
  have := o.isLt
  refine of_nat rfl ((wordJ_fields (m := 0x0F) k (by decide) (by omega)).1) (fun hw => ?_)
  obtain ⟨-, h0, h1, h5⟩ := wordJ_fields (m := 0x0F) (i := o.toNat) k (by decide) (by omega)
  rw [decode_0F h0 h1 h5]
  clear h0 h1 h5
  simp [chk, *]

theorem ld64 (k : Bool) (d : BitVec 7) (a : BitVec 7) (i : BitVec 11) : Statement (.ld64 k d a i) := by
  have := d.isLt; have := a.isLt; have := i.isLt
  refine of_nat rfl (by rw [wordI_eq]; exact wordR_lt k (by decide) (by omega) (by omega) (by omega) (by omega)) (fun hw => ?_)
  obtain ⟨h0, h1, h3, h4, h5⟩ := wordI_fields (m := 0x10) (i := i.toNat) (d := d.toNat) (a := a.toNat) k (by decide) (by omega) (by omega) (by omega)
  rw [decode_10 h0 h1 h3 h4 h5]

  simp [chk]

theorem ld32 (k : Bool) (d : BitVec 7) (a : BitVec 7) (i : BitVec 11) : Statement (.ld32 k d a i) := by
  have := d.isLt; have := a.isLt; have := i.isLt
  refine of_nat rfl (by rw [wordI_eq]; exact wordR_lt k (by decide) (by omega) (by omega) (by omega) (by omega)) (fun hw => ?_)
  obtain ⟨h0, h1, h3, h4, h5⟩ := wordI_fields (m := 0x11) (i := i.toNat) (d := d.toNat) (a := a.toNat) k (by decide) (by omega) (by omega) (by omega)
  rw [decode_11 h0 h1 h3 h4 h5]

  simp [chk]

theorem ld32n (k : Bool) (d : BitVec 7) (a : BitVec 7) (i : BitVec 11) : Statement (.ld32n k d a i) := by
  have := d.isLt; have := a.isLt; have := i.isLt
  refine of_nat rfl (by rw [wordI_eq]; exact wordR_lt k (by decide) (by omega) (by omega) (by omega) (by omega)) (fun hw => ?_)
  obtain ⟨h0, h1, h3, h4, h5⟩ := wordI_fields (m := 0x12) (i := i.toNat) (d := d.toNat) (a := a.toNat) k (by decide) (by omega) (by omega) (by omega)
  rw [decode_12 h0 h1 h3 h4 h5]

  simp [chk]

theorem ld16 (k : Bool) (d : BitVec 7) (a : BitVec 7) (i : BitVec 11) : Statement (.ld16 k d a i) := by
  have := d.isLt; have := a.isLt; have := i.isLt
  refine of_nat rfl (by rw [wordI_eq]; exact wordR_lt k (by decide) (by omega) (by omega) (by omega) (by omega)) (fun hw => ?_)
  obtain ⟨h0, h1, h3, h4, h5⟩ := wordI_fields (m := 0x13) (i := i.toNat) (d := d.toNat) (a := a.toNat) k (by decide) (by omega) (by omega) (by omega)
  rw [decode_13 h0 h1 h3 h4 h5]

  simp [chk]

theorem ld16n (k : Bool) (d : BitVec 7) (a : BitVec 7) (i : BitVec 11) : Statement (.ld16n k d a i) := by
  have := d.isLt; have := a.isLt; have := i.isLt
  refine of_nat rfl (by rw [wordI_eq]; exact wordR_lt k (by decide) (by omega) (by omega) (by omega) (by omega)) (fun hw => ?_)
  obtain ⟨h0, h1, h3, h4, h5⟩ := wordI_fields (m := 0x14) (i := i.toNat) (d := d.toNat) (a := a.toNat) k (by decide) (by omega) (by omega) (by omega)
  rw [decode_14 h0 h1 h3 h4 h5]

  simp [chk]

theorem ld8 (k : Bool) (d : BitVec 7) (a : BitVec 7) (i : BitVec 11) : Statement (.ld8 k d a i) := by
  have := d.isLt; have := a.isLt; have := i.isLt
  refine of_nat rfl (by rw [wordI_eq]; exact wordR_lt k (by decide) (by omega) (by omega) (by omega) (by omega)) (fun hw => ?_)
  obtain ⟨h0, h1, h3, h4, h5⟩ := wordI_fields (m := 0x15) (i := i.toNat) (d := d.toNat) (a := a.toNat) k (by decide) (by omega) (by omega) (by omega)
  rw [decode_15 h0 h1 h3 h4 h5]

  simp [chk]

theorem ld8n (k : Bool) (d : BitVec 7) (a : BitVec 7) (i : BitVec 11) : Statement (.ld8n k d a i) := by
  have := d.isLt; have := a.isLt; have := i.isLt
  refine of_nat rfl (by rw [wordI_eq]; exact wordR_lt k (by decide) (by omega) (by omega) (by omega) (by omega)) (fun hw => ?_)
  obtain ⟨h0, h1, h3, h4, h5⟩ := wordI_fields (m := 0x16) (i := i.toNat) (d := d.toNat) (a := a.toNat) k (by decide) (by omega) (by omega) (by omega)
  rw [decode_16 h0 h1 h3 h4 h5]

  simp [chk]

theorem st64 (k : Bool) (a : BitVec 7) (b : BitVec 7) (o : BitVec 11) : Statement (.st64 k a b o) := by
  have := a.isLt; have := b.isLt; have := o.isLt
  refine of_nat rfl (by rw [wordI_eq]; exact wordR_lt k (by decide) (by omega) (by omega) (by omega) (by omega)) (fun hw => ?_)
  obtain ⟨h0, h1, h3, h4, h5⟩ := wordI_fields (m := 0x17) (i := o.toNat) (d := a.toNat) (a := b.toNat) k (by decide) (by omega) (by omega) (by omega)
  rw [decode_17 h0 h1 h3 h4 h5]

  simp [chk]

theorem st32 (k : Bool) (a : BitVec 7) (b : BitVec 7) (o : BitVec 11) : Statement (.st32 k a b o) := by
  have := a.isLt; have := b.isLt; have := o.isLt
  refine of_nat rfl (by rw [wordI_eq]; exact wordR_lt k (by decide) (by omega) (by omega) (by omega) (by omega)) (fun hw => ?_)
  obtain ⟨h0, h1, h3, h4, h5⟩ := wordI_fields (m := 0x18) (i := o.toNat) (d := a.toNat) (a := b.toNat) k (by decide) (by omega) (by omega) (by omega)
  rw [decode_18 h0 h1 h3 h4 h5]

  simp [chk]

theorem st16 (k : Bool) (a : BitVec 7) (b : BitVec 7) (o : BitVec 11) : Statement (.st16 k a b o) := by
  have := a.isLt; have := b.isLt; have := o.isLt
  refine of_nat rfl (by rw [wordI_eq]; exact wordR_lt k (by decide) (by omega) (by omega) (by omega) (by omega)) (fun hw => ?_)
  obtain ⟨h0, h1, h3, h4, h5⟩ := wordI_fields (m := 0x19) (i := o.toNat) (d := a.toNat) (a := b.toNat) k (by decide) (by omega) (by omega) (by omega)
  rw [decode_19 h0 h1 h3 h4 h5]

  simp [chk]

theorem st8 (k : Bool) (a : BitVec 7) (b : BitVec 7) (o : BitVec 11) : Statement (.st8 k a b o) := by
  have := a.isLt; have := b.isLt; have := o.isLt
  refine of_nat rfl (by rw [wordI_eq]; exact wordR_lt k (by decide) (by omega) (by omega) (by omega) (by omega)) (fun hw => ?_)
  obtain ⟨h0, h1, h3, h4, h5⟩ := wordI_fields (m := 0x1A) (i := o.toNat) (d := a.toNat) (a := b.toNat) k (by decide) (by omega) (by omega) (by omega)
  rw [decode_1A h0 h1 h3 h4 h5]

  simp [chk]

theorem lrx (k : Bool) (d : BitVec 7) (a : BitVec 7) : Statement (.lrx k d a) := by
  have := d.isLt; have := a.isLt
  refine of_nat rfl (wordR_lt k (by decide) (by omega) (by omega) (by omega) (by omega)) (fun hw => ?_)
  obtain ⟨h0, h1, h2, h3, h4, h5⟩ := wordR_fields (m := 0x1B) (f := 0) (d := d.toNat) (a := a.toNat) (b := 0) k (by decide) (by omega) (by omega) (by omega) (by omega)
  rw [decode_1B h0 h1 h2 h3 h4 h5]

  simp [dec1B, b2n, chk]

theorem scx (k : Bool) (d : BitVec 7) (a : BitVec 7) (b : BitVec 7) : Statement (.scx k d a b) := by
  have := d.isLt; have := a.isLt; have := b.isLt
  refine of_nat rfl (wordR_lt k (by decide) (by omega) (by omega) (by omega) (by omega)) (fun hw => ?_)
  obtain ⟨h0, h1, h2, h3, h4, h5⟩ := wordR_fields (m := 0x1B) (f := 1) (d := d.toNat) (a := a.toNat) (b := b.toNat) k (by decide) (by omega) (by omega) (by omega) (by omega)
  rw [decode_1B h0 h1 h2 h3 h4 h5]

  simp [dec1B, b2n, chk]

theorem aswap (k : Bool) (d : BitVec 7) (a : BitVec 7) (b : BitVec 7) : Statement (.aswap k d a b) := by
  have := d.isLt; have := a.isLt; have := b.isLt
  refine of_nat rfl (wordR_lt k (by decide) (by omega) (by omega) (by omega) (by omega)) (fun hw => ?_)
  obtain ⟨h0, h1, h2, h3, h4, h5⟩ := wordR_fields (m := 0x1B) (f := 2) (d := d.toNat) (a := a.toNat) (b := b.toNat) k (by decide) (by omega) (by omega) (by omega) (by omega)
  rw [decode_1B h0 h1 h2 h3 h4 h5]

  simp [dec1B, b2n, chk]

theorem aadd (k : Bool) (d : BitVec 7) (a : BitVec 7) (b : BitVec 7) : Statement (.aadd k d a b) := by
  have := d.isLt; have := a.isLt; have := b.isLt
  refine of_nat rfl (wordR_lt k (by decide) (by omega) (by omega) (by omega) (by omega)) (fun hw => ?_)
  obtain ⟨h0, h1, h2, h3, h4, h5⟩ := wordR_fields (m := 0x1B) (f := 3) (d := d.toNat) (a := a.toNat) (b := b.toNat) k (by decide) (by omega) (by omega) (by omega) (by omega)
  rw [decode_1B h0 h1 h2 h3 h4 h5]

  simp [dec1B, b2n, chk]

theorem aand (k : Bool) (d : BitVec 7) (a : BitVec 7) (b : BitVec 7) : Statement (.aand k d a b) := by
  have := d.isLt; have := a.isLt; have := b.isLt
  refine of_nat rfl (wordR_lt k (by decide) (by omega) (by omega) (by omega) (by omega)) (fun hw => ?_)
  obtain ⟨h0, h1, h2, h3, h4, h5⟩ := wordR_fields (m := 0x1B) (f := 4) (d := d.toNat) (a := a.toNat) (b := b.toNat) k (by decide) (by omega) (by omega) (by omega) (by omega)
  rw [decode_1B h0 h1 h2 h3 h4 h5]

  simp [dec1B, b2n, chk]

theorem aor (k : Bool) (d : BitVec 7) (a : BitVec 7) (b : BitVec 7) : Statement (.aor k d a b) := by
  have := d.isLt; have := a.isLt; have := b.isLt
  refine of_nat rfl (wordR_lt k (by decide) (by omega) (by omega) (by omega) (by omega)) (fun hw => ?_)
  obtain ⟨h0, h1, h2, h3, h4, h5⟩ := wordR_fields (m := 0x1B) (f := 5) (d := d.toNat) (a := a.toNat) (b := b.toNat) k (by decide) (by omega) (by omega) (by omega) (by omega)
  rw [decode_1B h0 h1 h2 h3 h4 h5]

  simp [dec1B, b2n, chk]

theorem axor (k : Bool) (d : BitVec 7) (a : BitVec 7) (b : BitVec 7) : Statement (.axor k d a b) := by
  have := d.isLt; have := a.isLt; have := b.isLt
  refine of_nat rfl (wordR_lt k (by decide) (by omega) (by omega) (by omega) (by omega)) (fun hw => ?_)
  obtain ⟨h0, h1, h2, h3, h4, h5⟩ := wordR_fields (m := 0x1B) (f := 6) (d := d.toNat) (a := a.toNat) (b := b.toNat) k (by decide) (by omega) (by omega) (by omega) (by omega)
  rw [decode_1B h0 h1 h2 h3 h4 h5]

  simp [dec1B, b2n, chk]

theorem amax (k : Bool) (d : BitVec 7) (a : BitVec 7) (b : BitVec 7) : Statement (.amax k d a b) := by
  have := d.isLt; have := a.isLt; have := b.isLt
  refine of_nat rfl (wordR_lt k (by decide) (by omega) (by omega) (by omega) (by omega)) (fun hw => ?_)
  obtain ⟨h0, h1, h2, h3, h4, h5⟩ := wordR_fields (m := 0x1B) (f := 7) (d := d.toNat) (a := a.toNat) (b := b.toNat) k (by decide) (by omega) (by omega) (by omega) (by omega)
  rw [decode_1B h0 h1 h2 h3 h4 h5]

  simp [dec1B, b2n, chk]

theorem amin (k : Bool) (d : BitVec 7) (a : BitVec 7) (b : BitVec 7) : Statement (.amin k d a b) := by
  have := d.isLt; have := a.isLt; have := b.isLt
  refine of_nat rfl (wordR_lt k (by decide) (by omega) (by omega) (by omega) (by omega)) (fun hw => ?_)
  obtain ⟨h0, h1, h2, h3, h4, h5⟩ := wordR_fields (m := 0x1B) (f := 8) (d := d.toNat) (a := a.toNat) (b := b.toNat) k (by decide) (by omega) (by omega) (by omega) (by omega)
  rw [decode_1B h0 h1 h2 h3 h4 h5]

  simp [dec1B, b2n, chk]

theorem amaxn (k : Bool) (d : BitVec 7) (a : BitVec 7) (b : BitVec 7) : Statement (.amaxn k d a b) := by
  have := d.isLt; have := a.isLt; have := b.isLt
  refine of_nat rfl (wordR_lt k (by decide) (by omega) (by omega) (by omega) (by omega)) (fun hw => ?_)
  obtain ⟨h0, h1, h2, h3, h4, h5⟩ := wordR_fields (m := 0x1B) (f := 9) (d := d.toNat) (a := a.toNat) (b := b.toNat) k (by decide) (by omega) (by omega) (by omega) (by omega)
  rw [decode_1B h0 h1 h2 h3 h4 h5]

  simp [dec1B, b2n, chk]

theorem aminn (k : Bool) (d : BitVec 7) (a : BitVec 7) (b : BitVec 7) : Statement (.aminn k d a b) := by
  have := d.isLt; have := a.isLt; have := b.isLt
  refine of_nat rfl (wordR_lt k (by decide) (by omega) (by omega) (by omega) (by omega)) (fun hw => ?_)
  obtain ⟨h0, h1, h2, h3, h4, h5⟩ := wordR_fields (m := 0x1B) (f := 10) (d := d.toNat) (a := a.toNat) (b := b.toNat) k (by decide) (by omega) (by omega) (by omega) (by omega)
  rw [decode_1B h0 h1 h2 h3 h4 h5]

  simp [dec1B, b2n, chk]

theorem acas (k : Bool) (d : BitVec 7) (a : BitVec 7) (b : BitVec 7) : Statement (.acas k d a b) := by
  have := d.isLt; have := a.isLt; have := b.isLt
  refine of_nat rfl (wordR_lt k (by decide) (by omega) (by omega) (by omega) (by omega)) (fun hw => ?_)
  obtain ⟨h0, h1, h2, h3, h4, h5⟩ := wordR_fields (m := 0x1B) (f := 11) (d := d.toNat) (a := a.toNat) (b := b.toNat) k (by decide) (by omega) (by omega) (by omega) (by omega)
  rw [decode_1B h0 h1 h2 h3 h4 h5]

  simp [dec1B, b2n, chk]

theorem ainc (k : Bool) (d : BitVec 7) (a : BitVec 7) (b : BitVec 7) : Statement (.ainc k d a b) := by
  have := d.isLt; have := a.isLt; have := b.isLt
  refine of_nat rfl (wordR_lt k (by decide) (by omega) (by omega) (by omega) (by omega)) (fun hw => ?_)
  obtain ⟨h0, h1, h2, h3, h4, h5⟩ := wordR_fields (m := 0x1B) (f := 12) (d := d.toNat) (a := a.toNat) (b := b.toNat) k (by decide) (by omega) (by omega) (by omega) (by omega)
  rw [decode_1B h0 h1 h2 h3 h4 h5]

  simp [dec1B, b2n, chk]

theorem afab (k : Bool) (d : BitVec 7) (a : BitVec 7) (b : BitVec 7) : Statement (.afab k d a b) := by
  have := d.isLt; have := a.isLt; have := b.isLt
  refine of_nat rfl (wordR_lt k (by decide) (by omega) (by omega) (by omega) (by omega)) (fun hw => ?_)
  obtain ⟨h0, h1, h2, h3, h4, h5⟩ := wordR_fields (m := 0x1B) (f := 13) (d := d.toNat) (a := a.toNat) (b := b.toNat) k (by decide) (by omega) (by omega) (by omega) (by omega)
  rw [decode_1B h0 h1 h2 h3 h4 h5]

  simp [dec1B, b2n, chk]

theorem lrx32 (k : Bool) (d : BitVec 7) (a : BitVec 7) : Statement (.lrx32 k d a) := by
  have := d.isLt; have := a.isLt
  refine of_nat rfl (wordR_lt k (by decide) (by omega) (by omega) (by omega) (by omega)) (fun hw => ?_)
  obtain ⟨h0, h1, h2, h3, h4, h5⟩ := wordR_fields (m := 0x1C) (f := 0) (d := d.toNat) (a := a.toNat) (b := 0) k (by decide) (by omega) (by omega) (by omega) (by omega)
  rw [decode_1C h0 h1 h2 h3 h4 h5]

  simp [dec1C, b2n, chk]

theorem scx32 (k : Bool) (d : BitVec 7) (a : BitVec 7) (b : BitVec 7) : Statement (.scx32 k d a b) := by
  have := d.isLt; have := a.isLt; have := b.isLt
  refine of_nat rfl (wordR_lt k (by decide) (by omega) (by omega) (by omega) (by omega)) (fun hw => ?_)
  obtain ⟨h0, h1, h2, h3, h4, h5⟩ := wordR_fields (m := 0x1C) (f := 1) (d := d.toNat) (a := a.toNat) (b := b.toNat) k (by decide) (by omega) (by omega) (by omega) (by omega)
  rw [decode_1C h0 h1 h2 h3 h4 h5]

  simp [dec1C, b2n, chk]

theorem aswap32 (k : Bool) (d : BitVec 7) (a : BitVec 7) (b : BitVec 7) : Statement (.aswap32 k d a b) := by
  have := d.isLt; have := a.isLt; have := b.isLt
  refine of_nat rfl (wordR_lt k (by decide) (by omega) (by omega) (by omega) (by omega)) (fun hw => ?_)
  obtain ⟨h0, h1, h2, h3, h4, h5⟩ := wordR_fields (m := 0x1C) (f := 2) (d := d.toNat) (a := a.toNat) (b := b.toNat) k (by decide) (by omega) (by omega) (by omega) (by omega)
  rw [decode_1C h0 h1 h2 h3 h4 h5]

  simp [dec1C, b2n, chk]

theorem aadd32 (k : Bool) (d : BitVec 7) (a : BitVec 7) (b : BitVec 7) : Statement (.aadd32 k d a b) := by
  have := d.isLt; have := a.isLt; have := b.isLt
  refine of_nat rfl (wordR_lt k (by decide) (by omega) (by omega) (by omega) (by omega)) (fun hw => ?_)
  obtain ⟨h0, h1, h2, h3, h4, h5⟩ := wordR_fields (m := 0x1C) (f := 3) (d := d.toNat) (a := a.toNat) (b := b.toNat) k (by decide) (by omega) (by omega) (by omega) (by omega)
  rw [decode_1C h0 h1 h2 h3 h4 h5]

  simp [dec1C, b2n, chk]

theorem aand32 (k : Bool) (d : BitVec 7) (a : BitVec 7) (b : BitVec 7) : Statement (.aand32 k d a b) := by
  have := d.isLt; have := a.isLt; have := b.isLt
  refine of_nat rfl (wordR_lt k (by decide) (by omega) (by omega) (by omega) (by omega)) (fun hw => ?_)
  obtain ⟨h0, h1, h2, h3, h4, h5⟩ := wordR_fields (m := 0x1C) (f := 4) (d := d.toNat) (a := a.toNat) (b := b.toNat) k (by decide) (by omega) (by omega) (by omega) (by omega)
  rw [decode_1C h0 h1 h2 h3 h4 h5]

  simp [dec1C, b2n, chk]

theorem aor32 (k : Bool) (d : BitVec 7) (a : BitVec 7) (b : BitVec 7) : Statement (.aor32 k d a b) := by
  have := d.isLt; have := a.isLt; have := b.isLt
  refine of_nat rfl (wordR_lt k (by decide) (by omega) (by omega) (by omega) (by omega)) (fun hw => ?_)
  obtain ⟨h0, h1, h2, h3, h4, h5⟩ := wordR_fields (m := 0x1C) (f := 5) (d := d.toNat) (a := a.toNat) (b := b.toNat) k (by decide) (by omega) (by omega) (by omega) (by omega)
  rw [decode_1C h0 h1 h2 h3 h4 h5]

  simp [dec1C, b2n, chk]

theorem axor32 (k : Bool) (d : BitVec 7) (a : BitVec 7) (b : BitVec 7) : Statement (.axor32 k d a b) := by
  have := d.isLt; have := a.isLt; have := b.isLt
  refine of_nat rfl (wordR_lt k (by decide) (by omega) (by omega) (by omega) (by omega)) (fun hw => ?_)
  obtain ⟨h0, h1, h2, h3, h4, h5⟩ := wordR_fields (m := 0x1C) (f := 6) (d := d.toNat) (a := a.toNat) (b := b.toNat) k (by decide) (by omega) (by omega) (by omega) (by omega)
  rw [decode_1C h0 h1 h2 h3 h4 h5]

  simp [dec1C, b2n, chk]

theorem amax32 (k : Bool) (d : BitVec 7) (a : BitVec 7) (b : BitVec 7) : Statement (.amax32 k d a b) := by
  have := d.isLt; have := a.isLt; have := b.isLt
  refine of_nat rfl (wordR_lt k (by decide) (by omega) (by omega) (by omega) (by omega)) (fun hw => ?_)
  obtain ⟨h0, h1, h2, h3, h4, h5⟩ := wordR_fields (m := 0x1C) (f := 7) (d := d.toNat) (a := a.toNat) (b := b.toNat) k (by decide) (by omega) (by omega) (by omega) (by omega)
  rw [decode_1C h0 h1 h2 h3 h4 h5]

  simp [dec1C, b2n, chk]

theorem amin32 (k : Bool) (d : BitVec 7) (a : BitVec 7) (b : BitVec 7) : Statement (.amin32 k d a b) := by
  have := d.isLt; have := a.isLt; have := b.isLt
  refine of_nat rfl (wordR_lt k (by decide) (by omega) (by omega) (by omega) (by omega)) (fun hw => ?_)
  obtain ⟨h0, h1, h2, h3, h4, h5⟩ := wordR_fields (m := 0x1C) (f := 8) (d := d.toNat) (a := a.toNat) (b := b.toNat) k (by decide) (by omega) (by omega) (by omega) (by omega)
  rw [decode_1C h0 h1 h2 h3 h4 h5]

  simp [dec1C, b2n, chk]

theorem amaxn32 (k : Bool) (d : BitVec 7) (a : BitVec 7) (b : BitVec 7) : Statement (.amaxn32 k d a b) := by
  have := d.isLt; have := a.isLt; have := b.isLt
  refine of_nat rfl (wordR_lt k (by decide) (by omega) (by omega) (by omega) (by omega)) (fun hw => ?_)
  obtain ⟨h0, h1, h2, h3, h4, h5⟩ := wordR_fields (m := 0x1C) (f := 9) (d := d.toNat) (a := a.toNat) (b := b.toNat) k (by decide) (by omega) (by omega) (by omega) (by omega)
  rw [decode_1C h0 h1 h2 h3 h4 h5]

  simp [dec1C, b2n, chk]

theorem aminn32 (k : Bool) (d : BitVec 7) (a : BitVec 7) (b : BitVec 7) : Statement (.aminn32 k d a b) := by
  have := d.isLt; have := a.isLt; have := b.isLt
  refine of_nat rfl (wordR_lt k (by decide) (by omega) (by omega) (by omega) (by omega)) (fun hw => ?_)
  obtain ⟨h0, h1, h2, h3, h4, h5⟩ := wordR_fields (m := 0x1C) (f := 10) (d := d.toNat) (a := a.toNat) (b := b.toNat) k (by decide) (by omega) (by omega) (by omega) (by omega)
  rw [decode_1C h0 h1 h2 h3 h4 h5]

  simp [dec1C, b2n, chk]

theorem acas32 (k : Bool) (d : BitVec 7) (a : BitVec 7) (b : BitVec 7) : Statement (.acas32 k d a b) := by
  have := d.isLt; have := a.isLt; have := b.isLt
  refine of_nat rfl (wordR_lt k (by decide) (by omega) (by omega) (by omega) (by omega)) (fun hw => ?_)
  obtain ⟨h0, h1, h2, h3, h4, h5⟩ := wordR_fields (m := 0x1C) (f := 11) (d := d.toNat) (a := a.toNat) (b := b.toNat) k (by decide) (by omega) (by omega) (by omega) (by omega)
  rw [decode_1C h0 h1 h2 h3 h4 h5]

  simp [dec1C, b2n, chk]

theorem ainc32 (k : Bool) (d : BitVec 7) (a : BitVec 7) (b : BitVec 7) : Statement (.ainc32 k d a b) := by
  have := d.isLt; have := a.isLt; have := b.isLt
  refine of_nat rfl (wordR_lt k (by decide) (by omega) (by omega) (by omega) (by omega)) (fun hw => ?_)
  obtain ⟨h0, h1, h2, h3, h4, h5⟩ := wordR_fields (m := 0x1C) (f := 12) (d := d.toNat) (a := a.toNat) (b := b.toNat) k (by decide) (by omega) (by omega) (by omega) (by omega)
  rw [decode_1C h0 h1 h2 h3 h4 h5]

  simp [dec1C, b2n, chk]

theorem afab32 (k : Bool) (d : BitVec 7) (a : BitVec 7) (b : BitVec 7) : Statement (.afab32 k d a b) := by
  have := d.isLt; have := a.isLt; have := b.isLt
  refine of_nat rfl (wordR_lt k (by decide) (by omega) (by omega) (by omega) (by omega)) (fun hw => ?_)
  obtain ⟨h0, h1, h2, h3, h4, h5⟩ := wordR_fields (m := 0x1C) (f := 13) (d := d.toNat) (a := a.toNat) (b := b.toNat) k (by decide) (by omega) (by omega) (by omega) (by omega)
  rw [decode_1C h0 h1 h2 h3 h4 h5]

  simp [dec1C, b2n, chk]

theorem halt (k : Bool) : Statement (.halt k) := by
  refine of_nat rfl (by rw [wordI_eq]; exact wordR_lt k (by decide) (by omega) (by omega) (by omega) (by omega)) (fun hw => ?_)
  obtain ⟨h0, h1, h3, h4, h5⟩ := wordI_fields (m := 0x00) (i := 0x100) (d := 0) (a := 0) k (by decide) (by omega) (by omega) (by omega)
  rw [decode_00 h0 h1 h3 h4 h5]

  simp [dec00, b2n, chk]

theorem yield (k : Bool) : Statement (.yield k) := by
  refine of_nat rfl (by rw [wordI_eq]; exact wordR_lt k (by decide) (by omega) (by omega) (by omega) (by omega)) (fun hw => ?_)
  obtain ⟨h0, h1, h3, h4, h5⟩ := wordI_fields (m := 0x00) (i := 0x101) (d := 0) (a := 0) k (by decide) (by omega) (by omega) (by omega)
  rw [decode_00 h0 h1 h3 h4 h5]

  simp [dec00, b2n, chk]

theorem tlbinv (k : Bool) (a : BitVec 7) : Statement (.tlbinv k a) := by
  have := a.isLt
  refine of_nat rfl (by rw [wordI_eq]; exact wordR_lt k (by decide) (by omega) (by omega) (by omega) (by omega)) (fun hw => ?_)
  obtain ⟨h0, h1, h3, h4, h5⟩ := wordI_fields (m := 0x00) (i := 0x102) (d := 0) (a := a.toNat) k (by decide) (by omega) (by omega) (by omega)
  rw [decode_00 h0 h1 h3 h4 h5]

  simp [dec00, b2n, chk]

theorem rdcyc (k : Bool) (d : BitVec 7) : Statement (.rdcyc k d) := by
  have := d.isLt
  refine of_nat rfl (by rw [wordI_eq]; exact wordR_lt k (by decide) (by omega) (by omega) (by omega) (by omega)) (fun hw => ?_)
  obtain ⟨h0, h1, h3, h4, h5⟩ := wordI_fields (m := 0x00) (i := 0x104) (d := d.toNat) (a := 0) k (by decide) (by omega) (by omega) (by omega)
  rw [decode_00 h0 h1 h3 h4 h5]

  simp [dec00, b2n, chk]

theorem rdtime (k : Bool) (d : BitVec 7) : Statement (.rdtime k d) := by
  have := d.isLt
  refine of_nat rfl (by rw [wordI_eq]; exact wordR_lt k (by decide) (by omega) (by omega) (by omega) (by omega)) (fun hw => ?_)
  obtain ⟨h0, h1, h3, h4, h5⟩ := wordI_fields (m := 0x00) (i := 0x105) (d := d.toNat) (a := 0) k (by decide) (by omega) (by omega) (by omega)
  rw [decode_00 h0 h1 h3 h4 h5]

  simp [dec00, b2n, chk]

theorem rdctr (k : Bool) (d : BitVec 7) (n : BitVec 4) : Statement (.rdctr k d n) := by
  have := d.isLt; have := n.isLt
  refine of_nat rfl (by rw [wordI_eq]; exact wordR_lt k (by decide) (by omega) (by omega) (by omega) (by omega)) (fun hw => ?_)
  obtain ⟨h0, h1, h3, h4, h5⟩ := wordI_fields (m := 0x00) (i := (0x110 + n.toNat)) (d := d.toNat) (a := 0) k (by decide) (by omega) (by omega) (by omega)
  rw [decode_00 h0 h1 h3 h4 h5]

  have e1 : (0x110 + n.toNat) / 16 = 0x11 := by omega
  have e2 : (0x110 + n.toNat) % 16 = n.toNat := by omega
  simp only [dec00, e1, e2]
  simp [chk]

theorem vdrain (k : Bool) : Statement (.vdrain k) := by
  refine of_nat rfl (by rw [wordI_eq]; exact wordR_lt k (by decide) (by omega) (by omega) (by omega) (by omega)) (fun hw => ?_)
  obtain ⟨h0, h1, h3, h4, h5⟩ := wordI_fields (m := 0x1D) (i := 0x100) (d := 0) (a := 0) k (by decide) (by omega) (by omega) (by omega)
  rw [decode_1D h0 h1 h3 h4 h5]

  simp [dec1D, b2n, chk]

theorem fenceAcq (k : Bool) (s : BitVec 3) : Statement (.fenceAcq k s) := by
  have := s.isLt
  refine of_nat rfl (by rw [wordI_eq]; exact wordR_lt k (by decide) (by omega) (by omega) (by omega) (by omega)) (fun hw => ?_)
  obtain ⟨h0, h1, h3, h4, h5⟩ := wordI_fields (m := 0x1D) (i := (0x110 + s.toNat)) (d := 0) (a := 0) k (by decide) (by omega) (by omega) (by omega)
  rw [decode_1D h0 h1 h3 h4 h5]
  clear h0 h1 h3 h4 h5
  simp [Instr.wellFormed] at hw
  have e1 : (0x110 + s.toNat) / 8 = 0x110 / 8 := by omega
  have e2 : (0x110 + s.toNat) % 8 = s.toNat := by omega
  simp only [dec1D, e1, e2]
  simp [chk, *]

theorem fenceRel (k : Bool) (s : BitVec 3) : Statement (.fenceRel k s) := by
  have := s.isLt
  refine of_nat rfl (by rw [wordI_eq]; exact wordR_lt k (by decide) (by omega) (by omega) (by omega) (by omega)) (fun hw => ?_)
  obtain ⟨h0, h1, h3, h4, h5⟩ := wordI_fields (m := 0x1D) (i := (0x120 + s.toNat)) (d := 0) (a := 0) k (by decide) (by omega) (by omega) (by omega)
  rw [decode_1D h0 h1 h3 h4 h5]
  clear h0 h1 h3 h4 h5
  simp [Instr.wellFormed] at hw
  have e1 : (0x120 + s.toNat) / 8 = 0x120 / 8 := by omega
  have e2 : (0x120 + s.toNat) % 8 = s.toNat := by omega
  simp only [dec1D, e1, e2]
  simp [chk, *]

theorem fence (k : Bool) (s : BitVec 3) : Statement (.fence k s) := by
  have := s.isLt
  refine of_nat rfl (by rw [wordI_eq]; exact wordR_lt k (by decide) (by omega) (by omega) (by omega) (by omega)) (fun hw => ?_)
  obtain ⟨h0, h1, h3, h4, h5⟩ := wordI_fields (m := 0x1D) (i := (0x130 + s.toNat)) (d := 0) (a := 0) k (by decide) (by omega) (by omega) (by omega)
  rw [decode_1D h0 h1 h3 h4 h5]
  clear h0 h1 h3 h4 h5
  simp [Instr.wellFormed] at hw
  have e1 : (0x130 + s.toNat) / 8 = 0x130 / 8 := by omega
  have e2 : (0x130 + s.toNat) % 8 = s.toNat := by omega
  simp only [dec1D, e1, e2]
  simp [chk, *]

theorem trap (k : Bool) (a : BitVec 7) : Statement (.trap k a) := by
  have := a.isLt
  refine of_nat rfl (by rw [wordI_eq]; exact wordR_lt k (by decide) (by omega) (by omega) (by omega) (by omega)) (fun hw => ?_)
  obtain ⟨h0, h1, h3, h4, h5⟩ := wordI_fields (m := 0x1D) (i := 0x140) (d := 0) (a := a.toNat) k (by decide) (by omega) (by omega) (by omega)
  rw [decode_1D h0 h1 h3 h4 h5]

  simp [dec1D, b2n, chk]

theorem tret (k : Bool) : Statement (.tret k) := by
  refine of_nat rfl (by rw [wordI_eq]; exact wordR_lt k (by decide) (by omega) (by omega) (by omega) (by omega)) (fun hw => ?_)
  obtain ⟨h0, h1, h3, h4, h5⟩ := wordI_fields (m := 0x1D) (i := 0x141) (d := 0) (a := 0) k (by decide) (by omega) (by omega) (by omega)
  rw [decode_1D h0 h1 h3 h4 h5]

  simp [dec1D, b2n, chk]

theorem ebrk (k : Bool) : Statement (.ebrk k) := by
  refine of_nat rfl (by rw [wordI_eq]; exact wordR_lt k (by decide) (by omega) (by omega) (by omega) (by omega)) (fun hw => ?_)
  obtain ⟨h0, h1, h3, h4, h5⟩ := wordI_fields (m := 0x1D) (i := 0x142) (d := 0) (a := 0) k (by decide) (by omega) (by omega) (by omega)
  rw [decode_1D h0 h1 h3 h4 h5]

  simp [dec1D, b2n, chk]

theorem cget (k : Bool) (d : BitVec 7) (s : BitVec 8) : Statement (.cget k d s) := by
  have := d.isLt; have := s.isLt
  refine of_nat rfl (by rw [wordI_eq]; exact wordR_lt k (by decide) (by omega) (by omega) (by omega) (by omega)) (fun hw => ?_)
  obtain ⟨h0, h1, h3, h4, h5⟩ := wordI_fields (m := 0x1E) (i := s.toNat) (d := d.toNat) (a := 0) k (by decide) (by omega) (by omega) (by omega)
  rw [decode_1E h0 h1 h3 h4 h5]
  clear h0 h1 h3 h4 h5
  simp [Instr.wellFormed] at hw
  simp [chk, *]

theorem cset (k : Bool) (a : BitVec 7) (s : BitVec 8) : Statement (.cset k a s) := by
  have := a.isLt; have := s.isLt
  refine of_nat rfl (by rw [wordI_eq]; exact wordR_lt k (by decide) (by omega) (by omega) (by omega) (by omega)) (fun hw => ?_)
  obtain ⟨h0, h1, h3, h4, h5⟩ := wordI_fields (m := 0x1F) (i := s.toNat) (d := 0) (a := a.toNat) k (by decide) (by omega) (by omega) (by omega)
  rw [decode_1F h0 h1 h3 h4 h5]
  clear h0 h1 h3 h4 h5
  simp [Instr.wellFormed] at hw
  simp [chk, *]

theorem vcfg (k : Bool) (d : BitVec 7) (a : BitVec 7) : Statement (.vcfg k d a) := by
  have := d.isLt; have := a.isLt
  refine of_nat rfl (wordR_lt k (by decide) (by omega) (by omega) (by omega) (by omega)) (fun hw => ?_)
  obtain ⟨h0, h1, h2, h3, h4, h5⟩ := wordR_fields (m := 0x2F) (f := 0) (d := d.toNat) (a := a.toNat) (b := 0) k (by decide) (by omega) (by omega) (by omega) (by omega)
  rw [decode_2F h0 h1 h2 h3 h4 h5]

  simp [dec2F, b2n, chk]

theorem vgrant (k : Bool) (d : BitVec 7) (a : BitVec 7) : Statement (.vgrant k d a) := by
  have := d.isLt; have := a.isLt
  refine of_nat rfl (wordR_lt k (by decide) (by omega) (by omega) (by omega) (by omega)) (fun hw => ?_)
  obtain ⟨h0, h1, h2, h3, h4, h5⟩ := wordR_fields (m := 0x2F) (f := 2) (d := d.toNat) (a := a.toNat) (b := 0) k (by decide) (by omega) (by omega) (by omega) (by omega)
  rw [decode_2F h0 h1 h2 h3 h4 h5]

  simp [dec2F, b2n, chk]

theorem wbase (k : Bool) (a : BitVec 7) : Statement (.wbase k a) := by
  have := a.isLt
  refine of_nat rfl (wordR_lt k (by decide) (by omega) (by omega) (by omega) (by omega)) (fun hw => ?_)
  obtain ⟨h0, h1, h2, h3, h4, h5⟩ := wordR_fields (m := 0x2F) (f := 4) (d := 0) (a := a.toNat) (b := 0) k (by decide) (by omega) (by omega) (by omega) (by omega)
  rw [decode_2F h0 h1 h2 h3 h4 h5]

  simp [dec2F, b2n, chk]

theorem barArrive (k : Bool) (d : BitVec 7) (a : BitVec 7) (b : BitVec 7) : Statement (.barArrive k d a b) := by
  have := d.isLt; have := a.isLt; have := b.isLt
  refine of_nat rfl (wordR_lt k (by decide) (by omega) (by omega) (by omega) (by omega)) (fun hw => ?_)
  obtain ⟨h0, h1, h2, h3, h4, h5⟩ := wordR_fields (m := 0x3E) (f := 0) (d := d.toNat) (a := a.toNat) (b := b.toNat) k (by decide) (by omega) (by omega) (by omega) (by omega)
  rw [decode_3E h0 h1 h2 h3 h4 h5]

  simp [dec3E, b2n, chk]

theorem barWait (k : Bool) (d : BitVec 7) (a : BitVec 7) (b : BitVec 7) : Statement (.barWait k d a b) := by
  have := d.isLt; have := a.isLt; have := b.isLt
  refine of_nat rfl (wordR_lt k (by decide) (by omega) (by omega) (by omega) (by omega)) (fun hw => ?_)
  obtain ⟨h0, h1, h2, h3, h4, h5⟩ := wordR_fields (m := 0x3E) (f := 1) (d := d.toNat) (a := a.toNat) (b := b.toNat) k (by decide) (by omega) (by omega) (by omega) (by omega)
  rw [decode_3E h0 h1 h2 h3 h4 h5]

  simp [dec3E, b2n, chk]

theorem tskDef (k : Bool) (d : BitVec 7) (a : BitVec 7) (b : BitVec 7) : Statement (.tskDef k d a b) := by
  have := d.isLt; have := a.isLt; have := b.isLt
  refine of_nat rfl (wordR_lt k (by decide) (by omega) (by omega) (by omega) (by omega)) (fun hw => ?_)
  obtain ⟨h0, h1, h2, h3, h4, h5⟩ := wordR_fields (m := 0x3E) (f := 2) (d := d.toNat) (a := a.toNat) (b := b.toNat) k (by decide) (by omega) (by omega) (by omega) (by omega)
  rw [decode_3E h0 h1 h2 h3 h4 h5]

  simp [dec3E, b2n, chk]

theorem tskDec (k : Bool) (d : BitVec 7) (a : BitVec 7) : Statement (.tskDec k d a) := by
  have := d.isLt; have := a.isLt
  refine of_nat rfl (wordR_lt k (by decide) (by omega) (by omega) (by omega) (by omega)) (fun hw => ?_)
  obtain ⟨h0, h1, h2, h3, h4, h5⟩ := wordR_fields (m := 0x3E) (f := 3) (d := d.toNat) (a := a.toNat) (b := 0) k (by decide) (by omega) (by omega) (by omega) (by omega)
  rw [decode_3E h0 h1 h2 h3 h4 h5]

  simp [dec3E, b2n, chk]

theorem lnch (k : Bool) (d : BitVec 7) (a : BitVec 7) (b : BitVec 7) : Statement (.lnch k d a b) := by
  have := d.isLt; have := a.isLt; have := b.isLt
  refine of_nat rfl (wordR_lt k (by decide) (by omega) (by omega) (by omega) (by omega)) (fun hw => ?_)
  obtain ⟨h0, h1, h2, h3, h4, h5⟩ := wordR_fields (m := 0x3E) (f := 4) (d := d.toNat) (a := a.toNat) (b := b.toNat) k (by decide) (by omega) (by omega) (by omega) (by omega)
  rw [decode_3E h0 h1 h2 h3 h4 h5]

  simp [dec3E, b2n, chk]

theorem lwait (k : Bool) (d : BitVec 7) (a : BitVec 7) (b : BitVec 7) : Statement (.lwait k d a b) := by
  have := d.isLt; have := a.isLt; have := b.isLt
  refine of_nat rfl (wordR_lt k (by decide) (by omega) (by omega) (by omega) (by omega)) (fun hw => ?_)
  obtain ⟨h0, h1, h2, h3, h4, h5⟩ := wordR_fields (m := 0x3E) (f := 5) (d := d.toNat) (a := a.toNat) (b := b.toNat) k (by decide) (by omega) (by omega) (by omega) (by omega)
  rw [decode_3E h0 h1 h2 h3 h4 h5]

  simp [dec3E, b2n, chk]

theorem sndClaim (k : Bool) (d : BitVec 7) : Statement (.sndClaim k d) := by
  have := d.isLt
  refine of_nat rfl (wordR_lt k (by decide) (by omega) (by omega) (by omega) (by omega)) (fun hw => ?_)
  obtain ⟨h0, h1, h2, h3, h4, h5⟩ := wordR_fields (m := 0x3E) (f := 6) (d := d.toNat) (a := 0) (b := 0) k (by decide) (by omega) (by omega) (by omega) (by omega)
  rw [decode_3E h0 h1 h2 h3 h4 h5]

  simp [dec3E, b2n, chk]

theorem sndGive (k : Bool) (d : BitVec 7) (a : BitVec 7) : Statement (.sndGive k d a) := by
  have := d.isLt; have := a.isLt
  refine of_nat rfl (wordR_lt k (by decide) (by omega) (by omega) (by omega) (by omega)) (fun hw => ?_)
  obtain ⟨h0, h1, h2, h3, h4, h5⟩ := wordR_fields (m := 0x3E) (f := 7) (d := d.toNat) (a := a.toNat) (b := 0) k (by decide) (by omega) (by omega) (by omega) (by omega)
  rw [decode_3E h0 h1 h2 h3 h4 h5]

  simp [dec3E, b2n, chk]

theorem sndStat (k : Bool) (d : BitVec 7) (a : BitVec 7) (b : BitVec 7) : Statement (.sndStat k d a b) := by
  have := d.isLt; have := a.isLt; have := b.isLt
  refine of_nat rfl (wordR_lt k (by decide) (by omega) (by omega) (by omega) (by omega)) (fun hw => ?_)
  obtain ⟨h0, h1, h2, h3, h4, h5⟩ := wordR_fields (m := 0x3E) (f := 8) (d := d.toNat) (a := a.toNat) (b := b.toNat) k (by decide) (by omega) (by omega) (by omega) (by omega)
  rw [decode_3E h0 h1 h2 h3 h4 h5]

  simp [dec3E, b2n, chk]

theorem convoyCommit (h : Nat) : Statement (.convoyCommit h) := of_none rfl

theorem gustCycle (c : Nat) : Statement (.gustCycle c) := of_none rfl

theorem remoteBufferMessage (c : Nat) : Statement (.remoteBufferMessage c) := of_none rfl

theorem remoteReply (c : Nat) : Statement (.remoteReply c) := of_none rfl

theorem layerPass (c : Nat) : Statement (.layerPass c) := of_none rfl

theorem anvilFree (c : Nat) : Statement (.anvilFree c) := of_none rfl

theorem layerTempReport (c : Nat) (layer : Nat) (t : Nat) : Statement (.layerTempReport c layer t) := of_none rfl

theorem slewStep (cl : Nat) : Statement (.slewStep cl) := of_none rfl

theorem copyRun (c : Nat) (i : Nat) : Statement (.copyRun c i) := of_none rfl

theorem gatherRecord (g : Nat) : Statement (.gatherRecord g) := of_none rfl

theorem driftCopyLine (tw : Nat) (n : Nat) : Statement (.driftCopyLine tw n) := of_none rfl

theorem switch (tw : Nat) (n : Nat) : Statement (.switch tw n) := of_none rfl

theorem chainCompression (tw : Nat) (n : Nat) : Statement (.chainCompression tw n) := of_none rfl

theorem taskDispatch (h : Nat) : Statement (.taskDispatch h) := of_none rfl

theorem preemption (h : Nat) : Statement (.preemption h) := of_none rfl

theorem ageWindowExpiry (tid : Nat) : Statement (.ageWindowExpiry tid) := of_none rfl

theorem spinBudgetExpiry (h : Nat) : Statement (.spinBudgetExpiry h) := of_none rfl

theorem wake (tid : Nat) : Statement (.wake tid) := of_none rfl

theorem taskEnd (h : Nat) : Statement (.taskEnd h) := of_none rfl

theorem launchEnd (lno : Nat) : Statement (.launchEnd lno) := of_none rfl

theorem graphNodeLaunch (gid : Nat) (gen : Nat) (node : Nat) : Statement (.graphNodeLaunch gid gen node) := of_none rfl

theorem soundingSliceForward (tw : Nat) (lno : Nat) : Statement (.soundingSliceForward tw lno) := of_none rfl

theorem soundingMerge (lno : Nat) : Statement (.soundingMerge lno) := of_none rfl

theorem packageReset : Statement (.packageReset) := of_none rfl

theorem selfTest (tw : Nat) (pass : Bool) (faulty : List (Nat × Nat)) : Statement (.selfTest tw pass faulty) := of_none rfl

theorem powerLoss : Statement (.powerLoss) := of_none rfl

theorem summary : Statement (.summary) := of_none rfl

theorem logread : Statement (.logread) := of_none rfl

theorem regr : Statement (.regr) := of_none rfl

theorem regw : Statement (.regw) := of_none rfl

theorem thcfgWrite (v : BitVec 64) : Statement (.thcfgWrite v) := of_none rfl

theorem primeZoneWrite (ceiling : Bool) (tw : Nat) (n : Nat) (v : BitVec 64) : Statement (.primeZoneWrite ceiling tw n v) := of_none rfl

theorem fpoolWrite (v : BitVec 64) : Statement (.fpoolWrite v) := of_none rfl

theorem jscfgWrite (v : BitVec 64) : Statement (.jscfgWrite v) := of_none rfl

theorem service : Statement (.service) := of_none rfl

theorem resume : Statement (.resume) := of_none rfl

theorem tdump : Statement (.tdump) := of_none rfl

theorem dbgset : Statement (.dbgset) := of_none rfl

theorem dbggo : Statement (.dbggo) := of_none rfl

theorem harton : Statement (.harton) := of_none rfl

theorem fwstage : Statement (.fwstage) := of_none rfl

theorem fwapply : Statement (.fwapply) := of_none rfl

theorem firmwareTowerApply (tw : Nat) (pass : Bool) : Statement (.firmwareTowerApply tw pass) := of_none rfl

theorem netsync : Statement (.netsync) := of_none rfl

theorem commsync : Statement (.commsync) := of_none rfl

theorem doorbell (q : Nat) (v : BitVec 64) : Statement (.doorbell q v) := of_none rfl

theorem launch (q : Nat) : Statement (.launch q) := of_none rfl

theorem gdef (q : Nat) : Statement (.gdef q) := of_none rfl

theorem gedit (q : Nat) : Statement (.gedit q) := of_none rfl

theorem grun (q : Nat) : Statement (.grun q) := of_none rfl

theorem gfree (q : Nat) : Statement (.gfree q) := of_none rfl

theorem kill (q : Nat) : Statement (.kill q) := of_none rfl

theorem registerWrite (off : Nat) (v : BitVec 64) : Statement (.registerWrite off v) := of_none rfl

theorem hostMemAccess (write : Bool) (o : Nat) (len : Nat) (data : List (BitVec 8)) : Statement (.hostMemAccess write o len data) := of_none rfl

theorem hostSnoop (line : Nat) (data : List (BitVec 8)) : Statement (.hostSnoop line data) := of_none rfl

theorem atsInvalidate (page : Nat) : Statement (.atsInvalidate page) := of_none rfl

theorem pageRequest : Statement (.pageRequest) := of_none rfl

theorem prgSuccess (slot : Nat) : Statement (.prgSuccess slot) := of_none rfl

theorem prgInvalidRequest (slot : Nat) : Statement (.prgInvalidRequest slot) := of_none rfl

theorem prgResponseFailure (slot : Nat) : Statement (.prgResponseFailure slot) := of_none rfl

theorem getVersion : Statement (.getVersion) := of_none rfl

theorem getCapabilities (flags : Nat) : Statement (.getCapabilities flags) := of_none rfl

theorem negotiateAlgorithms (offer : Nat) : Statement (.negotiateAlgorithms offer) := of_none rfl

theorem getDigests : Statement (.getDigests) := of_none rfl

theorem getCertificate (slot : Nat) (off : Nat) (len : Nat) : Statement (.getCertificate slot off len) := of_none rfl

theorem challenge (slot : Nat) (nonce : Nat) : Statement (.challenge slot nonce) := of_none rfl

theorem getMeasurements (slot : Nat) (index : Nat) (nonce : Nat) : Statement (.getMeasurements slot index nonce) := of_none rfl

theorem keyExchange (slot : Nat) (key : Nat) : Statement (.keyExchange slot key) := of_none rfl

theorem finish (mac : Nat) : Statement (.finish mac) := of_none rfl

theorem endSession : Statement (.endSession) := of_none rfl

theorem keyset (port : Nat) (an : Nat) (sak : Nat) (ssci : Nat) (salt : Nat) : Statement (.keyset port an sak ssci salt) := of_none rfl

theorem sensorReading (sensor : Sensor) (t : Nat) : Statement (.sensorReading sensor t) := of_none rfl

theorem shelterPowerOff (tw : Nat) : Statement (.shelterPowerOff tw) := of_none rfl

theorem shelterBoundExpiry (tw : Nat) : Statement (.shelterBoundExpiry tw) := of_none rfl

theorem shelterReturn (tw : Nat) (pass : Bool) : Statement (.shelterReturn tw pass) := of_none rfl

theorem watchdogExpiry (tw : Nat) : Statement (.watchdogExpiry tw) := of_none rfl

theorem parityError (unit : Pipeline) (replaysFail : Bool) : Statement (.parityError unit replaysFail) := of_none rfl

theorem fatalFault (tw : Nat) : Statement (.fatalFault tw) := of_none rfl

theorem eccError (site : Storage) (corrected : Bool) : Statement (.eccError site corrected) := of_none rfl

theorem patrolScrub (line : Nat) : Statement (.patrolScrub line) := of_none rfl

theorem contrailSample (h : Nat) : Statement (.contrailSample h) := of_none rfl

theorem dewpointSample (cl : Nat) (mm : Nat) : Statement (.dewpointSample cl mm) := of_none rfl

theorem coreGate (c : Nat) : Statement (.coreGate c) := of_none rfl

theorem gateEntryComplete (unit : GateUnit) : Statement (.gateEntryComplete unit) := of_none rfl

theorem wakeComplete (unit : GateUnit) : Statement (.wakeComplete unit) := of_none rfl

theorem ldoSettle (c : Nat) (g : Nat) : Statement (.ldoSettle c g) := of_none rfl

theorem benlarFlit (port : Nat) (flit : List (BitVec 8)) : Statement (.benlarFlit port flit) := of_none rfl

theorem benlarLinkLoss (port : Nat) : Statement (.benlarLinkLoss port) := of_none rfl

theorem ethernetFrame (port : Nat) (key : Nat) (pn : Nat) (frame : List (BitVec 8)) (pkt : FrameBody) : Statement (.ethernetFrame port key pn frame pkt) := of_none rfl

theorem packetSend : Statement (.packetSend) := of_none rfl

theorem transportPacket (pkt : Packet) : Statement (.transportPacket pkt) := of_none rfl

theorem sack (peer : Nat) (rod : Bool) (base : Nat) (bitmap : Nat) (nak : Option (Nat × Nat)) : Statement (.sack peer rod base bitmap nak) := of_none rfl

theorem retransmissionTimeout (peer : Nat) (rod : Bool) (psn : Nat) : Statement (.retransmissionTimeout peer rod psn) := of_none rfl

theorem peerTimeout (peer : Nat) : Statement (.peerTimeout peer) := of_none rfl

theorem nakRetransmit (peer : Nat) (rod : Bool) (psn : Nat) : Statement (.nakRetransmit peer rod psn) := of_none rfl

theorem chunkStart : Statement (.chunkStart) := of_none rfl

theorem chunkEnd (e : Nat) : Statement (.chunkEnd e) := of_none rfl

theorem chunkLine (comm : Nat) (peer : Nat) (lane : Nat) (chunk : Nat) (line : Nat) (data : List (BitVec 8)) : Statement (.chunkLine comm peer lane chunk line data) := of_none rfl

theorem credit (comm : Nat) (peer : Nat) (lane : Nat) (chunk : Nat) : Statement (.credit comm peer lane chunk) := of_none rfl

theorem adderLine (e : Nat) : Statement (.adderLine e) := of_none rfl

theorem rstrArrive (comm : Nat) (peer : Nat) (lane : Nat) (chunk : Nat) (tag : Nat) (off : Nat) (fmt : Nat) (half : Bool) (scale : Nat) (data : List (BitVec 8)) : Statement (.rstrArrive comm peer lane chunk tag off fmt half scale data) := of_none rfl

theorem jetstreamTimeout (gid : Nat) (run : Nat) (op : Nat) : Statement (.jetstreamTimeout gid run op) := of_none rfl

theorem notAnInstruction (w : BitVec 32) : Statement (.notAnInstruction w) := of_none rfl

theorem instructionFetchFault (h : Nat) : Statement (.instructionFetchFault h) := of_none rfl

theorem badcmd (code : Nat) : Statement (.badcmd code) := of_none rfl

theorem badrecEntry (q : Nat) : Statement (.badrecEntry q) := of_none rfl

end Sys2Proof.Laws.Encoding
end

