-- ==== Sys2Proof/Laws/Scan.lean ====
section
/-! SUPPORT. The scan of a core (R192) and a step, once for all their uses: the induction over the harts that a scan offers, and what a
convoy in flight reads. -/

namespace Sys2Proof.Machine

open Sys2Proof

/-! ### The scan and a step -/

/-- A scan of no hart leaves the state. -/
@[simp] theorem scan_nil (s : State) (ex : Instr → State → Out1) (c : Nat) : s.scan ex c [] = .next s := rfl

/-- What a scan keeps: a property that offering a word to a hart keeps, and that looks neither at the turn nor at who was selected last. -/
theorem scan_keeps {P : State → Prop} {ex : Instr → State → Out1} {c : Nat} (hturn : ∀ s h, P s → P { s with turn := h })
    (hlast : ∀ s n, P s → P (s.updCore c (fun k => { k with lastHart := n })))
    (hrun : ∀ s h t, P s → s.runHart ex h = .next t → P t) :
    ∀ (hs : List Nat) (s t : State), P s → s.scan ex c hs = .next t → P t := by
  intro hs
  induction hs with
  | nil => intro s t hp e; rw [scan_nil] at e; cases e; exact hp
  | cons h hs ih =>
    intro s t hp e
    rw [State.scan] at e
    split at e
    · exact ih s t hp e
    · split at e
      · next u hu =>
        have hu' := hrun _ h u (hturn s h hp) hu
        split at e
        · cases e; exact hlast u _ hu'
        · exact ih u t hu' e
      · next o ho => exact absurd e (ho t)

/-- A scan has a next state where every offer of a word has one. -/
theorem scan_isNext {ex : Instr → State → Out1} (hrun : ∀ s h, IsNext (State.runHart s ex h)) (c : Nat) :
    ∀ (hs : List Nat) (s : State), IsNext (s.scan ex c hs) := by
  intro hs
  induction hs with
  | nil => intro s; exact ⟨s, rfl⟩
  | cons h hs ih =>
    intro s
    rw [State.scan]
    split
    · exact ih s
    · obtain ⟨u, hu⟩ := hrun { s with turn := h } h
      rw [hu]
      dsimp only
      split
      · exact ⟨_, rfl⟩
      · exact ih u

/-- What a step can do: the first entry of the agenda, time alone, or the scan of a core. -/
theorem step_cases (s : State) :
    (∃ i rest, s.agenda = i :: rest ∧ step s = if agendaOk i then exec i { s with agenda := rest } else .next { s with agenda := rest }) ∨
    (s.agenda = [] ∧ s.runCore = none ∧ step s = .next s.idle) ∨
    (∃ c, s.agenda = [] ∧ s.runCore = some c ∧ step s = ((s.pass c).serveWaits (s.scanOrder c)).scan exec c (s.scanOrder c)) := by
  unfold step
  cases ha : s.agenda with
  | cons i rest => exact .inl ⟨i, rest, rfl, rfl⟩
  | nil =>
    cases hc : s.runCore with
    | none => exact .inr (.inl ⟨rfl, rfl, rfl⟩)
    | some c => exact .inr (.inr ⟨c, rfl, rfl, rfl⟩)

/-! ### What a convoy in flight reads (R287) -/

/-- Without a convoy in flight a load reads the homes. -/
@[simp] theorem loadMem_none {s : State} {h : Nat} (e : (s.hart h).snap = none) : s.loadMem h = s.mem := by simp [State.loadMem, e]

@[simp] theorem updSnap_mem (s : State) (h : Nat) (f : Snap → Snap) : (s.updSnap h f).mem = s.mem := by
  unfold State.updSnap; split <;> rfl

@[simp] theorem updSnap_cores (s : State) (h : Nat) (f : Snap → Snap) : (s.updSnap h f).cores = s.cores := by
  unfold State.updSnap; split <;> rfl

@[simp] theorem echo_mem (s : State) (h : Nat) (ps : List Piece) (v : Nat) : (s.echo h ps v).mem = s.mem := updSnap_mem s h _

@[simp] theorem takeSnap_mem (s : State) (h : Nat) : (s.takeSnap h).mem = s.mem := by
  unfold State.takeSnap; simp only [apply_ite State.mem, State.updHart, State.setHart, ite_self]

/-- The snapshot of a hart after a change of it. -/
theorem updSnap_snap (s : State) (h g : Nat) (f : Snap → Snap) :
    ((s.updSnap h f).hart g).snap = if h = g then (s.hart h).snap.map f else (s.hart g).snap := by
  unfold State.updSnap
  split
  · simp only [State.updHart_eq, State.hart_setHart]; split <;> simp_all
  · split <;> simp_all

/-! ### The scalar L1 (R125, R276) -/

@[simp] theorem setL1_mem (s : State) (c : Nat) (l : List L1Line) : (s.setL1 c l).mem = s.mem := rfl
@[simp] theorem setL1_harts (s : State) (c : Nat) (l : List L1Line) : (s.setL1 c l).harts = s.harts := rfl
@[simp] theorem setL1_cores (s : State) (c : Nat) (l : List L1Line) : (s.setL1 c l).cores = s.cores := rfl

@[simp] theorem dropBehind_mem (s : State) (c : Nat) : (s.dropBehind c).mem = s.mem := by
  unfold State.dropBehind; split <;> rfl

@[simp] theorem clearL1_mem (s : State) (c : Nat) : (s.clearL1 c).mem = s.mem := by
  unfold State.clearL1; split <;> rfl

@[simp] theorem noteRead_mem (s : State) (h : Nat) (ps : List Piece) : (s.noteRead h ps).mem = s.mem := rfl
@[simp] theorem releaseReads_mem (s : State) (h : Nat) : (s.releaseReads h).mem = s.mem := rfl

/-! ### Links (R437 to R443) -/

@[simp] theorem setDelivery_mem (s : State) (rod : Bool) (p : Nat) (d : Delivery) : (s.setDelivery rod p d).mem = s.mem := by
  unfold State.setDelivery; split <;> rfl
@[simp] theorem setBenlar_mem (s : State) (n : Nat) (p : BenlarPort) : (s.setBenlar n p).mem = s.mem := rfl
@[simp] theorem setEth_mem (s : State) (n : Nat) (p : EthPort) : (s.setEth n p).mem = s.mem := rfl

end Sys2Proof.Machine
end

