-- ==== Sys2Proof/Tests/Slice0.lean ====
section
/-! SUPPORT. Tests of the model: words of the spec's encodings, results that the spec gives, and for every statement a concrete state
and operands that meet its hypotheses. -/

set_option Elab.async false

namespace Sys2Proof.Tests

open Sys2Proof Sys2Proof.Machine

/-- Every word of the list decodes to the instruction beside it. -/
noncomputable def decodes (l : List (BitVec 32 × Instr)) : Bool := l.all (fun p => (decode p.1).toOption == some p.2)

/-- Every word of the list is refused for the reason beside it. -/
noncomputable def refuses (l : List (BitVec 32 × Reject)) : Bool := l.all (fun p => match decode p.1 with | .error r => r == p.2 | .ok _ => false)

/-- A meaning that ends in a value and a state that pass a test. -/
def ends {α : Type} (r : EStateM.Result Stop State α) (p : α → State → Bool) : Bool :=
  match r with
  | .ok a t => p a t
  | .error _ _ => false

/-- An outcome that is a next state which passes a test. -/
def after (o : Out1) (p : State → Bool) : Bool :=
  match o with
  | .next t => p t
  | _ => false

theorem ends_ok {α : Type} {r : EStateM.Result Stop State α} {p : α → State → Bool} (h : ends r p = true) :
    ∃ a t, r = .ok a t ∧ p a t = true := by
  cases r with
  | ok a t => exact ⟨a, t, rfl, h⟩
  | error e t => cases h

/-- The state in which hart 0 runs a supervisor task whose next word is w. -/
def probe (w : Nat) : State := State.reset.withFetchWord 32 w

/-- That state with registers of hart 0 set. -/
def probeX (l : List (BitVec 7 × Word)) : State := l.foldl (fun s p => s.setX 0 p.1 p.2) (probe 0)

/-- That state with the context of hart 0 changed. -/
def probeCtx (s : State) (f : Ctx → Ctx) : State := s.updCtx 0 f

/-- That state with hart 0 changed. -/
def probeHart (s : State) (f : Hart → Hart) : State := s.updHart 0 f

/-! ### Well-formedness and the decoder -/

/-- R25, R80 to R87, R263, R411: an ill-formed term for each check, and the last well-formed one beside it. -/
theorem test_ill_formed : ([.fenceAcq true 5, .fenceRel true 5, .fence true 7, .cget true 1 0x07, .cset true 1 0x3D, .cget true 1 0x1F,
    .vcvtTo true 1 2 5 false, .vcvtFrom true 1 2 7 false, .vldw true 1 2 3 0 false, .vldw true 1 2 0 3 false, .vlda true 1 2 false 3 0 false,
    .vldc true 1 2 true 0 3 false, .vldnp true 1 2 0 1 false, .mmulBf16 true 1 2 3 false, .mmulNp2 true 1 2 3 true,
    .mmulSpE4m3 true 1 2 3 false, .mmulSpNp2 true 1 2 3 true, .convoyCommit 2048, .gustCycle 512, .layerTempReport 0 4 0,
    .layerTempReport 512 0 0, .ldoSettle 0 16, .slewStep 64, .dewpointSample 0 64, .gateEntryComplete (.core 512),
    .wakeComplete (.cluster 64), .fatalFault 8, .primeZoneWrite true 8 0 0, .primeZoneWrite false 0 8 0, .doorbell 16 0, .prgSuccess 512,
    .sensorReading (.anvilLayer 0 4) 0, .sensorReading (.ioDie 2) 0, .parityError (.adders 8) true, .parityError (.front 512) false,
    .eccError (.hbmLine (2 ^ 31)) true, .eccError (.scaleFile 2048) true, .benlarFlit 18 [], .ethernetFrame 8 0 0 [] { retry := .off, msg := .nothing }, .chunkEnd 32,
    .chunkLine 64 0 0 0 0 [], .chunkLine 0 0 4 0 0 [], .chunkLine 0 0 0 0 256 [], .credit 0 0 4 0] : List Instr).all
      (fun i => !i.wellFormed) = true ∧
    ([.fence true 4, .cget true 1 0x06, .cset true 1 0x3C, .vcvtTo true 1 2 8 false, .vldw true 1 2 2 2 false, .vldnp true 1 2 1 1 false,
    .mmulBf16 true 1 2 0 false, .mmulBf16 true 1 0 3 true, .convoyCommit 2047, .gustCycle 511, .ldoSettle 0 15, .slewStep 63,
    .dewpointSample 0 63, .fatalFault 7, .doorbell 15 0, .prgSuccess 511, .eccError (.hbmLine (2 ^ 31 - 1)) true, .benlarFlit 17 [],
    .chunkEnd 31] : List Instr).all (·.wellFormed) = true := by
  decide +kernel

/-- R73, R74, R78 to R89: words that are no instruction, by their first defect. -/
theorem test_decode_refusals : refuses [(0x00000000, .unassignedSelect), (0xFFFFFFFF, .unassignedMajor), (0x80000036, .unassignedMajor),
    (0x80000037, .unassignedMajor), (0x80000301, .unassignedFunction), (0x800003C2, .unassignedFunction), (0x800001C3, .unassignedFunction),
    (0x80015005, .reservedField), (0x80000542, .unusedField), (0x88000025, .narrowField), (0x80000035, .reservedField),
    (0x80000078, .maskBit), (0x80000439, .unusedField), (0x800001DE, .unassignedSelect), (0x800040C0, .unassignedSelect),
    (0x8000455D, .unassignedSelect)] = true := by
  decide +kernel

/-- MAJ 0x00: words written out from the bit fields of the spec's encoding table. -/
theorem test_decode_major_00 : decodes [
    (0x80004000, .halt true), (0x00004040, .yield false), (0x805C4080, .tlbinv true 46), (0x53004100, .rdcyc false 83),
    (0xD3004140, .rdtime true 83), (0x53004640, .rdctr false 83 9)] = true := by
  decide +kernel

/-- MAJ 0x01: words written out from the bit fields of the spec's encoding table. -/
theorem test_decode_major_01 : decodes [
    (0xD35D9401, .add true 83 46 101), (0x535D9441, .sub false 83 46 101), (0xD35D9481, .and true 83 46 101),
    (0x535D94C1, .or false 83 46 101), (0xD35D9501, .xor true 83 46 101), (0x535D9541, .sll false 83 46 101),
    (0xD35D9581, .srl true 83 46 101), (0x535D95C1, .sra false 83 46 101), (0xD35D9601, .slt true 83 46 101),
    (0x535D9641, .sltn false 83 46 101), (0xD35D9681, .seq true 83 46 101), (0x535D96C1, .sne false 83 46 101)] = true := by
  decide +kernel

/-- MAJ 0x02: words written out from the bit fields of the spec's encoding table. -/
theorem test_decode_major_02 : decodes [
    (0xD35D9402, .fadd true 83 46 101), (0x535D9442, .fsub false 83 46 101), (0xD35D9482, .fmul true 83 46 101),
    (0x535D94C2, .fdiv false 83 46 101), (0xD35D9502, .ffma true 83 46 101), (0x535C0142, .fsqrt false 83 46),
    (0xD35D9582, .fmin true 83 46 101), (0x535D95C2, .fmax false 83 46 101), (0xD35D9602, .feq true 83 46 101),
    (0x535D9642, .flt false 83 46 101), (0xD35D9682, .fle true 83 46 101), (0x535C02C2, .fcvtI false 83 46),
    (0xD35C0302, .fcvtN true 83 46), (0x535C0342, .fcvtFi false 83 46), (0xD35C0382, .fcvtFn true 83 46)] = true := by
  decide +kernel

/-- MAJ 0x03: words written out from the bit fields of the spec's encoding table. -/
theorem test_decode_major_03 : decodes [
    (0x535D9403, .mul false 83 46 101), (0xD35D9443, .mulh true 83 46 101), (0x535D9483, .mulhn false 83 46 101),
    (0xD35D94C3, .div true 83 46 101), (0x535D9503, .divn false 83 46 101), (0xD35D9543, .rem true 83 46 101),
    (0x535D9583, .remn false 83 46 101)] = true := by
  decide +kernel

/-- MAJ 0x04: words written out from the bit fields of the spec's encoding table. -/
theorem test_decode_major_04 : decodes [
    (0xD35D34C4, .addi true 83 46 1235)] = true := by
  decide +kernel

/-- MAJ 0x05: words written out from the bit fields of the spec's encoding table. -/
theorem test_decode_major_05 : decodes [
    (0x535C2D45, .andi false 83 46 181), (0xD35C6D45, .ori true 83 46 181), (0x535CAD45, .xori false 83 46 181),
    (0xD35CED45, .slti true 83 46 181), (0x535D2D45, .sltni false 83 46 181), (0xD35D4A45, .slli true 83 46 41),
    (0x535D8A45, .srli false 83 46 41), (0xD35DCA45, .srai true 83 46 41)] = true := by
  decide +kernel

/-- MAJ 0x06: words written out from the bit fields of the spec's encoding table. -/
theorem test_decode_major_06 : decodes [
    (0x535D34C6, .jalr false 83 46 1235)] = true := by
  decide +kernel

/-- MAJ 0x07: words written out from the bit fields of the spec's encoding table. -/
theorem test_decode_major_07 : decodes [
    (0xD3A9B147, .lim true 83 173765)] = true := by
  decide +kernel

/-- MAJ 0x08: words written out from the bit fields of the spec's encoding table. -/
theorem test_decode_major_08 : decodes [
    (0x53A9B148, .apc false 83 173765)] = true := by
  decide +kernel

/-- MAJ 0x09: words written out from the bit fields of the spec's encoding table. -/
theorem test_decode_major_09 : decodes [
    (0xAECB7249, .beq true 46 101 1481)] = true := by
  decide +kernel

/-- MAJ 0x0A: words written out from the bit fields of the spec's encoding table. -/
theorem test_decode_major_0A : decodes [
    (0x2ECB724A, .bne false 46 101 1481)] = true := by
  decide +kernel

/-- MAJ 0x0B: words written out from the bit fields of the spec's encoding table. -/
theorem test_decode_major_0B : decodes [
    (0xAECB724B, .blt true 46 101 1481)] = true := by
  decide +kernel

/-- MAJ 0x0C: words written out from the bit fields of the spec's encoding table. -/
theorem test_decode_major_0C : decodes [
    (0x2ECB724C, .bge false 46 101 1481)] = true := by
  decide +kernel

/-- MAJ 0x0D: words written out from the bit fields of the spec's encoding table. -/
theorem test_decode_major_0D : decodes [
    (0xAECB724D, .bltn true 46 101 1481)] = true := by
  decide +kernel

/-- MAJ 0x0E: words written out from the bit fields of the spec's encoding table. -/
theorem test_decode_major_0E : decodes [
    (0x2ECB724E, .bgen false 46 101 1481)] = true := by
  decide +kernel

/-- MAJ 0x0F: words written out from the bit fields of the spec's encoding table. -/
theorem test_decode_major_0F : decodes [
    (0xC8D159CF, .jal true 19088743)] = true := by
  decide +kernel

/-- MAJ 0x10: words written out from the bit fields of the spec's encoding table. -/
theorem test_decode_major_10 : decodes [
    (0x535D34D0, .ld64 false 83 46 1235)] = true := by
  decide +kernel

/-- MAJ 0x11: words written out from the bit fields of the spec's encoding table. -/
theorem test_decode_major_11 : decodes [
    (0xD35D34D1, .ld32 true 83 46 1235)] = true := by
  decide +kernel

/-- MAJ 0x12: words written out from the bit fields of the spec's encoding table. -/
theorem test_decode_major_12 : decodes [
    (0x535D34D2, .ld32n false 83 46 1235)] = true := by
  decide +kernel

/-- MAJ 0x13: words written out from the bit fields of the spec's encoding table. -/
theorem test_decode_major_13 : decodes [
    (0xD35D34D3, .ld16 true 83 46 1235)] = true := by
  decide +kernel

/-- MAJ 0x14: words written out from the bit fields of the spec's encoding table. -/
theorem test_decode_major_14 : decodes [
    (0x535D34D4, .ld16n false 83 46 1235)] = true := by
  decide +kernel

/-- MAJ 0x15: words written out from the bit fields of the spec's encoding table. -/
theorem test_decode_major_15 : decodes [
    (0xD35D34D5, .ld8 true 83 46 1235)] = true := by
  decide +kernel

/-- MAJ 0x16: words written out from the bit fields of the spec's encoding table. -/
theorem test_decode_major_16 : decodes [
    (0x535D34D6, .ld8n false 83 46 1235)] = true := by
  decide +kernel

/-- MAJ 0x17: words written out from the bit fields of the spec's encoding table. -/
theorem test_decode_major_17 : decodes [
    (0xAECB7257, .st64 true 46 101 1481)] = true := by
  decide +kernel

/-- MAJ 0x18: words written out from the bit fields of the spec's encoding table. -/
theorem test_decode_major_18 : decodes [
    (0x2ECB7258, .st32 false 46 101 1481)] = true := by
  decide +kernel

/-- MAJ 0x19: words written out from the bit fields of the spec's encoding table. -/
theorem test_decode_major_19 : decodes [
    (0xAECB7259, .st16 true 46 101 1481)] = true := by
  decide +kernel

/-- MAJ 0x1A: words written out from the bit fields of the spec's encoding table. -/
theorem test_decode_major_1A : decodes [
    (0x2ECB725A, .st8 false 46 101 1481)] = true := by
  decide +kernel

/-- MAJ 0x1B: words written out from the bit fields of the spec's encoding table. -/
theorem test_decode_major_1B : decodes [
    (0xD35C001B, .lrx true 83 46), (0x535D945B, .scx false 83 46 101), (0xD35D949B, .aswap true 83 46 101),
    (0x535D94DB, .aadd false 83 46 101), (0xD35D951B, .aand true 83 46 101), (0x535D955B, .aor false 83 46 101),
    (0xD35D959B, .axor true 83 46 101), (0x535D95DB, .amax false 83 46 101), (0xD35D961B, .amin true 83 46 101),
    (0x535D965B, .amaxn false 83 46 101), (0xD35D969B, .aminn true 83 46 101), (0x535D96DB, .acas false 83 46 101),
    (0xD35D971B, .ainc true 83 46 101), (0x535D975B, .afab false 83 46 101)] = true := by
  decide +kernel

/-- MAJ 0x1C: words written out from the bit fields of the spec's encoding table. -/
theorem test_decode_major_1C : decodes [
    (0xD35C001C, .lrx32 true 83 46), (0x535D945C, .scx32 false 83 46 101), (0xD35D949C, .aswap32 true 83 46 101),
    (0x535D94DC, .aadd32 false 83 46 101), (0xD35D951C, .aand32 true 83 46 101), (0x535D955C, .aor32 false 83 46 101),
    (0xD35D959C, .axor32 true 83 46 101), (0x535D95DC, .amax32 false 83 46 101), (0xD35D961C, .amin32 true 83 46 101),
    (0x535D965C, .amaxn32 false 83 46 101), (0xD35D969C, .aminn32 true 83 46 101), (0x535D96DC, .acas32 false 83 46 101),
    (0xD35D971C, .ainc32 true 83 46 101), (0x535D975C, .afab32 false 83 46 101)] = true := by
  decide +kernel

/-- MAJ 0x1D: words written out from the bit fields of the spec's encoding table. -/
theorem test_decode_major_1D : decodes [
    (0x8000401D, .vdrain true), (0x000044DD, .fenceAcq false 3), (0x800048DD, .fenceRel true 3), (0x00004CDD, .fence false 3),
    (0x805C501D, .trap true 46), (0x0000505D, .tret false), (0x8000509D, .ebrk true)] = true := by
  decide +kernel

/-- MAJ 0x1E: words written out from the bit fields of the spec's encoding table. -/
theorem test_decode_major_1E : decodes [
    (0x53000C5E, .cget false 83 49)] = true := by
  decide +kernel

/-- MAJ 0x1F: words written out from the bit fields of the spec's encoding table. -/
theorem test_decode_major_1F : decodes [
    (0x805C0C5F, .cset true 46 49)] = true := by
  decide +kernel

/-- MAJ 0x20: words written out from the bit fields of the spec's encoding table. -/
theorem test_decode_major_20 : decodes [
    (0x535D9460, .vadd false 83 46 101 true), (0xD35D94E0, .vsub true 83 46 101 true), (0x535D9560, .vmul false 83 46 101 true),
    (0xD35D95E0, .vdiv true 83 46 101 true), (0x535D9660, .vmin false 83 46 101 true), (0xD35D96E0, .vmax true 83 46 101 true)] = true := by
  decide +kernel

/-- MAJ 0x21: words written out from the bit fields of the spec's encoding table. -/
theorem test_decode_major_21 : decodes [
    (0x535D9461, .vaddVx false 83 46 101 true), (0xD35D94E1, .vsubVx true 83 46 101 true), (0x535D9561, .vmulVx false 83 46 101 true),
    (0xD35D95E1, .vdivVx true 83 46 101 true), (0x535D9661, .vminVx false 83 46 101 true), (0xD35D96E1, .vmaxVx true 83 46 101 true)] = true := by
  decide +kernel

/-- MAJ 0x22: words written out from the bit fields of the spec's encoding table. -/
theorem test_decode_major_22 : decodes [
    (0x535D9462, .vfma false 83 46 101 true), (0xD35D94E2, .vfms true 83 46 101 true), (0x535D9562, .vfnma false 83 46 101 true),
    (0xD35D95E2, .vfnms true 83 46 101 true), (0x535D9662, .vfmaVx false 83 46 101 true), (0xD35D96E2, .vfmsVx true 83 46 101 true),
    (0x535D9762, .vfnmaVx false 83 46 101 true), (0xD35D97E2, .vfnmsVx true 83 46 101 true)] = true := by
  decide +kernel

/-- MAJ 0x23: words written out from the bit fields of the spec's encoding table. -/
theorem test_decode_major_23 : decodes [
    (0x535C0063, .vsqrt false 83 46 true), (0xD35C00E3, .vrsqrt true 83 46 true), (0x535C0163, .vexp false 83 46 true),
    (0xD35C01E3, .vlog true 83 46 true), (0x535C0263, .vtanh false 83 46 true), (0xD35C02E3, .vsigmoid true 83 46 true),
    (0x535C0363, .vfloor false 83 46 true), (0xD35C03E3, .vround true 83 46 true)] = true := by
  decide +kernel

/-- MAJ 0x24: words written out from the bit fields of the spec's encoding table. -/
theorem test_decode_major_24 : decodes [
    (0x535C0064, .vabs false 83 46 true), (0xD35C00E4, .vneg true 83 46 true), (0x535C0164, .vrelu false 83 46 true),
    (0xD35C01E4, .vmov true 83 46 true)] = true := by
  decide +kernel

/-- MAJ 0x25: words written out from the bit fields of the spec's encoding table. -/
theorem test_decode_major_25 : decodes [
    (0x055D9465, .veq false 5 46 101 true), (0x855D94E5, .vne true 5 46 101 true), (0x055D9565, .vlt false 5 46 101 true),
    (0x855D95E5, .vle true 5 46 101 true), (0x055D9665, .veqVx false 5 46 101 true), (0x855D96E5, .vneVx true 5 46 101 true),
    (0x055D9765, .vltVx false 5 46 101 true), (0x855D97E5, .vleVx true 5 46 101 true)] = true := by
  decide +kernel

/-- MAJ 0x26: words written out from the bit fields of the spec's encoding table. -/
theorem test_decode_major_26 : decodes [
    (0x535D9426, .vsel false 83 46 101), (0x850C0CA6, .qand true 5 6 3), (0x050C0D26, .qor false 5 6 3), (0x850C0DA6, .qxor true 5 6 3),
    (0x050C0E26, .qsub false 5 6 3), (0x850C02A6, .qnot true 5 6), (0x050C0326, .qcpy false 5 6)] = true := by
  decide +kernel

/-- MAJ 0x27: words written out from the bit fields of the spec's encoding table. -/
theorem test_decode_major_27 : decodes [
    (0xD35D9467, .viadd true 83 46 101 true), (0x535D94E7, .visub false 83 46 101 true), (0xD35D9567, .vimul true 83 46 101 true),
    (0x535D95E7, .vimulh false 83 46 101 true), (0xD35D9667, .vimin true 83 46 101 true), (0x535D96E7, .vimax false 83 46 101 true),
    (0xD35D9767, .vidiv true 83 46 101 true), (0x535D97E7, .virem false 83 46 101 true)] = true := by
  decide +kernel

/-- MAJ 0x28: words written out from the bit fields of the spec's encoding table. -/
theorem test_decode_major_28 : decodes [
    (0xD35D9468, .vand true 83 46 101 true), (0x535D94E8, .vor false 83 46 101 true), (0xD35D9568, .vxor true 83 46 101 true),
    (0x535D95E8, .vsll false 83 46 101 true), (0xD35D9668, .vsrl true 83 46 101 true), (0x535D96E8, .vsra false 83 46 101 true)] = true := by
  decide +kernel

/-- MAJ 0x29: words written out from the bit fields of the spec's encoding table. -/
theorem test_decode_major_29 : decodes [
    (0xD35D9469, .viaddVx true 83 46 101 true), (0x535D94E9, .vimulVx false 83 46 101 true), (0xD35D9569, .vandVx true 83 46 101 true),
    (0x535D95E9, .vorVx false 83 46 101 true), (0xD35D9669, .vxorVx true 83 46 101 true), (0x535D96E9, .vsllVx false 83 46 101 true),
    (0xD35D9769, .vsrlVx true 83 46 101 true), (0x535D97E9, .vsraVx false 83 46 101 true)] = true := by
  decide +kernel

/-- MAJ 0x2A: words written out from the bit fields of the spec's encoding table. -/
theorem test_decode_major_2A : decodes [
    (0xD35C246A, .vcvtTo true 83 46 9 true), (0x535C24EA, .vcvtFrom false 83 46 9 true)] = true := by
  decide +kernel

/-- MAJ 0x2B: words written out from the bit fields of the spec's encoding table. -/
theorem test_decode_major_2B : decodes [
    (0xD35C006B, .vredsum true 83 46 true), (0x535C00EB, .vredmax false 83 46 true), (0xD35C016B, .vredmin true 83 46 true),
    (0x535C01EB, .vredand false 83 46 true), (0xD35C026B, .vredor true 83 46 true), (0x535C02EB, .vredxor false 83 46 true)] = true := by
  decide +kernel

/-- MAJ 0x2C: words written out from the bit fields of the spec's encoding table. -/
theorem test_decode_major_2C : decodes [
    (0xD300006C, .vid true 83 true), (0x535D94EC, .vslideup false 83 46 101 true), (0xD35D956C, .vslidedn true 83 46 101 true),
    (0x535D95EC, .vshuf false 83 46 101 true), (0xD35C022C, .vcompress true 83 46), (0x535C02EC, .vbcast false 83 46 true)] = true := by
  decide +kernel

/-- MAJ 0x2D: words written out from the bit fields of the spec's encoding table. -/
theorem test_decode_major_2D : decodes [
    (0xD35C006D, .vhail true 83 46 true), (0x055D94AD, .vbern false 5 46 101)] = true := by
  decide +kernel

/-- MAJ 0x2E: words written out from the bit fields of the spec's encoding table. -/
theorem test_decode_major_2E : decodes [
    (0xD35D946E, .vseed true 83 46 101 true), (0x530000EE, .vtclr false 83 true), (0xD35D956E, .vtget true 83 46 101 true),
    (0x535D95EE, .vtset false 83 46 101 true), (0xD35D966E, .vfgu true 83 46 101 true)] = true := by
  decide +kernel

/-- MAJ 0x2F: words written out from the bit fields of the spec's encoding table. -/
theorem test_decode_major_2F : decodes [
    (0x535C002F, .vcfg false 83 46), (0xD35C00AF, .vgrant true 83 46), (0x005C012F, .wbase false 46)] = true := by
  decide +kernel

/-- MAJ 0x30: words written out from the bit fields of the spec's encoding table. -/
theorem test_decode_major_30 : decodes [
    (0xD35C0070, .vld true 83 46 true), (0x535D94F0, .vlds false 83 46 101 true), (0xD35D9570, .vldx true 83 46 101 true),
    (0x535C01F0, .vst false 83 46 true), (0xD35C0270, .vstU true 83 46 true), (0x535D96F0, .vsts false 83 46 101 true),
    (0xD35D9770, .vstx true 83 46 101 true), (0x535D97F0, .vstxU false 83 46 101 true)] = true := by
  decide +kernel

/-- MAJ 0x31: words written out from the bit fields of the spec's encoding table. -/
theorem test_decode_major_31 : decodes [
    (0xD35C2471, .vldw true 83 46 2 1 true), (0x535C04F1, .vstw false 83 46 1 true), (0xD35D2571, .vlda true 83 46 true 2 1 true),
    (0x535D05F1, .vsta false 83 46 true 1 true), (0xD35D2671, .vldc true 83 46 true 2 1 true), (0x535D06F1, .vstc false 83 46 true 1 true)] = true := by
  decide +kernel

/-- MAJ 0x32: words written out from the bit fields of the spec's encoding table. -/
theorem test_decode_major_32 : decodes [
    (0xD35D9472, .vaadd true 83 46 101 true), (0x535D94F2, .vaswap false 83 46 101 true), (0xD35D9572, .vamax true 83 46 101 true),
    (0x535D95F2, .vamin false 83 46 101 true), (0xD35D9672, .vamaxn true 83 46 101 true), (0x535D96F2, .vaminn false 83 46 101 true),
    (0xD35D9772, .vaand true 83 46 101 true), (0x535D97F2, .vaor false 83 46 101 true)] = true := by
  decide +kernel

/-- MAJ 0x33: words written out from the bit fields of the spec's encoding table. -/
theorem test_decode_major_33 : decodes [
    (0xD35D9473, .vaaddO true 83 46 101 true), (0x535D94F3, .vaswapO false 83 46 101 true), (0xD35D9573, .vamaxO true 83 46 101 true),
    (0x535D95F3, .vaminO false 83 46 101 true), (0xD35D9673, .vamaxnO true 83 46 101 true), (0x535D96F3, .vaminnO false 83 46 101 true),
    (0xD35D9773, .vaandO true 83 46 101 true), (0x535D97F3, .vaorO false 83 46 101 true)] = true := by
  decide +kernel

/-- MAJ 0x34: words written out from the bit fields of the spec's encoding table. -/
theorem test_decode_major_34 : decodes [
    (0xD3260074, .vsld true 83 19 true), (0x532600F4, .vsst false 83 19 true), (0xD3260134, .vbind true 83 19),
    (0x532601B4, .vunbind false 83 19), (0x80279634, .hset true 19 101), (0x005D96B4, .vscl false 46 101)] = true := by
  decide +kernel

/-- MAJ 0x35: words written out from the bit fields of the spec's encoding table. -/
theorem test_decode_major_35 : decodes [
    (0xD35D6475, .vldnp true 83 46 5 9 true)] = true := by
  decide +kernel

/-- MAJ 0x38: words written out from the bit fields of the spec's encoding table. -/
theorem test_decode_major_38 : decodes [
    (0x535C0038, .mshape false 83 46), (0x805C00B8, .mlds true 46), (0x0B000138, .mzero false 11), (0xD30001B8, .mstat true 83)] = true := by
  decide +kernel

/-- MAJ 0x39: words written out from the bit fields of the spec's encoding table. -/
theorem test_decode_major_39 : decodes [
    (0x0B5C0039, .mmulBf16 false 11 46 0 false), (0x8B0194F9, .mmulE4m3 true 11 0 101 true), (0x0B5C0139, .mmulE5m2 false 11 46 0 false),
    (0x8B0195F9, .mmulNp4 true 11 0 101 true), (0x0B5C0239, .mmulNp2 false 11 46 0 false)] = true := by
  decide +kernel

/-- MAJ 0x3A: words written out from the bit fields of the spec's encoding table. -/
theorem test_decode_major_3A : decodes [
    (0x8B01947A, .mmulSpBf16 true 11 0 101 true), (0x0B5C00BA, .mmulSpE4m3 false 11 46 0 false),
    (0x8B01957A, .mmulSpE5m2 true 11 0 101 true), (0x0B5C01BA, .mmulSpNp4 false 11 46 0 false), (0x8B01967A, .mmulSpNp2 true 11 0 101 true)] = true := by
  decide +kernel

/-- MAJ 0x3B: words written out from the bit fields of the spec's encoding table. -/
theorem test_decode_major_3B : decodes [
    (0x0B5C007B, .mdrain false 11 46 true), (0x8B5D94FB, .mdrainS true 11 46 101 true), (0x0B5D957B, .mdrainX false 11 46 101 true)] = true := by
  decide +kernel

/-- MAJ 0x3C: words written out from the bit fields of the spec's encoding table. -/
theorem test_decode_major_3C : decodes [
    (0x855D943C, .cpl true 5 46 101), (0x005D947C, .cpgo false 46 101), (0xD35D94BC, .cpv true 83 46 101),
    (0x535C00FC, .dmove false 83 46), (0xD35C013C, .dfix true 83 46), (0x535D957C, .vdfix false 83 46 101), (0xD30001BC, .dsweep true 83),
    (0x530001FC, .dack false 83), (0xD35D963C, .dstat true 83 46 101)] = true := by
  decide +kernel

/-- MAJ 0x3D: words written out from the bit fields of the spec's encoding table. -/
theorem test_decode_major_3D : decodes [
    (0x055C003D, .nwr false 5 46), (0xD300007D, .npost true 83), (0x535D94BD, .nwait false 83 46 101), (0xD35D94FD, .nctr true 83 46 101),
    (0x535D953D, .cgload false 83 46 101), (0xD35D957D, .cgrun true 83 46 101), (0x535D95BD, .cgwait false 83 46 101),
    (0xD35D95FD, .cgstat true 83 46 101)] = true := by
  decide +kernel

/-- MAJ 0x3E: words written out from the bit fields of the spec's encoding table. -/
theorem test_decode_major_3E : decodes [
    (0x535D943E, .barArrive false 83 46 101), (0xD35D947E, .barWait true 83 46 101), (0x535D94BE, .tskDef false 83 46 101),
    (0xD35C00FE, .tskDec true 83 46), (0x535D953E, .lnch false 83 46 101), (0xD35D957E, .lwait true 83 46 101),
    (0x530001BE, .sndClaim false 83), (0xD35C01FE, .sndGive true 83 46), (0x535D963E, .sndStat false 83 46 101)] = true := by
  decide +kernel

/-! ### Hypotheses of the statements on encodings and on the machine -/

theorem witness_EncodeThenDecode : (Instr.vldnp true 4 12 3 2 false).wellFormed = true ∧
    encode (.vldnp true 4 12 3 2 false) = some 0x8418C835#32 := by decide +kernel

/-- The worked encodings of 03_encoding.md. -/
theorem test_worked_encodings : decodes [(0x850C1C01, .add true 5 6 7), (0x850BFFC4, .addi true 5 5 0x7FF), (0x8501FF4A, .bne true 5 0 0x7FD),
    (0x8700081E, .cget true 7 0x20), (0x800048DD, .fenceRel true 3), (0x88140030, .vld true 8 10 false), (0x09100822, .vfma false 9 8 2 false),
    (0x091601B0, .vst false 9 11 false), (0x89100862, .vfma true 9 8 2 true), (0x8418C835, .vldnp true 4 12 3 2 false)] = true := by
  decide +kernel

/-- What a scan of core 0 offers hart 0 of the probe. -/
def scanned (w : Nat) : State := { ((probe w).pass 0).serveWaits ((probe w).scanOrder 0) with turn := 0 }

theorem witness_StepRunsTheDecodedWord : (probe 0x850C1C01).agenda = [] ∧ (probe 0x850C1C01).runCore = some 0 ∧
    (probe 0x850C1C01).scanOrder 0 = [0] ∧ ((scanned 0x850C1C01).hart 0).runs = true ∧ (scanned 0x850C1C01).pc 0 = 0x200000#64 ∧
    ends ((translate ((scanned 0x850C1C01).reqOf 0) .fetch 0x200000).run (scanned 0x850C1C01)) (fun r t =>
      r == .ok 0x200000 7 && t.backed 0x200000 && t.backed 0x200003 && !t.poisoned 0x200000 4 &&
      ((scanned 0x850C1C01).hart 0).queue.isEmpty && (t.comparator 0 0 (t.pc 0) none).isNone &&
      (t.swapped exec 0 (BitVec.ofNat 32 (t.mem.readN 0x200000 4))).isNone &&
      (decode (BitVec.ofNat 32 (t.mem.readN 0x200000 4))).toOption == some (.add true 5 6 7)) = true := by decide +kernel

theorem witness_agenda_StepRunsTheDecodedWord : agendaOk .commsync = true ∧ agendaOk (.add true 5 6 7) = false := by decide +kernel

theorem witness_MemoryStaysCanonical : (probe 0x850C1C01).mem.wf = true ∧ after (step (probe 0x850C1C01)) (fun t => t.mem.wf) = true := by
  decide +kernel

/-! ### Hypotheses of the statements on scalar words -/

theorem witness_IntegerResults : integerResult (probeX [(6, 3), (7, 4)]) (.add true 5 6 7) = some (5, 7) ∧
    integerResult (probeX [(6, 3), (7, 4)]) (.sub true 0 6 7) = some (0, wordS (-1)) := by decide +kernel

/-- R114 to R117: wraps, sign changes and the corners that the tables give. -/
theorem test_integer_corners : ([(.add true 5 6 7, 0), (.mulh true 5 6 7, wordS (-1)), (.mulhn true 5 6 7, 0), (.div true 5 6 0, wordS (-1)),
    (.rem true 5 6 0, wordS (-1)), (.sra true 5 6 7, wordS (-1)), (.slt true 5 6 7, 1), (.sltn true 5 6 7, 0), (.lim true 5 0x3FFFF, wordS (-2048)),
    (.div true 5 8 6, word (2 ^ 63)), (.rem true 5 8 6, 0)] : List (Instr × Word)).all (fun p =>
      after (exec p.1 (probeX [(6, wordS (-1)), (7, 1), (8, word (2 ^ 63))])) (fun t => t.x 0 5 == p.2)) = true := by decide +kernel

theorem witness_BranchesAndJumps : branchTaken (probe 0) (.beq true 0 0 0x400) = some (true, 0x400) ∧
    branchTaken (probe 0) (.bne true 0 0 0x3FF) = some (false, 0x3FF) := by decide +kernel

/-- R118, R119: the most negative offset, and a jump that links through its own base. -/
theorem test_jumps : after (exec (.beq true 0 0 0x400) (probe 0)) (fun t => t.pc 0 == 0x1FF000#64) = true ∧
    after (exec (.jalr true 6 6 1) (probeX [(6, 0x3006)])) (fun t => t.pc 0 == 0x3004#64 && t.x 0 6 == 0x200004#64) = true := by
  decide +kernel

theorem witness_ScalarWordChecks : badSelect (.cget true 5 0x3D) = true ∧ (encode (.cget true 5 0x3D)).isSome = true ∧
    forSupervisor (.halt false) = true ∧ badSelect (.halt false) = false ∧ (encode (.halt false)).isSome = true ∧
    ((probeCtx (probe 0) (fun c => { c with prv := false })).ctx 0).prv = false ∧ ((probe 0).ctx 0).prv = true ∧
    encode (.add false 5 6 7) = some 0x050C1C01#32 := by decide +kernel

theorem witness_FloatResults : floatResult (probeX [(6, 0x3F800000), (7, 0x40000000)]) (.fadd true 5 6 7) = some (5, 0x40400000, 0) := by
  decide +kernel

/-- R121: 1/3 rounds to nearest, 0 divided by 0 is the default NaN with NV, and the larger of −0 and +0. -/
theorem test_scalar_float : after (exec (.fdiv true 5 6 7) (probeX [(6, 0x3F800000), (7, 0x40400000)]))
      (fun t => t.x 0 5 == 0x3EAAAAAB#64 && (t.ctx 0).fv == evNX) = true ∧
    after (exec (.fdiv true 5 6 7) (probeX [])) (fun t => t.x 0 5 == 0x7FC00000#64 && (t.ctx 0).fv == evNV) = true := by decide +kernel

theorem witness_RoundingModes : 0 < 2 ∧ (2 : ℚ) * |((roundNat .rne 0 false 1 2 : Nat) : ℚ) - (1 : ℕ) / (2 : ℕ)| = 1 := by
  have h : roundNat .rne 0 false 1 2 = 0 := by decide +kernel
  rw [h]; norm_num

/-! ### Hypotheses of the statements on memory words -/

/-- An access of the probe's hart lands in one piece. -/
theorem lands {s : State} {acc : Acc} {ea : Word} {n : Nat} (q : Piece → State → Bool)
    (h : ends ((resolveOr (s.reqOf s.turn) acc cSACC ea ea.toNat n).run s) (fun ps u => match ps with
      | [p] => p.hops == 0 && q p u
      | _ => false) = true) : ∃ p u, LandsAt s acc ea n p u ∧ q p u = true := by
  obtain ⟨ps, u, hr, hp⟩ := ends_ok h
  match ps, hp with
  | [p], hp =>
    simp only [Bool.and_eq_true, beq_iff_eq] at hp
    exact ⟨p, u, ⟨hr, hp.1⟩, hp.2⟩

/-- A loadable and storable state: x6 is an address, x7 a value, and memory there holds one. -/
def memProbe (a : Word) : State := { probeX [(6, a), (7, 0x1122334455667788)] with mem := (probe 0).mem.writeN 0x300000 8 0x80F1E2D3C4B5A697 }

theorem witness_LoadResults : loadForm (.ld64 true 5 6 0x7F8) = some (5, 6, 0x7F8, 8, true) ∧
    (addressOf (memProbe 0x300008) 6 0x7F8).toNat = 0x300000 ∧
    ∃ p u, LandsAt (memProbe 0x300008) .load (addressOf (memProbe 0x300008) 6 0x7F8) 8 p u ∧
      (p.pa == 0x300000 && !u.poisoned p.pa 8) = true :=
  ⟨by decide +kernel, by decide +kernel, lands (fun p u => p.pa == 0x300000 && !u.poisoned p.pa 8) (by decide +kernel)⟩

/-- R123: widths, byte order and extension. -/
theorem test_loads : ([(.ld64 true 5 6 0, word 0x80F1E2D3C4B5A697), (.ld32 true 5 6 0, wordS (0xC4B5A697 - 2 ^ 32)), (.ld32n true 5 6 4, 0x80F1E2D3),
    (.ld16 true 5 6 0, wordS (0xA697 - 65536)), (.ld16n true 5 6 6, 0x80F1), (.ld8 true 5 6 7, wordS (-128)), (.ld8n true 5 6 1, 0xA6)] :
    List (Instr × Word)).all (fun p => after (exec p.1 (memProbe 0x300000)) (fun t => t.x 0 5 == p.2)) = true := by decide +kernel

theorem witness_StoreResults : (memProbe 0x300000).mem.wf = true ∧ storeForm (.st16 true 6 7 0x7FE) = some (6, 7, 0x7FE, 2) ∧
    ∃ p u, LandsAt (memProbe 0x300000) .store (addressOf (memProbe 0x300000) 6 0x7FE) 2 p u ∧ (p.pa == 0x2FFFFE) = true :=
  ⟨by decide +kernel, by decide +kernel, lands (fun p _ => p.pa == 0x2FFFFE) (by decide +kernel)⟩

/-- R123: a store writes the low bytes of its register, low byte first. -/
theorem test_stores : ([(.st64 true 6 7 0, 0x1122334455667788), (.st32 true 6 7 4, 0x55667788C4B5A697), (.st16 true 6 7 2, 0x80F1E2D37788A697),
    (.st8 true 6 7 7, 0x88F1E2D3C4B5A697)] : List (Instr × Nat)).all (fun p =>
      after (exec p.1 (memProbe 0x300000)) (fun t => t.mem.readN 0x300000 8 == p.2)) = true := by decide +kernel

theorem witness_AtomicResults : atomicForm (.aadd true 5 6 7) = some (5, 6, 7, 8, true) ∧
    orderReady (memProbe 0xD800000000300000) 0xD800000000300000 ∧
    ∃ p u, LandsAt (memProbe 0xD800000000300000) .atomic 0x300000 8 p u ∧ (p.pa == 0x300000 && !u.poisoned p.pa 8) = true :=
  ⟨by decide +kernel, ⟨by decide +kernel, by decide +kernel, fun _ => ⟨by decide +kernel, fun tid h => by
    have e : (((memProbe 0xD800000000300000).hart (memProbe 0xD800000000300000).turn).task) = some 1 := by decide +kernel
    rw [e] at h; cases h; decide +kernel⟩⟩, lands (fun p u => p.pa == 0x300000 && !u.poisoned p.pa 8) (by decide +kernel)⟩

/-- R127, R128: the old value, and what memory then holds, of each operation on both widths. -/
theorem test_atomics : ([(.aadd true 5 6 7, word 0x80F1E2D3C4B5A697, 0x921416181A1C1E1F),
    (.amax true 5 6 7, word 0x80F1E2D3C4B5A697, 0x1122334455667788), (.amaxn true 5 6 7, word 0x80F1E2D3C4B5A697, 0x80F1E2D3C4B5A697),
    (.ainc true 5 6 7, word 0x80F1E2D3C4B5A697, 0), (.acas true 5 6 7, word 0x80F1E2D3C4B5A697, 0x80F1E2D3C4B5A697),
    (.amin32 true 5 6 7, wordS (0xC4B5A697 - 2 ^ 32), 0x80F1E2D3C4B5A697), (.aminn32 true 5 6 7, 0xC4B5A697, 0x80F1E2D355667788),
    (.afab32 true 6 6 7, 0xC4B5A697, 0x80F1E2D3C4B5A697)] : List (Instr × Word × Nat)).all (fun p =>
      after (exec p.1 (memProbe 0x300000)) (fun t => (t.x 0 5 == p.2.1 || t.x 0 6 == p.2.1) && t.mem.readN 0x300000 8 == p.2.2)) = true := by
  decide +kernel

theorem witness_ReserveAndConditional :
    (∃ p u, LandsAt (memProbe 0x300000) .load 0x300000 8 p u ∧ (!u.poisoned p.pa 8) = true) ∧
    (∃ p u, LandsAt (memProbe 0x300000) .store 0x300000 8 p u ∧ (p.pa == 0x300000) = true) ∧
    ((memProbe 0x300000).hart 0).resv = none ∧
    ((probeHart (memProbe 0x300000) (fun t => { t with resv := some 0xC000 })).hart 0).resv = some (0x300000 / 64) :=
  ⟨lands (fun p u => !u.poisoned p.pa 8) (by decide +kernel), lands (fun p _ => p.pa == 0x300000) (by decide +kernel), by decide +kernel,
    by decide +kernel⟩

theorem witness_MisalignedAccessTraps : (addressOf (memProbe 0x300000) 6 0x7FF).toNat % 2 = 1 ∧
    ((memProbe 0xA000000000300004).x 0 6).toNat % 2 ^ 56 % 8 = 4 ∧ orderValid ((memProbe 0xA000000000300004).x 0 6) ∧
    ¬ orderValid ((memProbe (word (5 * 2 ^ 59 + 0x300000))).x 0 6) ∧ ¬ orderValid ((memProbe (word (2 ^ 56 + 0x300000))).x 0 6) ∧
    orderedForm (.scx32 true 5 6 7) = some (6, 4) ∧ orderedForm (.lrx true 5 6) = some (6, 8) ∧ (encode (.lrx true 5 6)).isSome = true ∧
    orderedForm (.aadd32 true 5 6 7) = some (6, 4) := by unfold orderValid; decide +kernel

/-! ### Hypotheses of the statements on system words -/

/-- The probe with a word in its vector queue, past the gate. -/
def queueProbe : State := probeHart (probe 0) (fun t => { t with released := true, queue := [
  { word := 0x88140030, addr := 0x200000, opA := 0, opB := 0, capA := true, capB := false, seq := 0, done := false }] })

theorem witness_TimeAndFences : (queueProbe.hart 0).released = true ∧ (afterFirst (queueProbe.hart 0).queue).all (·.done) = true ∧
    ((probe 0).hart 0).queue = [] ∧ ((probe 0).hart 0).task = some 1 ∧ (probe 0).transfersDone 1 = true ∧ ((probe 0).ctx 0).copyFault = none ∧
    (3 : BitVec 3) ≠ 0 := by decide +kernel

theorem witness_ControlReads : assignedSelect 0 = true ∧ assignedSelect 0x3A = true ∧ ((probe 0).hart 0).queue = [] ∧
    (probe 0).stoppable 0 = true ∧ ((probe 0).ctx 0).inh = false ∧
    ((probeCtx (probe 0) (fun c => { c with inh := true })).ctx 0).inh = true := by decide +kernel

/-- R27 to R34: fields that a write keeps. -/
theorem test_cset_fields : after (exec (.cset true 6 0x37) (probeX [(6, wordS (-1))])) (fun t => t.ctrl 0 0x37 == 0x3F0000FFFF) = true ∧
    after (exec (.cset true 6 0x31) (probeX [(6, wordS (-1))])) (fun t => t.ctrl 0 0x31 == 13) = true := by decide +kernel

theorem witness_ControlWrites : assignedSelect 0x21 = true ∧ ((probe 0).ctx 0).prv = true ∧ ((probe 0).hart 0).queue = [] := by decide +kernel

theorem witness_VectorConfiguration : ((probe 0).hart 0).queue = [] ∧ (probe 0).stoppable 0 = true ∧ ¬ vtRefused 0xA00 ∧ vtRefused 0xA05 ∧
    vtRefused (5 * 2 ^ 27 + 0xA00) ∧ 128 ≤ ((probe 0).ctx 0).vcount := by unfold vtRefused; decide +kernel

/-- R20: VLMAX of FP32 without tangents, and of E5M2 with a bundle of three. -/
theorem test_vlmax : vlmaxOf 0xA00 = 1024 ∧ vlmaxOf 0xA74 = 8 * (512 / 7) := by simp [vlmaxOf, vwOf]

/-- Where no hart has kept a leaf, none is kept. -/
theorem none_kept (s : State) (h : s.harts.all (fun e => e.2.pins.isEmpty) = true) : ∀ g, ∀ e ∈ s.kept g, False := by
  intro g e he
  have hp : (s.hart g).pins = [] := by
    have key : ∀ (t : Tbl Hart) (_ : t.all (fun e => e.2.pins.isEmpty) = true), (Tbl.get Hart.reset t g).pins = [] := by
      intro t
      induction t with
      | nil => intro _; rfl
      | cons x t ih =>
        intro ht
        simp only [List.all_cons, Bool.and_eq_true] at ht
        simp only [Tbl.get]
        split
        · exact List.isEmpty_iff.1 ht.1
        · exact ih ht.2
    exact key _ h
  simp [State.kept, hp] at he

/-- A task of a launch of higher priority has not begun, and there is room for its frame. -/
def crowded : State :=
  { probe 0 with
    schcfg := 0, time := 10 ^ 12, fpool := 0x1000 * 2 ^ 16 + 1,
    launches := [(1, { probeLaunch with total := 2, begun := [1], prio := 3, placed := [(0, 0, 0)] })], tasks := [(1, { probeTask 0 with t := 1 })] }

theorem witness_SupervisorWords : ((probe 0).retire 0).yieldsTo 0 = false ∧ (crowded.retire 0).yieldsTo 0 = true ∧
    (crowded.hart 0).task = some 1 ∧ (crowded.taskOf 1).isSome = true ∧ crowded.savable 0 = true ∧ (crowded.ctx 0).prv = true ∧
    (crowded.hart 0).queue = [] ∧ crowded.transfersDone 1 = true ∧ (crowded.x 0 6).toNat / 2 ^ 56 % 128 = 0 ∧
    crowded.harts.all (fun e => e.2.pins.isEmpty) = true := by decide +kernel

theorem witness_tlbinv_SupervisorWords : ∀ g, ∀ e ∈ crowded.kept g, False := none_kept crowded (by decide +kernel)

/-- The probe with a handler. -/
def handled : State := probeCtx (probe 0) (fun c => { c with tvec := 0x240000 })

theorem witness_TrapEntrySaves : handled.stoppable 0 = true ∧ (handled.ctx 0).tvec ≠ 0 ∧ (handled.ctx 0).inh = false ∧
    ((probe 0).ctx 0).tvec = 0 ∧ ((probe 0).hart 0).task = some 1 ∧ ((probe 0).taskOf 1).isSome = true := by decide +kernel

/-- R45: a trap saves EPC and EVAL and goes to the handler. -/
theorem test_trap : after (exec (.trap true 6) (handled.setX 0 6 77)) (fun t => t.pc 0 == 0x240000#64 && (t.ctx 0).epc == 0x200000#64 &&
    (t.ctx 0).evalr == 77#64 && (t.ctx 0).ecause == word cTRAP) = true := by decide +kernel

/-- The probe in a handler: the trap area holds VT at reset and an empty dump. -/
def returning : State :=
  { probeCtx handled (fun c => { c with inh := true, epc := 0x250000 }) with mem := (probe 0).mem.writeN 0x400A00 8 0xA00 }

theorem witness_TrapWords : ((probe 0).hart 0).dbg = false ∧ ((probeHart (probe 0) (fun t => { t with dbg := true })).hart 0).dbg = true ∧
    (returning.ctx 0).inh = true ∧ (returning.hart 0).queue = [] ∧ (returning.ctx 0).enqN = 0 ∧ (returning.ctx 0).frm = 0x400000 ∧
    returning.poisoned (0x400000 + 0xA00) 0x400 = false ∧
    vtOk (returning.mem.readN 0x400A00 8) (returning.mem.readN 0x400A08 8) = true := by decide +kernel

/-- The probe in a handler whose trap area holds a dump of one word w. -/
def reissuing (w : Nat) : State :=
  { probeCtx returning (fun c => { c with enqN := 1 }) with mem := (returning.mem.writeN 0x400C00 16 w).writeN 0x400A08 8 1 }

/-- R42: the dump of a vld passes the checks, that of a word which is no instruction does not. -/
theorem witness_dump_TrapWords : ([(0x88140030 + 2 ^ 120, true), (0xFFFFFFFF + 2 ^ 120, false)] : List (Nat × Bool)).all (fun p =>
      let u := handlerLeft (reissuing p.1) 0
      u.dumpOk 0 1 (u.readDump 0x400000 0xC00 1 0 [] 0) == p.2) = true ∧ ((reissuing 0).ctx 0).inh = true ∧
    ((reissuing 0).hart 0).queue = [] ∧ ((reissuing 0).ctx 0).enqN = 1 ∧ (reissuing 0).poisoned (0x400000 + 0xA00) 0x400 = false ∧
    (((reissuing 0).hartTask 0).map (·.trapAddrs)).getD [] = [] ∧ ((reissuing 0).ctx 0).ecp = 0 ∧ ((reissuing 0).ctx 0).enqSeq0 = 0 := by
  decide +kernel

/-- R42, R46: the word of the dump stands in the queue again; a dump that fails ends the task. -/
theorem test_reissue : after (exec (.tret true) (reissuing (0x88140030 + 2 ^ 120))) (fun t => (t.hart 0).queue.map (·.word) == [0x88140030#32]) = true ∧
    after (exec (.tret true) (reissuing (0xFFFFFFFF + 2 ^ 120))) (fun t => (t.taskOf 1).isNone) = true := by decide +kernel

/-- R46: tret goes back to EPC. -/
theorem test_tret : after (exec (.tret true) returning) (fun t => t.pc 0 == 0x250000#64 && !(t.ctx 0).inh && (t.ctx 0).vt == 0xA00) = true := by
  decide +kernel

theorem witness_FetchAndPageFaults : ((probe 0).hart 0).task = some 1 ∧ (probe 0).stoppable 0 = true ∧ (probe 0).savable 0 = true ∧
    ((probe 0).taskOf 1).isSome = true ∧ 2 ^ 56 ≤ ((probeCtx (probe 0) (fun c => { c with pc := word (2 ^ 56) })).pc 0).toNat ∧
    ends ((translate ((probe 0).reqOf 0) .fetch 0x40000000).run (probe 0)) (fun r _ => r == .miss none) = true := by decide +kernel

theorem witness_SavedContextReturns : (probe 0).mem.wf = true ∧ ((probe 0).ctx 0).bovf = none := by decide +kernel

/-! ### Hypotheses of the statements on words of the vector queue -/

/-- Some descriptor of a word of the probe's context meets a test. -/
def described (s : State) (i : Instr) (p : VWord → Bool) : Bool := (vword (s.ctx s.turn) i).any p

theorem witness_queued_QueueWordsEnter : (∀ v, queued v (.mzero true 15)) ∧
    described (probe 0) (.vld true 8 10 false) (fun v => v.kind == .element) = true :=
  ⟨fun _ => .inr (.inr (.inr ⟨true, 15, rfl⟩)), by decide +kernel⟩

theorem witness_QueueWordsEnter : (encode (.vld true 8 10 false)).isSome = true ∧
    described (probe 0) (.vld true 8 10 false) (fun v => v.kind == .element && (probe 0).convoyOk 0 v &&
      !issueBad (probe 0) 0 v (opA (probe 0) 0 v) (opB (probe 0) 0 v) (.vld true 8 10 false)) = true ∧
    ((probe 0).hart (probe 0).turn).queue.length < 32 ∧
    described (probe 0) (.vst false 9 11 false) (fun v => v.kind == .element && !(probe 0).convoyOk 0 v) = true ∧
    described (probe 0) (.vand true 1 2 3 false) (fun v => v.kind == .element && (probe 0).convoyOk 0 v &&
      issueBad (probe 0) 0 v (opA (probe 0) 0 v) (opB (probe 0) 0 v) (.vand true 1 2 3 false)) = true := by decide +kernel

/-- R84: an integer word under FP32 traps with OPND; a masked word joins the queue. -/
theorem test_issue : after (exec (.vand true 1 2 3 false) handled) (fun t => (t.ctx 0).ecause == word cOPND) = true ∧
    after (exec (.vadd true 1 2 3 true) handled) (fun t => (t.hart 0).queue.map (fun e => e.word.toNat) == [0x81040C60]) = true := by
  decide +kernel

/-- A shape request: no scale exponents, dense, BF16, 16 rows, columns and depth. -/
def request : Nat := 16 * 2 ^ 21 + 16 * 2 ^ 11 + 16

/-- The probe whose task owns its core's Anvil under that shape, or has another task own it. -/
def owning (tid : Nat) : State :=
  (probeX [(6, word request), (8, word (2 ^ 63))]).updCore 0 (fun k => { k with anvil := { k.anvil with owner := some tid, shape := granted request } })

theorem witness_MatrixWordsAtIssue : ((probe 0).hart 0).queue = [] ∧ ((owning 1).hart 0).task = some 1 ∧ mshapeBad ((owning 1).x 0 6).toNat = false ∧
    ((owning 1).x 0 6).msb = false ∧ ((probe 0).anvil 0).owner = none ∧ ((probe 0).anvil 0).releasing = none ∧
    ((owning 2).anvil 0).owner = some 2 ∧ ((owning 2).anvil 0).releasing = none ∧ ((owning 1).x 0 8).toNat = 2 ^ 63 ∧
    ((owning 1).anvil 0).owner = some 1 ∧ (owning 1).ownsAnvil 0 = true ∧ ((owning 1).core 0).copies = [] ∧
    ((owning 1).ctx 0).tileOk 15 = true := by decide +kernel

/-- The core holds an allocation of 4 KiB of weights for the launch. -/
def weighted : State := (owning 1).updCore 0 (fun k => { k with allocs := [{ lno := 1, w := { Buf.empty with size := 4096 }, a := Buf.empty, c := Buf.empty }] })

/-- The state after a meaning that has a next state. -/
def then' (i : Instr) (s : State) : State := match exec i s with | .next t => t | _ => s

/-- A run-ahead word stands alone in the queue of hart 0, ready for the gate. -/
def aheadAlone (s : State) : Bool :=
  (match (s.hart 0).queue with
   | [e] => e.ahead
   | _ => false) && s.aheadReady 0 && !(s.hart 0).released && !(s.hart 0).dbg && (s.core 0).gustLevel - gustLeak (s.core 0).gustCfg == 0 &&
  (List.range 3).all (fun k => (s.hart (k + 1)).queue.isEmpty)

theorem witness_gate_MatrixWordsAtIssue : aheadAlone (then' (.mlds true 9) weighted) = true ∧
    (((then' (.mlds true 9) weighted).anvil 0).plane ((then' (.mlds true 9) weighted).planeOf 0 0)).isSome = true ∧
    aheadAlone (then' (.mzero true 15) (owning 1)) = true ∧ aheadAlone (then' (.mshape true 5 8) (owning 1)) = true ∧
    ((then' (.mshape true 5 8) (owning 1)).anvil 0).releasing = some 1 ∧
    (((then' (.mshape true 5 8) (owning 1)).hart 0).queue.map (fun e => e.opA.msb)) = [true] ∧
    ((owning 1).anvil 0).releasing = none ∧ ((probe 0).hart 0).queue.length < 32 := by decide +kernel

/-- R222: weight 17 of a BF16 plane is element 34 bytes into the allocation, row 1, column 1. -/
theorem test_mlds : after (exec (.mlds true 9) (weighted.updBuf 0 1 .w (fun b => { b with data := b.data.writeN 34 2 0x3F80 })))
    (fun t => after (exec (.gustCycle 0) t) (fun u =>
      (((u.anvil 0).plane0.map (·.weights)).getD []).any (fun w => w.kk == 1 && w.n == 1 && w.code == 0x3F80) && (u.hart 0).queue.isEmpty)) = true := by
  decide +kernel

theorem witness_mlds_MatrixWordsAtIssue : weighted.ownsAnvil 0 = true ∧ ownIssueBad weighted 0 (weighted.x 0 9) 0 (.mlds true 9) = false := by
  decide +kernel

/-! ### Hypotheses of the statements on the cluster -/

/-- A hart with an empty queue, whose task has no transfer in flight, may release. -/
theorem may_release (s : State) (h tid : Nat) (hq : (s.hart h).queue.isEmpty = true) (ht : (s.hart h).task == some tid)
    (hd : s.transfersDone tid = true) : releaseReady s h := by
  refine ⟨List.isEmpty_iff.1 hq, fun t e => ?_⟩
  rw [eq_of_beq ht] at e
  exact (Option.some.inj e) ▸ hd

theorem witness_BarrierWords : clusterHeld (probe 0) ∧ releaseReady (probe 0) 0 ∧ barWordBad (2 * 2 ^ 16 + 7) = false ∧
    ((probe 0).cluster 0).bar 1 7 = { ph := 0, cnt := 0, exp := 0, ov := false } ∧ phasePassed 0 0xFFFF = true ∧ phasePassed 0 0 = false ∧
    ((probe 0).ctx 0).bovf = none ∧ ((probe 0).ctx 0).guard = none ∧ ((probe 0).ctx 0).copyFault = none :=
  ⟨by unfold clusterHeld; decide +kernel, may_release _ 0 1 (by decide +kernel) (by decide +kernel) (by decide +kernel), by decide +kernel⟩

theorem witness_gated_BarrierWords : (let s := (probe 0).updCluster 0 (fun k => { k with gate := .gated })
    (s.cluster (s.homeCluster s.turn)).gate == .gated && !(s.cluster 0).lost.contains (s.hartLno s.turn) && (s.tower 0).powered) = true := by
  decide +kernel

/-- R253: the second of two arrivals passes the phase. -/
theorem test_barrier : after (exec (.barArrive true 5 6 7) (probeX [(6, 0x20001), (7, 1)])) (fun t =>
      after (exec (.barArrive true 5 6 7) t) (fun u => (u.cluster 0).bar 1 1 == { ph := 1, cnt := 0, exp := 2, ov := false } && u.x 0 5 == 0)) = true := by
  decide +kernel

/-- A named-task record at 0x300000: entry 0x240000, 128 registers. -/
def named : State := { probeX [(6, 0x300000), (7, 65535)] with mem := (probe 0).mem.writeN 0x300000 64 (0x240000 + 128 * 2 ^ 320) }

/-- A counter of the launch is held. -/
def counting (n : Nat) : State :=
  named.updCluster 0 (fun k => { k with counters := [(0, { lno := 1, count := n, record := 0, key := 0, pkey := 0, prio := 0, prv := false })] })

theorem witness_NamedTaskWords : (named.cluster (named.homeCluster 0)).lost.contains (named.hartLno 0) = false ∧
    named.homeCluster 0 = 0 ∧ (named.cluster 0).gate = .running ∧ ((counting 2).cluster 0).gate = .running ∧
    ends ((readHome (named.reqOf 0) cSACC 0x300000 0x300000 64).run
      (named.wakeCluster 0)) (fun v _ => !defBad v.1) = true ∧
    Tbl.find (named.cluster 0).counters 0 = none ∧ Tbl.find ((counting 1).cluster 0).counters 1 = none ∧
    (Tbl.find ((counting 1).cluster 0).counters 0).map (·.count) = some 1 ∧ ((counting 2).hart 0).queue = [] ∧
    (counting 2).transfersDone 1 = true ∧ (((probe 0).updCluster 0 (fun k => { k with counters := (List.range 1024).map (fun n =>
      (n, { lno := 1, count := 1, record := 0, key := 0, pkey := 0, prio := 0, prv := false })) })).cluster 0).counters.length = 1024 := by
  decide +kernel

/-- R260: the decrement that reaches zero frees the counter and makes a ready task. -/
theorem test_named_task : after (exec (.tskDef true 5 6 7) named) (fun t => t.x 0 5 == 0#64 && ((Tbl.find (t.cluster 0).counters 0).map (·.count)) == some 65535) = true ∧
    after (exec (.tskDec true 5 8) ((counting 1).setX 0 8 0)) (fun t => (Tbl.find (t.cluster 0).counters 0).isNone && t.x 0 5 == 1#64 &&
      ((Tbl.find t.tasks 1).isSome)) = true := by decide +kernel

theorem witness_PowerEvents : (State.reset.core 511).gate = .running ∧ State.reset.mayGate 511 = true ∧
    ((State.reset.updCore 511 (fun k => { k with gate := .entering })).core 511).gate = .entering ∧
    (State.reset.updCore 511 (fun k => { k with gate := .entering })).mayGate 511 = true ∧
    ((State.reset.updCluster 63 (fun k => { k with gate := .entering })).cluster 63).gate = .entering ∧
    (State.reset.updCluster 63 (fun k => { k with gate := .entering })).mayGateCluster 63 = false ∧
    ((State.reset.updCore 0 (fun k => { k with gate := .waking })).core 0).gate = .waking ∧ (State.reset.cluster 63).dpcfg % 2 = 1 ∧
    ((State.reset.updCluster 63 (fun k => { k with gate := .waking })).cluster 63).port = [] ∧
    (let s := (counting 2).updCluster 0 (fun k => { k with gate := .waking, port := [(1, 0)] })
     (s.cluster 0).gate = .waking ∧ (s.cluster 0).port = [(1, 0)] ∧ (Tbl.find (s.cluster 0).counters 0).map (fun d => (d.lno, d.count)) = some (1, 2)) := by
  decide +kernel

/-- R268: a margin under the target by more than HYST raises VCODE from 80 by one; one above lowers it. -/
theorem test_dewpoint : after (exec (.dewpointSample 0 9) State.reset) (fun t => (t.cluster 0).vcode == 81) = true ∧
    after (exec (.dewpointSample 0 15) State.reset) (fun t => (t.cluster 0).vcode == 79) = true := by decide +kernel

/-! ### Hypotheses of the statements on launches and Sounding -/

/-- A record of one task that a task may launch, at 0x300000, and x6 its address. -/
def record1 : Nat := 0x200000 + 2 ^ 748 + 2 ^ 1024

/-- The probe that may launch it, with a graph of that record in slot 255. -/
def launching : State :=
  { probeX [(6, 0x300000), (8, 255), (9, 1)] with
    mem := (probe 0).mem.writeN 0x300000 256 record1, fpool := 0x1000 * 2 ^ 16 + 1,
    graphs := [(255, { GraphSlot.empty with nodes := [(record1, 0x300000, 0, 0x300000)] })] }

theorem witness_LaunchWords : releaseReady launching 0 ∧ ends ((readHome (launching.reqOf 0) cSACC 0x300000 0x300000 256).run launching)
      (fun v _ => v.1 == record1) = true ∧ recordBad record1 false = false ∧ recPrio record1 ≤ (launching.ctx 0).prio ∧ launching.pasidEnabled = true ∧
    (launching.ctx 0).prv = true ∧ recSupv record1 = false ∧ recPasen record1 = false ∧ recPasid record1 = 0 ∧ recPtroot record1 = 0 ∧
    (launching.graph 255).nodes ≠ [] ∧ (launching.graph 255).runs.length < 4 ∧ launching.hartLno 0 = 1 ∧
    launching.handleEnd false 2 0 ≠ none ∧ launching.handleEnd true 255 0 ≠ none ∧
    ({ launching with launches := [(1, probeLaunch), (2, probeLaunch)] } : State).handleEnd false 2 0 = none :=
  ⟨may_release _ 0 1 (by decide +kernel) (by decide +kernel) (by decide +kernel), by decide +kernel⟩

/-- A thousand and twenty-four launches are live. -/
def fullOfLaunches : State := { launching with launches := (List.range 1024).map (fun n => (n + 1, probeLaunch)) }

/-- With one launch, of LNO 1, another LNO is free whichever the device looks at first. -/
theorem free_beside_one (s : State) (l : Launch) (e : s.launches = [(1, l)]) : s.freeLno.isNone = false := by
  have hl : ∀ n, n ≠ 1 → s.isLive n = false := by
    intro n hn; simp [State.isLive, State.launch, e, Tbl.find, Ne.symm hn]
  have hf : s.freeLno.isSome = true := by
    simp only [State.freeLno, Option.isSome_map, List.find?_isSome]
    by_cases h0 : Config.choice s.fresh % 65535 = 0
    · exact ⟨1, by simp, by rw [hl _ (by omega)]; rfl⟩
    · exact ⟨0, by simp, by rw [hl _ (by omega)]; rfl⟩
  cases h : s.freeLno with
  | none => rw [h] at hf; cases hf
  | some v => rfl

theorem not_full (s : State) (l : Launch) (r : Nat) (e : s.launches = [(1, l)]) (hs : recSnd r = false) (hc : s.liveCount < 1024) :
    s.admitFull r = false := by
  simp [State.admitFull, hs, free_beside_one s l e, hc]

theorem full (s : State) (r : Nat) (h : 1024 ≤ s.liveCount) : s.admitFull r = true := by simp [State.admitFull, h]

theorem live_fresh (s : State) (k : Nat) : ({ s with fresh := k } : State).liveCount = s.liveCount := rfl

theorem witness_full_LaunchWords : (∀ k, ({ launching with fresh := k } : State).admitFull record1 = false) ∧
    (∀ k, ({ fullOfLaunches with fresh := k } : State).admitFull record1 = true) :=
  ⟨fun k => not_full _ probeLaunch _ rfl (by decide +kernel) (by rw [live_fresh]; decide +kernel),
   fun k => full _ _ (by rw [live_fresh]; decide +kernel)⟩

/-- R383: an instance of the graph starts, and x[d] names it. -/
theorem test_launch : after (exec (.lnch true 5 8 9) launching) (fun t => t.x 0 5 == word (2 ^ 32 + 255)) = true := by decide +kernel

/-- The probe's launch has a Sounding context of at most 10 positions by 4, and x7 selects. -/
def sounded (c : Sounding) (out : Nat) (sel : Word) : State :=
  probeCtx { probeX [(7, sel)] with sounding := [(1, c)] } (fun x => { x with out := out })

/-- A fresh context. -/
def open1 : Sounding :=
  { cc := 0, isSealed := false, done := false, s := 0, cause := 0, lost := false, lostn := 0, nonfin := false, n := 0, mean := 0, m2 := 0, x := 5, hw := 0,
    sealT := 0, doneT := 0, held := false }

theorem witness_SoundingWords : (sounded open1 0 0).snd ((sounded open1 0 0).hartLno 0) = some open1 ∧ ((sounded open1 0 0).ctx 0).out = 0 ∧
    open1.isSealed = false ∧ ((sounded { open1 with isSealed := true } 0 0).snd 1).map (·.isSealed) = some true ∧ ((sounded open1 2 0).ctx 0).out = 2 ∧
    ((sounded open1 1 0).ctx 0).out = 1 ∧ ((sounded open1 2 6).x 0 7).toNat % 2 ^ 24 = 6 ∧
    Tbl.find (((sounded open1 0 0).updTower 7 (fun t => { t with slices := [(1, { n := 1, mean := 0, m2 := 0 })] })).tower 7).slices 1 =
      some { n := 1, mean := 0, m2 := 0 } ∧ ((sounded open1 0 0).tower 7).flight = [] ∧
    Tbl.find (((sounded open1 0 0).updTower 0 (fun t => { t with flight := [(1, { n := 1, mean := 0, m2 := 0 })] })).tower 0).flight 1 =
      some { n := 1, mean := 0, m2 := 0 } ∧ 1 < open1.x := by decide +kernel

/-- R391: the first sample is the mean, and a position given back with the last one owed sends it to the tower's slice. -/
theorem test_give : after (exec (.sndGive true 5 6) ((sounded open1 1 0).setX 0 6 0x3FC00000)) (fun t => t.x 0 5 == 0#64 &&
    Tbl.find (t.tower 0).slices 1 == some { n := 1, mean := 0x3FF8000000000000, m2 := 0 }) = true := by decide +kernel

/-! ### Hypotheses of the statements on the core's engines -/

/-- The probe with one unmasked vadd v1, v2, v3 of one element in its queue, which the gate has released. -/
def convoy : State :=
  probeHart (probeCtx (probe 0) (fun c => { c with vl := 1 })) (fun t => { t with
    released := true,
    queue := [{ word := 0x81040C20, addr := 0x200000, opA := 0, opB := 0, capA := false, capB := false, seq := 0, done := false }] })

theorem witness_ConvoyCommitEnds : (convoy.hart 0).released = true ∧ (convoy.hart 0).remote = .idle ∧ (convoy.hart 0).queue ≠ [] ∧
    convoy.settlesOnly 0 = false ∧ (convoy.ctx 0).vs = (convoy.hart 0).startVs ∧
    convoySpan (convoy.ctx 0) (firstConvoy (convoy.hart 0).queue) = (convoy.ctx 0).vs + 1 ∧
    ends ((firstChecks 0 1).run convoy) (fun _ _ => true) = true ∧
    (let o := convoy.openMembersOf 0 1 (firstConvoy (convoy.hart 0).queue).zipIdx
     let s1 := o.1.takeSnap 0
     o.2 && !(s1.hart 0).dbg && (s1.ctx 0).vs == (convoy.ctx 0).vs &&
     (let s2 := ({ s1 with fresh := s1.fresh + 1 } : State).count 0 5 (s1.groupCycles 0)
      let s3 := if s2.reachesBuffers 0 0 0 then s2.countConflicts 0 else s2
      ends ((elementStep 0 0).run s3) (fun _ _ => true) && (s3.remoteTargets 0 0).isEmpty)) = true := by
  decide +kernel

/-- An element of a word of format `vt` on hart 0, of which mask 0 makes element 0 inactive. -/
def lane (s : State) (vt i : Nat) : Lane :=
  { h := 0, core := 0, i := i, c := { s.ctx 0 with vt := vt, q := [(0, 2 ^ 4096 - 2)] },
    e := { word := 0, addr := 0, opA := 0x300000, opB := 8, capA := true, capB := true, seq := 0, done := false } }

theorem witness_IntegerElements : (intWordResult (lane (probe 0) 0xA08 4095) (probe 0) (.viadd true 1 2 3 true)).isSome = true ∧
    4095 < (lane (probe 0) 0xA08 4095).c.vlmax ∧ (lane (probe 0) 0xA08 0).c.mask (lane (probe 0) 0xA08 0).c.msel / 2 ^ 0 % 2 = 0 ∧
    (lane (probe 0) 0xA08 4095).c.mask (lane (probe 0) 0xA08 0).c.msel / 2 ^ 4095 % 2 = 1 := by decide +kernel

theorem witness_moves_IntegerElements : (movedElement (lane (probe 0) 0xA00 0) (probe 0) (.vslideup true 1 2 3 true)).map (·.2.1) = some false ∧
    (movedElement (lane (probe 0) 0xA00 1023) (probe 0) (.vshuf true 1 2 3 true)).map (·.2.1) = some true ∧
    1023 < (lane (probe 0) 0xA00 1023).c.vlmax ∧ (intCompare (lane (probe 0) 0xA08 4095) (probe 0) (.vlt true 1 2 3 true)).isSome = true ∧
    5 ≤ (lane (probe 0) 0xA08 4095).c.ew ∧ ∀ j, ∃ b, maskResult (lane (probe 0) 0xA08 4095) j (.qnot true 5 6) = some (5, b) :=
  ⟨by decide +kernel, by decide +kernel, by decide +kernel, by decide +kernel, by decide +kernel, fun _ => ⟨_, rfl⟩⟩

/-- R160: vslideup takes the element OPA places below; vcompress closes the gap that an inactive element leaves. -/
theorem test_slides : (let s := ((probe 0).updVreg 0 2 (fun _ => 0x0A0B0C0D)).updVreg 0 1 (fun _ => 0x55667788)
    let L := { lane s 0xA08 2 with e := { (lane s 0xA08 2).e with opA := 1 } }
    ends ((L.perform (.vslideup true 1 2 3 false)).run s) (fun _ t => t.vreg 0 1 == 0x550C7788) &&
    ends ((L.perform (.vcompress true 1 2)).run s) (fun _ t => t.vreg 0 1 == 0x55660B88)) = true := by decide +kernel

/-- R154, R161: the mask words act on every bit, and vbern takes its probability from OPA: none at 0, every one at 2^24. -/
theorem test_masks : (let s := probe 0
    let L (p : Word) : Lane := { lane s 0xA00 4095 with e := { (lane s 0xA00 4095).e with opA := p } }
    ends (((L 0).perform (.qnot true 5 0)).run s) (fun _ t => (t.ctx 0).mask 5 == 1) &&
    ends (((L 0).perform (.vbern true 5 1 2)).run s) (fun _ t => (t.ctx 0).mask 5 / 2 ^ 4095 % 2 == 0) &&
    ends (((L 0x1000000).perform (.vbern true 5 1 2)).run s) (fun _ t => (t.ctx 0).mask 5 / 2 ^ 4095 % 2 == 1)) = true := by decide +kernel

/-- R155: wraps and saturation of an eight-bit sum. -/
theorem test_viadd : ([(0xA08, 0x80, 0x7F, 0), (0xA08 + 2 ^ 30, 0x7F, 0x7F, evSAT)] : List (Nat × Nat × Nat × Nat)).all (fun p =>
      let s := ((probe 0).updVreg 0 2 (fun _ => p.2.2.1)).updVreg 0 3 (fun _ => 1)
      ends (((lane s p.1 0).perform (.viadd true 1 2 3 false)).run s) (fun _ t => t.vreg 0 1 == p.2.1 && (t.ctx 0).fv == p.2.2.2)) = true := by
  decide +kernel

/-- The convoy before its release. -/
def gated : State := probeHart convoy (fun t => { t with released := false, target := 16, groups := List.range 16 })

theorem witness_GustCycles : ((List.range 4).all (fun k => ((probe 0).hart (4 * 0 + k)).queue.isEmpty)) = true ∧ ((probe 0).core 0).job = none ∧
    ((List.range 3).all (fun k => (gated.hart (k + 1)).queue.isEmpty)) = true ∧ (gated.hart 0).queue.all (fun e => !e.ahead) = true ∧ (gated.hart 0).dbg = false ∧
    gated.gateReady 0 = true ∧ (firstConvoy (gated.hart 0).queue).any (({ gated with cores := (gated.updCore 0 (fun r => { r with gustLevel := (gated.core 0).gustLevel - gustLeak (gated.core 0).gustCfg })).cores } : State).memberHeld 0) = false ∧
    (gated.ctx 0).vs < convoySpan (gated.ctx 0) (firstConvoy (gated.hart 0).queue) ∧ (gated.core 0).gustLevel - gustLeak (gated.core 0).gustCfg = 0 := by
  decide +kernel

/-- A dense BF16 plane of one weight. -/
def plane1 : Plane :=
  { fmt := 0, spn := 0, ps := 0, sx := 0, kg := 16, ng := 16, j0 := 0, weights := [{ kk := 0, n := 0, e := 0, slice := 0, code := 0x3F80, scale := none, val := .fin false 1 1 }] }

/-- The probe with a multiplying word of BF16 that has its grant, on a plane of one weight. -/
def matrixRun : State :=
  (probeHart (owning 1) (fun t => { t with
    queue := [{ word := 0x80020039, addr := 0x200000, opA := 0, opB := 0, capA := true, capB := false, seq := 0, done := false }] })).updCore 0
      (fun k => { k with
        anvil := { k.anvil with plane0 := some plane1, active := 0 },
        job := some { newJob 0 0 with granted := true, avail := 15 } })

theorem witness_CoreEvents : ((convoy.updCore 7 (fun k => { k with inbox := [0] })).core 7).inbox = [0] ∧
    ((convoy.updCore 7 (fun k => { k with inbox := [0] })).core 7).gate = .running ∧ (convoy.updCore 7 (fun k => { k with inbox := [] })).cores.any
      (fun e => e.2.inbox.contains 0) = false ∧
    ends ((elementStep 0 (convoy.ctx 0).vs).run (convoy.updCore 7 (fun k => { k with inbox := [0] }))) (fun _ _ => true) = true ∧
    ((convoy.updCore 0 (fun k => { k with replies := [0] })).core 0).replies = [0] ∧
    (matrixRun.matrixWord 0).any (fun m => m.2.1.granted && ((passPlan (matrixRun.ctx m.1) m.2.2.2.1 m.2.2.2.2 m.2.1.avail)[m.2.1.passes]?).isSome) = true ∧
    (((probe 0).updCore 0 (fun k => { k with anvil := { k.anvil with releasing := some 1 } })).anvil 0).releasing = some 1 ∧
    (((probe 0).updCore 0 (fun k => { k with anvil := { k.anvil with releasing := some 1, relDone := true } })).anvil 0).relDone = true ∧
    ((probe 0).core 0).job = none ∧ ((probe 0).cluster 63).pending = [] := by decide +kernel

/-- R231: a drain of tile group 15 at the last element of its row, unmasked and masked; the record of E5M2 with a bundle of three. -/
theorem witness_drain_CoreEvents : (drainForm (lane (owning 1) 0xA74 15) (owning 1) (.mdrain true 15 6 true)).isSome = true ∧
    (lane (owning 1) 0xA74 0).c.mask (lane (owning 1) 0xA74 0).c.msel / 2 ^ 0 % 2 = 0 ∧
    (drainForm (lane (owning 1) 0xA00 15) (owning 1) (.mdrainS true 15 6 7 false)).any (fun f =>
      ends ((resolveOr ((owning 1).vecReqOf 0) .store cVACC (word f.2.2) f.2.2 (lane (owning 1) 0xA00 15).c.rs).run (owning 1)) (fun ps _ => match ps with
        | [p] => p.hops == 0 && p.pa == 0x300000 + 15 * 4
        | _ => false)) = true ∧ (owning 1).mem.wf = true := by decide +kernel

/-- R231: element 17 of a drain of 16 columns is row 1, column 1. -/
theorem test_drain : (let s := (owning 1).updCore 0 (fun k => { k with anvil := { k.anvil with tiles := [(4096 + 64 + 1, 0x3FC00000)] } })
    ends (((lane s 0xA00 17).perform (.mdrain true 1 6 false)).run s) (fun _ t => t.mem.readN (0x300000 + 17 * 4) 4 == 0x3FC00000)) = true := by
  decide +kernel

/-- A copy of one run of 8 bytes from 0x300000 to 0x310000, accepted on core 0. -/
def copy1 : CopyJob :=
  { ident := 1, hart := 0, task := 1, lno := 1, sup := true, src := { rem := false, core := 0, space := 0, base := 0x300000 },
    dst := { rem := false, core := 0, space := 0, base := 0x310000 }, counts := [1, 1, 1, 1, 1, 1], sstr := [0, 0, 0, 0, 0, 0],
    dstr := [0, 0, 0, 0, 0, 0], run := 8, xp := 0, next := 0, dec := false, cnt := 0, group := 0, nr := 0, held := false }

/-- The probe whose core runs that copy, of one run or of two. -/
def copying (n : Nat) : State := (memProbe 0x300000).updCore 0 (fun k => { k with copies := [{ copy1 with counts := [n, 1, 1, 1, 1, 1] }] })

/-- The parameter block of a gather of n records of 16 bytes from 0x300000 to 0x320000, with indices at 0x310000. -/
def block1 (n : Nat) : Nat := 0x300000 + 0x310000 * 2 ^ 64 + 0x320000 * 2 ^ 128 + 16 * 2 ^ 256 + n * 2 ^ 288 + 16 * 2 ^ 320

/-- That gather, which has begun. -/
def gather1 (n : Nat) : Gather :=
  { ident := 3, hart := 0, task := 1, lno := 1, sup := true, block := block1 n, seq := 0, lctr := 127, next := 0, held := false }

/-- The probe with that gather. -/
def gathering (n : Nat) : State := { memProbe 0x300000 with gathers := [gather1 n] }

theorem witness_TransferSteps : ([1, 2].all (fun n => ((copying n).core 0).copies[0]?.any (fun j => !j.held && j.next == 0 &&
      decide (runsOf j.counts = n) && ends ((j.perform 0 j.next).run (copying n)) (fun r _ => r.isOk)))) = true ∧
    ([1, 2].all (fun n => ((gathering n).gathers.find? (fun x => x.ident == 3)).any (fun j => !j.held && decide (j.next < gaCount j.block) &&
      decide (gaCount j.block = n) && ends ((j.perform 0).run (gathering n)) (fun r _ => r.isOk)))) = true := by decide +kernel

/-- A lane whose copy program is one run from the virtual space to it, at 0x30_0000 and 0x31_0000, or none. -/
def copyLane (n : Nat) : Lane :=
  { lane (probe 0) 0xA00 0 with c := { (probe 0).ctx 0 with
      cp := (List.range 6).map (fun l => (l, n * 2 ^ 64)) ++ [(6, 0x300000), (7, 0x310000)] } }

theorem witness_copies_TransferSteps : copyGroup (.cpgo true 6 7) = some none ∧ copyGroup (.cpv true 83 6 7) = some (some 83) ∧
    runsOf ((copyLane 1).copyJob (probe 0) none).counts = 1 ∧ runsOf ((copyLane 0).copyJob (probe 0) none).counts = 0 ∧
    ((copyLane 1).copyJob (probe 0) none).src.base = 0x300000 := by decide +kernel

/-- R353: the record that index 0 names goes to the destination, and the last one ends the gather. -/
theorem test_gather : after (exec (.gatherRecord 3) (gathering 1)) (fun t => t.mem.readN 0x320000 8 == 0x80F1E2D3C4B5A697 && t.gathers.isEmpty) = true := by
  decide +kernel

/-- R240: the run moves its bytes. -/
theorem test_copy_run : after (exec (.copyRun 0 0) (copying 1)) (fun t => t.mem.readN 0x310000 8 == 0x80F1E2D3C4B5A697 && (t.core 0).copies.isEmpty) = true := by
  decide +kernel

/-! ### Hypotheses of the statements on Drift -/

/-- Two tiles that may move, at 0x4000_0000 and above, and a descriptor of a move of one to the other at 0x30_0000. -/
def movable : State :=
  { probeX [(6, 0x300000), (7, 0)] with
    mem := (((((probe 0).mem.writeN 0x120010 16 0x130001).writeN 0x130000 16 0x140001).writeN 0x140000 16 0x50005A).writeN 0x140010 16
      0x51005A).writeN 0x300000 16 (0x40000000 + 0x40010000 * 2 ^ 64) }

theorem witness_DriftWords : (movable.hart 0).queue = [] ∧ (low24 (movable.x 0 7)).toNat = 0 ∧
    ends ((fixAddr (movable.reqOf 0) cSACC 0x300000 0x300000).run movable) (fun f _ => f == 0x300000) = true ∧
    ends ((readHome (movable.reqOf 0) cSACC 0x300000 0x300000 32).run movable) (fun v u =>
      let q := MoveReq.of v.1
      v.1 / 2 ^ 208 % 2 ^ 48 == 0 && v.1 / 2 ^ 138 % 2 ^ 53 == 0 && !tileAddrBad q.src && !tileAddrBad q.dst && q.src != q.dst && q.tlno == 0 &&
      !q.dec && ends ((lookEntry (movable.reqOf 0) q.src).run (u.countHops 0 v.2)) (fun es u1 =>
        ends ((lookEntry (movable.reqOf 0) q.dst).run u1) (fun ed u2 => match es, ed with
          | some (some es), some (some ed) => u2.permitted (movable.reqOf 0) .load es && u2.permitted (movable.reqOf 0) .store ed &&
            u2.admission es ed (u2.tileHome (es.pa / 65536) es.skew) == 0 &&
            ({ u2 with tiles := [(0x50, { TileMark.clear with tomb := true })] } : State).admission es ed 0 == 2
          | _, _ => false))) = true := by decide +kernel

/-- The second of those tiles has moved to the place of the first. -/
def movedDown : State :=
  { movable with tiles := [(0x51, { TileMark.clear with mark := some { lno := 1, gen := 0, dest := 0x40000000, epoch := 0, pend := false } })] }

/-- R328: selectors 4 and 5 of dstat, on an address of the aperture and on one that a page maps; R325: an index that fits its element, one
that does not, and a sum past the address space. -/
theorem witness_fix_DriftWords : (low24 ((movable.setX 0 7 5).x 0 7)).toNat = 5 ∧ inAperture ((word (2 ^ 56 - 1)).toNat % 2 ^ 56) = true ∧
    inAperture (0x300000 % 2 ^ 56) = false ∧
    ends ((translate (movable.reqOf 0) .load 0x300000).run movable) (fun r _ => match r with
      | .ok pa _ => decide (pa < 2 ^ 47)
      | _ => false) = true ∧
    1023 < (lane movable 0xA0E 1023).c.vlmax ∧
    ends ((fixAddr (movable.vecReqOf 0) cVACC 0x300000 0x300000).run movable) (fun f _ => decide ((f + 2 ^ 64 - 0x300000) % 2 ^ 64 < 2 ^ 32)) = true ∧
    ends ((fixAddr (movedDown.vecReqOf 0) cVACC 0x40010000 0x40010000).run movedDown) (fun f _ =>
      decide (2 ^ 32 ≤ (f + 2 ^ 64 - 0x40010000) % 2 ^ 64)) = true ∧
    (let L := { lane (movable.updVreg 0 3 (fun _ => 1)) 0xA0E 0 with e := { (lane movable 0 0).e with opA := word (2 ^ 56 - 1) } }
     2 ^ 56 ≤ L.e.opA.toNat % 2 ^ 56 + elemSrc L (movable.updVreg 0 3 (fun _ => 1)) (some 3)) := by decide +kernel

/-- A move of tile 0x50 to tile 0x51 in phase p at a line. -/
def move1 (p line : Nat) : Move :=
  { src := 0x50, dst := 0x51, srcVa := 0x40000000, dstVa := 0x40010000, lno := 1, gen := 0, phase := p, line := line, fwd := [], epoch := 0,
    dec := false, cnt := 0, cluster := 0, issuer := 1, igen := 0 }

/-- That move at the arbiter of tower 7. -/
def moving (p line : Nat) : State := movable.updTower 7 (fun t => { t with moves := [(1, move1 p line)] })

theorem witness_DriftEvents : ((moving 1 255).move 7 1).any (fun m => m.src != m.dst && m.phase == 1 && decide (m.line < 256)) = true ∧
    (moving 1 255).mem.wf = true ∧ ((moving 1 256).move 7 1).any (fun m => m.phase == 1 && m.line == 256) = true ∧
    ((moving 2 256).move 7 1).any (fun m => m.phase == 2) = true ∧ ((moving 2 256).launch 1).any (·.live) = true := by decide +kernel

/-- R308, R312: the switch marks the source, and the epoch advances. -/
theorem test_switch : after (exec (.switch 7 1) (moving 1 256)) (fun t => (t.tile 0x50).mark.map (·.dest) == some 0x40010000 && t.depoch == 1) = true := by
  decide +kernel

/-! ### Hypotheses of the statements on the network words -/

/-- A WRITE of 8 bytes to peer 4095, or a gather, staged; the peer table at 0x60_0000 names that peer for every launch. -/
def posting (netcfg kind : Nat) : State :=
  { probeCtx (probeX [(6, 63), (7, 0), (8, 2 ^ 62 + 63)]) (fun c => { c with
      sw := [(0, word 0x300000), (1, 0), (2, word (if kind = 1 then 8 else 0)),
        (3, word (kind * 2 ^ 60 + (if kind = 1 then 4095 * 2 ^ 44 else 0) + 127 * 2 ^ 32 + 127 * 2 ^ 18))] }) with
    netcfg := netcfg, mem := ((probe 0).mem.writeN (0x600000 + 32 * 4095) 32 (2 ^ 255)).writeN 0x300000 64 (block1 2) }

/-- The engine is on and its tables stand at 0x60_0000. -/
def netUp : Nat := 2 ^ 63 + 0x60 * 2 ^ 16

theorem posting_released (n k : Nat) : releaseReady (posting n k) 0 :=
  ⟨rfl, fun tid h => by
    have e : ((posting n k).hart 0).task = some 1 := rfl
    rw [e] at h; cases h; rfl⟩

theorem witness_NetworkWords : ((posting 0 1).hart 0).queue = [] ∧ workBad ((posting netUp 1).ctx 0).staged = false ∧
    wrKind ((posting netUp 1).ctx 0).staged = 1 ∧ (posting 0 1).netOn = false ∧
    ends ((peerEntry (wrPeer ((posting netUp 1).ctx 0).staged)).run (posting netUp 1)) (fun p _ => (posting netUp 1).netOn && peerOk p &&
      p / 2 ^ 224 % 4 == 0 && peerLno p == 0) = true ∧ (posting netUp 1).outstanding 1 < 256 ∧
    256 ≤ ({ posting netUp 1 with work := List.replicate 256 { lno := 1, seq := 0, num := 0, task := 1, posted := 0, w := 0, tower := 0, sup := false, peerE := 0, sent := 0, acked := [], held := false } } : State).outstanding 1 ∧
    workBad ((posting 0 3).ctx 0).staged = false ∧ wrKind ((posting 0 3).ctx 0).staged = 3 ∧ (posting 0 3).outstanding 1 < 256 ∧
    ends ((gatherBlock 0 ((posting 0 3).ctx 0).staged (wordR 0x3D 1 true 5 0 0)).run (posting 0 3)) (fun v _ => v == block1 2) = true ∧
    ((posting 0 1).ctr 1 63).toInt ≤ ((posting 0 1).x 0 7).toInt ∧ ((posting 0 1).x 0 6).toNat < 64 ∧
    ((posting 0 1).x 0 8).toNat / 2 ^ 6 % 2 ^ 56 = 0 ∧ ((posting 0 1).x 0 8).toNat / 2 ^ 62 ≠ 3 ∧ ((posting 0 1).launch 1).isSome = true := by
  decide +kernel

/-- R450: the low six bits name the counter, and the operation sets it. -/
theorem test_nctr : after (exec (.nctr true 5 8 9) ((posting 0 1).setX 0 9 7)) (fun t => t.ctr 1 63 == 7#64 && t.x 0 5 == 0#64) = true := by
  decide +kernel

/-! ### Hypotheses of the statements on elements -/

/-- FP32 with a bundle of three, and under it the last element is 255. -/
theorem witness_FloatElements : (floatWordResult (lane (probe 0) 0xA00 1023) (probe 0) (.vfma true 1 2 3 true)).isSome = true ∧
    1023 < (lane (probe 0) 0xA00 1023).c.vlmax ∧ (floatWordResult (lane (probe 0) 0xA60 255) (probe 0) (.vmul true 1 2 3 true)).isSome = true ∧
    255 < (lane (probe 0) 0xA60 255).c.vlmax ∧ (lane (probe 0) 0xA60 255).c.b = 3 ∧
    (lane (probe 0) 0xA00 0).c.mask (lane (probe 0) 0xA00 0).c.msel / 2 ^ 0 % 2 = 0 ∧
    (floatCompare (lane (probe 0) 0xA00 4095) (probe 0) (.vlt true 1 2 3 false)).isSome = true ∧ (lane (probe 0) 0xA00 4095).c.ew ≤ 4 := by
  decide +kernel

/-- R20, R65, R148: the tangent of 2 · 3 whose tangents are 1 and 5 is 1 · 3 + 2 · 5 = 13. -/
theorem test_tangent : (let s := ((probe 0).updVreg 0 2 (fun _ => 0x40000000 + 0x3F800000 * 2 ^ 2048)).updVreg 0 3 (fun _ => 0x40400000 + 0x40A00000 * 2 ^ 2048)
    ends (((lane s 0xA20 0).perform (.vmul true 1 2 3 false)).run s) (fun _ t => t.vreg 0 1 == 0x40C00000 + 0x41500000 * 2 ^ 2048)) = true := by
  decide +kernel

/-- R150: one rounding of the exact sum 1 + 2^-24, which a tie leaves at 1, and of a fused product. -/
theorem test_vfma : (let s := (((probe 0).updVreg 0 2 (fun _ => 0x3F800000)).updVreg 0 3 (fun _ => 0x33800000)).updVreg 0 1 (fun _ => 0x3F800000)
    ends (((lane s 0xA00 0).perform (.vfma true 1 2 3 false)).run s) (fun _ t => t.vreg 0 1 == 0x3F800000 && (t.ctx 0).fv == evNX)) = true := by
  decide +kernel

theorem witness_ArithmeticElementsComplete : (convertForm (lane (probe 0) 0xA03 1023) (.vcvtTo true 1 2 0 true)).map (fun f => (f.2.2.1, f.2.2.2.1)) = some (3, 0) ∧
    1023 < (lane (probe 0) 0xA03 1023).c.vlmaxOf (vwOf 0) ∧ (reduceForm (.vredsum true 1 2 true)).isSome = true ∧
    (lane (probe 0) 0xA60 255).c.b = 3 ∧
    (let L := { lane (probe 0) 0xA60 255 with e := { (lane (probe 0) 0xA60 255).e with opA := 2, opB := 2 } }
     (planeWord L (probe 0) (.vseed true 1 6 7 true)).any (fun f => f.2.2.1 == 2) ∧
     (planeWord L (probe 0) (.vtset true 1 2 6 true)).any (fun f => f.2.2.1 == 2) ∧ 255 < L.c.vlmax) := by decide +kernel

/-- An element of a convoy of n elements. -/
def ofMany (L : Lane) (n : Nat) : Lane := { L with c := { L.c with vl := n } }

theorem witness_reduce_ArithmeticElementsComplete : (ofMany (lane (probe 0) 0xA00 1023) 1024).i + 1 = (ofMany (lane (probe 0) 0xA00 1023) 1024).c.vl ∧
    (ofMany (lane (probe 0) 0xA00 1023) 1024).c.vl ≤ (ofMany (lane (probe 0) 0xA00 1023) 1024).c.vlmax ∧
    (ofMany (lane (probe 0) 0xA00 1022) 1024).i + 1 ≠ (ofMany (lane (probe 0) 0xA00 1022) 1024).c.vl := by decide +kernel

/-- R63, R158: the sum of three and four, and of three alone where the mask leaves the second out. -/
theorem test_reduce : (let s := (probe 0).updVreg 0 2 (fun _ => 0x40400000 + 0x40800000 * 2 ^ 32)
    let L := ofMany (lane s 0xA00 1) 2
    ends ((L.perform (.vredsum true 1 2 false)).run s) (fun _ t => t.vreg 0 1 == 0x40E00000) &&
    ends (({ L with c := { L.c with q := [(0, 1)] } }.perform (.vredsum true 1 2 true)).run s) (fun _ t => t.vreg 0 1 == 0x40400000)) = true := by
  decide +kernel

/-- A lane whose OPA is a. -/
def laneA (s : State) (vt i : Nat) (a : Word) : Lane := { lane s vt i with e := { (lane s vt i).e with opA := a } }

/-- An access of a lane lands in one place, which no move has relocated and no error has poisoned. -/
def onePlace (L : Lane) (s : State) (acc : Acc) (ea len : Nat) : Bool :=
  ends ((resolveOr (s.vecReqOf L.h) acc cVACC (word ea) ea len).run s) (fun ps u => match ps with
    | [q] => q.hops == 0 && !u.poisoned q.pa len
    | _ => false)

theorem onePlace_iff {L : Lane} {s : State} {acc : Acc} {ea len : Nat} (h : onePlace L s acc ea len = true) :
    ∃ p u, OnePlace L s acc ea len p u ∧ u.poisoned p.pa len = false := by
  obtain ⟨ps, u, hr, hp⟩ := ends_ok h
  match ps, hp with
  | [p], hp =>
    simp only [Bool.and_eq_true, beq_iff_eq, Bool.not_eq_true'] at hp
    exact ⟨p, u, ⟨hr, hp.1⟩, hp.2⟩

theorem witness_VectorMemoryElements : ([(Instr.vld true 1 6 false, true, 0x300000 + 4 * 7), (.vsts true 1 6 7 true, false, 0x300000 + 8 * 7)].all (fun p =>
      (elementAddress (lane (probe 0) 0xA00 7) (probe 0) p.1).any (fun e => e.2.2.1 == p.2.1 && e.2.2.2 == p.2.2 &&
        onePlace (lane (probe 0) 0xA00 7) (probe 0) (if p.2.1 then .load else .store) p.2.2 4))) = true ∧
    7 < (lane (probe 0) 0xA00 7).c.vlmax ∧ (probe 0).mem.wf = true ∧ (lane (probe 0) 0xA60 7).c.rs = 16 ∧
    onePlace (lane (probe 0) 0xA60 7) (probe 0) .load (0x300000 + 16 * 7) 16 = true := by decide +kernel

/-- R173: the convoy has performed an unordered element three bytes below this one. -/
theorem witness_unordered_VectorMemoryElements : (let s := probeHart (probe 0) (fun t => { t with unordered := [0x2FFFFD] })
    (s.hart 0).unordered = [0x2FFFFD] ∧ (elementAddress (lane s 0xA00 7) s (.vstxU true 1 6 3 false)).map (·.2.2.2) = some 0x300000 ∧
    0x2FFFFD ≤ 0x300000 ∧ 0x300000 < 0x2FFFFD + (lane s 0xA00 7).c.rs ∧ onePlace (lane s 0xA00 7) s .store 0x300000 4 = true) := by
  decide +kernel

/-- A handle of 64 bytes from 0x30_0000 at position 60, which wraps or not. -/
def handle1 (wraps : Bool) : Nat := 0x300000 + 64 * 2 ^ 64 + 60 * 2 ^ 128 + (if wraps then 2 ^ 254 else 0) + 2 ^ 252 + 2 ^ 255

/-- Stream word element i of two under that handle. -/
def streamLane (wraps : Bool) (i : Nat) : Lane :=
  { ofMany (lane (probe 0) 0xA00 i) 2 with c := { (ofMany (lane (probe 0) 0xA00 i) 2).c with h := [(31, handle1 wraps)] } }

theorem witness_streams_VectorMemoryElements : ([(true, 0x300000), (false, 0x300040)].all (fun p =>
      onePlace (streamLane p.1 1) (probe 0) .load p.2 4 && onePlace (streamLane p.1 1) (probe 0) .store p.2 4 &&
      decide ((streamLane p.1 1).c.vl = 2 ∧ Tbl.get 0 (streamLane p.1 1).c.h 31 = handle1 p.1))) = true ∧
    streamForm (.vsst true 1 31 true) = some (1, 31, true, false) ∧ (lane (probe 0) 0xA00 0).c.mask 0 % 2 = 0 ∧
    ([(handle1 false, false), (handle1 false + 2 ^ 244, true)].all (fun p =>
      let s : State := { probe 0 with mem := (probe 0).mem.writeN 0x300000 32 p.1 }
      hsetBad ((s.loadMem 0).readN 0x300000 32) == p.2 && onePlace (lane s 0xA00 0) s .load 0x300000 32)) = true ∧
    0 * 2 ^ (ofMany (lane (probe 0) 0xA00 0) 1).c.bl < (ofMany (lane (probe 0) 0xA00 0) 1).c.vl ∧
    ¬ 1 * 2 ^ (ofMany (lane (probe 0) 0xA00 1) 1).c.bl < (ofMany (lane (probe 0) 0xA00 1) 1).c.vl ∧
    onePlace (lane (probe 0) 0xA00 0) (probe 0) .load 0x300000 1 = true ∧
    ends (((lane (probe 0) 0xA00 0).resolveParts ((List.range 2).map (fun g => (planeAddress (lane (probe 0) 0xA00 0) 4 g, 16)))).run (probe 0))
      (fun ps _ => ps.all (fun l => l.all (fun x => x.hops == 0))) = true := by decide +kernel

/-- R183: a handle that wraps moves from 60 to 4 of 64 bytes after two elements of four. -/
theorem test_stream : ends (((streamLane true 1).perform (.vsst true 1 31 false)).run (probe 0)) (fun _ t =>
    Tbl.get 0 (t.ctx 0).h 31 == setBits (handle1 true) 167 128 4) = true := by decide +kernel

/-- The launch's A allocation on core 7 is 512 bytes, whose first granules hold data and are full. -/
def buffered : State :=
  let a : Buf := { size := 512, data := Memory.writeN [] 0 4 77, full := [(0, true)] }
  (probe 0).updCore 7 (fun k => { k with allocs := [{ lno := 1, w := Buf.empty, a := a, c := Buf.empty }] })

theorem witness_buffers_VectorMemoryElements : (buffered.buf 7 1 .a).size = 512 ∧ bufferAt (laneA buffered 0xA00 0 (word (7 * 2 ^ 24))) true = 7 ∧
    buffered.hartLno 0 = 1 ∧ inAlloc 512 (bufferOff (laneA buffered 0xA00 127 (word (7 * 2 ^ 24))) 0 127) 4 ∧
    inGuard 512 (bufferOff (laneA buffered 0xA00 128 (word (7 * 2 ^ 24))) 0 128) 4 ∧
    inGuard 512 (bufferOff (laneA buffered 0xA00 191 (word (7 * 2 ^ 24))) 0 191) 4 ∧
    ¬ inAlloc 512 (bufferOff (laneA buffered 0xA00 192 (word (7 * 2 ^ 24))) 0 192) 4 ∧
    ¬ inGuard 512 (bufferOff (laneA buffered 0xA00 192 (word (7 * 2 ^ 24))) 0 192) 4 ∧ 192 < (laneA buffered 0xA00 192 0).c.vlmax ∧
    Tbl.get false (buffered.buf 7 1 .a).full 0 = true ∧ Tbl.get false (buffered.buf 7 1 .a).full 31 = false ∧
    (buffered.buf 7 1 .a).data.wf = true ∧ (laneA buffered 0xA00 3 0).maskPending buffered true = false ∧
    (bufferForm (.vlda true 1 6 true 0 2 true)).any (fun f => f.1 == .a && f.2.2.1 && f.2.2.2.2.1 == 2) = true ∧
    (bufferForm (.vsta true 1 6 true 1 true)).any (fun f => f.1 == .a && f.2.2.1 && f.2.2.2.2.1 == 1) = true := by
  unfold inGuard inAlloc; decide +kernel

/-- R178: fe.take of the last element that touches granule 0 clears it; a take of an empty granule waits. -/
theorem test_full_empty : (let L (i : Nat) : Lane := ofMany (laneA buffered 0xA00 i (word (7 * 2 ^ 24))) 4
    ends (((L 0).perform (.vlda true 1 6 true 0 2 false)).run buffered) (fun _ t => t.vreg 0 1 == 77) &&
    ends (((L 3).markWord true (.vlda true 1 6 true 0 2 false)).run buffered) (fun _ t => !Tbl.get false (t.buf 7 1 .a).full 0) &&
    !ends (((ofMany (laneA buffered 0xA00 4 (word (7 * 2 ^ 24))) 5).perform (.vlda true 1 6 true 0 2 false)).run buffered) (fun _ _ => true)) = true := by
  decide +kernel

/-- An aperture address of the A buffer of core 7. -/
def window (buf off : Nat) : Word := word (0xFFFFFF * 2 ^ 32 + buf * 2 ^ 27 + 7 * 2 ^ 24 + off)

theorem witness_atomics_VectorMemoryElements : vatomicForm (.vaadd true 1 6 3 false) = some (.add, 1, 3, false) ∧
    0x300000 % vwOf 10 = 0 ∧ 0x300001 % vwOf 10 ≠ 0 ∧
    onePlace (laneA (probe 0) 0xA0A 0 0x300000) (probe 0) .atomic 0x300000 4 = true ∧ (window 2 508).toNat / 2 ^ 32 = 0xFFFFFF ∧
    (window 2 508).toNat / 2 ^ 27 % 4 = 2 ∧ (window 2 508).toNat / 2 ^ 29 % 8 = 0 ∧ inAlloc 512 508 4 ∧ inGuard 512 512 4 ∧
    ¬ inAlloc 512 768 4 ∧ ¬ inGuard 512 768 4 ∧ (window 1 0).toNat / 2 ^ 27 % 4 < 2 ∧
    (laneA buffered 0xA0A 0 (window 2 508)).core / 8 * 8 + (window 2 508).toNat / 2 ^ 24 % 8 = 7 := by unfold inGuard inAlloc; decide +kernel

/-- R179, R206: an atomic through the aperture returns the old value and adds its operand. -/
theorem test_vatomic : (let s := buffered.updVreg 0 1 (fun _ => 5)
    ends (((laneA s 0xA0A 0 (window 2 0)).perform (.vaadd true 1 6 3 false)).run s) (fun _ t => t.vreg 0 1 == 77 &&
      (t.buf 7 1 .a).data.readN 0 4 == 82)) = true := by decide +kernel

/-! ### Hypotheses of the statements on the scheduler -/

/-- No hart has taken the probe's task. -/
def waitingLaunch : State :=
  { probe 0 with harts := [], tasks := [], launches := [(1, { probeLaunch with begun := [] })], fpool := 0x1000 * 2 ^ 16 + 1 }

/-- The probe's task in a scheduler state, with a wake condition. -/
def scheduled (st : TaskState) (w : Wake) (time : Nat) : State :=
  { probe 0 with tasks := [(1, { probeTask 0 with st := st, wake := w })], time := time }

theorem witness_SchedulerEvents : waitingLaunch.nextFree 0 = true ∧ (waitingLaunch.candidate 0).any (fun c => c.2 == .fresh 1 0 [(0, 0, 0)]) = true ∧
    (waitingLaunch.core 0).gate = .running ∧ (waitingLaunch.freeFrame (recVcount probeRecord)).isSome = true ∧
    (waitingLaunch.freeRegion 0 0 (recVcount probeRecord)).isSome = true ∧ recStack probeRecord = 0 ∧
    State.reset.nextFree 2044 = true ∧ State.reset.candidate 2044 = none ∧
    ((probe 0).updTower 0 (fun t => { t with st := .shelter })).preempts 0 = true ∧
    ((probe 0).updTower 0 (fun t => { t with st := .shelter })).mayStop 0 = true ∧ ((probe 0).hart 0).held = none ∧ ((scheduled .ready .none (10 ^ 6)).taskOf 1).isSome = true ∧
    0 + 1000 * max 1 ((scheduled .ready .none (10 ^ 6)).schcfg / 2 ^ 48 % 2 ^ 16) ≤ (scheduled .ready .none (10 ^ 6)).time ∧
    (probeHart (probe 0) (fun t => { t with waiting := .counter 1 0 0, spin := 4097 })).spunOut 0 = some (.counter 1 0 0) ∧
    (probeHart (probe 0) (fun t => { t with waiting := .counter 1 0 0, spin := 4096 })).spunOut 0 = none ∧
    (probeHart (probe 0) (fun t => { t with waiting := .counter 1 0 0, spin := 4097 })).savable 0 = true ∧
    (scheduled .parked (.counter 1 0 0) 0).wakes 1 (.counter 1 0 0) = true ∧ (scheduled .parked (.counter 1 0 (-1)) 0).wakes 1 (.counter 1 0 (-1)) = false ∧
    (probeCtx (probe 0) (fun c => { c with pc := 0 })).pc 0 = 0 ∧ (probe 0).savable 0 = true := by decide +kernel

/-- The probe's task, which has run before, is ready; no hart has it. -/
def resuming : State :=
  { probe 0 with harts := [], launches := [(1, { probeLaunch with placed := [(0, 0, 0)] })], tasks := [(1, { probeTask 0 with st := .ready })] }

theorem witness_restore_SchedulerEvents : resuming.nextFree 0 = true ∧ (resuming.candidate 0).any (fun c => c.2 == .task 1) = true ∧
    (resuming.taskOf 1).any (fun k => k.started && k.frame == some 0x400000 && k.anvilSaved.isNone &&
      (resuming.freeRegion 0 0 k.vcount).isSome && !resuming.poisoned 0x400000 (0x80000 + 4096 * k.vcount)) = true ∧
    (resuming.core 0).gate = .running := by decide +kernel

/-- R361: a task starts at the entry of its record, with STRM and the stack pointer of its index. -/
theorem test_dispatch : after (exec (.taskDispatch 0) waitingLaunch) (fun t => t.pc 0 == 0x200000#64 && (t.hart 0).task == some 1 &&
    (t.launch 1).map (·.begun) == some [0]) = true := by decide +kernel

/-- A launch whose only task has ended, with a completion block. -/
def ending : State :=
  { waitingLaunch with launches := [(1, { probeLaunch with ended := 1, comp := 0x300000, vec := 1 })] }

/-- An instance of the graph of slot 255, none of whose nodes has launched. -/
def graphRun1 : GraphRun := { gen := 0, comp := 0, vec := 0, queue := 0, parent := 0, node := [], ended := [], errors := 0 }

/-- That instance is live. -/
def graphing : State := { launching with graphs := [(255, { GraphSlot.empty with nodes := [(record1, 0x300000, 0, 0x300000)], runs := [graphRun1] })] }

theorem witness_LaunchesEnd : (ending.launch 1).any (fun l => ending.mayEnd 1 l && l.graphOf.isNone && l.comp != 0) = true ∧ ending.clusters = [] ∧
    ending.mem.wf = true ∧ ending.backed (0x300000 + 16) = true ∧ ending.backed (0x300000 + 23) = true ∧
    (graphing.graph 255).runs.find? (fun r => r.gen == 0) = some graphRun1 ∧ (graphing.graph 255).nodes[0]? = some (record1, 0x300000, 0, 0x300000) ∧
    Tbl.find graphRun1.node 0 = none ∧ graphing.gens = [] ∧ recPasen record1 = false := by decide +kernel

theorem witness_admitted_LaunchesEnd : graphing.admitFull record1 = false :=
  not_full _ probeLaunch _ rfl (by decide +kernel) (by decide +kernel)

/-- R381: the END word of a launch without errors. -/
theorem test_launch_end : after (exec (.launchEnd 1) ending) (fun t => t.mem.readN 0x300010 8 == endWord 0 0 && (t.launch 1).any (fun l => !l.live)) = true := by
  decide +kernel

/-! ### Hypotheses of the statements on Jetstream -/

/-- A communicator of two ranks, of which this package is rank 0 and peer 5 rank 1; chunks of two slots. -/
def entry1 : Nat :=
  2 ^ 511 + 2 ^ 502 + 4 * 2 ^ 498 + 2 ^ 480 + 2 ^ 454 + 2 ^ 412 + 2 ^ 402 + 0x700000 * 2 ^ 320 + 0x800000 * 2 ^ 256 + 0x300000 * 2 ^ 192 + 64 * 2 ^ 128

/-- A COPY, an RRED and a RECV of 64 bytes from base 0 to base 1. -/
def opOf (kind : Nat) : Nat := kind * 2 ^ 250 + (if kind = 4 then 0 else 2 ^ 232) + 64 * 2 ^ 216 + 2 ^ 60

/-- An instance of graph 1. -/
def jet1 (failed : Bool) : JetRun :=
  { gid := 1, run := 0, lno := 1, order := 0, bases := 0x300000 + 0x310000 * 2 ^ 64, tagBase := 0, key := 0, tower := 0, sup := true, began := 0, dep := [], since := [],
    started := [], completed := [], chunk := [], satn := 0, dupn := 0, failed := failed }

/-- Graph 1 of one operation on communicator 63. -/
def graph1 (kind : Nat) (ends : List (Nat × Nat × Nat)) : JetGraph := { gen := 0, comm := 63, ops := [opOf kind], succ := [], runs := 1, ends := ends }

/-- The probe with that communicator and that graph, instances, engines, and the image of a graph of one COPY at 0x30_0000. -/
def jetting (kind : Nat) (jets : List JetRun) (engines : Tbl ChunkEngine) (ends : List (Nat × Nat × Nat)) : State :=
  { probeX [(6, 0x300000), (7, 0), (8, 1), (9, 0x400040), (10, 63), (11, 3)] with
    mem := (((probe 0).mem.writeN 0x300000 16 (0x4A475248 + 2 ^ 32 + 63 * 2 ^ 48)).writeN 0x300040 32 (opOf 4)).writeN 0x700000 4 (5 * 65536),
    comms := [(63, { Comm.reset with entry := entry1 })], jgraphs := [(1, graph1 kind ends)], jets := jets, engines := engines }

theorem jet_owned (kind : Nat) (jets : List JetRun) (engines : Tbl ChunkEngine) (ends : List (Nat × Nat × Nat)) : jetOwns (jetting kind jets engines ends) 63 :=
  ⟨show coOk entry1 = true by decide +kernel, show coLno entry1 = 1 by decide +kernel, show (0 == coGen entry1) = true by decide +kernel⟩

theorem witness_cgload_JetWords : ends ((readUnits 0 0x300000 1).run (jetting 4 [] [] [])) (fun hd u =>
      let n := ofUnits hd
      n == 0x4A475248 + 2 ^ 32 + 63 * 2 ^ 48 && ends ((readUnits 0 0x300040 1).run u) (fun body u' =>
        let ops := [ofUnits (body.take 16)]
        !graphBad ops [] && coOk (u'.comm 63).entry && ops.all (fun r => !u'.rankBad (u'.comm 63).entry r) && decide (u'.storedOps + 1 ≤ 65536) &&
        (u'.jgraph 2).ops.isEmpty && decide ((u'.jgraph 1).ops ≠ []))) = true ∧
    ((List.range 256).all (fun k => ({ jetting 4 [] [] [] with jgraphs := (List.range 256).map (fun k => (k + 1, graph1 4 [])) } : State).jgraph (k + 1)
      |>.ops.isEmpty |> not)) = true := by decide +kernel

theorem witness_JetWords : ((jetting 4 [] [] []).hart 0).queue = [] ∧ (jetting 4 [] [] []).graphFor 1 = some (graph1 4 []) ∧
    (jetting 4 [] [] []).graphFor 2 = none ∧ (jetting 4 [] [] []).jets.any (fun j => j.gid == 1) = false ∧
    ends ((readUnits 0 0x400040 3).run (jetting 4 [] [] [])) (fun units u => !runBlockBad (ofUnits units) && (u.graphFor 1).isSome &&
      !(u.comm 63).fault && decide ((u.jets.filter (fun j => j.gid == 1)).length < 4)) = true ∧
    (jetting 4 [jet1 false] [] []).liveRun 1 = some (jet1 false) ∧ (jetting 4 [] [] [(0, 0, 0)]).liveRun 1 = none ∧
    (graph1 4 [(0, 0, 0)]).endOf 1 = some (0, 0) ∧ ((jetting 4 [] [] []).x 0 11).toNat % 2 ^ 24 = 3 ∧ ((jetting 4 [] [] []).x 0 8).toNat = 1 := by
  decide +kernel

/-- The communicator with a field changed. -/
def withComm (s : State) (f : Comm → Comm) : State := s.updComm 63 f

theorem witness_refusals_JetWords : coOk ((withComm (jetting 4 [] [] []) (fun c => { c with entry := 0 })).comm 63).entry = false ∧
    ((withComm (jetting 4 [] [] []) (fun c => { c with fault := true })).comm 63).fault = true ∧
    4 ≤ ((jetting 4 (List.replicate 4 (jet1 false)) [] []).jets.filter (fun j => j.gid == 1 % 65536)).length ∧
    (jetting 4 (List.replicate 4 (jet1 false)) [] []).graphFor 1 = some (graph1 4 []) ∧
    ends ((readUnits 0 0x400040 3).run (jetting 4 (List.replicate 4 (jet1 false)) [] [])) (fun units _ => !runBlockBad (ofUnits units)) = true ∧
    (63 * 4096 + 4) / 4096 = 63 ∧ 0x400040 % 64 = 0 := by decide +kernel

/-- R476: chunks sent and freed of channel 4, and the highest tag of rank 1. -/
theorem test_cgstat : (let s := withComm (jetting 4 [] [] []) (fun c => { c with sent := [(4, 7)], freed := [(4, [0, 1])], tagH := [(1, 9)] })
    after (exec (.cgstat true 5 6 7) ((s.setX 0 6 (word (63 * 4096 + 4))).setX 0 7 1)) (fun t => t.x 0 5 == word (7 * 2 ^ 32 + 2)) &&
    after (exec (.cgstat true 5 6 7) ((s.setX 0 6 (word (63 * 4096 + 1))).setX 0 7 2)) (fun t => t.x 0 5 == 9#64)) = true := by decide +kernel

/-- R473: the graph goes into the lowest free slot. -/
theorem test_cgload : after (exec (.cgload true 5 6 7) (jetting 4 [] [] [])) (fun t => t.x 0 5 == 2#64 && (t.jgraph 2).ops == [opOf 4]) = true := by
  decide +kernel

/-- An engine on operation 0 of the instance. -/
def engine1 : ChunkEngine := { gid := 1, run := 0, op := 0, line := 0, need := [] }

/-- The communicator has freed chunk 0 of its channel 4, and taken tag 9 of rank 1. -/
def freed1 : State := (jetting 4 [] [] []).updComm 63 (fun c => { c with freed := [(4, [0])], tagH := [(1, 9)], tags := [(1, [9])] })

theorem witness_JetEvents : (List.range (jetting 4 [jet1 false] [] []).engineCount).find? (fun k => (Tbl.find (jetting 4 [jet1 false] [] []).engines k).isNone) = some 0 ∧
    (jetting 4 [jet1 false] [] []).readyOps = [(63, 1, 0, 0)] ∧ ((jetting 4 [jet1 false] [] []).tryOp 63 1 0 0).1.isSome = true ∧
    opKind (opOf 4) = 4 ∧ (jetting 4 [jet1 false] [(31, engine1)] []).jetRun 1 0 = some (jet1 false) ∧
    ends ((jetResolve (jet1 false).req 64 ((jet1 false).ranges (opOf 4))).run (jetting 4 [jet1 false] [(31, engine1)] [])) (fun r _ => r.isOk) = true ∧
    opKind (opOf 3) = 3 ∧ (rredLines ((jet1 false).dst (opOf 3)) 64).length = 1 ∧
    ends ((adderLine (jet1 false) 0 (opOf 3) 0 ((jetting 3 [jet1 false] [(31, engine1)] []).slotBytes entry1 4 0 64)).run
      (jetting 3 [jet1 false] [(31, engine1)] [])) (fun r _ => r.isOk) = true ∧
    (jetting 4 [] [] []).senderRank 63 5 = some 1 ∧ coDepth entry1 = 2 ∧ (freed1.comm 63).freed = [(4, [0])] ∧ freed1.senderRank 63 5 = some 1 ∧
    ((freed1.comm 63).takeTag 1 9).isNone = true ∧ ((freed1.comm 63).takeTag 1 10).isSome = true ∧
    ends ((resolve { via := .base 0, lno := coLno entry1, sup := ((freed1.launch (coLno entry1)).map (fun l => recSupv l.record)).getD false, hart := none }
      .atomic ((coRsbase entry1 + 0) % 2 ^ 64) (4 * 16)).run freed1) (fun r u => match r with
      | .ok ps => !u.piecesPoisoned ps
      | .error _ => false) = true ∧ 0 + 4 * 16 ≤ coRslen entry1 := by decide +kernel

/-- Every port is configured for MACsec and up: the peer is not heard but through a frame. -/
def muffled : State := { jetting 4 [] [] [] with netcfg := 2 ^ 63 - 1, benlar := (List.range 18).map (fun n => (n, { BenlarPort.reset with up := false })) }

theorem witness_ports_JetEvents : muffled.hears 5 = false ∧ (jetting 4 [] [] []).hears 5 = true ∧ freed1.hears 5 = true ∧
    (jetting 4 [] [] []).mem.wf = true ∧ ¬ inReplay (jetting 4 [] [] []) (slotAddr entry1 4 0 + 128 * 255 + 127) ∧
    1 ∉ Tbl.get [] (freed1.comm 63).freed 4 ∧ 2 - coDepth entry1 ∈ Tbl.get [] (freed1.comm 63).freed 4 ∧
    0 ∈ Tbl.get [] (freed1.comm 63).freed 4 ∧
    ends ((jetResolve (jet1 false).req 64 ((jet1 false).ranges (opOf 4))).run (jetting 4 [jet1 false] [(31, engine1)] [])) (fun r u => match r with
      | .ok ps => (u.opPoison (jet1 false) 0 ps).isNone
      | .error _ => false) = true ∧
    (jetting 3 [jet1 false] [(31, engine1)] []).opPoison (jet1 false) 0 [] = none := by unfold inReplay; decide +kernel

theorem witness_timeout_JetEvents : ({ jetting 2 [jet1 false] [] [] with time := 10 ^ 10 } : State).needsMet (jet1 false) 0 = false ∧
    (jet1 false).open' 0 = true ∧ 0 < ((jetting 2 [jet1 false] [] []).jgraph 1).ops.length ∧ (jetting 4 [] [] []).bmst < 16 ∧
    (jetting 4 [] [] []).commChanged 63 = true ∧ ((List.range 63).all (fun m => !(jetting 4 [] [] []).commChanged m)) = true ∧
    (jetting 4 [] [] []).runsOn 63 = 0 ∧ (jetting 4 [] [] []).commsBad = false := by decide +kernel

/-- R466: a COPY that its engine ends has moved its bytes. -/
theorem test_jet_copy : after (exec (.chunkEnd 31) (jetting 4 [jet1 false] [(31, engine1)] [])) (fun t =>
    t.mem.readN 0x310000 16 == 0x4A475248 + 2 ^ 32 + 63 * 2 ^ 48 && t.jets.isEmpty) = true := by decide +kernel

/-! ### Hypotheses of the statements on reset, firmware and the mailbox -/

theorem witness_PackageReset : (State.reset.updTower 7 (fun t => { t with st := .mappedOut })).tower 7 ≠ State.reset.tower 7 ∧
    (State.reset.tower 0).st ≠ .mappedOut ∧ ({ State.reset with fw := { State.reset.fw with staged := false } } : State).fw.staged = false := by decide +kernel

/-- Every tower has passed its self-test. -/
def tested : State := { State.reset with towers := (List.range 8).map (fun n => (n, { Tower.reset with testing := false })) }

/-- Tower n in a state, at a step of R404 since 0, tested or not; the others have passed. -/
def towerAt (n : Nat) (st : TowerState) (step : Nat) (testing : Bool) : State :=
  tested.updTower n (fun t => { t with st := st, step := step, testing := testing, coolSince := some 0 })

theorem witness_TowerTests : ((towerAt 7 .online 0 true).tower 7).testing = true ∧ ((towerAt 7 .online 0 true).tower 7).st = .online ∧
    (towerAt 7 .online 0 true).deadCore 7 = false ∧ ({ towerAt 7 .online 0 true with layerFlash := [(511, 15)] } : State).deadCore 7 = true ∧
    ((List.range 7).all (fun k => !((towerAt 7 .online 0 true).tower k).testing)) = true ∧ ((towerAt 7 .shelter 6 false).tower 7).st ≠ .offline ∧
    ((towerAt 7 .shelter 6 false).tower 7).st ≠ .mappedOut ∧ ((towerAt 7 .offline 0 false).tower 7).st = .offline := by decide +kernel

/-- A mailbox with four arguments, its response buffer at 0x30_0000. -/
def mail (s : State) (a b c d : Nat) : State := { s with bmarg := [(0, word a), (1, word b), (2, word c), (3, word d)], bmrsp := 0x300000 }

theorem witness_FirmwareUpdates : mailboxFree (mail (probe 0) 0x300000 4096 0 0) ∧ (mail (probe 0) 0x300000 4096 0 0).arg 1 ≠ 0 ∧
    (mail (probe 0) 0x300000 4096 0 0).backedRange 0x300000 4096 = true ∧ (probe 0).fw.applying = none ∧ (probe 0).fw.staged = true ∧ (probe 0).fw.writing = false ∧
    ({ probe 0 with fw := { (probe 0).fw with writing := true } } : State).fw.writing = true ∧
    ({ probe 0 with fw := { (probe 0).fw with staged := false } } : State).fw.staged = false ∧ (mail (probe 0) 0x80 0 0 0).arg 0 % 256 ≠ 0 ∧
    (let s := { towerAt 7 .service 6 false with fw := { State.reset.fw with applying := some 0x80 } }
     s.nextApply = some 7 ∧ (s.tower 7).st = .service ∧ (s.tower 7).step = 6) ∧
    (let s := { towerAt 7 .offline 0 false with fw := { State.reset.fw with applying := some 0xC0 } }
     s.nextApply = some 6) ∧
    (let s := { towerAt 7 .offline 0 false with fw := { State.reset.fw with applying := some 0x80 } }
     s.nextApply = some 7 ∧ (s.tower 7).st = .offline) := by unfold mailboxFree; decide +kernel

/-- R431, R436: two towers in SERVICE, none; a tower being loaded is at emergency or not. -/
theorem witness_waits_FirmwareUpdates : 2 ≤ ((towerAt 7 .service 6 false).updTower 6 (fun t => { t with st := .service })).inService.length ∧
    (towerAt 7 .service 6 false).inService.length < 2 ∧ State.reset.thcfg % 2 = 1 ∧ ({ State.reset with thcfg := 0 } : State).thcfg % 2 = 0 ∧
    (towerAt 7 .service 6 false).mayShelter 7 = false ∧
    ((towerAt 7 .service 6 false).updTower 7 (fun t => { t with emergency := 1 })).mayShelter 7 = true := by decide +kernel

theorem witness_RegisterAccess : mailboxFree (mail (probe 0) 0x38 7 0 0) ∧ (mail (probe 0) 0x38 7 0 0).arg 1 < regUnits ((mail (probe 0) 0x38 7 0 0).arg 0) ∧
    bufferReady (mail (probe 0) 0x38 7 0 0) 8 ∧ regUnits ((mail (probe 0) 0x38 8 0 0).arg 0) ≤ (mail (probe 0) 0x38 8 0 0).arg 1 ∧
    regRo ((mail (probe 0) 0x38 7 0 0).arg 0) = false ∧ ¬ writeRefused (mail (probe 0) 0x38 7 0 0) 0x38 7 0 ∧
    thcfgBad (regFields 0x01 thcfgReset) = false ∧ thcfgBad (regFields 0x01 0) = true ∧ State.reset.anyTaskLive = false ∧
    (probe 0).anyTaskLive = true ∧ ¬ writeRefused (probe 0) 0x33 0 (2 ^ 63 + 8388608 * 2 ^ 32) ∧
    zoneBad (2 ^ 63 + 8388608 * 2 ^ 32 + 1) 8388608 [] = true := by unfold mailboxFree bufferReady writeRefused; decide +kernel

/-- R417: FPOOL while a task is live is refused with STATE, and a register written reads back. -/
theorem test_registers : after (exec (.fpoolWrite 5) (probe 0)) (fun t => t.bmst == 5 && t.fpool == 0) = true ∧
    after (exec (.fpoolWrite 5) State.reset) (fun t => t.bmst == 0 && t.fpool == 5) = true := by decide +kernel

theorem witness_MailboxCommands : (probe 0).bmst < 16 ∧ (mail (probe 0) 0 0 0 0).arg 0 < (mail (probe 0) 0 0 0 0).report.length + 8 ∧
    (mail (probe 0) (2 ^ 32) 0 0 0).report.length + 8 ≤ (mail (probe 0) (2 ^ 32) 0 0 0).arg 0 ∧
    bufferReady (mail (probe 0) 0 0 0 0) ((mail (probe 0) 0 0 0 0).report.length + 8) ∧ mailboxFree (mail (probe 0) 7 0 0 0) ∧
    (mail (probe 0) 7 0 0 0).arg 0 = 7 ∧ ((mail (probe 0) 7 0 0 0).tower 7).st = .online ∧ (mail (probe 0) 7 0 0 0).lastOnline 7 = false ∧
    (mail (probe 0) 7 0 0 0).runningIn 7 = [] ∧ (mail (probe 0) 7 0 0 0).fw.applying = none ∧ (mail (probe 0) 0 0 0 0).runningIn 0 ≠ [] ∧
    ((towerAt 7 .service 6 false).tower 7).st = .service ∧ commandAssigned 0xFF = false := by unfold mailboxFree bufferReady; decide +kernel

theorem witness_service_MailboxCommands : (let s : State := { mail (probe 0) 7 0 0 0 with fw := { State.reset.fw with applying := some 1 } }
    s.fw.applying ≠ none ∧ (s.tower 7).st = .online ∧ s.lastOnline 7 = false ∧ mailboxFree s) ∧
    ((mail (towerAt 7 .offline 0 false) 7 0 0 0).tower 7).st ≠ .online ∧ (mail (towerAt 7 .offline 0 false) 511 0 0 0).arg 0 / 64 = 7 ∧
    (mail (probe 0) 511 0 0 0).arg 0 < 512 := by unfold mailboxFree; decide +kernel

theorem witness_tdump_MailboxCommands : (let s := mail ({ probe 0 with tasks := [(1, { probeTask 0 with st := .ready })] }) 1 0 0 0
    (s.launch (s.arg 0 % 65536)).any (fun l => l.live && l.gen == s.arg 0 / 2 ^ 16 % 2 ^ 16) &&
    (s.tasks.find? (fun e => e.2.lno == s.arg 0 % 65536 && e.2.named.isNone && e.2.t == s.arg 1)).any (fun e =>
      e.2.st != .running && e.2.started && e.2.frame == some 0x400000 && s.backedRange s.bmrsp (0x80000 + 4096 * e.2.vcount))) = true := by
  decide +kernel

/-! ### Hypotheses of the statements on the host -/

theorem witness_HostRegisters : 0x804 % 8 ≠ 0 ∧ State.reset.bmst < 16 ∧ 16 ≤ ({ State.reset with bmst := 16 } : State).bmst ∧ (0x21, Instr.commsync) ∈ mailboxCodes ∧
    (mailboxCodes.all (fun c => c.1 != 0x22)) = true ∧
    ((16 : BitVec 64).toNat % 2 ^ 32 + 2 ^ 32 - (State.reset.queue 15).head) % 2 ^ 32 ≤ 2 ^ (State.reset.queue 15).logn ∧
    2 ^ (State.reset.queue 15).logn < ((17 : BitVec 64).toNat % 2 ^ 32 + 2 ^ 32 - (State.reset.queue 15).head) % 2 ^ 32 := by decide +kernel

/-- R377: sixteen entries may wait in a queue of LOGN 4, seventeen turn it off. -/
theorem test_doorbell : after (exec (.doorbell 15 16) State.reset) (fun t => (t.queue 15).tail == 16 && t.nextLog == 0) = true ∧
    after (exec (.doorbell 15 17) State.reset) (fun t => !(t.queue 15).en && t.nextLog == 1) = true := by decide +kernel

/-- A record that the host may launch. -/
def hostRecord : Nat := record1 + 0x100000 * 2 ^ 448

/-- Queue 3 is on, with one entry of a kind for slot or launch g; its record stands at 0x30_0000 and a descriptor at 0x31_0000. -/
def queued1 (kind pa g : Nat) (graph : GraphSlot) : State :=
  { probe 0 with
    fw := { State.reset.fw with ready := true }, queues := [(3, { base := 0x320000, en := true, logn := 4, head := 0, tail := 1 })], graphs := [(255, graph)],
    mem := ((((probe 0).mem.writeN 0x300000 256 hostRecord).writeN 0x310000 8 1).writeN 0x310040 24 (0x300000 + 0x300000 * 2 ^ 128)).writeN 0x320000 64
      (pa + 0x300000 * 2 ^ 64 + 0x330000 * 2 ^ 128 + g * 2 ^ 192 + kind * 2 ^ 240) }

/-- The entry. -/
def entryOf (kind pa g : Nat) : Nat := pa + 0x300000 * 2 ^ 64 + 0x330000 * 2 ^ 128 + g * 2 ^ 192 + kind * 2 ^ 240

/-- The nodes of the descriptor. -/
def nodes1 : List (Nat × Nat × Nat × Nat) := [(hostRecord, 0x300000, 0, 0x300000)]

/-- The entry stands at the head, of its kind. -/
theorem heads (kind pa g : Nat) (graph : GraphSlot) (h1 : (queued1 kind pa g graph).headEntry 3 = some (entryOf kind pa g))
    (h2 : entryOf kind pa g / 2 ^ 240 % 16 = kind) (h3 : entryOf kind pa g / 2 ^ 244 % 2 ^ 268 = 0) :
    headIs (queued1 kind pa g graph) 3 kind (entryOf kind pa g) := ⟨h1, h2, h3⟩

theorem witness_HostQueueEntries : headIs (queued1 1 0x300000 0 GraphSlot.empty) 3 1 (entryOf 1 0x300000 0) ∧
    (queued1 1 0x300000 0 GraphSlot.empty).recordAt 0x300000 = some hostRecord ∧ recordBad hostRecord true = false ∧ recPasen hostRecord = false ∧
    headIs (queued1 2 0x310000 255 GraphSlot.empty) 3 2 (entryOf 2 0x310000 255) ∧ (queued1 2 0x310000 255 GraphSlot.empty).descriptor 0x310000 = some nodes1 ∧
    headIs (queued1 3 0x310000 255 { GraphSlot.empty with nodes := nodes1 }) 3 3 (entryOf 3 0x310000 255) ∧
    headIs (queued1 4 0 255 { GraphSlot.empty with nodes := nodes1 }) 3 4 (entryOf 4 0 255) ∧
    ((queued1 4 0 255 { GraphSlot.empty with nodes := nodes1 }).graph 255).nodes ≠ [] ∧
    ((queued1 4 0 255 { GraphSlot.empty with nodes := nodes1 }).graph 255).runs = [] ∧
    headIs (queued1 5 0 255 { GraphSlot.empty with nodes := nodes1 }) 3 5 (entryOf 5 0 255) ∧
    headIs (queued1 6 0 1 GraphSlot.empty) 3 6 (entryOf 6 0 1) ∧ ((queued1 6 0 1 GraphSlot.empty).launch 1).any (fun l => l.live && l.gen == entryOf 6 0 1 / 2 ^ 208 % 2 ^ 16) = true ∧
    (queued1 7 0 0 GraphSlot.empty).headEntry 3 = some (entryOf 7 0 0) ∧ entryOf 7 0 0 / 2 ^ 240 % 16 = 7 ∧
    entryOf 1 0 0 / 2 ^ 128 % 2 ^ 64 = 0x330000 ∧ (queued1 1 0 0 GraphSlot.empty).backed 0x330007 = true := by
  unfold headIs; decide +kernel

theorem witness_admitted_HostQueueEntries : (queued1 1 0x300000 0 GraphSlot.empty).admitFull hostRecord = false ∧
    ({ queued1 1 0x300000 0 GraphSlot.empty with launches := fullOfLaunches.launches } : State).admitFull hostRecord = true :=
  ⟨not_full _ probeLaunch _ rfl (by decide +kernel) (by decide +kernel), full _ _ (by decide +kernel)⟩

/-- R378: a launch that is killed answers its handle and loses its tasks. -/
theorem test_kill : after (exec (.kill 3) (queued1 6 0 1 GraphSlot.empty)) (fun t => t.tasks.isEmpty && t.mem.readN 0x330000 8 == 1 &&
    (t.queue 3).head == 1) = true := by decide +kernel

/-- Slot 511 holds a page request of the probe's task. -/
def asking : State :=
  { probe 0 with
    hdmSize := 8 * 2 ^ 36, tasks := [(1, { probeTask 0 with st := .pagewait })],
    slots := [(511, { gen := 0, dead := false, req := some { lno := 1, page := 0x20, host := false, pasid := 0, need := 1, waiters := [(.task 1, 0x200000)], tries := 0 } })],
    pageWait := [{ lno := 1, page := 0x5000, host := false, pasid := 0, need := 1, waiters := [(.task 1, 0x50000000)], tries := 0 }] }

theorem witness_HostMemory : asking.fw.recovery = false ∧ asking.hdmBase % 2 ^ 28 = 0 ∧ asking.hdmSize = asking.hbmSize ∧ asking.mem.wf = true ∧ (8 * 2 ^ 36 - 8) + 8 ≤ asking.hbmSize ∧
    64 * (2 ^ 41 - 1) + 64 ≤ 2 ^ 47 ∧ (List.replicate 64 (7 : BitVec 8)).length = 64 ∧ asking.pageWait ≠ [] ∧ asking.prgEnabled = true ∧
    0 < asking.prgSlots ∧ (asking.slot 0).taken = false ∧ (asking.slot 511).taken = true ∧ Tbl.sortedFrom 0 asking.slots = true ∧
    (asking.slot 511).dead = false ∧ ((asking.slot 511).req).any (fun r => !asking.pageMissing r) = true ∧
    (asking.taskOf 1).map (·.st) = some .pagewait ∧ (asking.slot 510).dead = false ∧ (asking.slot 510).req = none := by decide +kernel

/-- R349, R350: Success lets the waiting task go on; an answer to a free slot is logged. -/
theorem test_prg : after (exec (.prgSuccess 511) asking) (fun t => (t.taskOf 1).map (·.st) == some .ready) = true ∧
    after (exec (.prgSuccess 510) asking) (fun t => t.nextLog == 1) = true := by decide +kernel

/-- A state of an SPDM connection. -/
def spdmAt (version caps algs pending session : Bool) : State :=
  { State.reset with spdm := { version := version, caps := caps, algs := algs, pendingKey := pending, session := session, transcript := [] } }

theorem witness_SpdmRequests : (spdmAt true true true true true).spdm.pendingKey = true ∧ (spdmAt true true true false false).spdm.pendingKey = false ∧
    (spdmAt true true true false true).spdm.session = true ∧ (spdmAt true true true true false).spdm.algs = true ∧
    State.reset.fw.identity.isSome = true := by decide +kernel

/-- R435: a key of another association number joins the newest. -/
theorem test_keyset : after (exec (.keyset 7 3 5 6 8) (spdmAt true true true false true)) (fun t => (t.ethPort 7).keys.map (·.an) == [3]) = true ∧
    after (exec (.keyset 8 3 5 6 8) (spdmAt true true true false true)) (fun t => t.eth.isEmpty) = true := by decide +kernel

/-! ### Hypotheses of the statements on health and transport -/

theorem witness_HealthEvents : towerSensor (.ceilingLayer 7 3) ≠ none ∧ (towerSensor (.anvilLayer 511 3)).any (fun p => p.1 == 7 && decide (p.2 < 272)) = true ∧
    4 * (State.reset.thcfg / 2 ^ 56 % 256) ≤ 500 ∧ (State.reset.tower 7).powered = true ∧ ((towerAt 7 .shelter 1 false).tower 7).st = .shelter ∧
    ((towerAt 7 .shelter 1 false).tower 7).step ≠ 6 ∧ (towerAt 7 .shelter 1 false).runningIn 7 = [] ∧
    ((towerAt 7 .shelter 1 false).tower 7).since + 5 * 10 ^ 6 ≤ ({ towerAt 7 .shelter 1 false with time := 5 * 10 ^ 6 } : State).time ∧
    ((towerAt 7 .shelter 6 false).tower 7).coolSince = some 0 ∧
    0 + (towerAt 7 .shelter 6 false).thcfg / 2 ^ 8 % 2 ^ 16 * 10 ^ 6 ≤ ({ towerAt 7 .shelter 6 false with time := 10 ^ 9 } : State).time ∧
    (State.reset.tower (511 / 64)).st = .online ∧ State.reset.backed ((2 ^ 31 - 1) * 256) = true ∧ ((probe 0).hart 0).task = some 1 ∧
    (probe 0).mem.wf = true := by decide +kernel

/-- Tracing is on, into a ring of 16 records at 0x30_0000. -/
def tracing (written : Nat) (once : Bool) : State :=
  { probe 0 with
    ctcfg := 2 ^ 63 + (if once then 2 ^ 62 else 0) + 4 * 2 ^ 57 + 0x30 * 2 ^ 16, ctWritten := written, ctNext := written,
    clusters := [(0, { (probe 0).cluster 0 with cyc := 1 })] }

theorem witness_trace_HealthEvents : (tracing 16 false).ctcfg / 2 ^ 63 % 2 = 1 ∧ (tracing 16 false).ctcfg % 2 ^ 16 = 0 ∧
    (tracing 16 false).backedRange (0x300000 + 32 * (16 % 16)) 32 = true ∧ (tracing 16 false).ctcfg / 2 ^ 62 % 2 = 0 ∧
    (tracing 16 true).ctcfg / 2 ^ 62 % 2 = 1 ∧ 2 ^ ((tracing 16 true).ctcfg / 2 ^ 57 % 2 ^ 5) ≤ (tracing 16 true).ctNext ∧
    ((tracing 16 false).hart 0).sampleCyc / 2 ^ ((tracing 16 false).ctcfg / 2 ^ 52 % 2 ^ 5) <
      ((tracing 16 false).cluster 0).cyc / 2 ^ ((tracing 16 false).ctcfg / 2 ^ 52 % 2 ^ 5) := by decide +kernel

/-- R413, R414: the ring wraps where it may, else the sample is counted lost. -/
theorem test_trace : after (exec (.contrailSample 0) (tracing 16 false)) (fun t => t.ctWritten == 17 && t.mem.readN 0x300000 32 == (tracing 16 false).sample 0) = true ∧
    after (exec (.contrailSample 0) (tracing 16 true)) (fun t => t.ctLost == 1) = true := by decide +kernel

/-- A posted request of a kind to peer 4095 over Ethernet port 0, `sent` of whose packets have gone. -/
def work1 (kind sent : Nat) : WorkReq :=
  { lno := 1, seq := 0, num := 0, task := 1, posted := 0, w := 0x300000 + 8 * 2 ^ 128 + 127 * 2 ^ 210 + 127 * 2 ^ 224 + 4095 * 2 ^ 236 + kind * 2 ^ 252, tower := 0, sup := true,
    peerE := 2 ^ 255 + 2 ^ 226, sent := sent, acked := [], held := false }

/-- A packet in flight. -/
def flight1 (nak : Bool) : InFlight :=
  { psn := 3, origin := .request 1 0 0, nak := nak, sentAt := 0,
    route := { peer := 4095, entry := 2 ^ 255 + 2 ^ 226, spray := false, rot := 0, vc := 0, len := 0 }, msg := { kind := .packet, data := [0, 3, 3, 0, 0] } }

/-- The probe's launch has that request, and a packet in flight to that peer. -/
def sending (kind sent : Nat) (nak : Bool) (time : Nat) : State :=
  { probe 0 with work := [work1 kind sent], netcfg := netUp, time := time, rud := [(4095, { Delivery.reset with nextPsn := 4, rxBase := 2, inFlight := [flight1 nak] })] }

/-- A packet that writes 8 bytes at the start of endpoint 1023. -/
def packet1 (psn : Nat) : Packet := { peer := 4095, rod := false, psn := psn, low := 2, req := 7, body := .write 1023 0 8 0 127 [1, 2, 3, 4, 5, 6, 7, 8] }

/-- Endpoint 1023 is 0x30_0000 of the probe's launch. -/
def target : State :=
  { sending 1 0 false 0 with endpoints := [], mem := (probe 0).mem.writeN (0x600000 + 131072 + 32 * 1023) 32 (2 ^ 255 + 2 ^ 208 + 4096 * 2 ^ 64 + 0x300000) }

theorem witness_Transport : (State.reset.benlarPort 17).up = true ∧ (List.replicate 256 (0 : BitVec 8)).length = 256 ∧
    ((State.reset.setBenlar 17 { BenlarPort.reset with up := false }).benlarPort 17).up = false ∧ State.reset.macsecOn 7 = false ∧
    ({ State.reset with netcfg := 2 ^ 63 - 1 } : State).macsecOn 7 = true ∧ (State.reset.ethPort 7).keys = [] ∧ State.reset.nextWork = none ∧
    (sending 1 0 false 0).nextWork = some (work1 1 0) ∧ (sending 1 0 false 0).findWork 1 0 = some (work1 1 0) ∧ wrKind (work1 2 0).w = 2 ∧
    ((sending 2 0 false 0).sendPacket (wrRod (work1 2 0).w) 4095 (work1 2 0).peerE (wrSpray (work1 2 0).w) (wrTc (work1 2 0).w) (.request 1 0 0) (work1 2 0).num
      (.read (peerRep (work1 2 0).peerE) (wrRoff (work1 2 0).w) (wrLen (work1 2 0).w) ((work1 2 0).off 0) ((work1 2 0).size 0))).isSome = true ∧
    ends ((resolve (work1 1 0).req .load (wrLaddr (work1 1 0).w + (work1 1 0).off 0) ((work1 1 0).size 0)).run (sending 1 0 false 0)) (fun r u => match r with
      | .ok ps => !u.piecesPoisoned ps && (u.sendPacket (wrRod (work1 1 0).w) 4095 (work1 1 0).peerE (wrSpray (work1 1 0).w) (wrTc (work1 1 0).w) (.request 1 0 0) (work1 1 0).num
        (.write (peerRep (work1 1 0).peerE) (wrRoff (work1 1 0).w) (wrLen (work1 1 0).w) ((work1 1 0).off 0) (wrRctr (work1 1 0).w)
          (toBytes ((work1 1 0).size 0) (u.readPieces ps)))).isSome
      | .error _ => false) = true ∧
    (packet1 1).psn < ((sending 1 0 false 0).delivery false 4095).rxBase := by decide +kernel

/-- R412: the request's bytes lie in a poisoned line; R440: a packet that was trimmed. -/
theorem witness_poison_Transport : (let s := { sending 1 0 false 0 with poison := [(0x3000, true)] }
    ends ((resolve (work1 1 0).req .load (wrLaddr (work1 1 0).w + (work1 1 0).off 0) ((work1 1 0).size 0)).run s) (fun r u => match r with
      | .ok ps => u.piecesPoisoned ps
      | .error _ => false) && s.nextWork == some (work1 1 0)) = true ∧ ({ packet1 2 with body := .trimmed } : Packet).body = .trimmed := by decide +kernel

/-- The probe, where every port is configured for MACsec and port 7 holds a key. -/
def secured : State := { probe 0 with netcfg := 2 ^ 63 - 1, eth := [(7, { EthPort.reset with keys := [{ an := 3, sak := 5, ssci := 6, salt := 8, pn := 0, rxpn := 1 }] })] }

/-- The peer of the packet is deaf to us: no Benlar link is up, and no port passes a frame. -/
def deaf : State := { secured with eth := [], benlar := (List.range 18).map (fun n => (n, { BenlarPort.reset with up := false })) }

theorem witness_arrivals_Transport : target.hears 4095 = true ∧ deaf.hears 4095 = false ∧ secured.macsecOn 7 = true ∧ target.macsecOn 7 = false ∧
    ((secured.ethPort 7).keys.find? (fun k => k.an == 3)).any (fun k => decide (k.rxpn < 2)) = true ∧
    (sending 1 1 false 0).hears ((sending 1 1 false 0).peerOf 4095) = true := by decide +kernel

theorem witness_receive_Transport : (let s' := target.setDelivery false 4095 ((target.delivery false 4095).skipTo 2)
    let d := s'.delivery false 4095
    decide (d.rxBase ≤ 257) && decide (257 < d.rxBase + 256) && (Tbl.find d.rxSeen 257).isNone &&
    (match s'.endpointFor (packet1 257) 1023 0 8 with
     | (.ok (lno, base), e) => lno == 1 && ends ((resolve (e.launchReq lno 0) .store ((base + 0 + 0) % 2 ^ 64) 8).run e) (fun r _ => r.isOk)
     | _ => false)) = true := by decide +kernel

theorem witness_timeouts_Transport : (sending 1 1 false 10000).inFlightAt false 4095 3 = some (flight1 false) ∧
    ((sending 1 1 false 10000).emit (flight1 false).route (((sending 1 1 false 10000).delivery false 4095).again (flight1 false).msg)).isSome = true ∧ (flight1 false).sentAt + 10000 ≤ (sending 1 1 false 10000).time ∧
    (flight1 true).sentAt + 100000 ≤ (sending 1 1 true 100000).time ∧ (sending 1 1 false (10 ^ 9)).peerSilent 4095 = true ∧
    wrPeer (work1 1 1).w = 4095 ∧ (work1 1 1).posted + 10 ^ 9 ≤ (sending 1 1 false (10 ^ 9)).time ∧ (sending 1 1 false (10 ^ 9)).work ≠ [] ∧
    ((sending 1 1 false 10000).delivery false 4095).srtt = 0 := by decide +kernel

/-- The probe with link-layer retry, its replay areas at 0x8000_0000, whose port 7 has taken frame 5 and keeps frame 3 of its own. -/
def retrying : State :=
  { probe 0 with netllr := 2 ^ 63 + 2 ^ 31, eth := [(7, { EthPort.reset with llrRx := 5, llrKept := [(3, 0, { kind := .packet, data := [] })] })] }

theorem witness_frames_Transport : retrying.netllr / 2 ^ 63 % 2 = 1 ∧ (retrying.ethPort 7).llrRx = 5 ∧ (probe 0).netllr / 2 ^ 63 % 2 = 0 ∧
    State.reset.linked 17 = false ∧ ({ State.reset with blcfg := 2 ^ 18 - 1 } : State).linked 17 = true ∧
    ([] : List MacKey).all (fun k => k.an != 3) = true ∧ ((secured.ethPort 7).keys.all (fun k => k.an != 3 || decide (1 ≤ k.rxpn))) = true := by
  decide +kernel

theorem witness_pause_Transport : (let s : State := { sending 1 0 false 0 with eth := [(0, { EthPort.reset with paused := [(3, 0)] })] }
    (s.openWay { (flight1 false).route with vc := 3 }).any (fun w => w.1 != 1 && w.2.1 == 0) &&
    Tbl.find (s.ethPort 0).paused 3 == some 0) = true := by decide +kernel


/-- R451: the bytes of a packet stand at its endpoint. -/
theorem test_packet : after (exec (.transportPacket (packet1 2)) target) (fun t => t.mem.readN 0x300000 8 == 0x0807060504030201) = true := by decide +kernel

end Sys2Proof.Tests
end

section
/-! PROOFS. Rules of the shared operations that the proofs below use: a change of a context, the run of a meaning, a number in memory. -/

namespace Sys2Proof.Machine

open Sys2Proof

/-! ### Numbers and words -/

/-- The number of a word that fits. -/
theorem toNat_word {n : Nat} (h : n < 2 ^ 64) : (word n).toNat = n := Nat.mod_eq_of_lt h

/-- A field that ends at bit 0 is a remainder. -/
theorem bits_low (n hi : Nat) : bits n hi 0 = n % 2 ^ (hi + 1) := by simp [bits]

/-! ### A change of a hart's context -/

/-- A change of a context that keeps its register file leaves every scalar register. -/
theorem updCtx_x {f : Ctx → Ctx} (hf : ∀ c, (f c).x = c.x) (s : State) (h g : Nat) (r : BitVec 7) :
    (s.updCtx h f).x g r = s.x g r := by
  have hx : ((s.updCtx h f).ctx g).x = (s.ctx g).x := by
    rw [State.updCtx_eq, State.ctx_setHart]
    split
    · subst_vars; exact hf _
    · rfl
  simp only [State.x, hx]

/-- A change of hart h's context changes hart h alone. -/
theorem updCtx_onlyHart (s : State) (h : Nat) (f : Ctx → Ctx) : OnlyHart s (s.updCtx h f) h := setHart_onlyHart s h _

/-- The hart after a change of its context. -/
theorem updCtx_hart (s : State) (h : Nat) (f : Ctx → Ctx) : (s.updCtx h f).hart h = { s.hart h with ctx := f (s.ctx h) } := by
  rw [State.updCtx_eq, State.hart_setHart, if_pos rfl]; rfl

/-- The hart after its word has retired past it. -/
theorem retire_hart (s : State) (h : Nat) : (s.retire h).hart h = frontDone (s.hart h) (s.past h) := retireTo_hart s h _

/-! ### Meanings that complete -/

/-- A meaning whose first part completes goes on with the rest. -/
theorem run_bind_ok {α β : Type} {m : M α} {f : α → M β} {s t : State} {a : α} (h : m.run s = .ok a t) : (m >>= f).run s = (f a).run t := by
  simp only [bind, EStateM.bind, EStateM.run] at h ⊢
  rw [h]

/-- A word that waits for the queue goes on where it is empty (R26). -/
theorem needEmpty_run {s : State} {h : Nat} (hq : (s.hart h).queue = []) : (needEmpty h).run s = .ok () s := by
  simp only [needEmpty, EStateM.run, bind, EStateM.bind, get, getThe, MonadStateOf.get, EStateM.get, hq, List.isEmpty_nil, Bool.not_true]
  rfl

/-! ### A number in memory -/

/-- A byte of a little-endian number. -/
theorem toBytes_getElem (n v k : Nat) (h : k < (toBytes n v).length) : (toBytes n v)[k] = BitVec.ofNat 8 (v / 256 ^ k) := by
  induction n generalizing v k with
  | zero => simp [toBytes] at h
  | succ n ih =>
    cases k with
    | zero => simp [toBytes]
    | succ k => simp only [toBytes, List.getElem_cons_succ, ih, Nat.div_div_eq_div_mul, Nat.pow_succ']

/-- A number written to memory is held there. -/
theorem holds_writeBytes {t : State} {m : Memory} {a n v : Nat} (hm : m.wf = true) (ht : t.mem = m.writeBytes a (toBytes n v)) :
    Holds t a n v := by
  intro k hk
  have hlen : k < (toBytes n v).length := by rw [toBytes_length]; exact hk
  rw [ht, Memory.read_writeBytes_inside hm a _ k hlen, toBytes_getElem]

/-- A number written to memory changes nothing outside its bytes. -/
theorem sameMemBut_writeBytes {s t : State} {a n v : Nat} (ht : t.mem = s.mem.writeBytes a (toBytes n v)) : SameMemBut s t a n := by
  intro b hb
  rw [ht, Memory.read_writeBytes_outside _ _ _ (by rw [toBytes_length]; exact hb)]

end Sys2Proof.Machine
end

section
/-! PROOFS. Scalar FP32 words (R121, R122): the model's rounding, selection and comparison give the results that the statement writes
down, and the shared write of a result retires the word. -/

namespace Sys2Proof.Machine

open Sys2Proof

/-! ### Writing a result and its events -/

/-- The state after a scalar FP32 word with K = 1 has written its result and its events (R121): the whole of `fpWrite`. -/
def State.writeFp (s : State) (d : BitVec 7) (r : Nat × Ev) : State :=
  ((s.setX s.turn d (word r.1)).updCtx s.turn (fun c => { c with fv := c.fv ||| r.2 })).retire s.turn

/-- A word with K = 1 reaches that state. -/
theorem fpWrite_true (w : Nat) (d : BitVec 7) (r : Nat × Ev) (s : State) : fpWrite true w d r s = .next (s.writeFp d r) := rfl

/-- That state has x[d] written, the events ORed into FV, and the word retired. -/
theorem writeFp_retires (s : State) (d : BitVec 7) (r : Nat × Ev) :
    RetiresWith s (s.writeFp d r) s.turn d (word r.1) { s.past s.turn with fv := (s.ctx s.turn).fv ||| r.2 } := by
  refine ⟨((setX_onlyHart s _ d _).trans (updCtx_onlyHart _ _ _)).trans (retireTo_onlyHart _ _ _), ?_, fun q => ?_⟩
  · unfold State.writeFp
    generalize ht : ((s.setX s.turn d (word r.1)).updCtx s.turn fun c => { c with fv := c.fv ||| r.2 }) = t
    have hxs := setX_ctx s s.turn d (word r.1)
    generalize ((s.setX s.turn d (word r.1)).ctx s.turn).x = xs at hxs
    have hh : t.hart s.turn = { s.hart s.turn with ctx := { s.ctx s.turn with x := xs, fv := (s.ctx s.turn).fv ||| r.2 } } := by
      rw [← ht, updCtx_hart, State.ctx, hxs]
    have hp : t.past s.turn = { s.ctx s.turn with x := xs, fv := (s.ctx s.turn).fv ||| r.2, pc := s.pc s.turn + 4 } := by
      simp only [State.past, State.pc, State.ctx, hh]
    rw [State.ctx, retire_hart, hh, hp]
    rfl
  · rw [State.writeFp, State.retire, retireTo_x, updCtx_x (f := fun c => { c with fv := c.fv ||| r.2 }) (fun _ => rfl)]
    simp [State.x_setX]

/-! ### What the scalar FP32 words compute -/

/-- SR acts as RNE on the scalar front (R121). -/
theorem scalarRm_eq (c : Ctx) : c.scalarRm = if c.rm = .sr then .rne else c.rm := by
  unfold Ctx.scalarRm
  cases c.rm <;> rfl

/-- An exact result with its events is rounded as R121 says. -/
theorem roundOp_eq (c : Ctx) (x : Num × Ev) : c.roundOp x = fp32Result c x := by
  simp only [Ctx.roundOp, Ctx.roundS, fp32Result, scalarRm_eq]

/-- An exact result without events of its own is rounded in the same way. -/
theorem roundS_eq (c : Ctx) (x : Num) : c.roundS x = c.roundOp (x, 0) := by
  simp only [Ctx.roundOp, Nat.or_zero]

/-- min and max of FP32 operands. -/
theorem pickFp_fp32 (max : Bool) (a b : Nat) : pickFp fp32 max a b =
    if (fp32.decode a).isNaN || (fp32.decode b).isNaN then (0x7FC00000, snanEv [fp32.decode a, fp32.decode b])
    else (if (if max then ltNum (fp32.decode a) (fp32.decode b) else ltNum (fp32.decode b) (fp32.decode a)) then b else a, 0) := by
  cases max <;> rfl

/-- Equality of operands that are no NaN is that neither is less. -/
theorem cmpFp_eq (x y : Num) : cmpFp false x y (eqNum x y) =
    if x.isNaN || y.isNaN then (0, snanEv [x, y]) else (if ltNum x y || ltNum y x then 0 else 1, 0) := by
  unfold cmpFp eqNum b2n
  cases x.isNaN <;> cases y.isNaN <;> cases ltNum x y <;> cases ltNum y x <;> rfl

/-- fle is that the second operand is not less. -/
theorem cmpFp_strict_not (x y : Num) (r : Bool) :
    cmpFp true x y (!r) = if x.isNaN || y.isNaN then (0, evNV) else (if r then 0 else 1, 0) := by
  cases r <;> rfl

/-- Each scalar FP32 word with K = 1 is a write of the result that R121 gives it. -/
theorem exec_of_floatResult {s : State} {i : Instr} {d : BitVec 7} {p : Nat × Ev} (h : floatResult s i = some (d, p)) :
    exec i s = .next (s.writeFp d p) := by
  have hrm : floatResult.rm s = (s.ctx s.turn).scalarRm := (scalarRm_eq _).symm
  unfold floatResult at h
  simp only [hrm, ← roundOp_eq] at h
  split at h <;> cases h
  case h_7 => exact congrArg (fun p => Host.Outcome.next (s.writeFp d p)) (pickFp_fp32 false _ _) -- fmin
  case h_8 => exact congrArg (fun p => Host.Outcome.next (s.writeFp d p)) (pickFp_fp32 true _ _) -- fmax
  case h_9 => exact congrArg (fun p => Host.Outcome.next (s.writeFp d p)) (cmpFp_eq _ _) -- feq
  case h_11 => exact congrArg (fun p => Host.Outcome.next (s.writeFp d p)) (cmpFp_strict_not _ _ _) -- fle
  case h_14 => exact congrArg (fun p => Host.Outcome.next (s.writeFp d p)) (roundS_eq _ _) -- fcvtFi
  case h_15 => exact congrArg (fun p => Host.Outcome.next (s.writeFp d p)) (roundS_eq _ _) -- fcvtFn
  all_goals rfl

end Sys2Proof.Machine

open Sys2Proof Sys2Proof.Machine

/-- Settles O12: each scalar FP32 word is a write of its result, which retires the word. -/
theorem floatResults : Obligations.FloatResults := by
  unfold Obligations.FloatResults
  intro s i d r e h
  exact ⟨_, exec_of_floatResult h, writeFp_retires s d (r, e)⟩
end

section
/-! PROOFS. The rounding modes of R12, as bounds on the exact quotient. -/

namespace Sys2Proof.Machine

/-- A quotient of naturals is its floor and a fraction: the remainder over the divisor. -/
theorem cast_div_eq_floor_add (n d : Nat) (hd : 0 < d) : (n : ℚ) / d = (n / d : Nat) + (n % d : Nat) / (d : ℚ) := by
  have hd' : (d : ℚ) ≠ 0 := by positivity
  rw [div_eq_iff hd', add_mul, div_mul_cancel₀ _ hd']
  exact_mod_cast (Nat.div_add_mod' n d).symm

/-- The floor is the neighbour below. -/
theorem floor_neighbour (n d : Nat) (hd : 0 < d) : ((n / d : Nat) : ℚ) ≤ n / d ∧ (n : ℚ) / d < (n / d : Nat) + 1 := by
  rw [← Nat.floor_div_eq_div (K := ℚ)]
  exact ⟨Nat.floor_le (by positivity), Nat.lt_floor_add_one _⟩

/-- The floor, and one more where a remainder is left, is the neighbour above. -/
theorem ceil_neighbour (n d : Nat) (hd : 0 < d) :
    (n : ℚ) / d ≤ (if n % d != 0 then n / d + 1 else n / d : Nat) ∧
    ((if n % d != 0 then n / d + 1 else n / d : Nat) : ℚ) < n / d + 1 := by
  have h := floor_neighbour n d hd
  have e := cast_div_eq_floor_add n d hd
  by_cases hr : n % d = 0
  · simp only [hr, bne_self_eq_false, Bool.false_eq_true, if_false]
    rw [hr] at e
    constructor <;> simp_all
  · have hpos : (0 : ℚ) < (n % d : Nat) / (d : ℚ) := by positivity
    simp only [bne_iff_ne, ne_eq, hr, not_false_eq_true, if_true]
    push_cast
    constructor <;> linarith

/-- The natural number that RNE gives lies at most half a place away, and is even where it lies exactly there. -/
theorem roundNat_rne_nearest (r : Nat) (neg : Bool) (n d : Nat) (hd : 0 < d) :
    2 * |(roundNat .rne r neg n d : ℚ) - n / d| ≤ 1 ∧
    (2 * |(roundNat .rne r neg n d : ℚ) - n / d| = 1 → Even (roundNat .rne r neg n d)) := by
  have hd' : (0 : ℚ) < d := by exact_mod_cast hd
  have hf : (0 : ℚ) ≤ (n % d : Nat) / (d : ℚ) := by positivity
  have hf1 : ((n % d : Nat) : ℚ) / d < 1 := by rw [div_lt_one hd']; exact_mod_cast Nat.mod_lt n hd
  -- the fraction is a half, or more, as twice the remainder is the divisor, or more
  have hle : 2 * (((n % d : Nat) : ℚ) / d) ≤ 1 ↔ 2 * (n % d) ≤ d := by
    rw [← mul_div_assoc, div_le_one hd']; exact_mod_cast Iff.rfl
  have heq : 2 * (((n % d : Nat) : ℚ) / d) = 1 ↔ 2 * (n % d) = d := by
    rw [← mul_div_assoc, div_eq_one_iff_eq hd'.ne']; exact_mod_cast Iff.rfl
  rw [cast_div_eq_floor_add n d hd]
  generalize hF : ((n % d : Nat) : ℚ) / d = f at *
  by_cases hup : 2 * (n % d) > d ∨ (2 * (n % d) = d ∧ n / d % 2 = 1)
  · have hm : roundNat .rne r neg n d = n / d + 1 := by simp [roundNat, hup]
    have habs : |((n / d + 1 : Nat) : ℚ) - ((n / d : Nat) + f)| = 1 - f := by
      rw [abs_of_nonneg] <;> push_cast <;> linarith
    have hge : 1 ≤ 2 * f := by
      by_contra hlt
      have := hle.1 (by linarith)
      have := mt heq.2 (by linarith)
      omega
    rw [hm, habs]
    refine ⟨by linarith, fun h => ?_⟩
    have := heq.1 (by linarith)
    rw [Nat.even_add_one, Nat.not_even_iff]
    omega
  · have hm : roundNat .rne r neg n d = n / d := by simp [roundNat, hup]
    have habs : |((n / d : Nat) : ℚ) - ((n / d : Nat) + f)| = f := by
      rw [abs_of_nonpos] <;> linarith
    rw [hm, habs]
    refine ⟨hle.2 (by omega), fun h => ?_⟩
    have := heq.1 h
    rw [Nat.even_iff]
    omega

end Sys2Proof.Machine

open Sys2Proof Sys2Proof.Machine

/-- Settles O13: RTZ, RDN and RUP give the floor or the number above it, RNE the nearest. -/
theorem roundingModes : Obligations.RoundingModes := by
  unfold Obligations.RoundingModes
  intro neg n d hd
  have hlo := floor_neighbour n d hd
  have hhi := ceil_neighbour n d hd
  refine ⟨hlo, ?_, ?_, ?_, ?_, roundNat_rne_nearest 0 neg n d hd⟩
  · rintro rfl; exact hlo
  · rintro rfl; exact hhi
  · rintro rfl; exact hlo
  · rintro rfl; exact hhi
end

section
/-! PROOFS. What cset leaves in each control register (R6, R25, R26, R133). -/

namespace Sys2Proof.Machine

open Sys2Proof

/-! ### A context after a field-wise write of one control register -/

/-- Each field that cset can write, by the select that writes it. -/
theorem Ctx.setCtrl_eq (c : Ctx) (sel : Nat) (v : Word) : c.setCtrl sel v =
    { c with
      vs := if sel = 0x002 then bits v.toNat 11 0 else c.vs
      fv := if sel = 0x005 then c.fv &&& (63 ^^^ bits v.toNat 5 0) else c.fv
      ft := if sel = 0x006 then c.ft &&& (63 ^^^ bits v.toNat 5 0) else c.ft
      key := if sel = 0x020 then v else c.key
      strm := if sel = 0x021 then v else c.strm
      srq := if sel = 0x022 then v else c.srq
      pkey := if sel = 0x023 then v else c.pkey
      tvec := if sel = 0x030 then word (bits v.toNat 55 2 * 4) else c.tvec
      prio := if sel = 0x031 then bits v.toNat 3 2 else c.prio
      epc := if sel = 0x032 then v else c.epc
      ecp := if sel = 0x033 then v else c.ecp
      evs := if sel = 0x034 then v else c.evs
      enqN := if sel = 0x037 then bits v.toNat 37 32 else c.enqN
      enqSeq0 := if sel = 0x037 then bits v.toNat 15 0 else c.enqSeq0
      tdsel := if sel = 0x03A then bits v.toNat 4 0 else c.tdsel } := by
  unfold Ctx.setCtrl
  split
  case h_15 => simp_all only [imp_false, if_false]
  all_goals rfl

/-- cset writes neither a scalar register nor PC. -/
@[simp] theorem Ctx.setCtrl_x (c : Ctx) (sel : Nat) (v : Word) : (c.setCtrl sel v).x = c.x := by rw [Ctx.setCtrl_eq]
@[simp] theorem Ctx.setCtrl_pc (c : Ctx) (sel : Nat) (v : Word) : (c.setCtrl sel v).pc = c.pc := by rw [Ctx.setCtrl_eq]

/-- Only TSTAT holds the priority. -/
theorem Ctx.setCtrl_prio_ne (c : Ctx) {sel : Nat} (v : Word) (h : sel ≠ 0x031) : (c.setCtrl sel v).prio = c.prio := by
  rw [Ctx.setCtrl_eq]; exact if_neg h

/-! ### Reading control registers -/

/-- No control register holds PC. -/
theorem Ctx.ctrl_pc (c : Ctx) (pc : Word) (gb h sel : Nat) : Ctx.ctrl { c with pc := pc } gb h sel = c.ctrl gb h sel := rfl

/-- A control register other than GB does not depend on GB. -/
theorem Ctx.ctrl_gb (c : Ctx) (gb gb' h : Nat) {sel : Nat} (hsel : sel ≠ 0x029) : c.ctrl gb h sel = c.ctrl gb' h sel := by
  unfold Ctx.ctrl
  split
  case h_26 => contradiction
  all_goals rfl

/-- A write of one control register leaves every other. -/
theorem Ctx.ctrl_setCtrl_ne (c : Ctx) (gb h : Nat) (v : Word) {sel sel' : Nat} (hne : sel' ≠ sel) :
    (c.setCtrl sel v).ctrl gb h sel' = c.ctrl gb h sel' := by
  rw [Ctx.setCtrl_eq]
  unfold Ctx.ctrl
  split
  all_goals simp [Ctx.tstat, Ctx.enq, hne.symm]

/-- TSTAT after a write of its priority: the bits below are what they were. -/
theorem tstat_prio (c : Ctx) (p : Nat) : Ctx.tstat { c with prio := p } = p * 4 + c.tstat % 4 := by
  unfold Ctx.tstat b2n
  cases c.inh <;> cases c.prv <;> simp; omega

/-- A write of one control register leaves in it what R6 says. -/
theorem Ctx.ctrl_setCtrl_self (c : Ctx) (gb h : Nat) (v : Word) (sel : Nat) :
    (c.setCtrl sel v).ctrl gb h sel = written sel (c.ctrl gb h sel) v := by
  unfold Ctx.setCtrl
  split
  case h_8 => -- TVEC
    have hlt : bits v.toNat 55 2 * 4 < 2 ^ 64 := by
      have := Nat.mod_lt (v.toNat / 2 ^ 2) (show 0 < 2 ^ (55 + 1 - 2) by decide)
      unfold bits
      omega
    exact (BitVec.toNat_ofNat _ _).trans (Nat.mod_eq_of_lt hlt)
  case h_9 => exact tstat_prio c _
  case h_15 =>
    unfold written
    split <;> simp_all
  case h_1 => exact bits_low _ 11 -- VS
  case h_2 => exact congrArg (fun b => c.fv &&& (63 ^^^ b)) (bits_low _ 5) -- FV
  case h_3 => exact congrArg (fun b => c.ft &&& (63 ^^^ b)) (bits_low _ 5) -- FT
  case h_13 => exact congrArg (fun b => v.toNat / 2 ^ 32 % 64 * 2 ^ 32 + b) (bits_low _ 15) -- ENQ
  case h_14 => exact bits_low _ 4 -- TDSEL
  all_goals rfl

/-- GB is what it was where the core differs in its counters alone and the priority is the same. -/
theorem gb_congr {s t : State} {h : Nat} (hc : SameCores s t) (hp : (t.ctx h).prio = (s.ctx h).prio) : t.gb h = s.gb h := by
  have hk := hc (coreOf h)
  have hl : (t.core (coreOf h)).gustLevel = (s.core (coreOf h)).gustLevel := by rw [← hk]
  have hg : (t.core (coreOf h)).gustCfg = (s.core (coreOf h)).gustCfg := by rw [← hk]
  simp only [State.gb, Core.thresh, hl, hg, hp]

/-! ### cset -/

/-- The state after cset with K = 1 of a register outside the trap area (R133). -/
def State.cset (s : State) (sel : Nat) (v : Word) : State := (s.updCtx s.turn (fun c => c.setCtrl sel v)).retire s.turn

/-- cset changes its hart alone. -/
theorem cset_onlyHart (s : State) (sel : Nat) (v : Word) : OnlyHart s (s.cset sel v) s.turn :=
  (setHart_onlyHart s s.turn _).trans (retireTo_onlyHart _ _ _)

/-- The context after cset. -/
theorem cset_ctx (s : State) (sel : Nat) (v : Word) :
    (s.cset sel v).ctx s.turn = { (s.ctx s.turn).setCtrl sel v with pc := s.pc s.turn + 4 } := by
  rw [State.cset, State.ctx, retire_hart, frontDone, State.past, State.pc, State.ctx, updCtx_hart]
  simp only [Ctx.setCtrl_pc]
  rfl

/-- cset leaves in its register what R6 says; GB, which it cannot write, holds what it held. -/
theorem cset_ctrl_self (s : State) (sel : Nat) (v : Word) :
    (s.cset sel v).ctrl s.turn sel = written sel (s.ctrl s.turn sel) v := by
  have hold : (s.ctx s.turn).ctrl ((s.cset sel v).gb s.turn) s.turn sel = s.ctrl s.turn sel := by
    by_cases hgb : sel = 0x029
    · obtain ⟨-, hcores, -⟩ := cset_onlyHart s sel v
      have hprio : ((s.cset sel v).ctx s.turn).prio = (s.ctx s.turn).prio := by
        rw [cset_ctx, Ctx.setCtrl_prio_ne _ _ (by omega)]
      rw [gb_congr hcores hprio]
      rfl
    · exact Ctx.ctrl_gb _ _ _ _ hgb
  rw [State.ctrl, cset_ctx, Ctx.ctrl_pc, Ctx.ctrl_setCtrl_self, hold]

/-- cset leaves every other register but GB, which shows the priority of TSTAT (R34). -/
theorem cset_ctrl_ne (s : State) (v : Word) {sel sel' : Nat} (hne : sel' ≠ sel) (hgb : sel' ≠ 0x029) :
    (s.cset sel v).ctrl s.turn sel' = s.ctrl s.turn sel' := by
  rw [State.ctrl, cset_ctx, Ctx.ctrl_pc, Ctx.ctrl_setCtrl_ne _ _ _ _ hne]
  exact Ctx.ctrl_gb _ _ _ _ hgb

/-- cset completes where its checks pass and the queue is empty. -/
theorem exec_cset {s : State} {a : BitVec 7} {sel : BitVec 8} (hsel : assignedSelect sel.toNat = true) (hlo : sel ≠ 0x3B)
    (hhi : sel ≠ 0x3C) (hq : (s.hart s.turn).queue = [])
    (hp : sel = 0x21 ∨ sel = 0x23 ∨ sel = 0x31 → (s.ctx s.turn).prv = true) :
    exec (.cset true a sel) s = .next (s.cset sel.toNat (s.x s.turn a)) := by
  have hsw : sWrite sel.toNat = true → (s.ctx s.turn).prv = true := fun h =>
    hp (by simpa [sWrite, ← BitVec.toNat_inj, or_assoc] using h)
  have hw : (sWrite sel.toNat && !(s.ctx s.turn).prv) = false := by
    rw [Bool.and_eq_false_imp]
    exact fun h => by rw [hsw h]; rfl
  have hlo' : (sel.toNat == 0x03B) = false := by simpa [← BitVec.toNat_inj] using hlo
  have hhi' : (sel.toNat == 0x03C) = false := by simpa [← BitVec.toNat_inj] using hhi
  change execCset true a sel s = _
  simp only [execCset, hsel, hw, Bool.not_true, Bool.false_eq_true, if_false, hlo', hhi', Bool.or_false]
  refine scalarWord_ok ?_
  cases waitsForQueue sel.toNat
  · rfl
  · exact (run_bind_ok (needEmpty_run hq)).trans rfl

end Sys2Proof.Machine

open Sys2Proof Sys2Proof.Machine

/-- Settles O21: the context after a field-wise write, read register by register. -/
theorem controlWrites : Obligations.ControlWrites := by
  unfold Obligations.ControlWrites
  intro s a sel hsel hlo hhi hq hp
  refine ⟨_, exec_cset hsel hlo hhi hq hp, cset_onlyHart s _ _, ?_, ?_, cset_ctrl_self s _ _, fun sel' hne hgb => cset_ctrl_ne s _ hne hgb⟩
  · simp [cset_ctx]
  · simp [State.pc, cset_ctx]
end

section
/-! PROOFS. The mailbox registers (R402, R416, R417): what REGR reads after each write that REGW makes, and what a command answers. -/

namespace Sys2Proof.Machine

open Sys2Proof

/-! ### What REGR reads -/

/-- A register of a core, by code (R417). -/
def Core.reg (k : Core) (code : Nat) : Nat :=
  if code = 0x10 then k.gustCfg
  else if code = 0x11 then k.ntcfg
  else if code ≤ 0x15 then Tbl.get 0 k.cbp (code - 0x12)
  else Tbl.get 0 k.cbx (code - 0x16)

/-- A register of a cluster, by code (R417). -/
def Cluster.reg (k : Cluster) (code : Nat) : Nat :=
  if code = 0x20 then k.pgcfg
  else if code = 0x21 then k.dpcfg
  else if code = 0x22 then k.dpstat
  else if code = 0x23 then k.slrt
  else k.slcfg

/-- A register of the package, by code; routes are indexed (R417). -/
def State.packageReg (s : State) (code unit : Nat) : Nat :=
  if code = 0x01 then s.thcfg
  else if code = 0x02 then s.schcfg
  else if code = 0x03 then s.ctcfg
  else if code = 0x04 then s.ctstat
  else if code = 0x05 then s.fpool
  else if code ≤ 0x37 then Tbl.get 0 s.pzh (code - 0x30)
  else if code = 0x40 then s.netcfg
  else if code = 0x41 then s.netllr
  else if code = 0x42 then s.blcfg
  else if code = 0x43 then Tbl.get 0 s.routes unit
  else if code = 0x44 then s.commcfg
  else if code = 0x45 then s.jscfg
  else 0

/-- Codes of the package's registers (R417). -/
def packageCode (code : Nat) : Prop := (1 ≤ code ∧ code ≤ 5) ∨ (0x30 ≤ code ∧ code ≤ 0x37) ∨ (0x40 ≤ code ∧ code ≤ 0x45)

/-- The codes that name a register (R417). -/
theorem codes_of_regUnits {code : Nat} (h : 0 < regUnits code) : (1 ≤ code ∧ code ≤ 5) ∨ (0x10 ≤ code ∧ code ≤ 0x19) ∨
    (0x20 ≤ code ∧ code ≤ 0x24) ∨ (0x30 ≤ code ∧ code ≤ 0x3B) ∨ (0x40 ≤ code ∧ code ≤ 0x45) := by
  unfold regUnits at h
  split_ifs at h <;> omega

/-- Prime zones: one set for the home memory, one for each tower's ceiling (R341). -/
theorem regUnits_pzh {n : Nat} (h : n < 8) : regUnits (0x30 + n) = 1 := by interval_cases n <;> rfl
theorem regUnits_pzc {n : Nat} (h : n < 4) : regUnits (0x38 + n) = 8 := by interval_cases n <;> rfl

/-- No prime zone is RO. -/
theorem regRo_zone {code : Nat} (h : 0x30 ≤ code) : regRo code = false := by
  simp only [regRo, Bool.or_eq_false_iff, beq_eq_false_iff_ne]
  omega

/-- REGR by the unit that a register belongs to. -/
theorem readReg_eq (s : State) {code : Nat} (h : 0 < regUnits code) (unit : Nat) : s.readReg code unit =
    if 0x10 ≤ code ∧ code ≤ 0x19 then (s.core unit).reg code
    else if 0x20 ≤ code ∧ code ≤ 0x24 then (s.cluster unit).reg code
    else if 0x38 ≤ code ∧ code ≤ 0x3B then Tbl.get 0 (s.tower unit).pzc (code - 0x38)
    else s.packageReg code unit := by
  obtain ⟨hlo, hhi⟩ | ⟨hlo, hhi⟩ | ⟨hlo, hhi⟩ | ⟨hlo, hhi⟩ | ⟨hlo, hhi⟩ := codes_of_regUnits h
  all_goals interval_cases code <;> rfl

/-- Every register reads as it did. -/
def SameRegs (s t : State) : Prop := ∀ code unit, 0 < regUnits code → t.readReg code unit = s.readReg code unit

theorem SameRegs.trans {s t u : State} (a : SameRegs s t) (b : SameRegs t u) : SameRegs s u :=
  fun code unit h => (b code unit h).trans (a code unit h)

/-- A register of one core reads as that core's; every other register is what it was. -/
theorem readReg_updCore (s : State) (n : Nat) (f : Core → Core) {code : Nat} (h : 0 < regUnits code) (unit : Nat) :
    (s.updCore n f).readReg code unit =
      if (0x10 ≤ code ∧ code ≤ 0x19) ∧ n = unit then (f (s.core n)).reg code else s.readReg code unit := by
  rw [readReg_eq _ h, readReg_eq _ h, State.core_updCore]
  by_cases hc : 0x10 ≤ code ∧ code ≤ 0x19
  · by_cases hn : n = unit <;> simp [hc, hn]
  · simp only [hc, false_and, if_false]; rfl

/-- A register of one cluster reads as that cluster's; every other register is what it was. -/
theorem readReg_updCluster (s : State) (n : Nat) (f : Cluster → Cluster) {code : Nat} (h : 0 < regUnits code) (unit : Nat) :
    (s.updCluster n f).readReg code unit =
      if (0x20 ≤ code ∧ code ≤ 0x24) ∧ n = unit then (f (s.cluster n)).reg code else s.readReg code unit := by
  rw [readReg_eq _ h, readReg_eq _ h, State.cluster_updCluster]
  by_cases hc : 0x20 ≤ code ∧ code ≤ 0x24
  · have hcore : ¬ (0x10 ≤ code ∧ code ≤ 0x19) := by omega
    by_cases hn : n = unit <;> simp [hc, hcore, hn]
  · simp only [hc, false_and, if_false]; rfl

/-- A change of a core that keeps its registers. -/
theorem sameRegs_updCore (s : State) (n : Nat) {f : Core → Core} (hf : ∀ k code, (f k).reg code = k.reg code) :
    SameRegs s (s.updCore n f) := by
  intro code unit h
  rw [readReg_updCore s n f h, hf]
  split
  case isTrue hc => rw [readReg_eq _ h, if_pos hc.1, hc.2]
  case isFalse => rfl

/-- A change of a cluster that keeps its registers. -/
theorem sameRegs_updCluster (s : State) (n : Nat) {f : Cluster → Cluster} (hf : ∀ k code, (f k).reg code = k.reg code) :
    SameRegs s (s.updCluster n f) := by
  intro code unit h
  rw [readReg_updCluster s n f h, hf]
  split
  case isTrue hc => rw [readReg_eq _ h, if_neg (by omega), if_pos hc.1, hc.2]
  case isFalse => rfl

/-- A pass that starts touches the Anvil's job and the layers that end a pass, and no register. -/
theorem sameRegs_grantPass (s : State) (c : Nat) : SameRegs s (s.grantPass c) := by
  refine SameRegs.trans (sameRegs_updCluster _ _ ?_) (sameRegs_updCore _ _ ?_)
  · exact fun _ _ => rfl
  · exact fun _ _ => rfl

/-- A grant of a start touches no register (R269, R270). -/
theorem sameRegs_grantNow (s : State) (c : Nat) : SameRegs s (s.grantNow c) := by
  rw [State.grantNow]
  by_cases hw : (bit (s.cluster (clusterOf c)).slcfg 8 || s.nextAvail c == 0 || !(s.cluster (clusterOf c)).pending.any (·.2 == c)) = true
  · rw [if_pos hw]
    exact fun _ _ _ => rfl
  · rw [if_neg hw]
    refine SameRegs.trans (sameRegs_updCluster _ _ ?_) (sameRegs_grantPass _ _)
    exact fun _ _ => rfl

/-- Switching the slew limiter off grants the starts that wait, and touches no register. -/
theorem sameRegs_grantAll (s : State) (cl : Nat) : SameRegs s (s.grantAll cl) := by
  have hgrants : ∀ (l : List (Nat × Nat)) (t : State), SameRegs t (l.foldl (fun s x => s.grantNow x.2) t) := by
    intro l
    induction l with
    | nil => exact fun _ _ _ _ => rfl
    | cons x l ih => exact fun t => (sameRegs_grantNow t x.2).trans (ih _)
  unfold State.grantAll
  split
  · exact fun _ _ _ => rfl
  · refine SameRegs.trans (sameRegs_updCluster _ _ ?_) (hgrants _ _)
    exact fun _ _ => rfl

/-! ### What REGW writes -/

/-- One register reads as v, and every other register as before: `RegisterWritten` for any value. -/
def SetsReg (s t : State) (code unit v : Nat) : Prop :=
  t.readReg code unit = v ∧
  ∀ code' unit', unit' < regUnits code' → (code' ≠ code ∨ unit' ≠ unit) → t.readReg code' unit' = s.readReg code' unit'

/-- The statement's predicate is this one at the fields of the value that the host wrote (R7). -/
theorem registerWritten_iff (s t : State) (code unit raw : Nat) :
    RegisterWritten s t code unit raw ↔ SetsReg s t code unit (regFields code raw) := Iff.rfl

/-- One register reads as its new value, the other units of its code and every other code as before. -/
theorem setsReg_of {s t : State} {code unit v : Nat} (hself : t.readReg code unit = v)
    (hunit : ∀ u, u < regUnits code → u ≠ unit → t.readReg code u = s.readReg code u)
    (hcode : ∀ c u, 0 < regUnits c → c ≠ code → t.readReg c u = s.readReg c u) : SetsReg s t code unit v := by
  refine ⟨hself, fun c u hu hne => ?_⟩
  by_cases hc : c = code
  · subst hc
    exact hunit u hu (hne.resolve_left (fun h => h rfl))
  · exact hcode c u (by omega) hc

/-- What follows a write and touches no register does not undo it. -/
theorem SetsReg.sameRegs {s t t' : State} {code unit v : Nat} (h : SetsReg s t code unit v) (hu : 0 < regUnits code)
    (hs : SameRegs t t') : SetsReg s t' code unit v := by
  obtain ⟨hself, hother⟩ := h
  exact ⟨(hs code unit hu).trans hself, fun c u hc hne => (hs c u (by omega)).trans (hother c u hc hne)⟩

/-- A write of a register that the package has one of. -/
theorem setsReg_package {s t : State} {code unit v : Nat} (hone : regUnits code = 1) (hunit : unit < regUnits code)
    (hself : t.readReg code unit = v)
    (hunits : t.cores = s.cores ∧ t.clusters = s.clusters ∧ t.towers = s.towers)
    (hother : ∀ c u, packageCode c → c ≠ code → t.packageReg c u = s.packageReg c u) : SetsReg s t code unit v := by
  obtain ⟨hcores, hclusters, htowers⟩ := hunits
  refine setsReg_of hself (fun u _ _ => by omega) (fun c u hc hne => ?_)
  have hcodes := codes_of_regUnits hc
  rw [readReg_eq t hc, readReg_eq s hc, State.core, State.cluster, State.tower, hcores, hclusters, htowers]
  split_ifs with hcore hcluster hceiling
  · rfl
  · rfl
  · rfl
  · exact hother c u (by unfold packageCode; omega) hne

/-- A write of a core's register. -/
theorem setsReg_updCore (s : State) {f : Core → Core} {code : Nat} (unit v : Nat) (hcode : 0x10 ≤ code ∧ code ≤ 0x19)
    (hself : ∀ k, (f k).reg code = v)
    (hother : ∀ k c, 0x10 ≤ c ∧ c ≤ 0x19 → c ≠ code → (f k).reg c = k.reg c) :
    SetsReg s (s.updCore unit f) code unit v := by
  have hpos : 0 < regUnits code := by rw [regUnits, if_pos hcode]; decide
  refine setsReg_of ?_ (fun u _ hu => ?_) (fun c u hc hne => ?_)
  · rw [readReg_updCore s unit f hpos, if_pos ⟨hcode, rfl⟩, hself]
  · rw [readReg_updCore s unit f hpos, if_neg (fun h => hu h.2.symm)]
  · rw [readReg_updCore s unit f hc]
    split
    case isTrue h => rw [hother _ _ h.1 hne, readReg_eq _ hc, if_pos h.1, h.2]
    case isFalse => rfl

/-- A write of a cluster's register. -/
theorem setsReg_updCluster (s : State) {f : Cluster → Cluster} {code : Nat} (unit v : Nat) (hcode : 0x20 ≤ code ∧ code ≤ 0x24)
    (hself : ∀ k, (f k).reg code = v)
    (hother : ∀ k c, 0x20 ≤ c ∧ c ≤ 0x24 → c ≠ code → (f k).reg c = k.reg c) :
    SetsReg s (s.updCluster unit f) code unit v := by
  have hpos : 0 < regUnits code := by rw [regUnits, if_neg (by omega), if_pos hcode]; decide
  refine setsReg_of ?_ (fun u _ hu => ?_) (fun c u hc hne => ?_)
  · rw [readReg_updCluster s unit f hpos, if_pos ⟨hcode, rfl⟩, hself]
  · rw [readReg_updCluster s unit f hpos, if_neg (fun h => hu h.2.symm)]
  · rw [readReg_updCluster s unit f hc]
    split
    case isTrue h => rw [hother _ _ h.1 hne, readReg_eq _ hc, if_neg (by omega), if_pos h.1, h.2]
    case isFalse => rfl

/-- A write of a ceiling tower's prime zone. -/
theorem setsReg_pzc (s : State) {n : Nat} (unit v : Nat) (hn : n < 4) :
    SetsReg s (s.updTower unit (fun t => { t with pzc := Tbl.set t.pzc n v })) (0x38 + n) unit v := by
  have hread : ∀ (t : State) m u, m < 4 → t.readReg (0x38 + m) u = Tbl.get 0 (t.tower u).pzc m := by
    intro t m u hm
    interval_cases m <;> rfl
  refine setsReg_of ?_ (fun u _ hu => ?_) (fun c u hc hne => ?_)
  · rw [hread _ n _ hn, State.tower_updTower, if_pos rfl, Tbl.get_set_self]
  · rw [hread _ n _ hn, hread _ n _ hn, State.tower_updTower, if_neg (Ne.symm hu)]
  · rw [readReg_eq _ hc, readReg_eq s hc, State.tower_updTower]
    by_cases hu : unit = u
    · subst hu
      rw [if_pos rfl]
      by_cases hz : 0x38 ≤ c ∧ c ≤ 0x3B
      · rw [if_pos hz, if_pos hz, Tbl.get_set_ne _ _ _ (by omega)]; rfl
      · rw [if_neg hz, if_neg hz]; rfl
    · rw [if_neg hu]; rfl

/-- Data that moves with the prime zones touches no register (R341). -/
theorem sameRegs_rezone (s t : State) (pa : Nat) : SameRegs t (s.rezone t pa) := fun _ _ _ => rfl

/-- A prime zone that R341 accepts is written. -/
theorem zoneWrite_ok {t : Tbl Nat} {count n v rows : Nat}
    (h : ¬ zoneBad v rows (((List.range count).filter (· != n)).map (Tbl.get 0 t)) = true) :
    zoneWrite t count n v rows = (Tbl.set t n v, true) := if_neg h

/-- The write is accepted, and it changes the register that it names and no other. -/
def Writes (s : State) (code unit v : Nat) (r : State × Nat) : Prop := r.2 = bmOK ∧ SetsReg s r.1 code unit v

/-- A comparator's register after its write. -/
theorem reg_cbp_self (k : Core) {n : Nat} (v : Nat) (hn : n < 4) : Core.reg { k with cbp := Tbl.set k.cbp n v } (0x12 + n) = v := by
  interval_cases n <;> exact Tbl.get_set_self _ _ _ _

/-- A comparator's index register after its write. -/
theorem reg_cbx_self (k : Core) {n : Nat} (v : Nat) : Core.reg { k with cbx := Tbl.set k.cbx n v } (0x16 + n) = v := by
  have h : ¬ 0x16 + n = 0x10 ∧ ¬ 0x16 + n = 0x11 ∧ ¬ 0x16 + n ≤ 0x15 := by omega
  simp only [Core.reg, h, if_false, Nat.add_sub_cancel_left, Tbl.get_set_self]

/-- A write of a comparator's register leaves the core's others. -/
theorem reg_cbp_ne (k : Core) {n c : Nat} (v : Nat) (hc : 0x10 ≤ c) (hne : c ≠ 0x12 + n) :
    Core.reg { k with cbp := Tbl.set k.cbp n v } c = k.reg c := by
  unfold Core.reg
  dsimp only
  split_ifs with h10 h11 h15
  · rfl
  · rfl
  · exact Tbl.get_set_ne _ _ _ (by omega)
  · rfl

/-- A write of a comparator's index register leaves the core's others. -/
theorem reg_cbx_ne (k : Core) {n c : Nat} (v : Nat) (hne : c ≠ 0x16 + n) :
    Core.reg { k with cbx := Tbl.set k.cbx n v } c = k.reg c := by
  unfold Core.reg
  dsimp only
  split_ifs with h10 h11 h15
  · rfl
  · rfl
  · rfl
  · exact Tbl.get_set_ne _ _ _ (by omega)

/-- A write of one prime zone of the home memory leaves the package's other registers. -/
theorem packageReg_pzh_ne (s : State) {n c : Nat} (v u : Nat) (hc : packageCode c) (hne : c ≠ 0x30 + n) :
    State.packageReg { s with pzh := Tbl.set s.pzh n v } c u = s.packageReg c u := by
  obtain ⟨hlo, hhi⟩ | ⟨hlo, hhi⟩ | ⟨hlo, hhi⟩ := hc
  · interval_cases c <;> rfl
  · have hread : ∀ t : State, t.packageReg c u = Tbl.get 0 t.pzh (c - 0x30) := by
      intro t
      interval_cases c <;> rfl
    rw [hread, hread, Tbl.get_set_ne _ _ _ (by omega)]
  · interval_cases c <;> rfl

/-! ### Each register that REGW writes -/

/-- The registers that the package has one of (R402, R417, R437, R477). -/
theorem setsReg_thcfg (s : State) {unit : Nat} (v : Nat) (h : unit < regUnits 0x01) : SetsReg s { s with thcfg := v } 0x01 unit v :=
  setsReg_package rfl h rfl ⟨rfl, rfl, rfl⟩ (fun c u _ hc => by simp only [State.packageReg, hc, if_false]; rfl)

theorem setsReg_schcfg (s : State) {unit : Nat} (v : Nat) (h : unit < regUnits 0x02) : SetsReg s { s with schcfg := v } 0x02 unit v :=
  setsReg_package rfl h rfl ⟨rfl, rfl, rfl⟩ (fun c u _ hc => by simp only [State.packageReg, hc, if_false]; rfl)

theorem setsReg_ctcfg (s : State) {unit : Nat} (v : Nat) (h : unit < regUnits 0x03) : SetsReg s { s with ctcfg := v } 0x03 unit v :=
  setsReg_package rfl h rfl ⟨rfl, rfl, rfl⟩ (fun c u _ hc => by simp only [State.packageReg, hc, if_false]; rfl)

theorem setsReg_fpool (s : State) {unit : Nat} (v : Nat) (h : unit < regUnits 0x05) : SetsReg s { s with fpool := v } 0x05 unit v :=
  setsReg_package rfl h rfl ⟨rfl, rfl, rfl⟩ (fun c u _ hc => by simp only [State.packageReg, hc, if_false]; rfl)

theorem setsReg_netcfg (s : State) {unit : Nat} (v : Nat) (h : unit < regUnits 0x40) : SetsReg s { s with netcfg := v } 0x40 unit v :=
  setsReg_package rfl h rfl ⟨rfl, rfl, rfl⟩ (fun c u _ hc => by simp only [State.packageReg, hc, if_false]; rfl)

theorem setsReg_netllr (s : State) {unit : Nat} (v : Nat) (h : unit < regUnits 0x41) : SetsReg s { s with netllr := v } 0x41 unit v :=
  setsReg_package rfl h rfl ⟨rfl, rfl, rfl⟩ (fun c u _ hc => by simp only [State.packageReg, hc, if_false]; rfl)

theorem setsReg_blcfg (s : State) {unit : Nat} (v : Nat) (h : unit < regUnits 0x42) : SetsReg s { s with blcfg := v } 0x42 unit v :=
  setsReg_package rfl h rfl ⟨rfl, rfl, rfl⟩ (fun c u _ hc => by simp only [State.packageReg, hc, if_false]; rfl)

theorem setsReg_commcfg (s : State) {unit : Nat} (v : Nat) (h : unit < regUnits 0x44) : SetsReg s { s with commcfg := v } 0x44 unit v :=
  setsReg_package rfl h rfl ⟨rfl, rfl, rfl⟩ (fun c u _ hc => by simp only [State.packageReg, hc, if_false]; rfl)

theorem setsReg_jscfg (s : State) {unit : Nat} (v : Nat) (h : unit < regUnits 0x45) : SetsReg s { s with jscfg := v } 0x45 unit v :=
  setsReg_package rfl h rfl ⟨rfl, rfl, rfl⟩ (fun c u _ hc => by simp only [State.packageReg, hc, if_false]; rfl)

/-- A route (R437). -/
theorem setsReg_routes (s : State) (unit v : Nat) : SetsReg s { s with routes := Tbl.set s.routes unit v } 0x43 unit v := by
  refine setsReg_of (Tbl.get_set_self _ _ _ _) (fun u _ hu => Tbl.get_set_ne _ _ _ (Ne.symm hu)) (fun c u _ hc => ?_)
  simp only [State.readReg, hc, if_false]
  rfl

/-- A prime zone of the home memory (R341). -/
theorem setsReg_pzh (s : State) {n unit : Nat} (v : Nat) (hn : n < 8) (h : unit < regUnits (0x30 + n)) :
    SetsReg s { s with pzh := Tbl.set s.pzh n v } (0x30 + n) unit v := by
  have hread : ∀ t : State, t.readReg (0x30 + n) unit = Tbl.get 0 t.pzh n := by
    intro t
    interval_cases n <;> rfl
  have hself := (hread { s with pzh := Tbl.set s.pzh n v }).trans (Tbl.get_set_self _ _ _ _)
  exact setsReg_package (regUnits_pzh hn) h hself ⟨rfl, rfl, rfl⟩ (fun c u hc hne => packageReg_pzh_ne s v u hc hne)

/-- The registers of a core (R199, R213, R266). -/
theorem setsReg_gustCfg (s : State) (unit v : Nat) : SetsReg s (s.updCore unit (fun k => { k with gustCfg := v })) 0x10 unit v :=
  setsReg_updCore s unit v (by omega) (fun _ => rfl) (fun k c _ h => by simp only [Core.reg, h, if_false])

/-- The groups that settle after a change of their mode are no register (R266). -/
theorem setsReg_ntcfg (s : State) (unit v : Nat) (settling : Core → List Nat) :
    SetsReg s (s.updCore unit (fun k => { k with ntcfg := v, settling := settling k })) 0x11 unit v :=
  setsReg_updCore s unit v (by omega) (fun _ => rfl) (fun k c _ h => by simp only [Core.reg, h, if_false])

theorem setsReg_cbp (s : State) {n : Nat} (unit v : Nat) (hn : n < 4) :
    SetsReg s (s.updCore unit (fun k => { k with cbp := Tbl.set k.cbp n v })) (0x12 + n) unit v :=
  setsReg_updCore s unit v (by omega) (fun k => reg_cbp_self k v hn) (fun k _ hc h => reg_cbp_ne k v hc.1 h)

theorem setsReg_cbx (s : State) {n : Nat} (unit v : Nat) (hn : n < 4) :
    SetsReg s (s.updCore unit (fun k => { k with cbx := Tbl.set k.cbx n v })) (0x16 + n) unit v :=
  setsReg_updCore s unit v (by omega) (fun k => reg_cbx_self k v) (fun k _ _ h => reg_cbx_ne k v h)

/-- The registers of a cluster (R265 to R270). -/
theorem setsReg_pgcfg (s : State) (unit v : Nat) : SetsReg s (s.updCluster unit (fun k => { k with pgcfg := v })) 0x20 unit v :=
  setsReg_updCluster s unit v (by omega) (fun _ => rfl) (fun k c _ h => by simp only [Cluster.reg, h, if_false]; rfl)

theorem setsReg_dpcfg (s : State) (unit v : Nat) : SetsReg s (s.updCluster unit (fun k => { k with dpcfg := v })) 0x21 unit v :=
  setsReg_updCluster s unit v (by omega) (fun _ => rfl) (fun k c _ h => by simp only [Cluster.reg, h, if_false]; rfl)

theorem setsReg_slrt (s : State) (unit v : Nat) : SetsReg s (s.updCluster unit (fun k => { k with slrt := v })) 0x23 unit v :=
  setsReg_updCluster s unit v (by omega) (fun _ => rfl) (fun k c _ h => by simp only [Cluster.reg, h, if_false]; rfl)

theorem setsReg_slcfg (s : State) (unit v : Nat) : SetsReg s (s.updCluster unit (fun k => { k with slcfg := v })) 0x24 unit v :=
  setsReg_updCluster s unit v (by omega) (fun _ => rfl) (fun k c hc h => by
    obtain rfl | rfl | rfl | rfl : c = 0x20 ∨ c = 0x21 ∨ c = 0x22 ∨ c = 0x23 := by omega
    all_goals rfl)

/-! ### REGW, register by register -/

/-- R402: limits out of order are refused. -/
theorem writeReg_thcfg (s : State) (unit raw : Nat) : s.writeReg 0x01 unit raw =
    if thcfgBad (regFields 0x01 raw) then (s, bmBADARG) else ({ s with thcfg := regFields 0x01 raw }, bmOK) := rfl

/-- R417: refused while a task is live. -/
theorem writeReg_fpool (s : State) (unit raw : Nat) : s.writeReg 0x05 unit raw =
    if s.anyTaskLive then (s, bmSTATE) else ({ s with fpool := regFields 0x05 raw }, bmOK) := rfl

/-- The registers of the comparators (R213). -/
theorem writeReg_cbp (s : State) {n : Nat} (hn : n < 4) (unit raw : Nat) : s.writeReg (0x12 + n) unit raw =
    (s.updCore unit (fun k => { k with cbp := Tbl.set k.cbp n (regFields (0x12 + n) raw) }), bmOK) := by
  interval_cases n <;> rfl

theorem writeReg_cbx (s : State) {n : Nat} (hn : n < 4) (unit raw : Nat) : s.writeReg (0x16 + n) unit raw =
    (s.updCore unit (fun k => { k with cbx := Tbl.set k.cbx n (regFields (0x16 + n) raw) }), bmOK) := by
  interval_cases n <;> rfl

/-- A prime zone of the home memory that R341 accepts: its register, and the data that moves with it. -/
theorem writeReg_pzh (s : State) {n : Nat} (hn : n < 8) (unit raw : Nat)
    (h : ¬ zoneBad (regFields (0x30 + n) raw) 8388608 (((List.range 8).filter (· != n)).map (Tbl.get 0 s.pzh)) = true) :
    s.writeReg (0x30 + n) unit raw = (s.rezone { s with pzh := Tbl.set s.pzh n (regFields (0x30 + n) raw) } 0, bmOK) := by
  have hzone : s.writeReg (0x30 + n) unit raw = (s.rezone { s with pzh := (zoneWrite s.pzh 8 n (regFields (0x30 + n) raw) 8388608).1 } 0,
      if (zoneWrite s.pzh 8 n (regFields (0x30 + n) raw) 8388608).2 then bmOK else bmBADARG) := by
    interval_cases n <;> rfl
  rw [hzone, zoneWrite_ok h]; rfl

/-- The same of a ceiling tower's prime zone. -/
theorem writeReg_pzc (s : State) {n : Nat} (hn : n < 4) (unit raw : Nat)
    (h : ¬ zoneBad (regFields (0x38 + n) raw) 786432 (((List.range 4).filter (· != n)).map (Tbl.get 0 (s.tower unit).pzc)) = true) :
    s.writeReg (0x38 + n) unit raw =
      (s.rezone (s.updTower unit (fun t => { t with pzc := Tbl.set (s.tower unit).pzc n (regFields (0x38 + n) raw) }))
        (2 ^ 40 + unit * 2 ^ 34), bmOK) := by
  have hzone : s.writeReg (0x38 + n) unit raw =
      (s.rezone (s.updTower unit (fun t => { t with pzc := (zoneWrite (s.tower unit).pzc 4 n (regFields (0x38 + n) raw) 786432).1 }))
        (2 ^ 40 + unit * 2 ^ 34),
      if (zoneWrite (s.tower unit).pzc 4 n (regFields (0x38 + n) raw) 786432).2 then bmOK else bmBADARG) := by
    interval_cases n <;> rfl
  rw [hzone, zoneWrite_ok h]; rfl

/-- REGW of a core's register. -/
theorem writeReg_writes_core (s : State) {code : Nat} (unit raw : Nat) (hlo : 0x10 ≤ code) (hhi : code ≤ 0x19) :
    Writes s code unit (regFields code raw) (s.writeReg code unit raw) := by
  obtain rfl | rfl | ⟨h12, h15⟩ | h16 : code = 0x10 ∨ code = 0x11 ∨ (0x12 ≤ code ∧ code ≤ 0x15) ∨ 0x16 ≤ code := by omega
  · exact ⟨rfl, setsReg_gustCfg s unit _⟩
  · exact ⟨rfl, setsReg_ntcfg s unit _ _⟩
  · obtain ⟨n, rfl⟩ := Nat.exists_eq_add_of_le h12
    rw [writeReg_cbp s (by omega)]
    exact ⟨rfl, setsReg_cbp s unit _ (by omega)⟩
  · obtain ⟨n, rfl⟩ := Nat.exists_eq_add_of_le h16
    rw [writeReg_cbx s (by omega)]
    exact ⟨rfl, setsReg_cbx s unit _ (by omega)⟩

/-- REGW of a cluster's register. -/
theorem writeReg_writes_cluster (s : State) {code : Nat} (unit raw : Nat) (hlo : 0x20 ≤ code) (hhi : code ≤ 0x24) (hro : code ≠ 0x22) :
    Writes s code unit (regFields code raw) (s.writeReg code unit raw) := by
  interval_cases code
  · exact ⟨rfl, setsReg_pgcfg s unit _⟩
  · exact ⟨rfl, setsReg_dpcfg s unit _⟩
  · exact absurd rfl hro
  · exact ⟨rfl, setsReg_slrt s unit _⟩
  · exact ⟨rfl, (setsReg_slcfg s unit _).sameRegs (by decide) (sameRegs_grantAll _ _)⟩

/-- REGW of a register that is not RO, with a value that no rule refuses (R417). -/
theorem writeReg_writes {s : State} {code unit raw : Nat} (hunit : unit < regUnits code) (hro : regRo code = false)
    (hok : ¬ writeRefused s code unit (regFields code raw)) : Writes s code unit (regFields code raw) (s.writeReg code unit raw) := by
  simp only [writeRefused, not_or, not_and] at hok
  obtain ⟨hthcfg, hfpool, hpzh, hpzc⟩ := hok
  simp only [regRo, Bool.or_eq_false_iff, beq_eq_false_iff_ne] at hro
  obtain ⟨h1, h5⟩ | ⟨h10, h19⟩ | ⟨h20, h24⟩ | ⟨h30, h3B⟩ | ⟨h40, h45⟩ := codes_of_regUnits (Nat.zero_lt_of_lt hunit)
  · interval_cases code
    · rw [writeReg_thcfg, if_neg (hthcfg rfl)]
      exact ⟨rfl, setsReg_thcfg s _ hunit⟩
    · exact ⟨rfl, setsReg_schcfg s _ hunit⟩
    · exact ⟨rfl, setsReg_ctcfg s _ hunit⟩
    · exact absurd rfl hro.1
    · rw [writeReg_fpool, if_neg (hfpool rfl)]
      exact ⟨rfl, setsReg_fpool s _ hunit⟩
  · exact writeReg_writes_core s unit raw h10 h19
  · exact writeReg_writes_cluster s unit raw h20 h24 hro.2
  · by_cases h37 : code ≤ 0x37
    · obtain ⟨n, rfl⟩ := Nat.exists_eq_add_of_le h30
      have hzone := hpzh h30 h37
      rw [Nat.add_sub_cancel_left] at hzone
      rw [writeReg_pzh s (by omega) unit raw hzone]
      exact ⟨rfl, (setsReg_pzh s _ (by omega) hunit).sameRegs (by omega) (sameRegs_rezone _ _ _)⟩
    · obtain ⟨n, rfl⟩ := Nat.exists_eq_add_of_le (show 0x38 ≤ code by omega)
      have hzone := hpzc (by omega) h3B
      rw [Nat.add_sub_cancel_left] at hzone
      rw [writeReg_pzc s (by omega) unit raw hzone]
      exact ⟨rfl, (setsReg_pzc s unit _ (by omega)).sameRegs (by omega) (sameRegs_rezone _ _ _)⟩
  · interval_cases code
    · exact ⟨rfl, setsReg_netcfg s _ hunit⟩
    · exact ⟨rfl, setsReg_netllr s _ hunit⟩
    · exact ⟨rfl, setsReg_blcfg s _ hunit⟩
    · exact ⟨rfl, setsReg_routes s unit _⟩
    · exact ⟨rfl, setsReg_commcfg s _ hunit⟩
    · exact ⟨rfl, setsReg_jscfg s _ hunit⟩

/-! ### Commands of the mailbox -/

/-- The signal that a command is answered touches only the MSI-X state (R424). -/
theorem msi_cases (s : State) (v : Nat) : s.msi v = s ∨ s.msi v = { s with pba := s.pba ||| 2 ^ v } ∨ s.msi v = s.send .msix [v] := by
  unfold State.msi
  split_ifs <;> simp

/-- An answered command leaves its status and length in BMSTAT. -/
theorem answered_answer (s : State) (st len : Nat) : Answered (s.answer st len) st len := by
  unfold State.answer
  obtain h | h | h := msi_cases { s with bmst := st, bmlen := len } 0
  all_goals rw [h]; exact ⟨rfl, rfl⟩

/-- Answering leaves memory. -/
@[simp] theorem answer_mem (s : State) (st len : Nat) : (s.answer st len).mem = s.mem := by
  unfold State.answer
  obtain h | h | h := msi_cases { s with bmst := st, bmlen := len } 0
  all_goals exact (congrArg State.mem h).trans rfl

/-- Answering leaves every register. -/
theorem sameRegs_answer (s : State) (st len : Nat) : SameRegs s (s.answer st len) := by
  unfold State.answer
  obtain h | h | h := msi_cases { s with bmst := st, bmlen := len } 0
  all_goals rw [h]; exact fun _ _ _ => rfl

/-- A command that a free mailbox takes and that is done at once (R416). -/
theorem command_done {s : State} (hs : mailboxFree s) (code : Nat) (recovery : Bool) {act : State → State × Option (Nat × Nat)}
    {t : State} {st len : Nat} (h : act s = (t, some (st, len))) :
    s.command code recovery act = State.answer { t with bmarg := s.bmarg, bmrsp := s.bmrsp } st len := by
  obtain ⟨hfree, hrec⟩ := hs
  have hbusy : ¬ 16 ≤ s.bmst := by omega
  simp only [State.command, hbusy, hrec, decide_false, Bool.false_and, Bool.false_eq_true, if_false, h]

/-- A response that has a buffer is written there (R416). -/
theorem reply_ok {s : State} {bs : List Byte} (hne : bs ≠ []) (hb : bufferReady s bs.length) :
    s.reply bs = (s.writePa none s.bmrsp bs, some (bmOK, bs.length)) := by
  obtain ⟨halign, hbacked⟩ := hb
  simp [State.reply, State.respond, hne, halign, hbacked]

/-- REGR of a register (R417): its eight bytes are the response. -/
theorem exec_regr {s : State} (hs : mailboxFree s) (hunit : s.arg 1 < regUnits (s.arg 0)) (hb : bufferReady s 8) (hm : s.mem.wf = true) :
    ∃ t, exec .regr s = .next t ∧ Answered t 0 8 ∧ Holds t s.bmrsp 8 (s.readReg (s.arg 0) (s.arg 1)) ∧ SameMemBut s t s.bmrsp 8 := by
  have hlen := toBytes_length 8 (s.readReg (s.arg 0) (s.arg 1))
  have hreply := reply_ok (s := s) (List.ne_nil_of_length_eq_add_one hlen) (by rw [hlen]; exact hb)
  rw [hlen] at hreply
  refine ⟨_, congrArg Host.Outcome.next (command_done hs _ _ ((if_neg (by omega)).trans hreply)), answered_answer _ _ _, ?_, ?_⟩
  · exact holds_writeBytes hm (by rw [answer_mem]; exact writePa_mem _ _ _ _)
  · exact sameMemBut_writeBytes (by rw [answer_mem]; exact writePa_mem _ _ _ _)

/-- A code or unit that names no register is refused by REGR. -/
theorem exec_regr_badarg {s : State} (hs : mailboxFree s) (hunit : regUnits (s.arg 0) ≤ s.arg 1) :
    ∃ t, exec .regr s = .next t ∧ Answered t 3 0 ∧ t.mem = s.mem :=
  ⟨_, congrArg Host.Outcome.next (command_done hs _ _ (if_pos hunit)), answered_answer _ _ _, answer_mem _ _ _⟩

/-- The REGW command of a register that can be written answers what its write answers. -/
theorem command_regw {s t : State} {st : Nat} (hs : mailboxFree s) (hunit : s.arg 1 < regUnits (s.arg 0)) (hro : regRo (s.arg 0) = false)
    (h : s.writeReg (s.arg 0) (s.arg 1) (s.arg 2) = (t, st)) :
    s.command 0x04 false State.regw = State.answer { t with bmarg := s.bmarg, bmrsp := s.bmrsp } st 0 := by
  refine command_done hs _ _ ?_
  simp only [State.regw, hro, Bool.or_false, decide_eq_true_eq, if_neg (Nat.not_le.mpr hunit), h]

/-- The REGW command of a value that no rule refuses (R417). -/
theorem command_regw_writes {s : State} (hs : mailboxFree s) (hunit : s.arg 1 < regUnits (s.arg 0)) (hro : regRo (s.arg 0) = false)
    (hok : ¬ writeRefused s (s.arg 0) (s.arg 1) (regFields (s.arg 0) (s.arg 2))) :
    Answered (s.command 0x04 false State.regw) 0 0 ∧
      RegisterWritten s (s.command 0x04 false State.regw) (s.arg 0) (s.arg 1) (s.arg 2) := by
  have hwrites := writeReg_writes hunit hro hok
  rcases hr : s.writeReg (s.arg 0) (s.arg 1) (s.arg 2) with ⟨t, st⟩
  rw [hr] at hwrites
  obtain ⟨hst, hset⟩ := hwrites
  dsimp only at hst hset
  rw [command_regw hs hunit hro hr, hst]
  have hsame : SameRegs t { t with bmarg := s.bmarg, bmrsp := s.bmrsp } := fun _ _ _ => rfl
  exact ⟨answered_answer _ _ _, (registerWritten_iff _ _ _ _ _).2 (hset.sameRegs (by omega) (hsame.trans (sameRegs_answer _ _ _)))⟩

/-- A code or unit that names no register is refused by REGW. -/
theorem exec_regw_badarg {s : State} (hs : mailboxFree s) (hunit : regUnits (s.arg 0) ≤ s.arg 1) :
    ∃ t, exec .regw s = .next t ∧ Answered t 3 0 := by
  have h : State.regw s = (s, some (bmBADARG, 0)) := by simp [State.regw, hunit]
  exact ⟨_, congrArg Host.Outcome.next (command_done hs _ _ h), answered_answer _ _ _⟩

/-- The host's arguments of REGW are read back. -/
theorem withArgs_arg (s : State) {code unit v : Nat} (hc : code < 2 ^ 64) (hu : unit < 2 ^ 64) (hv : v < 2 ^ 64) :
    (s.withArgs code unit v).arg 0 = code ∧ (s.withArgs code unit v).arg 1 = unit ∧ (s.withArgs code unit v).arg 2 = v := by
  simp [State.withArgs, State.arg, Tbl.get_set, toNat_word hc, toNat_word hu, toNat_word hv]

/-- A value that REGW writes for the host's own arguments (R417). -/
theorem command_withArgs {s : State} {code unit : Nat} (v : BitVec 64) (hs : mailboxFree s) (hc : code < 2 ^ 64) (hu : unit < 2 ^ 64)
    (hunit : unit < regUnits code) (hro : regRo code = false) (hok : ¬ writeRefused s code unit (regFields code v.toNat)) :
    Answered ((s.withArgs code unit v.toNat).command 0x04 false State.regw) 0 0 ∧
      RegisterWritten s ((s.withArgs code unit v.toNat).command 0x04 false State.regw) code unit v.toNat := by
  obtain ⟨h0, h1, h2⟩ := withArgs_arg s hc hu v.isLt
  have h := command_regw_writes (s := s.withArgs code unit v.toNat) hs (by rw [h0, h1]; exact hunit) (by rw [h0]; exact hro)
    (by rw [h0, h1, h2]; exact hok)
  rw [h0, h1, h2] at h
  exact h

/-- REGW of the host's own arguments, where the write is refused: nothing but the mailbox changes. -/
theorem command_withArgs_refused {s : State} {code unit st : Nat} (v : BitVec 64) (hs : mailboxFree s) (hc : code < 2 ^ 64)
    (hu : unit < 2 ^ 64) (hunit : unit < regUnits code) (hro : regRo code = false)
    (h : (s.withArgs code unit v.toNat).writeReg code unit v.toNat = (s.withArgs code unit v.toNat, st)) :
    Answered ((s.withArgs code unit v.toNat).command 0x04 false State.regw) st 0 ∧
      SameRegs s ((s.withArgs code unit v.toNat).command 0x04 false State.regw) := by
  obtain ⟨h0, h1, h2⟩ := withArgs_arg s hc hu v.isLt
  have hcmd : (s.withArgs code unit v.toNat).command 0x04 false State.regw = State.answer (s.withArgs code unit v.toNat) st 0 :=
    command_regw (t := s.withArgs code unit v.toNat) hs (by rw [h0, h1]; exact hunit) (by rw [h0]; exact hro) (by rw [h0, h1, h2]; exact h)
  have hargs : SameRegs s (s.withArgs code unit v.toNat) := fun _ _ _ => rfl
  rw [hcmd]
  exact ⟨answered_answer _ _ _, hargs.trans (sameRegs_answer _ _ _)⟩

end Sys2Proof.Machine

open Sys2Proof Sys2Proof.Machine

/-- Settles O53: each write that REGW makes sets its register alone, and the other commands are REGW of the host's own arguments. -/
theorem registerAccess : Obligations.RegisterAccess := by
  unfold Obligations.RegisterAccess
  refine ⟨fun s hs hunit hb hm => exec_regr hs hunit hb hm, fun s hs hunit => ⟨exec_regr_badarg hs hunit, exec_regw_badarg hs hunit⟩,
    fun s hs hunit hro hok => ⟨_, rfl, command_regw_writes hs hunit hro hok⟩, fun s v hs hv => ?_, fun s v hs hv => ?_,
    fun s v hs hv => ?_, fun s v hs hv => ?_, fun s ceiling tw n v htw hs => ?_, fun s v hs => ?_⟩
  · obtain ⟨ha, hw, -⟩ := command_withArgs (code := 0x01) (unit := 0) v hs (by decide) (by decide) (by decide) rfl (by simp [writeRefused, hv])
    exact ⟨_, rfl, ha, hw⟩
  · obtain ⟨ha, hsame⟩ := command_withArgs_refused (code := 0x01) (unit := 0) v hs (by decide) (by decide) (by decide) rfl
      (by rw [writeReg_thcfg, if_pos hv])
    exact ⟨_, rfl, ha, hsame 0x01 0 (by decide)⟩
  · obtain ⟨ha, hw, -⟩ := command_withArgs (code := 0x05) (unit := 0) v hs (by decide) (by decide) (by decide) rfl (by simp [writeRefused, hv])
    exact ⟨_, rfl, ha, hw.trans (by simp [regFields, field, bits])⟩
  · obtain ⟨ha, hsame⟩ := command_withArgs_refused (code := 0x05) (unit := 0) v hs (by decide) (by decide) (by decide) rfl
      (by rw [writeReg_fpool, if_pos (show (s.withArgs 0x05 0 v.toNat).anyTaskLive = true from hv)])
    exact ⟨_, rfl, ha, hsame 0x05 0 (by decide)⟩
  · cases ceiling
    · have hn : n % 8 < 8 := Nat.mod_lt n (by decide)
      intro code unit hok
      exact ⟨_, rfl, command_withArgs v hs (by omega) (by decide) (by rw [regUnits_pzh hn]; decide) (regRo_zone (by omega)) hok⟩
    · have hn : n % 4 < 4 := Nat.mod_lt n (by decide)
      intro code unit hok
      exact ⟨_, rfl, command_withArgs v hs (by omega) (by omega) (by rw [regUnits_pzc hn]; exact htw) (regRo_zone (by omega)) hok⟩
  · obtain ⟨ha, hw, -⟩ := command_withArgs (code := 0x45) (unit := 0) v hs (by decide) (by decide) (by decide) rfl (by simp [writeRefused])
    exact ⟨_, rfl, ha, hw.trans (by simp [regFields, field, bits])⟩
end

section
/-! PROOFS. The register file (R18). -/

namespace Sys2Proof.Machine

open Sys2Proof

/-- A write of x[d] leaves every other scalar register (R18). -/
theorem setX_sameX (s : State) (h : Nat) (d : BitVec 7) (v : Word) : SameX s (s.setX h d v) h d := by
  intro g r hne
  rw [State.x_setX, if_neg]
  rintro ⟨rfl, rfl, -⟩
  exact hne.elim (· rfl) (· rfl)

end Sys2Proof.Machine

open Sys2Proof Sys2Proof.Machine

/-- Settles O8: the rules of a register write, put together. -/
theorem registerFile : Obligations.RegisterFile := by
  unfold Obligations.RegisterFile
  intro s h v
  refine ⟨State.x_zero s h, State.setX_zero s h v, fun d hd => ⟨?_, setX_onlyHart s h d v, setX_sameX s h d v, setX_ctx s h d v⟩⟩
  rw [State.x_setX, if_pos ⟨rfl, rfl, hd⟩]
end

section
/-! PROOFS. What a step runs (R35, R71, R120, R192): the fetch of a word that is offered, the offer, and the scan that makes it. -/

namespace Sys2Proof.Machine

open Sys2Proof

/-! ### The fetch -/

/-- A meaning that looks at the state goes on with it. -/
theorem run_get_bind {β : Type} (f : State → M β) (s : State) : (get >>= f).run s = (f s).run s := rfl

/-- A fetch that translates to backed, unpoisoned bytes reads the word there (R120). -/
theorem fetchWord_run {u t : State} {h pa fl : Nat} (hpc : (u.pc h).toNat < 2 ^ 56)
    (htr : (translate (u.reqOf h) .fetch (u.pc h).toNat).run u = .ok (.ok pa fl) t) (hb : t.backed pa = true)
    (hb3 : t.backed (pa + 3) = true) (hp : t.poisoned pa 4 = false) :
    (fetchWord h).run u = .ok (BitVec.ofNat 32 (t.mem.readN pa 4)) t := by
  have hge : ¬ 2 ^ 56 ≤ (u.pc h).toNat := by omega
  unfold fetchWord
  rw [run_get_bind]
  dsimp only
  rw [if_neg hge, run_bind_ok htr]
  dsimp only
  rw [run_get_bind]
  simp only [hb, hb3, hp, Bool.and_self, Bool.not_true, Bool.false_eq_true, if_false]
  rfl

/-- The fetch of a word that is offered. -/
theorem Offered.fetch {z t : State} {h : Nat} {i : Instr} (ho : Offered z h t i) :
    ∃ w, (fetchWord h).run { z with turn := h } = .ok w t ∧ decode w = .ok i ∧ t.swapped exec h w = none := by
  obtain ⟨pa, fl, -, -, hpc, htr, hb, hb3, hp, -, -, hswap, hdec⟩ := ho
  exact ⟨_, fetchWord_run hpc htr hb hb3 hp, hdec, hswap⟩

/-- A translation for a hart changes caches and counters alone, its turn not among them. -/
theorem Offered.side {z t : State} {h : Nat} {i : Instr} (ho : Offered z h t i) : SideOnly { z with turn := h } t := by
  obtain ⟨pa, fl, -, -, -, htr, -⟩ := ho
  have hk := translate_keeps (r := ({ z with turn := h } : State).reqOf h) rfl .fetch (z.pc h).toNat { z with turn := h }
  unfold KeepsAt at hk
  rwa [htr] at hk

/-! ### The offer and the scan -/

/-- A hart that is offered a word runs its meaning in the state that the fetch leaves. -/
theorem Offered.runHart {z t : State} {h : Nat} {i : Instr} (ho : Offered z h t i) :
    ({ z with turn := h } : State).runHart exec h = exec i t := by
  obtain ⟨w, hfetch, hdec, hswap⟩ := ho.fetch
  obtain ⟨-, -, -, hpc0, -, -, -, -, -, hfront, hcmp, -, -⟩ := ho
  have hq : ((({ z with turn := h } : State).hart h).queue.find? fun e => e.actsAtIssue (({ z with turn := h } : State).ctx h)) = none := hfront
  have hpc : ¬ ({ z with turn := h } : State).pc h = 0 := hpc0
  simp only [State.runHart, hq, hpc, if_false, hfetch, hdec, hcmp, hswap]

/-- The scan of harts of which the first is offered a word. -/
theorem Offered.scan {z t : State} {h : Nat} {i : Instr} (ho : Offered z h t i) (c : Nat) (rest : List Nat) :
    z.scan exec c (h :: rest) = scanAfter c h rest (exec i t) := by
  have hrun := ho.runHart
  obtain ⟨-, -, hruns, -⟩ := ho
  rw [State.scan, hruns, hrun]
  unfold scanAfter
  cases exec i t <;> rfl

end Sys2Proof.Machine

open Sys2Proof Sys2Proof.Machine

/-- Settles O5: the scan runs the word that is offered, in the state its fetch leaves, and an event of the agenda comes first. -/
theorem stepRunsTheDecodedWord : Obligations.StepRunsTheDecodedWord := by
  unfold Obligations.StepRunsTheDecodedWord
  refine ⟨fun s z c h rest t i hagenda hcore horder hz ho => ⟨?_, ho.side, ho.side.mem, ?_⟩, fun z c h rest t i ho => ho.scan c rest,
    fun s i rest hagenda hok => ?_⟩
  · rw [← ho.scan c rest, hz, step, hagenda]
    simp only [hcore, horder]
  · exact congrArg State.turn ho.side.1
  · rw [step, hagenda]
    simp only [hok, if_true]
end

section
/-! PROOFS. No step stops the machine (R44, R48): every meaning, and every offer of a word, ends in a next state. -/

namespace Sys2Proof.Machine

open Sys2Proof

/-! ### The shared meanings -/

theorem branch_isNext (k : Bool) (w : Nat) (taken : Bool) (o : BitVec 11) (s : State) : IsNext (branch k w taken o s) := by
  unfold branch
  split <;> exact isNext_next _

theorem fpWrite_isNext (k : Bool) (w : Nat) (d : BitVec 7) (r : Nat × Ev) (s : State) : IsNext (fpWrite k w d r s) := by
  unfold fpWrite
  split <;> exact isNext_next _

theorem issueFront_isNext (i : Instr) (w : Nat) (act : QEntry → M Unit) (s : State) : IsNext (issueFront i w act s) :=
  issueWith_isNext _ _ _ _ _

theorem scalarLoad_isNext (k : Bool) (w : Nat) (d a : BitVec 7) (i : BitVec 11) (width : Nat) (signed : Bool) (s : State) :
    IsNext (scalarLoad k w d a i width signed s) := scalarWord_isNext _ _ _ _

theorem scalarStore_isNext (k : Bool) (w : Nat) (a b : BitVec 7) (i : BitVec 11) (width : Nat) (s : State) :
    IsNext (scalarStore k w a b i width s) := scalarWord_isNext _ _ _ _

theorem loadReserve_isNext (k : Bool) (wd : Nat) (d a : BitVec 7) (w : Nat) (s : State) : IsNext (loadReserve k wd d a w s) :=
  scalarWord_isNext _ _ _ _

theorem storeConditional_isNext (k : Bool) (wd : Nat) (d a b : BitVec 7) (w : Nat) (s : State) :
    IsNext (storeConditional k wd d a b w s) := scalarWord_isNext _ _ _ _

theorem scalarAtomic_isNext (k : Bool) (wd : Nat) (d a b : BitVec 7) (w : Nat) (signed : Bool) (op : Nat → Nat → Nat → Bool × Nat)
    (sat : Nat → Nat → Nat → Bool) (s : State) : IsNext (scalarAtomic k wd d a b w signed op sat s) := scalarWord_isNext _ _ _ _

/-! ### The shared steps of the host and the links -/

/-- An entry of a launch queue is answered, whatever it asks for (R379). -/
theorem serve_isNext (s : State) (q kind : Nat) (act : Nat → Nat × State) : IsNext (s.serve q kind act) := by
  unfold State.serve
  split
  · exact isNext_next _
  · split <;> exact isNext_next _

theorem doorbell_isNext (q : Nat) (v : BitVec 64) (s : State) : IsNext (execDoorbell q v s) := by
  unfold execDoorbell
  dsimp only
  (repeat' split) <;> exact isNext_next _

/-- A mailbox command of every code is answered (R416). -/
theorem mailbox_isNext (s : State) (code : Nat) : IsNext (s.mailbox code) := by
  unfold State.mailbox
  split <;> exact isNext_next _

/-- A write of every register offset goes on (R6). -/
theorem registerWrite_isNext (off : Nat) (v : BitVec 64) (s : State) : IsNext (execRegisterWrite off v s) := by
  refine isNext_ite _ _ _ (isNext_next _) (isNext_ite _ _ _ (isNext_ite _ _ _ (isNext_next _) (mailbox_isNext _ _)) ?_)
  refine isNext_ite _ _ _ (isNext_next _) (isNext_ite _ _ _ (isNext_next _) (isNext_ite _ _ _ (isNext_next _) ?_))
  exact isNext_ite _ _ _ (isNext_ite _ _ _ (doorbell_isNext _ _ _) (isNext_next _)) (isNext_next _)

theorem takePacket_isNext (s : State) (pkt : Packet) : IsNext (s.takePacket pkt) := by
  unfold State.takePacket
  dsimp only
  (repeat' split) <;> exact isNext_next _

/-- What a frame carries is taken, a packet among it (R440). -/
theorem handUp_isNext (s : State) (port : Nat) (msg : Carried) : IsNext (s.handUp port msg) := by
  unfold State.handUp
  split
  case h_2 => exact takePacket_isNext _ _
  all_goals exact isNext_next _

/-- A frame is taken, or dropped by the checks of its port (R440 to R442). -/
theorem ethernetFrame_isNext (port key pn : Nat) (frame : List (BitVec 8)) (pkt : FrameBody) (s : State) :
    IsNext (execEthernetFrame port key pn frame pkt s) := by
  unfold execEthernetFrame
  dsimp only
  repeat' split
  any_goals exact handUp_isNext _ _ _
  all_goals exact isNext_next _

/-! ### Every meaning -/

/-- Every instruction and every event has a next state.  A word is one of the shared meanings; an event is a nest of conditions with a next
state at every leaf. -/
theorem exec_isNext (i : Instr) (s : State) : IsNext (exec i s) := by
  unfold exec
  cases i
  -- words of the vector queue (R83 to R88)
  case vadd | vsub | vmul | vdiv | vmin | vmax | vaddVx | vsubVx | vmulVx | vdivVx | vminVx | vmaxVx | vfma | vfms | vfnma | vfnms | vfmaVx |
    vfmsVx | vfnmaVx | vfnmsVx | vsqrt | vrsqrt | vexp | vlog | vtanh | vsigmoid | vfloor | vround | vabs | vneg | vrelu | vmov | veq |
    vne | vlt | vle | veqVx | vneVx | vltVx | vleVx | vsel | qand | qor | qxor | qsub | qnot | qcpy | viadd | visub | vimul | vimulh |
    vimin | vimax | vidiv | virem | vand | vor | vxor | vsll | vsrl | vsra | viaddVx | vimulVx | vandVx | vorVx | vxorVx | vsllVx | vsrlVx |
    vsraVx | vcvtTo | vcvtFrom | vredsum | vredmax | vredmin | vredand | vredor | vredxor | vid | vslideup | vslidedn | vshuf | vcompress |
    vbcast | vhail | vbern | vseed | vtclr | vtget | vtset | vfgu | vld | vlds | vldx | vst | vstU | vsts | vstx | vstxU | vldw | vstw |
    vlda | vsta | vldc | vstc | vaadd | vaswap | vamax | vamin | vamaxn | vaminn | vaand | vaor | vaaddO | vaswapO | vamaxO | vaminO |
    vamaxnO | vaminnO | vaandO | vaorO | vsld | vsst | vbind | vunbind | hset | vscl | vldnp | mzero | mmulBf16 | mmulE4m3 | mmulE5m2 |
    mmulNp4 | mmulNp2 | mmulSpBf16 | mmulSpE4m3 | mmulSpE5m2 | mmulSpNp4 | mmulSpNp2 | mdrain | mdrainS | mdrainX | cpl | cpgo | cpv |
    vdfix =>
    exact issue_isNext _ _ _
  case mshape | mlds | mstat | dsweep => exact issueWith_isNext _ _ _ _ _
  case dmove | dfix | dack | dstat | nwr | npost | nwait | nctr | cgload | cgrun | cgwait | cgstat =>
    exact issueFront_isNext _ _ _ _
  -- words of the scalar front (R113 to R138)
  case add | sub | and | or | xor | sll | srl | sra | slt | sltn | seq | sne | mul | mulh | mulhn | div | divn | rem | remn | addi | andi |
    ori | xori | slti | sltni | slli | srli | srai | lim | apc =>
    exact alu_isNext _ _ _ _ _
  case fadd | fsub | fmul | fdiv | ffma | fsqrt | fmin | fmax | feq | flt | fle | fcvtI | fcvtN | fcvtFi | fcvtFn =>
    exact fpWrite_isNext _ _ _ _ _
  case beq | bne | blt | bge | bltn | bgen => exact branch_isNext _ _ _ _ _
  case jal | jalr => exact isNext_ite _ _ _ (isNext_next _) (isNext_next _)
  case ld64 | ld32 | ld32n | ld16 | ld16n | ld8 | ld8n => exact scalarLoad_isNext _ _ _ _ _ _ _ _
  case st64 | st32 | st16 | st8 => exact scalarStore_isNext _ _ _ _ _ _ _
  case lrx | lrx32 => exact loadReserve_isNext _ _ _ _ _ _
  case scx | scx32 => exact storeConditional_isNext _ _ _ _ _ _ _
  case aswap | aadd | aand | aor | axor | amax | amin | amaxn | aminn | acas | ainc | afab | aswap32 | aadd32 | aand32 | aor32 | axor32 |
    amax32 | amin32 | amaxn32 | aminn32 | acas32 | ainc32 | afab32 =>
    exact scalarAtomic_isNext _ _ _ _ _ _ _ _ _ _
  case yield | rdcyc | rdtime | rdctr | vdrain | fenceAcq | fenceRel | fence | trap | ebrk | vcfg | vgrant | wbase | barArrive | barWait |
    tskDef | tskDec | lnch | lwait | sndClaim | sndGive | sndStat =>
    exact scalarWord_isNext _ _ _ _
  case halt | tlbinv => exact supervisor_isNext _ _ _ (scalarWord_isNext _ _ _ _)
  case tret | cget => exact isNext_ite _ _ _ (isNext_next _) (scalarWord_isNext _ _ _ _)
  case cset => exact isNext_ite _ _ _ (isNext_next _) (isNext_ite _ _ _ (isNext_next _) (scalarWord_isNext _ _ _ _))
  -- events without a condition
  case layerTempReport | preemption | packageReset | powerLoss | summary | logread | regr | regw | thcfgWrite | primeZoneWrite | fpoolWrite |
    jscfgWrite | service | resume | tdump | dbgset | dbggo | harton | fwapply | netsync | commsync | atsInvalidate | prgSuccess |
    prgInvalidRequest | prgResponseFailure | getVersion | getCapabilities | negotiateAlgorithms | getDigests | getCertificate | challenge |
    getMeasurements | keyExchange | endSession | watchdogExpiry | fatalFault | patrolScrub | dewpointSample | coreGate | wakeComplete |
    ldoSettle | benlarLinkLoss | sack | peerTimeout | chunkLine | credit | rstrArrive | notAnInstruction | badcmd =>
    exact isNext_next _
  -- entries of a launch queue, registers and frames
  case launch | gdef | gedit | grun | gfree | kill => exact serve_isNext _ _ _ _
  case doorbell => exact doorbell_isNext _ _ _
  case registerWrite => exact registerWrite_isNext _ _ _
  case transportPacket => exact isNext_ite _ _ _ (takePacket_isNext _ _) (isNext_next _)
  case ethernetFrame => exact ethernetFrame_isNext _ _ _ _ _ _
  -- the engines of a core (09 to 13)
  case convoyCommit | gustCycle | remoteBufferMessage | remoteReply | layerPass | anvilFree | slewStep | copyRun | gatherRecord =>
    dsimp only [execConvoyCommit, execGustCycle, execRemoteBufferMessage, execRemoteReply, execLayerPass, execAnvilFree, execSlewStep, execCopyRun,
      execGatherRecord]
    (repeat' split) <;> exact isNext_next _
  -- towers (14)
  case driftCopyLine | switch | chainCompression =>
    dsimp only [execDriftCopyLine, execSwitch, execChainCompression]
    (repeat' split) <;> exact isNext_next _
  -- the scheduler, page requests and Sounding (16 to 18)
  case taskDispatch | ageWindowExpiry | spinBudgetExpiry | wake | taskEnd | launchEnd | graphNodeLaunch | soundingSliceForward |
    soundingMerge | pageRequest | instructionFetchFault =>
    dsimp only [execTaskDispatch, execAgeWindowExpiry, execSpinBudgetExpiry, execWake, execTaskEnd, execLaunchEnd, execGraphNodeLaunch,
      execSoundingSliceForward, execSoundingMerge, execPageRequest, execInstructionFetchFault]
    (repeat' split) <;> exact isNext_next _
  -- the health of the package (12, 20)
  case selfTest | fwstage | firmwareTowerApply | sensorReading | shelterPowerOff | shelterBoundExpiry | shelterReturn | parityError |
    eccError | contrailSample | gateEntryComplete =>
    dsimp only [execSelfTest, execFwstage, execFirmwareTowerApply, execSensorReading, execShelterPowerOff, execShelterBoundExpiry, execShelterReturn,
      execParityError, execEccError, execContrailSample, execGateEntryComplete]
    (repeat' split) <;> exact isNext_next _
  -- the host (17, 21)
  case badrecEntry | hostMemAccess | hostSnoop | finish | keyset =>
    dsimp only [execBadrecEntry, execHostMemAccess, execHostSnoop, execFinish, execKeyset]
    (repeat' split) <;> exact isNext_next _
  -- links and collectives (22, 24)
  case benlarFlit | packetSend | retransmissionTimeout | nakRetransmit | chunkStart | chunkEnd | adderLine | jetstreamTimeout =>
    dsimp only [execBenlarFlit, execPacketSend, execRetransmissionTimeout, execNakRetransmit, execChunkStart, execChunkEnd, execAdderLine,
      execJetstreamTimeout]
    (repeat' split) <;> exact isNext_next _

/-! ### The scan and the step -/

/-- A hart that is offered its word goes on: a reissued word, the end of its task, a fetch fault, the word's meaning, or a Contrail stop. -/
theorem runHart_isNext (s : State) (h : Nat) : IsNext (s.runHart exec h) := by
  unfold State.runHart
  split
  · exact isNext_next _
  · split
    · exact exec_isNext (.taskEnd h) s
    · split
      · exact exec_isNext (.instructionFetchFault h) s
      · next w t _ =>
        have hword : IsNext (match decode w with | .ok i => exec i t | .error _ => execNotAnInstruction w t) := by
          split
          · exact exec_isNext _ _
          · exact isNext_next _
        dsimp only
        split
        · split
          · exact isNext_next _
          · exact hword
        · exact isNext_ite _ _ _ hword (isNext_ite _ _ _ (isNext_next _) (isNext_next _))

/-- Every state has a next state. -/
theorem step_isNext (s : State) : IsNext (step s) := by
  obtain ⟨i, rest, -, h⟩ | ⟨-, -, h⟩ | ⟨c, -, -, h⟩ := step_cases s
  · rw [h]; exact isNext_ite _ _ _ (exec_isNext _ _) (isNext_next _)
  · rw [h]; exact isNext_next _
  · rw [h]; exact scan_isNext runHart_isNext _ _ _

/-- A run of every length goes on. -/
theorem safeFor_all (n : Nat) (s : State) : SafeFor n s := by
  induction n generalizing s with
  | zero => trivial
  | succ n ih =>
    obtain ⟨t, ht⟩ := step_isNext s
    exact ⟨t, ht, ih t⟩

end Sys2Proof.Machine

open Sys2Proof Sys2Proof.Machine

/-- Settles O4: every meaning has a next state, so has every step, and a run is a sequence of steps. -/
theorem everyStepGoesOn : Obligations.EveryStepGoesOn := by
  unfold Obligations.EveryStepGoesOn
  exact ⟨exec_isNext, safeFor_all⟩
end

section
/-! PROOFS. Rules of tables, of meanings that stop, and of writes at home, for the proofs about frames and traps below. -/

namespace Sys2Proof.Machine

open Sys2Proof

/-! ### Tables -/

/-- A lookup after a map that keeps keys. -/
theorem Tbl.find_map {α : Type} {g : Nat × α → Nat × α} (hg : ∀ e, (g e).1 = e.1) (t : Tbl α) (k : Nat) :
    Tbl.find (t.map g) k = (Tbl.find t k).map (fun v => (g (k, v)).2) := by
  induction t with
  | nil => rfl
  | cons e t ih =>
    obtain ⟨i, v⟩ := e
    have hi : g (i, v) = (i, (g (i, v)).2) := Prod.ext (hg (i, v)) rfl
    rw [List.map_cons, hi]
    simp only [Tbl.find]
    split
    · subst_vars; rfl
    · exact ih

/-- An entry after a map that keeps keys: what the default becomes does not matter where the map leaves it. -/
theorem Tbl.get_map {α : Type} {g : Nat × α → Nat × α} (hg : ∀ e, (g e).1 = e.1) (d : α) (t : Tbl α) (k : Nat)
    (hd : (g (k, d)).2 = d) : Tbl.get d (t.map g) k = (g (k, Tbl.get d t k)).2 := by
  rw [Tbl.get_eq_find, Tbl.get_eq_find, Tbl.find_map hg]
  cases Tbl.find t k
  · exact hd.symm
  · rfl

/-! ### Meanings that stop -/

/-- A word with K = 1 whose meaning stops where it began, with a trap that can be taken. -/
theorem scalarWord_trap {w cause : Nat} {val : Word} {s : State} {m : M Unit} (hs : s.stoppable s.turn = true)
    (h : m.run s = .error (.trap cause val false) s) : scalarWord true w s m = .next (s.trapEntry s.turn cause val) := by
  simp only [scalarWord, if_true, State.finish, h, State.stopped, hs, Bool.not_true, Bool.false_eq_true, if_false]
  rfl

/-- Bytes of a frame that are not poisoned can be read. -/
theorem needClean_run {s : State} {pa len : Nat} (h : s.poisoned pa len = false) : (needClean pa len).run s = .ok () s := by
  unfold needClean
  rw [run_get_bind]
  simp only [h, Bool.false_eq_true, if_false]
  rfl

/-- The 32-bit word of a number that fits, as a register holds it. -/
theorem setWidth_ofNat {n : Nat} (h : n < 2 ^ 32) : (BitVec.ofNat 32 n).setWidth 64 = word n := by
  apply BitVec.eq_of_toNat_eq
  simp only [BitVec.toNat_setWidth, BitVec.toNat_ofNat, word]
  omega

/-! ### Writes at home -/

/-- What a write at home may change (R129, R308, R412): memory and its poison, what a move forwards, and a reservation that it ends. -/
def WritesHome (s t : State) : Prop :=
  { t with harts := s.harts, towers := s.towers, mem := s.mem, poison := s.poison } = s ∧
  ∀ g, t.hart g = s.hart g ∨ t.hart g = { s.hart g with resv := none }

theorem writesHome_refl (s : State) : WritesHome s s := ⟨rfl, fun _ => .inl rfl⟩

theorem WritesHome.trans {s t u : State} (a : WritesHome s t) (b : WritesHome t u) : WritesHome s u := by
  obtain ⟨a1, a2⟩ := a
  obtain ⟨b1, b2⟩ := b
  refine ⟨?_, fun g => ?_⟩
  · rw [← a1, ← b1]
  · obtain hb | hb := b2 g <;> obtain ha | ha := a2 g <;> rw [hb, ha]
    · exact .inl rfl
    · exact .inr rfl
    · exact .inr rfl
    · exact .inr rfl

/-- A write ends the reservations on its block and changes no hart otherwise (R129). -/
theorem breakResv_hart (s : State) (own : Option Nat) (pa len g : Nat) :
    (s.breakResv own pa len).hart g = s.hart g ∨ (s.breakResv own pa len).hart g = { s.hart g with resv := none } := by
  unfold State.breakResv
  split
  · exact .inl rfl
  · simp only [State.hart]
    rw [Tbl.get_map]
    · dsimp only
      split
      · exact .inl rfl
      · split
        · split
          · exact .inr rfl
          · exact .inl rfl
        · exact .inl rfl
    · intro e
      split
      · rfl
      · split
        · split <;> rfl
        · rfl
    · dsimp only
      split <;> rfl

theorem writePa_writesHome (s : State) (own : Option Nat) (pa : Nat) (bs : List Byte) : WritesHome s (s.writePa own pa bs) := by
  have hheal : ∀ (u : State) (len : Nat), WritesHome u (u.healPoison pa len) := by
    intro u len
    unfold State.healPoison
    split
    · exact writesHome_refl u
    · exact ⟨rfl, fun _ => .inl rfl⟩
  have hbreak : ∀ (u : State) (len : Nat), WritesHome u (u.breakResv own pa len) := by
    intro u len
    refine ⟨?_, breakResv_hart u own pa len⟩
    unfold State.breakResv
    split <;> rfl
  have hforward : WritesHome s (s.forwardWrites pa bs) := ⟨rfl, fun _ => .inl rfl⟩
  have hmem : ∀ (u : State) (m : Memory), WritesHome u { u with mem := m } := fun _ _ => ⟨rfl, fun _ => .inl rfl⟩
  exact (hforward.trans (hbreak _ _)).trans ((hmem _ _).trans (hheal _ _))

theorem putFields_writesHome (s : State) (base : Nat) (fs : List (Nat × Nat × Nat)) : WritesHome s (s.putFields base fs) := by
  unfold State.putFields
  induction fs generalizing s with
  | nil => exact writesHome_refl s
  | cons f fs ih => exact (writePa_writesHome s none _ _).trans (ih _)

/-- Writes at home keep every hart but its reservation. -/
theorem WritesHome.ctx {s t : State} (h : WritesHome s t) (g : Nat) : t.ctx g = s.ctx g := by
  obtain hg | hg := h.2 g <;> rw [State.ctx, hg] <;> rfl

theorem WritesHome.task {s t : State} (h : WritesHome s t) (g : Nat) : (t.hart g).task = (s.hart g).task := by
  obtain hg | hg := h.2 g <;> rw [hg]

theorem WritesHome.queue {s t : State} (h : WritesHome s t) (g : Nat) : (t.hart g).queue = (s.hart g).queue := by
  obtain hg | hg := h.2 g <;> rw [hg]

theorem WritesHome.x {s t : State} (h : WritesHome s t) (g : Nat) (r : BitVec 7) : t.x g r = s.x g r := by
  simp only [State.x, h.ctx]

/-- A reservation that is lost stays lost. -/
theorem WritesHome.resv_none {s t : State} (h : WritesHome s t) {g : Nat} (hr : (s.hart g).resv = none) : (t.hart g).resv = none := by
  obtain hg | hg := h.2 g <;> rw [hg]
  exact hr

/-- Nor do they change a task, a core, or the time. -/
theorem WritesHome.tasks {s t : State} (h : WritesHome s t) : t.tasks = s.tasks := by
  have := congrArg State.tasks h.1
  exact this
theorem WritesHome.cores {s t : State} (h : WritesHome s t) : t.cores = s.cores := by
  have := congrArg State.cores h.1
  exact this
theorem WritesHome.launches {s t : State} (h : WritesHome s t) : t.launches = s.launches := by
  have := congrArg State.launches h.1
  exact this
theorem WritesHome.time {s t : State} (h : WritesHome s t) : t.time = s.time := by
  have := congrArg State.time h.1
  exact this

end Sys2Proof.Machine
end

section
/-! PROOFS. cget, and the window on the trap area (R26, R47, R133). -/

namespace Sys2Proof.Machine

open Sys2Proof

/-- cget of a register outside the window completes (R133). -/
theorem exec_cget {s : State} {d : BitVec 7} {sel : BitVec 8} (hsel : assignedSelect sel.toNat = true) (hlo : sel ≠ 0x3B)
    (hhi : sel ≠ 0x3C) (hq : (s.hart s.turn).queue = []) :
    exec (.cget true d sel) s = .next ((s.setX s.turn d (word (s.ctrl s.turn sel.toNat))).retire s.turn) := by
  have hlo' : (sel.toNat == 0x03B) = false := by simpa [← BitVec.toNat_inj] using hlo
  have hhi' : (sel.toNat == 0x03C) = false := by simpa [← BitVec.toNat_inj] using hhi
  change execCget true d sel s = _
  simp only [execCget, hsel, Bool.not_true, Bool.false_eq_true, if_false, hlo', hhi', Bool.or_false]
  refine scalarWord_ok ?_
  cases waitsForQueue sel.toNat
  · rfl
  · exact (run_bind_ok (needEmpty_run hq)).trans rfl

/-- The select of a half of the window. -/
def windowSel (hi : Bool) : BitVec 8 := if hi then 0x3C else 0x3B

theorem windowSel_assigned (hi : Bool) : assignedSelect (windowSel hi).toNat = true := by cases hi <;> rfl

theorem windowSel_anyMode (hi : Bool) : sWrite (windowSel hi).toNat = false := by cases hi <;> rfl

/-- In a handler cget of the window reads the entry that TDSEL names (R47). -/
theorem exec_cget_window {s : State} (r : BitVec 7) (hi : Bool) (hinh : (s.ctx s.turn).inh = true)
    (hp : s.poisoned (s.trapEntryAddr s.turn hi) 8 = false) :
    exec (.cget true r (windowSel hi)) s =
      .next ((s.setX s.turn r (word (s.mem.readN (s.trapEntryAddr s.turn hi) 8))).retire s.turn) := by
  change execCget true r (windowSel hi) s = _
  simp only [execCget, windowSel_assigned hi, Bool.not_true, Bool.false_eq_true, if_false]
  refine scalarWord_ok ?_
  simp only [hinh, Bool.not_true]
  cases hi <;> exact (run_bind_ok (needClean_run hp)).trans rfl

/-- The same for cset. -/
theorem exec_cset_window {s : State} (r : BitVec 7) (hi : Bool) (hinh : (s.ctx s.turn).inh = true) :
    exec (.cset true r (windowSel hi)) s =
      .next ((s.writePa none (s.trapEntryAddr s.turn hi) (toBytes 8 (s.x s.turn r).toNat)).retire s.turn) := by
  change execCset true r (windowSel hi) s = _
  simp only [execCset, windowSel_assigned hi, windowSel_anyMode hi, Bool.not_true, Bool.false_and, Bool.false_eq_true, if_false]
  refine scalarWord_ok ?_
  simp only [hinh, Bool.not_true]
  cases hi <;> rfl

/-- Outside a handler cget of the window raises OPND (R26). -/
theorem exec_cget_window_opnd {s : State} {r : BitVec 7} {hi : Bool} {w : Word32} (hs : s.stoppable s.turn = true)
    (hinh : (s.ctx s.turn).inh = false) (hw : encode (.cget true r (windowSel hi)) = some w) :
    exec (.cget true r (windowSel hi)) s = .next (s.trapEntry s.turn cOPND (w.setWidth 64)) := by
  have hlt : wordI 0x1E true r.toNat 0 (windowSel hi).toNat < 2 ^ 32 := by
    have := r.isLt
    have := (windowSel hi).isLt
    rw [Laws.wordI_eq]
    exact Laws.wordR_lt true (by decide) (by omega) (by omega) (by omega) (by omega)
  obtain rfl : BitVec.ofNat 32 (wordI 0x1E true r.toNat 0 (windowSel hi).toNat) = w := Option.some.inj hw
  rw [setWidth_ofNat hlt]
  change execCget true r (windowSel hi) s = _
  simp only [execCget, windowSel_assigned hi, Bool.not_true, Bool.false_eq_true, if_false]
  refine scalarWord_trap hs ?_
  simp only [hinh]
  cases hi <;> rfl

/-- The same for cset. -/
theorem exec_cset_window_opnd {s : State} {r : BitVec 7} {hi : Bool} {w : Word32} (hs : s.stoppable s.turn = true)
    (hinh : (s.ctx s.turn).inh = false) (hw : encode (.cset true r (windowSel hi)) = some w) :
    exec (.cset true r (windowSel hi)) s = .next (s.trapEntry s.turn cOPND (w.setWidth 64)) := by
  have hlt : wordI 0x1F true 0 r.toNat (windowSel hi).toNat < 2 ^ 32 := by
    have := r.isLt
    have := (windowSel hi).isLt
    rw [Laws.wordI_eq]
    exact Laws.wordR_lt true (by decide) (by omega) (by omega) (by omega) (by omega)
  obtain rfl : BitVec.ofNat 32 (wordI 0x1F true 0 r.toNat (windowSel hi).toNat) = w := Option.some.inj hw
  rw [setWidth_ofNat hlt]
  change execCset true r (windowSel hi) s = _
  simp only [execCset, windowSel_assigned hi, windowSel_anyMode hi, Bool.not_true, Bool.false_and, Bool.false_eq_true, if_false]
  refine scalarWord_trap hs ?_
  simp only [hinh]
  cases hi <;> rfl

/-- Writes at home and the retirement of a word of hart h change no more than a memory word does. -/
theorem WritesHome.memWord_retire {s t : State} (hw : WritesHome s t) (h : Nat) : MemWord s (t.retire h) h := by
  obtain ⟨r1, r2, r3⟩ := retireTo_onlyHart t h (t.pc h + 4)
  obtain ⟨w1, w2⟩ := hw
  refine ⟨?_, fun c => ?_, fun g hg => ?_⟩
  · rw [← w1, ← r1]
    rfl
  · have hc : t.core c = s.core c := by rw [State.core, WritesHome.cores ⟨w1, w2⟩, State.core]
    rw [← hc, ← r2 c]
    rfl
  · have e : (t.retire h).hart g = t.hart g := r3 g hg
    obtain hg | hg := w2 g <;> rw [e, hg]

end Sys2Proof.Machine

open Sys2Proof Sys2Proof.Machine

/-- Settles O20: outside the window the word is a write of x[d]; in it a read or a write of the entry that TDSEL names. -/
theorem controlReads : Obligations.ControlReads := by
  unfold Obligations.ControlReads
  refine ⟨fun s d sel hsel hlo hhi hq => ⟨_, exec_cget hsel hlo hhi hq, setX_retire s s.turn d _⟩,
    fun s r hi hs => ⟨fun hinh => ⟨?_, ?_⟩, fun hinh => ⟨?_, ?_⟩⟩⟩
  · exact fun hp => ⟨_, exec_cget_window r hi hinh hp, setX_retire s s.turn r _⟩
  · have hw := writePa_writesHome s none (s.trapEntryAddr s.turn hi) (toBytes 8 (s.x s.turn r).toNat)
    refine ⟨_, exec_cset_window r hi hinh, sameMemBut_writeBytes (writePa_mem s none _ _), hw.memWord_retire s.turn, fun q => ?_,
      fun hm => holds_writeBytes hm (writePa_mem s none _ _), ?_⟩
    · simp only [State.retire, retireTo_x, hw.x, ne_eq, not_true, and_false, if_false]
    · rw [State.pc, State.ctx, retire_hart]
      exact congrArg (· + 4) (congrArg Ctx.pc (hw.ctx s.turn))
  · exact fun w hw => exec_cget_window_opnd hs hinh hw
  · exact fun w hw => exec_cset_window_opnd hs hinh hw

end

section
/-! PROOFS. The commit of the last element of a convoy (R37, R38, R194). -/

namespace Sys2Proof.Machine

open Sys2Proof

/-- A convoy of which every element has committed ends, whatever is left of its group (R37). -/
theorem commitFrom_spent {s : State} {h span : Nat} (n : Nat) (hvs : span ≤ (s.ctx h).vs) : s.commitFrom h span n = s.endConvoy h := by
  cases n <;> rw [State.commitFrom] <;> simp only [hvs, if_true]

/-- The last element of a convoy, which commits without a stop and on its own core. -/
theorem commitFrom_last {s u : State} {h span i : Nat} (n : Nat) (hvs : (s.ctx h).vs = i) (hspan : span = i + 1) (hdbg : (s.hart h).dbg = false)
    (helem : (elementStep h i).run s = .ok () u) (hhome : s.remoteTargets h i = []) :
    s.commitFrom h span (1 + n) = (u.committed h i).endConvoy h := by
  have hstop : (if (s.hart h).startVs ≤ i then s.comparator h 2 (s.cp h) (some i) else none) = none := by
    simp only [State.comparator, hdbg, Bool.not_false, Bool.true_or, if_true, ite_self]
  have hspent : span ≤ ((u.committed h i).ctx h).vs := by
    rw [hspan, State.ctx, State.committed, State.updHart_eq, State.hart_setHart, if_pos rfl]
  subst hvs
  rw [Nat.add_comm, State.commitFrom]
  simp only [hstop, helem, hhome, hspan, Nat.not_succ_le_self, if_false]
  exact commitFrom_spent n (hspan ▸ hspent)

/-- A group of the convoy, once its checks and the acceptance of its copy words have passed in s1, begins to commit. -/
theorem commitGroup_begun {s s0 s1 : State} {h : Nat}
    (hfirst : if (s.ctx h).vs = (s.hart h).startVs then
        (∃ v, (firstChecks h (convoySpan (s.ctx h) (firstConvoy (s.hart h).queue))).run s = .ok () v) ∧
        s.openMembersOf h (convoySpan (s.ctx h) (firstConvoy (s.hart h).queue)) (firstConvoy (s.hart h).queue).zipIdx = (s0, true) ∧
        s1 = s0.takeSnap h
      else s1 = s)
    (hspan : (s.ctx h).vs < convoySpan (s.ctx h) (firstConvoy (s.hart h).queue)) :
    let s2 := ({ s1 with fresh := s1.fresh + 1 } : State).count (coreOf h) 5 (s1.groupCycles h)
    let s3 := if s2.reachesBuffers h (s.ctx h).vs (coreOf h) then s2.countConflicts (coreOf h) else s2
    ∃ n, s.commitGroup h = s3.commitFrom h (convoySpan (s.ctx h) (firstConvoy (s.hart h).queue)) (1 + n) := by
  have hle : ¬ convoySpan (s.ctx h) (firstConvoy (s.hart h).queue) ≤ (s.ctx h).vs := Nat.not_le.mpr hspan
  unfold State.commitGroup
  by_cases hvs : (s.ctx h).vs = (s.hart h).startVs
  · rw [if_pos hvs] at hfirst
    simp only [State.ctx] at *
    obtain ⟨⟨v, hchecks⟩, hopen, rfl⟩ := hfirst
    simp only [hvs, if_true] at hchecks hopen hle ⊢
    simp only [hchecks, hopen, hle, Bool.not_true, Bool.false_eq_true, if_false]
    exact ⟨_, rfl⟩
  · rw [if_neg hvs] at hfirst
    subst hfirst
    simp only [State.ctx] at *
    simp only [hvs, hle, Bool.not_true, Bool.false_eq_true, if_false]
    exact ⟨_, rfl⟩

/-- A released convoy at home whose groups have settled commits a group. -/
theorem exec_convoyCommit {s : State} {h : Nat} (hrel : (s.hart h).released = true) (hhome : (s.hart h).remote = .idle)
    (hq : (s.hart h).queue ≠ []) (hset : s.settlesOnly h = false) : exec (.convoyCommit h) s = .next (s.commitGroup h) := by
  change execConvoyCommit h s = _
  have hne : (s.hart h).queue.isEmpty = false := by simpa using hq
  simp only [execConvoyCommit, hrel, hhome, hne, hset]
  rfl

/-- The hart once its convoy has ended: CP past it, VS zero, nothing released (R37). -/
theorem endConvoy_hart (s : State) (h : Nat) :
    ((s.endConvoy h).ctx h).vs = 0 ∧ ((s.endConvoy h).hart h).released = false ∧ ((s.endConvoy h).hart h).snap = none ∧
    ((s.endConvoy h).hart h).queue = dropDone 33 (afterFirst (s.hart h).queue) ∧ ((s.endConvoy h).ctx h).x = (s.ctx h).x := by
  simp [State.endConvoy, State.landConvoy, State.updHart_eq, State.ctx]

/-- The end of a convoy leaves the other harts, memory, and all of the cores but interlocks. -/
theorem endConvoy_others (s : State) (h : Nat) :
    (s.endConvoy h).mem = s.mem ∧ (∀ k, { (s.endConvoy h).core k with interlock := (s.core k).interlock } = s.core k) ∧
    ∀ g, g ≠ h → (s.endConvoy h).hart g = s.hart g := by
  refine ⟨rfl, fun k => ?_, fun g hg => ?_⟩
  · by_cases hk : coreOf h = k
    · subst hk
      simp [State.endConvoy, State.landConvoy, State.updHart_eq]
    · simp [State.endConvoy, State.landConvoy, State.updHart_eq, hk]
  · have := Ne.symm hg
    simp [State.endConvoy, State.landConvoy, State.updHart_eq, this]

end Sys2Proof.Machine

open Sys2Proof Sys2Proof.Machine

/-- Settles O35: the group that begins at VS commits the last element and then ends the convoy. -/
theorem convoyCommitEnds : Obligations.ConvoyCommitEnds := by
  unfold Obligations.ConvoyCommitEnds
  intro s s0 s1 u h hrel hhome hq hset c span hfirst hdbg hvs hspan s2 s3 helem hremote
  have hharts : s3.hart h = s1.hart h := by
    simp only [s3]
    split <;> rfl
  obtain ⟨n, hgroup⟩ := commitGroup_begun hfirst (Nat.lt_of_succ_le (Nat.le_of_eq hspan.symm))
  have hlast : s.commitGroup h = (u.committed h c.vs).endConvoy h :=
    hgroup.trans (commitFrom_last n (by rw [State.ctx, hharts]; exact hvs) hspan (by rw [hharts]; exact hdbg) helem hremote)
  obtain ⟨hvs0, hrel0, hsnap0, hqueue, hx⟩ := endConvoy_hart (u.committed h c.vs) h
  obtain ⟨hmem, hcores, hharts'⟩ := endConvoy_others (u.committed h c.vs) h
  refine ⟨_, exec_convoyCommit hrel hhome hq hset, ?_⟩
  rw [hlast]
  refine ⟨hvs0, hrel0, hsnap0, ?_, hmem, hcores, fun g hg => ?_, ?_⟩
  · simpa [State.committed, State.updHart_eq] using hqueue
  · have := Ne.symm hg
    simpa [State.committed, State.updHart_eq, this] using hharts' g hg
  · simpa [State.committed, State.updHart_eq, State.ctx] using hx

end

section
/-! PROOFS. A precise stop, the way into a trap handler, and the end of a task (R39, R45, R48, R374). -/

namespace Sys2Proof.Machine

open Sys2Proof

/-! ### Precise stops -/

/-- Nothing of the package but harts and cores differs. -/
def SameRest (s t : State) : Prop := { t with harts := s.harts, cores := s.cores } = s

theorem SameRest.trans {s t u : State} (a : SameRest s t) (b : SameRest t u) : SameRest s u := by
  unfold SameRest at *
  rw [← a, ← b]

theorem updHart_sameRest (s : State) (h : Nat) (f : Hart → Hart) : SameRest s (s.updHart h f) := rfl
theorem updCore_sameRest (s : State) (c : Nat) (f : Core → Core) : SameRest s (s.updCore c f) := rfl

theorem core_setHart (s : State) (h : Nat) (v : Hart) (c : Nat) : (s.setHart h v).core c = s.core c := rfl

theorem withdraw_hart (s : State) (h : Nat) :
    (s.withdraw h).hart h =
      { s.hart h with remote := ((s.withdraw h).hart h).remote, guardPending := ((s.withdraw h).hart h).guardPending } := by
  unfold State.withdraw
  split
  · rfl
  · rw [State.updHart_eq, State.hart_setHart, if_pos rfl]
    rfl

/-- A withdrawal changes no other hart. -/
theorem withdraw_others (s : State) {h g : Nat} (hg : g ≠ h) : (s.withdraw h).hart g = s.hart g := by
  unfold State.withdraw
  split
  · rfl
  · rw [State.updHart_eq, State.hart_setHart, if_neg (Ne.symm hg)]
    rfl

/-- Of the package it changes that hart and the inboxes. -/
theorem withdraw_rest (s : State) (h : Nat) :
    SameRest s (s.withdraw h) ∧ ∀ c, { (s.withdraw h).core c with inbox := (s.core c).inbox } = s.core c := by
  unfold State.withdraw
  split
  · exact ⟨rfl, fun _ => rfl⟩
  · refine ⟨rfl, fun c => ?_⟩
    have hc : Tbl.get Core.reset (s.cores.map (fun e => (e.1, { e.2 with inbox := e.2.inbox.filter (· != h) }))) c =
        { s.core c with inbox := (s.core c).inbox.filter (· != h) } := 
      Tbl.get_map (g := fun e : Nat × Core => (e.1, { e.2 with inbox := e.2.inbox.filter (· != h) })) (fun _ => rfl) _ _ _ rfl
    simp only [State.updHart_eq, State.core, State.setHart_cores] at hc ⊢
    rw [hc]

/-- The end of a convoy's flight changes its hart. -/
theorem landConvoy_hart (s : State) (h g : Nat) :
    (s.landConvoy h).hart g = if h = g then
      { s.hart h with
        released := false, readyAt := 0, groups := (s.hart h).groups.take (s.hart h).target, unordered := [], snap := none, vwait := .none,
        vspin := 0 } else s.hart g :=
  State.hart_setHart s h g _

/-- Of the package a stop changes that hart and of the cores their counters, interlocks and inboxes. -/
theorem stopHart_rest (s : State) (h : Nat) :
    SameRest s (s.stopHart h) ∧
    ∀ c, { (s.stopHart h).core c with ctr := (s.core c).ctr, interlock := (s.core c).interlock, inbox := (s.core c).inbox } = s.core c := by
  obtain ⟨hw, hc⟩ := withdraw_rest s h
  refine ⟨((hw.trans ((updHart_sameRest _ _ _).trans (updCore_sameRest _ _ _))).trans (updHart_sameRest _ _ _)).trans (updCore_sameRest _ _ _),
    fun c => ?_⟩
  rw [← hc c]
  simp only [State.stopHart, State.landConvoy, State.updHart_eq, State.count_eq, State.core_updCore, core_setHart]
  split
  · subst_vars; rfl
  · rfl

theorem stopHart_hart (s : State) (h : Nat) :
    (s.stopHart h).hart h =
      { s.hart h with
        remote := ((s.withdraw h).hart h).remote, guardPending := ((s.withdraw h).hart h).guardPending, released := false, readyAt := 0,
        groups := (s.hart h).groups.take (s.hart h).target, unordered := [], snap := none, vwait := .none, vspin := 0,
        ctx := (s.ctx h).enqueued (s.hart h).queue, resv := none, waiting := .none, spin := 0 } := by
  have hw := withdraw_hart s h
  simp only [State.stopHart, State.updHart_eq, count_hart, State.hart_setHart, landConvoy_hart, if_true, State.ctx]
  rw [hw]

theorem stopHart_others (s : State) {h g : Nat} (hg : g ≠ h) : (s.stopHart h).hart g = s.hart g := by
  rw [← withdraw_others s hg]
  simp only [State.stopHart, State.updHart_eq, count_hart, State.hart_setHart, landConvoy_hart, if_neg (Ne.symm hg)]

theorem preciseStop_dump (s : State) (h : Nat) : (s.preciseStop h).2 = ((s.hart h).queue, (s.hart h).openConvoy) := rfl

theorem preciseStop_hart (s : State) (h : Nat) :
    (s.preciseStop h).1.hart h = { (s.stopHart h).hart h with queue := [], openConvoy := false, aheadAt := 0 } := by
  simp [State.preciseStop, State.updHart_eq]

theorem preciseStop_others (s : State) {h g : Nat} (hg : g ≠ h) : (s.preciseStop h).1.hart g = s.hart g := by
  rw [← stopHart_others s hg]
  simp [State.preciseStop, State.updHart_eq, Ne.symm hg]

theorem preciseStop_rest (s : State) (h : Nat) : SameRest s (s.preciseStop h).1 :=
  (stopHart_rest s h).1.trans ((updHart_sameRest _ _ _).trans (updCore_sameRest _ _ _))

/-! ### The way into a handler -/

/-- The context of a hart that enters its handler (R45). -/
def Ctx.trapped (c : Ctx) (cp : Word) (cause : Nat) (val : Word) : Ctx :=
  { c with epc := c.pc, ecp := cp, evs := word c.vs, ecause := word cause, evalr := val, inh := true, pc := c.tvec, vs := 0 }

theorem updTask_harts (s : State) (n : Nat) (f : Task → Task) : (s.updTask n f).harts = s.harts := by
  unfold State.updTask
  split <;> rfl

/-- What a trap writes to the trap area of hart h, whose dump is q (R372). -/
def State.putTrapArea (s : State) (h : Nat) (q : List QEntry) : State :=
  s.putFields (s.ctx h).frm
    ([(trapArea, 8, (s.ctx h).vt), (trapArea + 8, 8, (s.ctx h).vl), (trapArea + 16, 8, (s.ctx h).wb), (trapArea + 24, 8, (s.ctx h).enq)] ++
      (List.range 32).map (fun k => (trapDump + 16 * k, 16, ((q[k]?).map (·.dump)).getD 0)))

/-- What the scheduler's entry notes of the dump. -/
def State.noteTrap (s : State) (h : Nat) (q : List QEntry) (isOpen : Bool) : State :=
  match (s.hart h).task with
  | some tid => s.updTask tid (fun t => { t with trapAddrs := q.map QEntry.addr, trapOpen := isOpen })
  | none => s

theorem noteTrap_hart (s : State) (h : Nat) (q : List QEntry) (isOpen : Bool) (g : Nat) : (s.noteTrap h q isOpen).hart g = s.hart g := by
  unfold State.noteTrap
  split
  · simp only [State.hart, updTask_harts]
  · rfl

/-- A trap that a handler takes stops its hart, writes the trap area and enters the handler. -/
theorem trapEntry_handled {s : State} {h : Nat} (cause : Nat) (val : Word) (hs : s.stoppable h = true) (htv : (s.ctx h).tvec ≠ 0)
    (hinh : (s.ctx h).inh = false) :
    s.trapEntry h cause val = (((s.preciseStop h).1.putTrapArea h (s.hart h).queue).noteTrap h (s.hart h).queue (s.hart h).openConvoy).updCtx h
      (fun c => c.trapped (s.cp h) cause val) := by
  unfold State.trapEntry
  simp only [hs, htv, hinh, Bool.not_true, Bool.or_false, decide_false, Bool.false_eq_true, if_false]
  rewrite [preciseStop_dump]
  unfold State.noteTrap State.putTrapArea
  generalize State.putFields _ _ _ = u
  cases (u.hart h).task <;> rfl

/-- With no handler, or in one, the task ends (R48). -/
theorem trapEntry_unhandled {s : State} {h : Nat} (cause : Nat) (val : Word) (hs : s.stoppable h = true)
    (hend : (s.ctx h).tvec = 0 ∨ (s.ctx h).inh = true) : s.trapEntry h cause val = s.terminate h cause val := by
  have hend' : (decide ((s.ctx h).tvec = 0) || (s.ctx h).inh) = true := by simpa using hend
  unfold State.trapEntry
  simp only [hs, hend', Bool.not_true, Bool.false_eq_true, if_false, if_true]

/-! ### What records leave -/

/-- The scheduler's entries and the ended counts of launches are what they were. -/
def KeepsEntries (s t : State) : Prop :=
  t.tasks = s.tasks ∧ ∀ n, (t.launch n).map (·.ended) = (s.launch n).map (·.ended)

theorem keepsEntries_composes : Composes KeepsEntries where
  refl _ := ⟨rfl, fun _ => rfl⟩
  trans a b := ⟨b.1.trans a.1, fun n => (b.2 n).trans (a.2 n)⟩

theorem keepsEntries_of_eq {s t : State} (ht : t.tasks = s.tasks) (hl : t.launches = s.launches) : KeepsEntries s t :=
  ⟨ht, fun n => by simp only [State.launch, hl]⟩

theorem WritesHome.keepsEntries {s t : State} (h : WritesHome s t) : KeepsEntries s t := keepsEntries_of_eq h.tasks h.launches

theorem SideOnly.keepsEntries {s t : State} (h : SideOnly s t) : KeepsEntries s t :=
  keepsEntries_of_eq (by have := congrArg State.tasks h.1; exact this) (by have := congrArg State.launches h.1; exact this)

theorem Keeps.mono {α : Type} {P Q : State → State → Prop} {m : M α} (hm : Keeps P m) (hPQ : ∀ {s t}, P s t → Q s t) : Keeps Q m := by
  intro s
  have := hm s
  unfold KeepsAt at *
  split <;> simp_all

/-- Running such a meaning keeps the entries, whatever way it ends. -/
theorem runM_keepsEntries {α : Type} {m : M α} (hm : Keeps KeepsEntries m) (s : State) : KeepsEntries s (s.runM m) := by
  have := hm s
  unfold KeepsAt at this
  unfold State.runM
  split
  · simp_all
  · exact keepsEntries_of_eq rfl rfl

theorem evalM_keepsEntries {α : Type} {m : M α} (hm : Keeps KeepsEntries m) (s : State) (d : α) : KeepsEntries s (s.evalM d m).2 := by
  have := hm s
  unfold KeepsAt at this
  unfold State.evalM
  split
  · simp_all
  · exact keepsEntries_of_eq rfl rfl

theorem updLaunch_keepsEntries (s : State) (n : Nat) {f : Launch → Launch} (hf : ∀ l, (f l).ended = l.ended := by intro; rfl) :
    KeepsEntries s (s.updLaunch n f) := by
  refine ⟨?_, fun m => ?_⟩
  · unfold State.updLaunch
    split <;> rfl
  · rw [State.launch_updLaunch]
    split
    · subst_vars
      simp only [Option.map_map, Function.comp_def, hf]
    · rfl

theorem msi_keepsEntries (s : State) (v : Nat) : KeepsEntries s (s.msi v) := by
  unfold State.msi
  split
  · exact keepsEntries_of_eq rfl rfl
  · split <;> exact keepsEntries_of_eq rfl rfl

theorem logError_keepsEntries (s : State) (lno rec : Nat) : KeepsEntries s (s.logError lno rec) := by
  unfold State.logError State.logHealth
  dsimp only
  split
  · refine keepsEntries_composes.trans ?_ (msi_keepsEntries _ _)
    exact keepsEntries_of_eq rfl rfl
  · exact keepsEntries_of_eq rfl rfl

theorem requestPage_keepsEntries (s : State) (lno : Nat) (p : PageAddr) (need : Nat) (w : Waiter) :
    KeepsEntries s (s.requestPage lno p need w) := by
  unfold State.requestPage
  split
  · exact keepsEntries_of_eq rfl rfl
  · split <;> exact keepsEntries_of_eq rfl rfl

theorem writePieces_writesHome (s : State) (own : Option Nat) (ps : List Piece) (v : Nat) : WritesHome s (s.writePieces own ps v) := by
  induction ps generalizing s v with
  | nil => exact writesHome_refl s
  | cons p ps ih => exact (writePa_writesHome s own _ _).trans (ih _ _)

theorem ringPut_keepsEntries {r : Req} (hr : r.keep = none) (ring logn size rec : Nat) : Keeps KeepsEntries (ringPut r ring logn size rec) := by
  have hres : ∀ a va len, Keeps KeepsEntries (resolve r a va len) := fun a va len => (resolve_keeps hr a va len).mono SideOnly.keepsEntries
  have hP := keepsEntries_composes
  unfold ringPut
  refine keeps_bind hP (hres _ _ _) (fun o => ?_)
  split
  · exact keeps_pure hP _
  · refine keeps_get_bind hP (fun s => ?_)
    split
    · exact hP.refl s
    · dsimp only
      split
      · refine keeps_bind hP (hres _ _ _) (fun o => ?_) s
        split
        · exact keeps_pure hP _
        · exact keeps_bind hP (keeps_modify (fun t => ((writePa_writesHome t none _ _).trans (writePieces_writesHome _ none _ _)).keepsEntries))
            (fun _ => keeps_pure hP _)
      · exact keeps_bind hP (keeps_modify (fun t => (writePa_writesHome t none _ _).keepsEntries)) (fun _ => keeps_pure hP _) s

theorem flushList_keepsEntries (lno : Nat) (rs : List ErrRec) : Keeps KeepsEntries (flushList lno rs) := by
  have hP := keepsEntries_composes
  induction rs with
  | nil => exact keeps_pure hP _
  | cons r rs ih =>
    refine keeps_get_bind hP (fun s => ?_)
    split
    · exact hP.refl s
    · refine keeps_bind hP (ringPut_keepsEntries rfl _ _ _ _) (fun o => ?_) s
      split
      · exact keeps_bind hP (keeps_modify (fun t => updLaunch_keepsEntries t lno)) (fun _ => ih)
      · exact keeps_modify (fun t => hP.trans (updLaunch_keepsEntries t lno) (requestPage_keepsEntries _ _ _ _ _))
      · exact keeps_bind hP (keeps_modify (fun t => hP.trans (logError_keepsEntries t lno r) (updLaunch_keepsEntries _ lno))) (fun _ => ih)

theorem flushErrors_keepsEntries (s : State) (lno : Nat) : KeepsEntries s (s.flushErrors lno) := by
  unfold State.flushErrors
  split
  · split
    · exact keepsEntries_composes.refl s
    · exact runM_keepsEntries (flushList_keepsEntries _ _) s
  · exact keepsEntries_composes.refl s

theorem errorRecord_keepsEntries (s : State) (lno cause : Nat) (ev pc cp : Word) (vs task va info : Nat) :
    KeepsEntries s (s.errorRecord lno cause ev pc cp vs task va info) := by
  have hP := keepsEntries_composes
  unfold State.errorRecord
  split
  · exact hP.refl s
  · dsimp only
    split
    · exact hP.trans (updLaunch_keepsEntries s lno) (logError_keepsEntries _ _ _)
    · exact hP.trans (hP.trans (updLaunch_keepsEntries s lno) (updLaunch_keepsEntries _ lno)) (flushErrors_keepsEntries _ _)

theorem closeStrip_keepsEntries (lno hart groups : Nat) (c : Ctx) (fin : Bool) : Keeps KeepsEntries (closeStrip lno hart groups c fin) := by
  have hP := keepsEntries_composes
  refine keeps_get_bind hP (fun s => ?_)
  split
  · exact hP.refl s
  · split
    · exact hP.refl s
    · refine keeps_bind hP (ringPut_keepsEntries rfl _ _ _ _) (fun o => ?_) s
      split <;> exact keeps_pure hP _

/-! ### The end of a task -/

theorem latchRecords_keepsEntries (s : State) (lno t : Nat) (c : Ctx) (cp : Word) : KeepsEntries s (s.latchRecords lno t c cp) := by
  have hP := keepsEntries_composes
  have hrec : ∀ (u : State) cause ev, KeepsEntries u (u.errorRecord lno cause ev c.pc cp c.vs t 0 0) :=
    fun u _ _ => errorRecord_keepsEntries u _ _ _ _ _ _ _ _ _
  unfold State.latchRecords
  cases c.guard <;> cases c.copyFault <;> cases c.bovf <;> dsimp only
  · exact hP.refl s
  · exact hrec _ _ _
  · exact hrec _ _ _
  · exact hP.trans (hrec _ _ _) (hrec _ _ _)
  · exact hrec _ _ _
  · exact hP.trans (hrec _ _ _) (hrec _ _ _)
  · exact hP.trans (hrec _ _ _) (hrec _ _ _)
  · exact hP.trans (hrec _ _ _) (hP.trans (hrec _ _ _) (hrec _ _ _))

theorem loseOwed_keepsEntries (s : State) (lno tw : Nat) (c : Ctx) : KeepsEntries s (s.loseOwed lno tw c) := by
  unfold State.loseOwed
  split
  · exact keepsEntries_composes.refl s
  · split <;> exact keepsEntries_of_eq rfl rfl

theorem dropTransfers_keepsEntries (s : State) (tid : Nat) (on : Option Nat) : KeepsEntries s (s.dropTransfers tid on) := by
  have hP := keepsEntries_composes
  have hctr : ∀ (gs : List Gather) (u : State), KeepsEntries u (gs.foldl (fun s g => s.decCtr g.lno g.lctr) u) := by
    intro gs
    induction gs with
    | nil => exact hP.refl
    | cons g gs ih =>
      refine fun u => hP.trans ?_ (ih _)
      unfold State.decCtr
      dsimp only
      split
      · exact hP.refl u
      · exact updLaunch_keepsEntries u _
  unfold State.dropTransfers
  dsimp only
  split
  · exact keepsEntries_of_eq rfl rfl
  · exact hP.trans (keepsEntries_of_eq rfl rfl) (hctr _ _)

/-- The lane targets of a core change nothing of a hart but its target and its groups (R195). -/
theorem retarget_hart (s : State) (c h : Nat) :
    (s.retarget c).hart h = { s.hart h with target := ((s.retarget c).hart h).target, groups := ((s.retarget c).hart h).groups } := by
  unfold State.retarget
  generalize targetLoop 16 _ = ts
  induction ts generalizing s with
  | nil => rfl
  | cons e ts ih =>
    rw [List.foldl_cons, ih]
    rw [State.updHart_eq, State.hart_setHart]
    split
    · subst_vars; rfl
    · rfl

/-- They change harts alone. -/
theorem retarget_rest (s : State) (c : Nat) : SameRest s (s.retarget c) ∧ (s.retarget c).cores = s.cores := by
  unfold State.retarget
  generalize targetLoop 16 _ = ts
  induction ts generalizing s with
  | nil => exact ⟨rfl, rfl⟩
  | cons e ts ih =>
    obtain ⟨h1, h2⟩ := ih (s.updHart e.1 (fun t => { t with target := e.2.2, groups := if t.released then t.groups else t.groups.take e.2.2 }))
    exact ⟨(updHart_sameRest s _ _).trans h1, h2⟩

/-- What differs in harts and cores alone keeps the scheduler's tables, memory and the time. -/
theorem SameRest.tasks {s t : State} (h : SameRest s t) : t.tasks = s.tasks := by
  have := congrArg State.tasks h
  exact this
theorem SameRest.launches {s t : State} (h : SameRest s t) : t.launches = s.launches := by
  have := congrArg State.launches h
  exact this
theorem SameRest.mem {s t : State} (h : SameRest s t) : t.mem = s.mem := by
  have := congrArg State.mem h
  exact this
theorem SameRest.time {s t : State} (h : SameRest s t) : t.time = s.time := by
  have := congrArg State.time h
  exact this

/-- Hart h without its task, its core without what the task held, and lane targets anew (R374). -/
def State.vacated (s : State) (h : Nat) : State :=
  ((s.updCore (coreOf h) (fun k => { k with
    job := k.job.filter (fun j => j.hart != h), interlock := k.interlock.filter (fun e => e.kind != 2 || e.hart != h) })).setHart h
      (s.hart h).vacate).retarget (coreOf h)

theorem vacated_task (s : State) (h : Nat) : ((s.vacated h).hart h).task = none := by
  rw [State.vacated, retarget_hart, State.hart_setHart, if_pos rfl]
  rfl

theorem retarget_keepsEntries (s : State) (c : Nat) : KeepsEntries s (s.retarget c) :=
  keepsEntries_of_eq (retarget_rest s c).1.tasks (retarget_rest s c).1.launches

theorem vacated_keepsEntries (s : State) (h : Nat) : KeepsEntries s (s.vacated h) := by
  refine keepsEntries_composes.trans ?_ (retarget_keepsEntries _ _)
  exact keepsEntries_of_eq rfl rfl

/-- Sealing a counter and forgetting page requests changes neither an entry nor a hart. -/
theorem sealEnd_keeps (s : State) (lno : Nat) : KeepsEntries s (s.sealEnd lno) ∧ (s.sealEnd lno).harts = s.harts := by
  unfold State.sealEnd
  split
  · split <;> exact ⟨keepsEntries_of_eq rfl rfl, rfl⟩
  · exact ⟨keepsEntries_of_eq rfl rfl, rfl⟩

theorem prunePages_keeps (s : State) : KeepsEntries s s.prunePages ∧ s.prunePages.harts = s.harts := by
  unfold State.prunePages
  split <;> exact ⟨keepsEntries_of_eq rfl rfl, rfl⟩

/-- What the end of task tid, which is t, leaves before its entry goes: its Anvil free, its strip and its latches recorded (R374). -/
def State.endRecords (s : State) (tid : Nat) (t : Task) (h : Nat) (c : Ctx) (cp : Word) : State :=
  let u := s.releaseAnvil tid
  let v := if t.started then (u.evalM true (closeStrip t.lno h (u.hart h).groups.length c true)).2 else u
  (v.latchRecords t.lno t.t c cp).loseOwed t.lno (hartTower h) c

theorem endRecords_keepsEntries (s : State) (tid : Nat) (t : Task) (h : Nat) (c : Ctx) (cp : Word) :
    KeepsEntries s (s.endRecords tid t h c cp) := by
  have hP := keepsEntries_composes
  have hv : KeepsEntries s (if t.started then
      ((s.releaseAnvil tid).evalM true (closeStrip t.lno h ((s.releaseAnvil tid).hart h).groups.length c true)).2 else s.releaseAnvil tid) := by
    split
    · exact hP.trans (keepsEntries_of_eq rfl rfl) (evalM_keepsEntries (closeStrip_keepsEntries _ _ _ _ _) _ _)
    · exact keepsEntries_of_eq rfl rfl
  exact hP.trans hv (hP.trans (latchRecords_keepsEntries _ _ _ _ _) (loseOwed_keepsEntries _ _ _ _))

/-- The end of a task on hart h: its records, then its entry, its transfers, its hart, its launch's count (R374). -/
theorem endTask_eq {s : State} {tid h : Nat} {t : Task} (c : Ctx) (cp : Word) (ht : s.taskOf tid = some t) :
    s.endTask tid c cp (some h) =
      ((((({ s.endRecords tid t h c cp with tasks := Tbl.del (s.endRecords tid t h c cp).tasks tid }).dropTransfers tid (some h)).vacated
        h).updLaunch t.lno (fun l => { l with ended := l.ended + 1 })).sealEnd t.lno).prunePages := by
  unfold State.endTask
  rw [ht]
  rfl

/-- What the end of a task on hart h leaves: neither the entry nor a task on the hart, and its launch has counted it. -/
theorem endTask_leaves {s : State} {tid h : Nat} {t : Task} (c : Ctx) (cp : Word) (ht : s.taskOf tid = some t) :
    ((s.endTask tid c cp (some h)).hart h).task = none ∧ (s.endTask tid c cp (some h)).taskOf tid = none ∧
    ((s.endTask tid c cp (some h)).launch t.lno).map (·.ended) = (s.launch t.lno).map (·.ended + 1) := by
  have hu := endRecords_keepsEntries s tid t h c cp
  rw [endTask_eq c cp ht]
  generalize s.endRecords tid t h c cp = u at hu ⊢
  have hw : KeepsEntries { u with tasks := Tbl.del u.tasks tid } ((({ u with tasks := Tbl.del u.tasks tid }).dropTransfers tid (some h)).vacated h) :=
    keepsEntries_composes.trans (dropTransfers_keepsEntries _ _ _) (vacated_keepsEntries _ _)
  have hfree : (((({ u with tasks := Tbl.del u.tasks tid }).dropTransfers tid (some h)).vacated h).hart h).task = none := vacated_task _ h
  generalize (({ u with tasks := Tbl.del u.tasks tid }).dropTransfers tid (some h)).vacated h = w at hw hfree ⊢
  obtain ⟨hwt, hwl⟩ := hw
  have hx : ∀ f, (w.updLaunch t.lno f).tasks = w.tasks ∧ (w.updLaunch t.lno f).harts = w.harts := by
    intro f
    unfold State.updLaunch
    split <;> exact ⟨rfl, rfl⟩
  obtain ⟨hseal, hsealh⟩ := sealEnd_keeps (w.updLaunch t.lno (fun l => { l with ended := l.ended + 1 })) t.lno
  obtain ⟨hprune, hpruneh⟩ := prunePages_keeps ((w.updLaunch t.lno (fun l => { l with ended := l.ended + 1 })).sealEnd t.lno)
  obtain ⟨hyt, hyl⟩ := keepsEntries_composes.trans hseal hprune
  refine ⟨?_, ?_, ?_⟩
  · simp only [State.hart, hpruneh, hsealh, (hx _).2]
    exact hfree
  · simp only [State.taskOf, hyt, (hx _).1, hwt]
    exact Tbl.find_del _ _
  · rw [hyl, State.launch_updLaunch, if_pos rfl, Option.map_map]
    have hl := congrArg (Option.map (· + 1)) ((hwl t.lno).trans (hu.2 t.lno))
    simpa only [Option.map_map, Function.comp_def] using hl

/-- A termination that can be taken ends the task. -/
theorem terminate_leaves {s : State} {h tid : Nat} (cause : Nat) (val : Word) (hs : s.stoppable h = true)
    (ht : (s.hart h).task = some tid) (hk : (s.taskOf tid).isSome = true) :
    ((s.terminate h cause val).hart h).task = none ∧ (s.terminate h cause val).taskOf tid = none := by
  obtain ⟨t, hk⟩ := Option.isSome_iff_exists.mp hk
  unfold State.terminate State.terminateAt
  simp only [hs, ht, hk, Bool.not_true, Bool.false_eq_true, if_false]
  have hrec := errorRecord_keepsEntries s t.lno cause val (s.ctx h).pc (s.cp h) (s.ctx h).vs t.t 0 0
  obtain ⟨h1, h2, -⟩ := endTask_leaves (h := h) (s.ctx h) (s.cp h)
    (show (s.errorRecord t.lno cause val (s.ctx h).pc (s.cp h) (s.ctx h).vs t.t 0 0).taskOf tid = some t by
      rw [State.taskOf, hrec.1]; exact hk)
  exact ⟨h1, h2⟩

end Sys2Proof.Machine

open Sys2Proof Sys2Proof.Machine

/-- Settles O24: the handler's entry is a change of the context after a precise stop and writes at home; the end of the task
deletes its entry and empties the hart after its records. -/
theorem trapEntrySaves : Obligations.TrapEntrySaves := by
  unfold Obligations.TrapEntrySaves
  refine ⟨fun s h cause val hs htv hinh => ?_, fun s h cause val tid hs hend ht hk =>
    ⟨trapEntry_unhandled cause val hs hend, terminate_leaves cause val hs ht hk⟩⟩
  have hstop : (s.preciseStop h).1.ctx h = (s.ctx h).enqueued (s.hart h).queue := by
    rw [State.ctx, preciseStop_hart, stopHart_hart]
  have hw : WritesHome (s.preciseStop h).1 ((s.preciseStop h).1.putTrapArea h (s.hart h).queue) := putFields_writesHome _ _ _
  intro t
  let v := ((s.preciseStop h).1.putTrapArea h (s.hart h).queue).noteTrap h (s.hart h).queue (s.hart h).openConvoy
  have hv : ∀ g, v.hart g = ((s.preciseStop h).1.putTrapArea h (s.hart h).queue).hart g := noteTrap_hart _ _ _ _
  have ht : t = v.updCtx h (fun c => c.trapped (s.cp h) cause val) := trapEntry_handled cause val hs htv hinh
  clear_value t v
  have hctx : t.ctx h = ((s.ctx h).enqueued (s.hart h).queue).trapped (s.cp h) cause val := by
    rw [ht, State.updCtx_eq, State.ctx, State.hart_setHart, if_pos rfl, hv]
    exact congrArg (fun c => Ctx.trapped c (s.cp h) cause val) ((hw.ctx h).trans hstop)
  have hothers : ∀ g, g ≠ h → t.ctx g = s.ctx g := by
    intro g hg
    rw [ht, State.updCtx_eq, State.ctx, State.hart_setHart, if_neg (Ne.symm hg), hv]
    exact (hw.ctx g).trans (congrArg Hart.ctx (preciseStop_others s hg))
  have hhart : (t.hart h).queue = [] ∧ (t.hart h).resv = none ∧ (t.hart h).task = (s.hart h).task := by
    rw [ht, State.updCtx_eq, State.hart_setHart, if_pos rfl, hv]
    dsimp only
    rw [hw.queue, hw.task]
    refine ⟨?_, hw.resv_none ?_, ?_⟩ <;> rw [preciseStop_hart, stopHart_hart]
  obtain ⟨hqueue, hresv, htask⟩ := hhart
  rw [hctx]
  refine ⟨?_, ?_, ?_, ?_, ?_, ?_, ?_, ?_, ?_, ?_, hqueue, hresv, fun g r => ?_, htask, hothers⟩
  iterate 10 exact rfl
  by_cases hg : g = h
  · rw [hg, State.x, hctx]
    rfl
  · simp only [State.x, hothers g hg]

end

section
/-! PROOFS. trap, ebrk and tret: a Contrail stop, the saved dump, and the return from a handler (R40, R42, R46, R134). -/

namespace Sys2Proof.Machine

open Sys2Proof

/-! ### trap and ebrk -/

theorem exec_trap {s : State} (a : BitVec 7) (hs : s.stoppable s.turn = true) :
    exec (.trap true a) s = .next (s.trapEntry s.turn cTRAP (s.x s.turn a)) := by
  change execTrap true a s = _
  exact scalarWord_trap hs rfl

/-- With no debugger attached ebrk raises EBRK (R134). -/
theorem exec_ebrk {s : State} (hs : s.stoppable s.turn = true) (hdbg : (s.hart s.turn).dbg = false) :
    exec (.ebrk true) s = .next (s.trapEntry s.turn cEBRK (s.pc s.turn)) := by
  change execEbrk true s = _
  refine scalarWord_trap hs ?_
  simp only [hdbg]
  rfl

/-- With one attached it stops the hart for it. -/
theorem exec_ebrk_held {s : State} (hs : s.stoppable s.turn = true) (hdbg : (s.hart s.turn).dbg = true) :
    exec (.ebrk true) s = .next (s.contrailStop s.turn heldByEbrk) := by
  change execEbrk true s = _
  refine scalarWord_ok ?_
  simp only [hdbg, hs]
  rfl

/-- A Contrail stop leaves the hart held, with its PC, its registers and its queue. -/
theorem contrailStop_hart (s : State) (h why : Nat) :
    ((s.contrailStop h why).hart h).held = some why ∧ ((s.contrailStop h why).hart h).queue = (s.hart h).queue ∧
    (s.contrailStop h why).pc h = s.pc h ∧ ∀ r, (s.contrailStop h why).x h r = s.x h r := by
  simp only [State.contrailStop, State.pc, State.x, State.ctx, State.updHart_eq, State.hart_setHart, if_true, stopHart_hart]
  exact ⟨trivial, trivial, rfl, fun _ => rfl⟩

/-! ### The saved dump -/

theorem sext_eq_signExtend (w n : Nat) : sext w n = (BitVec.ofNat w n).signExtend 64 := by
  unfold sext wordS BitVec.signExtend toS
  congr 1

/-- Of a field that is a whole number of a word's bits, the word is what it is of the number shifted. -/
theorem ofNat_bits (w n lo : Nat) : BitVec.ofNat w (bits n (lo + w - 1) lo) = BitVec.ofNat w (n / 2 ^ lo) := by
  apply BitVec.eq_of_toNat_eq
  simp only [BitVec.toNat_ofNat, bits]
  rcases Nat.eq_zero_or_pos w with rfl | hw
  · simp
  · rw [show lo + w - 1 + 1 - lo = w by omega, Nat.mod_mod]

/-- An entry read from the 16 bytes n of a dump is laid out as R40 says. -/
theorem isDumped_ofDump (n : Nat) (addr : Word) (seq : Nat) : isDumped (QEntry.ofDump n addr (seq % 65536)) n seq := by
  refine ⟨rfl, ofNat_bits 64 n 32, ?_, rfl, rfl⟩
  exact (sext_eq_signExtend 24 _).trans (congrArg (BitVec.signExtend 64) (ofNat_bits 24 n 96))

theorem readDump_getElem (s : State) (base off seq0 : Nat) (addrs : List Word) (cp : Word) {n k : Nat} (hk : k < n) :
    ∃ e, (s.readDump base off n seq0 addrs cp)[k]? = some (s.mem.readN (base + off + 16 * k) 16, e) ∧
      isDumped e (s.mem.readN (base + off + 16 * k) 16) (seq0 + k) := by
  refine ⟨QEntry.ofDump _ (cp + ((addrs[k]?).getD (addrs.headD cp + word (4 * k)) - addrs.headD cp)) _, ?_, isDumped_ofDump _ _ _⟩
  unfold State.readDump
  simp only [List.getElem?_map, List.getElem?_range hk, Option.map_some]

theorem readDump_length (s : State) (base off n seq0 : Nat) (addrs : List Word) (cp : Word) :
    (s.readDump base off n seq0 addrs cp).length = n := by
  simp [State.readDump]

/-! ### Reissue -/

theorem afterFirst_length (q : List QEntry) : (afterFirst q).length ≤ q.length - 1 := by
  cases q with
  | nil => rfl
  | cons e q => exact (List.dropWhile_sublist _).length_le

/-- A queue whose completed convoys have left has none left to leave. -/
theorem dropDone_dropDone (m : Nat) {n : Nat} {q : List QEntry} (hn : q.length ≤ n) : dropDone m (dropDone n q) = dropDone n q := by
  induction n generalizing q with
  | zero =>
    obtain rfl := List.length_eq_zero_iff.mp (Nat.le_zero.mp hn)
    cases m <;> rfl
  | succ n ih =>
    cases q with
    | nil => cases m <;> rfl
    | cons e q =>
      rw [dropDone]
      split
      · exact ih (by have := afterFirst_length (e :: q); simp only [List.length_cons] at this hn; omega)
      · rename_i h
        cases m with
        | zero => rfl
        | succ m => rw [dropDone, if_neg h]

/-- Nothing settles in a queue whose completed convoys have left. -/
theorem settle_of_dropped {t : Hart} (h : dropDone 33 t.queue = t.queue) : t.settle = t := by
  unfold Hart.settle
  rw [h]
  exact if_pos rfl

/-- A reissue gives its hart the queue, VS and LIVE bits, and changes no more of the context. -/
theorem reissue_hart (s : State) (h : Nat) {es : List QEntry} (isOpen : Bool) (vs : Nat) (hes : es.length ≤ 33) :
    (s.reissue h es isOpen vs).hart h =
      { s.hart h with
        queue := dropDone 33 es, openConvoy := isOpen && !es.isEmpty, released := false, startVs := vs,
        ctx := { (s.ctx h) with vs := vs, eixV := liveOnly (dropDone 33 es) (s.ctx h).eixV, eixT := liveOnly (dropDone 33 es) (s.ctx h).eixT } } := by
  have hmatch : (s.reissue h es isOpen vs).hart h = (s.updHart h (fun t => Hart.settle { t with
      queue := dropDone 33 es, openConvoy := isOpen && !es.isEmpty, released := false, startVs := vs,
      ctx := { t.ctx with vs := vs, eixV := liveOnly (dropDone 33 es) t.ctx.eixV, eixT := liveOnly (dropDone 33 es) t.ctx.eixT } })).hart h := by
    unfold State.reissue
    dsimp only
    split <;> rfl
  rw [hmatch, State.updHart_eq, State.hart_setHart, if_pos rfl]
  exact settle_of_dropped (dropDone_dropDone 33 hes)

theorem reissue_ctx (s : State) (h : Nat) {es : List QEntry} (isOpen : Bool) (vs : Nat) (hes : es.length ≤ 33) :
    (s.reissue h es isOpen vs).ctx h =
      { s.ctx h with
        vs := vs, eixV := ((s.reissue h es isOpen vs).ctx h).eixV, eixT := ((s.reissue h es isOpen vs).ctx h).eixT } := by
  rw [State.ctx, reissue_hart s h isOpen vs hes]

theorem retireTo_ctx (s : State) (h : Nat) (pc : Word) : (s.retireTo h pc).ctx h = { s.ctx h with pc := pc } := by
  rw [State.ctx, retireTo_hart]
  rfl

/-- It changes no other hart and no memory. -/
theorem reissue_others (s : State) (h : Nat) (es : List QEntry) (isOpen : Bool) (vs : Nat) :
    (s.reissue h es isOpen vs).mem = s.mem ∧ ∀ g, g ≠ h → (s.reissue h es isOpen vs).hart g = s.hart g := by
  unfold State.reissue
  dsimp only
  split
  · exact ⟨rfl, fun g hg => (State.hart_setHart s h g _).trans (if_neg (Ne.symm hg))⟩
  · exact ⟨rfl, fun g hg => (State.hart_setHart s h g _).trans (if_neg (Ne.symm hg))⟩

/-! ### tret -/

/-- The context that R46 leaves before the dump is looked at. -/
def leftCtx (s : State) (h : Nat) : Ctx :=
  { s.ctx h with
    vt := s.mem.readN ((s.ctx h).frm + 0xA00 + 8 * 0) 8 % 2 ^ 32, vl := s.mem.readN ((s.ctx h).frm + 0xA00 + 8 * 1) 8 % 2 ^ 13,
    wb := s.mem.readN ((s.ctx h).frm + 0xA00 + 8 * 2) 8 % 2 ^ 11, vs := (s.ctx h).evs.toNat % 2 ^ 12, inh := false }

theorem handlerLeft_ctx (s : State) (h : Nat) : (handlerLeft s h).ctx h = leftCtx s h := by
  unfold handlerLeft
  dsimp only
  rw [State.ctx, retarget_hart, updCtx_hart]
  rfl

theorem handlerLeft_others (s : State) {h g : Nat} (hg : g ≠ h) : (handlerLeft s h).ctx g = s.ctx g := by
  unfold handlerLeft
  dsimp only
  rw [State.ctx, retarget_hart, State.updCtx_eq, State.hart_setHart, if_neg (Ne.symm hg)]
  rfl

theorem handlerLeft_mem (s : State) (h : Nat) : (handlerLeft s h).mem = s.mem := by
  unfold handlerLeft
  exact (retarget_rest _ _).1.mem.trans rfl

/-- The saved dump as tret reads it. -/
def leftDump (s : State) (h : Nat) : List (Nat × QEntry) :=
  (handlerLeft s h).readDump (s.ctx h).frm trapDump (min (s.ctx h).enqN 32) (s.ctx h).enqSeq0
    (((s.hartTask h).map (·.trapAddrs)).getD []) (s.ctx h).ecp

/-- The return from a handler (R46): the saved dump is reissued where its checks pass, and ends the task where one fails (R42). -/
theorem trapReturn_eq (s : State) (h : Nat) :
    s.trapReturn h =
      if (handlerLeft s h).dumpOk h (s.ctx h).enqN (leftDump s h) then
        ((handlerLeft s h).retireTo h (s.ctx h).epc).reissue h ((leftDump s h).map Prod.snd) (((s.hartTask h).map Task.trapOpen).getD false)
          ((s.ctx h).evs.toNat % 2 ^ 12)
      else (handlerLeft s h).terminateAt h cRSTR 0 (s.ctx h).ecp := by
  have hmask : ∀ n k : Nat, n &&& (2 ^ k - 1) = n % 2 ^ k := Nat.and_two_pow_sub_one_eq_mod
  unfold State.trapReturn leftDump handlerLeft
  simp only [trapArea, show ctlMask 0x000 = 2 ^ 32 - 1 from rfl, show ctlMask 0x001 = 2 ^ 13 - 1 from rfl,
    show ctlMask 0x003 = 2 ^ 11 - 1 from rfl, hmask, bits_low]

/-- tret in a handler, with an empty queue and a trap area that can be read. -/
theorem exec_tret {s : State} (hinh : (s.ctx s.turn).inh = true) (hq : (s.hart s.turn).queue = [])
    (hp : s.poisoned ((s.ctx s.turn).frm + 0xA00) 0x400 = false) : exec (.tret true) s = .next (s.trapReturn s.turn) := by
  change execTret true s = _
  simp only [execTret, hinh, Bool.not_true, Bool.false_eq_true, if_false]
  refine scalarWord_ok ?_
  rw [run_bind_ok (needEmpty_run hq)]
  exact (run_bind_ok (needClean_run hp)).trans rfl

/-- Outside one it raises ILL (R46, R90). -/
theorem exec_tret_ill {s : State} {w : Word32} (hinh : (s.ctx s.turn).inh = false) (hw : encode (.tret true) = some w) :
    exec (.tret true) s = .next (s.trapEntry s.turn cILL (w.setWidth 64)) := by
  obtain rfl : BitVec.ofNat 32 (wordI 0x1D true 0 0 0x141) = w := Option.some.inj hw
  rw [setWidth_ofNat (by decide)]
  change execTret true s = _
  simp only [execTret, hinh]
  rfl

/-- The checks of an empty dump are those of VT and VL (R42). -/
theorem dumpOk_empty (s : State) (h : Nat) : s.dumpOk h 0 [] = vtOk (s.ctx h).vt (s.ctx h).vl := by
  simp [State.dumpOk, groupsOk]

/-- What a return whose dump passes leaves of its hart. -/
theorem trapReturn_hart {s : State} {h : Nat} (hok : (handlerLeft s h).dumpOk h (s.ctx h).enqN (leftDump s h) = true) :
    ((s.trapReturn h).hart h).queue = dropDone 33 ((leftDump s h).map Prod.snd) ∧
    (s.trapReturn h).ctx h = { leftCtx s h with
      pc := (s.ctx h).epc, eixV := ((s.trapReturn h).ctx h).eixV, eixT := ((s.trapReturn h).ctx h).eixT } := by
  have hlen : ((leftDump s h).map Prod.snd).length ≤ 33 := by
    rw [List.length_map, leftDump, readDump_length]
    omega
  rewrite [trapReturn_eq, if_pos hok]
  refine ⟨by rw [reissue_hart _ _ _ _ hlen], ?_⟩
  conv_lhs => rw [reissue_ctx _ _ _ _ hlen, retireTo_ctx, handlerLeft_ctx]
  simp only [leftCtx]

/-- It leaves every other hart's context and all of memory. -/
theorem trapReturn_others {s : State} {h : Nat} (hok : (handlerLeft s h).dumpOk h (s.ctx h).enqN (leftDump s h) = true) :
    (s.trapReturn h).mem = s.mem ∧ ∀ g, g ≠ h → (s.trapReturn h).ctx g = s.ctx g := by
  rewrite [trapReturn_eq, if_pos hok]
  refine ⟨by rw [(reissue_others _ _ _ _ _).1, retireTo_mem, handlerLeft_mem], fun g hg => ?_⟩
  rw [State.ctx, (reissue_others _ _ _ _ _).2 g hg, (retireTo_onlyHart _ h _).2.2 g hg]
  exact handlerLeft_others s hg

end Sys2Proof.Machine

open Sys2Proof Sys2Proof.Machine

/-- Settles O25: ebrk is a precise stop that keeps the queue; tret reads the dump as it was laid out and reissues it from the state
that R46 leaves. -/
theorem trapWords : Obligations.TrapWords := by
  unfold Obligations.TrapWords
  refine ⟨fun s hs => ⟨fun a => exec_trap a hs, exec_ebrk hs, fun hdbg => ?_⟩, fun s => ⟨?_, fun w => exec_tret_ill⟩⟩
  · obtain ⟨hrest, hcores⟩ := stopHart_rest s s.turn
    obtain ⟨hheld, hqueue, hpc, hx⟩ := contrailStop_hart s s.turn heldByEbrk
    refine ⟨_, exec_ebrk_held hs hdbg, hrest.trans (updHart_sameRest _ _ _), hcores, fun g hg => ?_, hx, ?_, hpc, hqueue⟩
    · rw [State.contrailStop, State.updHart_eq, State.hart_setHart, if_neg (Ne.symm hg)]
      exact stopHart_others s hg
    · rw [hheld]
      rfl
  · intro c saved hinh hq hp u
    refine ⟨leftDump s s.turn, rfl, fun k hk => ?_, fun hok => ?_, fun hbad => ?_, fun hn => ?_⟩
    · have := readDump_getElem u c.frm trapDump c.enqSeq0 (((s.hartTask s.turn).map (·.trapAddrs)).getD []) c.ecp hk
      rwa [show u.mem = s.mem from handlerLeft_mem s s.turn] at this
    · obtain ⟨hqueue, hctx⟩ := trapReturn_hart hok
      obtain ⟨hmem, hothers⟩ := trapReturn_others hok
      refine ⟨_, exec_tret hinh hq hp, ?_, ?_, ?_, ?_, ?_, ?_, hqueue, fun g r => ?_, fun b => by rw [hmem], hothers⟩
      · rw [hctx]; rfl
      · rw [State.pc, hctx]
      · rw [hctx]; rfl
      · rw [hctx]; rfl
      · rw [hctx]; rfl
      · rw [hctx]; rfl
      · by_cases hg : g = s.turn
        · have hx : ((s.trapReturn s.turn).ctx s.turn).x = (s.ctx s.turn).x := by rw [hctx]; rfl
          simp only [hg, State.x, hx]
        · simp only [State.x, hothers g hg]
    · rw [exec_tret hinh hq hp, trapReturn_eq, if_neg (by rw [hbad]; decide)]
    · have hes : leftDump s s.turn = [] := by
        apply List.eq_nil_of_length_eq_zero
        rw [leftDump, readDump_length]
        exact Nat.le_zero.mp (hn ▸ Nat.min_le_left _ _)
      rw [hn, hes, dumpOk_empty, handlerLeft_ctx]
      rfl

end

section
/-! PROOFS. A frame: fields laid out one behind the other are read back as they were written (R17, R372, R373). -/

namespace Sys2Proof.Machine

open Sys2Proof

/-! ### Numbers in memory -/

/-- A number that memory holds is read back within its bytes. -/
theorem readN_of_holds {t : State} {a n v : Nat} (h : Holds t a n v) : t.mem.readN a n = v % 2 ^ (8 * n) := by
  induction n generalizing a v with
  | zero => simp [Memory.readN, Nat.mod_one]
  | succ n ih =>
    have h0 : t.mem.read a = BitVec.ofNat 8 v := by simpa using h 0 (Nat.succ_pos n)
    have hrest : Holds t (a + 1) n (v / 256) := by
      intro k hk
      rw [Nat.add_assoc, Nat.add_comm 1 k, h (k + 1) (Nat.succ_lt_succ hk), Nat.pow_succ', Nat.div_div_eq_div_mul]
    rw [Memory.readN, h0, ih hrest, BitVec.toNat_ofNat, Nat.mul_succ, Nat.add_comm (8 * n), Nat.pow_add, Nat.mod_mul]

/-! ### Fields -/

/-- Fields lie one behind the other from offset lo and end by offset hi. -/
def Laid (lo hi : Nat) (fs : List (Nat × Nat × Nat)) : Prop :=
  fs.Pairwise (fun f g => f.1 + f.2.1 ≤ g.1) ∧ ∀ f ∈ fs, lo ≤ f.1 ∧ f.1 + f.2.1 ≤ hi

theorem Laid.append {lo mid mid' hi : Nat} {fs gs : List (Nat × Nat × Nat)} (hf : Laid lo mid fs) (hg : Laid mid' hi gs) (hm : mid ≤ mid')
    (hlo : lo ≤ mid') (hhi : mid ≤ hi) : Laid lo hi (fs ++ gs) := by
  obtain ⟨hf1, hf2⟩ := hf
  obtain ⟨hg1, hg2⟩ := hg
  refine ⟨List.pairwise_append.mpr ⟨hf1, hg1, fun f hf g hg => ?_⟩, fun f hf => ?_⟩
  · exact ((hf2 f hf).2.trans hm).trans (hg2 g hg).1
  · rcases List.mem_append.mp hf with hf | hf
    · exact ⟨(hf2 f hf).1, (hf2 f hf).2.trans hhi⟩
    · exact ⟨hlo.trans (hg2 f hf).1, (hg2 f hf).2⟩

/-- A row of n fields of w bytes. -/
theorem laid_row (o w n : Nat) (v : Nat → Nat) : Laid o (o + w * n) ((List.range n).map (fun k => (o + w * k, w, v k))) := by
  refine ⟨List.pairwise_map.mpr (List.pairwise_lt_range.imp ?_), fun f hf => ?_⟩
  · intro j k hjk
    have := Nat.mul_le_mul_left w hjk
    dsimp only
    rw [Nat.mul_succ] at this
    omega
  · obtain ⟨k, hk, rfl⟩ := List.mem_map.mp hf
    have := Nat.mul_le_mul_left w (List.mem_range.mp hk)
    rw [Nat.mul_succ] at this
    dsimp only
    omega

/-- A row of single bytes. -/
theorem laid_bytes (o n : Nat) (v : Nat → Nat) : Laid o (o + n) ((List.range n).map (fun k => (o + k, 1, v k))) := by
  have h := laid_row o 1 n v
  simpa only [Nat.one_mul] using h

/-- Bytes outside all the fields are what they were. -/
theorem putFields_read_outside (s : State) (base : Nat) {fs : List (Nat × Nat × Nat)} {a : Nat}
    (ha : ∀ f ∈ fs, a < base + f.1 ∨ base + f.1 + f.2.1 ≤ a) : (s.putFields base fs).mem.read a = s.mem.read a := by
  unfold State.putFields
  induction fs generalizing s with
  | nil => rfl
  | cons f fs ih =>
    rw [List.foldl_cons, ih _ (fun g hg => ha g (List.mem_cons_of_mem f hg)), writePa_mem]
    exact Memory.read_writeBytes_outside _ _ _ (by rw [toBytes_length]; exact ha f List.mem_cons_self)

/-- Each of the fields holds its value. -/
theorem putFields_holds {s : State} (hm : s.mem.wf = true) (base : Nat) {lo hi : Nat} {fs : List (Nat × Nat × Nat)} (hl : Laid lo hi fs)
    {off len v : Nat} (hf : (off, len, v) ∈ fs) : Holds (s.putFields base fs) (base + off) len v := by
  obtain ⟨hrise, -⟩ := hl
  unfold State.putFields
  induction fs generalizing s with
  | nil => simp at hf
  | cons f fs ih =>
    obtain ⟨hfirst, hrest⟩ := List.pairwise_cons.mp hrise
    rw [List.foldl_cons]
    rcases List.mem_cons.mp hf with rfl | hf
    · intro k hk
      refine (putFields_read_outside _ base (fun g hg => .inl ?_)).trans (holds_writeBytes hm (writePa_mem s none _ _) k hk)
      have := hfirst g hg
      dsimp only at this
      omega
    · exact ih (writePa_wf hm none _ _) hf hrest

/-! ### The fields of a frame -/

/-- The header of a frame and what follows it lie below 0x3000 (R372). -/
theorem frameFields_laid (c : Ctx) (gb hart groups time : Nat) (cp : Word) (since : Nat) (dump : List QEntry) :
    Laid 0 0x3000 (c.frameFields gb hart groups time cp since dump) := by
  unfold Ctx.frameFields
  have header : ∀ v0 v1 v2 v3 v4 v5 v6 v7 v8 v9 va vb : Nat, Laid 0 0x80
      [(0x00, 8, v0), (0x08, 8, v1), (0x10, 8, v2), (0x18, 8, v3), (0x20, 8, v4), (0x28, 8, v5), (0x30, 8, v6), (0x40, 32, v7),
       (0x60, 8, v8), (0x68, 8, v9), (0x70, 8, va), (0x78, 8, vb)] := by
    intros
    simp [Laid]
  refine (((((((((header _ _ _ _ _ _ _ _ _ _ _ _).append (laid_row 0x100 8 8 _) ?_ ?_ ?_).append (laid_row 0x200 8 64 _) ?_ ?_ ?_).append
    (laid_row 0x400 8 128 _) ?_ ?_ ?_).append (laid_row 0x800 16 32 _) ?_ ?_ ?_).append (laid_row 0xE00 16 8 _) ?_ ?_ ?_).append
    (laid_row 0x1000 32 32 _) ?_ ?_ ?_).append (laid_bytes 0x1400 2048 _) ?_ ?_ ?_).append (laid_row 0x2000 512 8 _) ?_ ?_ ?_)
  all_goals decide

/-- Fields of the header. -/
theorem header_mem {c : Ctx} {gb hart groups time since : Nat} {cp : Word} {dump : List QEntry} {f : Nat × Nat × Nat}
    (hf : f ∈ [(0x00, 8, c.pc.toNat), (0x08, 8, cp.toNat), (0x20, 8, (c.copyFault.map (·.toNat)).getD 0),
      (0x28, 8, b2n c.copyFault.isSome * 2 ^ 63 + b2n c.guard.isSome * 2 ^ 62 + b2n c.bovf.isSome * 2 ^ 61 + c.bovf.getD 0),
      (0x60, 8, c.cnt), (0x68, 8, c.mean), (0x70, 8, c.m2), (0x78, 8, c.out)]) :
    f ∈ c.frameFields gb hart groups time cp since dump := by
  unfold Ctx.frameFields
  iterate 8 apply List.mem_append_left
  simp only [List.mem_cons] at hf ⊢
  tauto

/-- A field of a row. -/
theorem row_mem {o w n k : Nat} (v : Nat → Nat) (hk : k < n) : (o + w * k, w, v k) ∈ (List.range n).map (fun k => (o + w * k, w, v k)) :=
  List.mem_map.mpr ⟨k, List.mem_range.mpr hk, rfl⟩

section
variable (c : Ctx) (gb hart groups time since : Nat) (cp : Word) (dump : List QEntry) {k : Nat}

/-- Software-defined, control and scalar registers, handles and masks. -/
theorem sw_mem (hk : k < 8) : (0x100 + 8 * k, 8, (Tbl.get 0 c.sw k).toNat) ∈ c.frameFields gb hart groups time cp since dump := by
  unfold Ctx.frameFields
  iterate 7 apply List.mem_append_left
  exact List.mem_append_right _ (row_mem (fun k => (Tbl.get 0 c.sw k).toNat) hk)

theorem ctl_mem (hk : k < 64) : (0x200 + 8 * k, 8, c.ctrl gb hart k) ∈ c.frameFields gb hart groups time cp since dump := by
  unfold Ctx.frameFields
  iterate 6 apply List.mem_append_left
  exact List.mem_append_right _ (row_mem (fun k => c.ctrl gb hart k) hk)

theorem x_mem (hk : k < 128) :
    (0x400 + 8 * k, 8, if k = 0 then 0 else (Tbl.get 0 c.x k).toNat) ∈ c.frameFields gb hart groups time cp since dump := by
  unfold Ctx.frameFields
  iterate 5 apply List.mem_append_left
  exact List.mem_append_right _ (row_mem (fun k => if k = 0 then 0 else (Tbl.get 0 c.x k).toNat) hk)

theorem handle_mem (hk : k < 32) : (0x1000 + 32 * k, 32, Tbl.get 0 c.h k) ∈ c.frameFields gb hart groups time cp since dump := by
  unfold Ctx.frameFields
  iterate 2 apply List.mem_append_left
  exact List.mem_append_right _ (row_mem (fun k => Tbl.get 0 c.h k) hk)

theorem mask_mem (hk : k < 8) : (0x2000 + 512 * k, 512, c.mask k) ∈ c.frameFields gb hart groups time cp since dump := by
  unfold Ctx.frameFields
  exact List.mem_append_right _ (row_mem (fun k => c.mask k) hk)

end

/-! ### What a saved frame holds -/

/-- Fields that saving hart h writes below its vector region. -/
def savedFields (s : State) (h : Nat) (cp : Word) (dump : List QEntry) : List (Nat × Nat × Nat) :=
  (s.ctx h).frameFields (s.gb h) h (s.hart h).groups.length s.time cp s.time dump

/-- A field of a saved frame is read back within its bytes. -/
theorem saveFrame_readN {s : State} (hm : s.mem.wf = true) {h : Nat} {cp : Word} {dump : List QEntry} {off len v : Nat}
    (hf : (off, len, v) ∈ savedFields s h cp dump) :
    (s.saveFrame h cp dump).mem.readN ((s.ctx h).frm + off) len = v % 2 ^ (8 * len) := by
  have hl : Laid 0 0x3000 (savedFields s h cp dump) := frameFields_laid _ _ _ _ _ _ _ _
  refine readN_of_holds (fun k hk => ?_)
  have hend := (hl.2 _ hf).2
  refine (putFields_read_outside _ _ (fun g hg => .inl ?_)).trans (putFields_holds hm _ hl hf k hk)
  obtain ⟨n, -, rfl⟩ := List.mem_map.mp hg
  dsimp only at hend ⊢
  omega

/-- The vector region of a saved frame holds the hart's registers. -/
theorem saveFrame_vreg {s : State} (hm : s.mem.wf = true) {h n : Nat} (cp : Word) (dump : List QEntry) (hn : n < (s.ctx h).vcount) :
    (s.saveFrame h cp dump).mem.readN ((s.ctx h).frm + (0x80000 + 4096 * n)) 4096 = s.vreg (coreOf h) ((s.ctx h).vbase + n) % 2 ^ (8 * 4096) :=
  readN_of_holds (putFields_holds (putFields_wf hm _ _) _ (laid_row 0x80000 4096 (s.ctx h).vcount _)
    (row_mem (fun n => s.vreg (coreOf h) ((s.ctx h).vbase + n)) hn))

/-- A table filled from a function. -/
theorem get_tblOf {α : Type} (d : α) {n k : Nat} (f : Nat → α) (hk : k < n) : Tbl.get d (tblOf n f) k = f k := by
  have hfind : ∀ l : List Nat, k ∈ l → Tbl.find (l.map (fun k => (k, f k))) k = some (f k) := by
    intro l
    induction l with
    | nil => simp
    | cons j l ih =>
      intro hmem
      simp only [List.map_cons, Tbl.find]
      split
      · subst_vars; rfl
      · exact ih ((List.mem_cons.mp hmem).resolve_left (fun h => by simp_all))
  rw [Tbl.get_eq_find, tblOf, hfind _ (List.mem_range.mpr hk), Option.getD_some]

/-- Rows of registers as a frame is read (R372). -/
theorem readFrame_x (s : State) (base : Nat) {k : Nat} (hk : k < 128) :
    Tbl.get 0 (s.readFrame base).x k = word (s.mem.readN (base + (0x400 + 8 * k)) 8) := get_tblOf 0 _ hk
theorem readFrame_q (s : State) (base : Nat) {k : Nat} (hk : k < 8) :
    Tbl.get 0 (s.readFrame base).q k = s.mem.readN (base + (0x2000 + 512 * k)) 512 := get_tblOf 0 _ hk
theorem readFrame_h (s : State) (base : Nat) {k : Nat} (hk : k < 32) :
    Tbl.get 0 (s.readFrame base).h k = s.mem.readN (base + (0x1000 + 32 * k)) 32 := get_tblOf 0 _ hk
theorem readFrame_sw (s : State) (base : Nat) {k : Nat} (hk : k < 8) :
    Tbl.get 0 (s.readFrame base).sw k = word (s.mem.readN (base + (0x100 + 8 * k)) 8) := get_tblOf 0 _ hk

/-- A word saved in eight bytes, and read under a mask. -/
theorem word_saved (x : Word) : word (x.toNat % 2 ^ (8 * 8)) = x := by
  apply BitVec.eq_of_toNat_eq
  rw [word, BitVec.toNat_ofNat]
  have := x.isLt
  omega

theorem word_saved_and (x : Word) (m : Nat) : word (x.toNat % 2 ^ (8 * 8) &&& m) = x &&& word m := by
  conv_rhs => rw [← word_saved x]
  exact BitVec.ofNat_and

section
variable {s : State} (hm : s.mem.wf = true) (h : Nat) (cp : Word) (dump : List QEntry)
include hm

/-- A control register as a frame holds it, within its fields (R6). -/
theorem savedCtl {sel : Nat} (hsel : sel < 64) :
    (s.saveFrame h cp dump).mem.readN ((s.ctx h).frm + (0x200 + 8 * sel)) 8 &&& ctlMask sel = s.ctrl h sel % 2 ^ (8 * 8) &&& ctlMask sel :=
  congrArg (· &&& ctlMask sel) (saveFrame_readN hm (ctl_mem _ _ _ _ _ _ _ _ hsel))

/-- One that is a word. -/
theorem savedCtl_word {sel : Nat} (hsel : sel < 64) {x : Word} (hx : s.ctrl h sel = x.toNat) :
    word ((s.saveFrame h cp dump).mem.readN ((s.ctx h).frm + (0x200 + 8 * sel)) 8 &&& ctlMask sel) = x &&& word (ctlMask sel) := by
  rw [savedCtl hm h cp dump hsel, hx, word_saved_and]

theorem savedCtl_whole {sel : Nat} (hsel : sel < 64) {x : Word} (hx : s.ctrl h sel = x.toNat) (hmask : ctlMask sel = 2 ^ 64 - 1) :
    word ((s.saveFrame h cp dump).mem.readN ((s.ctx h).frm + (0x200 + 8 * sel)) 8 &&& ctlMask sel) = x := by
  rw [savedCtl_word hm h cp dump hsel hx, hmask]
  exact BitVec.and_allOnes

/-- One whose fields are its k low bits. -/
theorem savedCtl_low {sel k : Nat} (hsel : sel < 64) (hmask : ctlMask sel = 2 ^ k - 1) (hk : k ≤ 64) :
    (s.saveFrame h cp dump).mem.readN ((s.ctx h).frm + (0x200 + 8 * sel)) 8 &&& ctlMask sel = s.ctrl h sel % 2 ^ k := by
  rw [savedCtl hm h cp dump hsel, hmask, Nat.and_two_pow_sub_one_eq_mod]
  exact Nat.mod_mod_of_dvd _ (Nat.pow_dvd_pow 2 hk)

end

/-- The fields of TSTAT (R34). -/
theorem tstat_fields (c : Ctx) :
    bit (c.tstat % 2 ^ 64) 0 = c.prv ∧ bit (c.tstat % 2 ^ 64) 1 = c.inh ∧ bits (c.tstat % 2 ^ 64) 3 2 = c.prio % 4 := by
  unfold Ctx.tstat bit bits
  refine ⟨?_, ?_, ?_⟩
  · cases c.prv <;> cases c.inh <;> simp only [b2n, decide_eq_true_eq, decide_eq_false_iff_not, if_true, if_false, Bool.false_eq_true] <;> omega
  · cases c.prv <;> cases c.inh <;> simp only [b2n, decide_eq_true_eq, decide_eq_false_iff_not, if_true, if_false, Bool.false_eq_true] <;> omega
  · cases c.prv <;> cases c.inh <;> simp only [b2n, if_true, if_false, Bool.false_eq_true] <;> omega

/-- The word of a frame that tells which latches are set. -/
def latchFlags (c : Ctx) : Nat :=
  b2n c.copyFault.isSome * 2 ^ 63 + b2n c.guard.isSome * 2 ^ 62 + b2n c.bovf.isSome * 2 ^ 61 + c.bovf.getD 0

/-- Flags over a number of three bits. -/
theorem flags_fields (p q r : Bool) {b : Nat} (hb : b < 8) :
    bit ((b2n p * 2 ^ 63 + b2n q * 2 ^ 62 + b2n r * 2 ^ 61 + b) % 2 ^ 64) 63 = p ∧
    bit ((b2n p * 2 ^ 63 + b2n q * 2 ^ 62 + b2n r * 2 ^ 61 + b) % 2 ^ 64) 61 = r ∧
    bits ((b2n p * 2 ^ 63 + b2n q * 2 ^ 62 + b2n r * 2 ^ 61 + b) % 2 ^ 64) 2 0 = b := by
  unfold bit bits
  refine ⟨?_, ?_, ?_⟩ <;> cases p <;> cases q <;> cases r <;>
    simp only [b2n, decide_eq_true_eq, decide_eq_false_iff_not, if_true, if_false, Bool.false_eq_true] <;> omega

/-- The latches of copy faults and overflows as a frame holds them (R372). -/
theorem readFrame_latches {s : State} (hm : s.mem.wf = true) (h : Nat) (cp : Word) (dump : List QEntry)
    (hb : ∀ b, (s.ctx h).bovf = some b → b < 8) :
    ((s.saveFrame h cp dump).readFrame (s.ctx h).frm).copyFault = (s.ctx h).copyFault ∧
    ((s.saveFrame h cp dump).readFrame (s.ctx h).frm).bovf = (s.ctx h).bovf := by
  have hflags : (s.saveFrame h cp dump).mem.readN ((s.ctx h).frm + 0x28) 8 = latchFlags (s.ctx h) % 2 ^ (8 * 8) :=
    saveFrame_readN hm (header_mem (by simp [latchFlags]))
  have hfault : (s.saveFrame h cp dump).mem.readN ((s.ctx h).frm + 0x20) 8 = (((s.ctx h).copyFault.map (·.toNat)).getD 0) % 2 ^ (8 * 8) :=
    saveFrame_readN hm (header_mem (by simp))
  have hlow : (s.ctx h).bovf.getD 0 < 8 := by
    cases hv : (s.ctx h).bovf with
    | none => exact Nat.succ_pos 7
    | some b => exact hb b hv
  obtain ⟨h63, h61, h20⟩ := flags_fields (s.ctx h).copyFault.isSome (s.ctx h).guard.isSome (s.ctx h).bovf.isSome hlow
  constructor
  · change (if bit ((s.saveFrame h cp dump).mem.readN ((s.ctx h).frm + 0x28) 8) 63 then
      some (word ((s.saveFrame h cp dump).mem.readN ((s.ctx h).frm + 0x20) 8)) else none) = _
    rw [hflags, latchFlags, h63, hfault]
    cases (s.ctx h).copyFault with
    | none => rfl
    | some x => exact congrArg some (word_saved x)
  · change (if bit ((s.saveFrame h cp dump).mem.readN ((s.ctx h).frm + 0x28) 8) 61 then
      some (bits ((s.saveFrame h cp dump).mem.readN ((s.ctx h).frm + 0x28) 8) 2 0) else none) = _
    rw [hflags, latchFlags, h61, h20]
    cases (s.ctx h).bovf <;> rfl

end Sys2Proof.Machine

open Sys2Proof Sys2Proof.Machine

/-- Settles O27: the fields of a frame lie one behind the other, so each is read back as it was written, within its bytes and its
register's fields. -/
theorem savedContextReturns : Obligations.SavedContextReturns := by
  unfold Obligations.SavedContextReturns
  intro s h cp dump hm c u r
  have whole {sel : Nat} (hsel : sel < 64) (hmask : ctlMask sel = 2 ^ 64 - 1) {x : Word} (hx : s.ctrl h sel = x.toNat) :=
    savedCtl_whole hm h cp dump hsel hx hmask
  have low {sel k : Nat} (hsel : sel < 64) (hmask : ctlMask sel = 2 ^ k - 1) (hk : k ≤ 64) := savedCtl_low hm h cp dump hsel hmask hk
  have hstat : u.mem.readN (c.frm + (0x200 + 8 * 0x031)) 8 &&& ctlMask 0x031 = c.tstat % 2 ^ 64 := low (by decide) rfl (Nat.le_refl 64)
  obtain ⟨hprv, hinh, hprio⟩ := tstat_fields c
  refine ⟨fun k hpos hk => ?_, ?_, ?_, savedCtl_word hm h cp dump (sel := 0x030) (by decide) rfl, whole (sel := 0x032) (by decide) rfl rfl,
    whole (sel := 0x033) (by decide) rfl rfl, whole (sel := 0x034) (by decide) rfl rfl,
    savedCtl_word hm h cp dump (sel := 0x035) (by decide) rfl, whole (sel := 0x036) (by decide) rfl rfl,
    whole (sel := 0x020) (by decide) rfl rfl, whole (sel := 0x021) (by decide) rfl rfl, whole (sel := 0x022) (by decide) rfl rfl,
    whole (sel := 0x023) (by decide) rfl rfl, savedCtl_word hm h cp dump (sel := 0x028) (by decide) rfl, ?_, ?_, ?_,
    low (sel := 0x000) (by decide) rfl (by decide), low (sel := 0x001) (by decide) rfl (by decide),
    low (sel := 0x002) (by decide) rfl (by decide), low (sel := 0x003) (by decide) rfl (by decide),
    low (sel := 0x005) (by decide) rfl (by decide), low (sel := 0x006) (by decide) rfl (by decide),
    saveFrame_readN hm (header_mem (by simp [c])), saveFrame_readN hm (header_mem (by simp [c])), saveFrame_readN hm (header_mem (by simp [c])), ?_,
    fun k hk => ?_, fun k hk => ?_, fun k hk => ?_, readFrame_latches hm h cp dump, fun n hn => ?_⟩
  · have hx := saveFrame_readN hm (x_mem c (s.gb h) h (s.hart h).groups.length s.time s.time cp dump hk)
    rw [if_neg (Nat.ne_of_gt hpos)] at hx
    exact (readFrame_x u c.frm hk).trans ((congrArg word hx).trans (word_saved _))
  · exact (congrArg word (saveFrame_readN hm (header_mem (by simp [c])))).trans (word_saved c.pc)
  · exact (congrArg word (saveFrame_readN hm (header_mem (by simp)))).trans (word_saved cp)
  · exact (congrArg (bit · 0) hstat).trans hprv
  · exact (congrArg (bit · 1) hstat).trans hinh
  · exact (congrArg (bits · 3 2) hstat).trans hprio
  · have hout : u.mem.readN (c.frm + 0x78) 8 = c.out % 2 ^ (8 * 8) := saveFrame_readN hm (header_mem (by simp [c]))
    exact (congrArg (· % 2 ^ 21) hout).trans (Nat.mod_mod_of_dvd _ (Nat.pow_dvd_pow 2 (by decide)))
  · exact (readFrame_q u c.frm hk).trans (saveFrame_readN hm (mask_mem c _ _ _ _ _ _ _ hk))
  · exact (readFrame_h u c.frm hk).trans (saveFrame_readN hm (handle_mem c _ _ _ _ _ _ _ hk))
  · exact (readFrame_sw u c.frm hk).trans ((congrArg word (saveFrame_readN hm (sw_mem c _ _ _ _ _ _ _ hk))).trans (word_saved _))
  · exact (congrArg (u.mem.readN · 4096) (Nat.add_assoc _ _ _)).trans (saveFrame_vreg hm cp dump hn)

end

section
/-! PROOFS. The words that wait in the vector queue issue alike (R31, R35, R36, R41). -/

namespace Sys2Proof.Machine

open Sys2Proof

/-- A flag of a word is a number of one bit. -/
theorem b2n_eq_ofBool (b : Bool) : b2n b = (BitVec.ofBool b).toNat := by cases b <;> rfl

/-- A word that waits in the queue captures a register's low bits alone, is a 32-bit word, and does at issue no more than enter. -/
theorem exec_of_queued {c : Ctx} {i : Instr} {v : VWord} (hv : vword c i = some v) (hq : queued v i) :
    v.whole = false ∧ ∃ n, encodeNat i = some n ∧ n < 2 ^ 32 ∧ ∀ s, exec i s = issue i n s := by
  cases i
  case vadd | vsub | vmul | vdiv | vmin | vmax | vaddVx | vsubVx | vmulVx | vdivVx | vminVx | vmaxVx | vfma | vfms | vfnma | vfnms
    | vfmaVx | vfmsVx | vfnmaVx | vfnmsVx | vsqrt | vrsqrt | vexp | vlog | vtanh | vsigmoid | vfloor | vround | vabs | vneg |
    vrelu | vmov | veq | vne | vlt | vle | veqVx | vneVx | vltVx | vleVx | vsel | qand | qor | qxor | qsub | qnot | qcpy | viadd |
    visub | vimul | vimulh | vimin | vimax | vidiv | virem | vand | vor | vxor | vsll | vsrl | vsra | viaddVx | vimulVx | vandVx |
    vorVx | vxorVx | vsllVx | vsrlVx | vsraVx | vcvtTo | vcvtFrom | vredsum | vredmax | vredmin | vredand | vredor | vredxor | vid
    | vslideup | vslidedn | vshuf | vcompress | vbcast | vhail | vbern | vseed | vtclr | vtget | vtset | vfgu | vld | vlds | vldx
    | vst | vstU | vsts | vstx | vstxU | vldw | vlda | vldc | vstw | vsta | vstc | vaadd | vaaddO | vaswap | vaswapO | vamax |
    vamaxO | vamin | vaminO | vamaxn | vamaxnO | vaminn | vaminnO | vaand | vaandO | vaor | vaorO | vsld | vsst | vbind | vunbind
    | hset | vscl | vldnp | mzero | mmulBf16 | mmulE4m3 | mmulE5m2 | mmulNp4 | mmulNp2 | mmulSpBf16 | mmulSpE4m3 | mmulSpE5m2 |
    mmulSpNp4 | mmulSpNp2 | mdrain | mdrainS | mdrainX | cpl | cpgo | cpv | vdfix =>
    obtain rfl := Option.some.inj hv
    exact ⟨rfl, _, rfl, by simp only [wordR, b2n_eq_ofBool]; omega, fun _ => rfl⟩
  case mshape | mlds | mstat | dsweep | dack | npost | dmove | dfix | dstat | nwait | nctr | cgload | cgrun | cgwait | cgstat |
    nwr =>
    obtain rfl := Option.some.inj hv
    simp [queued, isMmul, front, netWord] at hq
  all_goals exact nomatch hv

/-- The operands that such a word captures are those of R41. -/
theorem entryOf_operands (s : State) (h : Nat) {v : VWord} (hv : v.whole = false) (n : Nat) (done : Bool) :
    (s.entryOf h v n done).opA = opA s h v ∧ (s.entryOf h v n done).opB = opB s h v := by
  unfold State.entryOf opA opB
  constructor
  · cases v.capA <;> rfl
  · rw [hv]
    cases v.capB <;> rfl

section
variable {s : State} {i : Instr} {v : VWord} (hv : vword (s.ctx s.turn) i = some v) (hw : v.whole = false) (n : Nat)
include hv hw

/-- A word that breaks the convoy rules raises CONV (R75, R76). -/
theorem issue_conv (hrules : s.convoyOk s.turn (v.withOpA (opA s s.turn v) i) = false) :
    issue i n s = .next (s.trapEntry s.turn cCONV (word n)) := by
  simp only [issue, issueWith, hv, (entryOf_operands s s.turn hw n false).1, hrules, Bool.not_false, if_true]

/-- One that keeps them and fails its operand checks raises OPND. -/
theorem issue_opnd (hrules : s.convoyOk s.turn (v.withOpA (opA s s.turn v) i) = true)
    (hbad : issueBad s s.turn v (opA s s.turn v) (opB s s.turn v) i = true) :
    issue i n s = .next (s.trapEntry s.turn cOPND (word n)) := by
  obtain ⟨hA, hB⟩ := entryOf_operands s s.turn hw n false
  simp only [issue, issueWith, hv, hA, hB, hrules, hbad, Bool.not_true, Bool.false_eq_true, if_true, if_false]

end

/-- A hart with a word that is not complete behind the others in its queue (R31, R35). -/
def Hart.entered (t : Hart) (alone : Bool) (e : QEntry) : Hart :=
  { t with
    queue := t.queue ++ [e], openConvoy := !alone && decide ((lastConvoy (t.queue ++ [e])).length < 8), noMatch := false, waiting := .none,
    spin := 0, ctx := issuedCtx t.ctx }

/-- What such a word changes as it enters: its hart, and for a matrix word the job of its core's Anvil. -/
theorem enqueue_cases (s : State) (h : Nat) (alone : Bool) {e : QEntry} (he : e.done = false) :
    s.enqueue h alone e = s.setHart h ((s.hart h).entered alone e) ∨
    s.enqueue h alone e = (s.setHart h ((s.hart h).entered alone e)).updCore (coreOf h) (fun k => { k with job := some (newJob h e.seq) }) := by
  unfold State.enqueue
  simp only [he, Bool.false_eq_true, if_false, State.updHart_eq]
  split
  · split
    · exact .inr rfl
    · exact .inl rfl
  · exact .inl rfl

theorem enqueue_hart (s : State) (h : Nat) (alone : Bool) {e : QEntry} (he : e.done = false) (g : Nat) :
    (s.enqueue h alone e).hart g = if h = g then (s.hart h).entered alone e else s.hart g := by
  obtain h1 | h1 := enqueue_cases s h alone he
  · rw [h1, State.hart_setHart]
  · rw [h1]
    exact State.hart_setHart s h g _

theorem enqueue_rest (s : State) (h : Nat) (alone : Bool) {e : QEntry} (he : e.done = false) :
    SameRest s (s.enqueue h alone e) ∧ ∀ c, { (s.enqueue h alone e).core c with job := (s.core c).job } = s.core c := by
  obtain h1 | h1 := enqueue_cases s h alone he
  · rw [h1]
    exact ⟨rfl, fun _ => rfl⟩
  · rw [h1]
    refine ⟨rfl, fun c => ?_⟩
    rw [State.core_updCore]
    split
    · subst_vars; rfl
    · rfl

end Sys2Proof.Machine

open Sys2Proof Sys2Proof.Machine

/-- Settles O28: every such word issues through the one shared meaning, whose checks come in the order CONV, OPND, room. -/
theorem queueWordsEnter : Obligations.QueueWordsEnter := by
  unfold Obligations.QueueWordsEnter
  intro s i w v hw hv hq bad rules
  obtain ⟨hwhole, n, hn, hlt, hexec⟩ := exec_of_queued hv hq
  obtain rfl : BitVec.ofNat 32 n = w := by
    rw [encode, hn] at hw
    exact Option.some.inj hw
  rw [setWidth_ofNat hlt, hexec s]
  refine ⟨fun hrules hbad hroom => ?_, fun hrules => issue_conv hv hwhole n hrules, fun hrules hbad => issue_opnd hv hwhole n hrules hbad⟩
  obtain ⟨hA, hB⟩ := entryOf_operands s s.turn hwhole n false
  have hhart := enqueue_hart s s.turn v.alone (e := s.entryOf s.turn v n false) rfl
  obtain ⟨hrest, hcores⟩ := enqueue_rest s s.turn v.alone (e := s.entryOf s.turn v n false) rfl
  refine ⟨_, _, issue_next hv (by rw [hA]; exact hrules) (by rw [hA, hB]; exact hbad) hroom, rfl, rfl, hA, hB, rfl, rfl, rfl, rfl, ?_,
    fun g hg => (hhart g).trans (if_neg (Ne.symm hg)), hrest, hcores⟩
  rw [hhart, if_pos rfl]
  rfl

end

section
/-! PROOFS. What the scheduler does: a task is placed, installed, saved, woken and ended (R361 to R374). -/

namespace Sys2Proof.Machine

open Sys2Proof

/-! ### What placing a task leaves -/

/-- Nothing but launches, clusters and cores differs. -/
def PlacesOnly (s t : State) : Prop := { t with clusters := s.clusters, launches := s.launches, cores := s.cores } = s

theorem placesOnly_composes : Composes PlacesOnly where
  refl _ := rfl
  trans := by
    intro s t u a b
    unfold PlacesOnly at *
    rw [← a, ← b]

/-- Where a region is free depends on harts alone. -/
theorem freeRegion_congr {s t : State} (h : t.harts = s.harts) (c but vcount : Nat) : t.freeRegion c but vcount = s.freeRegion c but vcount := by
  have hhart : t.hart = s.hart := funext fun g => by simp only [State.hart, h]
  have hctx : t.ctx = s.ctx := funext fun g => by simp only [State.ctx, hhart]
  unfold State.freeRegion
  rw [hhart, hctx]

section
variable {s t : State} (h : PlacesOnly s t)
include h

theorem PlacesOnly.harts : t.harts = s.harts := by
  have := congrArg State.harts h
  exact this
theorem PlacesOnly.tasks : t.tasks = s.tasks := by
  have := congrArg State.tasks h
  exact this
theorem PlacesOnly.mem : t.mem = s.mem := by
  have := congrArg State.mem h
  exact this
theorem PlacesOnly.poison : t.poison = s.poison := by
  have := congrArg State.poison h
  exact this
theorem PlacesOnly.fpool : t.fpool = s.fpool := by
  have := congrArg State.fpool h
  exact this
theorem PlacesOnly.nextTask : t.nextTask = s.nextTask := by
  have := congrArg State.nextTask h
  exact this

/-- What the scheduler asks of the state is answered as before. -/
theorem PlacesOnly.taskOf (n : Nat) : t.taskOf n = s.taskOf n := by rw [State.taskOf, h.tasks, State.taskOf]
theorem PlacesOnly.freeRegion (c but vcount : Nat) : t.freeRegion c but vcount = s.freeRegion c but vcount :=
  freeRegion_congr h.harts c but vcount
theorem PlacesOnly.freeFrame (vcount : Nat) : t.freeFrame vcount = s.freeFrame vcount := by
  have hpool : t.poolRange = s.poolRange := by simp only [State.poolRange, h.fpool]
  have hframes : t.frames = s.frames := by simp only [State.frames, h.tasks]
  unfold State.freeFrame
  rw [hpool, hframes]
theorem PlacesOnly.poisoned (pa len : Nat) : t.poisoned pa len = s.poisoned pa len := by
  simp only [State.poisoned, h.poison]
theorem PlacesOnly.readFrame (base : Nat) : t.readFrame base = s.readFrame base := by
  simp only [State.readFrame, h.mem]
theorem PlacesOnly.frameCp (base : Nat) : t.frameCp base = s.frameCp base := by
  simp only [State.frameCp, h.mem]

end

/-- A launch whose record, and what admission made of it, are those of another. -/
def SameRecord (l m : Launch) : Prop := m.record = l.record ∧ m.rva = l.rva ∧ m.prio = l.prio

/-- Every launch is still there with its record. -/
def KeepsRecords (s t : State) : Prop := ∀ n l, s.launch n = some l → ∃ m, t.launch n = some m ∧ SameRecord l m

theorem keepsRecords_composes : Composes KeepsRecords where
  refl _ := fun _ l hl => ⟨l, hl, rfl, rfl, rfl⟩
  trans := by
    intro s t u a b n l hl
    obtain ⟨m, hm, h1, h2, h3⟩ := a n l hl
    obtain ⟨k, hk, g1, g2, g3⟩ := b n m hm
    exact ⟨k, hk, g1.trans h1, g2.trans h2, g3.trans h3⟩

theorem keepsRecords_of_eq {s t : State} (h : t.launches = s.launches) : KeepsRecords s t :=
  fun _ l hl => ⟨l, by rw [State.launch, h]; exact hl, rfl, rfl, rfl⟩

theorem updLaunch_keepsRecords (s : State) (lno : Nat) {f : Launch → Launch} (hf : ∀ l, SameRecord l (f l)) : KeepsRecords s (s.updLaunch lno f) := by
  intro n l hl
  rw [State.launch_updLaunch]
  split
  · subst_vars
    exact ⟨f l, by rw [hl]; rfl, hf l⟩
  · exact ⟨l, hl, rfl, rfl, rfl⟩

/-- A message to a core changes neither what places a task nor a running gate (R264). -/
theorem wakeCore_placesOnly (s : State) (c : Nat) : PlacesOnly s (s.wakeCore c) := rfl

theorem wakeCore_core (s : State) (c : Nat) : (s.wakeCore c).core c = { s.core c with gate := (s.core c).gate.reached, idle := 0 } := by
  have hcore : (s.wakeCore c).core c = (s.updCore c (fun k => { k with gate := k.gate.reached, idle := 0 })).core c := rfl
  rw [hcore, State.core_updCore, if_pos rfl]

/-- A fold of steps that each keep a relation keeps it. -/
theorem foldl_composes {α : Type} {P : State → State → Prop} (hP : Composes P) {f : State → α → State} (hf : ∀ s a, P s (f s a)) (l : List α)
    (s : State) : P s (l.foldl f s) := by
  induction l generalizing s with
  | nil => exact hP.refl s
  | cons a l ih => exact hP.trans (hf s a) (ih _)

/-- Nothing but clusters differs. -/
def ClustersOnly (s t : State) : Prop := { t with clusters := s.clusters } = s

theorem clustersOnly_composes : Composes ClustersOnly where
  refl _ := rfl
  trans := by
    intro s t u a b
    unfold ClustersOnly at *
    rw [← a, ← b]

theorem ClustersOnly.places {s t : State} (h : ClustersOnly s t) : PlacesOnly s t ∧ t.launches = s.launches ∧ t.cores = s.cores := by
  unfold ClustersOnly at h
  rw [← h]
  exact ⟨rfl, rfl, rfl⟩

theorem holdBarriers_clustersOnly (s : State) (lno cl : Nat) : ClustersOnly s (s.holdBarriers lno cl) := by
  unfold State.holdBarriers
  split <;> rfl

theorem updLaunch_placesOnly (s : State) (lno : Nat) (f : Launch → Launch) : PlacesOnly s (s.updLaunch lno f) ∧ (s.updLaunch lno f).cores = s.cores := by
  unfold State.updLaunch
  split <;> exact ⟨rfl, rfl⟩

/-- New instances are placed on units (R362). -/
theorem bindNew_places (s : State) (lno : Nat) (placed : List (Nat × Nat × Nat)) :
    PlacesOnly s (s.bindNew lno placed) ∧ KeepsRecords s (s.bindNew lno placed) ∧ (s.bindNew lno placed).cores = s.cores := by
  unfold State.bindNew
  dsimp only
  generalize hu : List.foldl _ s placed = u
  have hold : ClustersOnly s u := by
    rw [← hu]
    refine foldl_composes clustersOnly_composes (fun t p => ?_) placed s
    split
    · exact holdBarriers_clustersOnly _ _ _
    · exact holdBarriers_clustersOnly _ _ _
    · exact clustersOnly_composes.refl t
  obtain ⟨hplaces, hlaunches, hcores⟩ := hold.places
  obtain ⟨hupd, hupdCores⟩ := updLaunch_placesOnly u lno (fun l => { l with placed := l.placed ++ placed })
  exact ⟨placesOnly_composes.trans hplaces hupd,
    keepsRecords_composes.trans (keepsRecords_of_eq hlaunches) (updLaunch_keepsRecords u lno (fun _ => ⟨rfl, rfl, rfl⟩)), hupdCores.trans hcores⟩

/-- A moved task's instances are placed anew (R364). -/
theorem rebind_places (s : State) (t : Task) : PlacesOnly s (s.rebind t) ∧ (s.rebind t).cores = s.cores := by
  unfold State.rebind
  split
  · exact ⟨rfl, rfl⟩
  · split
    · split
      · exact ⟨(bindNew_places _ _ _).1, (bindNew_places _ _ _).2.2⟩
      · exact ⟨rfl, rfl⟩
    · exact ⟨rfl, rfl⟩

/-- A launch's allocations on a core are made where it has none (R363). -/
theorem allocate_places (s : State) (lno c : Nat) : PlacesOnly s (s.allocate lno c) := by
  unfold State.allocate
  split
  · rfl
  · split <;> rfl

/-! ### A task on its hart -/

theorem SameRest.mmu {s t : State} (h : SameRest s t) : t.mmu = s.mmu := by
  have := congrArg State.mmu h
  exact this

theorem clearL1_leaves (s : State) (c : Nat) :
    (s.clearL1 c).harts = s.harts ∧ (s.clearL1 c).tasks = s.tasks ∧ (s.clearL1 c).mem = s.mem ∧ (s.clearL1 c).cores = s.cores ∧
    (s.clearL1 c).l1 c = [] := by
  unfold State.clearL1
  split
  · exact ⟨rfl, rfl, rfl, rfl, List.isEmpty_iff.mp ‹_›⟩
  · exact ⟨rfl, rfl, rfl, rfl, Tbl.get_set_self _ _ _ _⟩

/-- A wide acquire drops the core's lines and changes nothing else that a task's start leaves (R125). -/
theorem acquire_leaves (s : State) (h : Nat) :
    (s.acquire h 3).harts = s.harts ∧ (s.acquire h 3).tasks = s.tasks ∧ (s.acquire h 3).mem = s.mem ∧ (s.acquire h 3).l1 (coreOf h) = [] ∧
    ∀ c, ((s.acquire h 3).core c).vf = (s.core c).vf := by
  obtain ⟨hharts, htasks, hmem, hcores, hl1⟩ := clearL1_leaves s (coreOf h)
  have hcore : ∀ c, (s.clearL1 (coreOf h)).core c = s.core c := fun c => by rw [State.core, hcores, State.core]
  unfold State.acquire
  simp only [OfNat.ofNat_ne_zero, if_false]
  split
  · exact ⟨hharts, htasks, hmem, hl1, fun c => congrArg Core.vf (hcore c)⟩
  · refine ⟨hharts, htasks, hmem, hl1, fun c => ?_⟩
    rw [State.core_updCore, ← hcore c]
    split
    · subst_vars; rfl
    · rfl

/-- Task tid is on hart h with a context, before its core acquires and its lane targets are set. -/
def State.seated (s : State) (h tid : Nat) (c : Ctx) : State :=
  (s.setHart h { (s.hart h).vacate with
    task := some tid, ctx := c, startVs := c.vs, startedAt := s.time, sampleCyc := (s.cluster (hartCluster h)).cyc }).updTask tid
      (fun t => { t with st := .running, started := true, hart := h, wake := .none, frame := some c.frm })

theorem install_eq (s : State) (h tid : Nat) (c : Ctx) : s.install h tid c = ((s.seated h tid c).acquire h 3).retarget (coreOf h) := rfl

theorem updTask_rest (s : State) (n : Nat) (f : Task → Task) :
    (s.updTask n f).mem = s.mem ∧ (s.updTask n f).cores = s.cores ∧ (s.updTask n f).time = s.time := by
  unfold State.updTask
  split <;> exact ⟨rfl, rfl, rfl⟩

theorem seated_hart (s : State) (h tid : Nat) (c : Ctx) :
    ((s.seated h tid c).hart h).task = some tid ∧ ((s.seated h tid c).hart h).queue = [] ∧ ((s.seated h tid c).hart h).ctx = c := by
  unfold State.seated
  rw [State.hart, updTask_harts, ← State.hart, State.hart_setHart, if_pos rfl]
  exact ⟨rfl, rfl, rfl⟩

/-- What installing a task on a hart leaves: it runs there from its context, with an empty queue; memory and the vector file stay. -/
theorem install_leaves (s : State) (h tid : Nat) (c : Ctx) :
    ((s.install h tid c).hart h).task = some tid ∧ ((s.install h tid c).hart h).queue = [] ∧ (s.install h tid c).ctx h = c ∧
    (s.install h tid c).taskOf tid =
      (s.taskOf tid).map (fun t => { t with st := .running, started := true, hart := h, wake := .none, frame := some c.frm }) ∧
    (s.install h tid c).mem = s.mem ∧ (s.install h tid c).l1 (coreOf h) = [] ∧ ∀ k, ((s.install h tid c).core k).vf = (s.core k).vf := by
  obtain ⟨htask, hqueue, hctx⟩ := seated_hart s h tid c
  obtain ⟨aharts, atasks, amem, al1, avf⟩ := acquire_leaves (s.seated h tid c) h
  obtain ⟨hrest, hcores⟩ := retarget_rest ((s.seated h tid c).acquire h 3) (coreOf h)
  have ahart : ((s.seated h tid c).acquire h 3).hart h = (s.seated h tid c).hart h := by rw [State.hart, aharts, State.hart]
  have hmmu := hrest.mmu
  obtain ⟨tg, gs, hhart⟩ : ∃ tg gs, (s.install h tid c).hart h = { (s.seated h tid c).hart h with target := tg, groups := gs } := by
    rw [install_eq, ← ahart]
    exact ⟨_, _, retarget_hart _ _ _⟩
  refine ⟨by rw [hhart, htask], by rw [hhart, hqueue], by rw [State.ctx, hhart, hctx], ?_, ?_, ?_, fun k => ?_⟩ <;> rw [install_eq]
  · rw [State.taskOf, hrest.tasks, atasks, State.seated, ← State.taskOf, State.taskOf_updTask, if_pos rfl]
    rfl
  · rw [hrest.mem, amem, State.seated, (updTask_rest _ _ _).1]
    rfl
  · rw [State.l1, hmmu]
    exact al1
  · rw [State.core, hcores, ← State.core, avf, State.core, State.seated, (updTask_rest _ _ _).2.1]
    rfl

/-! ### Saving a task -/

theorem saveFrame_writesHome (s : State) (h : Nat) (cp : Word) (dump : List QEntry) : WritesHome s (s.saveFrame h cp dump) :=
  (putFields_writesHome _ _ _).trans (putFields_writesHome _ _ _)

/-- While a handler runs, the trap area keeps the handler's ENQ (R372). -/
def State.enqKept (s : State) (h : Nat) : State :=
  if (s.ctx h).inh then s.putFields (s.ctx h).frm [(trapArea + 24, 8, (s.ctx h).enq)] else s

/-- Hart h is stopped and its context in its frame (R39, R373). -/
def State.stoppedAndSaved (s : State) (h : Nat) : State :=
  (((s.enqKept h).preciseStop h).1.updCtx h (fun c => { c with strip := { c.strip with pre := true } })).saveFrame h (s.cp h)
    ((s.enqKept h).preciseStop h).2.1

theorem enqKept_writesHome (s : State) (h : Nat) : WritesHome s (s.enqKept h) := by
  unfold State.enqKept
  split
  · exact putFields_writesHome _ _ _
  · exact writesHome_refl s

/-- Neither an entry nor the time has changed. -/
theorem stoppedAndSaved_leaves (s : State) (h : Nat) : (s.stoppedAndSaved h).tasks = s.tasks ∧ (s.stoppedAndSaved h).time = s.time := by
  have henq := enqKept_writesHome s h
  have hstop : SameRest (s.enqKept h) (((s.enqKept h).preciseStop h).1.updCtx h (fun c => { c with strip := { c.strip with pre := true } })) :=
    (preciseStop_rest _ _).trans (updHart_sameRest _ _ (fun t => { t with ctx := { t.ctx with strip := { t.ctx.strip with pre := true } } }))
  have hsave := saveFrame_writesHome (((s.enqKept h).preciseStop h).1.updCtx h (fun c => { c with strip := { c.strip with pre := true } })) h (s.cp h)
    ((s.enqKept h).preciseStop h).2.1
  exact ⟨(hsave.tasks.trans hstop.tasks).trans henq.tasks, (hsave.time.trans hstop.time).trans henq.time⟩

/-- The entry of a saved task. -/
def savedEntry (u : State) (h : Nat) (st : TaskState) (w : Wake) (q : List QEntry) (isOpen : Bool) (t : Task) : Task :=
  { t with
    st := st, since := u.time, wake := w, addrs := q.map (·.addr), openConvoy := isOpen, tepoch := (u.ctx h).tepoch, hart := h, aged := false }

theorem swapOut_eq {s : State} {h tid : Nat} (st : TaskState) (w : Wake) (ht : (s.hart h).task = some tid) :
    ∃ q isOpen, s.swapOut h st w =
      (((s.stoppedAndSaved h).updTask tid (savedEntry (s.stoppedAndSaved h) h st w q isOpen)).setHart h
        (((s.stoppedAndSaved h).updTask tid (savedEntry (s.stoppedAndSaved h) h st w q isOpen)).hart h).vacate).retarget (coreOf h) := by
  refine ⟨((s.enqKept h).preciseStop h).2.1, ((s.enqKept h).preciseStop h).2.2, ?_⟩
  unfold State.swapOut
  rw [ht]
  rfl

/-- The hart of a task that has been saved is free, and its entry holds its new state since now (R39, R368). -/
theorem swapOut_leaves {s : State} {h tid : Nat} (st : TaskState) (w : Wake) (ht : (s.hart h).task = some tid) (hk : (s.taskOf tid).isSome = true) :
    ((s.swapOut h st w).hart h).task = none ∧ ((s.swapOut h st w).taskOf tid).map (fun k => (k.st, k.since)) = some (st, s.time) := by
  obtain ⟨k, hk⟩ := Option.isSome_iff_exists.mp hk
  obtain ⟨q, isOpen, e⟩ := swapOut_eq st w ht
  obtain ⟨htasks, htime⟩ := stoppedAndSaved_leaves s h
  have hentry : (s.stoppedAndSaved h).taskOf tid = some k := by rw [State.taskOf, htasks]; exact hk
  rw [e]
  generalize s.stoppedAndSaved h = u at htime hentry ⊢
  constructor
  · rw [retarget_hart, State.hart_setHart, if_pos rfl]
    rfl
  · rw [State.taskOf, (retarget_rest _ _).1.tasks, State.setHart_tasks, ← State.taskOf, State.taskOf_updTask, if_pos rfl, hentry, ← htime]
    rfl

/-! ### Starting and resuming -/

/-- A launched task without a block starts from its record (R361). -/
theorem startTask_eq {s : State} {h tid : Nat} {t : Task} {l : Launch} {vb f : Nat} (ht : s.taskOf tid = some t) (hl : s.launch t.lno = some l)
    (hv : s.freeRegion (coreOf h) h t.vcount = some vb) (hf : t.frame = some f) (hn : t.named = none) (hs : recStack l.record = 0) :
    s.startTask h tid = (s.allocate t.lno (coreOf h)).install h tid (startCtx l t f vb (s.allocate t.lno (coreOf h)).depoch) := by
  have hblock : ∀ u : State, u.tryM (writeBlock t.lno (hartTower h) l.record t.t t.home) = (some none, u) := by
    intro u
    unfold State.tryM writeBlock
    simp only [hs, if_true]
    rfl
  unfold State.startTask
  simp only [ht, hl, hv, hf, hn, Option.isSome_none, Bool.false_eq_true, if_false, hblock]

/-- The vector region of a resumed task (R373). -/
theorem loadRegion_vf (s : State) (c f vb vcount n : Nat) (hn : n < vcount) :
    Tbl.get 0 ((s.loadRegion c f vb vcount).core c).vf (vb + n) = s.mem.readN (f + 0x80000 + 4096 * n) 4096 := by
  unfold State.loadRegion
  rw [State.core_updCore, if_pos rfl]
  dsimp only
  generalize (s.core c).vf = vf
  induction vcount generalizing vf with
  | zero => exact absurd hn (Nat.not_lt_zero n)
  | succ k ih =>
    rw [List.range_succ, List.foldl_append, List.foldl_cons, List.foldl_nil, Tbl.get_set]
    split
    · rw [show k = n by omega]
    · exact ih (by omega) vf

theorem loadRegion_places (s : State) (c f vb vcount : Nat) : PlacesOnly s (s.loadRegion c f vb vcount) := rfl

/-- Loading an Anvil's saved state changes that core's Anvil and the task's entry (R217). -/
theorem loadAnvil_leaves (s : State) (c tid f : Nat) (t : Task) :
    (s.loadAnvil c tid f t).mem = s.mem ∧ (s.loadAnvil c tid f t).harts = s.harts ∧
    (∀ k, ((s.loadAnvil c tid f t).core k).vf = (s.core k).vf) ∧ ((s.loadAnvil c tid f t).taskOf tid).isSome = (s.taskOf tid).isSome := by
  unfold State.loadAnvil
  split
  · exact ⟨rfl, rfl, fun _ => rfl, rfl⟩
  · refine ⟨(updTask_rest _ _ _).1, updTask_harts _ _ _, fun k => ?_, ?_⟩
    · rw [State.core, (updTask_rest _ _ _).2.1, ← State.core, State.core_updCore]
      split
      · subst_vars; rfl
      · rfl
    · rw [State.taskOf_updTask, if_pos rfl, Option.isSome_map]
      rfl

/-- The context that a frame gives a task on a hart with its region at vb (R373). -/
def restored (s : State) (f vb vcount : Nat) : Ctx := { s.readFrame f with vbase := vb, vcount := vcount, frm := f }

/-- The same with ENQ of the trap area where the task was in a handler. -/
def resumedCtx (s : State) (f vb vcount : Nat) : Ctx :=
  let c := restored s f vb vcount
  if c.inh then { c with enqN := bits (s.mem.readN (f + trapArea + 24) 8) 37 32, enqSeq0 := bits (s.mem.readN (f + trapArea + 24) 8) 15 0 } else c

/-- Task tid, which is t, on hart h as its frame f left it, before its dump is looked at. -/
def State.resumed (s : State) (h tid : Nat) (t : Task) (f vb : Nat) : State :=
  (((s.allocate t.lno (coreOf h)).loadRegion (coreOf h) f vb t.vcount).loadAnvil (coreOf h) tid f t).install h tid (resumedCtx s f vb t.vcount)

/-- A task that has run before resumes where the checks of its dump pass, and ends where they fail (R42). -/
theorem resumeTask_eq {s : State} {h tid : Nat} {t : Task} {vb f : Nat} (ht : s.taskOf tid = some t) (hf : t.frame = some f)
    (hv : s.freeRegion (coreOf h) h t.vcount = some vb) (hp : s.poisoned f (0x80000 + 4096 * t.vcount) = false) :
    s.resumeTask h tid =
      let u := s.resumed h tid t f vb
      let c := restored s f vb t.vcount
      let es := u.readDump f 0x800 (min c.enqN 32) c.enqSeq0 t.addrs (s.frameCp f)
      if u.dumpOk h c.enqN es then u.reissue h (es.map Prod.snd) t.openConvoy c.vs else u.terminateAt h cRSTR 0 (s.frameCp f) := by
  have halloc := allocate_places s t.lno (coreOf h)
  have hread := halloc.readFrame f
  have hcp := halloc.frameCp f
  have hmem := halloc.mem
  unfold State.resumeTask State.resumed resumedCtx restored
  simp only [ht, hf, hv, hp, Bool.false_eq_true, if_false, hread, hcp, hmem]

/-- What the resumed task's hart, entry, registers and core hold. -/
theorem resumed_leaves {s : State} (h : Nat) {tid : Nat} {t : Task} (f vb : Nat) (ht : s.taskOf tid = some t) :
    ((s.resumed h tid t f vb).hart h).task = some tid ∧
    ((s.resumed h tid t f vb).taskOf tid).map (fun k => (k.st, k.hart, k.started)) = some (.running, h, true) ∧
    (s.resumed h tid t f vb).mem = s.mem ∧ (s.resumed h tid t f vb).ctx h = resumedCtx s f vb t.vcount ∧
    (∀ n < t.vcount, Tbl.get 0 ((s.resumed h tid t f vb).core (coreOf h)).vf (vb + n) = s.mem.readN (f + 0x80000 + 4096 * n) 4096) ∧
    (s.resumed h tid t f vb).l1 (coreOf h) = [] := by
  have halloc := allocate_places s t.lno (coreOf h)
  have hregion := loadRegion_places (s.allocate t.lno (coreOf h)) (coreOf h) f vb t.vcount
  obtain ⟨lmem, -, lvf, lentry⟩ := loadAnvil_leaves ((s.allocate t.lno (coreOf h)).loadRegion (coreOf h) f vb t.vcount) (coreOf h) tid f t
  obtain ⟨itask, -, ictx, ientry, imem, il1, ivf⟩ := install_leaves
    (((s.allocate t.lno (coreOf h)).loadRegion (coreOf h) f vb t.vcount).loadAnvil (coreOf h) tid f t) h tid (resumedCtx s f vb t.vcount)
  refine ⟨itask, ?_, ?_, ictx, fun n hn => ?_, il1⟩
  · rw [hregion.taskOf, halloc.taskOf, ht] at lentry
    obtain ⟨k, hk⟩ := Option.isSome_iff_exists.mp lentry
    rw [State.resumed, ientry, hk]
    rfl
  · rw [State.resumed, imem, lmem, hregion.mem, halloc.mem]
  · rw [State.resumed, ivf, lvf, loadRegion_vf _ _ _ _ _ _ hn, halloc.mem]

/-! ### Dispatch -/

/-- A free hart of a running core takes its candidate (R366, R264). -/
theorem exec_taskDispatch {s : State} {h : Nat} {key : CandKey} {c : Cand} (hfree : s.nextFree h = true) (hcand : s.candidate h = some (key, c))
    (hgate : (s.core (coreOf h)).gate = .running) : exec (.taskDispatch h) s = .next ((s.wakeCore (coreOf h)).take h c) := by
  change execTaskDispatch h s = _
  have hrun : (((s.wakeCore (coreOf h)).core (coreOf h)).gate == .running) = true := by
    rw [wakeCore_core, hgate]
    rfl
  simp only [execTaskDispatch, hfree, hcand, hrun, Bool.not_true, Bool.false_eq_true, if_false, if_true]

/-- A task that has run before, and whose Anvil state can be loaded where it has some, is resumed. -/
theorem take_started {s : State} {h tid : Nat} {k : Task} (hk : s.taskOf tid = some k) (hstarted : k.started = true)
    (hanvil : k.anvilSaved = none ∨ (s.core (coreOf h)).anvil.owner = none ∧ (s.core (coreOf h)).anvil.releasing = none) :
    s.take h (.task tid) = (s.rebind k).resumeTask h tid := by
  have hfree : (k.anvilSaved.isSome && ((s.core (coreOf h)).anvil.owner.isSome || (s.core (coreOf h)).anvil.releasing.isSome)) = false := by
    obtain h1 | ⟨h1, h2⟩ := hanvil
    · simp [h1]
    · simp [h1, h2]
  simp only [State.take, hk, hfree, hstarted, Bool.false_eq_true, if_false, if_true]

/-- The entry of task n of a launch that has just been taken on hart h, with its frame (R366). -/
def freshTask (s : State) (h lno n : Nat) (l : Launch) (f : Nat) : Task :=
  { lno := lno, t := n, named := none, st := .ready, since := l.admitted, started := false, frame := some f,
    home := hartCluster h, hart := h, vcount := recVcount l.record, tepoch := s.depoch, wake := .none,
    anvilCore := none, anvilSaved := none, aged := false, addrs := [], openConvoy := false, trapAddrs := [],
    trapOpen := false, moved := [], swDone := false }

/-- The launch has begun the task, which has its entry and its instances. -/
def State.begun (s : State) (h lno n : Nat) (l : Launch) (f : Nat) (placed : List (Nat × Nat × Nat)) : State :=
  let u := (s.holdBarriers lno (hartCluster h)).bindNew lno placed
  ({ u with tasks := Tbl.set u.tasks s.nextTask (freshTask s h lno n l f), nextTask := s.nextTask + 1 } : State).updLaunch lno
    (fun l => { l with begun := l.begun ++ [n] })

theorem take_fresh {s : State} {h lno n f : Nat} {l : Launch} (placed : List (Nat × Nat × Nat)) (hl : s.launch lno = some l)
    (hf : s.freeFrame (recVcount l.record) = some f) :
    s.take h (.fresh lno n placed) = (s.begun h lno n l f placed).startTask h s.nextTask := by
  simp only [State.take, hl, hf]
  rfl

theorem begun_leaves {s : State} (h lno n : Nat) {l : Launch} (f : Nat) (placed : List (Nat × Nat × Nat)) (hl : s.launch lno = some l) :
    (s.begun h lno n l f placed).harts = s.harts ∧ (s.begun h lno n l f placed).mem = s.mem ∧
    (s.begun h lno n l f placed).taskOf s.nextTask = some (freshTask s h lno n l f) ∧
    ∃ m, (s.begun h lno n l f placed).launch lno = some m ∧ SameRecord l m := by
  obtain ⟨hhold, hlaunches, -⟩ := (holdBarriers_clustersOnly s lno (hartCluster h)).places
  obtain ⟨hbind, hrecords, -⟩ := bindNew_places (s.holdBarriers lno (hartCluster h)) lno placed
  have hplaces := placesOnly_composes.trans hhold hbind
  obtain ⟨m, hm, hsame⟩ := keepsRecords_composes.trans (keepsRecords_of_eq hlaunches) hrecords lno l hl
  unfold State.begun
  generalize (s.holdBarriers lno (hartCluster h)).bindNew lno placed = u at hplaces hm ⊢
  obtain ⟨hupd, -⟩ := updLaunch_placesOnly ({ u with tasks := Tbl.set u.tasks s.nextTask (freshTask s h lno n l f), nextTask := s.nextTask + 1 } : State)
    lno (fun l => { l with begun := l.begun ++ [n] })
  refine ⟨hupd.harts.trans hplaces.harts, hupd.mem.trans hplaces.mem, ?_, ?_⟩
  · rw [hupd.taskOf]
    exact Tbl.find_set_self _ _ _
  · rw [State.launch_updLaunch, if_pos rfl]
    exact ⟨{ m with begun := m.begun ++ [n] }, congrArg (Option.map _) hm, hsame⟩

/-- The context in which a launched task without a stack area starts (R361). -/
theorem startCtx_launched (l : Launch) {t : Task} (f vb depoch : Nat) (hn : t.named = none) (hs : recStack l.record = 0) :
    (startCtx l t f vb depoch).x = [(2, 0), (3, 0), (4, word l.rva)] ∧ (startCtx l t f vb depoch).pc = word (recEntry l.record) ∧
    (startCtx l t f vb depoch).prv = recSupv l.record ∧ (startCtx l t f vb depoch).prio = l.prio ∧
    (startCtx l t f vb depoch).key = word (recKey l.record) ∧ (startCtx l t f vb depoch).strm = word (recStrm l.record + t.t) ∧
    (startCtx l t f vb depoch).tvec = word (recTvec l.record) ∧ (startCtx l t f vb depoch).vs = 0 := by
  unfold startCtx
  simp only [hn, hs, if_true]
  exact ⟨trivial, trivial, trivial, trivial, trivial, trivial, trivial, rfl⟩

/-- A launched task that a free hart takes, and what it starts with (R361, R366). -/
theorem dispatch_fresh {s : State} {h n f vb : Nat} {lno : Nat} {key : CandKey} {placed : List (Nat × Nat × Nat)} {l : Launch}
    (hfree : s.nextFree h = true) (hcand : s.candidate h = some (key, .fresh lno n placed)) (hl : s.launch lno = some l)
    (hgate : (s.core (coreOf h)).gate = .running) (hf : s.freeFrame (recVcount l.record) = some f)
    (hv : s.freeRegion (coreOf h) h (recVcount l.record) = some vb) (hs : recStack l.record = 0) :
    ∃ (u : State) (k : Task) (m : Launch) (d : Nat), exec (.taskDispatch h) s = .next (u.install h s.nextTask (startCtx m k f vb d)) ∧
      u.taskOf s.nextTask = some k ∧ u.mem = s.mem ∧ SameRecord l m ∧ k.named = none ∧ k.lno = lno ∧ k.t = n := by
  have hwake := wakeCore_placesOnly s (coreOf h)
  obtain ⟨bharts, bmem, bentry, m, hm, hsame⟩ :=
    begun_leaves (s := s.wakeCore (coreOf h)) h lno n f placed (show (s.wakeCore (coreOf h)).launch lno = some l from hl)
  have hregion : ((s.wakeCore (coreOf h)).begun h lno n l f placed).freeRegion (coreOf h) h (recVcount l.record) = some vb :=
    (freeRegion_congr (bharts.trans hwake.harts) _ _ _).trans hv
  have hstart := startTask_eq bentry hm hregion rfl rfl (hsame.1 ▸ hs)
  have halloc := allocate_places ((s.wakeCore (coreOf h)).begun h lno n l f placed) lno (coreOf h)
  have hexec := exec_taskDispatch hfree hcand hgate
  rw [take_fresh placed (show (s.wakeCore (coreOf h)).launch lno = some l from hl) ((hwake.freeFrame _).trans hf), hstart] at hexec
  exact ⟨_, _, m, _, hexec, (halloc.taskOf _).trans bentry, halloc.mem.trans (bmem.trans hwake.mem), hsame, rfl, rfl, rfl⟩

/-- A task that has run before, and that a free hart takes (R42, R373). -/
theorem dispatch_started {s : State} {h tid f vb : Nat} {key : CandKey} {k : Task}
    (hfree : s.nextFree h = true) (hcand : s.candidate h = some (key, .task tid)) (hk : s.taskOf tid = some k) (hstarted : k.started = true)
    (hanvil : k.anvilSaved = none ∨ (s.core (coreOf h)).anvil.owner = none ∧ (s.core (coreOf h)).anvil.releasing = none)
    (hgate : (s.core (coreOf h)).gate = .running) (hv : s.freeRegion (coreOf h) h k.vcount = some vb)
    (hp : s.poisoned f (0x80000 + 4096 * k.vcount) = false) :
    ∃ v : State, PlacesOnly s v ∧ exec (.taskDispatch h) s = .next (v.resumeTask h tid) ∧ v.taskOf tid = some k ∧
      v.freeRegion (coreOf h) h k.vcount = some vb ∧ v.poisoned f (0x80000 + 4096 * k.vcount) = false := by
  have hplaces : PlacesOnly s ((s.wakeCore (coreOf h)).rebind k) := placesOnly_composes.trans (wakeCore_placesOnly s (coreOf h)) (rebind_places _ k).1
  have hexec := exec_taskDispatch hfree hcand hgate
  rw [take_started (s := s.wakeCore (coreOf h)) hk hstarted (by rw [wakeCore_core]; exact hanvil)] at hexec
  exact ⟨_, hplaces, hexec, (hplaces.taskOf tid).trans hk, (hplaces.freeRegion _ _ _).trans hv, (hplaces.poisoned _ _).trans hp⟩

end Sys2Proof.Machine

open Sys2Proof Sys2Proof.Machine

/-- Settles O46: each event is one of the scheduler's operations, and each operation has a lemma above that says what it leaves. -/
theorem schedulerEvents : Obligations.SchedulerEvents := by
  unfold Obligations.SchedulerEvents
  refine ⟨?fresh, ?resumed, ?idle, ?preempted, ?aged, ?spun, ?woken, ?ended⟩
  case fresh =>
    intro s h key lno n placed l hfree hcand hl hgate hf hv hs
    obtain ⟨f, hf⟩ := Option.isSome_iff_exists.mp hf
    obtain ⟨vb, hv⟩ := Option.isSome_iff_exists.mp hv
    obtain ⟨u, k, m, d, hexec, hentry, hmem, hsame, hnamed, hlno, hn⟩ := dispatch_fresh hfree hcand hl hgate hf hv hs
    obtain ⟨hrecord, hrva, hprio⟩ := hsame
    obtain ⟨itask, iqueue, ictx, ientry, imem, -, -⟩ := install_leaves u h s.nextTask (startCtx m k f vb d)
    obtain ⟨cx, cpc, cprv, cprio, ckey, cstrm, ctvec, cvs⟩ := startCtx_launched m f vb d hnamed (hrecord ▸ hs)
    rw [hentry, Option.map_some] at ientry
    refine ⟨_, _, hexec, itask, ientry, rfl, hlno, hn, ?_, ?_, ?_, ?_, ?_, ?_, ?_, ?_, ?_, ?_, iqueue, fun b => by rw [imem, hmem]⟩
    · rw [State.pc, ictx, cpc, hrecord]
    · rw [State.x, ictx, cx]; rfl
    · rw [State.x, ictx, cx]; rfl
    · rw [State.x, ictx, cx, ← hrva]; rfl
    · rw [ictx, cprv, hrecord]
    · rw [ictx, cprio, hprio]
    · rw [ictx, ckey, hrecord]
    · rw [ictx, cstrm, hrecord, hn]
    · rw [ictx, ctvec, hrecord]
    · rw [ictx, cvs]
  case resumed =>
    intro s h key tid k f vb hfree hcand hk hstarted hf hanvil hgate hv hp c enq
    obtain ⟨v, hplaces, hexec, hkv, hvv, hpv⟩ := dispatch_started hfree hcand hk hstarted hanvil hgate hv hp
    obtain ⟨utask, uentry, umem, uctx, uvf, ul1⟩ := resumed_leaves (s := v) h f vb hkv
    have hmem := hplaces.mem
    have hc : restored v f vb k.vcount = c := by rw [restored, hplaces.readFrame]
    refine ⟨v.resumed h tid k f vb, utask, uentry, fun b => by rw [umem, hmem], ?_, fun n hn => by rw [uvf n hn, hmem], ul1, ?_⟩
    · rw [uctx, resumedCtx, hc, hmem]
    · rw [hexec, resumeTask_eq hkv hf hvv hpv, hc, hplaces.frameCp]
  case idle =>
    intro s h hfree hcand
    change execTaskDispatch h s = _
    simp only [execTaskDispatch, hfree, hcand, Bool.not_true, Bool.false_eq_true, if_false]
  case preempted =>
    intro s h tid hpre hmay hheld ht hk
    obtain ⟨hfree, hentry⟩ := swapOut_leaves .ready .none ht hk
    refine ⟨_, ?_, hfree, hentry⟩
    change execPreemption h s = _
    simp only [execPreemption, hpre, hmay, hheld, Option.isNone_none, Bool.and_self, if_true]
  case aged =>
    intro s tid k hk hst hdue
    refine ⟨s.updTask tid (fun t => { t with aged := true }), ?_, ?_, fun n hn => ?_⟩
    · have hdue' : 1000 * max 1 (bits s.schcfg 63 48) ≤ s.time - k.since := by
        have : bits s.schcfg 63 48 = s.schcfg / 2 ^ 48 % 2 ^ 16 := rfl
        omega
      change execAgeWindowExpiry tid s = _
      simp only [execAgeWindowExpiry, hk, hst, hdue', decide_true, beq_self_eq_true, Bool.and_self, if_true]
    · rw [State.taskOf_updTask, if_pos rfl, hk]
      rfl
    · rw [State.taskOf_updTask, if_neg (Ne.symm hn)]
  case spun =>
    intro s h tid w hspun hsave ht hk
    obtain ⟨hfree, hentry⟩ := swapOut_leaves (if s.wakes (s.hartLno h) w then .ready else .parked) (if s.wakes (s.hartLno h) w then .none else w) ht hk
    refine ⟨_, ?_, hfree, hentry⟩
    change execSpinBudgetExpiry h s = _
    simp only [execSpinBudgetExpiry, hspun, hsave, Bool.not_true, Bool.false_eq_true, if_false]
  case woken =>
    intro s tid k hk hst hwakes
    refine ⟨s.updTask tid (fun t => { t.toReady s.time with wake := .none }), ?_, ?_, fun n hn => ?_⟩
    · change execWake tid s = _
      simp only [execWake, hk, hst, hwakes, beq_self_eq_true, Bool.and_self, if_true]
    · rw [State.taskOf_updTask, if_pos rfl, hk]
      rfl
    · rw [State.taskOf_updTask, if_neg (Ne.symm hn)]
  case ended =>
    intro s h tid k ht hk hpc hq hsave
    refine ⟨_, ?_, endTask_leaves (s.ctx h) (s.cp h) hk⟩
    change execTaskEnd h s = _
    simp only [execTaskEnd, ht, hpc, hq, hsave, bne_self_eq_false, List.isEmpty_nil, Bool.not_true, Bool.or_self, Bool.false_eq_true, if_false]

end

section
/-! PROOFS. The decoder and the encoder agree (R71, R78 to R89). -/

namespace Sys2Proof.Laws.Encoding

open Sys2Proof Sys2Proof.Machine Sys2Proof.Laws

/-- The lemmas about the constructors, one for each in the order of the type, are its case analysis. -/
theorem statement_all (i : Instr) : Statement i :=
  Instr.casesOn i
    vadd vsub vmul vdiv vmin vmax vaddVx vsubVx vmulVx vdivVx vminVx vmaxVx vfma vfms vfnma vfnms vfmaVx vfmsVx vfnmaVx vfnmsVx vsqrt
    vrsqrt vexp vlog vtanh vsigmoid vfloor vround vabs vneg vrelu vmov veq vne vlt vle veqVx vneVx vltVx vleVx vsel qand qor qxor qsub
    qnot qcpy viadd visub vimul vimulh vimin vimax vidiv virem vand vor vxor vsll vsrl vsra viaddVx vimulVx vandVx vorVx vxorVx vsllVx
    vsrlVx vsraVx vcvtTo vcvtFrom vredsum vredmax vredmin vredand vredor vredxor vid vslideup vslidedn vshuf vcompress vbcast vhail vbern
    vseed vtclr vtget vtset vfgu vld vlds vldx vst vstU vsts vstx vstxU vldw vstw vlda vsta vldc vstc vaadd vaswap vamax vamin vamaxn
    vaminn vaand vaor vaaddO vaswapO vamaxO vaminO vamaxnO vaminnO vaandO vaorO vsld vsst vbind vunbind hset vscl vldnp mshape mlds mzero
    mstat mmulBf16 mmulE4m3 mmulE5m2 mmulNp4 mmulNp2 mmulSpBf16 mmulSpE4m3 mmulSpE5m2 mmulSpNp4 mmulSpNp2 mdrain mdrainS mdrainX cpl cpgo
    cpv dmove dfix vdfix dsweep dack dstat nwr npost nwait nctr cgload cgrun cgwait cgstat add sub and or xor sll srl sra slt sltn seq sne
    fadd fsub fmul fdiv ffma fsqrt fmin fmax feq flt fle fcvtI fcvtN fcvtFi fcvtFn mul mulh mulhn div divn rem remn addi andi ori xori
    slti sltni slli srli srai jalr lim apc beq bne blt bge bltn bgen jal ld64 ld32 ld32n ld16 ld16n ld8 ld8n st64 st32 st16 st8 lrx scx
    aswap aadd aand aor axor amax amin amaxn aminn acas ainc afab lrx32 scx32 aswap32 aadd32 aand32 aor32 axor32 amax32 amin32 amaxn32
    aminn32 acas32 ainc32 afab32 halt yield tlbinv rdcyc rdtime rdctr vdrain fenceAcq fenceRel fence trap tret ebrk cget cset vcfg vgrant
    wbase barArrive barWait tskDef tskDec lnch lwait sndClaim sndGive sndStat convoyCommit gustCycle remoteBufferMessage remoteReply
    layerPass anvilFree layerTempReport slewStep copyRun gatherRecord driftCopyLine switch chainCompression taskDispatch preemption
    ageWindowExpiry spinBudgetExpiry wake taskEnd launchEnd graphNodeLaunch soundingSliceForward soundingMerge packageReset selfTest
    powerLoss summary logread regr regw thcfgWrite primeZoneWrite fpoolWrite jscfgWrite service resume tdump dbgset dbggo harton fwstage
    fwapply firmwareTowerApply netsync commsync doorbell launch gdef gedit grun gfree kill registerWrite hostMemAccess hostSnoop
    atsInvalidate pageRequest prgSuccess prgInvalidRequest prgResponseFailure getVersion getCapabilities negotiateAlgorithms getDigests
    getCertificate challenge getMeasurements keyExchange finish endSession keyset sensorReading shelterPowerOff shelterBoundExpiry
    shelterReturn watchdogExpiry parityError fatalFault eccError patrolScrub contrailSample dewpointSample coreGate gateEntryComplete
    wakeComplete ldoSettle benlarFlit benlarLinkLoss ethernetFrame packetSend transportPacket sack retransmissionTimeout peerTimeout
    nakRetransmit chunkStart chunkEnd chunkLine credit adderLine rstrArrive jetstreamTimeout notAnInstruction instructionFetchFault badcmd
    badrecEntry

end Sys2Proof.Laws.Encoding

namespace Sys2Proof.Laws

open Sys2Proof Sys2Proof.Machine

/-! ### What the decoder answers -/

/-- Whatever instruction the answer r holds, it is well formed, and n is its word. -/
def Names (r : Except Reject Instr) (n : Nat) : Prop := ∀ i, r = .ok i → i.wellFormed = true ∧ encodeNat i = some n

theorem names_error (e : Reject) (n : Nat) : Names (.error e) n := fun _ h => nomatch h

theorem names_ok {i : Instr} {n m : Nat} (hw : i.wellFormed = true) (he : encodeNat i = some m) (hm : m = n) : Names (.ok i) n := by
  rintro j ⟨⟩
  exact ⟨hw, hm ▸ he⟩

/-- An answer under conditions is an instruction only where all of them hold. -/
theorem names_chk {cs : List (Bool × Reject)} {i : Instr} {n m : Nat} (he : encodeNat i = some m)
    (h : cs.all Prod.fst = true → i.wellFormed = true ∧ m = n) : Names (chk cs i) n := by
  induction cs with
  | nil => exact names_ok (h rfl).1 he (h rfl).2
  | cons c cs ih =>
    rw [chk]
    split
    case isTrue hc => exact ih (fun hcs => h (by simp [hc, hcs]))
    case isFalse => exact names_error _ _

/-- The same for an instruction that is well formed with every value of its fields. -/
theorem names_free {cs : List (Bool × Reject)} {i : Instr} {n m : Nat} (hw : i.wellFormed = true) (he : encodeNat i = some m)
    (h : cs.all Prod.fst = true → m = n) : Names (chk cs i) n := names_chk he (fun hc => ⟨hw, h hc⟩)

/-! ### Fields as bit vectors -/

theorem ofNat_beq {w p q : Nat} (hp : p < 2 ^ w) (hq : q < 2 ^ w) : (BitVec.ofNat w p == BitVec.ofNat w q) = (p == q) := by
  rw [Bool.eq_iff_iff, beq_iff_eq, beq_iff_eq, ← BitVec.toNat_inj, BitVec.toNat_ofNat, BitVec.toNat_ofNat, Nat.mod_eq_of_lt hp,
    Nat.mod_eq_of_lt hq]

theorem ofNat_bne {w p q : Nat} (hp : p < 2 ^ w) (hq : q < 2 ^ w) : (BitVec.ofNat w p != BitVec.ofNat w q) = (p != q) :=
  congrArg not (ofNat_beq hp hq)

theorem b2n_beq_one {q : Nat} (hq : q < 2) : b2n (q == 1) = q := by
  interval_cases q <;> rfl

theorem assignedFormat_ofNat {b : Nat} (hb : b < 16) : assignedFormat (.ofNat 4 b) = !(decide (5 ≤ b) && decide (b ≤ 7)) := by
  rw [assignedFormat, BitVec.toNat_ofNat, Nat.mod_eq_of_lt hb]

theorem assignedSelect_ofNat {s : Nat} (hs : s < 256) : assignedSelect (BitVec.ofNat 8 s).toNat = assignedSelect s := by
  rw [BitVec.toNat_ofNat, Nat.mod_eq_of_lt hs]

theorem srcRule_ofNat {a b : Nat} (ha : a < 128) (hb : b < 128) (s : Bool) :
    srcRule (.ofNat 7 a) (.ofNat 7 b) s = if s then a == 0 else b == 0 := by
  cases s
  · exact ofNat_beq hb (by decide)
  · exact ofNat_beq ha (by decide)

theorem scope_wf {s : Nat} (hs : s % 8 ≤ 4) : decide ((BitVec.ofNat 3 (s % 8)).toNat ≤ 4) = true := by
  simpa using hs

/-- The fields XP and FE of a buffer load are not 3 (R86). -/
theorem qualifier_wf {b : Nat} (hxp : (b / 4 % 4 != 3) = true) (hfe : (b % 4 != 3) = true) :
    (BitVec.ofNat 2 (b / 4 % 4) != 3 && BitVec.ofNat 2 (b % 4) != 3) = true := by
  rw [Bool.and_eq_true]
  exact ⟨(ofNat_bne (q := 3) (by omega) (by decide)).trans hxp, (ofNat_bne (q := 3) (by omega) (by decide)).trans hfe⟩

/-! ### The majors of format R: every row of the function's table names the word it was read from -/

section
variable {d a b : Nat} (k m : Bool) (f : Nat) (h : d < 128 ∧ a < 128 ∧ b < 128)
include h

theorem dec01_names : Names (dec01 k d a b f) (wordR 0x01 f k d a b) := by
  unfold dec01
  split
  case h_13 => exact names_error _ _
  all_goals exact names_ok rfl rfl (by simp [Nat.mod_eq_of_lt, h])

theorem dec02_names : Names (dec02 k d a b f) (wordR 0x02 f k d a b) := by
  unfold dec02
  split
  case h_16 => exact names_error _ _
  case h_6 | h_12 | h_13 | h_14 | h_15 => exact names_free rfl rfl (by simp +contextual [Nat.mod_eq_of_lt, h])
  all_goals exact names_ok rfl rfl (by simp [Nat.mod_eq_of_lt, h])

theorem dec03_names : Names (dec03 k d a b f) (wordR 0x03 f k d a b) := by
  unfold dec03
  split
  case h_8 => exact names_error _ _
  all_goals exact names_ok rfl rfl (by simp [Nat.mod_eq_of_lt, h])

theorem dec1B_names : Names (dec1B k d a b f) (wordR 0x1B f k d a b) := by
  unfold dec1B
  split
  case h_15 => exact names_error _ _
  case h_1 => exact names_free rfl rfl (by simp +contextual [Nat.mod_eq_of_lt, h])
  all_goals exact names_ok rfl rfl (by simp [Nat.mod_eq_of_lt, h])

theorem dec1C_names : Names (dec1C k d a b f) (wordR 0x1C f k d a b) := by
  unfold dec1C
  split
  case h_15 => exact names_error _ _
  case h_1 => exact names_free rfl rfl (by simp +contextual [Nat.mod_eq_of_lt, h])
  all_goals exact names_ok rfl rfl (by simp [Nat.mod_eq_of_lt, h])

theorem dec20_names : Names (dec20 k d a b f m) (wordR 0x20 (2 * f + b2n m) k d a b) := by
  unfold dec20
  split
  case h_7 => exact names_error _ _
  all_goals exact names_ok rfl rfl (by simp [Nat.mod_eq_of_lt, h])

theorem dec21_names : Names (dec21 k d a b f m) (wordR 0x21 (2 * f + b2n m) k d a b) := by
  unfold dec21
  split
  case h_7 => exact names_error _ _
  all_goals exact names_ok rfl rfl (by simp [Nat.mod_eq_of_lt, h])

theorem dec22_names : Names (dec22 k d a b f m) (wordR 0x22 (2 * f + b2n m) k d a b) := by
  unfold dec22
  split
  case h_9 => exact names_error _ _
  all_goals exact names_ok rfl rfl (by simp [Nat.mod_eq_of_lt, h])

theorem dec23_names : Names (dec23 k d a b f m) (wordR 0x23 (2 * f + b2n m) k d a b) := by
  unfold dec23
  split
  case h_9 => exact names_error _ _
  all_goals exact names_free rfl rfl (by simp +contextual [Nat.mod_eq_of_lt, h])

theorem dec24_names : Names (dec24 k d a b f m) (wordR 0x24 (2 * f + b2n m) k d a b) := by
  unfold dec24
  split
  case h_5 => exact names_error _ _
  all_goals exact names_free rfl rfl (by simp +contextual [Nat.mod_eq_of_lt, h])

theorem dec25_names : Names (dec25 k d a b f m) (wordR 0x25 (2 * f + b2n m) k d a b) := by
  unfold dec25
  split
  case h_9 => exact names_error _ _
  all_goals exact names_free rfl rfl (by simp +contextual [Nat.mod_eq_of_lt, h])

theorem dec26_names : Names (dec26 k d a b f m) (wordR 0x26 (2 * f + b2n m) k d a b) := by
  unfold dec26
  split
  case h_8 => exact names_error _ _
  all_goals exact names_free rfl rfl (by simp +contextual [Nat.mod_eq_of_lt, h, b2n])

theorem dec27_names : Names (dec27 k d a b f m) (wordR 0x27 (2 * f + b2n m) k d a b) := by
  unfold dec27
  split
  case h_9 => exact names_error _ _
  all_goals exact names_ok rfl rfl (by simp [Nat.mod_eq_of_lt, h])

theorem dec28_names : Names (dec28 k d a b f m) (wordR 0x28 (2 * f + b2n m) k d a b) := by
  unfold dec28
  split
  case h_7 => exact names_error _ _
  all_goals exact names_ok rfl rfl (by simp [Nat.mod_eq_of_lt, h])

theorem dec29_names : Names (dec29 k d a b f m) (wordR 0x29 (2 * f + b2n m) k d a b) := by
  unfold dec29
  split
  case h_9 => exact names_error _ _
  all_goals exact names_ok rfl rfl (by simp [Nat.mod_eq_of_lt, h])

theorem dec2A_names : Names (dec2A k d a b f m) (wordR 0x2A (2 * f + b2n m) k d a b) := by
  unfold dec2A
  split
  case h_3 => exact names_error _ _
  all_goals
    refine names_chk rfl fun hc => ?_
    obtain ⟨hb, hf⟩ : b < 16 ∧ (!(decide (5 ≤ b) && decide (b ≤ 7))) = true := by simpa using hc
    exact ⟨(assignedFormat_ofNat hb).trans hf, by simp [Nat.mod_eq_of_lt, h, hb]⟩

theorem dec2B_names : Names (dec2B k d a b f m) (wordR 0x2B (2 * f + b2n m) k d a b) := by
  unfold dec2B
  split
  case h_7 => exact names_error _ _
  all_goals exact names_free rfl rfl (by simp +contextual [Nat.mod_eq_of_lt, h])

theorem dec2C_names : Names (dec2C k d a b f m) (wordR 0x2C (2 * f + b2n m) k d a b) := by
  unfold dec2C
  split
  case h_7 => exact names_error _ _
  case h_2 | h_3 | h_4 => exact names_ok rfl rfl (by simp [Nat.mod_eq_of_lt, h])
  all_goals exact names_free rfl rfl (by simp +contextual [Nat.mod_eq_of_lt, h, b2n])

theorem dec2D_names : Names (dec2D k d a b f m) (wordR 0x2D (2 * f + b2n m) k d a b) := by
  unfold dec2D
  split
  case h_3 => exact names_error _ _
  all_goals exact names_free rfl rfl (by simp +contextual [Nat.mod_eq_of_lt, h, b2n])

theorem dec2E_names : Names (dec2E k d a b f m) (wordR 0x2E (2 * f + b2n m) k d a b) := by
  unfold dec2E
  split
  case h_6 => exact names_error _ _
  case h_2 => exact names_free rfl rfl (by simp +contextual [Nat.mod_eq_of_lt, h])
  all_goals exact names_ok rfl rfl (by simp [Nat.mod_eq_of_lt, h])

theorem dec2F_names : Names (dec2F k d a b f m) (wordR 0x2F (2 * f + b2n m) k d a b) := by
  unfold dec2F
  split
  case h_4 => exact names_error _ _
  all_goals exact names_free rfl rfl (by simp +contextual [Nat.mod_eq_of_lt, h, b2n])

theorem dec30_names : Names (dec30 k d a b f m) (wordR 0x30 (2 * f + b2n m) k d a b) := by
  unfold dec30
  split
  case h_9 => exact names_error _ _
  case h_1 | h_4 | h_5 => exact names_free rfl rfl (by simp +contextual [Nat.mod_eq_of_lt, h])
  all_goals exact names_ok rfl rfl (by simp [Nat.mod_eq_of_lt, h])

theorem dec31_names : Names (dec31 k d a b f m) (wordR 0x31 (2 * f + b2n m) k d a b) := by
  have hr : b2n (b / 64 == 1) = b / 64 := b2n_beq_one (by omega)
  have he : b2n (b % 2 == 1) = b % 2 := b2n_beq_one (by omega)
  unfold dec31
  split
  case h_7 => exact names_error _ _
  -- loads: XP and FE are not 3
  case h_1 =>
    refine names_chk rfl fun hc => ?_
    simp only [List.all_cons, List.all_nil, Bool.and_true, Bool.and_eq_true, beq_iff_eq] at hc
    obtain ⟨hrem, hzero, hxp, hfe⟩ := hc
    refine ⟨qualifier_wf hxp hfe, ?_⟩
    simp only [BitVec.toNat_ofNat]
    congr 1 <;> omega
  case h_3 | h_5 =>
    refine names_chk rfl fun hc => ?_
    simp only [List.all_cons, List.all_nil, Bool.and_true, Bool.and_eq_true, beq_iff_eq] at hc
    obtain ⟨hzero, hxp, hfe⟩ := hc
    refine ⟨qualifier_wf hxp hfe, ?_⟩
    simp only [BitVec.toNat_ofNat, hr]
    congr 1 <;> omega
  -- stores: XP is 0 and FE is 0 or 1
  case h_2 | h_4 | h_6 =>
    refine names_free rfl rfl fun hc => ?_
    simp only [List.all_cons, List.all_nil, Bool.and_true, Bool.and_eq_true, beq_iff_eq] at hc
    simp only [BitVec.toNat_ofNat, hr, he]
    congr 1 <;> omega

theorem dec32_names : Names (dec32 k d a b f m) (wordR 0x32 (2 * f + b2n m) k d a b) := by
  unfold dec32
  split
  case h_9 => exact names_error _ _
  all_goals exact names_ok rfl rfl (by simp [Nat.mod_eq_of_lt, h])

theorem dec33_names : Names (dec33 k d a b f m) (wordR 0x33 (2 * f + b2n m) k d a b) := by
  unfold dec33
  split
  case h_9 => exact names_error _ _
  all_goals exact names_ok rfl rfl (by simp [Nat.mod_eq_of_lt, h])

theorem dec34_names : Names (dec34 k d a b f m) (wordR 0x34 (2 * f + b2n m) k d a b) := by
  unfold dec34
  split
  case h_7 => exact names_error _ _
  all_goals exact names_free rfl rfl (by simp +contextual [Nat.mod_eq_of_lt, h, b2n])

theorem dec35_names : Names (dec35 k d a b f m) (wordR 0x35 (2 * f + b2n m) k d a b) := by
  unfold dec35
  split
  case h_2 => exact names_error _ _
  case h_1 =>
    refine names_chk rfl fun hc => ⟨(ofNat_bne (w := 3) (q := 0) (by omega) (by decide)).trans (by simpa using hc), ?_⟩
    simp only [BitVec.toNat_ofNat]
    congr 1 <;> omega

theorem dec38_names : Names (dec38 k d a b f m) (wordR 0x38 (2 * f + b2n m) k d a b) := by
  unfold dec38
  split
  case h_5 => exact names_error _ _
  all_goals exact names_free rfl rfl (by simp +contextual [Nat.mod_eq_of_lt, h, b2n])

theorem dec39_names : Names (dec39 k d a b f m) (wordR 0x39 (2 * f + b2n m) k d a b) := by
  unfold dec39
  split
  case h_6 => exact names_error _ _
  all_goals
    refine names_chk rfl fun hc => ?_
    obtain ⟨hd, hs⟩ : d < 16 ∧ (if m then a == 0 else b == 0) = true := by simpa using hc
    exact ⟨(srcRule_ofNat h.2.1 h.2.2 m).trans hs, by simp [Nat.mod_eq_of_lt, h, hd]⟩

theorem dec3A_names : Names (dec3A k d a b f m) (wordR 0x3A (2 * f + b2n m) k d a b) := by
  unfold dec3A
  split
  case h_6 => exact names_error _ _
  all_goals
    refine names_chk rfl fun hc => ?_
    obtain ⟨hd, hs⟩ : d < 16 ∧ (if m then a == 0 else b == 0) = true := by simpa using hc
    exact ⟨(srcRule_ofNat h.2.1 h.2.2 m).trans hs, by simp [Nat.mod_eq_of_lt, h, hd]⟩

theorem dec3B_names : Names (dec3B k d a b f m) (wordR 0x3B (2 * f + b2n m) k d a b) := by
  unfold dec3B
  split
  case h_4 => exact names_error _ _
  all_goals exact names_free rfl rfl (by simp +contextual [Nat.mod_eq_of_lt, h])

theorem dec3C_names : Names (dec3C k d a b f) (wordR 0x3C f k d a b) := by
  unfold dec3C
  split
  case h_10 => exact names_error _ _
  case h_3 | h_6 | h_9 => exact names_ok rfl rfl (by simp [Nat.mod_eq_of_lt, h])
  all_goals exact names_free rfl rfl (by simp +contextual [Nat.mod_eq_of_lt, h])

theorem dec3D_names : Names (dec3D k d a b f) (wordR 0x3D f k d a b) := by
  unfold dec3D
  split
  case h_9 => exact names_error _ _
  case h_1 | h_2 => exact names_free rfl rfl (by simp +contextual [Nat.mod_eq_of_lt, h])
  all_goals exact names_ok rfl rfl (by simp [Nat.mod_eq_of_lt, h])

theorem dec3E_names : Names (dec3E k d a b f) (wordR 0x3E f k d a b) := by
  unfold dec3E
  split
  case h_10 => exact names_error _ _
  case h_4 | h_7 | h_8 => exact names_free rfl rfl (by simp +contextual [Nat.mod_eq_of_lt, h])
  all_goals exact names_ok rfl rfl (by simp [Nat.mod_eq_of_lt, h])

end

/-! ### The majors with an immediate or a select -/

section
variable {d a f : Nat} (k : Bool) (h : d < 128 ∧ a < 128) (hf : f < 2048)
include h

theorem dec00_names : Names (dec00 k d a f) (wordI 0x00 k d a f) := by
  unfold dec00
  split
  case isTrue hsel =>
    refine names_free rfl rfl fun hc => ?_
    have ha : a = 0 := by simpa using hc
    rw [ha, BitVec.toNat_ofNat, BitVec.toNat_ofNat, Nat.mod_eq_of_lt h.1]
    congr 1; omega
  split
  case h_6 => exact names_error _ _
  all_goals exact names_free rfl rfl (by simp +contextual [Nat.mod_eq_of_lt, h])

theorem dec1D_names : Names (dec1D k d a f) (wordI 0x1D k d a f) := by
  have fence {base : Nat} (hs : f / 8 = base / 8) (hb : base % 8 = 0)
      (hc : [(d == 0, Reject.unusedField), (a == 0, Reject.unusedField)].all Prod.fst = true) :
      wordI 0x1D k 0 0 (base + (BitVec.ofNat 3 (f % 8)).toNat) = wordI 0x1D k d a f := by
    obtain ⟨rfl, rfl⟩ : d = 0 ∧ a = 0 := by simpa using hc
    rw [BitVec.toNat_ofNat]
    congr 1; omega
  unfold dec1D
  split
  case isTrue hsel => exact names_chk rfl fun hc => ⟨scope_wf hsel.2, fence hsel.1 rfl hc⟩
  split
  case isTrue hsel => exact names_chk rfl fun hc => ⟨scope_wf hsel.2, fence hsel.1 rfl hc⟩
  split
  case isTrue hsel => exact names_chk rfl fun hc => ⟨scope_wf hsel.2, fence hsel.1 rfl hc⟩
  split
  case h_5 => exact names_error _ _
  all_goals exact names_free rfl rfl (by simp +contextual [Nat.mod_eq_of_lt, h])

include hf

theorem dec05_names : Names (dec05 k d a f) (wordI 0x05 k d a f) := by
  unfold dec05
  split
  case h_1 | h_2 | h_3 | h_4 | h_5 =>
    refine names_ok rfl rfl ?_
    simp only [BitVec.toNat_ofNat]
    congr 1 <;> omega
  -- a shift: bits [13:12] are zero
  all_goals
    refine names_free rfl rfl fun hc => ?_
    have hzero : f / 64 % 4 = 0 := by simpa using hc
    simp only [BitVec.toNat_ofNat]
  case h_6 | h_7 => congr 1 <;> omega
  case h_8 =>
    have hsel : f / 256 = 7 := by grind
    congr 1 <;> omega

end

/-! ### Every word -/

section
variable {n : Nat}

theorem fields_lt (n : Nat) : n / 2 ^ 24 % 128 < 128 ∧ n / 2 ^ 17 % 128 < 128 ∧ n / 2 ^ 10 % 128 < 128 := by omega

theorem fields_ofNat (n : Nat) : (BitVec.ofNat 7 (n / 2 ^ 24 % 128)).toNat = n / 2 ^ 24 % 128 ∧
    (BitVec.ofNat 7 (n / 2 ^ 17 % 128)).toNat = n / 2 ^ 17 % 128 := by simp

/-- A number below 2^32 is the word of its own fields, in each format (R71). -/
theorem wordR_fields_eq (hn : n < 2 ^ 32) :
    wordR (n % 64) (n / 64 % 16) (n / 2 ^ 31 % 2 == 1) (n / 2 ^ 24 % 128) (n / 2 ^ 17 % 128) (n / 2 ^ 10 % 128) = n := by
  rw [wordR, b2n_beq_one (by omega)]; omega

theorem wordI_fields_eq (hn : n < 2 ^ 32) :
    wordI (n % 64) (n / 2 ^ 31 % 2 == 1) (n / 2 ^ 24 % 128) (n / 2 ^ 17 % 128) (n / 64 % 2048) = n := by
  rw [wordI, b2n_beq_one (by omega)]; omega

theorem wordL_fields_eq (hn : n < 2 ^ 32) : wordL (n % 64) (n / 2 ^ 31 % 2 == 1) (n / 2 ^ 24 % 128) (n / 64 % 2 ^ 18) = n := by
  rw [wordL, b2n_beq_one (by omega)]; omega

theorem wordJ_fields_eq (hn : n < 2 ^ 32) : wordJ (n % 64) (n / 2 ^ 31 % 2 == 1) (n / 64 % 2 ^ 25) = n := by
  rw [wordJ, b2n_beq_one (by omega)]; omega

variable {r : Except Reject Instr} {maj : Nat} (hn : n < 2 ^ 32) (hm : n % 64 = maj)
include hn hm

theorem Names.ofR (h : Names r (wordR maj (n / 64 % 16) (n / 2 ^ 31 % 2 == 1) (n / 2 ^ 24 % 128) (n / 2 ^ 17 % 128) (n / 2 ^ 10 % 128))) :
    Names r n := by
  rwa [← hm, wordR_fields_eq hn] at h

/-- F4 is fn3 and bit [6] (R71). -/
theorem Names.ofFn3 (h : Names r (wordR maj (2 * (n / 64 % 16 / 2) + b2n (n / 64 % 16 % 2 == 1)) (n / 2 ^ 31 % 2 == 1) (n / 2 ^ 24 % 128)
    (n / 2 ^ 17 % 128) (n / 2 ^ 10 % 128))) : Names r n := by
  rw [b2n_beq_one (by omega), Nat.div_add_mod] at h
  exact h.ofR hn hm

theorem Names.ofI (h : Names r (wordI maj (n / 2 ^ 31 % 2 == 1) (n / 2 ^ 24 % 128) (n / 2 ^ 17 % 128) (n / 64 % 2048))) : Names r n := by
  rwa [← hm, wordI_fields_eq hn] at h

theorem wordI_ofNat : wordI maj (n / 2 ^ 31 % 2 == 1) (BitVec.ofNat 7 (n / 2 ^ 24 % 128)).toNat (BitVec.ofNat 7 (n / 2 ^ 17 % 128)).toNat
    (BitVec.ofNat 11 (n / 64 % 2048)).toNat = n := by
  rw [(fields_ofNat n).1, (fields_ofNat n).2, BitVec.toNat_ofNat, Nat.mod_mod, ← hm]
  exact wordI_fields_eq hn

theorem wordL_ofNat :
    wordL maj (n / 2 ^ 31 % 2 == 1) (BitVec.ofNat 7 (n / 2 ^ 24 % 128)).toNat (BitVec.ofNat 18 (n / 64 % 2 ^ 18)).toNat = n := by
  rw [(fields_ofNat n).1, BitVec.toNat_ofNat, Nat.mod_mod, ← hm]
  exact wordL_fields_eq hn

end

/-- A word of the vector queue: its major's table, and the fields put together again. -/
theorem decodeQueue_names {n : Nat} (hn : n < 2 ^ 32) {r : Except Reject Instr} (hr : decodeQueue n = some r) : Names r n := by
  have h := fields_lt n
  simp only [decodeQueue] at hr
  split at hr <;> cases hr
  case h_1 hm => exact (dec20_names _ _ _ h).ofFn3 hn hm
  case h_2 hm => exact (dec21_names _ _ _ h).ofFn3 hn hm
  case h_3 hm => exact (dec22_names _ _ _ h).ofFn3 hn hm
  case h_4 hm => exact (dec23_names _ _ _ h).ofFn3 hn hm
  case h_5 hm => exact (dec24_names _ _ _ h).ofFn3 hn hm
  case h_6 hm => exact (dec25_names _ _ _ h).ofFn3 hn hm
  case h_7 hm => exact (dec26_names _ _ _ h).ofFn3 hn hm
  case h_8 hm => exact (dec27_names _ _ _ h).ofFn3 hn hm
  case h_9 hm => exact (dec28_names _ _ _ h).ofFn3 hn hm
  case h_10 hm => exact (dec29_names _ _ _ h).ofFn3 hn hm
  case h_11 hm => exact (dec2A_names _ _ _ h).ofFn3 hn hm
  case h_12 hm => exact (dec2B_names _ _ _ h).ofFn3 hn hm
  case h_13 hm => exact (dec2C_names _ _ _ h).ofFn3 hn hm
  case h_14 hm => exact (dec2D_names _ _ _ h).ofFn3 hn hm
  case h_15 hm => exact (dec2E_names _ _ _ h).ofFn3 hn hm
  case h_16 hm => exact (dec30_names _ _ _ h).ofFn3 hn hm
  case h_17 hm => exact (dec31_names _ _ _ h).ofFn3 hn hm
  case h_18 hm => exact (dec32_names _ _ _ h).ofFn3 hn hm
  case h_19 hm => exact (dec33_names _ _ _ h).ofFn3 hn hm
  case h_20 hm => exact (dec34_names _ _ _ h).ofFn3 hn hm
  case h_21 hm => exact (dec35_names _ _ _ h).ofFn3 hn hm
  case h_22 hm => exact (dec38_names _ _ _ h).ofFn3 hn hm
  case h_23 hm => exact (dec39_names _ _ _ h).ofFn3 hn hm
  case h_24 hm => exact (dec3A_names _ _ _ h).ofFn3 hn hm
  case h_25 hm => exact (dec3B_names _ _ _ h).ofFn3 hn hm
  case h_26 hm => exact (dec3C_names _ _ h).ofR hn hm
  case h_27 hm => exact (dec3D_names _ _ h).ofR hn hm

/-- Every word: one of the queue, one of a table of the scalar front, or one whose whole immediate is the instruction's. -/
theorem decodeNat_names {n : Nat} (hn : n < 2 ^ 32) : Names (decodeNat n) n := by
  have h := fields_lt n
  have hda : n / 2 ^ 24 % 128 < 128 ∧ n / 2 ^ 17 % 128 < 128 := ⟨h.1, h.2.1⟩
  simp only [decodeNat]
  split
  case h_1 r hr => exact decodeQueue_names hn hr
  split
  case h_1 hm => exact (dec00_names _ hda).ofI hn hm
  case h_2 hm => exact (dec01_names _ _ h).ofR hn hm
  case h_3 hm => exact (dec02_names _ _ h).ofR hn hm
  case h_4 hm => exact (dec03_names _ _ h).ofR hn hm
  case h_6 hm => exact (dec05_names _ hda (Nat.mod_lt _ (by decide))).ofI hn hm
  case h_8 hm | h_9 hm => exact names_ok rfl rfl (wordL_ofNat hn hm)
  case h_16 hm => exact names_ok rfl rfl (by rw [BitVec.toNat_ofNat, Nat.mod_mod, ← hm, wordJ_fields_eq hn])
  case h_28 hm => exact (dec1B_names _ _ h).ofR hn hm
  case h_29 hm => exact (dec1C_names _ _ h).ofR hn hm
  case h_30 hm => exact (dec1D_names _ hda).ofI hn hm
  case h_31 hm =>
    refine Names.ofI hn hm (names_chk rfl fun hc => ?_)
    obtain ⟨hlt, hz, hs⟩ : n / 64 % 2048 < 256 ∧ n / 2 ^ 17 % 128 = 0 ∧ assignedSelect (n / 64 % 2048) = true := by simpa using hc
    refine ⟨(assignedSelect_ofNat hlt).trans hs, ?_⟩
    rw [hz, (fields_ofNat n).1, BitVec.toNat_ofNat, Nat.mod_eq_of_lt (show _ < 2 ^ 8 from hlt)]
  case h_32 hm =>
    refine Names.ofI hn hm (names_chk rfl fun hc => ?_)
    obtain ⟨hlt, hz, hs⟩ : n / 64 % 2048 < 256 ∧ n / 2 ^ 24 % 128 = 0 ∧ assignedSelect (n / 64 % 2048) = true := by simpa using hc
    refine ⟨(assignedSelect_ofNat hlt).trans hs, ?_⟩
    rw [hz, (fields_ofNat n).2, BitVec.toNat_ofNat, Nat.mod_eq_of_lt (show _ < 2 ^ 8 from hlt)]
  case h_33 hm => exact (dec2F_names _ _ _ h).ofFn3 hn hm
  case h_34 hm => exact (dec3E_names _ _ h).ofR hn hm
  case h_35 => exact names_error _ _
  all_goals exact names_ok rfl rfl (wordI_ofNat hn ‹_›)

end Sys2Proof.Laws

open Sys2Proof Sys2Proof.Machine

/-- Settles O1: every constructor has its lemma. -/
theorem encodeThenDecode : Obligations.EncodeThenDecode := by
  unfold Obligations.EncodeThenDecode
  exact fun i w hwf henc => Laws.Encoding.statement_all i hwf w henc

/-- Settles O2: each row of each major answers an instruction whose word is put together again from the fields it was read from. -/
theorem decodeThenEncode : Obligations.DecodeThenEncode := by
  unfold Obligations.DecodeThenEncode
  intro w i hdec
  obtain ⟨hwf, henc⟩ := Laws.decodeNat_names w.isLt i hdec
  exact ⟨hwf, by rw [encode, henc, Option.map_some, BitVec.ofNat_toNat, BitVec.setWidth_eq]⟩

end

section
/-! PROOFS. The checks of a word before it has any effect (R75, R89, R90). -/

namespace Sys2Proof.Machine

open Sys2Proof Sys2Proof.Laws

/-! ### A word and its number -/

/-- EVAL of a word that traps: the word, as it was encoded. -/
theorem setWidth_of_encode {i : Instr} {n : Nat} {w : Word32} (henc : encodeNat i = some n) (hn : n < 2 ^ 32) (hw : encode i = some w) :
    w.toNat = n ∧ w.setWidth 64 = word n := by
  rw [encode, henc, Option.map_some, Option.some.injEq] at hw
  subst hw
  have hlt : (BitVec.ofNat 32 n).toNat = n := by rw [BitVec.toNat_ofNat, Nat.mod_eq_of_lt hn]
  exact ⟨hlt, setWidth_ofNat hn⟩

/-- A word of format I is a 32-bit word. -/
theorem wordI_lt {m i d a : Nat} (k : Bool) (hm : m < 64) (hi : i < 2048) (ha : a < 128) (hd : d < 128) : wordI m k d a i < 2 ^ 32 := by
  rw [wordI_eq]
  exact wordR_lt k hm (by omega) (by omega) ha hd

theorem wordI_eval {i : Instr} {w : Word32} {m f d a : Nat} {k : Bool} (henc : encodeNat i = some (wordI m k d a f)) (hm : m < 64)
    (hf : f < 2048) (ha : a < 128) (hd : d < 128) (hw : encode i = some w) : w.setWidth 64 = word (wordI m k d a f) :=
  (setWidth_of_encode henc (wordI_lt k hm hf ha hd) hw).2

/-- The major of a word is that of its number. -/
theorem major_of_encode {i : Instr} {n : Nat} {w : Word32} (henc : encodeNat i = some n) (hw : encode i = some w) :
    w.toNat % 64 = n % 64 := by
  rw [encode, henc, Option.map_some, Option.some.injEq] at hw
  subst hw
  rw [BitVec.toNat_ofNat]
  omega

theorem wordR_major (m f d a b : Nat) (k : Bool) : wordR m f k d a b % 64 = m % 64 := by
  simp only [wordR]; omega

/-- A word of a major from 0x20 on is none of the scalar majors. -/
theorem not_scalarMajor {i : Instr} {w : Word32} {m f d a b : Nat} {k : Bool} (henc : encodeNat i = some (wordR m f k d a b))
    (hm : 0x20 ≤ m % 64) (hw : encode i = some w) : ¬ w.toNat % 64 < 0x20 := by
  rw [major_of_encode henc hw, wordR_major]
  omega

/-- The registers with an S-write field are those of a supervisor's cset (R25). -/
theorem forSupervisor_cset (k : Bool) (a : BitVec 7) (sel : BitVec 8) : forSupervisor (.cset k a sel) = sWrite sel.toNat := by
  have beq (m : BitVec 8) : (sel == m) = (sel.toNat == m.toNat) := by
    rw [Bool.eq_iff_iff, beq_iff_eq, beq_iff_eq, BitVec.toNat_inj]
  change (sel == 0x21 || sel == 0x23 || sel == 0x31) = _
  rw [beq, beq, beq]
  rfl

/-! ### CONV -/

section
variable {s : State} {i : Instr} {w : Word32} {k : Bool}

/-- Where the meaning raises CONV with K = 0, so does the word, whose bit 31 is 0. -/
theorem conv_of_bit {n : Nat} (henc : encodeNat i = some n) (hn : n < 2 ^ 32) (hk : (n / 2 ^ 31 % 2 == 1) = k)
    (hexec : k = false → exec i s = .next (s.trapEntry s.turn cCONV (word n))) (hw : encode i = some w) (hlow : w.toNat < 2 ^ 31) :
    exec i s = .next (s.trapEntry s.turn cCONV (w.setWidth 64)) := by
  obtain ⟨hnat, heval⟩ := setWidth_of_encode henc hn hw
  rw [heval]
  refine hexec (hk.symm.trans ?_)
  rw [hnat] at hlow
  rw [Nat.div_eq_of_lt hlow]
  rfl

theorem conv_R {m f d a b : Nat} (henc : encodeNat i = some (wordR m f k d a b)) (hm : m < 64) (hf : f < 16) (hd : d < 128) (ha : a < 128)
    (hb : b < 128) (hexec : k = false → exec i s = .next (s.trapEntry s.turn cCONV (word (wordR m f k d a b)))) (hw : encode i = some w)
    (hlow : w.toNat < 2 ^ 31) : exec i s = .next (s.trapEntry s.turn cCONV (w.setWidth 64)) := by
  obtain ⟨-, -, -, -, -, hk⟩ := wordR_fields k hm hf hb ha hd
  exact conv_of_bit henc (wordR_lt k hm hf hb ha hd) hk hexec hw hlow

theorem conv_I {m f d a : Nat} (henc : encodeNat i = some (wordI m k d a f)) (hm : m < 64) (hf : f < 2048) (hd : d < 128) (ha : a < 128)
    (hexec : k = false → exec i s = .next (s.trapEntry s.turn cCONV (word (wordI m k d a f)))) (hw : encode i = some w)
    (hlow : w.toNat < 2 ^ 31) : exec i s = .next (s.trapEntry s.turn cCONV (w.setWidth 64)) := by
  obtain ⟨-, -, -, -, hk⟩ := wordI_fields k hm hf ha hd
  exact conv_of_bit henc (wordI_lt k hm hf ha hd) hk hexec hw hlow

theorem conv_L {m d f : Nat} (henc : encodeNat i = some (wordL m k d f)) (hm : m < 64) (hf : f < 2 ^ 18) (hd : d < 128)
    (hexec : k = false → exec i s = .next (s.trapEntry s.turn cCONV (word (wordL m k d f)))) (hw : encode i = some w)
    (hlow : w.toNat < 2 ^ 31) : exec i s = .next (s.trapEntry s.turn cCONV (w.setWidth 64)) := by
  obtain ⟨hlt, -, -, -, hk⟩ := wordL_fields k hm hf hd
  exact conv_of_bit henc hlt hk hexec hw hlow

end

/-- A word of the scalar majors with K = 0 raises CONV, where no check of its own comes first (R75, R90). -/
theorem exec_conv {s : State} {i : Instr} {w : Word32} (hw : encode i = some w) (hmaj : w.toNat % 64 < 0x20) (hlow : w.toNat < 2 ^ 31)
    (hsel : badSelect i = false) (hprv : forSupervisor i = true → (s.ctx s.turn).prv = true)
    (hinh : ∀ k, i = .tret k → (s.ctx s.turn).inh = true) : exec i s = .next (s.trapEntry s.turn cCONV (w.setWidth 64)) := by
  cases i
  -- words of the other majors, and events
  case vadd | vsub | vmul | vdiv | vmin | vmax | vaddVx | vsubVx | vmulVx | vdivVx | vminVx | vmaxVx | vfma | vfms | vfnma | vfnms |
    vfmaVx | vfmsVx | vfnmaVx | vfnmsVx | vsqrt | vrsqrt | vexp | vlog | vtanh | vsigmoid | vfloor | vround | vabs | vneg | vrelu | vmov |
    veq | vne | vlt | vle | veqVx | vneVx | vltVx | vleVx | vsel | qand | qor | qxor | qsub | qnot | qcpy | viadd | visub | vimul |
    vimulh | vimin | vimax | vidiv | virem | vand | vor | vxor | vsll | vsrl | vsra | viaddVx | vimulVx | vandVx | vorVx | vxorVx |
    vsllVx | vsrlVx | vsraVx | vcvtTo | vcvtFrom | vredsum | vredmax | vredmin | vredand | vredor | vredxor | vid | vslideup | vslidedn |
    vshuf | vcompress | vbcast | vhail | vbern | vseed | vtclr | vtget | vtset | vfgu | vld | vlds | vldx | vst | vstU | vsts | vstx |
    vstxU | vldw | vstw | vlda | vsta | vldc | vstc | vaadd | vaswap | vamax | vamin | vamaxn | vaminn | vaand | vaor | vaaddO | vaswapO |
    vamaxO | vaminO | vamaxnO | vaminnO | vaandO | vaorO | vsld | vsst | vbind | vunbind | hset | vscl | vldnp | mshape | mlds | mzero |
    mstat | mmulBf16 | mmulE4m3 | mmulE5m2 | mmulNp4 | mmulNp2 | mmulSpBf16 | mmulSpE4m3 | mmulSpE5m2 | mmulSpNp4 | mmulSpNp2 | mdrain |
    mdrainS | mdrainX | cpl | cpgo | cpv | dmove | dfix | vdfix | dsweep | dack | dstat | nwr | npost | nwait | nctr | cgload | cgrun |
    cgwait | cgstat | vcfg | vgrant | wbase | barArrive | barWait | tskDef | tskDec | lnch | lwait | sndClaim | sndGive | sndStat =>
    exact absurd hmaj (not_scalarMajor rfl (by decide) hw)
  case convoyCommit | gustCycle | remoteBufferMessage | remoteReply | layerPass | anvilFree | layerTempReport | slewStep | copyRun |
    gatherRecord | driftCopyLine | switch | chainCompression | taskDispatch | preemption | ageWindowExpiry | spinBudgetExpiry | wake |
    taskEnd | launchEnd | graphNodeLaunch | soundingSliceForward | soundingMerge | packageReset | selfTest | powerLoss | summary |
    logread | regr | regw | thcfgWrite | primeZoneWrite | fpoolWrite | jscfgWrite | service | resume | tdump | dbgset | dbggo | harton |
    fwstage | fwapply | firmwareTowerApply | netsync | commsync | doorbell | launch | gdef | gedit | grun | gfree | kill | registerWrite |
    hostMemAccess | hostSnoop | atsInvalidate | pageRequest | prgSuccess | prgInvalidRequest | prgResponseFailure | getVersion |
    getCapabilities | negotiateAlgorithms | getDigests | getCertificate | challenge | getMeasurements | keyExchange | finish |
    endSession | keyset | sensorReading | shelterPowerOff | shelterBoundExpiry | shelterReturn | watchdogExpiry | parityError |
    fatalFault | eccError | patrolScrub | contrailSample | dewpointSample | coreGate | gateEntryComplete | wakeComplete | ldoSettle |
    benlarFlit | benlarLinkLoss | ethernetFrame | packetSend | transportPacket | sack | retransmissionTimeout | peerTimeout |
    nakRetransmit | chunkStart | chunkEnd | chunkLine | credit | adderLine | rstrArrive | jetstreamTimeout | notAnInstruction |
    instructionFetchFault | badcmd | badrecEntry =>
    exact nomatch hw
  -- words with K alone before their effect
  case add | sub | and | or | xor | sll | srl | sra | slt | sltn | seq | sne | fadd | fsub | fmul | fdiv | ffma | fmin | fmax | feq |
    flt | fle | mul | mulh | mulhn | div | divn | rem | remn | scx | aswap | aadd | aand | aor | axor | amax | amin | amaxn | aminn |
    acas | ainc | afab | scx32 | aswap32 | aadd32 | aand32 | aor32 | axor32 | amax32 | amin32 | amaxn32 | aminn32 | acas32 | ainc32 |
    afab32 =>
    exact conv_R rfl (by decide) (by decide) (BitVec.isLt _) (BitVec.isLt _) (BitVec.isLt _) (by rintro rfl; rfl) hw hlow
  case fsqrt | fcvtI | fcvtN | fcvtFi | fcvtFn | lrx | lrx32 =>
    exact conv_R rfl (by decide) (by decide) (BitVec.isLt _) (BitVec.isLt _) (by decide) (by rintro rfl; rfl) hw hlow
  case addi | jalr | beq | bne | blt | bge | bltn | bgen | ld64 | ld32 | ld32n | ld16 | ld16n | ld8 | ld8n | st64 | st32 | st16 | st8 =>
    exact conv_I rfl (by decide) (BitVec.isLt _) (BitVec.isLt _) (BitVec.isLt _) (by rintro rfl; rfl) hw hlow
  case andi | ori | xori | slti | sltni | slli | srli | srai =>
    exact conv_I rfl (by decide) (by omega) (BitVec.isLt _) (BitVec.isLt _) (by rintro rfl; rfl) hw hlow
  case lim | apc => exact conv_L rfl (by decide) (BitVec.isLt _) (BitVec.isLt _) (by rintro rfl; rfl) hw hlow
  case jal k f =>
    obtain ⟨hlt, -, -, hk⟩ := wordJ_fields (m := 0x0F) k (by decide) f.isLt
    exact conv_of_bit rfl hlt hk (by rintro rfl; rfl) hw hlow
  case yield | vdrain | ebrk => exact conv_I rfl (by decide) (by decide) (by decide) (by decide) (by rintro rfl; rfl) hw hlow
  case rdcyc | rdtime => exact conv_I rfl (by decide) (by decide) (BitVec.isLt _) (by decide) (by rintro rfl; rfl) hw hlow
  case rdctr k d n => exact conv_I rfl (by decide) (by omega) d.isLt (by decide) (by rintro rfl; rfl) hw hlow
  case fenceAcq | fenceRel | fence =>
    exact conv_I rfl (by decide) (by omega) (by decide) (by decide) (by rintro rfl; rfl) hw hlow
  case trap k a => exact conv_I rfl (by decide) (by decide) (by decide) a.isLt (by rintro rfl; rfl) hw hlow
  -- words with a check before it
  case halt k => exact conv_I rfl (by decide) (by decide) (by decide) (by decide) (by rintro rfl; exact if_pos (hprv rfl)) hw hlow
  case tlbinv k a => exact conv_I rfl (by decide) (by decide) (by decide) a.isLt (by rintro rfl; exact if_pos (hprv rfl)) hw hlow
  case tret k =>
    refine conv_I rfl (by decide) (by decide) (by decide) (by decide) ?_ hw hlow
    rintro rfl
    change execTret false s = _
    simp only [execTret, hinh false rfl, Bool.not_true, Bool.false_eq_true, if_false]
    rfl
  case cget k d f =>
    refine conv_I rfl (by decide) (by omega) d.isLt (by decide) ?_ hw hlow
    rintro rfl
    change execCget false d f s = _
    have hok : assignedSelect f.toNat = true := by simpa [badSelect] using hsel
    simp only [execCget, hok, Bool.not_true, Bool.false_eq_true, if_false]
    rfl
  case cset k a f =>
    refine conv_I rfl (by decide) (by omega) (by decide) a.isLt ?_ hw hlow
    rintro rfl
    change execCset false a f s = _
    have hok : assignedSelect f.toNat = true := by simpa [badSelect] using hsel
    have hmay : (sWrite f.toNat && !(s.ctx s.turn).prv) = false := by
      rw [← forSupervisor_cset false a]
      cases hsup : forSupervisor (.cset false a f)
      · rfl
      · rw [hprv hsup]; rfl
    simp only [execCset, hok, hmay, Bool.not_true, Bool.false_eq_true, if_false]
    rfl

/-! ### ILL and PRIV -/

section
variable {s : State} {k : Bool} {w : Word32}

theorem exec_cget_ill {d : BitVec 7} {sel : BitVec 8} (hw : encode (.cget k d sel) = some w) (hsel : assignedSelect sel.toNat = false) :
    exec (.cget k d sel) s = .next (s.trapEntry s.turn cILL (w.setWidth 64)) := by
  rw [wordI_eval rfl (by decide) (by omega) (by decide) (BitVec.isLt _) hw]
  change execCget k d sel s = _
  simp only [execCget, hsel, Bool.not_false, if_true]

theorem exec_cset_ill {a : BitVec 7} {sel : BitVec 8} (hw : encode (.cset k a sel) = some w) (hsel : assignedSelect sel.toNat = false) :
    exec (.cset k a sel) s = .next (s.trapEntry s.turn cILL (w.setWidth 64)) := by
  rw [wordI_eval rfl (by decide) (by omega) (BitVec.isLt _) (by decide) hw]
  change execCset k a sel s = _
  simp only [execCset, hsel, Bool.not_false, if_true]

theorem exec_tret_outside (hw : encode (.tret k) = some w) (hinh : (s.ctx s.turn).inh = false) :
    exec (.tret k) s = .next (s.trapEntry s.turn cILL (w.setWidth 64)) := by
  rw [wordI_eval rfl (by decide) (by decide) (by decide) (by decide) hw]
  change execTret k s = _
  simp only [execTret, hinh, Bool.not_false, if_true]

/-- A supervisor word at task privilege, whatever its K (R90). -/
theorem exec_priv {i : Instr} (hw : encode i = some w) (hsel : badSelect i = false) (hsup : forSupervisor i = true)
    (hprv : (s.ctx s.turn).prv = false) : exec i s = .next (s.trapEntry s.turn cPRIV (w.setWidth 64)) := by
  have hask : ¬ (s.ctx s.turn).prv = true := by simp [hprv]
  unfold forSupervisor at hsup
  split at hsup
  case h_1 k =>
    rw [wordI_eval rfl (by decide) (by decide) (by decide) (by decide) hw]
    exact if_neg hask
  case h_2 k a =>
    rw [wordI_eval rfl (by decide) (by decide) (BitVec.isLt _) (by decide) hw]
    exact if_neg hask
  case h_3 k a sel =>
    rw [wordI_eval rfl (by decide) (by omega) (BitVec.isLt _) (by decide) hw]
    have hok : assignedSelect sel.toNat = true := by simpa [badSelect] using hsel
    have hwrite : sWrite sel.toNat = true := (forSupervisor_cset k a sel).symm.trans hsup
    change execCset k a sel s = _
    simp only [execCset, hok, hwrite, hprv, Bool.not_true, Bool.not_false, Bool.and_self, Bool.false_eq_true, if_false, if_true]
  case h_4 => exact absurd hsup (by decide)

end

end Sys2Proof.Machine

open Sys2Proof Sys2Proof.Machine

/-- Settles O11: the checks of its own that a scalar word makes come before its K, and every scalar word looks at its K before it acts. -/
theorem scalarWordChecks : Obligations.ScalarWordChecks := by
  unfold Obligations.ScalarWordChecks
  refine ⟨fun s i w hw hbad => ?_, fun s i w hw hsel hsup hprv => exec_priv hw hsel hsup hprv,
    fun s i w hw hmaj hlow hsel hprv hinh => exec_conv hw hmaj hlow hsel hprv hinh, fun s k w hw hinh => exec_tret_outside hw hinh⟩
  unfold badSelect at hbad
  split at hbad
  case h_1 => exact exec_cget_ill hw (by simpa using hbad)
  case h_2 => exact exec_cset_ill hw (by simpa using hbad)
  case h_3 => exact absurd hbad (by decide)
end

section
/-! PROOFS. Fetches that fault, and page faults (R89, R120, R348, R349). -/

namespace Sys2Proof.Machine

open Sys2Proof

/-! ### The fetch -/

theorem fetchWord_high {s : State} {h : Nat} (hpc : 2 ^ 56 ≤ (s.pc h).toNat) :
    (fetchWord h).run s = .error (.trap cSACC (s.pc h) false) s := by
  have e : (fetchWord h).run s = (trapM cSACC (word (s.pc h).toNat) : M Word32).run s := by
    unfold fetchWord
    rw [run_get_bind]
    simp only [hpc, if_true]
    rfl
  rw [e, word, BitVec.ofNat_toNat, BitVec.setWidth_eq]
  rfl

theorem fetchWord_miss {s t : State} {h : Nat} {host : Option Nat} (hpc : (s.pc h).toNat < 2 ^ 56)
    (hmiss : (translate (s.reqOf h) .fetch (s.pc h).toNat).run s = .ok (.miss host) t) :
    (fetchWord h).run s = .error (.page { va := (s.pc h).toNat, host := host } (needOf .fetch (s.ctx h).prv)) t := by
  have hlow : ¬ 2 ^ 56 ≤ (s.pc h).toNat := by omega
  unfold fetchWord
  rw [run_get_bind]
  simp only [hlow, if_false]
  rw [run_bind_ok hmiss]
  rfl

/-- A fetch that cannot be served, on a hart with a task (R120). -/
theorem exec_fetchFault {s t : State} {h : Nat} {e : Stop} (htask : (s.hart h).task.isSome = true) (hrun : (fetchWord h).run s = .error e t) :
    exec (.instructionFetchFault h) s = .next (s.stopped t h e) := by
  obtain ⟨tid, ht⟩ := Option.isSome_iff_exists.mp htask
  change execInstructionFetchFault h s = _
  simp only [execInstructionFetchFault, ht, hrun]

/-! ### The page fault -/

/-- An entry that is set stands in the table. -/
theorem Tbl.mem_set {α : Type} (t : Tbl α) (k : Nat) (v : α) : (k, v) ∈ Tbl.set t k v := by
  induction t with
  | nil => simp [Tbl.set]
  | cons e t ih =>
    obtain ⟨i, u⟩ := e
    rw [Tbl.set]
    split
    · exact List.mem_cons_self
    · split
      · exact List.mem_cons_self
      · exact List.mem_cons_of_mem _ ih

/-- The request is for the page p of the launch lno. -/
def PageReq.asks (r : PageReq) (lno : Nat) (p : PageAddr) : Prop := r.lno = lno ∧ r.page = p.host.getD p.va / 65536

theorem PageReq.asks_of_isFor {r : PageReq} {lno : Nat} {p : PageAddr} (hr : r.isFor lno p = true) : r.asks lno p := by
  simp only [PageReq.isFor, Bool.and_eq_true, beq_iff_eq] at hr
  obtain ⟨⟨hlno, hpage⟩, -⟩ := hr
  exact ⟨hlno, hpage⟩

/-- The page is asked for: by a request that waits for a slot, or by one that is out (R349). -/
def State.asked (s : State) (lno : Nat) (p : PageAddr) : Prop :=
  (∃ r ∈ s.pageWait, r.asks lno p) ∨ ∃ k sl r, (k, sl) ∈ s.slots ∧ sl.req = some r ∧ r.asks lno p

/-- Asking for a page joins the request that is out, joins the one that waits, or makes one (R349). -/
theorem requestPage_asked (s : State) (lno : Nat) (p : PageAddr) (need : Nat) (w : Waiter) : (s.requestPage lno p need w).asked lno p := by
  unfold State.requestPage
  split
  case h_1 k slot hfind =>
    obtain ⟨-, hany⟩ : (!slot.dead) = true ∧ slot.req.any (fun r => r.isFor lno p) = true := by simpa using List.find?_some hfind
    cases hreq : slot.req with
    | none => simp [hreq] at hany
    | some r =>
      rw [hreq] at hany
      exact .inr ⟨k, _, r.join p.va need w, Tbl.mem_set _ _ _, rfl, PageReq.asks_of_isFor hany⟩
  case h_2 =>
    left
    split
    case isTrue hany =>
      obtain ⟨r, hmem, hr⟩ := List.any_eq_true.mp hany
      refine ⟨r.join p.va need w, List.mem_map.mpr ⟨r, hmem, if_pos hr⟩, PageReq.asks_of_isFor hr⟩
    case isFalse => exact ⟨_, List.mem_append_right _ List.mem_cons_self, rfl, rfl⟩

theorem requestPage_leaves (s : State) (lno : Nat) (p : PageAddr) (need : Nat) (w : Waiter) :
    (s.requestPage lno p need w).harts = s.harts ∧ (s.requestPage lno p need w).tasks = s.tasks := by
  unfold State.requestPage
  split
  · exact ⟨rfl, rfl⟩
  · split <;> exact ⟨rfl, rfl⟩

/-- Where the context can be saved, the task is swapped out and its page asked for (R348). -/
theorem pageFault_eq {s : State} {h tid : Nat} (p : PageAddr) (need : Nat) (hsave : s.savable h = true) (ht : (s.hart h).task = some tid) :
    s.pageFault h p need = (s.swapOut h .pagewait .none).requestPage (s.hartLno h) p need (.task tid) := by
  have hstop : s.stoppable h = true := by
    simp only [State.savable, Bool.and_eq_true] at hsave
    exact hsave.1
  simp only [State.pageFault, hstop, hsave, ht, Bool.not_true, Bool.false_eq_true, if_false]

theorem pageFault_leaves {s : State} {h tid : Nat} (p : PageAddr) (need : Nat) (hsave : s.savable h = true) (ht : (s.hart h).task = some tid)
    (hk : (s.taskOf tid).isSome = true) : ((s.pageFault h p need).hart h).task = none ∧
    ((s.pageFault h p need).taskOf tid).map (fun k => k.st) = some .pagewait ∧ (s.pageFault h p need).asked (s.hartLno h) p := by
  obtain ⟨hfree, hentry⟩ := swapOut_leaves .pagewait .none ht hk
  rw [pageFault_eq p need hsave ht]
  generalize s.swapOut h .pagewait .none = u at hfree hentry
  obtain ⟨hharts, htasks⟩ := requestPage_leaves u (s.hartLno h) p need (.task tid)
  refine ⟨?_, ?_, requestPage_asked _ _ _ _ _⟩
  · rw [State.hart, hharts]
    exact hfree
  · rw [State.taskOf, htasks]
    obtain ⟨k, hk', hst⟩ := Option.map_eq_some_iff.mp hentry
    exact Option.map_eq_some_iff.mpr ⟨k, hk', congrArg Prod.fst hst⟩

end Sys2Proof.Machine

open Sys2Proof Sys2Proof.Machine

/-- Settles O26: a fetch that cannot be served ends in the stop that its fault asks for, and a page fault swaps the task out, then asks
for the page. -/
theorem fetchAndPageFaults : Obligations.FetchAndPageFaults := by
  unfold Obligations.FetchAndPageFaults
  refine ⟨fun s w => rfl, fun s h htask hstop hpc => ?_, fun s h t host htask hpc hmiss => exec_fetchFault htask (fetchWord_miss hpc hmiss),
    fun s h p need tid hsave ht hk => pageFault_leaves p need hsave ht hk⟩
  rw [exec_fetchFault htask (fetchWord_high hpc)]
  simp only [State.stopped, hstop, Bool.not_true, Bool.false_eq_true, if_false]
  rfl
end

section
/-! PROOFS. The layout of a vector register (R20): bytes written are read back, and values and tangents of elements lie apart. -/

namespace Sys2Proof.Machine

open Sys2Proof

/-! ### Bit fields -/

/-- A field replaced, as the bits above it, the new field, and the bits below it. -/
theorem setBits_eq (n : Nat) {hi lo : Nat} (h : lo ≤ hi + 1) (v : Nat) :
    setBits n hi lo v = 2 ^ (hi + 1) * (n / 2 ^ (hi + 1)) + (2 ^ lo * (v % 2 ^ (hi + 1 - lo)) + n % 2 ^ lo) := by
  obtain ⟨w, hw⟩ := Nat.exists_eq_add_of_le h
  have hw' : hi + 1 - lo = w := by omega
  have h1 := Nat.div_add_mod n (2 ^ lo)
  have h2 := Nat.div_add_mod (n / 2 ^ lo) (2 ^ w)
  have h3 : n / 2 ^ (hi + 1) = n / 2 ^ lo / 2 ^ w := by rw [hw, pow_add, Nat.div_div_eq_div_mul]
  simp only [setBits, bits, hw', h3]
  rw [hw, pow_add]
  generalize n / 2 ^ lo / 2 ^ w = q at *
  generalize n / 2 ^ lo % 2 ^ w = m at *
  generalize n % 2 ^ lo = r at *
  generalize v % 2 ^ w = x
  have h4 : n = 2 ^ lo * 2 ^ w * q + m * 2 ^ lo + r := by
    rw [← h1, ← h2]; ring
  rw [h4, mul_comm x]
  omega

/-- The bits after a field is replaced. -/
theorem testBit_setBits (n : Nat) {hi lo : Nat} (h : lo ≤ hi + 1) (v j : Nat) :
    (setBits n hi lo v).testBit j = if lo ≤ j ∧ j ≤ hi then v.testBit (j - lo) else n.testBit j := by
  have hlow : n % 2 ^ lo < 2 ^ lo := Nat.mod_lt _ (by positivity)
  have hfield : 2 ^ lo * (v % 2 ^ (hi + 1 - lo)) + n % 2 ^ lo < 2 ^ (hi + 1) := by
    have hv : v % 2 ^ (hi + 1 - lo) < 2 ^ (hi + 1 - lo) := Nat.mod_lt _ (by positivity)
    have hp : 2 ^ (hi + 1) = 2 ^ lo * 2 ^ (hi + 1 - lo) := by rw [← pow_add]; congr 1; omega
    rw [hp]
    calc _ < 2 ^ lo * (v % 2 ^ (hi + 1 - lo)) + 2 ^ lo := by omega
      _ = 2 ^ lo * (v % 2 ^ (hi + 1 - lo) + 1) := by ring
      _ ≤ _ := Nat.mul_le_mul_left _ hv
  rw [setBits_eq n h v, Nat.testBit_two_pow_mul_add _ hfield, Nat.testBit_two_pow_mul_add _ hlow]
  simp only [Nat.testBit_mod_two_pow, Nat.testBit_div_two_pow]
  by_cases h1 : j < lo
  · simp [h1, show j < hi + 1 by omega, show ¬ lo ≤ j by omega]
  · by_cases h2 : j < hi + 1
    · simp [h1, h2, show lo ≤ j by omega, show j ≤ hi by omega, show j - lo < hi + 1 - lo by omega]
    · simp [h2, show ¬ j ≤ hi by omega, show j - (hi + 1) + (hi + 1) = j by omega]

/-- The bits of bytes [off, off + w). -/
theorem testBit_getAt (r off w j : Nat) : (getAt r off w).testBit j = (decide (j < 8 * w) && r.testBit (8 * off + j)) := by
  rw [getAt, Nat.testBit_mod_two_pow, Nat.testBit_div_two_pow, Nat.add_comm]

/-- Bytes read back where they were written. -/
theorem getAt_putAt_self (r off v : Nat) {w : Nat} (hw : 0 < w) : getAt (putAt r off w v) off w = v % 2 ^ (8 * w) := by
  apply Nat.eq_of_testBit_eq
  intro j
  rw [testBit_getAt, putAt, testBit_setBits _ (by omega), Nat.testBit_mod_two_pow]
  by_cases h : j < 8 * w
  · rw [if_pos (by omega), Nat.add_sub_cancel_left]
  · simp [h]

/-- Bytes elsewhere are left. -/
theorem getAt_putAt_disjoint (r v : Nat) {off w off' w' : Nat} (hw : 0 < w) (h : off + w ≤ off' ∨ off' + w' ≤ off) :
    getAt (putAt r off w v) off' w' = getAt r off' w' := by
  apply Nat.eq_of_testBit_eq
  intro j
  rw [testBit_getAt, testBit_getAt, putAt, testBit_setBits _ (by omega)]
  by_cases hj : j < 8 * w'
  · rw [if_neg (by omega)]
  · simp [hj]

theorem getAt_lt (r off w : Nat) : getAt r off w < 2 ^ (8 * w) := Nat.mod_lt _ (by positivity)

/-! ### The layout of a register (R20) -/

theorem vwOf_pos (ew : Nat) : 0 < vwOf ew := by unfold vwOf; split <;> decide
theorem vwOf_le (ew : Nat) : vwOf ew ≤ 8 := by unfold vwOf; split <;> decide
theorem Ctx.tw_pos (c : Ctx) : 0 < c.tw := by unfold Ctx.tw; split <;> decide
theorem Ctx.tw_le (c : Ctx) : c.tw ≤ 4 := by unfold Ctx.tw; split <;> decide
theorem Ctx.b_lt (c : Ctx) : c.b < 16 := Nat.mod_lt _ (by decide)

/-- A row holds at least one element, whatever the format and B. -/
theorem Ctx.rowOf_pos (c : Ctx) (ew : Nat) : 0 < c.rowOf (vwOf ew) := by
  have hfp : c.fpOf (vwOf ew) ≤ 8 + 15 * 4 :=
    Nat.add_le_add (vwOf_le ew) (Nat.mul_le_mul (Nat.le_of_lt_succ c.b_lt) c.tw_le)
  have := vwOf_pos ew
  exact Nat.div_pos (by omega) (by unfold Ctx.fpOf; omega)

/-- The values and tangents of a row fit its 512 bytes. -/
theorem Ctx.row_fits (c : Ctx) (vw : Nat) : c.rowOf vw * vw + c.b * (c.rowOf vw * c.tw) ≤ 512 := by
  have h := Nat.div_mul_le_self 512 (c.fpOf vw)
  have e : c.rowOf vw * (vw + c.b * c.tw) = c.rowOf vw * vw + c.b * (c.rowOf vw * c.tw) := by ring
  exact e ▸ h

/-- Two byte ranges [a, a + m) and [b, b + n) share no byte. -/
def Apart (a m b n : Nat) : Prop := a + m ≤ b ∨ b + n ≤ a

/-- Ranges of rows of 512 bytes are apart where their rows differ or they are apart in a row. -/
theorem apart_rows {r r' a m b n : Nat} (ha : a + m ≤ 512) (hb : b + n ≤ 512) (h : r = r' → Apart a m b n) :
    Apart (512 * r + a) m (512 * r' + b) n := by
  unfold Apart at *
  rcases Nat.lt_trichotomy r r' with hr | hr | hr
  · omega
  · have := h hr; omega
  · omega

/-- Places of an array of w bytes each. -/
theorem apart_places {p q w : Nat} (h : p ≠ q) : Apart (p * w) w (q * w) w := by
  unfold Apart
  rcases Nat.lt_or_gt_of_ne h with h | h
  · exact .inl (by rw [← Nat.succ_mul]; exact Nat.mul_le_mul_right w h)
  · exact .inr (by rw [← Nat.succ_mul]; exact Nat.mul_le_mul_right w h)

theorem place_fits {p e w : Nat} (h : p < e) : p * w + w ≤ e * w := by
  rw [← Nat.succ_mul]; exact Nat.mul_le_mul_right w h

/-- The tangents of a row as one array. -/
theorem Ctx.tanOff_eq (c : Ctx) (vw i k : Nat) :
    c.tanOff vw i k = 512 * (i / c.rowOf vw) + (c.rowOf vw * vw + (k * c.rowOf vw + i % c.rowOf vw) * c.tw) := by
  simp only [Ctx.tanOff]; ring

section
variable {c : Ctx} {vw : Nat}

theorem same_of_row_place {e i j : Nat} (hr : i / e = j / e) (hp : i % e = j % e) : i = j := by
  rw [← Nat.div_add_mod i e, ← Nat.div_add_mod j e, hr, hp]

variable (hrow : 0 < c.rowOf vw)
include hrow

theorem val_fits (i : Nat) : i % c.rowOf vw * vw + vw ≤ 512 := by
  have := place_fits (w := vw) (Nat.mod_lt i hrow)
  have := c.row_fits vw
  omega

theorem tan_fits (i : Nat) {k : Nat} (hk : k < c.b) :
    c.rowOf vw * vw + (k * c.rowOf vw + i % c.rowOf vw) * c.tw + c.tw ≤ 512 := by
  have h1 : k * c.rowOf vw + i % c.rowOf vw < c.b * c.rowOf vw := by
    have := Nat.mul_le_mul_right (c.rowOf vw) (Nat.succ_le_of_lt hk)
    rw [Nat.succ_mul] at this
    have := Nat.mod_lt i hrow
    omega
  have h2 := place_fits (w := c.tw) h1
  have h3 := c.row_fits vw
  rw [mul_assoc] at h2
  omega

/-- Values of different elements lie apart. -/
theorem valOff_apart {i j : Nat} (h : i ≠ j) : Apart (c.valOff vw i) vw (c.valOff vw j) vw :=
  apart_rows (val_fits hrow i) (val_fits hrow j) fun hr => apart_places fun hp => h (same_of_row_place hr hp)

/-- A value and a tangent lie apart. -/
theorem valOff_tanOff_apart (i j : Nat) {k : Nat} (hk : k < c.b) : Apart (c.valOff vw i) vw (c.tanOff vw j k) c.tw := by
  rw [c.tanOff_eq]
  refine apart_rows (val_fits hrow i) (tan_fits hrow j hk) fun _ => .inl ?_
  have := place_fits (w := vw) (Nat.mod_lt i hrow)
  omega

/-- Different tangents lie apart. -/
theorem tanOff_apart {i j k l : Nat} (hk : k < c.b) (hl : l < c.b) (h : i = j → k ≠ l) :
    Apart (c.tanOff vw i k) c.tw (c.tanOff vw j l) c.tw := by
  rw [c.tanOff_eq, c.tanOff_eq]
  refine apart_rows (tan_fits hrow i hk) (tan_fits hrow j hl) fun hr => ?_
  have hplace : k * c.rowOf vw + i % c.rowOf vw ≠ l * c.rowOf vw + j % c.rowOf vw := by
    intro hp
    have hmod := congrArg (· % c.rowOf vw) hp
    have hdiv := congrArg (· / c.rowOf vw) hp
    simp only [Nat.mul_add_mod_self_right, Nat.mod_mod] at hmod
    simp only [mul_comm _ (c.rowOf vw), Nat.mul_add_div hrow, Nat.div_eq_of_lt (Nat.mod_lt _ hrow), Nat.add_zero] at hdiv
    exact h (same_of_row_place hr hmod) hdiv
  have := apart_places (w := c.tw) hplace
  unfold Apart at *
  omega

end
end Sys2Proof.Machine
end

section
/-! PROOFS. The write of an element and its events (R20, R30, R62), and elements that the mask leaves out (R144). -/

namespace Sys2Proof.Machine

open Sys2Proof

/-! ### Writes of an element -/

/-- The register r' is r with element j, laid out under a value width, given a value and tangents. -/
def TakesElement (c : Ctx) (vw j r r' v : Nat) (tan : Nat → Nat) : Prop :=
  getAt r' (c.valOff vw j) vw = v % 2 ^ (8 * vw) ∧
  (∀ k < c.b, getAt r' (c.tanOff vw j k) c.tw = tan k % 2 ^ (8 * c.tw)) ∧
  ∀ n, n ≠ j → getAt r' (c.valOff vw n) vw = getAt r (c.valOff vw n) vw ∧
    ∀ k < c.b, getAt r' (c.tanOff vw n k) c.tw = getAt r (c.tanOff vw n k) c.tw

/-- The tangents that element j holds. -/
def Ctx.heldTans (c : Ctx) (vw r j k : Nat) : Nat := getAt r (c.tanOff vw j k) c.tw

section
variable {c : Ctx} {vw : Nat} (hvw : 0 < vw) (hrow : 0 < c.rowOf vw)

theorem getAt_mod (r off w : Nat) : getAt r off w % 2 ^ (8 * w) = getAt r off w := Nat.mod_eq_of_lt (getAt_lt r off w)

include hvw hrow

/-- A value written leaves the tangents of its element. -/
theorem withVal_takes (r j v : Nat) : TakesElement c vw j r (c.withVal vw r j v) v (c.heldTans vw r j) := by
  refine ⟨getAt_putAt_self _ _ _ hvw, fun k hk => ?_, fun n hn => ⟨?_, fun k hk => ?_⟩⟩
  · rw [Ctx.heldTans, getAt_mod]
    exact getAt_putAt_disjoint _ _ hvw (valOff_tanOff_apart hrow j j hk)
  · exact getAt_putAt_disjoint _ _ hvw (valOff_apart hrow hn.symm)
  · exact getAt_putAt_disjoint _ _ hvw (valOff_tanOff_apart hrow j n hk)

omit hvw

/-- One tangent written leaves the value and the other tangents of its element. -/
theorem putTan_takes (r j v : Nat) {n : Nat} (hn : n < c.b) :
    TakesElement c vw j r (putAt r (c.tanOff vw j n) c.tw v) (getAt r (c.valOff vw j) vw)
      (fun k => if k = n then v else c.heldTans vw r j k) := by
  refine ⟨?_, fun k hk => ?_, fun i hi => ⟨?_, fun k hk => ?_⟩⟩
  · rw [getAt_mod]
    exact getAt_putAt_disjoint _ _ c.tw_pos (valOff_tanOff_apart hrow j j hn).symm
  · dsimp only
    by_cases hkn : k = n
    · rw [if_pos hkn, hkn]
      exact getAt_putAt_self _ _ _ c.tw_pos
    · rw [if_neg hkn, Ctx.heldTans, getAt_mod]
      exact getAt_putAt_disjoint _ _ c.tw_pos (tanOff_apart hrow hn hk fun _ => Ne.symm hkn)
  · exact getAt_putAt_disjoint _ _ c.tw_pos (valOff_tanOff_apart hrow i j hn).symm
  · exact getAt_putAt_disjoint _ _ c.tw_pos (tanOff_apart hrow hn hk fun h => absurd h.symm hi)

/-- The first n tangents written, one after the other. -/
theorem putTans_takes (r j : Nat) (t : Nat → Nat) {n : Nat} (hn : n ≤ c.b) :
    TakesElement c vw j r ((List.range n).foldl (fun reg k => putAt reg (c.tanOff vw j k) c.tw (t k)) r) (getAt r (c.valOff vw j) vw)
      (fun k => if k < n then t k else c.heldTans vw r j k) := by
  induction n with
  | zero => exact ⟨(getAt_mod _ _ _).symm, fun k _ => by simp [Ctx.heldTans, getAt_mod], fun _ _ => ⟨rfl, fun _ _ => rfl⟩⟩
  | succ n ih =>
    rw [List.range_succ, List.foldl_append]
    obtain ⟨hval, htan, hother⟩ := ih (by omega)
    generalize (List.range n).foldl (fun reg k => putAt reg (c.tanOff vw j k) c.tw (t k)) r = r1 at hval htan hother
    obtain ⟨hval', htan', hother'⟩ := putTan_takes hrow r1 j (t n) (show n < c.b by omega)
    refine ⟨hval'.trans ((getAt_mod _ _ _).trans hval), fun k hk => (htan' k hk).trans ?_, fun i hi => ⟨?_, fun k hk => ?_⟩⟩
    · by_cases hkn : k = n
      · simp [hkn]
      · simp only [if_neg hkn, Ctx.heldTans, getAt_mod] at htan ⊢
        rw [htan k hk]
        simp only [show k < n + 1 ↔ k < n by omega]
    · exact (hother' i hi).1.trans (hother i hi).1
    · exact ((hother' i hi).2 k hk).trans ((hother i hi).2 k hk)

/-- All tangents written leave the value of their element. -/
theorem withTans_takes (r j : Nat) (t : Nat → Nat) :
    TakesElement c vw j r (c.withTans vw r j t) (getAt r (c.valOff vw j) vw) t := by
  obtain ⟨hval, htan, hother⟩ := putTans_takes hrow r j t (le_refl c.b)
  exact ⟨hval, fun k hk => (htan k hk).trans (by simp only [if_pos hk]), hother⟩

include hvw

/-- A value and all tangents written. -/
theorem withVal_withTans_takes (r j v : Nat) (t : Nat → Nat) : TakesElement c vw j r (c.withTans vw (c.withVal vw r j v) j t) v t := by
  obtain ⟨hval, -, hother⟩ := withVal_takes hvw hrow r j v
  obtain ⟨hval', htan', hother'⟩ := withTans_takes hrow (c.withVal vw r j v) j t
  exact ⟨hval'.trans ((getAt_mod _ _ _).trans hval), htan',
    fun n hn => ⟨(hother' n hn).1.trans (hother n hn).1, fun k hk => ((hother' n hn).2 k hk).trans ((hother n hn).2 k hk)⟩⟩

end

/-! ### The state after a write -/

theorem updVreg_vreg (s : State) (core p : Nat) (f : Nat → Nat) (c q : Nat) :
    (s.updVreg core p f).vreg c q = if core = c ∧ p = q then f (s.vreg c q) else s.vreg c q := by
  simp only [State.updVreg, State.vreg, State.core_updCore]
  by_cases hc : core = c
  · subst hc
    simp only [if_true, true_and, Tbl.get_set]
    split
    · subst_vars; rfl
    · rfl
  · simp [hc]

theorem raise_vreg (s : State) (h seq i : Nat) (v t : Ev) (c p : Nat) : (s.raise h seq i v t).vreg c p = s.vreg c p := by
  unfold State.raise
  split <;> rfl

theorem raise_mem (s : State) (h seq i : Nat) (v t : Ev) : (s.raise h seq i v t).mem = s.mem := by
  unfold State.raise
  split <;> rfl

theorem raise_cores (s : State) (h seq i : Nat) (v t : Ev) : (s.raise h seq i v t).cores = s.cores := by
  unfold State.raise
  split <;> rfl

theorem raise_x (s : State) (h seq i : Nat) (v t : Ev) (g : Nat) (r : BitVec 7) : (s.raise h seq i v t).x g r = s.x g r := by
  unfold State.raise
  split
  · rfl
  · exact updCtx_x (f := fun c => c.raise seq i v t) (fun _ => rfl) s h g r

/-- Events are ORed into FV and FT (R62). -/
theorem raise_raised (L : Lane) {s t : State} (hctx : t.ctx L.h = s.ctx L.h) (v e : Ev) (seq i : Nat) :
    Raised L s (t.raise L.h seq i v e) v e := by
  unfold State.raise Raised
  split
  case isTrue h =>
    obtain ⟨rfl, rfl⟩ : v = 0 ∧ e = 0 := by simpa using h
    simp [hctx]
  case isFalse =>
    rw [← hctx, State.ctx, updCtx_hart]
    exact ⟨rfl, rfl⟩

/-- A register whose element takes a value and tangents is the only thing that changes. -/
theorem updVreg_puts (L : Lane) (s : State) (w : Nat) (d : BitVec 7) {j v : Nat} {tan : Nat → Nat} {f : Nat → Nat}
    (h : TakesElement L.c w j (s.vreg L.core (L.c.phys d.toNat)) (f (s.vreg L.core (L.c.phys d.toNat))) v tan) :
    PutsElement L s (s.updVreg L.core (L.c.phys d.toNat) f) w d j v tan := by
  obtain ⟨hval, htan, hother⟩ := h
  simp only [PutsElement, State.elemAt, State.tanAt, updVreg_vreg, and_self, if_true]
  refine ⟨hval, htan, fun n _ hn => hother n hn, fun c p hcp => if_neg fun h => ?_, fun _ _ => rfl⟩
  obtain ⟨rfl, rfl⟩ := h
  simp at hcp

/-- A write of element j, and then events: what every word that writes a vector register leaves. -/
theorem updVreg_raise (L : Lane) (s : State) (w : Nat) (d : BitVec 7) {j v : Nat} {tan : Nat → Nat} {f : Nat → Nat}
    (h : TakesElement L.c w j (s.vreg L.core (L.c.phys d.toNat)) (f (s.vreg L.core (L.c.phys d.toNat))) v tan) (seq i : Nat) (ev et : Ev) :
    let t := (s.updVreg L.core (L.c.phys d.toNat) f).raise L.h seq i ev et
    PutsElement L s t w d j v tan ∧ Raised L s t ev et ∧ t.mem = s.mem := by
  obtain ⟨hval, htan, hother, hregs, hx⟩ := updVreg_puts L s w d h
  refine ⟨?_, raise_raised L (t := s.updVreg L.core (L.c.phys d.toNat) f) rfl ev et seq i, raise_mem _ _ _ _ _ _⟩
  simp only [PutsElement, State.elemAt, State.tanAt, raise_vreg, raise_x] at hval htan hother hregs hx ⊢
  exact ⟨hval, htan, hother, hregs, hx⟩

/-- The same of a write without events. -/
theorem updVreg_silent (L : Lane) (s : State) (w : Nat) (d : BitVec 7) {j v : Nat} {tan : Nat → Nat} {f : Nat → Nat}
    (h : TakesElement L.c w j (s.vreg L.core (L.c.phys d.toNat)) (f (s.vreg L.core (L.c.phys d.toNat))) v tan) :
    let t := s.updVreg L.core (L.c.phys d.toNat) f
    PutsElement L s t w d j v tan ∧ Raised L s t 0 0 ∧ t.mem = s.mem :=
  updVreg_raise L s w d h 0 0 0 0

/-- What an element is given counts only modulo its width, and its tangents only below B. -/
theorem PutsElement.congr {L : Lane} {s t : State} {w : Nat} {d : BitVec 7} {j v v' : Nat} {tan tan' : Nat → Nat}
    (h : PutsElement L s t w d j v tan) (hv : v % 2 ^ (8 * w) = v' % 2 ^ (8 * w)) (ht : ∀ k < L.c.b, tan k = tan' k) :
    PutsElement L s t w d j v' tan' := by
  obtain ⟨hval, htan, hrest⟩ := h
  exact ⟨hval.trans hv, fun k hk => (htan k hk).trans (by rw [ht k hk]), hrest⟩

/-! ### Elements that the mask leaves out (R144) -/

theorem active_iff (L : Lane) (m : Bool) : L.active m = true ↔ ¬ MaskedOff L m := by
  unfold Lane.active MaskedOff bit
  cases m <;> simp

/-- A word that does nothing but where its element is active. -/
theorem acts_of_run {L : Lane} {s t : State} {i : Instr} {m : Bool} {P : State → Prop} {body : M Unit}
    (hi : L.perform i = if L.active m then body else pure ()) (hbody : body.run s = .ok () t) (hP : P t) : Acts L s i m P := by
  refine ⟨fun hm => ?_, fun hm => ⟨t, ?_, hP⟩⟩
  · rw [hi, if_neg fun h => (active_iff L m).mp h hm]
    rfl
  · rw [hi, if_pos ((active_iff L m).mpr hm), hbody]

end Sys2Proof.Machine
end

section
/-! PROOFS. One element of an integer or bit word (R53, R155, R156). -/

namespace Sys2Proof.Machine

open Sys2Proof

/-- What an element's write leaves: element j of d holds a value and tangents, its events are raised, and memory is as it was. -/
def Gives (L : Lane) (s : State) (w : Nat) (d : BitVec 7) (j v : Nat) (tan : Nat → Nat) (ev et : Ev) (t : State) : Prop :=
  PutsElement L s t w d j v tan ∧ Raised L s t ev et ∧ t.mem = s.mem

theorem putElem_raise_gives (L : Lane) (s : State) (ew : Nat) (d : BitVec 7) (j v : Nat) (tan : Nat → Nat) (ev et : Ev) (seq i : Nat) :
    Gives L s (vwOf ew) d j v tan ev et ((s.putElem L.core L.c (vwOf ew) d.toNat j v tan).raise L.h seq i ev et) :=
  updVreg_raise L s (vwOf ew) d (withVal_withTans_takes (vwOf_pos ew) (L.c.rowOf_pos ew) _ j v tan) seq i ev et

theorem putElem_gives (L : Lane) (s : State) (ew : Nat) (d : BitVec 7) (j v : Nat) (tan : Nat → Nat) :
    Gives L s (vwOf ew) d j v tan 0 0 (s.putElem L.core L.c (vwOf ew) d.toNat j v tan) :=
  putElem_raise_gives L s ew d j v tan 0 0 0 0

theorem Gives.congr {L : Lane} {s t : State} {w : Nat} {d : BitVec 7} {j v v' : Nat} {tan tan' : Nat → Nat} {ev et : Ev}
    (h : Gives L s w d j v tan ev et t) (hv : v % 2 ^ (8 * w) = v' % 2 ^ (8 * w)) (ht : ∀ k < L.c.b, tan k = tan' k) :
    Gives L s w d j v' tan' ev et t := by
  obtain ⟨hputs, hrest⟩ := h
  exact ⟨hputs.congr hv ht, hrest⟩

/-! ### Integer and bit words (R155, R156) -/

/-- An integer word's element: `res` is what it computes from the state. -/
theorem acts_int {L : Lane} {s : State} {i : Instr} {m : Bool} {d : BitVec 7} {res : State → Nat × Ev} {r : Nat × Ev}
    (hi : L.perform i = if L.active m then (get >>= fun s => L.int d (res s)) else pure ())
    (hv : (res s).1 % 2 ^ (8 * vwOf L.c.ew) = r.1 % 2 ^ (8 * vwOf L.c.ew)) (he : (res s).2 = r.2) :
    Acts L s i m (Gives L s (vwOf L.c.ew) d L.i r.1 (fun _ => 0) r.2 0) :=
  acts_of_run hi rfl (he ▸ (putElem_raise_gives L s L.c.ew d L.i _ _ _ 0 L.e.seq L.i).congr hv fun _ _ => rfl)

/-- An operand fits its element. -/
theorem elemSrc_lt (L : Lane) (s : State) (r : Option (BitVec 7)) : elemSrc L s r < 2 ^ (8 * vwOf L.c.ew) := by
  cases r with
  | some r => exact getAt_lt _ _ _
  | none => exact Nat.mod_lt _ (by positivity)

theorem intOperand_eq (L : Lane) (s : State) (r : Option (BitVec 7)) : intWordResult.z' L s r = intOf L.c.ew (elemSrc L s r) := by
  unfold intWordResult.z' intOf intWidth
  rw [Nat.mod_eq_of_lt (elemSrc_lt L s r)]
  rfl

theorem intFirst_eq (L : Lane) (s : State) (a : BitVec 7) : intWordResult.z L s a = intOf L.c.ew (elemSrc L s (some a)) :=
  intOperand_eq L s (some a)

/-- Wrapping or clamping to the element type (R53). -/
theorem intFit_eq (L : Lane) (z : Int) : intWordResult.fit L z = intFit L.c.ew L.c.sat z := by
  unfold intWordResult.fit intFit
  simp only [Bool.and_eq_true, decide_eq_true_eq]
  rfl

theorem min_eq_lesser (x z : Int) : min x z = if z < x then z else x := by
  split <;> omega

theorem max_eq_greater (x z : Int) : max x z = if x < z then z else x := by
  split <;> omega

theorem acts_of_intWordResult {L : Lane} {s : State} {i : Instr} {d : BitVec 7} {m : Bool} {r : Nat × Ev}
    (h : intWordResult L s i = some (d, m, r)) : Acts L s i m (Gives L s (vwOf L.c.ew) d L.i r.1 (fun _ => 0) r.2 0) := by
  unfold intWordResult at h
  simp only [intOperand_eq, intFirst_eq, intFit_eq, min_eq_lesser, max_eq_greater] at h
  split at h <;> cases h
  case h_17 | h_20 => exact acts_int rfl (Nat.mod_mod _ _) rfl -- vsll, vsllVx
  all_goals exact acts_int rfl rfl rfl

end Sys2Proof.Machine
end

section
/-! PROOFS. One element of a word that moves or makes elements, of an integer comparison, and the mask words (R152 to R154, R159 to R162, R164). -/

namespace Sys2Proof.Machine

open Sys2Proof

/-! ### Words that move or make elements (R153, R159 to R161, R164) -/

/-- A word that acts on one element or does nothing. -/
def Moves (L : Lane) (s : State) (i : Instr) (d : BitVec 7) (on : Bool) (j : Nat) (r : Nat × (Nat → Nat)) : Prop :=
  (on = false → (L.perform i).run s = .ok () s) ∧
  (on = true → ∃ t, (L.perform i).run s = .ok () t ∧ Gives L s (vwOf L.c.ew) d j r.1 r.2 0 0 t)

theorem moves_of_run {L : Lane} {s t : State} {i : Instr} {d : BitVec 7} {on : Bool} {j : Nat} {r : Nat × (Nat → Nat)} {body : M Unit}
    (hi : L.perform i = if on then body else pure ()) (hbody : body.run s = .ok () t) (ht : Gives L s (vwOf L.c.ew) d j r.1 r.2 0 0 t) :
    Moves L s i d on j r := by
  refine ⟨fun h => ?_, fun h => ⟨t, ?_, ht⟩⟩
  · subst h
    rw [hi]
    rfl
  · rw [hi, if_pos h, hbody]

/-- The state after `Lane.write`. -/
def Lane.written (L : Lane) (s : State) (d : BitVec 7) (j v : Nat) (t : Nat → Nat) : State :=
  s.putElem L.core L.c L.vw d.toNat j v (if L.c.tm then noTan else t)

theorem written_gives (L : Lane) (s : State) (d : BitVec 7) (j v : Nat) (t : Nat → Nat) :
    Gives L s (vwOf L.c.ew) d j v (fun k => if L.c.tm then 0 else t k) 0 0 (L.written s d j v t) := by
  refine (putElem_gives L s L.c.ew d j v _).congr rfl fun k _ => ?_
  split <;> rfl

/-- A write of +0 tangents. -/
theorem written_noTan_gives (L : Lane) (s : State) (d : BitVec 7) (j v : Nat) :
    Gives L s (vwOf L.c.ew) d j v (fun _ => 0) 0 0 (L.written s d j v noTan) :=
  (written_gives L s d j v noTan).congr rfl fun _ _ => ite_self _

/-- What a permuted element takes: an element of a, or zero. -/
def permuted (L : Lane) (s : State) (a : BitVec 7) : Option Nat → Nat × (Nat → Nat)
  | some j => movedElement.element L s a j
  | none => (0, fun _ => 0)

theorem permuted_ite (L : Lane) (s : State) (a : BitVec 7) (c : Prop) [Decidable c] (j : Nat) :
    permuted L s a (if c then some j else none) = if c then movedElement.element L s a j else (0, fun _ => 0) :=
  apply_ite (permuted L s a) c _ _

theorem permute_run (L : Lane) (s : State) (d a : BitVec 7) (o : Option Nat) :
    ∃ t, (L.permute d a o).run s = .ok () t ∧ Gives L s (vwOf L.c.ew) d L.i (permuted L s a o).1 (permuted L s a o).2 0 0 t := by
  cases o with
  | some j => exact ⟨_, rfl, written_gives L s d L.i _ _⟩
  | none => exact ⟨_, rfl, written_noTan_gives L s d L.i 0⟩

/-- Set bits counted one by one. -/
theorem popcount_eq (k n : Nat) : popcount k n = ((List.range k).filter (fun j => decide (n / 2 ^ j % 2 = 1))).length := by
  induction k generalizing n with
  | zero => rfl
  | succ k ih =>
    have hstep : ((fun j => decide (n / 2 ^ j % 2 = 1)) ∘ Nat.succ) = fun j => decide (n / 2 / 2 ^ j % 2 = 1) := by
      funext j
      simp only [Function.comp, Nat.succ_eq_add_one, pow_succ', Nat.div_div_eq_div_mul]
    rw [popcount, ih, List.range_succ_eq_map, List.filter_cons, List.filter_map, hstep]
    rcases Nat.mod_two_eq_zero_or_one n with h | h <;> simp [h, Nat.add_comm]

/-- Tangents cleared leave the value of their element. -/
theorem tanClear_gives (L : Lane) (s : State) (d : BitVec 7) :
    Gives L s (vwOf L.c.ew) d L.i (elemSrc L s (some d)) (fun _ => 0) 0 0
      (s.updVreg L.core (L.c.phys d.toNat) (fun reg => L.c.withTans L.vw reg L.i noTan)) :=
  updVreg_silent L s _ d (withTans_takes (L.c.rowOf_pos L.c.ew) _ L.i noTan)

theorem moves_of_movedElement {L : Lane} {s : State} {i : Instr} {d : BitVec 7} {on : Bool} {j : Nat} {r : Nat × (Nat → Nat)}
    (h : movedElement L s i = some (d, on, j, r)) : Moves L s i d on j r := by
  unfold movedElement at h
  split at h <;> cases h
  case h_1 k a b => exact ⟨nofun, fun _ => ⟨_, rfl, written_gives L s d L.i _ _⟩⟩ -- vsel
  case h_2 k a b m => exact moves_of_run rfl rfl (written_gives L s d L.i _ _) -- vslideup
  case h_3 k a b m => -- vslidedn
    obtain ⟨t, hrun, ht⟩ := permute_run L s d a (if L.i + L.e.opA.toNat < L.c.vl then some (L.i + L.e.opA.toNat) else none)
    rw [permuted_ite] at ht
    exact moves_of_run (on := L.active m) rfl hrun ht
  case h_4 k a b m => -- vshuf
    obtain ⟨t, hrun, ht⟩ := permute_run L s d a (if elemSrc L s (some b) < L.c.vl then some (elemSrc L s (some b)) else none)
    rw [permuted_ite] at ht
    exact moves_of_run (on := L.active m) rfl ((run_get_bind _ s).trans hrun) ht
  case h_5 k a => -- vcompress
    refine moves_of_run (on := bit (L.c.mask L.c.msel) L.i) rfl rfl ?_
    have hcount : ((List.range L.i).filter (movedElement.sel L)).length = popcount L.i (L.c.mask L.c.msel) := (popcount_eq _ _).symm
    rw [hcount]
    exact written_gives L s d _ _ _
  case h_6 k a m => exact moves_of_run (on := L.active m) rfl rfl (written_noTan_gives L s d L.i _) -- vbcast
  case h_7 k a m => -- vhail
    exact moves_of_run (on := L.active m) rfl rfl ((written_noTan_gives L s d L.i _).congr (Nat.mod_mod _ _) fun _ _ => rfl)
  case h_8 k m => exact moves_of_run (on := L.active m) rfl rfl (tanClear_gives L s d) -- vtclr

/-! ### Mask registers (R152, R154, R162) -/

/-- The state after mask q of hart h is set. -/
def State.setMask (s : State) (h q v : Nat) : State := s.updCtx h (fun c => { c with q := Tbl.set c.q q v })

theorem setMask_hart (s : State) (h q v : Nat) :
    (s.setMask h q v).hart h = { s.hart h with ctx := { s.ctx h with q := Tbl.set (s.ctx h).q q v } } := updCtx_hart s h _

theorem setMask_mask (s : State) (h q v p : Nat) : ((s.setMask h q v).ctx h).mask p = if q = p then v else (s.ctx h).mask p := by
  rw [State.ctx, setMask_hart]
  exact Tbl.get_set 0 (s.ctx h).q q p v

theorem setMask_onlyMask (s : State) (h q v : Nat) : OnlyMask s (s.setMask h q v) h q := by
  refine ⟨rfl, fun g hg => ?_, fun p hp => ?_, ?_⟩
  · exact (updCtx_onlyHart s h _).2.2 g hg
  · rw [setMask_mask, if_neg hp.symm]
  · rw [State.ctx, setMask_hart]
    rfl

theorem bit_eq_testBit (n j : Nat) : (n / 2 ^ j % 2 = 1) = (n.testBit j = true) := by
  rw [Nat.testBit_eq_decide_div_mod_eq, decide_eq_true_eq]

/-- One bit of a mask set: that bit, and every other. -/
theorem setMask_bit (s : State) (h q i : Nat) (b : Bool) :
    let t := s.setMask h q (setBits ((s.ctx h).mask q) i i (b2n b))
    ((t.ctx h).mask q / 2 ^ i % 2 = 1 ↔ b = true) ∧ ∀ j, j ≠ i → (t.ctx h).mask q / 2 ^ j % 2 = (s.ctx h).mask q / 2 ^ j % 2 := by
  dsimp only
  rw [setMask_mask, if_pos rfl]
  refine ⟨?_, fun j hj => ?_⟩
  · rw [bit_eq_testBit, testBit_setBits _ (by omega), if_pos ⟨le_rfl, le_rfl⟩, Nat.sub_self]
    cases b <;> simp [b2n]
  · rw [← Nat.toNat_testBit, ← Nat.toNat_testBit, testBit_setBits _ (by omega), if_neg (by omega)]

/-- The state after `Lane.mask`. -/
def Lane.masked (L : Lane) (s : State) (q : Nat) (b : Bool) : State :=
  s.setMask L.h q (setBits ((s.ctx L.h).mask q) L.i L.i (b2n b))

theorem mask_run (L : Lane) (s : State) (q : Nat) (b : Bool) : (L.mask q b).run s = .ok () (L.masked s q b) := rfl

/-- A relation of two integers (R152). -/
def Rel.ofInts (x z : Int) : Rel → Bool
  | .eq => decide (x = z)
  | .ne => decide (x ≠ z)
  | .lt => decide (x < z)
  | .le => decide (x ≤ z)

/-- A comparison under an integer format writes one bit. -/
theorem compare_int {L : Lane} {s : State} (hf : isFloat L.c.ew = false) (op : Rel) (q : Nat) (a : BitVec 7) (y : Src) {m : Bool}
    (hm : L.active m = true) : (L.compare op q a y m).run s =
      .ok () (L.masked s q (op.ofInts (intOf L.c.ew (L.val s a)) (intOf L.c.ew (L.src s y)))) := by
  unfold Lane.compare
  rw [if_pos hm, run_get_bind]
  simp only [hf, Bool.false_eq_true, if_false]
  cases op <;> rfl

theorem compare_inactive (L : Lane) (s : State) (op : Rel) (q : Nat) (a : BitVec 7) (y : Src) {m : Bool} (hm : MaskedOff L m) :
    (L.compare op q a y m).run s = .ok () s := by
  unfold Lane.compare
  rw [if_neg fun h => (active_iff L m).mp h hm]
  rfl

theorem acts_compare_int {L : Lane} {s : State} {i : Instr} {m : Bool} {op : Rel} {q : BitVec 3} {a : BitVec 7} {y : Src} {b : Bool}
    (hi : L.perform i = L.compare op q.toNat a y m) (hf : isFloat L.c.ew = false)
    (hb : op.ofInts (intOf L.c.ew (L.val s a)) (intOf L.c.ew (L.src s y)) = b) :
    Acts L s i m (fun t => OnlyMask s t L.h q.toNat ∧ ((t.ctx L.h).mask q.toNat / 2 ^ L.i % 2 = 1 ↔ b = true) ∧
      ∀ j, j ≠ L.i → (t.ctx L.h).mask q.toNat / 2 ^ j % 2 = (s.ctx L.h).mask q.toNat / 2 ^ j % 2) := by
  refine ⟨fun hm => ?_, fun hm => ⟨L.masked s q.toNat b, ?_, setMask_onlyMask _ _ _ _, setMask_bit s L.h q.toNat L.i b⟩⟩
  · rw [hi, compare_inactive L s op _ a y hm]
  · rw [hi, compare_int hf op _ a y ((active_iff L m).mpr hm), hb]

theorem acts_of_intCompare {L : Lane} {s : State} {i : Instr} {m : Bool} {q : BitVec 3} {b : Bool}
    (h : intCompare L s i = some (q, m, b)) (hew : 5 ≤ L.c.ew) :
    Acts L s i m (fun t => OnlyMask s t L.h q.toNat ∧ ((t.ctx L.h).mask q.toNat / 2 ^ L.i % 2 = 1 ↔ b = true) ∧
      ∀ j, j ≠ L.i → (t.ctx L.h).mask q.toNat / 2 ^ j % 2 = (s.ctx L.h).mask q.toNat / 2 ^ j % 2) := by
  have hf : isFloat L.c.ew = false := decide_eq_false (by omega)
  unfold intCompare intCompare.z at h
  simp only [intOperand_eq] at h
  split at h <;> cases h
  case h_1 => exact acts_compare_int (op := .eq) rfl hf rfl
  case h_2 => exact acts_compare_int (op := .ne) rfl hf rfl
  case h_3 => exact acts_compare_int (op := .lt) rfl hf rfl
  case h_4 => exact acts_compare_int (op := .le) rfl hf rfl
  case h_5 => exact acts_compare_int (op := .eq) (y := .scalar) rfl hf rfl
  case h_6 => exact acts_compare_int (op := .ne) (y := .scalar) rfl hf rfl
  case h_7 => exact acts_compare_int (op := .lt) (y := .scalar) rfl hf rfl
  case h_8 => exact acts_compare_int (op := .le) (y := .scalar) rfl hf rfl

/-- A mask word writes all 4,096 bits. -/
theorem maskWord_bits {L : Lane} {s : State} {i : Instr} {q : BitVec 3} {v : Nat} (hi : L.perform i = L.maskWord q.toNat v)
    (hv : ∀ j < 4096, ∀ b, maskResult L j i = some (q, b) → v.testBit j = b) :
    ∃ t, (L.perform i).run s = .ok () t ∧ OnlyMask s t L.h q.toNat ∧
      ∀ j < 4096, ∀ b, maskResult L j i = some (q, b) → ((t.ctx L.h).mask q.toNat / 2 ^ j % 2 = 1 ↔ b = true) := by
  refine ⟨s.setMask L.h q.toNat (v % 2 ^ 4096), by rw [hi]; rfl, setMask_onlyMask _ _ _ _, fun j hj b hb => ?_⟩
  rw [setMask_mask, if_pos rfl, bit_eq_testBit, Nat.testBit_mod_two_pow, hv j hj b hb, decide_eq_true hj, Bool.true_and]

theorem maskOperand_eq (L : Lane) (j : Nat) (r : BitVec 3) : maskResult.q L j r = (L.c.mask r.toNat).testBit j :=
  (Nat.testBit_eq_decide_div_mod_eq).symm

/-- All of a mask but another's bits. -/
theorem testBit_allMask_xor (v : Nat) {j : Nat} (hj : j < 4096) : (allMask ^^^ v).testBit j = !v.testBit j := by
  rw [allMask, Nat.testBit_xor, Nat.testBit_two_pow_sub_one, decide_eq_true hj, Bool.true_xor]

theorem maskWord_of_maskResult {L : Lane} (s : State) {i : Instr} {q : BitVec 3} (h : ∀ j, ∃ b, maskResult L j i = some (q, b)) :
    ∃ t, (L.perform i).run s = .ok () t ∧ OnlyMask s t L.h q.toNat ∧
      ∀ j < 4096, ∀ b, maskResult L j i = some (q, b) → ((t.ctx L.h).mask q.toNat / 2 ^ j % 2 = 1 ↔ b = true) := by
  obtain ⟨b0, h0⟩ := h 0
  unfold maskResult at h0
  split at h0 <;> cases h0
  all_goals refine maskWord_bits rfl fun j hj b hb => ?_
  all_goals
    simp only [maskResult, maskOperand_eq, Option.some.injEq, Prod.mk.injEq, true_and] at hb
    simp only [← hb, Nat.testBit_and, Nat.testBit_or, Nat.testBit_xor, testBit_allMask_xor _ hj, bne]

/-- A Bernoulli bit (R69) as a relation of numbers. -/
theorem bern_iff (key stream : Word) (p : Nat) (c : Word) : bern key stream p c = true ↔ (hail key stream c).toNat / 2 ^ 40 < p := by
  rw [bern, decide_eq_true_eq, BitVec.toNat_ushiftRight, Nat.shiftRight_eq_div_pow]

theorem perform_vbern (L : Lane) (k : Bool) (q : BitVec 3) (a b : BitVec 7) : L.perform (.vbern k q a b) = L.bernoulli q.toNat := rfl

theorem bernoulli_run (L : Lane) (s : State) (q : Nat) :
    (L.bernoulli q).run s = .ok () (L.masked s q (bern L.c.key L.c.strm L.e.opA.toNat (word (L.e.opB.toNat * 4096 + L.i)))) := by
  rw [Lane.bernoulli, mask_run]

/-! ### Element numbers (R159) -/

/-- An integer rounded without events before the rounding. -/
theorem round_eq_roundVt (L : Lane) (f : Fmt) (n : Nat) (x : Num) : L.c.round f n x = roundVt L f n (x, 0) :=
  Prod.ext rfl (Nat.zero_or _).symm

/-- What vid gives. -/
def indexResult (L : Lane) : Nat × Ev :=
  if isFloat L.c.ew then roundVt L (fmtOf L.c.ew) L.i (numOfInt L.i, 0) else intWordResult.fit L L.i

theorem acts_vid (L : Lane) (s : State) (k : Bool) (d : BitVec 7) (m : Bool) :
    Acts L s (.vid k d m) m (Gives L s (vwOf L.c.ew) d L.i (indexResult L).1 (fun _ => 0) (indexResult L).2 0) := by
  have hr : (if isFloat L.c.ew then L.c.round L.fmt L.i (numOfInt L.i) else intFit L.c.ew L.c.sat L.i) = indexResult L := by
    rw [round_eq_roundVt, ← intFit_eq]
    rfl
  rw [← hr]
  exact acts_of_run rfl rfl (putElem_raise_gives L s L.c.ew d L.i _ _ _ 0 L.e.seq L.i)

end Sys2Proof.Machine

open Sys2Proof Sys2Proof.Machine

/-- Settles O36: each word is a write of one element, of one mask bit, or of a whole mask. -/
theorem integerElements : Obligations.IntegerElements := by
  unfold Obligations.IntegerElements
  refine ⟨fun L s i d m v e h _ => acts_of_intWordResult h, fun L s k d m _ => acts_vid L s k d m,
    fun L s i d j v tan h => (moves_of_movedElement h).1 rfl, fun L s i d j v tan h _ => (moves_of_movedElement h).2 rfl,
    fun L s i q m b h hew _ => acts_of_intCompare h hew, fun L s i q h => maskWord_of_maskResult s h, fun L s k q a b => ?_⟩
  obtain ⟨hbit, hothers⟩ := setMask_bit s L.h q.toNat L.i (bern L.c.key L.c.strm L.e.opA.toNat (word (L.e.opB.toNat * 4096 + L.i)))
  exact ⟨_, perform_vbern L k q a b ▸ bernoulli_run L s q.toNat, setMask_onlyMask _ _ _ _, hbit.trans (bern_iff _ _ _ _), hothers⟩
end

section
/-! PROOFS. One element of a float word (R57, R65 to R67, R148 to R152). -/

namespace Sys2Proof.Machine

open Sys2Proof

/-! ### Words of majors 0x20 to 0x24 -/

/-- The value, tangents and events that a float word gives an element. -/
def GivesFloat (L : Lane) (s : State) (i : Instr) (d : BitVec 7) (r : Nat × Ev) (t : State) : Prop :=
  Gives L s (vwOf L.c.ew) d L.i r.1 (fun k => (floatTangent L s i r.1 k).1) r.2 (orEvents L.c.b fun k => (floatTangent L s i r.1 k).2) t

/-- A float word's element: `res` and `tan` are what it computes from the state. -/
theorem acts_float {L : Lane} {s : State} {i : Instr} {m : Bool} {d : BitVec 7} {res : State → Nat × Ev} {tan : State → Nat → Num × Ev}
    {r : Nat × Ev} (hi : L.perform i = if L.active m then (get >>= fun s => L.float d (res s) (tan s)) else pure ()) (hr : res s = r)
    (ht : ∀ k, L.c.tangents L.i (L.fmt.decode r.1).isNaN (tan s) k = floatTangent L s i r.1 k) : Acts L s i m (GivesFloat L s i d r) := by
  have hrun : (L.float d (res s) (tan s)).run s = .ok ()
      ((s.putElem L.core L.c L.vw d.toNat L.i r.1 (fun k => (floatTangent L s i r.1 k).1)).raise L.h L.e.seq L.i r.2
        (orEvents L.c.b fun k => (floatTangent L s i r.1 k).2)) := by
    subst hr
    rw [show floatTangent L s i (res s).1 = L.c.tangents L.i (L.fmt.decode (res s).1).isNaN (tan s) from funext fun k => (ht k).symm]
    rfl
  exact acts_of_run hi hrun (putElem_raise_gives L s L.c.ew d L.i _ _ _ _ L.e.seq L.i)

theorem orEvents_zero (n : Nat) : orEvents n (fun _ => 0) = 0 := by
  simp [orEvents]

/-- vmov copies value and tangents bit for bit (R151). -/
theorem acts_vmov (L : Lane) (s : State) (k : Bool) (d a : BitVec 7) (m : Bool) :
    Acts L s (.vmov k d a m) m (GivesFloat L s (.vmov k d a m) d (elemSrc L s (some a), 0)) := by
  have htan (n v : Nat) : floatTangent L s (.vmov k d a m) v n = (if L.c.tm then 0 else L.tanOf s a L.i n, 0) := by
    unfold floatTangent
    split <;> rfl
  have hev : (orEvents L.c.b fun n => (floatTangent L s (.vmov k d a m) (elemSrc L s (some a)) n).2) = 0 := by
    simp only [htan, orEvents_zero]
  unfold GivesFloat
  dsimp only
  rw [hev]
  simp only [htan]
  exact acts_of_run rfl rfl (written_gives L s d L.i _ _)

theorem pick_eq (L : Lane) (s : State) (second : Bool) (a : BitVec 7) (b : Option (BitVec 7)) :
    floatWordResult.pick L s second a b =
      if (floatWordResult.v L s (some a)).isNaN || (floatWordResult.v L s b).isNaN then
        (L.fmt.qnan, snanEv [floatWordResult.v L s (some a), floatWordResult.v L s b])
      else (if second then elemSrc L s b else elemSrc L s (some a), 0) := by
  cases second <;> rfl

/-- vrelu keeps what is neither zero nor negative (R151). -/
theorem relu_ite {α : Type} (x : Num) (a b : α) : (if x.isZero || x.neg then b else a) = if !x.isZero && !x.neg then a else b := by
  cases x.isZero <;> cases x.neg <;> rfl

theorem acts_of_floatWordResult {L : Lane} {s : State} {i : Instr} {d : BitVec 7} {m : Bool} {r : Nat × Ev}
    (h : floatWordResult L s i = some (d, m, r)) : Acts L s i m (GivesFloat L s i d r) := by
  unfold floatWordResult at h
  simp only [pick_eq, relu_ite] at h
  split at h <;> cases h
  case h_31 k a => -- vrelu
    exact acts_float rfl rfl fun n =>
      congrArg (fun x => L.c.tangents L.i _ (fun _ => x) n) (relu_ite (tangentStep.x L s (some a)) (takeTan _) (zeroTan n)).symm
  case h_32 k a => exact acts_vmov L s k d a m
  all_goals exact acts_float rfl rfl fun _ => rfl

/-! ### Comparisons (R152) -/

/-- A relation of two values, false of a NaN but for ≠ (R152). -/
def Rel.ofNums (x z : Num) : Rel → Bool
  | .eq => eqNum x z
  | .ne => !eqNum x z
  | .lt => ltNum x z
  | .le => !(x.isNaN || z.isNaN) && !ltNum z x

/-- The events of a comparison: an order raises NV for every NaN, an equality for a signalling one. -/
def Rel.events (x z : Num) : Rel → Ev
  | .eq | .ne => snanEv [x, z]
  | .lt | .le => if x.isNaN || z.isNaN then evNV else 0

theorem compare_float {L : Lane} {s : State} (hf : isFloat L.c.ew = true) (op : Rel) (q : Nat) (a : BitVec 7) (y : Src) {m : Bool}
    (hm : L.active m = true) :
    let x := L.fmt.decode (L.val s a)
    let z := L.fmt.decode (L.src s y)
    (L.compare op q a y m).run s = .ok () ((L.masked s q (op.ofNums x z)).raise L.h L.e.seq L.i (op.events x z) 0) := by
  unfold Lane.compare
  rw [if_pos hm, run_get_bind]
  simp only [hf, if_true]
  cases op <;> rfl

/-- What a comparison of floats leaves: bit i of mask q, and events. -/
def Compares (L : Lane) (s : State) (q : Nat) (b : Bool) (e : Ev) (t : State) : Prop :=
  ((t.ctx L.h).mask q / 2 ^ L.i % 2 = 1 ↔ b = true) ∧
  (∀ j, j ≠ L.i → (t.ctx L.h).mask q / 2 ^ j % 2 = (s.ctx L.h).mask q / 2 ^ j % 2) ∧
  (∀ p, p ≠ q → (t.ctx L.h).mask p = (s.ctx L.h).mask p) ∧ Raised L s t e 0 ∧
  (∀ h r, t.x h r = s.x h r) ∧ t.mem = s.mem ∧ t.cores = s.cores

theorem raise_mask (s : State) (h seq i : Nat) (v t : Ev) (p : Nat) : ((s.raise h seq i v t).ctx h).mask p = (s.ctx h).mask p := by
  unfold State.raise
  split
  · rfl
  · rw [State.ctx, updCtx_hart]
    rfl

theorem masked_raise_compares (L : Lane) (s : State) (q : Nat) (b : Bool) (e : Ev) (seq i : Nat) :
    Compares L s q b e ((L.masked s q b).raise L.h seq i e 0) := by
  obtain ⟨hbit, hothers⟩ := setMask_bit s L.h q L.i b
  obtain ⟨-, -, hmasks, hhart⟩ := setMask_onlyMask s L.h q (setBits ((s.ctx L.h).mask q) L.i L.i (b2n b))
  have hfv : ((L.masked s q b).ctx L.h).fv = (s.ctx L.h).fv := congrArg (fun t => t.ctx.fv) hhart
  have hft : ((L.masked s q b).ctx L.h).ft = (s.ctx L.h).ft := congrArg (fun t => t.ctx.ft) hhart
  have hraised := raise_raised L (s := L.masked s q b) rfl e 0 seq i
  rw [Raised, hfv, hft] at hraised
  simp only [Compares, raise_mask, raise_x, raise_mem, raise_cores]
  exact ⟨hbit, hothers, hmasks, hraised, fun h r => updCtx_x (f := fun c => { c with q := Tbl.set c.q q _ }) (fun _ => rfl) s L.h h r, rfl, rfl⟩

theorem acts_compare_float {L : Lane} {s : State} {i : Instr} {m : Bool} {op : Rel} {q : BitVec 3} {a : BitVec 7} {y : Src} {b : Bool} {e : Ev}
    (hi : L.perform i = L.compare op q.toNat a y m) (hf : isFloat L.c.ew = true)
    (hb : op.ofNums (L.fmt.decode (L.val s a)) (L.fmt.decode (L.src s y)) = b)
    (he : op.events (L.fmt.decode (L.val s a)) (L.fmt.decode (L.src s y)) = e) : Acts L s i m (Compares L s q.toNat b e) := by
  refine ⟨fun hm => ?_, fun hm => ⟨_, ?_, masked_raise_compares L s q.toNat b e L.e.seq L.i⟩⟩
  · rw [hi, compare_inactive L s op _ a y hm]
  · rw [hi, compare_float hf op _ a y ((active_iff L m).mpr hm), hb, he]

theorem acts_of_floatCompare {L : Lane} {s : State} {i : Instr} {m : Bool} {q : BitVec 3} {b : Bool} {e : Ev}
    (h : floatCompare L s i = some (q, m, b, e)) (hew : L.c.ew ≤ 4) : Acts L s i m (Compares L s q.toNat b e) := by
  have hf : isFloat L.c.ew = true := decide_eq_true hew
  unfold floatCompare at h
  split at h <;> cases h
  case h_1 => exact acts_compare_float (op := .eq) rfl hf rfl rfl
  case h_2 => exact acts_compare_float (op := .ne) rfl hf rfl rfl
  case h_3 => exact acts_compare_float (op := .lt) rfl hf rfl rfl
  case h_4 => exact acts_compare_float (op := .le) rfl hf rfl rfl
  case h_5 => exact acts_compare_float (op := .eq) (y := .scalar) rfl hf rfl rfl
  case h_6 => exact acts_compare_float (op := .ne) (y := .scalar) rfl hf rfl rfl
  case h_7 => exact acts_compare_float (op := .lt) (y := .scalar) rfl hf rfl rfl
  case h_8 => exact acts_compare_float (op := .le) (y := .scalar) rfl hf rfl rfl

/-! ### The specials of e^a, ln a, tanh a and the sigmoid (R150) -/

section
variable (f : Fmt) (sat : Bool) (rm : Rm) (r op : Nat)

theorem transcend_nan (fn : TransFn) (q : Bool) : transcend fn f sat rm r op (.nan q) = (f.qnan, if q then evNV else 0) := by
  cases fn <;> rfl

theorem tanh_inf (neg : Bool) : transcend .tanh f sat rm r op (.inf neg) = roundNum f sat rm r (.fin neg 1 1) := by
  cases neg <;> rfl

theorem tanh_zero (neg : Bool) (d : Nat) : transcend .tanh f sat rm r op (.fin neg 0 d) = roundNum f sat rm r (.fin neg 0 1) := by
  cases neg <;> rfl

theorem log_one {d : Nat} (hd : 0 < d) : transcend .log f sat rm r op (.fin false d d) = roundNum f sat rm r (.fin false 0 1) := by
  obtain ⟨d, rfl⟩ := Nat.exists_eq_succ_of_ne_zero hd.ne'
  exact if_pos rfl

theorem log_negative {n : Nat} (hn : 0 < n) (d : Nat) : transcend .log f sat rm r op (.fin true n d) = (f.qnan, evNV) := by
  obtain ⟨n, rfl⟩ := Nat.exists_eq_succ_of_ne_zero hn.ne'
  rfl

end

end Sys2Proof.Machine

open Sys2Proof Sys2Proof.Machine

/-- Settles O43: each float word writes one element or one mask bit, by the rule of its tangents; the specials are cases of `transcend`. -/
theorem floatElements : Obligations.FloatElements := by
  unfold Obligations.FloatElements
  refine ⟨fun L s i d m v e h _ => acts_of_floatWordResult h, fun L s i q m b e h hew _ => acts_of_floatCompare h hew,
    fun f sat rm r op neg d => ⟨transcend_nan f sat rm r op, rfl, rfl, rfl, rfl, log_one f sat rm r op, rfl,
      fun n hn => log_negative f sat rm r op hn d, rfl, tanh_zero f sat rm r op neg d, tanh_inf f sat rm r op neg, rfl, rfl,
      rfl⟩⟩
end

section
/-! PROOFS. What the words of majors 0x20 to 0x2E reach (R144 to R166). -/

namespace Sys2Proof.Machine

open Sys2Proof

/-! ### What an element may reach -/

/-- What a word of majors 0x20 to 0x2E may change: vector registers of the lane's core and, of its hart, masks and events. -/
def Lane.Reaches (L : Lane) (s t : State) : Prop :=
  SameRest s t ∧ (∀ g, g ≠ L.h → t.hart g = s.hart g) ∧ (∀ c, c ≠ L.core → t.core c = s.core c) ∧
  (∀ c, { t.core c with vf := (s.core c).vf } = s.core c) ∧
  ∃ q fv ft ev et, t.hart L.h = { s.hart L.h with ctx := { s.ctx L.h with q := q, fv := fv, ft := ft, eixV := ev, eixT := et } }

theorem reaches_composes (L : Lane) : Composes L.Reaches where
  refl _ := ⟨rfl, fun _ _ => rfl, fun _ _ => rfl, fun _ => rfl, _, _, _, _, _, rfl⟩
  trans := by
    rintro s t u ⟨a1, a2, a3, a4, _, _, _, _, _, a5⟩ ⟨b1, b2, b3, b4, q, fv, ft, ev, et, b5⟩
    refine ⟨a1.trans b1, fun g hg => (b2 g hg).trans (a2 g hg), fun c hc => (b3 c hc).trans (a3 c hc), fun c => ?_, q, fv, ft, ev, et, ?_⟩
    · have ha := a4 c
      have hb := b4 c
      rw [← ha, ← hb]
    · rw [b5, State.ctx, a5]

theorem updVreg_reaches (L : Lane) (s : State) (p : Nat) (f : Nat → Nat) : L.Reaches s (s.updVreg L.core p f) := by
  refine ⟨rfl, fun _ _ => rfl, fun c hc => ?_, fun c => ?_, _, _, _, _, _, rfl⟩
  · rw [State.updVreg, State.core_updCore, if_neg hc.symm]
  · rw [State.updVreg, State.core_updCore]
    split
    · subst_vars; rfl
    · rfl

/-- A change of the masks and events of the lane's hart. -/
theorem updCtx_reaches (L : Lane) (s : State) {f : Ctx → Ctx}
    (hf : ∀ c, ∃ q fv ft ev et, f c = { c with q := q, fv := fv, ft := ft, eixV := ev, eixT := et }) : L.Reaches s (s.updCtx L.h f) := by
  obtain ⟨q, fv, ft, ev, et, hc⟩ := hf (s.ctx L.h)
  refine ⟨rfl, (updCtx_onlyHart s L.h f).2.2, fun _ _ => rfl, fun _ => rfl, q, fv, ft, ev, et, ?_⟩
  rw [updCtx_hart, hc]

theorem raise_reaches (L : Lane) (s : State) (seq i : Nat) (v t : Ev) : L.Reaches s (s.raise L.h seq i v t) := by
  unfold State.raise
  split
  · exact (reaches_composes L).refl s
  · exact updCtx_reaches L s fun _ => ⟨_, _, _, _, _, rfl⟩

theorem setMask_reaches (L : Lane) (s : State) (q v : Nat) : L.Reaches s (s.setMask L.h q v) :=
  updCtx_reaches L s fun _ => ⟨_, _, _, _, _, rfl⟩

/-! ### Meanings that complete within that reach -/

/-- From every state the meaning completes, and reaches no further than a word of these majors may. -/
def Lane.Completes (L : Lane) (m : M Unit) : Prop := ∀ s, ∃ t, m.run s = .ok () t ∧ L.Reaches s t

section
variable {L : Lane}

theorem completes_pure : L.Completes (pure ()) := fun s => ⟨s, rfl, (reaches_composes L).refl s⟩

theorem completes_modify {f : State → State} (h : ∀ s, L.Reaches s (f s)) : L.Completes (modify f) := fun s => ⟨f s, rfl, h s⟩

theorem completes_get {f : State → M Unit} (h : ∀ s, L.Completes (f s)) : L.Completes (get >>= f) := fun s => h s s

theorem completes_bind {m m' : M Unit} (h : L.Completes m) (h' : L.Completes m') : L.Completes (m >>= fun _ => m') := by
  intro s
  obtain ⟨t, hrun, ht⟩ := h s
  obtain ⟨u, hrun', hu⟩ := h' t
  exact ⟨u, (run_bind_ok hrun).trans hrun', (reaches_composes L).trans ht hu⟩

theorem completes_ite {c : Prop} [Decidable c] {m m' : M Unit} (h : L.Completes m) (h' : L.Completes m') :
    L.Completes (if c then m else m') := by
  split
  · exact h
  · exact h'

/-- A word that acts where a condition holds. -/
theorem completes_when {c : Prop} [Decidable c] {m : M Unit} (h : L.Completes m) : L.Completes (if c then m else pure ()) :=
  completes_ite h completes_pure

theorem completes_updVreg (p : Nat) (f : Nat → Nat) : L.Completes (modify fun s => s.updVreg L.core p f) :=
  completes_modify fun s => updVreg_reaches L s p f

theorem completes_putElem (c : Ctx) (vw r i v : Nat) (t : Nat → Nat) : L.Completes (modify fun s => s.putElem L.core c vw r i v t) :=
  completes_updVreg _ _

theorem completes_raise (v t : Ev) : L.Completes (L.raise v t) := completes_modify fun s => raise_reaches L s _ _ v t

theorem completes_write (d : BitVec 7) (j v : Nat) (t : Nat → Nat) : L.Completes (L.write d j v t) := completes_putElem _ _ _ _ _ _

theorem completes_float (d : BitVec 7) (r : Nat × Ev) (tan : Nat → Num × Ev) : L.Completes (L.float d r tan) :=
  completes_bind (completes_putElem _ _ _ _ _ _) (completes_raise _ _)

theorem completes_int (d : BitVec 7) (r : Nat × Ev) : L.Completes (L.int d r) :=
  completes_bind (completes_putElem _ _ _ _ _ _) (completes_raise _ _)

theorem completes_putTan (d : BitVec 7) (k v : Nat) : L.Completes (L.putTan d k v) := completes_updVreg _ _

theorem completes_mask (q : Nat) (b : Bool) : L.Completes (L.mask q b) := completes_modify fun s => setMask_reaches L s q _

theorem completes_maskWord (q v : Nat) : L.Completes (L.maskWord q v) := completes_modify fun s => setMask_reaches L s q _

/-! ### Every word -/

theorem completes_floatBin (op : FloatBin) (d a : BitVec 7) (y : Src) (m : Bool) : L.Completes (L.floatBin op d a y m) :=
  completes_when (completes_get fun _ => by cases op <;> exact completes_float _ _ _)

theorem completes_floatFma (n1 n2 : Bool) (d a : BitVec 7) (y : Src) (m : Bool) : L.Completes (L.floatFma n1 n2 d a y m) :=
  completes_when (completes_get fun _ => completes_float _ _ _)

theorem completes_floatUn (op : FloatUn) (d a : BitVec 7) (m : Bool) : L.Completes (L.floatUn op d a m) :=
  completes_when (completes_get fun _ => by cases op <;> exact completes_float _ _ _)

theorem completes_mov (d a : BitVec 7) (m : Bool) : L.Completes (L.mov d a m) :=
  completes_when (completes_get fun _ => completes_write _ _ _ _)

theorem completes_compare (op : Rel) (q : Nat) (a : BitVec 7) (y : Src) (m : Bool) : L.Completes (L.compare op q a y m) :=
  completes_when (completes_get fun _ =>
    completes_ite (completes_bind (completes_mask _ _) (completes_raise _ _)) (completes_mask _ _))

theorem completes_select (d a b : BitVec 7) : L.Completes (L.select d a b) := completes_get fun _ => completes_write _ _ _ _

theorem completes_intOp (op : IntOp) (d a : BitVec 7) (y : Src) (m : Bool) : L.Completes (L.intOp op d a y m) :=
  completes_when (completes_get fun _ => completes_int _ _)

theorem completes_bitOp (op : BitOp) (d a : BitVec 7) (y : Src) (m : Bool) : L.Completes (L.bitOp op d a y m) :=
  completes_when (completes_get fun _ => completes_int _ _)

theorem completes_convert (src dst : Nat) (d a : BitVec 7) (m : Bool) : L.Completes (L.convert src dst d a m) :=
  completes_when (completes_get fun _ =>
    completes_ite (completes_bind (completes_putElem _ _ _ _ _ _) (completes_raise _ _))
      (completes_bind (completes_putElem _ _ _ _ _ _) (completes_raise _ _)))

theorem completes_reduce (op : Red) (d a : BitVec 7) (m : Bool) : L.Completes (L.reduce op d a m) :=
  completes_when (completes_get fun _ =>
    completes_bind (completes_putElem _ _ _ _ _ _) (completes_modify fun s => raise_reaches L s _ _ _ _))

theorem completes_index (d : BitVec 7) (m : Bool) : L.Completes (L.index d m) := completes_when (completes_int _ _)

theorem completes_bcast (d : BitVec 7) (m : Bool) : L.Completes (L.bcast d m) :=
  completes_when (completes_get fun _ => completes_write _ _ _ _)

theorem completes_permute (d a : BitVec 7) (o : Option Nat) : L.Completes (L.permute d a o) :=
  completes_get fun _ => by cases o <;> exact completes_write _ _ _ _

theorem completes_slideUp (d a : BitVec 7) (m : Bool) : L.Completes (L.slideUp d a m) := completes_when (completes_permute _ _ _)

theorem completes_slideDown (d a : BitVec 7) (m : Bool) : L.Completes (L.slideDown d a m) := completes_when (completes_permute _ _ _)

theorem completes_shuffle (d a b : BitVec 7) (m : Bool) : L.Completes (L.shuffle d a b m) :=
  completes_when (completes_get fun _ => completes_permute _ _ _)

theorem completes_compress (d a : BitVec 7) : L.Completes (L.compress d a) :=
  completes_when (completes_get fun _ => completes_write _ _ _ _)

theorem completes_hailBits (d : BitVec 7) (m : Bool) : L.Completes (L.hailBits d m) := completes_when (completes_write _ _ _ _)

theorem completes_seed (d : BitVec 7) (m : Bool) : L.Completes (L.seed d m) := by
  refine completes_when ?_
  dsimp only
  have hput (k v : Nat) (e : Ev) : L.Completes (L.putTan d k v >>= fun _ => L.raise 0 e) :=
    completes_bind (completes_putTan d k v) (completes_raise 0 e)
  split
  · exact hput _ _ _
  · exact completes_ite (hput _ _ _) (completes_putTan d _ 0)
  · exact completes_putTan d _ 0

theorem completes_tanClear (d : BitVec 7) (m : Bool) : L.Completes (L.tanClear d m) := completes_when (completes_updVreg _ _)

theorem completes_tanGet (d a : BitVec 7) (m : Bool) : L.Completes (L.tanGet d a m) :=
  completes_when (completes_get fun _ => completes_bind (completes_write _ _ _ _) (completes_raise _ _))

theorem completes_tanSet (d a : BitVec 7) (m : Bool) : L.Completes (L.tanSet d a m) :=
  completes_when (completes_get fun _ => completes_bind (completes_putTan _ _ _) (completes_raise _ _))

theorem completes_fgu (d a : BitVec 7) (m : Bool) : L.Completes (L.fgu d a m) :=
  completes_when (completes_get fun _ => completes_bind (completes_updVreg _ _) (completes_raise _ _))

theorem completes_arith (i : Instr) : L.Completes (L.arith i) := by
  cases i <;> dsimp only [Lane.arith]
  case vadd | vsub | vmul | vdiv | vmin | vmax | vaddVx | vsubVx | vmulVx | vdivVx | vminVx | vmaxVx => exact completes_floatBin _ _ _ _ _
  case vfma | vfms | vfnma | vfnms | vfmaVx | vfmsVx | vfnmaVx | vfnmsVx => exact completes_floatFma _ _ _ _ _ _
  case vsqrt | vrsqrt | vexp | vlog | vtanh | vsigmoid | vfloor | vround | vabs | vneg | vrelu => exact completes_floatUn _ _ _ _
  case vmov => exact completes_mov _ _ _
  case veq | vne | vlt | vle | veqVx | vneVx | vltVx | vleVx => exact completes_compare _ _ _ _ _
  case vsel => exact completes_select _ _ _
  case qand | qor | qxor | qsub | qnot | qcpy => exact completes_maskWord _ _
  case viadd | visub | vimul | vimulh | vimin | vimax | vidiv | virem | viaddVx | vimulVx => exact completes_intOp _ _ _ _ _
  case vand | vor | vxor | vsll | vsrl | vsra | vandVx | vorVx | vxorVx | vsllVx | vsrlVx | vsraVx => exact completes_bitOp _ _ _ _ _
  case vcvtTo | vcvtFrom => exact completes_convert _ _ _ _ _
  case vredsum | vredmax | vredmin | vredand | vredor | vredxor => exact completes_reduce _ _ _ _
  case vid => exact completes_index _ _
  case vslideup => exact completes_slideUp _ _ _
  case vslidedn => exact completes_slideDown _ _ _
  case vshuf => exact completes_shuffle _ _ _ _
  case vcompress => exact completes_compress _ _
  case vbcast => exact completes_bcast _ _
  case vhail => exact completes_hailBits _ _
  case vbern => exact completes_mask _ _
  case vseed => exact completes_seed _ _
  case vtclr => exact completes_tanClear _ _
  case vtget => exact completes_tanGet _ _ _
  case vtset => exact completes_tanSet _ _ _
  case vfgu => exact completes_fgu _ _ _
  -- words of other majors do not act here
  all_goals exact completes_pure

end

end Sys2Proof.Machine
end

section
/-! PROOFS. One element of a conversion and of the words on tangents (R54, R61, R66, R157, R163 to R166). -/

namespace Sys2Proof.Machine

open Sys2Proof

/-- What an element's write leaves of the registers and the events. -/
def PutsAndRaises (L : Lane) (s : State) (w : Nat) (d : BitVec 7) (j v : Nat) (tan : Nat → Nat) (ev et : Ev) (t : State) : Prop :=
  PutsElement L s t w d j v tan ∧ Raised L s t ev et

theorem Gives.putsAndRaises {L : Lane} {s t : State} {w : Nat} {d : BitVec 7} {j v : Nat} {tan : Nat → Nat} {ev et : Ev}
    (h : Gives L s w d j v tan ev et t) : PutsAndRaises L s w d j v tan ev et t := by
  obtain ⟨hputs, hraised, -⟩ := h
  exact ⟨hputs, hraised⟩

/-! ### Conversions (R54, R61, R157) -/

/-- The state after a converted element is written. -/
def Lane.convertedTo (L : Lane) (s : State) (src dst : Nat) (d a : BitVec 7) : State :=
  let r := converted L s src dst a
  (s.putElem L.core L.c (vwOf dst) d.toNat L.i r.1.1 (fun k => (r.2 k).1)).raise L.h L.e.seq L.i r.1.2
    (orEvents L.c.b fun k => (r.2 k).2)

/-- The exponent that a conversion's scale adds (R54), as the statement writes it. -/
theorem scaleShift_eq (entry : Nat) (p q : Bool) :
    (match (if entry = 255 then none else some ((entry : Int) - 127) : Option Int) with
      | some e => (if p then e else 0) - (if q then e else 0)
      | none => 0) =
    if entry = 255 then 0 else (if p then (entry : Int) - 127 else 0) - (if q then (entry : Int) - 127 else 0) := by
  split <;> split <;> simp_all

theorem isNone_scale (entry : Nat) : (if entry = 255 then none else some ((entry : Int) - 127)).isNone = (entry == 255) := by
  split <;> simp_all

/-- An active element of a conversion: to a float its value and tangents are rounded, to an integer it has no tangents. -/
theorem convert_run (L : Lane) (s : State) (src dst : Nat) (d a : BitVec 7) {m : Bool} (hm : L.active m = true) :
    (L.convert src dst d a m).run s = .ok () (L.convertedTo s src dst d a) := by
  unfold Lane.convert Lane.convertedTo converted
  rw [if_pos hm, run_get_bind]
  dsimp only [Ctx.scaleExp]
  rw [isNone_scale]
  simp only [← scaleShift_eq]
  cases hd : isFloat dst
  · simp only [Bool.false_eq_true, if_false, Bool.not_false, Bool.true_or, if_true, orEvents_zero]
    rfl
  · simp only [if_true, Bool.not_true, Bool.false_or]
    cases hs : isFloat src
    · simp only [Bool.false_eq_true, if_false, Bool.not_false, Bool.true_or, if_true]
      rfl
    · simp only [if_true, Bool.not_true, Bool.false_or]
      rfl

theorem acts_convert {L : Lane} {s : State} {i : Instr} {src dst : Nat} {d a : BitVec 7} {m : Bool} (hi : L.perform i = L.convert src dst d a m) :
    let r := converted L s src dst a
    Acts L s i m (PutsAndRaises L s (vwOf dst) d L.i r.1.1 (fun k => (r.2 k).1) r.1.2 (orEvents L.c.b fun k => (r.2 k).2)) := by
  refine ⟨fun hm => ?_, fun hm => ⟨L.convertedTo s src dst d a, ?_, (putElem_raise_gives L s dst d L.i _ _ _ _ L.e.seq L.i).putsAndRaises⟩⟩
  · rw [hi, Lane.convert, if_neg fun h => (active_iff L m).mp h hm]
    rfl
  · rw [hi, convert_run L s src dst d a ((active_iff L m).mpr hm)]

theorem acts_of_convertForm {L : Lane} (s : State) {i : Instr} {d : BitVec 7} {m : Bool} {src dst : Nat} {a : BitVec 7}
    (h : convertForm L i = some (d, m, src, dst, a)) :
    let r := converted L s src dst a
    Acts L s i m (PutsAndRaises L s (vwOf dst) d L.i r.1.1 (fun k => (r.2 k).1) r.1.2 (orEvents L.c.b fun k => (r.2 k).2)) := by
  unfold convertForm at h
  split at h <;> cases h
  · exact acts_convert rfl
  · exact acts_convert rfl

/-! ### One plane of tangents (R163, R165) -/

/-- The state after plane n of the lane's element of d has taken a code, with its events. -/
def Lane.planeSet (L : Lane) (s : State) (d : BitVec 7) (n : Nat) (r : Nat × Ev) : State :=
  (s.updVreg L.core (L.c.phys d.toNat) (fun reg => putAt reg (L.c.tanOff L.vw L.i n) L.c.tw r.1)).raise L.h L.e.seq L.i 0 r.2

theorem planeSet_puts (L : Lane) (s : State) (d : BitVec 7) {n : Nat} (hn : n < L.c.b) (r : Nat × Ev) :
    PutsAndRaises L s (vwOf L.c.ew) d L.i (elemSrc L s (some d))
      (fun k => if k = n then r.1 else s.tanAt L.core L.c (vwOf L.c.ew) d.toNat L.i k) 0 r.2 (L.planeSet s d n r) :=
  Gives.putsAndRaises (updVreg_raise (f := fun reg => putAt reg (L.c.tanOff L.vw L.i n) L.c.tw r.1) L s _ d
    (putTan_takes (L.c.rowOf_pos L.c.ew) _ L.i r.1 hn) L.e.seq L.i 0 r.2)

/-- A plane rounded to TF; +0 and no event under VT.TM. -/
theorem planePut_eq (L : Lane) (k : Nat) (x : Num × Ev) :
    planeWord.put L k x = (if L.c.tm then 0 else (roundVt L L.c.tfmt ((k + 1) * 4096 + L.i) x).1,
      if L.c.tm then 0 else (roundVt L L.c.tfmt ((k + 1) * 4096 + L.i) x).2) := by
  unfold planeWord.put
  split <;> rfl

theorem putTan_raise_run (L : Lane) (s : State) (d : BitVec 7) (k : Nat) (x : Num × Ev) :
    (L.putTan d k (roundVt L L.c.tfmt ((k + 1) * 4096 + L.i) x).1 >>= fun _ =>
      L.raise 0 (if L.c.tm then 0 else (roundVt L L.c.tfmt ((k + 1) * 4096 + L.i) x).2)).run s =
    .ok () (L.planeSet s d k (planeWord.put L k x)) := by
  rw [planePut_eq]
  rfl

theorem putTan_zero_run (L : Lane) (s : State) (d : BitVec 7) (k : Nat) : (L.putTan d k 0).run s = .ok () (L.planeSet s d k (0, 0)) := by
  have h : (if L.c.tm then 0 else 0) = 0 := ite_self 0
  unfold Lane.putTan
  rw [h]
  rfl

/-- The fields of vseed's second operand (R163). -/
theorem seedFields (n : Nat) :
    bits (n % 2 ^ 24) 3 0 = n % 16 ∧ bits (n % 2 ^ 24) 5 4 = n / 16 % 4 ∧ bits (n % 2 ^ 24) 15 8 = n / 2 ^ 8 % 256 := by
  simp only [bits]
  omega

theorem seed_run (L : Lane) (s : State) (d : BitVec 7) {m : Bool} (hm : L.active m = true) :
    let k := L.e.opB.toNat % 16
    let sigma (neg : Bool) : Nat × Ev := planeWord.put L k (scaleNum (.fin neg 1 1) (((L.e.opB.toNat / 2 ^ 8 % 256 : Nat) : Int) - 127), 0)
    (L.seed d m).run s = .ok () (L.planeSet s d k
      (if L.e.opB.toNat / 16 % 4 = 0 then sigma (radNeg L.c.key L.c.strm k ((L.e.opA.toNat + L.i) % 2 ^ 40))
       else if L.e.opB.toNat / 16 % 4 = 1 ∧ L.i = L.e.opA.toNat then sigma false else (0, 0))) := by
  obtain ⟨hk, hmode, hexp⟩ := seedFields L.e.opB.toNat
  unfold Lane.seed
  rw [if_pos hm]
  simp only [hk, hmode, hexp, round_eq_roundVt]
  generalize L.e.opB.toNat / 16 % 4 = mode
  split
  case h_1 => exact putTan_raise_run L s d _ _
  case h_2 =>
    rw [if_neg Nat.one_ne_zero]
    by_cases hi : L.i = L.e.opA.toNat
    · have hone : 1 = 1 ∧ L.i = L.e.opA.toNat := ⟨rfl, hi⟩
      rw [if_pos hi, if_pos hone]
      exact putTan_raise_run L s d _ _
    · rw [if_neg hi, if_neg fun h => hi h.2]
      exact putTan_zero_run L s d _
  case h_3 h0 h1 =>
    rw [if_neg h0, if_neg fun h => h1 h.1]
    exact putTan_zero_run L s d _

/-- The plane that vtset writes (R165), before VT.TM. -/
def tanSetResult (L : Lane) (s : State) (a : BitVec 7) : Nat × Ev :=
  roundVt L L.c.tfmt ((L.e.opA.toNat + 1) * 4096 + L.i) (L.fmt.decode (L.val s a), snanEv [L.fmt.decode (L.val s a)])

theorem acts_of_planeWord {L : Lane} {s : State} {i : Instr} {d : BitVec 7} {m : Bool} {n : Nat} {r : Nat × Ev}
    (h : planeWord L s i = some (d, m, n, r)) (hn : n < L.c.b) :
    Acts L s i m (PutsAndRaises L s (vwOf L.c.ew) d L.i (elemSrc L s (some d))
      (fun k => if k = n then r.1 else s.tanAt L.core L.c (vwOf L.c.ew) d.toNat L.i k) 0 r.2) := by
  unfold planeWord at h
  split at h <;> cases h
  case h_1 k a b => -- vseed
    refine ⟨fun hm => ?_, fun hm => ⟨_, seed_run L s d ((active_iff L m).mpr hm), planeSet_puts L s d hn _⟩⟩
    change (L.seed d m).run s = .ok () s
    rw [Lane.seed, if_neg fun h => (active_iff L m).mp h hm]
    rfl
  case h_2 k a b => -- vtset
    have hrun : (get >>= fun s => L.putTan d L.e.opA.toNat (tanSetResult L s a).1 >>= fun _ =>
        L.raise 0 (if L.c.tm then 0 else (tanSetResult L s a).2)).run s = _ :=
      putTan_raise_run L s d L.e.opA.toNat (L.fmt.decode (L.val s a), snanEv [L.fmt.decode (L.val s a)])
    exact acts_of_run rfl hrun (planeSet_puts L s d hn _)

/-! ### A tangent as a value, and the forward-gradient update (R165, R166) -/

theorem acts_vtget (L : Lane) (s : State) (k : Bool) (d a b : BitVec 7) (m : Bool) :
    let x := L.c.tfmt.decode (s.tanAt L.core L.c (vwOf L.c.ew) a.toNat L.i L.e.opA.toNat)
    let r := roundVt L (fmtOf L.c.ew) L.i (x, snanEv [x])
    Acts L s (.vtget k d a b m) m (PutsAndRaises L s (vwOf L.c.ew) d L.i r.1 (fun _ => 0) r.2 0) :=
  acts_of_run rfl rfl
    ((putElem_raise_gives L s L.c.ew d L.i _ _ _ 0 L.e.seq L.i).congr rfl fun _ _ => congrFun (ite_self noTan) _).putsAndRaises

/-- A value written leaves the tangents of its element. -/
theorem withVal_raise_puts (L : Lane) (s : State) (d : BitVec 7) (v : Nat) (ev : Ev) :
    PutsAndRaises L s (vwOf L.c.ew) d L.i v (fun k => s.tanAt L.core L.c (vwOf L.c.ew) d.toNat L.i k) ev 0
      ((s.updVreg L.core (L.c.phys d.toNat) (fun reg => L.c.withVal L.vw reg L.i v)).raise L.h L.e.seq L.i ev 0) :=
  Gives.putsAndRaises (updVreg_raise (f := fun reg => L.c.withVal L.vw reg L.i v) L s _ d
    (withVal_takes (vwOf_pos L.c.ew) (L.c.rowOf_pos L.c.ew) _ L.i v) L.e.seq L.i ev 0)

theorem acts_vfgu (L : Lane) (s : State) (k : Bool) (d a b : BitVec 7) (m : Bool) :
    let coef (n : Nat) : Num := (fmtOf L.c.ew).decode (s.elemAt L.core L.c (vwOf L.c.ew) a.toNat n)
    let signed (n : Nat) : Num := if radNeg L.c.key L.c.strm n ((L.e.opA.toNat + L.i) % 2 ^ 40) then (coef n).negate else coef n
    let u := (List.range L.c.b).foldl (fun u n => midStep (after u (fun x => addNum .rne x (signed n)))) ((.fin false 0 1 : Num), (0 : Ev))
    let r := roundVt L (fmtOf L.c.ew) L.i (after u (fun x => addNum L.c.rm ((fmtOf L.c.ew).decode (elemSrc L s (some d))) x.negate))
    Acts L s (.vfgu k d a b m) m
      (PutsAndRaises L s (vwOf L.c.ew) d L.i r.1 (fun k => s.tanAt L.core L.c (vwOf L.c.ew) d.toNat L.i k) r.2 0) :=
  acts_of_run rfl rfl (withVal_raise_puts L s d _ _)

end Sys2Proof.Machine
end

section
/-! PROOFS. A reduction by the tree of R63 (R158). -/

namespace Sys2Proof.Machine

open Sys2Proof

/-! ### The tree (R63) -/

/-- What a position of the model's tree holds, as the statement writes it. -/
def NodeEv.held (x : NodeEv) : Option Held := x.1.map fun n => (n.v, x.2.1, n.t, x.2.2)

/-- A position that holds nothing has no events. -/
def NodeEv.Quiet (x : NodeEv) : Prop := x.1 = none → x.2 = (0, 0)

/-- Two combinations agree: events of both sides are ORed with those of the combination. -/
def CombinesAs (comb : Node → Node → Nat → Node × Ev × Ev) (hcomb : Nat → Held → Held → Held) : Prop :=
  ∀ (a b : Node) (ea ta eb tb : Ev) mid, hcomb mid (a.v, ea, a.t, ta) (b.v, eb, b.t, tb) =
    ((comb a b mid).1.v, ea ||| eb ||| (comb a b mid).2.1, (comb a b mid).1.t, ta ||| tb ||| (comb a b mid).2.2)

/-- Two subtrees of the model's tree put together at the middle. -/
def joinNodes (comb : Node → Node → Nat → Node × Ev × Ev) (mid : Nat) (l r : NodeEv) : NodeEv :=
  match l.1, r.1 with
  | some a, some b =>
    ((comb a b mid).1, l.2.1 ||| r.2.1 ||| (comb a b mid).2.1, l.2.2 ||| r.2.2 ||| (comb a b mid).2.2)
  | some a, none => (some a, l.2.1 ||| r.2.1, l.2.2 ||| r.2.2)
  | none, o => (o, l.2.1 ||| r.2.1, l.2.2 ||| r.2.2)

theorem redTree_succ (leaf : Nat → NodeEv) (comb : Node → Node → Nat → Node × Ev × Ev) (k lo : Nat) :
    redTree leaf comb (k + 1) lo = joinNodes comb (lo + 2 ^ k) (redTree leaf comb k lo) (redTree leaf comb k (lo + 2 ^ k)) := rfl

/-- Two subtrees of the statement's tree put together at the middle. -/
def joinHeld (hcomb : Nat → Held → Held → Held) (mid : Nat) : Option Held → Option Held → Option Held
  | some a, some b => some (hcomb mid a b)
  | some a, none => some a
  | none, r => r

theorem treeOf_succ (leaf : Nat → Option Held) (hcomb : Nat → Held → Held → Held) (k lo : Nat) :
    treeOf leaf hcomb (k + 1) lo = joinHeld hcomb (lo + 2 ^ k) (treeOf leaf hcomb k lo) (treeOf leaf hcomb k (lo + 2 ^ k)) := by
  rw [treeOf]
  cases treeOf leaf hcomb k lo <;> cases treeOf leaf hcomb k (lo + 2 ^ k) <;> rfl

theorem joinNodes_held {comb : Node → Node → Nat → Node × Ev × Ev} {hcomb : Nat → Held → Held → Held} (h : CombinesAs comb hcomb)
    (mid : Nat) {l r : NodeEv} (hl : l.Quiet) (hr : r.Quiet) :
    (joinNodes comb mid l r).held = joinHeld hcomb mid l.held r.held ∧ (joinNodes comb mid l r).Quiet := by
  obtain ⟨_ | a, ea, ta⟩ := l <;> obtain ⟨_ | b, eb, tb⟩ := r
  case none.none =>
    obtain ⟨rfl, rfl⟩ : ea = 0 ∧ ta = 0 := by simpa using hl rfl
    obtain ⟨rfl, rfl⟩ : eb = 0 ∧ tb = 0 := by simpa using hr rfl
    exact ⟨rfl, fun _ => rfl⟩
  case none.some =>
    obtain ⟨rfl, rfl⟩ : ea = 0 ∧ ta = 0 := by simpa using hl rfl
    exact ⟨by simp [joinNodes, joinHeld, NodeEv.held], nofun⟩
  case some.none =>
    obtain ⟨rfl, rfl⟩ : eb = 0 ∧ tb = 0 := by simpa using hr rfl
    exact ⟨by simp [joinNodes, joinHeld, NodeEv.held], nofun⟩
  case some.some => exact ⟨congrArg some (h a b ea ta eb tb mid).symm, nofun⟩

/-- The model's tree holds what the statement's tree holds, by induction on the height. -/
theorem redTree_held {leaf : Nat → NodeEv} {comb : Node → Node → Nat → Node × Ev × Ev} {hcomb : Nat → Held → Held → Held}
    (hleaf : ∀ j, (leaf j).Quiet) (h : CombinesAs comb hcomb) (k lo : Nat) :
    (redTree leaf comb k lo).held = treeOf (fun j => (leaf j).held) hcomb k lo ∧ (redTree leaf comb k lo).Quiet := by
  induction k generalizing lo with
  | zero => exact ⟨rfl, hleaf lo⟩
  | succ k ih =>
    obtain ⟨hl, hlq⟩ := ih lo
    obtain ⟨hr, hrq⟩ := ih (lo + 2 ^ k)
    rw [redTree_succ, treeOf_succ, ← hl, ← hr]
    exact joinNodes_held h _ hlq hrq

/-! ### Combining two positions (R53, R66, R158) -/

/-- The events of a list, each by its place. -/
theorem orEvents_getElem (l : List (Nat × Ev)) :
    (l.map Prod.snd).foldl (fun x y => x ||| y) 0 = orEvents l.length (fun k => ((l[k]?).map (·.2)).getD 0) := by
  have hl : l.map Prod.snd = (List.range l.length).map (fun k => ((l[k]?).map (·.2)).getD 0) := by
    refine List.ext_getElem (by simp) fun k h1 h2 => ?_
    simp at h1
    simp [h1]
  rw [hl, List.foldl_map]
  rfl

theorem chosen_eq (second : Bool) (a b : Node) (e t : Ev) : (if second then ((b.v, e, b.t, t) : Held) else (a.v, e, a.t, t)) =
    ((if second then b else a).v, e, (if second then b else a).t, t) := by
  cases second <;> rfl

/-- The model's combination is the statement's; a maximum or minimum chooses one of the two, or is NaN. -/
theorem combine_combinesAs (L : Lane) (op : Red) : CombinesAs (L.c.combine op) (combineHeld L op) := by
  intro a b ea ta eb tb mid
  unfold Ctx.combine combineHeld
  cases op
  case sum =>
    cases hf : isFloat L.c.ew
    · rfl
    · simp only [if_true, ← orEvents_getElem]
      rfl
  case max =>
    cases hf : isFloat L.c.ew
    · exact chosen_eq (decide (intOf L.c.ew a.v < intOf L.c.ew b.v)) a b _ _
    · simp only [if_true]
      split
      · rfl
      · exact chosen_eq (ltNum (L.fmt.decode a.v) (L.fmt.decode b.v)) a b _ _
  case min =>
    cases hf : isFloat L.c.ew
    · exact chosen_eq (decide (intOf L.c.ew b.v < intOf L.c.ew a.v)) a b _ _
    · simp only [if_true]
      split
      · rfl
      · exact chosen_eq (ltNum (L.fmt.decode b.v) (L.fmt.decode a.v)) a b _ _
  case and | or | xor => rfl

/-! ### What a reduction writes (R158) -/

/-- The leaf of an active element of the model's tree, and none elsewhere. -/
def Lane.leafOf (L : Lane) (s : State) (op : Red) (a : BitVec 7) (m : Bool) (j : Nat) : NodeEv :=
  if j < L.c.vl && (!m || bit (L.c.mask L.c.msel) j) then
    let v := L.valOf s a j
    let ts := (List.range L.c.b).map (L.tanOf s a j)
    (some { v := v, t := ts }, evIf (isFloat L.c.ew && (L.fmt.decode v).isSNaN) evNV, if op == .sum then snanEv (ts.map L.c.tfmt.decode) else 0)
  else (none, 0, 0)

theorem leafOf_quiet (L : Lane) (s : State) (op : Red) (a : BitVec 7) (m : Bool) (j : Nat) : (L.leafOf s op a m j).Quiet := by
  unfold Lane.leafOf
  split
  · exact nofun
  · exact fun _ => rfl

/-- The leaf of the statement's tree. -/
def heldLeaf (L : Lane) (s : State) (op : Red) (a : BitVec 7) (m : Bool) (j : Nat) : Option Held :=
  if j < L.c.vl ∧ (m = false ∨ L.c.mask L.c.msel / 2 ^ j % 2 = 1) then
    let v := s.elemAt L.core L.c (vwOf L.c.ew) a.toNat j
    let ts := (List.range L.c.b).map (s.tanAt L.core L.c (vwOf L.c.ew) a.toNat j)
    some (v, (if isFloat L.c.ew && ((fmtOf L.c.ew).decode v).isSNaN then evNV else 0), ts,
      if op = .sum then snanEv (ts.map L.c.tfmt.decode) else 0)
  else none

theorem leafOf_held (L : Lane) (s : State) (op : Red) (a : BitVec 7) (m : Bool) (j : Nat) :
    (L.leafOf s op a m j).held = heldLeaf L s op a m j := by
  have hon : (j < L.c.vl && (!m || bit (L.c.mask L.c.msel) j)) = true ↔
      j < L.c.vl ∧ (m = false ∨ L.c.mask L.c.msel / 2 ^ j % 2 = 1) := by
    simp [bit]
  unfold Lane.leafOf heldLeaf
  by_cases h : j < L.c.vl ∧ (m = false ∨ L.c.mask L.c.msel / 2 ^ j % 2 = 1)
  · rw [if_pos h, if_pos (hon.mpr h)]
    cases op <;> rfl
  · rw [if_neg h, if_neg (mt hon.mp h)]
    rfl

/-- The root of the model's tree. -/
def Lane.root (L : Lane) (s : State) (op : Red) (a : BitVec 7) (m : Bool) : NodeEv :=
  redTree (L.leafOf s op a m) (L.c.combine op) (log2 (pow2Ceil L.c.vl)) 0

theorem root_held (L : Lane) (s : State) (op : Red) (a : BitVec 7) (m : Bool) :
    (L.root s op a m).held = treeOf (heldLeaf L s op a m) (combineHeld L op) (log2 (pow2Ceil L.c.vl)) 0 ∧ (L.root s op a m).Quiet := by
  obtain ⟨h, hq⟩ := redTree_held (leafOf_quiet L s op a m) (combine_combinesAs L op) (log2 (pow2Ceil L.c.vl)) 0
  exact ⟨h.trans (by simp only [leafOf_held]), hq⟩

/-- The only format without infinities is E4M3 (R50). -/
theorem ocp_iff (ew : Nat) : (fmtOf ew).ocp = decide (ew = 3) := by
  unfold fmtOf
  split <;> simp_all <;> rfl

theorem redIdentity_eq (op : Red) (ew : Nat) : redIdentity op ew = emptyTree ew op := by
  unfold redIdentity emptyTree
  simp only [ocp_iff, decide_eq_true_eq, intWidth]
  by_cases h : ew = 3
  · subst h
    cases op <;> rfl
  · cases op <;> simp [h]

/-- The root of the model's tree, with the identity of an empty one. -/
def Lane.rootNode (L : Lane) (s : State) (op : Red) (a : BitVec 7) (m : Bool) : Node :=
  (L.root s op a m).1.getD { v := redIdentity op L.c.ew, t := [] }

/-- The root of the statement's tree is the model's. -/
theorem treeOf_root (L : Lane) (s : State) (op : Red) (a : BitVec 7) (m : Bool) :
    (treeOf (heldLeaf L s op a m) (combineHeld L op) (log2 (pow2Ceil L.c.vl)) 0).getD (emptyTree L.c.ew op, 0, [], 0) =
      ((L.rootNode s op a m).v, (L.root s op a m).2.1, (L.rootNode s op a m).t, (L.root s op a m).2.2) := by
  obtain ⟨h, hq⟩ := root_held L s op a m
  rw [← h, Lane.rootNode, redIdentity_eq]
  generalize L.root s op a m = r at hq
  obtain ⟨_ | n, ev, et⟩ := r
  · obtain ⟨rfl, rfl⟩ : ev = 0 ∧ et = 0 := by simpa using hq rfl
    rfl
  · rfl

/-- What a reduction writes for a root (R63, R66, R158). -/
def reducedFrom (L : Lane) (op : Red) (root : Held) : (Nat × Ev) × (Nat → Nat) × Ev :=
  let nan := isFloat L.c.ew && ((fmtOf L.c.ew).decode root.1).isNaN
  let quiet (n : Nat) : Nat := if (L.c.tfmt.decode n).isNaN then L.c.tfmt.qnan else n
  ((if nan then (fmtOf L.c.ew).qnan else root.1, root.2.1),
   (fun k => if !isFloat L.c.ew || L.c.tm then 0 else if nan then L.c.tfmt.qnan else quiet ((root.2.2.1[k]?).getD 0)),
   if !isFloat L.c.ew || nan || L.c.tm then 0
   else root.2.2.2 ||| (if op = .sum then 0 else snanEv (root.2.2.1.map L.c.tfmt.decode)))

theorem reduced_eq (L : Lane) (s : State) (op : Red) (a : BitVec 7) (m : Bool) : reduced L s op a m =
    reducedFrom L op ((L.rootNode s op a m).v, (L.root s op a m).2.1, (L.rootNode s op a m).t, (L.root s op a m).2.2) := by
  rw [← treeOf_root]
  rfl

/-- The reduction acts, whole, with the last element. -/
theorem reduce_run (L : Lane) (s : State) (op : Red) (d a : BitVec 7) (m : Bool) (h : L.i + 1 = L.c.vl) :
    let r := reduced L s op a m
    (L.reduce op d a m).run s =
      .ok () ((s.putElem L.core L.c (vwOf L.c.ew) d.toNat 0 r.1.1 r.2.1).raise L.h L.e.seq 0 r.1.2 r.2.2) := by
  unfold Lane.reduce
  rw [if_pos h, reduced_eq]
  cases op <;> rfl

theorem reduces {L : Lane} {s : State} {i : Instr} {op : Red} {d a : BitVec 7} {m : Bool} (hi : L.perform i = L.reduce op d a m) :
    (L.i + 1 ≠ L.c.vl → (L.perform i).run s = .ok () s) ∧
    (L.i + 1 = L.c.vl →
      let r := reduced L s op a m
      ∃ t, (L.perform i).run s = .ok () t ∧ PutsAndRaises L s (vwOf L.c.ew) d 0 r.1.1 r.2.1 r.1.2 r.2.2 t) := by
  rw [hi]
  refine ⟨fun h => ?_, fun h => ⟨_, reduce_run L s op d a m h, (putElem_raise_gives L s L.c.ew d 0 _ _ _ _ L.e.seq 0).putsAndRaises⟩⟩
  rw [Lane.reduce, if_neg h]
  rfl

theorem reduces_of_reduceForm {L : Lane} {s : State} {i : Instr} {op : Red} {d a : BitVec 7} {m : Bool}
    (h : reduceForm i = some (op, d, a, m)) :
    (L.i + 1 ≠ L.c.vl → (L.perform i).run s = .ok () s) ∧
    (L.i + 1 = L.c.vl →
      let r := reduced L s op a m
      ∃ t, (L.perform i).run s = .ok () t ∧ PutsAndRaises L s (vwOf L.c.ew) d 0 r.1.1 r.2.1 r.1.2 r.2.2 t) := by
  unfold reduceForm at h
  split at h <;> cases h <;> exact reduces rfl

end Sys2Proof.Machine

open Sys2Proof Sys2Proof.Machine

/-- Settles O44: the reach of every word is composed of the reaches of its steps, and each of the other clauses is a write of one element;
the tree of a reduction is compared with the statement's by induction on its height. -/
theorem arithmeticElementsComplete : Obligations.ArithmeticElementsComplete := by
  unfold Obligations.ArithmeticElementsComplete
  refine ⟨fun L s i => completes_arith i s, fun L s i d m src dst a h _ => acts_of_convertForm s h,
    fun L s i op d a m h => ?_, fun L s i d m n v e h hn _ => acts_of_planeWord h hn,
    fun L s k d a b m _ => acts_vtget L s k d a b m, fun L s k d a b m _ => acts_vfgu L s k d a b m⟩
  obtain ⟨hother, hlast⟩ := reduces_of_reduceForm (L := L) (s := s) h
  exact ⟨hother, fun hi _ => hlast hi⟩
end

section
/-! PROOFS. vcfg, vgrant and wbase (R20, R140 to R142). -/

namespace Sys2Proof.Machine

open Sys2Proof

/-! ### VT and VLMAX (R20, R140) -/

theorem Ctx.vlmax_eq (c : Ctx) : c.vlmax = Machine.vlmaxOf c.vt := by
  simp [Ctx.vlmax, Ctx.vlmaxOf, Ctx.rowOf, Ctx.fpOf, Ctx.ew, Ctx.b, Ctx.tw, Ctx.tf, Machine.vlmaxOf, bits, bit]

theorem vtBad_iff (vt : Nat) : vtBad vt = true ↔ vtRefused vt := by
  simp only [vtBad, vtRefused, Bool.or_eq_true, Bool.and_eq_true, decide_eq_true_eq, List.mem_cons, List.not_mem_nil,
    or_false]
  simp only [bits, Nat.reduceAdd, Nat.reduceSub, Nat.reducePow, Nat.div_one]
  omega

/-- The window rule as the model tests it. -/
theorem window_iff (x n : Nat) : (x % 64 != 0 || n < x + 128) = true ↔ ¬ (x % 64 = 0 ∧ x + 128 ≤ n) := by
  simp only [Bool.or_eq_true, bne_iff_ne, decide_eq_true_eq]
  omega

/-! ### A word that changes its context and retires -/

/-- A change of the context, then x[d] := v and on past the word. -/
theorem updCtx_retiresWith {f : Ctx → Ctx} (hx : ∀ c, (f c).x = c.x) (hpc : ∀ c, (f c).pc = c.pc) (s : State) (h : Nat) (d : BitVec 7)
    (v : Word) : RetiresWith s (((s.updCtx h f).setX h d v).retire h) h d v { f (s.ctx h) with pc := s.pc h + 4 } := by
  obtain ⟨honly, hhart, hwrites⟩ := setX_retire (s.updCtx h f) h d v
  have hctx : (s.updCtx h f).past h = { f (s.ctx h) with pc := s.pc h + 4 } := by
    simp only [State.past, State.pc, State.ctx, updCtx_hart, hpc]
  refine ⟨(updCtx_onlyHart s h f).trans honly, ?_, fun r => ?_⟩
  · rw [hhart, hctx, updCtx_hart]
    rfl
  · rw [hwrites r, updCtx_x hx]

/-- The same where no register is written. -/
theorem updCtx_retires {f : Ctx → Ctx} (hx : ∀ c, (f c).x = c.x) (hpc : ∀ c, (f c).pc = c.pc) (s : State) (h : Nat) :
    RetiresWith s ((s.updCtx h f).retire h) h 0 0 { f (s.ctx h) with pc := s.pc h + 4 } := by
  have := updCtx_retiresWith hx hpc s h 0 0
  rwa [State.setX_zero] at this

/-- The word of a configuration form, as EVAL holds it. -/
theorem configWord {f d a : Nat} {w : Word32} (hf : f < 16) (hd : d < 128) (ha : a < 128)
    (hw : some (BitVec.ofNat 32 (wordR 0x2F f true d a 0)) = some w) : w.setWidth 64 = word (wordR 0x2F f true d a 0) := by
  obtain rfl := Option.some.inj hw
  exact setWidth_ofNat (Laws.wordR_lt true (by decide) hf (by decide) ha hd)

section
variable {s : State} (hq : (s.hart s.turn).queue = [])
include hq

/-! ### vcfg and wbase (R140, R142) -/

/-- The change that vcfg makes. -/
def Ctx.configured (c : Ctx) (vt : Nat) : Ctx := { c with vt := vt, vl := min c.vl (Machine.vlmaxOf vt), vs := 0 }

theorem exec_vcfg (d a : BitVec 7) (hvt : ¬ vtRefused ((s.x s.turn a).toNat % 2 ^ 32)) :
    exec (.vcfg true d a) s =
      .next (((s.updCtx s.turn (fun c => c.configured ((s.x s.turn a).toNat % 2 ^ 32))).setX s.turn d
        (word (vlmaxOf ((s.x s.turn a).toNat % 2 ^ 32)))).retire s.turn) := by
  have hbad := mt (vtBad_iff _).mp hvt
  change execVcfg true d a s = _
  unfold execVcfg
  refine scalarWord_ok ((run_bind_ok (needEmpty_run hq)).trans ?_)
  simp only [bits_low, Ctx.vlmax_eq]
  rw [if_neg hbad]
  rfl

theorem exec_vcfg_opnd (d a : BitVec 7) (hs : s.stoppable s.turn = true) (hvt : vtRefused ((s.x s.turn a).toNat % 2 ^ 32)) :
    exec (.vcfg true d a) s = .next (s.trapEntry s.turn cOPND (word (wordR 0x2F 0 true d.toNat a.toNat 0))) := by
  have hbad := (vtBad_iff _).mpr hvt
  change execVcfg true d a s = _
  unfold execVcfg
  refine scalarWord_trap hs ((run_bind_ok (needEmpty_run hq)).trans ?_)
  simp only [bits_low]
  rw [if_pos hbad]
  rfl

theorem exec_wbase (a : BitVec 7) (hw : (s.x s.turn a).toNat % 64 = 0 ∧ (s.x s.turn a).toNat + 128 ≤ (s.ctx s.turn).vcount) :
    exec (.wbase true a) s = .next ((s.updCtx s.turn (fun c => { c with wb := (s.x s.turn a).toNat })).retire s.turn) := by
  have hok := fun h => (window_iff (s.x s.turn a).toNat (s.ctx s.turn).vcount).mp h hw
  change execWbase true a s = _
  unfold execWbase
  refine scalarWord_ok ((run_bind_ok (needEmpty_run hq)).trans ?_)
  dsimp only
  rw [if_neg hok]
  rfl

theorem exec_wbase_opnd (a : BitVec 7) (hs : s.stoppable s.turn = true)
    (hw : ¬ ((s.x s.turn a).toNat % 64 = 0 ∧ (s.x s.turn a).toNat + 128 ≤ (s.ctx s.turn).vcount)) :
    exec (.wbase true a) s = .next (s.trapEntry s.turn cOPND (word (wordR 0x2F 4 true 0 a.toNat 0))) := by
  have hbad := (window_iff (s.x s.turn a).toNat (s.ctx s.turn).vcount).mpr hw
  change execWbase true a s = _
  unfold execWbase
  refine scalarWord_trap hs ((run_bind_ok (needEmpty_run hq)).trans ?_)
  dsimp only
  rw [if_pos hbad]
  rfl

end

/-! ### A strip's record leaves every context (R209) -/

/-- Every hart's context is what it was. -/
def KeepsContexts (s t : State) : Prop := ∀ g, t.ctx g = s.ctx g

theorem keepsContexts_composes : Composes KeepsContexts where
  refl _ _ := rfl
  trans a b g := (b g).trans (a g)

theorem SideOnly.keepsContexts {s t : State} (h : SideOnly s t) : KeepsContexts s t := fun g => by
  rw [State.ctx, State.hart, h.harts]
  rfl

/-- What a record's place in its ring may do: what translations and writes at home do. -/
theorem ringPut_keeps {P : State → State → Prop} (hP : Composes P) (hside : ∀ {s t}, SideOnly s t → P s t)
    (hhome : ∀ {s t}, WritesHome s t → P s t) {r : Req} (hr : r.keep = none) (ring logn size rec : Nat) :
    Keeps P (ringPut r ring logn size rec) := by
  have hres : ∀ a va len, Keeps P (resolve r a va len) := fun a va len => (resolve_keeps hr a va len).mono hside
  have hwrite : ∀ pa bs, Keeps P (modify fun s => s.writePa none pa bs : M Unit) := fun pa bs =>
    keeps_modify fun s => hhome (writePa_writesHome s none pa bs)
  unfold ringPut
  refine keeps_bind hP (hres _ _ _) fun o => ?_
  split
  · exact keeps_pure hP _
  · refine keeps_get_bind hP fun s => ?_
    split
    · exact hP.refl s
    · dsimp only
      split
      · refine keeps_bind hP (hres _ _ _) (fun o => ?_) s
        split
        · exact keeps_pure hP _
        · exact keeps_bind hP (keeps_modify fun t => hhome ((writePa_writesHome t none _ _).trans (writePieces_writesHome _ none _ _)))
            fun _ => keeps_pure hP _
      · exact keeps_bind hP (hwrite _ _) (fun _ => keeps_pure hP _) s

theorem closeStrip_keepsContexts (lno hart groups : Nat) (c : Ctx) (fin : Bool) : Keeps KeepsContexts (closeStrip lno hart groups c fin) := by
  have hP := keepsContexts_composes
  refine keeps_get_bind hP fun s => ?_
  split
  · exact hP.refl s
  · split
    · exact hP.refl s
    · refine keeps_bind hP (ringPut_keeps hP SideOnly.keepsContexts WritesHome.ctx rfl _ _ _ _) (fun o => ?_) s
      split <;> exact keeps_pure hP _

theorem evalM_keepsContexts {α : Type} {m : M α} (hm : Keeps KeepsContexts m) (s : State) (d : α) : KeepsContexts s (s.evalM d m).2 := by
  have := hm s
  unfold KeepsAt at this
  unfold State.evalM
  split
  · simp_all
  · exact fun _ => rfl

/-- The next strip opens in its own hart's context, and nothing else of a context changes. -/
theorem nextStrip_ctx (s : State) (h : Nat) :
    (∃ p, (s.nextStrip h).ctx h = { s.ctx h with strip := p }) ∧ ∀ g, g ≠ h → (s.nextStrip h).ctx g = s.ctx g := by
  have hkeep := evalM_keepsContexts (closeStrip_keepsContexts (s.hartLno h) h (s.hart h).groups.length (s.ctx h) false) s true
  unfold State.nextStrip
  generalize s.evalM true (closeStrip (s.hartLno h) h (s.hart h).groups.length (s.ctx h) false) = r at hkeep
  refine ⟨⟨{ Strip.zero with pc := (s.ctx h).pc.toNat, lost := r.1 }, ?_⟩, fun g hg => ?_⟩
  · rw [State.ctx, updCtx_hart, hkeep h]
  · rw [State.ctx, (updCtx_onlyHart r.2 h _).2.2 g hg]
    exact hkeep g

theorem retarget_ctx (s : State) (c g : Nat) : (s.retarget c).ctx g = s.ctx g := by
  rw [State.ctx, retarget_hart]
  rfl

/-! ### vgrant (R141) -/

/-- The state in which vgrant has set VL and opened the next strip, before it writes x[d]. -/
def State.granted (s : State) (h vl : Nat) : State :=
  ((s.nextStrip h).updCtx h (fun c => { c with vl := vl, vs := 0 })).retarget (coreOf h)

theorem granted_ctx (s : State) (h vl : Nat) :
    (∃ p, (s.granted h vl).ctx h = { s.ctx h with strip := p, vl := vl, vs := 0 }) ∧ ∀ g, g ≠ h → (s.granted h vl).ctx g = s.ctx g := by
  obtain ⟨⟨p, hp⟩, hothers⟩ := nextStrip_ctx s h
  refine ⟨⟨p, ?_⟩, fun g hg => ?_⟩
  · rw [State.granted, retarget_ctx, State.ctx, updCtx_hart, hp]
  · rw [State.granted, retarget_ctx, State.ctx, (updCtx_onlyHart _ h _).2.2 g hg]
    exact hothers g hg

theorem exec_vgrant {s : State} (d a : BitVec 7) (hq : (s.hart s.turn).queue = []) :
    let vl := min (s.x s.turn a).toNat (vlmaxOf (s.ctx s.turn).vt)
    exec (.vgrant true d a) s = .next (((s.granted s.turn vl).setX s.turn d (word vl)).retire s.turn) := by
  rw [← Ctx.vlmax_eq]
  change execVgrant true d a s = _
  unfold execVgrant
  exact scalarWord_ok ((run_bind_ok (needEmpty_run hq)).trans rfl)

/-- What vgrant leaves: VL and x[d], and every other context. -/
theorem granted_retire (s : State) (h vl : Nat) (d : BitVec 7) :
    let t := ((s.granted h vl).setX h d (word vl)).retire h
    WritesX s t h d (word vl) ∧ (t.ctx h).vl = vl ∧ (t.ctx h).vs = 0 ∧ (t.ctx h).vt = (s.ctx h).vt ∧ (t.ctx h).wb = (s.ctx h).wb ∧
      t.pc h = s.pc h + 4 ∧ ∀ g, g ≠ h → t.ctx g = s.ctx g := by
  obtain ⟨⟨p, hp⟩, hothers⟩ := granted_ctx s h vl
  obtain ⟨⟨-, -, hharts⟩, hhart, hwrites⟩ := setX_retire (s.granted h vl) h d (word vl)
  generalize ((s.granted h vl).setX h d (word vl)).retire h = t at *
  have hctx : t.ctx h = { s.ctx h with strip := p, vl := vl, vs := 0, pc := s.pc h + 4, x := (t.ctx h).x } := by
    rw [State.past, State.pc, hp] at hhart
    exact congrArg Hart.ctx hhart
  dsimp only
  refine ⟨fun r => ?_, by rw [hctx], by rw [hctx], by rw [hctx], by rw [hctx], by rw [State.pc, hctx], fun g hg => ?_⟩
  · rw [hwrites r, State.x, State.x, hp]
  · rw [State.ctx, hharts g hg]
    exact hothers g hg

end Sys2Proof.Machine

open Sys2Proof Sys2Proof.Machine

/-- Settles O22: each word is a change of the context of its hart and a retirement, or OPND. -/
theorem vectorConfiguration : Obligations.VectorConfiguration := by
  unfold Obligations.VectorConfiguration
  refine ⟨fun s d a hq hs => ⟨fun hvt => ⟨_, exec_vcfg hq d a hvt, ?_⟩, fun w hvt hw => ?_, fun hw hn => ⟨_, exec_wbase hq a ⟨hw, hn⟩, ?_⟩,
    fun w hbad hw => ?_⟩, fun s d a hq => ⟨_, exec_vgrant d a hq, granted_retire s s.turn _ d⟩⟩
  · exact updCtx_retiresWith (f := fun c => c.configured _) (fun _ => rfl) (fun _ => rfl) s s.turn d _
  · rw [exec_vcfg_opnd hq d a hs hvt, configWord (by decide) d.isLt a.isLt hw]
  · exact updCtx_retires (f := fun c => { c with wb := (s.x s.turn a).toNat }) (fun _ => rfl) (fun _ => rfl) s s.turn
  · rw [exec_wbase_opnd hq a hs hbad, configWord (by decide) (by decide) a.isLt hw]
end

section
/-! PROOFS. vscl (R184): the model numbers a scale entry from the SB of its hart's context, the statement from the SB of the lane, and the
two may differ there. -/

namespace Sys2Proof.Machine

open Sys2Proof

/-! ### Meanings that complete, by evaluation -/

/-- A meaning that answers something else than a stop would has completed. -/
theorem run_of_evalM {α : Type} {s : State} {d : α} {m : M α} (h : (s.evalM d m).1 ≠ d) :
    m.run s = .ok (s.evalM d m).1 (s.evalM d m).2 := by
  unfold State.evalM at *
  split at h
  case h_1 e => rw [e]
  case h_2 => exact absurd rfl h

/-- The state that a meaning which completes leaves. -/
theorem evalM_of_run {α : Type} {s t : State} {a : α} (d : α) {m : M α} (h : m.run s = .ok a t) : (s.evalM d m).2 = t := by
  unfold State.evalM
  rw [h]

/-! ### An entry of vscl under two values of SB -/

/-- Hart 0 runs a task under the VT of a reset, whose SB is 0; the first GiB is mapped where it is. -/
def resetVt : State := State.reset.withFetchWord 32 0

/-- Entry 0 of a vscl of one entry from 0x30_0000 there, whose lane has SB = 1. -/
def laneWithSb1 : Lane :=
  { h := 0, core := 0, i := 0, c := { resetVt.ctx 0 with vt := (resetVt.ctx 0).vt + 2 ^ 13, vl := 1 },
    e := { word := 0, addr := 0, opA := 0x300000, opB := 1, capA := true, capB := true, seq := 0, done := false } }

theorem laneWithSb1_sb : laneWithSb1.c.sb = 1 ∧ (resetVt.ctx 0).sb = 0 := by decide +kernel

/-- The translation of the byte that the entry reads. -/
def entryRead : M (List Piece) := resolveOr (resetVt.vecReqOf 0) .load cVACC (word 0x300000) 0x300000 1

/-- The byte lies in one place, which no move has relocated and no error has poisoned. -/
theorem laneWithSb1_onePlace : ∃ p u, OnePlace laneWithSb1 resetVt .load 0x300000 1 p u ∧ u.poisoned p.pa 1 = false := by
  have hplace : (resetVt.evalM [] entryRead).1 = [{ pa := 0x300000, len := 1, va := 0x300000, hops := 0 }] := by decide +kernel
  have hclean : (resetVt.evalM [] entryRead).2.poisoned 0x300000 1 = false := by decide +kernel
  have hrun := run_of_evalM (s := resetVt) (d := []) (m := entryRead) (by rw [hplace]; exact List.cons_ne_nil _ _)
  rw [hplace] at hrun
  exact ⟨_, _, ⟨hrun, rfl⟩, hclean⟩

/-- The word sets entry 0 of the scale file to the byte, which is 0, and lists no entry 1. -/
theorem laneWithSb1_loads_entry0 : let t := (resetVt.evalM () (laneWithSb1.perform (.vscl true 1 2))).2
    Tbl.find (t.ctx 0).sf 0 = some 0 ∧ Tbl.find (t.ctx 0).sf 1 = none := by decide +kernel

end Sys2Proof.Machine

open Sys2Proof Sys2Proof.Machine

/-- Refutes O45: its clause on vscl (R184) speaks of every lane, those included whose context is not that of their hart, though no convoy
makes one.  For a lane with SB = 1 on a hart whose VT has SB = 0, the clause puts the loaded byte at entry 1 of the scale file, and the
model at entry 0. -/
theorem not_vectorMemoryElements : ¬ Obligations.VectorMemoryElements := by
  unfold Obligations.VectorMemoryElements vectorSpaceElements
  rintro ⟨⟨-, -, -, hvscl, -⟩, -, -⟩
  obtain ⟨p, u, hplace, hclean⟩ := laneWithSb1_onePlace
  obtain ⟨-, hloads⟩ := hvscl laneWithSb1 resetVt true 1 2
  obtain ⟨t, hrun, -, -, hsf⟩ := hloads (by decide +kernel) p u hplace hclean
  obtain ⟨-, hnone⟩ := laneWithSb1_loads_entry0
  have hentry : Tbl.find (t.ctx 0).sf 1 = some ((resetVt.loadMem 0).readN p.pa 1) := by
    rw [show (t.ctx 0).sf = _ from hsf, laneWithSb1_sb.1]
    exact Tbl.find_set_self _ _ _
  rw [evalM_of_run () hrun, hentry] at hnone
  cases hnone
end

section
/-! PROOFS. The machine right after reset (R6, R199, R265, R268, R270, R302, R307, R367, R377, R402, R413, R435): its tables list nothing, so each unit
reads as its own reset value. -/

namespace Sys2Proof.Machine

open Sys2Proof

theorem reset_core (c : Nat) : State.reset.core c = Core.reset := rfl
theorem reset_cluster (cl : Nat) : State.reset.cluster cl = Cluster.reset := rfl
theorem reset_tower (t : Nat) : State.reset.tower t = Tower.reset := rfl
theorem reset_tile (n : Nat) : State.reset.tile n = TileMark.clear := rfl
theorem reset_queue (q : Nat) : State.reset.queue q = LaunchQueue.reset := rfl
theorem reset_ethPort (p : Nat) : State.reset.ethPort p = EthPort.reset := rfl

end Sys2Proof.Machine

open Sys2Proof Sys2Proof.Machine

/-- Settles O7: every unit reads as its reset value, whose fields are the spec's. -/
theorem resetValues : Obligations.ResetValues := by
  unfold Obligations.ResetValues
  simp only [reset_core, reset_cluster, reset_tower, reset_tile, reset_queue, reset_ethPort]
  refine ⟨rfl, reset_wf, fun _ => ⟨rfl, rfl, rfl, rfl⟩, fun _ => ⟨rfl, rfl, rfl, rfl⟩, fun _ => rfl, fun _ => ⟨rfl, rfl, rfl⟩,
    fun _ => ⟨rfl, rfl⟩, fun _ => rfl, rfl, rfl, rfl, rfl, rfl⟩
end

section
/-! PROOFS. A cycle of the Gust gate (R193, R197 to R200). -/

namespace Sys2Proof.Machine

open Sys2Proof

/-! ### What noting the ready convoys leaves -/

/-- What differs where nothing of the package but harts and cores does. -/
theorem SameRest.eq {s t : State} (h : SameRest s t) : t = { s with harts := t.harts, cores := t.cores } := by
  unfold SameRest at h
  rw [← h]

/-- Nothing differs but since when convoys have been ready, and event counters. -/
def NotesReady (s t : State) : Prop :=
  SameRest s t ∧
  (∃ r a : Nat → Nat, ∀ g, t.hart g = { s.hart g with readyAt := r g, aheadAt := a g }) ∧
  ∃ (n : Nat → Nat) (e : Nat → Tbl Nat), ∀ c, t.core c = { s.core c with readyClock := n c, ctr := e c }

theorem notesReady_composes : Composes NotesReady where
  refl _ := ⟨rfl, ⟨_, _, fun _ => rfl⟩, _, _, fun _ => rfl⟩
  trans := by
    rintro s t u ⟨a1, ⟨_, _, a2⟩, _, _, a3⟩ ⟨b1, ⟨r, a, b2⟩, n, e, b3⟩
    exact ⟨a1.trans b1, ⟨r, a, fun g => by rw [b2, a2]⟩, n, e, fun c => by rw [b3, a3]⟩

theorem noteHart_notesReady (s : State) (h : Nat) (r a : Hart → Nat) :
    NotesReady s (s.updHart h (fun t => { t with readyAt := r t, aheadAt := a t })) := by
  refine ⟨rfl, ⟨fun g => if h = g then r (s.hart h) else (s.hart g).readyAt, fun g => if h = g then a (s.hart h) else (s.hart g).aheadAt,
    fun g => ?_⟩, _, _, fun _ => rfl⟩
  rw [State.updHart_eq, State.hart_setHart]
  by_cases hg : h = g
  · subst hg; simp
  · simp [hg]

theorem noteCore_notesReady (s : State) (c : Nat) {f : Core → Core} (hf : ∀ k, ∃ n e, f k = { k with readyClock := n, ctr := e }) :
    NotesReady s (s.updCore c f) := by
  obtain ⟨n, e, hfc⟩ := hf (s.core c)
  refine ⟨rfl, ⟨_, _, fun _ => rfl⟩, fun d => if c = d then n else (s.core d).readyClock, fun d => if c = d then e else (s.core d).ctr,
    fun d => ?_⟩
  rw [State.core_updCore]
  by_cases hd : c = d
  · subst hd; simp [hfc]
  · simp [hd]

theorem count_notesReady (s : State) (c n k : Nat) : NotesReady s (s.count c n k) :=
  noteCore_notesReady s c fun _ => ⟨_, _, rfl⟩

theorem markReady_notesReady (s : State) (c : Nat) (ready ahead : Nat → Bool) : NotesReady s (s.markReady c ready ahead) := by
  unfold State.markReady
  exact notesReady_composes.trans (noteCore_notesReady s c fun _ => ⟨_, _, rfl⟩)
    (foldl_composes notesReady_composes (fun u k => noteHart_notesReady u (4 * c + k) _ _) _ _)

section
variable {s t : State} (hn : NotesReady s t)
include hn

theorem NotesReady.ctx (g : Nat) : t.ctx g = s.ctx g := by
  obtain ⟨-, ⟨_, _, hh⟩, -⟩ := hn
  rw [State.ctx, hh]; rfl

theorem NotesReady.x (g : Nat) (r : BitVec 7) : t.x g r = s.x g r := by simp only [State.x, hn.ctx]

theorem NotesReady.mem : t.mem = s.mem := by
  rw [hn.1.eq]

theorem NotesReady.gustLevel (c : Nat) : (t.core c).gustLevel = (s.core c).gustLevel := by
  obtain ⟨-, -, _, _, hc⟩ := hn
  rw [hc]

theorem NotesReady.gustCfg (c : Nat) : (t.core c).gustCfg = (s.core c).gustCfg := by
  obtain ⟨-, -, _, _, hc⟩ := hn
  rw [hc]

theorem NotesReady.released (g : Nat) : (t.hart g).released = (s.hart g).released := by
  obtain ⟨-, ⟨_, _, hh⟩, -⟩ := hn
  rw [hh]

theorem NotesReady.queue (g : Nat) : (t.hart g).queue = (s.hart g).queue := by
  obtain ⟨-, ⟨_, _, hh⟩, -⟩ := hn
  rw [hh]

/-- A convoy is as ready as it was (R193). -/
theorem NotesReady.gateReady (h : Nat) : t.gateReady h = s.gateReady h := by
  obtain ⟨-, ⟨_, _, hh⟩, -⟩ := hn
  simp only [State.gateReady, State.groupsAfter, hh]

/-- Its members reach the same addresses (R187). -/
theorem NotesReady.ranges (L : Lane) (i : Instr) : L.ranges t i = L.ranges s i := by
  obtain ⟨-, -, _, _, hc⟩ := hn
  have hval : L.valOf t = L.valOf s := by
    funext r j
    simp only [Lane.valOf, State.elemAt, State.vreg, hc]
  have haddress : L.address t = L.address s := by
    funext f j
    simp only [Lane.address, hval]
  have hdrain : L.drainAddr t = L.drainAddr s := by
    funext ng f j
    simp only [Lane.drainAddr, hval]
  have hanvil : t.anvil L.core = s.anvil L.core := by simp only [State.anvil, hc]
  unfold Lane.ranges
  rw [haddress, hdrain, hanvil]

theorem NotesReady.hartTask (h : Nat) : t.hartTask h = s.hartTask h := by
  obtain ⟨hrest, ⟨_, _, hh⟩, -⟩ := hn
  have htask : t.taskOf = s.taskOf := by rw [hrest.eq]; rfl
  simp only [State.hartTask, hh, htask]

/-- A copy word describes the same copy (R241). -/
theorem NotesReady.copyJob (L : Lane) (g : Option Nat) : L.copyJob t g = L.copyJob s g := by
  have ht := hn.hartTask
  obtain ⟨hrest, ⟨_, _, hh⟩, -⟩ := hn
  have hident : t.nextIdent = s.nextIdent := by rw [hrest.eq]
  simp only [Lane.copyJob, State.hartLno, ht, hh, hident]

theorem NotesReady.copyBad (L : Lane) (g : Option Nat) : L.copyBad t g = L.copyBad s g := by
  have hj := hn.copyJob L g
  have ht := hn.hartTask
  have hcluster : t.cluster = s.cluster := by rw [hn.1.eq]; rfl
  simp only [Lane.copyBad, hj, State.homeCluster, ht, State.holdsCounter, hcluster]

theorem NotesReady.tableUsed (c : Nat) : t.tableUsed c = s.tableUsed c := by
  obtain ⟨-, ⟨_, _, hh⟩, _, _, hc⟩ := hn
  simp only [State.tableUsed, hh, hc]

theorem NotesReady.copyHeld (h : Nat) : t.copyHeld h = s.copyHeld h := by
  have hu := hn.tableUsed
  obtain ⟨-, -, _, _, hc⟩ := hn
  simp only [State.copyHeld, hu, hc]

theorem NotesReady.interlocked (h : Nat) (ivs : List Interval) : t.interlocked h ivs = s.interlocked h ivs := by
  obtain ⟨-, -, _, _, hc⟩ := hn
  simp only [State.interlocked, hc]

/-- Its members wait for the interlock table where they did (R187, R244). -/
theorem NotesReady.memberHeld (h : Nat) (e : QEntry) : t.memberHeld h e = s.memberHeld h e := by
  simp only [State.memberHeld, hn.ctx, hn.copyHeld, hn.copyBad, hn.copyJob, hn.interlocked, hn.ranges, hn.tableUsed]

theorem NotesReady.convoyHeld (h : Nat) : t.convoyHeld h = s.convoyHeld h := by
  have hm := hn.memberHeld h
  obtain ⟨-, ⟨_, _, hh⟩, -⟩ := hn
  simp only [State.convoyHeld, hh, funext hm]

end

/-! ### The scan (R198) -/

/-- No comparator matches on a hart without a debugger, or whose queue is empty (R213, R214). -/
theorem comparator_none {s : State} {h kind : Nat} {addr : Word} {idx : Option Nat} (hd : (s.hart h).dbg = false) :
    s.comparator h kind addr idx = none := by simp [State.comparator, hd]

/-- A hart with an empty queue has nothing at the gate. -/
theorem gateReady_empty {s : State} {h : Nat} (hq : (s.hart h).queue = []) : s.gateReady h = false := by
  simp [State.gateReady, hq, firstConvoy]

/-- A run-ahead word is one of the queue. -/
theorem aheadReady_none {s : State} {h : Nat} (hq : ∀ e ∈ (s.hart h).queue, e.ahead = false) : s.aheadReady h = false := by
  have hfind : (s.hart h).queue.find? QEntry.ahead = none := List.find?_eq_none.mpr fun e he => by simp [hq e he]
  simp [State.aheadReady, State.aheadWord, hfind]

/-- The bucket of core c after a charge has poured in (R198). -/
def State.poured (s : State) (c charge : Nat) : State :=
  s.updCore c (fun k => { k with gustLevel := min (2 ^ 24 - 1) (k.gustLevel + charge) })

/-- One ready convoy that fits under the limit, or finds the bucket empty, is released and pours its charge in. -/
theorem gateScan_release {s : State} {c h prio since : Nat} (hready : s.gateReady h = true) (hheld : s.convoyHeld h = false)
    (hfit : (s.core c).gustLevel + convoyCharge (s.ctx h) (firstConvoy (s.hart h).queue) ≤ gustLimit (s.core c).gustCfg prio ∨
      (s.core c).gustLevel = 0) :
    s.gateScan c [⟨h, false, prio, since⟩] = (s.poured c (convoyCharge (s.ctx h) (firstConvoy (s.hart h).queue))).releaseConvoy h := by
  simp [State.gateScan, State.poured, hready, hheld, hfit]

/-- A change of a hart that keeps its register file leaves every scalar register. -/
theorem updHart_x {f : Hart → Hart} (hf : ∀ t, (f t).ctx.x = t.ctx.x) (s : State) (h g : Nat) (r : BitVec 7) : (s.updHart h f).x g r = s.x g r := by
  have hx : ((s.updHart h f).ctx g).x = (s.ctx g).x := by
    rw [State.updHart_eq, State.ctx_setHart]
    split
    · subst_vars; exact hf _
    · rfl
  simp only [State.x, hx]

/-- The release of a convoy that has elements to act on (R193, R196): its hart has begun it, and no level changes. -/
theorem releaseConvoy_begins {s : State} {h : Nat} (hspan : (s.ctx h).vs < convoySpan (s.ctx h) (firstConvoy (s.hart h).queue)) :
    (s.releaseConvoy h).hart h = { s.hart h with released := true, startVs := (s.ctx h).vs, groups := s.groupsAfter h } ∧
    (∀ c, ((s.releaseConvoy h).core c).gustLevel = (s.core c).gustLevel) ∧ (∀ g r, (s.releaseConvoy h).x g r = s.x g r) ∧
    (s.releaseConvoy h).mem = s.mem := by
  obtain ⟨drains, hrelease⟩ : ∃ drains, s.releaseConvoy h =
      ((s.updHart h (fun t => { t with released := true, startVs := t.ctx.vs, groups := s.groupsAfter h })).count (coreOf h) 2 1).updCore
        (coreOf h) (fun k => { k with interlock := k.interlock ++ drains }) := by
    have hbegun : ¬ convoySpan (s.ctx h) (firstConvoy (s.hart h).queue) ≤ (s.ctx h).vs := Nat.not_le.mpr hspan
    simp only [State.ctx] at hbegun
    simp only [State.releaseConvoy, State.updCore_at_hart, count_hart, State.updHart_eq, State.hart_setHart, if_true, hbegun, if_false]
    exact ⟨_, rfl⟩
  refine ⟨?_, fun c => ?_, fun g r => ?_, ?_⟩ <;> rw [hrelease]
  · simp [State.updHart_eq, State.ctx]
  · simp only [State.count_eq, State.core_updCore, State.updHart_eq, State.setHart_at_core]
    split
    · subst_vars; rfl
    · rfl
  · simp only [State.updCore_at_x, count_x]
    exact updHart_x (f := fun t => { t with released := true, startVs := t.ctx.vs, groups := s.groupsAfter h }) (fun _ => rfl) s h g r
  · rfl

/-! ### A cycle (R198, R214) -/

/-- The bucket of core c after its drain of a cycle (R198). -/
def State.leaked (s : State) (c : Nat) : State := s.updCore c (fun k => { k with gustLevel := k.gustLevel - gustLeak k.gustCfg })

/-- The comparator that matches at CP as the gate sees it (R214). -/
def State.stopAtCp (s : State) (h : Nat) : Option Nat :=
  if (s.hart h).queue.isEmpty || (s.hart h).released || (s.hart h).held.isSome then none else s.comparator h 1 (s.cp h) none

/-- The convoy of hart h stands in the scan. -/
def State.convoyStands (s : State) (h : Nat) : Bool := s.gateReady h && !s.convoyHeld h && (s.stopAtCp h).isNone

/-- Its run-ahead word does. -/
def State.aheadStands (s : State) (h : Nat) : Bool :=
  s.aheadReady h && !((s.stopAtCp h).isSome && (s.hart h).queue.head?.any QEntry.ahead)

/-- The harts of core c. -/
def hartsOf (c : Nat) : List Nat := (List.range 4).map (fun k => 4 * c + k)

/-- The state that the scan of core c begins in: it is noted since when each candidate stands. -/
def State.noted (s : State) (c : Nat) : State :=
  let t := s.markReady c s.convoyStands s.aheadStands
  if (hartsOf c).any (fun h => s.gateReady h && s.convoyHeld h) then t.count c 12 1 else t

/-- The candidates of core c's scan in its order. -/
def State.gateCands (s : State) (c : Nat) : List GateCand :=
  (((hartsOf c).filter s.convoyStands).map (fun h => GateCand.mk h false (s.ctx h).prio ((s.noted c).hart h).readyAt) ++
    ((hartsOf c).filter s.aheadStands).map (fun h => GateCand.mk h true (s.ctx h).prio ((s.noted c).hart h).aheadAt)).foldl
      (fun l x => insertCand x l) []

/-- A cycle: drain, note, scan, and then the stops of comparators that match. -/
theorem exec_gustCycle (c : Nat) (s : State) : exec (.gustCycle c) s =
    .next ((hartsOf c).foldl
      (fun u h => match (s.leaked c).stopAtCp h with | some n => if u.stoppable h then u.contrailStop h n else u | none => u)
      (((s.leaked c).noted c).gateScan c ((s.leaked c).gateCands c))) := rfl

theorem noted_notesReady (s : State) (c : Nat) : NotesReady s (s.noted c) := by
  unfold State.noted
  split
  · exact notesReady_composes.trans (markReady_notesReady _ _ _ _) (count_notesReady _ _ _ _)
  · exact markReady_notesReady _ _ _ _

/-- Where no comparator matches, a cycle ends with its scan. -/
theorem exec_gustCycle_unstopped {c : Nat} {s : State} (hstop : ∀ h ∈ hartsOf c, (s.leaked c).stopAtCp h = none) :
    exec (.gustCycle c) s = .next (((s.leaked c).noted c).gateScan c ((s.leaked c).gateCands c)) := by
  have hfold : ∀ (l : List Nat) (u : State), (∀ h ∈ l, (s.leaked c).stopAtCp h = none) → l.foldl
      (fun u h => match (s.leaked c).stopAtCp h with | some n => if u.stoppable h then u.contrailStop h n else u | none => u) u = u := by
    intro l
    induction l with
    | nil => exact fun _ _ => rfl
    | cons h l ih =>
      intro u hl
      rw [List.foldl_cons, hl h List.mem_cons_self]
      exact ih u fun g hg => hl g (List.mem_cons_of_mem h hg)
  rw [exec_gustCycle, hfold _ _ hstop]

theorem mem_hartsOf {c h : Nat} : h ∈ hartsOf c ↔ ∃ k < 4, 4 * c + k = h := by simp [hartsOf]

/-- The one hart of a core that has a property. -/
theorem filter_hartsOf_single {c k : Nat} (hk : k < 4) {p : Nat → Bool} (hp : p (4 * c + k) = true)
    (hother : ∀ j < 4, j ≠ k → p (4 * c + j) = false) : (hartsOf c).filter p = [4 * c + k] := by
  have hone : (List.range 4).filter (p ∘ fun j => 4 * c + j) = (List.range 4).filter (fun j => j == k) := by
    refine List.filter_congr fun j hj => ?_
    by_cases hjk : j = k
    · subst hjk; simp [hp]
    · simp [hjk, hother j (List.mem_range.mp hj) hjk]
  rw [hartsOf, List.filter_map, hone]
  interval_cases k <;> rfl

/-- A queue that is empty, or a hart without a debugger, has no stop at CP. -/
theorem stopAtCp_none {s : State} {h : Nat} (hq : (s.hart h).queue = [] ∨ (s.hart h).dbg = false) : s.stopAtCp h = none := by
  unfold State.stopAtCp
  rcases hq with hq | hd
  · simp [hq]
  · rw [comparator_none hd, ite_self]

/-- A cycle at which no convoy waits drains the bucket and releases nothing. -/
theorem gustCycle_idle {s : State} {c : Nat} (hq : ∀ h ∈ hartsOf c, (s.hart h).queue = []) :
    ∃ t, exec (.gustCycle c) s = .next t ∧ NotesReady (s.leaked c) t := by
  have hconvoys : (hartsOf c).filter (s.leaked c).convoyStands = [] :=
    List.filter_eq_nil_iff.mpr fun h hh => by simp [State.convoyStands, gateReady_empty (s := s.leaked c) (hq h hh)]
  have hwords : (hartsOf c).filter (s.leaked c).aheadStands = [] := List.filter_eq_nil_iff.mpr fun h hh => by
    have hnone : (s.leaked c).aheadReady h = false := aheadReady_none fun e he => by
      rw [show ((s.leaked c).hart h).queue = [] from hq h hh] at he
      cases he
    simp [State.aheadStands, hnone]
  have hcands : (s.leaked c).gateCands c = [] := by simp [State.gateCands, hconvoys, hwords]
  refine ⟨(s.leaked c).noted c, ?_, noted_notesReady _ _⟩
  rw [exec_gustCycle_unstopped fun h hh => stopAtCp_none (.inl (hq h hh)), hcands]
  rfl

/-- A cycle at which one convoy is ready, fits, and has elements to act on releases it. -/
theorem gustCycle_single {s : State} {c k : Nat} (hk : k < 4) (hother : ∀ j < 4, j ≠ k → (s.hart (4 * c + j)).queue = [])
    (hdbg : (s.hart (4 * c + k)).dbg = false) (hahead : ∀ e ∈ (s.hart (4 * c + k)).queue, e.ahead = false)
    (hready : s.gateReady (4 * c + k) = true) (hheld : (s.leaked c).convoyHeld (4 * c + k) = false)
    (hfit : ((s.leaked c).core c).gustLevel + convoyCharge (s.ctx (4 * c + k)) (firstConvoy (s.hart (4 * c + k)).queue) ≤
        gustLimit (s.core c).gustCfg (s.ctx (4 * c + k)).prio ∨ ((s.leaked c).core c).gustLevel = 0) :
    ∃ u, NotesReady (s.leaked c) u ∧ exec (.gustCycle c) s =
      .next ((u.poured c (convoyCharge (s.ctx (4 * c + k)) (firstConvoy (s.hart (4 * c + k)).queue))).releaseConvoy (4 * c + k)) := by
  have hn := noted_notesReady (s.leaked c) c
  have hstop : ∀ j < 4, (s.leaked c).stopAtCp (4 * c + j) = none := fun j hj => stopAtCp_none <| by
    by_cases hjk : j = k
    · exact .inr (hjk ▸ hdbg)
    · exact .inl (hother j hj hjk)
  have hconvoys : (hartsOf c).filter (s.leaked c).convoyStands = [4 * c + k] := by
    refine filter_hartsOf_single hk ?_ fun j hj hjk => ?_
    · have hready' : (s.leaked c).gateReady (4 * c + k) = true := hready
      simp [State.convoyStands, hready', hheld, hstop k hk]
    · simp [State.convoyStands, gateReady_empty (s := s.leaked c) (hother j hj hjk)]
  have hwords : (hartsOf c).filter (s.leaked c).aheadStands = [] := List.filter_eq_nil_iff.mpr fun h hh => by
    obtain ⟨j, hj, rfl⟩ := mem_hartsOf.mp hh
    have hnone : (s.leaked c).aheadReady (4 * c + j) = false := aheadReady_none fun e he => by
      by_cases hjk : j = k
      · subst hjk; exact hahead e he
      · rw [show ((s.leaked c).hart (4 * c + j)).queue = [] from hother j hj hjk] at he
        cases he
    simp [State.aheadStands, hnone]
  have hcands : (s.leaked c).gateCands c =
      [⟨4 * c + k, false, (s.ctx (4 * c + k)).prio, (((s.leaked c).noted c).hart (4 * c + k)).readyAt⟩] := by
    simp only [State.gateCands, hconvoys, hwords]
    rfl
  have hctx : ((s.leaked c).noted c).ctx (4 * c + k) = s.ctx (4 * c + k) := hn.ctx _
  have hqueue : (((s.leaked c).noted c).hart (4 * c + k)).queue = (s.hart (4 * c + k)).queue := hn.queue _
  have hcfg : ((s.leaked c).core c).gustCfg = (s.core c).gustCfg := by simp [State.leaked]
  have hscan := gateScan_release (s := (s.leaked c).noted c) (c := c) (since := (((s.leaked c).noted c).hart (4 * c + k)).readyAt)
    ((hn.gateReady (4 * c + k)).trans hready) ((hn.convoyHeld (4 * c + k)).trans hheld)
    (by rw [hn.gustLevel, hn.gustCfg, hctx, hqueue, hcfg]; exact hfit)
  rw [hctx, hqueue] at hscan
  refine ⟨_, hn, ?_⟩
  rw [exec_gustCycle_unstopped fun h hh => by obtain ⟨j, hj, rfl⟩ := mem_hartsOf.mp hh; exact hstop j hj, hcands, hscan]

end Sys2Proof.Machine

open Sys2Proof Sys2Proof.Machine

/-- Settles O37: with every queue empty the scan has no candidate; a single ready convoy is its only one, and what is noted of it leaves it
ready. -/
theorem gustCycles : Obligations.GustCycles := by
  unfold Obligations.GustCycles
  refine ⟨fun s c hq => ?_, fun s c k hk hother hdbg hahead => ?_⟩
  · obtain ⟨t, hexec, hn⟩ := gustCycle_idle (s := s) (c := c) fun h hh => by obtain ⟨k, hk, rfl⟩ := mem_hartsOf.mp hh; exact hq k hk
    refine ⟨t, hexec, ?_, fun k _ => hn.released _, hn.x, hn.mem⟩
    rw [hn.gustLevel]
    simp [State.leaked, gustLeak, bits]
  · intro h level ms charge hready hheld hspan hfit
    have hlevel : ((s.leaked c).core c).gustLevel = level := by simp [State.leaked, level]
    obtain ⟨u, hn, hexec⟩ := gustCycle_single hk hother hdbg hahead hready hheld (by rw [hlevel]; exact hfit)
    have hctx : u.ctx h = s.ctx h := hn.ctx h
    obtain ⟨hhart, hlevels, hx, hmem⟩ := releaseConvoy_begins (s := u.poured c charge) (h := h)
      (by rw [State.poured, State.updCore_at_ctx, State.updCore_at_hart, hctx, hn.queue]; exact hspan)
    refine ⟨_, hexec, ?_, ?_, ?_, fun g r => (hx g r).trans (hn.x g r), hmem.trans hn.mem⟩
    · rw [hhart]
    · rw [hhart]
      exact congrArg Ctx.vs hctx
    · rw [hlevels, State.poured, State.core_updCore, if_pos rfl, hn.gustLevel, hlevel]
end

section
/-! PROOFS. What no element of a convoy changes: the messages that stand at the ports of cores (R249). -/

namespace Sys2Proof.Machine

open Sys2Proof

/-! ### Steps that leave every port as it stands -/

/-- Every core's port holds the messages that it held. -/
def KeepsInboxes (s t : State) : Prop := ∀ c, (t.core c).inbox = (s.core c).inbox

theorem keepsInboxes_composes : Composes KeepsInboxes where
  refl _ _ := rfl
  trans a b c := (b c).trans (a c)

theorem keepsInboxes_of_cores {s t : State} (h : t.cores = s.cores) : KeepsInboxes s t := fun c => by
  rw [State.core, h]
  rfl

theorem updCore_keepsInboxes (s : State) (c : Nat) {f : Core → Core} (hf : ∀ k, (f k).inbox = k.inbox := by intro; rfl) :
    KeepsInboxes s (s.updCore c f) := by
  intro d
  rw [State.core_updCore]
  split
  · subst_vars; exact hf _
  · rfl

theorem SideOnly.keepsInboxes {s t : State} (h : SideOnly s t) : KeepsInboxes s t := fun c => by
  have hcore := congrArg Core.inbox (h.2 c)
  exact hcore

theorem Lane.Reaches.keepsInboxes {L : Lane} {s t : State} (h : L.Reaches s t) : KeepsInboxes s t := by
  obtain ⟨-, -, -, hcores, -⟩ := h
  intro c
  have hcore := congrArg Core.inbox (hcores c)
  exact hcore

theorem count_keepsInboxes (s : State) (c n k : Nat) : KeepsInboxes s (s.count c n k) := (count_sideOnly s c n k).keepsInboxes

/-! ### Meanings that do -/

/-- However the meaning ends, every port stands. -/
def Quiet {α : Type} (m : M α) : Prop := Keeps KeepsInboxes m

section
variable {α β : Type}

theorem quiet_pure (a : α) : Quiet (pure a : M α) := keeps_pure keepsInboxes_composes a

theorem quiet_throw (e : Stop) : Quiet (throw e : M α) := keeps_throw keepsInboxes_composes e

theorem quiet_trap (cause : Nat) (val : Word) : Quiet (trapM cause val : M α) := quiet_throw _

theorem quiet_wait (w : WaitFor) : Quiet (waitM w : M α) := quiet_throw _

theorem quiet_bind {m : M α} {f : α → M β} (hm : Quiet m) (hf : ∀ a, Quiet (f a)) : Quiet (m >>= f) :=
  keeps_bind keepsInboxes_composes hm hf

theorem quiet_get {f : State → M β} (h : ∀ s, Quiet (f s)) : Quiet (get >>= f) := quiet_bind (keeps_get keepsInboxes_composes) h

theorem quiet_modify {f : State → State} (h : ∀ s, KeepsInboxes s (f s)) : Quiet (modify f) := keeps_modify h

theorem quiet_cores {f : State → State} (h : ∀ s, (f s).cores = s.cores) : Quiet (modify f) :=
  quiet_modify fun s => keepsInboxes_of_cores (h s)

theorem quiet_ite {c : Prop} [Decidable c] {m m' : M α} (h : Quiet m) (h' : Quiet m') : Quiet (if c then m else m') := by
  split
  · exact h
  · exact h'

/-- A word that acts where a condition holds. -/
theorem quiet_when {c : Prop} [Decidable c] {m : M Unit} (h : Quiet m) : Quiet (if c then m else pure ()) := quiet_ite h (quiet_pure ())

/-- A meaning that a check may stop first. -/
theorem quiet_guard {c : Prop} [Decidable c] {m : M Unit} {f : Unit → M β} (hm : Quiet m) (hf : ∀ u, Quiet (f u)) :
    Quiet (if c then m >>= f else f ()) := quiet_ite (quiet_bind hm hf) (hf ())

theorem Lane.Completes.quiet {L : Lane} {m : M Unit} (h : L.Completes m) : Quiet m := by
  intro s
  obtain ⟨t, hrun, ht⟩ := h s
  unfold KeepsAt
  rw [hrun]
  exact ht.keepsInboxes

theorem quiet_mapM {f : α → M β} (hf : ∀ a, Quiet (f a)) (l : List α) : Quiet (l.mapM f) := by
  induction l with
  | nil => rw [List.mapM_nil]; exact quiet_pure _
  | cons a l ih => rw [List.mapM_cons]; exact quiet_bind (hf a) fun _ => quiet_bind ih fun _ => quiet_pure _

theorem quiet_forM {f : α → M Unit} (hf : ∀ a, Quiet (f a)) (l : List α) : Quiet (l.forM f) := by
  induction l with
  | nil => exact quiet_pure _
  | cons a l ih => exact quiet_bind (hf a) fun _ => ih

end

/-! ### Memory -/

theorem quiet_resolve {r : Req} (hr : r.keep = none) (a : Acc) (va len : Nat) : Quiet (resolve r a va len) :=
  (resolve_keeps hr a va len).mono SideOnly.keepsInboxes

theorem quiet_resolveOr {r : Req} (hr : r.keep = none) (a : Acc) (cause : Nat) (orig : Word) (va len : Nat) :
    Quiet (resolveOr r a cause orig va len) := (resolveOr_keeps hr a cause orig va len).mono SideOnly.keepsInboxes

theorem quiet_stopAccess {α : Type} (r : Req) (a : Acc) (cause : Nat) (orig : Word) (f : AccFault) :
    Quiet (stopAccess r a cause orig f : M α) := by
  unfold stopAccess
  split
  · exact quiet_trap _ _
  · exact quiet_throw _
  · exact quiet_trap _ _
  · exact quiet_throw _

theorem quiet_readHome {r : Req} (hr : r.keep = none) (cause : Nat) (orig : Word) (va len : Nat) : Quiet (readHome r cause orig va len) := by
  unfold readHome
  refine quiet_bind (quiet_resolveOr hr _ _ _ _ _) fun ps => quiet_get fun s => ?_
  split
  · exact quiet_bind (quiet_stopAccess _ _ _ _ _) fun _ => quiet_pure _
  · exact quiet_pure _

theorem countHops_sideOnly (s : State) (c : Nat) (ps : List Piece) : SideOnly s (s.countHops c ps) := by
  unfold State.countHops
  split
  · exact count_sideOnly s c 14 1
  · exact sideOnly_composes.refl s

theorem countHops_keepsInboxes (s : State) (c : Nat) (ps : List Piece) : KeepsInboxes s (s.countHops c ps) :=
  (countHops_sideOnly s c ps).keepsInboxes

/-- What the lines of an L1 lose changes nothing else. -/
theorem dropL1_mmu (s : State) (c pa len : Nat) : ∃ m, s.dropL1 c pa len = { s with mmu := m } := by
  unfold State.dropL1
  split
  · exact ⟨s.mmu, rfl⟩
  · exact ⟨_, rfl⟩

theorem markBehind_mmu (s : State) (p : Piece) : ∃ m, s.markBehind p = { s with mmu := m } := by
  unfold State.markBehind
  split
  · exact ⟨s.mmu, rfl⟩
  · exact ⟨_, rfl⟩

theorem dropL1_cores (s : State) (c pa len : Nat) : (s.dropL1 c pa len).cores = s.cores := by
  obtain ⟨m, hdrop⟩ := dropL1_mmu s c pa len
  rw [hdrop]

theorem markBehind_cores (s : State) (p : Piece) : (s.markBehind p).cores = s.cores := by
  obtain ⟨m, hmark⟩ := markBehind_mmu s p
  rw [hmark]

theorem dropBehind_cores (s : State) (c : Nat) : (s.dropBehind c).cores = s.cores := by
  unfold State.dropBehind; split <;> rfl

theorem clearL1_cores (s : State) (c : Nat) : (s.clearL1 c).cores = s.cores := by
  unfold State.clearL1; split <;> rfl

theorem foldl_cores {α : Type} {f : State → α → State} (hf : ∀ s a, (f s a).cores = s.cores) (l : List α) (s : State) :
    (l.foldl f s).cores = s.cores := by
  induction l generalizing s with
  | nil => rfl
  | cons a l ih => exact (ih _).trans (hf s a)

theorem putPieces_keepsInboxes (L : Lane) (ps : List Piece) (v : Nat) (s : State) : KeepsInboxes s (L.putPieces ps v s) := by
  have hwrite : ((s.countHops L.core ps).writePieces (some L.h) ps v).cores = (s.countHops L.core ps).cores :=
    (writePieces_writesHome _ _ _ _).cores
  refine keepsInboxes_composes.trans (countHops_keepsInboxes s L.core ps) (keepsInboxes_of_cores ?_)
  rw [Lane.putPieces, foldl_cores fun u p => dropL1_cores u _ _ _, State.echo, updSnap_cores, hwrite]

theorem quiet_readVa (L : Lane) (ea len : Nat) : Quiet (L.readVa ea len) := by
  unfold Lane.readVa
  refine quiet_get fun s => quiet_bind (quiet_readHome rfl _ _ _ _) fun r => quiet_bind (quiet_modify fun u => ?_) fun _ => quiet_get fun _ => quiet_pure _
  exact keepsInboxes_composes.trans (countHops_keepsInboxes u _ _) (keepsInboxes_of_cores rfl)

theorem quiet_writeVa (L : Lane) (ea len v : Nat) : Quiet (L.writeVa ea len v) := by
  unfold Lane.writeVa
  refine quiet_get fun s => quiet_bind (quiet_resolveOr rfl _ _ _ _ _) fun ps => quiet_bind (quiet_modify fun u => ?_) fun _ => quiet_pure _
  split
  · exact keepsInboxes_composes.trans (putPieces_keepsInboxes L ps v u) (keepsInboxes_of_cores (foldl_cores markBehind_cores _ _))
  · exact putPieces_keepsInboxes L ps v u

theorem quiet_rewriteOpa (L : Lane) (a : BitVec 7) (n : Nat) (m : Bool) (addr : Nat → List (Nat × Nat)) (ea : Nat) (ps : List Piece) :
    Quiet (L.rewriteOpa a n m addr ea ps) := by
  unfold Lane.rewriteOpa
  split
  · refine quiet_get fun s => quiet_when (quiet_cores fun u => ?_)
    dsimp only
    unfold State.setX
    split
    · split <;> rfl
    · rfl
  · exact quiet_pure _

/-- An acquire drops lines and what core-scope acquires were still to drop (R125, R286). -/
theorem acquire_keepsInboxes (s : State) (h scope : Nat) : KeepsInboxes s (s.acquire h scope) := by
  have hlines : ∀ u : State, u = (if scope = 0 then
      ((s.core (coreOf h)).relLines.foldl (fun s n => s.dropL1 (coreOf h) (64 * n) 64) s).dropBehind (coreOf h) else s.clearL1 (coreOf h)) →
      KeepsInboxes s u := by
    rintro u rfl
    refine keepsInboxes_of_cores ?_
    split
    · rw [dropBehind_cores, foldl_cores fun u n => dropL1_cores u _ _ _]
    · exact clearL1_cores s _
  unfold State.acquire
  dsimp only
  split
  · exact hlines _ rfl
  · exact keepsInboxes_composes.trans (hlines _ rfl) (updCore_keepsInboxes _ _)

/-! ### Words of majors 0x30 to 0x35 -/

section
variable (L : Lane)

theorem quiet_write (d : BitVec 7) (j v : Nat) (t : Nat → Nat) : Quiet (L.write d j v t) := (completes_write d j v t).quiet

theorem quiet_raise (v t : Ev) : Quiet (L.raise v t) := (completes_raise v t).quiet

theorem quiet_load (d : BitVec 7) (r : Nat) : Quiet (L.load d r) := quiet_write L _ _ _ _

theorem quiet_loadVa (f : Form) (d a : BitVec 7) (m : Bool) : Quiet (L.loadVa f d a m) :=
  quiet_when (quiet_get fun _ => quiet_bind (quiet_readVa L _ _) fun _ =>
    quiet_bind (quiet_load L _ _) fun _ => quiet_when (quiet_rewriteOpa L _ _ _ _ _ _))

theorem quiet_storeVa (f : Form) (d a : BitVec 7) (m : Bool) : Quiet (L.storeVa f d a m) :=
  quiet_when (quiet_get fun _ => quiet_bind (quiet_writeVa L _ _ _) fun _ => quiet_when (quiet_rewriteOpa L _ _ _ _ _ _))

theorem quiet_drawN (n : Nat) : Quiet (drawN n) := fun _ _ => rfl

theorem quiet_storeUnordered (d b : BitVec 7) (m : Bool) : Quiet (L.storeUnordered d b m) :=
  quiet_when (quiet_get fun _ => quiet_bind (quiet_resolveOr rfl _ _ _ _ _) fun ps => quiet_bind (quiet_drawN _) fun _ => quiet_get fun _ =>
    quiet_modify fun u => keepsInboxes_composes.trans (putPieces_keepsInboxes L ps _ u) (keepsInboxes_of_cores rfl))

theorem quiet_touchGuard (p : Place) (len : Nat) : Quiet (L.touchGuard p len) := by
  refine quiet_modify fun s => ?_
  dsimp only
  split <;> exact keepsInboxes_composes.trans (count_keepsInboxes s _ _ _) (keepsInboxes_of_cores rfl)

theorem quiet_needFull (p : Place) (len : Nat) : Quiet (needFull p len) := by
  unfold needFull
  refine quiet_get fun s => ?_
  dsimp only
  split
  · exact quiet_wait _
  · exact quiet_pure _

theorem updBuf_keepsInboxes (s : State) (core lno : Nat) (k : BufKind) (f : Buf → Buf) : KeepsInboxes s (s.updBuf core lno k f) :=
  updCore_keepsInboxes _ _

theorem putBuf_keepsInboxes (s : State) (h core lno : Nat) (k : BufKind) (f : Buf → Buf) : KeepsInboxes s (s.putBuf h core lno k f) :=
  keepsInboxes_composes.trans (updBuf_keepsInboxes s core lno k f) (keepsInboxes_of_cores (updSnap_cores _ _ _))

theorem quiet_loadBuf (k : BufKind) (d : BitVec 7) (r : Bool) (xp fe : Nat) (m : Bool) : Quiet (L.loadBuf k d r xp fe m) := by
  unfold Lane.loadBuf
  refine quiet_get fun s => quiet_when ?_
  dsimp only
  split
  · exact quiet_trap _ _
  · exact quiet_guard (quiet_needFull _ _) fun _ =>
      quiet_ite (quiet_bind (quiet_touchGuard L _ _) fun _ => quiet_load L _ _) (quiet_load L _ _)

theorem quiet_storeBuf (k : BufKind) (d : BitVec 7) (r m : Bool) : Quiet (L.storeBuf k d r m) := by
  unfold Lane.storeBuf
  refine quiet_get fun s => quiet_when ?_
  dsimp only
  split
  · exact quiet_trap _ _
  · exact quiet_touchGuard L _ _
  · exact quiet_modify fun u => putBuf_keepsInboxes u _ _ _ _ _

theorem quiet_atomic (op : VAtomic) (d b : BitVec 7) (m : Bool) : Quiet (L.atomic op d b m) := by
  have hlast : Quiet (if decide (L.i + 1 = L.c.vl) && bit L.e.opA.toNat 62 then
      modify (fun s => s.acquire L.h (bits L.e.opA.toNat 61 59)) else pure () : M Unit) :=
    quiet_when (quiet_modify fun u => acquire_keepsInboxes u _ _)
  have hstored : ∀ old ev, Quiet (do L.write d L.i old noTan; L.raise ev 0; if decide (L.i + 1 = L.c.vl) && bit L.e.opA.toNat 62 then
      modify (fun s => s.acquire L.h (bits L.e.opA.toNat 61 59)) else pure () : M Unit) := fun old ev =>
    quiet_bind (quiet_write L _ _ _ _) fun _ => quiet_bind (quiet_raise L _ _) fun _ => hlast
  unfold Lane.atomic
  refine quiet_ite (quiet_get fun s => quiet_guard (quiet_trap _ _) fun _ => quiet_ite (quiet_guard (quiet_trap _ _) fun _ => ?_) ?_) hlast
  · exact quiet_ite (quiet_bind (quiet_touchGuard L _ _) fun _ => quiet_bind (quiet_write L _ _ _ _) fun _ => hlast)
      (quiet_bind (quiet_modify fun u => putBuf_keepsInboxes u _ _ _ _ _) fun _ => hstored _ _)
  · exact quiet_bind (quiet_resolveOr rfl _ _ _ _ _) fun ps => quiet_get fun _ => quiet_guard (quiet_throw _) fun _ =>
      quiet_bind (quiet_modify fun u => putPieces_keepsInboxes L _ _ u) fun _ => hstored _ _

theorem quiet_setHandle (a : BitVec 5) (n : Nat) : Quiet (L.setHandle a n) := quiet_cores fun _ => rfl

theorem quiet_streamLoad (d : BitVec 7) (a : BitVec 5) (m bind : Bool) : Quiet (L.streamLoad d a m bind) := by
  have hlast : ∀ n, Quiet (if L.last then L.setHandle a n else pure ()) := fun n => quiet_when (quiet_setHandle L a n)
  unfold Lane.streamLoad
  exact quiet_ite (quiet_bind (quiet_readVa L _ _) fun _ => quiet_bind (quiet_load L _ _) fun _ => hlast _) (hlast _)

theorem quiet_streamStore (d : BitVec 7) (a : BitVec 5) (m : Bool) : Quiet (L.streamStore d a m) := by
  have hlast : ∀ n, Quiet (if L.last then L.setHandle a n else pure ()) := fun n => quiet_when (quiet_setHandle L a n)
  unfold Lane.streamStore
  exact quiet_ite (quiet_get fun _ => quiet_bind (quiet_writeVa L _ _ _) fun _ => hlast _) (hlast _)

theorem quiet_streamUnbind (d : BitVec 7) (a : BitVec 5) : Quiet (L.streamUnbind d a) :=
  quiet_get fun _ => quiet_bind (quiet_writeVa L _ _ _) fun _ => quiet_when (quiet_setHandle L _ _)

theorem quiet_handleSet (a : BitVec 5) : Quiet (L.handleSet a) := by
  unfold Lane.handleSet
  refine quiet_when (quiet_bind (quiet_readVa L _ _) fun r => ?_)
  split
  · exact quiet_bind (quiet_trap _ _) fun _ => quiet_setHandle L _ _
  · exact quiet_setHandle L _ _

theorem quiet_scaleLoad (a : BitVec 7) : Quiet (L.scaleLoad a) :=
  quiet_when (quiet_bind (quiet_readVa L _ _) fun _ => quiet_bind (quiet_cores fun _ => rfl) fun _ => quiet_rewriteOpa L _ _ _ _ _ _)

theorem quiet_resolveParts (parts : List (Nat × Nat)) : Quiet (L.resolveParts parts) := by
  unfold Lane.resolveParts
  refine quiet_get fun s => quiet_bind (quiet_mapM (fun p => quiet_bind (quiet_resolve rfl _ _ _) fun _ => quiet_pure _) _) fun rs => ?_
  dsimp only
  split
  · exact quiet_stopAccess _ _ _ _ _
  · refine quiet_get fun t => ?_
    split
    · exact quiet_stopAccess _ _ _ _ _
    · refine quiet_bind (quiet_modify fun u => ?_) fun _ => quiet_pure _
      have hnote : ∀ (w : State) ps, KeepsInboxes w ((w.countHops L.core ps).noteRead L.h ps) := fun w ps =>
        keepsInboxes_composes.trans (countHops_keepsInboxes w _ ps) (keepsInboxes_of_cores rfl)
      exact foldl_composes keepsInboxes_composes hnote _ _

theorem quiet_loadNp (d a : BitVec 7) (p q : Nat) (m : Bool) : Quiet (L.loadNp d a p q m) := by
  unfold Lane.loadNp
  refine quiet_when (quiet_bind (quiet_resolveParts L _) fun pieces => quiet_get fun s =>
    quiet_bind (quiet_write L _ _ _ _) fun _ => quiet_bind (quiet_raise L _ _) fun _ => ?_)
  split
  · exact quiet_when (quiet_rewriteOpa L _ _ _ _ _ _)
  · exact quiet_pure _

theorem quiet_memory (i : Instr) : Quiet (L.memory i) := by
  cases i <;> dsimp only [Lane.memory]
  case vld | vlds | vldx => exact quiet_loadVa L _ _ _ _
  case vst | vstU | vsts | vstx => exact quiet_storeVa L _ _ _ _
  case vstxU => exact quiet_storeUnordered L _ _ _
  case vldw | vlda | vldc => exact quiet_loadBuf L _ _ _ _ _ _
  case vstw | vsta | vstc => exact quiet_storeBuf L _ _ _ _
  case vaadd | vaaddO | vaswap | vaswapO | vamax | vamaxO | vamin | vaminO | vamaxn | vamaxnO | vaminn | vaminnO | vaand | vaandO | vaor | vaorO =>
    exact quiet_atomic L _ _ _ _
  case vsld | vbind => exact quiet_streamLoad L _ _ _ _
  case vsst => exact quiet_streamStore L _ _ _
  case vunbind => exact quiet_streamUnbind L _ _
  case hset => exact quiet_handleSet L _
  case vscl => exact quiet_scaleLoad L _
  case vldnp => exact quiet_loadNp L _ _ _ _ _
  -- words of other majors do not act here
  all_goals exact quiet_pure ()

/-! ### Drains, copies and vdfix -/

theorem quiet_drain (f : Drain) (d : Nat) (a : BitVec 7) (m : Bool) : Quiet (L.drain f d a m) := by
  unfold Lane.drain
  refine quiet_when (quiet_get fun s => quiet_bind (quiet_writeVa L _ _ _) fun ps => quiet_bind (quiet_raise L _ _) fun _ => ?_)
  split
  · exact quiet_pure _
  · exact quiet_rewriteOpa L _ _ _ _ _ _

/-- A decrement that reaches a cluster changes no core (R257, R264). -/
theorem decHeld_cores (s : State) (cl lno c : Nat) : (s.decHeld cl lno c).cores = s.cores := by
  have hcreate : ∀ (u : State) dc, (u.createNamed cl dc).cores = u.cores := fun u dc => by
    unfold State.createNamed State.holdBarriers
    dsimp only
    split <;> rfl
  unfold State.decHeld State.decNow State.decCounter
  dsimp only
  split
  · split
    · split
      · rfl
      · split
        · exact hcreate _ _
        · rfl
    · rfl
  · rfl

theorem endCopy_keepsInboxes (s : State) (c : Nat) (j : CopyJob) : KeepsInboxes s (s.endCopy c j) := by
  unfold State.endCopy
  dsimp only
  split
  · exact keepsInboxes_composes.trans (updCore_keepsInboxes s c) (keepsInboxes_of_cores (decHeld_cores _ _ _ _))
  · exact updCore_keepsInboxes s c

theorem quiet_copyAccept (v : Option Nat) : Quiet (L.copyAccept v) := by
  unfold Lane.copyAccept
  refine quiet_get fun s => quiet_modify fun u => ?_
  have hident : KeepsInboxes u { u with nextIdent := u.nextIdent + 1 } := keepsInboxes_of_cores rfl
  refine keepsInboxes_composes.trans hident ?_
  dsimp only
  split
  · exact keepsInboxes_composes.trans (updCore_keepsInboxes _ L.core) (endCopy_keepsInboxes _ _ _)
  · exact updCore_keepsInboxes _ L.core

theorem quiet_fixIndex (d b : BitVec 7) : Quiet (L.fixIndex d b) := by
  have hfix : ∀ r : Req, r.keep = none → ∀ cause orig a, Quiet (fixAddr r cause orig a) := fun r hr cause orig a => by
    unfold fixAddr
    refine quiet_ite (quiet_pure _) (quiet_bind ((chase_keeps hr _ _ _ _ _).mono SideOnly.keepsInboxes) fun o => ?_)
    split
    · exact quiet_pure _
    · exact quiet_stopAccess _ _ _ _ _
  unfold Lane.fixIndex
  exact quiet_get fun s => quiet_guard (quiet_trap _ _) fun _ => quiet_bind (hfix _ rfl _ _ _) fun _ =>
    quiet_ite (completes_putElem _ _ _ _ _ _).quiet (quiet_raise L _ _)

/-! ### An element of a convoy (R37) -/

/-- The words that their pipe tells apart. -/
theorem quiet_piped (p : Option Pipe) (i : Instr) : Quiet (match p with
    | some .A | some .B => L.arith i
    | some .L | some .S => L.memory i
    | _ => pure ()) := by
  split
  · exact (completes_arith _).quiet
  · exact (completes_arith _).quiet
  · exact quiet_memory L _
  · exact quiet_memory L _
  · exact quiet_pure _

theorem quiet_perform (i : Instr) : Quiet (L.perform i) := by
  unfold Lane.perform
  generalize (vword L.c i).map VWord.pipe = p
  cases i
  case vdfix => exact quiet_fixIndex L _ _
  case mdrain | mdrainS => exact quiet_drain L _ _ _ _
  case mdrainX => exact quiet_drain L (.indexed _) _ 0 _
  case cpl => exact quiet_cores fun _ => rfl
  case cpgo | cpv => exact quiet_copyAccept L _
  all_goals exact quiet_piped L p _

theorem quiet_markGranules (p : Place) (len : Nat) (m full was : Bool) (offOf : Nat → Nat) : Quiet (L.markGranules p len m full was offOf) :=
  quiet_modify fun u => updBuf_keepsInboxes u _ _ _ _

theorem quiet_markWord (was : Bool) (i : Instr) : Quiet (L.markWord was i) := by
  refine quiet_get fun s => ?_
  cases i
  case vldw | vlda | vldc | vstw | vsta | vstc => exact quiet_when (quiet_markGranules L _ _ _ _ _ _)
  -- no other word takes or gives guards
  all_goals exact quiet_pure ()

theorem quiet_needTransfers (i : Instr) : Quiet (needTransfers L i) := quiet_get fun _ => quiet_when (quiet_wait _)

theorem quiet_needLanded (core : Nat) (rows : List Nat) : Quiet (needLanded core rows) := quiet_get fun _ => quiet_when (quiet_wait _)

end

theorem quiet_memberStep (h i n older : Nat) : Quiet (memberStep h i n older) := by
  unfold memberStep
  refine quiet_get fun s => ?_
  split
  · exact quiet_pure _
  · refine quiet_ite (quiet_pure _) ?_
    dsimp only
    split
    · exact quiet_pure _
    · split
      · exact quiet_pure _
      · refine quiet_ite ?_ (quiet_ite ?_ (quiet_pure _))
        · exact quiet_bind (quiet_perform _ _) fun _ => quiet_bind (quiet_cores fun _ => rfl) fun _ => quiet_pure _
        · exact quiet_bind (quiet_needTransfers _ _) fun _ => quiet_bind (quiet_needLanded _ _) fun _ => quiet_bind (quiet_perform _ _) fun _ =>
            quiet_bind (quiet_modify fun u => count_keepsInboxes u _ _ _) fun _ => quiet_pure _

theorem quiet_memberMarks (h i n : Nat) (was : Option Bool) : Quiet (memberMarks h i n was) := by
  unfold memberMarks
  refine quiet_get fun s => ?_
  split
  · split
    · exact quiet_markWord _ _ _
    · exact quiet_pure _
  · exact quiet_pure _

/-- An element takes no message from a port and sends none. -/
theorem quiet_elementStep (h i : Nat) : Quiet (elementStep h i) := by
  unfold elementStep
  exact quiet_get fun s => quiet_bind (quiet_mapM (fun _ => quiet_memberStep h i _ _) _) fun _ =>
    quiet_forM (fun _ => quiet_memberMarks h i _ _) _

end Sys2Proof.Machine
end

section
/-! PROOFS. The other events of a core: messages and replies at its port, layer-passes, a release of its Anvil, layer readings, and the slew
limiter of its cluster (R203, R206, R216, R225, R227, R229, R249, R269). -/

namespace Sys2Proof.Machine

open Sys2Proof

/-! ### Messages and replies (R203, R249) -/

/-- What the last message of hart h's element leaves at core c: the element, performed in u, has committed, and its reply is on its way. -/
def State.delivered (s u : State) (c h : Nat) : State :=
  let t := (u.count (coreOf h) 5 (s.groupCycles h)).countConflicts c
  let t := (t.updCore c (fun k => { k with inbox := k.inbox.erase h })).updHart h (fun t => { t with remote := .performed })
  (t.committed h (s.ctx h).vs).updCore (coreOf h) (fun k => { k with replies := k.replies ++ [h] })

theorem exec_remoteBufferMessage {s u : State} {c h : Nat} {rest : List Nat} (hin : (s.core c).inbox = h :: rest)
    (hgate : (s.core c).gate = .running) (hlast : (s.updCore c (fun k => { k with inbox := rest })).cores.any (fun e => e.2.inbox.contains h) = false)
    (helem : (elementStep h (s.ctx h).vs).run s = .ok () u) : exec (.remoteBufferMessage c) s = .next (s.delivered u c h) := by
  have htaken : s.updCore c (fun k => { k with inbox := k.inbox.erase h }) = s.updCore c (fun k => { k with inbox := rest }) := by
    simp [State.updCore, hin]
  have hdeliver : s.deliver c h = some (s.delivered u c h) := by
    rw [← htaken] at hlast
    simp only [State.deliver, hlast, helem, Bool.false_eq_true, if_false]
    rfl
  change execRemoteBufferMessage c s = _
  simp [execRemoteBufferMessage, hgate, hin, State.deliverFirst, hdeliver]

theorem countConflicts_keepsInboxes (s : State) (c : Nat) : KeepsInboxes s (s.countConflicts c) :=
  keepsInboxes_composes.trans (t := { s with fresh := s.fresh + 1 }) (keepsInboxes_of_cores rfl) (count_keepsInboxes _ _ _ _)

theorem delivered_hart (s u : State) (c h : Nat) :
    ((s.delivered u c h).hart h).remote = .performed ∧ ((s.delivered u c h).ctx h).vs = (s.ctx h).vs + 1 := by
  simp [State.delivered, State.committed, State.updHart_eq, State.ctx]

theorem delivered_replies (s u : State) (c h : Nat) : h ∈ ((s.delivered u c h).core (coreOf h)).replies := by
  simp [State.delivered]

theorem delivered_mem (s u : State) (c h : Nat) : (s.delivered u c h).mem = u.mem := rfl

/-- The port of core c has given up the message. -/
theorem delivered_inbox (s u : State) (c h : Nat) : ((s.delivered u c h).core c).inbox = (u.core c).inbox.erase h := by
  have hcount := keepsInboxes_composes.trans (count_keepsInboxes u (coreOf h) 5 (s.groupCycles h)) (countConflicts_keepsInboxes _ c) c
  unfold State.delivered
  dsimp only
  refine (updCore_keepsInboxes (f := fun k => { k with replies := k.replies ++ [h] }) _ (coreOf h) (fun _ => rfl) c).trans ?_
  rw [← hcount]
  simp [State.committed, State.updHart_eq]

/-- What a reply of hart h's element leaves before the convoy goes on. -/
def State.replied (s : State) (c h : Nat) (rest : List Nat) : State :=
  (s.updCore c (fun k => { k with replies := rest })).updHart h (fun t =>
    { t with
      remote := .idle, guardPending := [],
      ctx := t.guardPending.foldl (fun c g => c.touchGuard g.1 g.2.1 g.2.2) t.ctx })

theorem exec_remoteReply {s : State} {c h : Nat} {rest : List Nat} (hr : (s.core c).replies = h :: rest) :
    exec (.remoteReply c) s = .next (if ((s.replied c h rest).hart h).released &&
        convoySpan ((s.replied c h rest).ctx h) (firstConvoy ((s.replied c h rest).hart h).queue) ≤ ((s.replied c h rest).ctx h).vs then
      (s.replied c h rest).endConvoy h else s.replied c h rest) := by
  change execRemoteReply c s = _
  unfold execRemoteReply
  rw [hr]
  rfl

/-- The end of a convoy leaves its hart's remote element and guard latch. -/
theorem endConvoy_guard (s : State) (h : Nat) :
    ((s.endConvoy h).hart h).remote = (s.hart h).remote ∧ ((s.endConvoy h).hart h).guardPending = (s.hart h).guardPending ∧
    ((s.endConvoy h).ctx h).guard = (s.ctx h).guard := by
  simp [State.endConvoy, State.landConvoy, State.updHart_eq, State.ctx]

/-- Whether or not the convoy ends with it, a reply latches the element's guard touches and frees the hart. -/
theorem remoteReply_latches {s : State} {c h : Nat} {rest : List Nat} (hr : (s.core c).replies = h :: rest) :
    ∃ t, exec (.remoteReply c) s = .next t ∧ (t.core c).replies = rest ∧ (t.hart h).remote = .idle ∧ (t.hart h).guardPending = [] ∧
      (t.ctx h).guard = ((s.hart h).guardPending.foldl (fun c g => c.touchGuard g.1 g.2.1 g.2.2) (s.ctx h)).guard ∧ t.mem = s.mem := by
  have hreplies : ((s.replied c h rest).core c).replies = rest := by simp [State.replied, State.updHart_eq]
  have hhart : (s.replied c h rest).hart h =
      { s.hart h with
        remote := .idle, guardPending := [],
        ctx := (s.hart h).guardPending.foldl (fun c g => c.touchGuard g.1 g.2.1 g.2.2) (s.ctx h) } := by
    simp [State.replied, State.updHart_eq, State.ctx]
  refine ⟨_, exec_remoteReply hr, ?_⟩
  split
  · obtain ⟨hremote, hpending, hguard⟩ := endConvoy_guard (s.replied c h rest) h
    obtain ⟨hmem, hcores, -⟩ := endConvoy_others (s.replied c h rest) h
    have hport := congrArg Core.replies (hcores c)
    refine ⟨hport.trans hreplies, ?_, ?_, ?_, hmem⟩
    · rw [hremote, hhart]
    · rw [hpending, hhart]
    · rw [hguard, State.ctx, hhart]
  · refine ⟨hreplies, ?_, ?_, ?_, rfl⟩
    · rw [hhart]
    · rw [hhart]
    · rw [State.ctx, hhart]

/-! ### The layer-passes of a multiplying word (R227, R269) -/

/-- Of the cores, memory and the scalar registers only core c's job differs. -/
def JobOnly (c : Nat) (s t : State) : Prop :=
  (∀ d, d ≠ c → t.core d = s.core d) ∧ { t.core c with job := (s.core c).job } = s.core c ∧ t.mem = s.mem ∧ ∀ g r, t.x g r = s.x g r

theorem jobOnly_composes (c : Nat) : Composes (JobOnly c) where
  refl _ := ⟨fun _ _ => rfl, rfl, rfl, fun _ _ => rfl⟩
  trans := by
    rintro s t u ⟨a1, a2, a3, a4⟩ ⟨b1, b2, b3, b4⟩
    refine ⟨fun d hd => (b1 d hd).trans (a1 d hd), ?_, b3.trans a3, fun g r => (b4 g r).trans (a4 g r)⟩
    rw [← a2, ← b2]

theorem updCluster_jobOnly (c : Nat) (s : State) (cl : Nat) (f : Cluster → Cluster) : JobOnly c s (s.updCluster cl f) :=
  ⟨fun _ _ => rfl, rfl, rfl, fun _ _ => rfl⟩

theorem setJob_jobOnly (c : Nat) (s : State) {f : Core → Core} (hf : ∀ k, ∃ j, f k = { k with job := j } := by exact fun _ => ⟨_, rfl⟩) :
    JobOnly c s (s.updCore c f) := by
  obtain ⟨j, hj⟩ := hf (s.core c)
  refine ⟨fun d hd => ?_, ?_, rfl, fun _ _ => rfl⟩
  · rw [State.core_updCore, if_neg hd.symm]
  · rw [State.core_updCore, if_pos rfl, hj]

theorem grantPass_jobOnly (c : Nat) (s : State) : JobOnly c s (s.grantPass c) :=
  (jobOnly_composes c).trans (updCluster_jobOnly c s _ _) (setJob_jobOnly c _)

theorem grantNow_jobOnly (c : Nat) (s : State) : JobOnly c s (s.grantNow c) := by
  unfold State.grantNow
  dsimp only
  split
  · exact (jobOnly_composes c).refl s
  · exact (jobOnly_composes c).trans (updCluster_jobOnly c s _ _) (grantPass_jobOnly c _)

theorem requestPass_jobOnly (c : Nat) (s : State) : JobOnly c s (s.requestPass c) :=
  (jobOnly_composes c).trans (updCluster_jobOnly c s _ _) (grantNow_jobOnly c _)

theorem endPass_jobOnly (c : Nat) (s : State) (layers : List Nat) : JobOnly c s (s.endPass c layers) := updCluster_jobOnly c s _ _

/-- Completed convoys at the head of the queue leave it without a change of a register. -/
theorem settle_x (t : Hart) : t.settle.ctx.x = t.ctx.x := by
  unfold Hart.settle
  dsimp only
  split <;> rfl

theorem updHart_jobOnly (c : Nat) (s : State) (h : Nat) {f : Hart → Hart} (hf : ∀ t, (f t).ctx.x = t.ctx.x) : JobOnly c s (s.updHart h f) :=
  ⟨fun _ _ => rfl, rfl, rfl, updHart_x hf s h⟩

/-- A hart whose multiplying word completes with the status v (R230). -/
def Hart.matrixEnded (t : Hart) (v : Word) : Hart :=
  let t : Hart := { t with ctx := { t.ctx with ast := v }, queue := updFirst QEntry.mmul (fun e => { e with done := true }) t.queue }
  if t.released then t else t.settle

theorem matrixEnded_x (t : Hart) (v : Word) : (t.matrixEnded v).ctx.x = t.ctx.x := by
  unfold Hart.matrixEnded
  dsimp only
  split
  · rfl
  · exact settle_x _

theorem endMatrix_eq (c h : Nat) (s : State) (j : MatrixJob) (w : Mmul) (p : Plane) :
    ∃ v job, s.endMatrix c h j w p = (s.updHart h (fun t => t.matrixEnded v)).updCore c (fun k => { k with job := job }) :=
  ⟨_, _, rfl⟩

theorem endMatrix_jobOnly (c h : Nat) (s : State) (j : MatrixJob) (w : Mmul) (p : Plane) : JobOnly c s (s.endMatrix c h j w p) := by
  obtain ⟨v, job, hend⟩ := endMatrix_eq c h s j w p
  rw [hend]
  exact (jobOnly_composes c).trans (updHart_jobOnly c s h (fun t => matrixEnded_x t v)) (setJob_jobOnly c _)

/-- Nothing differs but the tiles of Anvils. -/
def TilesOnly (s t : State) : Prop :=
  { t with cores := s.cores } = s ∧
  ∀ d, { t.core d with anvil := { (t.core d).anvil with tiles := (s.core d).anvil.tiles } } = s.core d

theorem tilesOnly_composes : Composes TilesOnly where
  refl _ := ⟨rfl, fun _ => rfl⟩
  trans := by
    rintro s t u ⟨a1, a2⟩ ⟨b1, b2⟩
    refine ⟨?_, fun d => ?_⟩
    · rw [← a1, ← b1]
    · have ha := a2 d
      have hb := b2 d
      rw [← ha, ← hb]

theorem setTiles_tilesOnly (s : State) (d : Nat) (f : Anvil → Tbl Nat) : TilesOnly s (s.updAnvil d (fun a => { a with tiles := f a })) := by
  refine ⟨rfl, fun k => ?_⟩
  rw [State.updAnvil, State.core_updCore]
  split
  · subst_vars; rfl
  · rfl

theorem clearTangents_tilesOnly (s : State) (h : Nat) (w : Mmul) (p : Plane) (mg : Nat) : TilesOnly s (s.clearTangents h w p mg) := by
  unfold State.clearTangents
  dsimp only
  split
  · exact tilesOnly_composes.refl s
  · exact setTiles_tilesOnly _ _ _

theorem runPass_tilesOnly (s : State) (h : Nat) (w : Mmul) (opA : Word) (acts : Memory) (p : Plane) (mg : Nat)
    (pass : Nat × List (Nat × Nat)) : TilesOnly s (s.runPass h w opA acts p mg pass) := setTiles_tilesOnly _ _ _

section
variable {s t : State} (ht : TilesOnly s t)
include ht

theorem TilesOnly.eq : t = { s with cores := t.cores } := by
  rw [← ht.1]

theorem TilesOnly.mem : t.mem = s.mem := by rw [ht.eq]

theorem TilesOnly.x (g : Nat) (r : BitVec 7) : t.x g r = s.x g r := by
  rw [ht.eq]
  rfl

theorem TilesOnly.ctr (c : Nat) : (t.core c).ctr = (s.core c).ctr := by
  have hc := congrArg Core.ctr (ht.2 c)
  exact hc

/-- A typed buffer is what it was. -/
theorem TilesOnly.buf (c h : Nat) (k : BufKind) : t.buf c (t.hartLno h) k = s.buf c (s.hartLno h) k := by
  have hallocs : (t.core c).allocs = (s.core c).allocs := by
    have hc := congrArg Core.allocs (ht.2 c)
    exact hc
  have hlno : t.hartLno h = s.hartLno h := by
    rw [ht.eq]
    rfl
  simp only [State.buf, Core.allocOf, hallocs, hlno]

end

/-- The state in which a layer-pass of core c's word adds its products: before its first pass the tangents that VT.TM clears are cleared. -/
def State.passStart (s : State) (h : Nat) (j : MatrixJob) (w : Mmul) (p : Plane) (mg : Nat) : State :=
  if j.passes = 0 then s.clearTangents h w p mg else s

theorem passStart_tilesOnly (s : State) (h : Nat) (j : MatrixJob) (w : Mmul) (p : Plane) (mg : Nat) :
    TilesOnly s (s.passStart h j w p mg) := by
  unfold State.passStart
  split
  · exact clearTangents_tilesOnly _ _ _ _ _
  · exact tilesOnly_composes.refl s

/-- The state after the products of a layer-pass have been added (R225, R227). -/
def State.passed (s : State) (c h : Nat) (j : MatrixJob) (e : QEntry) (w : Mmul) (p : Plane) (pass : Nat × List (Nat × Nat)) : State :=
  (s.passStart h j w p (s.anvil c).shape.mg).runPass h w e.opA (j.acts.getD (s.buf c (s.hartLno h) .a).data) p (s.anvil c).shape.mg pass

/-- And after its counts (R208). -/
def State.passCounted (s : State) (c h : Nat) (j : MatrixJob) (e : QEntry) (w : Mmul) (p : Plane) (pass : Nat × List (Nat × Nat)) : State :=
  let u := s.passed c h j e w p pass
  ((if w.src && j.passes == 0 then u.countConflicts c else u).count c 6 1).count c 7 (passCycles w p (s.anvil c).shape.mg)

/-- A granted layer-pass adds its products and is counted; what follows changes the job of its core alone. -/
theorem exec_layerPass {s : State} {c h : Nat} {j : MatrixJob} {e : QEntry} {w : Mmul} {p : Plane} {pass : Nat × List (Nat × Nat)}
    (hword : s.matrixWord c = some (h, j, e, w, p)) (hgrant : j.granted = true)
    (hpass : (passPlan (s.ctx h) w p j.avail)[j.passes]? = some pass) :
    ∃ t, exec (.layerPass c) s = .next t ∧ JobOnly c (s.passCounted c h j e w p pass) t := by
  have hbuf := (passStart_tilesOnly s h j w p (s.anvil c).shape.mg).buf c h .a
  have hjob := jobOnly_composes c
  change ∃ t, execLayerPass c s = _ ∧ _
  unfold execLayerPass
  simp only [hword, hgrant, hpass, Bool.not_true, Bool.false_eq_true, if_false]
  unfold State.passStart at hbuf
  rw [hbuf]
  split
  · exact ⟨_, rfl, hjob.trans (endPass_jobOnly c _ _) (endMatrix_jobOnly c h _ _ w p)⟩
  · split
    · exact ⟨_, rfl, setJob_jobOnly c _⟩
    · exact ⟨_, rfl, hjob.trans (hjob.trans (endPass_jobOnly c _ _) (setJob_jobOnly c _)) (requestPass_jobOnly c _)⟩

theorem passed_tilesOnly (s : State) (c h : Nat) (j : MatrixJob) (e : QEntry) (w : Mmul) (p : Plane) (pass : Nat × List (Nat × Nat)) :
    TilesOnly s (s.passed c h j e w p pass) :=
  tilesOnly_composes.trans (passStart_tilesOnly _ _ _ _ _ _) (runPass_tilesOnly _ _ _ _ _ _ _ _)

theorem counter_count (s : State) (c n k m : Nat) :
    (s.count c n k).counter c m = if n = m then (s.counter c n + k) % 2 ^ 64 else s.counter c m := by
  simp only [State.counter, State.count_eq, State.core_updCore, if_true, Tbl.get_set]

theorem counter_countConflicts (s : State) (c m : Nat) (hm : m ≠ 8) : (s.countConflicts c).counter c m = s.counter c m :=
  (counter_count _ c 8 _ m).trans (if_neg hm.symm)

theorem anvil_count (s : State) (c n k : Nat) : (s.count c n k).anvil c = s.anvil c := by
  simp [State.anvil, State.count_eq]

theorem anvil_countConflicts (s : State) (c : Nat) : (s.countConflicts c).anvil c = s.anvil c := anvil_count _ c 8 _

/-- The counts of a pass leave the tiles, memory and the registers. -/
theorem passCounted_facts (s : State) (c h : Nat) (j : MatrixJob) (e : QEntry) (w : Mmul) (p : Plane) (pass : Nat × List (Nat × Nat)) :
    (s.passCounted c h j e w p pass).counter c 6 = (s.counter c 6 + 1) % 2 ^ 64 ∧ (s.passCounted c h j e w p pass).mem = s.mem ∧
    (∀ g r, (s.passCounted c h j e w p pass).x g r = s.x g r) ∧
    ((s.passCounted c h j e w p pass).anvil c).tiles = ((s.passed c h j e w p pass).anvil c).tiles := by
  have hu := passed_tilesOnly s c h j e w p pass
  have hcounter : (s.passed c h j e w p pass).counter c 6 = s.counter c 6 := by rw [State.counter, hu.ctr, State.counter]
  unfold State.passCounted
  dsimp only
  split
  · refine ⟨?_, hu.mem, hu.x, ?_⟩
    · rw [counter_count, if_neg (by decide), counter_count, if_pos rfl, counter_countConflicts _ _ _ (by decide), hcounter]
    · rw [anvil_count, anvil_count, anvil_countConflicts]
  · refine ⟨?_, hu.mem, hu.x, ?_⟩
    · rw [counter_count, if_neg (by decide), counter_count, if_pos rfl, hcounter]
    · rw [anvil_count, anvil_count]

/-- A pass counts once, and its products are in the tiles of its core's Anvil. -/
theorem layerPass_adds {s : State} {c h : Nat} {j : MatrixJob} {e : QEntry} {w : Mmul} {p : Plane} {pass : Nat × List (Nat × Nat)}
    (hword : s.matrixWord c = some (h, j, e, w, p)) (hgrant : j.granted = true)
    (hpass : (passPlan (s.ctx h) w p j.avail)[j.passes]? = some pass) :
    ∃ t, exec (.layerPass c) s = .next t ∧ t.counter c 6 = (s.counter c 6 + 1) % 2 ^ 64 ∧ t.mem = s.mem ∧ (∀ g r, t.x g r = s.x g r) ∧
      (t.anvil c).tiles = ((s.passed c h j e w p pass).anvil c).tiles := by
  obtain ⟨t, hrun, -, hcore, hmem, hx⟩ := exec_layerPass hword hgrant hpass
  obtain ⟨hcounter, hmem', hx', htiles⟩ := passCounted_facts s c h j e w p pass
  have hctr : (t.core c).ctr = ((s.passCounted c h j e w p pass).core c).ctr := by
    have hc := congrArg Core.ctr hcore
    exact hc
  have hanvil : t.anvil c = (s.passCounted c h j e w p pass).anvil c := by
    have hc := congrArg Core.anvil hcore
    exact hc
  refine ⟨t, hrun, ?_, hmem.trans hmem', fun g r => (hx g r).trans (hx' g r), ?_⟩
  · rw [State.counter, hctr]
    exact hcounter
  · rw [hanvil, htiles]

/-! ### Release of the Anvil, layer readings, the slew limiter (R216, R229, R269) -/

/-- Of the cores and memory a completed release frees the Anvil alone. -/
theorem exec_anvilFree {s : State} {c tid : Nat} (hrel : (s.anvil c).releasing = some tid) (hdone : (s.anvil c).relDone = true)
    (hjob : (s.core c).job = none) :
    ∃ t, exec (.anvilFree c) s = .next t ∧ t.cores = (s.updAnvil c fun _ => Anvil.free).cores ∧ t.mem = s.mem := by
  change ∃ t, execAnvilFree c s = _ ∧ _
  simp only [execAnvilFree, hrel, hdone, hjob, Option.isNone_some, Option.isSome_none, Bool.not_true, Bool.or_self, Bool.false_eq_true, if_false]
  exact ⟨_, rfl, State.updTask_cores _ _ _, State.updTask_mem _ _ _⟩

theorem anvilFree_frees {s : State} {c tid : Nat} (hrel : (s.anvil c).releasing = some tid) (hdone : (s.anvil c).relDone = true)
    (hjob : (s.core c).job = none) :
    ∃ t, exec (.anvilFree c) s = .next t ∧ t.anvil c = Anvil.free ∧ (∀ k, k ≠ c → t.core k = s.core k) ∧ t.mem = s.mem := by
  obtain ⟨t, hrun, hcores, hmem⟩ := exec_anvilFree hrel hdone hjob
  have hcore (k : Nat) : t.core k = (s.updCore c fun k => { k with anvil := Anvil.free }).core k := by
    rw [State.core, hcores]
    rfl
  refine ⟨t, hrun, ?_, fun k hk => ?_, hmem⟩
  · rw [State.anvil, hcore, State.core_updCore, if_pos rfl]
  · rw [hcore, State.core_updCore, if_neg hk.symm]

/-- The limit and the readmission limit of a layer, from the fields of THCFG (R229, R402). -/
theorem anvilLimits_eq (n : Nat) : anvilLimits n = (4 * (n / 2 ^ 32 % 256), 4 * (n / 2 ^ 32 % 256 - n / 2 ^ 24 % 256)) := rfl

/-- A core of which a layer reads q quarter degrees, before its start is granted. -/
def Core.layerRead (k : Core) (thcfg layer q : Nat) : Core :=
  let l := anvilLimits thcfg
  let m := 2 ^ (layer % 4)
  if l.1 ≤ q then { k with hotLayers := k.hotLayers ||| m, overLayers := k.overLayers ||| m }
  else
    { k with
      overLayers := k.overLayers &&& (15 ^^^ m), hotLayers := if q < l.2 then k.hotLayers &&& (15 ^^^ m) else k.hotLayers }

/-- A reading changes the layers of its core as its limits say, and no other core. -/
theorem layerTempReport_reads (s : State) (c layer q : Nat) :
    ∃ t, exec (.layerTempReport c layer q) s = .next t ∧ (t.core c).hotLayers = ((s.core c).layerRead s.thcfg layer q).hotLayers ∧
      (t.core c).overLayers = ((s.core c).layerRead s.thcfg layer q).overLayers ∧ ∀ k, k ≠ c → t.core k = s.core k := by
  obtain ⟨hothers, hown, -, -⟩ := grantNow_jobOnly c (s.updCore c fun k => k.layerRead s.thcfg layer q)
  rw [State.core_updCore, if_pos rfl] at hown
  refine ⟨_, rfl, ?_, ?_, fun k hk => (hothers k hk).trans ?_⟩
  · have hc := congrArg Core.hotLayers hown
    exact hc
  · have hc := congrArg Core.overLayers hown
    exact hc
  · rw [State.core_updCore, if_neg hk.symm]

/-- The hosts that run in the cores of a cluster (R269). -/
def State.realLevel (s : State) (cl : Nat) : Nat := ((List.range 8).map (fun c => s.runningHosts (8 * cl + c))).foldl (· + ·) 0

/-- The slew limiter falls by DOWN, at least by 1 (R270). -/
theorem slewDown_eq (n : Nat) : slewDown n = max 1 (n % 256) := by simp [slewDown, bits_low]

/-- A step of the limiter without a pending start sets the level and the filler of its cluster. -/
theorem exec_slewStep {s : State} {cl : Nat} (hp : (s.cluster cl).pending = []) :
    exec (.slewStep cl) s = .next (s.updCluster cl (fun k =>
      let lvl := max (s.realLevel cl) ((s.cluster cl).lvl - slewDown (s.cluster cl).slcfg)
      { k with lvl := lvl, filler := if bit k.slcfg 8 then k.passEnds.take (lvl - s.realLevel cl) else [] })) := by
  change execSlewStep cl s = _
  unfold execSlewStep
  dsimp only
  rw [State.cluster_updCluster, if_pos rfl]
  dsimp only
  rw [hp]
  rfl

end Sys2Proof.Machine
end

section
/-! PROOFS. A rounded code fits its format (R50, R57, R58): the bound of every code that a drain stores. -/

namespace Sys2Proof.Machine

open Sys2Proof

/-! ### Scaling by a power of two -/

theorem zpow_of_nonneg {q : Int} (hq : 0 ≤ q) : (2 : ℚ) ^ q = (2 ^ q.toNat : Nat) := by
  rw [Nat.cast_pow, Nat.cast_ofNat, ← zpow_natCast, Int.toNat_of_nonneg hq]

theorem zpow_of_neg {q : Int} (hq : ¬ 0 ≤ q) : (2 : ℚ) ^ q = ((2 ^ (-q).toNat : Nat) : ℚ)⁻¹ := by
  rw [← zpow_of_nonneg (q := -q) (by omega), zpow_neg, inv_inv]

/-- The pair that scaling gives is the scaled ratio. -/
theorem scaleBy_ratio (n : Nat) {d : Nat} (hd : 0 < d) (q : Int) :
    0 < (scaleBy n d q).2 ∧ ((scaleBy n d q).1 : ℚ) / (scaleBy n d q).2 = (n : ℚ) / d / 2 ^ q := by
  have hd' : (d : ℚ) ≠ 0 := by positivity
  unfold scaleBy
  split
  case isTrue hq =>
    refine ⟨by positivity, ?_⟩
    rw [zpow_of_nonneg hq]
    push_cast
    rw [div_div]
  case isFalse hq =>
    refine ⟨hd, ?_⟩
    rw [zpow_of_neg hq]
    push_cast
    rw [div_inv_eq_mul, div_mul_eq_mul_div]

/-- The comparison of two scaled naturals is that of their values. -/
theorem gtPow_iff (a : Nat) (p : Int) (b : Nat) (q : Int) : gtPow a p b q = true ↔ (b : ℚ) * 2 ^ q < a * 2 ^ p := by
  have hp : (0 : ℚ) < 2 ^ p := by positivity
  have hq : (0 : ℚ) < 2 ^ q := by positivity
  unfold gtPow
  split
  case isTrue h =>
    have hsplit : (2 : ℚ) ^ p = (2 ^ (p - q).toNat : Nat) * 2 ^ q := by
      rw [← zpow_of_nonneg (by omega), ← zpow_add₀ two_ne_zero, sub_add_cancel]
    rw [hsplit, ← mul_assoc, mul_lt_mul_iff_left₀ hq, decide_eq_true_eq]
    exact_mod_cast Iff.rfl
  case isFalse h =>
    have hsplit : (2 : ℚ) ^ q = (2 ^ (q - p).toNat : Nat) * 2 ^ p := by
      rw [← zpow_of_nonneg (by omega), ← zpow_add₀ two_ne_zero, sub_add_cancel]
    rw [hsplit, ← mul_assoc, mul_lt_mul_iff_left₀ hp, decide_eq_true_eq]
    exact_mod_cast Iff.rfl

/-- The first guess of ilog2 is the logarithm or the integer above it. -/
theorem ilog2_eq (n d : Nat) :
    ilog2 n d = if gtPow d ((log2 n : Int) - log2 d) n 0 = true then (log2 n : Int) - log2 d - 1 else (log2 n : Int) - log2 d := by
  simp only [ilog2, gtPow, Int.sub_zero, Int.zero_sub, gt_iff_lt]
  by_cases h : 0 ≤ (log2 n : Int) - log2 d
  · simp only [h, if_true, decide_eq_true_eq]
  · simp only [h, if_false, decide_eq_true_eq]

/-- A ratio lies within a factor of two of the power that the lengths of its parts give. -/
theorem log2_bounds {n d : Nat} (hn : 0 < n) (hd : 0 < d) :
    (2 : ℚ) ^ ((log2 n : Int) - log2 d - 1) < (n : ℚ) / d ∧ (n : ℚ) / d < 2 ^ ((log2 n : Int) - log2 d + 1) := by
  have hd' : (0 : ℚ) < d := by exact_mod_cast hd
  have hnlo : (2 : ℚ) ^ (log2 n : Int) ≤ n := by exact_mod_cast Nat.log2_self_le hn.ne'
  have hnhi : (n : ℚ) < 2 ^ ((log2 n : Int) + 1) := by exact_mod_cast Nat.lt_log2_self
  have hdlo : (2 : ℚ) ^ (log2 d : Int) ≤ d := by exact_mod_cast Nat.log2_self_le hd.ne'
  have hdhi : (d : ℚ) < 2 ^ ((log2 d : Int) + 1) := by exact_mod_cast Nat.lt_log2_self
  constructor
  · rw [lt_div_iff₀ hd']
    calc (2 : ℚ) ^ ((log2 n : Int) - log2 d - 1) * d < 2 ^ ((log2 n : Int) - log2 d - 1) * 2 ^ ((log2 d : Int) + 1) := by gcongr
      _ = 2 ^ (log2 n : Int) := by rw [← zpow_add₀ two_ne_zero]; congr 1; ring
      _ ≤ n := hnlo
  · rw [div_lt_iff₀ hd']
    calc (n : ℚ) < 2 ^ ((log2 n : Int) + 1) := hnhi
      _ = 2 ^ ((log2 n : Int) - log2 d + 1) * 2 ^ (log2 d : Int) := by rw [← zpow_add₀ two_ne_zero]; congr 1; ring
      _ ≤ 2 ^ ((log2 n : Int) - log2 d + 1) * d := by gcongr

/-- The binary logarithm of a ratio (R58): the power of two at or below it, whose double lies above. -/
theorem ilog2_bounds {n d : Nat} (hn : 0 < n) (hd : 0 < d) :
    (2 : ℚ) ^ ilog2 n d ≤ (n : ℚ) / d ∧ (n : ℚ) / d < 2 ^ (ilog2 n d + 1) := by
  have hd' : (0 : ℚ) < d := by exact_mod_cast hd
  obtain ⟨hlo, hhi⟩ := log2_bounds hn hd
  have hbelow : gtPow d ((log2 n : Int) - log2 d) n 0 = true ↔ (n : ℚ) / d < 2 ^ ((log2 n : Int) - log2 d) := by
    rw [gtPow_iff, zpow_zero, mul_one, div_lt_iff₀ hd', mul_comm]
  rw [ilog2_eq]
  split
  case isTrue h => exact ⟨hlo.le, by rw [sub_add_cancel]; exact hbelow.1 h⟩
  case isFalse h => exact ⟨not_lt.1 (mt hbelow.2 h), hhi⟩

/-! ### Rounding to a natural number -/

/-- A rounded quotient lies no further than the next natural number above the exact one, whatever the mode. -/
theorem roundNat_le (rm : Rm) (r : Nat) (neg : Bool) {n d k : Nat} (hd : 0 < d) (h : (n : ℚ) / d < k) : roundNat rm r neg n d ≤ k := by
  have hfloor : n / d < k := by
    rw [Nat.div_lt_iff_lt_mul hd]
    rw [div_lt_iff₀ (by positivity)] at h
    exact_mod_cast h
  cases rm with
  | sr =>
    have hscaled : n * 65536 / d < k * 65536 := by
      rw [Nat.div_lt_iff_lt_mul hd] at hfloor ⊢
      nlinarith
    simp only [roundNat]
    omega
  | rtz => exact hfloor.le
  | rdn | rup | rne =>
    simp only [roundNat]
    split_ifs <;> omega

/-- And no lower than the floor of it. -/
theorem le_roundNat (rm : Rm) (r : Nat) (neg : Bool) {n d k : Nat} (hd : 0 < d) (h : (k : ℚ) ≤ (n : ℚ) / d) : k ≤ roundNat rm r neg n d := by
  have hfloor : k ≤ n / d := by
    rw [Nat.le_div_iff_mul_le hd]
    rw [le_div_iff₀ (by positivity)] at h
    exact_mod_cast h
  cases rm with
  | sr =>
    have hscaled : k * 65536 ≤ n * 65536 / d := by
      rw [Nat.le_div_iff_mul_le hd] at hfloor ⊢
      nlinarith
    simp only [roundNat]
    omega
  | rtz => exact hfloor
  | rdn | rup | rne =>
    simp only [roundNat]
    split_ifs <;> omega

/-! ### Codes of a format -/

/-- The fields of a format stand to one another as those of R50 do: its NaN, its largest magnitudes and its infinity lie below the sign bit,
and so do the codes of its largest exponent and of one place more. -/
structure Fmt.Fits (f : Fmt) : Prop where
  width_pos : 0 < f.width
  qnan_lt : f.qnan < 2 ^ (f.width - 1)
  inf_lt : f.emaxField * 2 ^ f.man < 2 ^ (f.width - 1)
  maxCode_lt : f.maxCode < 2 ^ (f.width - 1)
  maxExp_pos : 0 < f.maxCode / 2 ^ f.man
  place_le : (f.maxCode / 2 ^ f.man + 1) * 2 ^ f.man ≤ 2 ^ (f.width - 1)
  maxMan_lt : (if f.ocp then 14 else 2 ^ (f.man + 1) - 1) < 2 ^ (f.man + 1)

theorem fits_fmtOf (ew : Nat) : (fmtOf ew).Fits := by
  unfold fmtOf
  split <;> constructor <;> decide

theorem fits_tfmt (c : Ctx) : c.tfmt.Fits := by
  unfold Ctx.tfmt
  split <;> constructor <;> decide

theorem fst_ite_lt {p : Prop} [Decidable p] {a b : Nat × Ev} {k : Nat} (ha : p → a.1 < k) (hb : ¬ p → b.1 < k) :
    (if p then a else b).1 < k := by
  split
  case isTrue h => exact ha h
  case isFalse h => exact hb h

section
variable {f : Fmt} (hf : f.Fits)
include hf

/-- A sign over a magnitude below the sign bit is a code of the format. -/
theorem Fmt.Fits.signed {m : Nat} (hm : m < 2 ^ (f.width - 1)) (neg : Bool) : f.signBit neg + m < 2 ^ f.width := by
  have hdouble : 2 ^ f.width = 2 ^ (f.width - 1) + 2 ^ (f.width - 1) := by
    rw [← Nat.two_mul, ← Nat.pow_succ', Nat.succ_eq_add_one, Nat.sub_add_cancel hf.width_pos]
  unfold Fmt.signBit
  split <;> omega

theorem Fmt.Fits.qnan : f.qnan < 2 ^ f.width := hf.qnan_lt.trans_le (Nat.pow_le_pow_right two_pos (Nat.sub_le _ _))

theorem Fmt.Fits.infCode (neg : Bool) : f.infCode neg < 2 ^ f.width := hf.signed hf.inf_lt neg

theorem Fmt.Fits.maxFinite (neg : Bool) : f.maxFinite neg < 2 ^ f.width := hf.signed hf.maxCode_lt neg

theorem overflowCode_lt (sat : Bool) (rm : Rm) (neg : Bool) : (overflowCode f sat rm neg).1 < 2 ^ f.width := by
  unfold overflowCode
  dsimp only
  split
  · exact hf.maxFinite neg
  · split
    · split
      · exact hf.qnan
      · exact hf.qnan
      · exact hf.maxFinite neg
    · exact fst_ite_lt (fun _ => hf.infCode neg) (fun _ => hf.maxFinite neg)

end

/-! ### Rounded finite values (R58) -/

/-- The largest significand, and the exponent of its last place, of a finite code (R50). -/
def Fmt.maxMan (f : Fmt) : Nat := if f.ocp then 14 else 2 ^ (f.man + 1) - 1
def Fmt.maxExp (f : Fmt) : Int := f.qmin + (f.maxCode / 2 ^ f.man : Nat) - 1

section
variable {n d : Nat} (hn : 0 < n) (hd : 0 < d)
include hn hd

/-- A value rounded at the last place of its own exponent has the significand of a normal number, or the power of two above. -/
theorem significand_bounds (rm : Rm) (r : Nat) (neg : Bool) (m : Nat) :
    2 ^ m ≤ roundNat rm r neg (scaleBy n d (ilog2 n d - m)).1 (scaleBy n d (ilog2 n d - m)).2 ∧
    roundNat rm r neg (scaleBy n d (ilog2 n d - m)).1 (scaleBy n d (ilog2 n d - m)).2 ≤ 2 ^ (m + 1) := by
  obtain ⟨hpos, hratio⟩ := scaleBy_ratio n hd (ilog2 n d - m)
  obtain ⟨hlo, hhi⟩ := ilog2_bounds hn hd
  have hq : (0 : ℚ) < 2 ^ (ilog2 n d - m) := by positivity
  have hbelow : (2 : ℚ) ^ m * 2 ^ (ilog2 n d - m) = 2 ^ ilog2 n d := by
    rw [← zpow_natCast, ← zpow_add₀ two_ne_zero]; congr 1; ring
  have habove : (2 : ℚ) ^ (m + 1) * 2 ^ (ilog2 n d - m) = 2 ^ (ilog2 n d + 1) := by
    rw [← zpow_natCast, ← zpow_add₀ two_ne_zero]; congr 1; push_cast; ring
  refine ⟨le_roundNat rm r neg hpos ?_, roundNat_le rm r neg hpos ?_⟩
  · rw [hratio, le_div_iff₀ hq]
    push_cast
    rwa [hbelow]
  · rw [hratio, div_lt_iff₀ hq]
    push_cast
    rwa [habove]

/-- A value rounded at a place above that of its own exponent has the significand of a subnormal number, or the least normal one. -/
theorem subnormal_le (rm : Rm) (r : Nat) (neg : Bool) {m : Nat} {q : Int} (hq : ilog2 n d - m < q) :
    roundNat rm r neg (scaleBy n d q).1 (scaleBy n d q).2 ≤ 2 ^ m := by
  obtain ⟨hpos, hratio⟩ := scaleBy_ratio n hd q
  obtain ⟨-, hhi⟩ := ilog2_bounds hn hd
  refine roundNat_le rm r neg hpos ?_
  rw [hratio, div_lt_iff₀ (by positivity)]
  calc (n : ℚ) / d < 2 ^ (ilog2 n d + 1) := hhi
    _ ≤ 2 ^ (m + q) := zpow_le_zpow_right₀ one_le_two (by omega)
    _ = ((2 ^ m : Nat) : ℚ) * 2 ^ q := by push_cast; rw [zpow_add₀ two_ne_zero, zpow_natCast]

end

/-- A significand of a normal number that does not exceed the largest finite value has at most its exponent, and there at most its significand. -/
theorem exponent_le {t m b : Nat} {p q : Int} (hfinite : ¬ gtPow t p b q = true) (hnormal : 2 ^ m ≤ t) (hb : b < 2 ^ (m + 1)) :
    p ≤ q ∧ (p = q → t ≤ b) := by
  rw [gtPow_iff, not_lt] at hfinite
  have hq : (0 : ℚ) < 2 ^ q := by positivity
  constructor
  · by_contra hlt
    have habove : (b : ℚ) * 2 ^ q < t * 2 ^ p :=
      calc (b : ℚ) * 2 ^ q < ((2 ^ (m + 1) : Nat) : ℚ) * 2 ^ q := by gcongr
        _ = ((2 ^ m : Nat) : ℚ) * 2 ^ (q + 1) := by rw [zpow_add₀ two_ne_zero]; push_cast; ring
        _ ≤ t * 2 ^ p := by
          gcongr
          · exact one_le_two
          · omega
    exact absurd hfinite (not_le.2 habove)
  · rintro rfl
    exact_mod_cast le_of_mul_le_mul_right hfinite hq

/-- The magnitude of a rounded finite value lies below the sign bit. -/
theorem magnitude_lt {f : Fmt} (hf : f.Fits) (rm : Rm) (r : Nat) (neg : Bool) {n d : Nat} (hn : 0 < n) (hd : 0 < d)
    (hfinite : ¬ gtPow (roundNat rm r neg (scaleBy n d (ilog2 n d - f.man)).1 (scaleBy n d (ilog2 n d - f.man)).2)
      (ilog2 n d - f.man) f.maxMan f.maxExp = true) :
    let q := if ilog2 n d - f.man < f.qmin then f.qmin else ilog2 n d - f.man
    (q - f.qmin).toNat * 2 ^ f.man + roundNat rm r neg (scaleBy n d q).1 (scaleBy n d q).2 < 2 ^ (f.width - 1) := by
  have hexp := hf.maxExp_pos
  have hman : f.maxMan < 2 ^ (f.man + 1) := hf.maxMan_lt
  have hone : 0 < 2 ^ f.man := by positivity
  intro q
  refine lt_of_lt_of_le ?_ hf.place_le
  by_cases hsub : ilog2 n d - f.man < f.qmin
  · have hq : q = f.qmin := if_pos hsub
    have hc := subnormal_le hn hd rm r neg hsub
    rw [hq, sub_self, Int.toNat_zero, zero_mul, zero_add]
    nlinarith
  · have hq : q = ilog2 n d - f.man := if_neg hsub
    obtain ⟨hlo, hhi⟩ := significand_bounds hn hd rm r neg f.man
    obtain ⟨hle, hlast⟩ := exponent_le hfinite hlo hman
    rw [hq]
    rw [pow_succ] at hhi hman
    unfold Fmt.maxExp at hle hlast
    rcases hle.lt_or_eq with hlt | heq
    · have hplace : (ilog2 n d - f.man - f.qmin).toNat + 2 ≤ f.maxCode / 2 ^ f.man := by omega
      nlinarith
    · have hplace : (ilog2 n d - f.man - f.qmin).toNat + 1 = f.maxCode / 2 ^ f.man := by omega
      have hsig := hlast heq
      rw [← hplace]
      nlinarith

theorem roundFinite_lt {f : Fmt} (hf : f.Fits) (sat : Bool) (rm : Rm) (r : Nat) (neg : Bool) {n d : Nat} (hn : 0 < n) (hd : 0 < d) :
    (roundFinite f sat rm r neg n d).1 < 2 ^ f.width := by
  unfold roundFinite
  exact fst_ite_lt (fun _ => overflowCode_lt hf sat rm neg) fun hfinite => hf.signed (magnitude_lt hf rm r neg hn hd hfinite) neg

/-- A value of which a finite one is a ratio over a positive number. -/
def Num.Defined : Machine.Num → Prop
  | .fin _ _ d => 0 < d
  | _ => True

theorem pow2Ratio_pos (m : Nat) (e : Int) : 0 < (pow2Ratio m e).2 := by
  unfold pow2Ratio
  split <;> positivity

theorem decode_defined (f : Fmt) (c : Nat) : (f.decode c).Defined := by
  unfold Fmt.decode
  dsimp only
  split
  · trivial
  · split
    · split <;> trivial
    · split <;> exact pow2Ratio_pos _ _

/-- A rounded value is a code of its format. -/
theorem roundNum_lt {f : Fmt} (hf : f.Fits) (sat : Bool) (rm : Rm) (r : Nat) {x : Machine.Num} (hx : x.Defined) :
    (roundNum f sat rm r x).1 < 2 ^ f.width := by
  have hzero (neg : Bool) : f.signBit neg < 2 ^ f.width := hf.signed (m := 0) (by positivity) neg
  unfold roundNum
  split
  · exact hf.qnan
  · split
    · split
      · exact hf.maxFinite _
      · exact hf.qnan
    · exact hf.infCode _
  · exact hzero _
  · exact roundFinite_lt hf sat rm r _ (Nat.succ_pos _) hx

/-! ### Integer formats (R61) -/

theorem ofS_lt (w : Nat) (z : Int) : ofS w z < 2 ^ w := by
  have hpos : (0 : Int) < 2 ^ w := by positivity
  have hlt := Int.emod_lt_of_pos z hpos
  unfold ofS
  zify
  rwa [Int.toNat_of_nonneg (Int.emod_nonneg z hpos.ne')]

/-- A value converted to an integer format is a code of it. -/
theorem toInteger_lt {w : Nat} (hw : 0 < w) (signed sat : Bool) (rm : Rm) (r : Nat) (x : Machine.Num) :
    (toInteger w signed sat rm r x).1 < 2 ^ w := by
  have hone : 0 < 2 ^ w := by positivity
  have hbad : (if signed then 2 ^ (w - 1) else 2 ^ w - 1) < 2 ^ w := by
    split
    · exact Nat.pow_lt_pow_right one_lt_two (by omega)
    · omega
  have hout (z : Int) : (if sat then (ofS w z, evSAT ||| evNX) else (if signed then 2 ^ (w - 1) else 2 ^ w - 1, evNV)).1 < 2 ^ w := by
    split
    · exact ofS_lt w z
    · exact hbad
  unfold toInteger
  dsimp only
  split
  · split
    · exact hone
    · exact hbad
  · exact hout _
  · exact fst_ite_lt (fun _ => hout _) (fun _ => ofS_lt w _)

end Sys2Proof.Machine
end

section
/-! PROOFS. The drains (R231): the record of an element, its store, and the other events of a core together. -/

namespace Sys2Proof.Machine

open Sys2Proof

/-! ### Bytes of a record (R167) -/

/-- The numbers of n bytes. -/
theorem pow_bytes (n : Nat) : 2 ^ (8 * n) = 256 ^ n := pow_mul 2 8 n

/-- A byte of a number is a byte of its low part, where it lies in it. -/
theorem byte_low (x y : Nat) {n k : Nat} (hk : k < n) : BitVec.ofNat 8 ((x + 256 ^ n * y) / 256 ^ k) = BitVec.ofNat 8 (x / 256 ^ k) := by
  have hsplit : 256 ^ n = 256 ^ k * (256 * 256 ^ (n - k - 1)) := by
    rw [← pow_succ', ← pow_add]
    congr 1
    omega
  rw [hsplit, mul_assoc, Nat.add_mul_div_left _ _ (by positivity), mul_assoc]
  apply BitVec.eq_of_toNat_eq
  simp only [BitVec.toNat_ofNat, Nat.reducePow]
  omega

/-- Above its low part it is a byte of the rest. -/
theorem div_high {x : Nat} (y : Nat) {n : Nat} (hx : x < 256 ^ n) (k : Nat) : (x + 256 ^ n * y) / 256 ^ (n + k) = y / 256 ^ k := by
  rw [pow_add, ← Nat.div_div_eq_div_mul, Nat.add_mul_div_left _ _ (by positivity), Nat.div_eq_of_lt hx, zero_add]

/-- Fields of n bytes, one above the other, as the digits of a number. -/
theorem foldl_fields (t : Nat → Nat) (w n b : Nat) : (List.range b).foldl (fun r k => r + t k * 2 ^ (8 * (w + k * n))) 0 =
    256 ^ w * Nat.ofDigits (256 ^ n) ((List.range b).map t) := by
  induction b with
  | zero => simp
  | succ b ih =>
    have hplace : 2 ^ (8 * (w + b * n)) = 256 ^ w * (256 ^ n) ^ b := by
      rw [pow_bytes, pow_add, ← pow_mul, mul_comm n b]
    rw [List.range_succ, List.foldl_append, ih, List.map_append, Nat.ofDigits_append, List.foldl_cons, List.foldl_nil, hplace]
    simp only [List.length_map, List.length_range, List.map_cons, List.map_nil, Nat.ofDigits_singleton]
    ring

/-- A byte of such a number is a byte of the field that it lies in. -/
theorem byte_field {t : Nat → Nat} {n b : Nat} (hn : 0 < n) (ht : ∀ k < b, t k < 256 ^ n) {k : Nat} (hk : k < b * n) :
    BitVec.ofNat 8 (Nat.ofDigits (256 ^ n) ((List.range b).map t) / 256 ^ k) = BitVec.ofNat 8 (t (k / n) / 256 ^ (k % n)) := by
  have hfield : k / n < b := (Nat.div_lt_iff_lt_mul hn).2 hk
  have hdigits : ∀ x ∈ (List.range b).map t, x < 256 ^ n := by
    simpa using ht
  have hdrop : ((List.range b).map t).drop (k / n) = t (k / n) :: ((List.range b).map t).drop (k / n + 1) := by
    rw [List.drop_eq_getElem_cons (by simpa using hfield)]
    simp
  have hpow : 256 ^ k = (256 ^ n) ^ (k / n) * 256 ^ (k % n) := by
    rw [← pow_mul, ← pow_add, Nat.div_add_mod]
  rw [hpow, ← Nat.div_div_eq_div_mul, Nat.ofDigits_div_pow_eq_ofDigits_drop _ (by positivity) _ hdigits, hdrop, Nat.ofDigits_cons]
  exact byte_low _ _ (Nat.mod_lt _ hn)

/-! ### The codes of a drain (R231) -/

theorem fmtOf_width {ew : Nat} (h : isFloat ew = true) : (fmtOf ew).width = 8 * vwOf ew := by
  unfold isFloat at h
  obtain h : ew ≤ 4 := of_decide_eq_true h
  interval_cases ew <;> rfl

theorem tfmt_width (c : Ctx) : c.tfmt.width = 8 * c.tw := by
  unfold Ctx.tfmt Ctx.tw
  split <;> rfl

theorem drained_defined (L : Lane) (s : State) (d : Nat) (k : Option Nat) : (drained L s d k).Defined :=
  decode_defined fp32 _

theorem drainCode_lt (L : Lane) {x : Machine.Num} (hx : x.Defined) : (drainCode L x).1 < 256 ^ vwOf L.c.ew := by
  rw [← pow_bytes]
  unfold drainCode
  split
  case isTrue h =>
    rw [← fmtOf_width h]
    exact roundNum_lt (fits_fmtOf _) _ _ _ hx
  case isFalse => exact toInteger_lt (Nat.mul_pos (by decide) (vwOf_pos _)) _ _ _ _ _

theorem drainTangent_lt (L : Lane) {x : Machine.Num} (hx : x.Defined) (k : Nat) : (drainTangent L x k).1 < 256 ^ L.c.tw := by
  rw [← pow_bytes, ← tfmt_width]
  exact roundNum_lt (fits_tfmt _) _ _ _ hx

/-- The record that an element of a drain stores: its value and, where the record has them, its tangents above it. -/
def drainRecord (L : Lane) (s : State) (d : Nat) : Nat :=
  (drainCode L (drained L s d none)).1 + (if L.c.rs != L.vw then
    (List.range L.c.b).foldl (fun r k => r + (drainTangent L (drained L s d (some k)) k).1 * 2 ^ (8 * (L.vw + k * L.c.tw))) 0 else 0)

/-- Its tangents' events. -/
def drainEvents (L : Lane) (s : State) (d : Nat) : Ev :=
  if L.c.rs != L.vw then orEvents L.c.b (fun k => (drainTangent L (drained L s d (some k)) k).2) else 0

/-- Each byte of the record is one of its value or of a tangent. -/
theorem drainRecord_byte (L : Lane) (s : State) (d : Nat) {k : Nat} (hk : k < L.c.rs) :
    BitVec.ofNat 8 (drainRecord L s d / 256 ^ k) = BitVec.ofNat 8 (if k < vwOf L.c.ew then (drainCode L (drained L s d none)).1 / 256 ^ k
      else (drainTangent L (drained L s d (some ((k - vwOf L.c.ew) / L.c.tw))) ((k - vwOf L.c.ew) / L.c.tw)).1 /
        256 ^ ((k - vwOf L.c.ew) % L.c.tw)) := by
  have hvalue := drainCode_lt L (drained_defined L s d none)
  have htan (j : Nat) := drainTangent_lt L (drained_defined L s d (some j)) j
  unfold drainRecord Lane.vw
  by_cases hw : L.c.rs = vwOf L.c.ew
  · rw [hw] at hk
    rw [if_pos hk]
    simp [hw]
  · have hrs : L.c.rs = vwOf L.c.ew + L.c.b * L.c.tw := by
      unfold Ctx.rs at hw ⊢
      split
      · simp_all
      · rfl
    rw [if_pos (bne_iff_ne.2 hw), foldl_fields (fun k => (drainTangent L (drained L s d (some k)) k).1)]
    split
    case isTrue h => exact byte_low _ _ h
    case isFalse h =>
      obtain ⟨r, rfl⟩ := Nat.exists_eq_add_of_le (not_lt.1 h)
      rw [div_high _ hvalue, Nat.add_sub_cancel_left]
      exact byte_field L.c.tw_pos (fun j _ => htan j) (by omega)

/-! ### The store of an element (R276) -/

/-- A sequence that completes completes in both its parts. -/
theorem run_bind_ok_inv {α β : Type} {m : M α} {f : α → M β} {s u : State} {b : β} (h : (m >>= f).run s = .ok b u) :
    ∃ a t, m.run s = .ok a t ∧ (f a).run t = .ok b u := by
  cases hm : m.run s with
  | ok a t => exact ⟨a, t, rfl, (run_bind_ok hm).symm.trans h⟩
  | error e t =>
    simp only [bind, EStateM.bind, EStateM.run] at h hm
    rw [hm] at h
    cases h

theorem run_pure_inv {α : Type} {a b : α} {s u : State} (h : (pure a : M α).run s = .ok b u) : a = b := by
  cases h
  rfl

/-- A piece that a chase gives has the bytes asked for (R313). -/
theorem chase_len {r : Req} {a : Acc} {len fuel : Nat} :
    ∀ {va hops : Nat} {s u : State} {p : Piece}, (chase r a va len hops fuel).run s = .ok (.ok p) u → p.len = len := by
  induction fuel with
  | zero => intro va hops s u p h; cases run_pure_inv h
  | succ n ih =>
    intro va hops s u p h
    obtain ⟨o, t, -, h⟩ := run_bind_ok_inv h
    cases o with
    | perm => cases run_pure_inv h
    | miss host => cases run_pure_inv h
    | ok pa fl =>
      dsimp only at h
      rw [run_get_bind] at h
      split at h
      · cases run_pure_inv h
      · split at h
        · cases run_pure_inv h
          rfl
        · split at h
          · cases run_pure_inv h
          · split at h
            · exact ih h
            · split at h
              · obtain ⟨_, _, h, -⟩ := run_bind_ok_inv h
                cases h
              · cases run_pure_inv h
                rfl

/-- An access that one piece serves has all its bytes there (R169). -/
theorem resolve_len {r : Req} {a : Acc} {va len : Nat} {s u : State} {p : Piece} (h : (resolve r a va len).run s = .ok (.ok [p]) u) :
    p.len = len := by
  unfold resolve at h
  split at h
  · cases run_pure_inv h
  · obtain ⟨o, t, hchase, h⟩ := run_bind_ok_inv h
    split at h
    case isTrue hfirst =>
      cases o with
      | error e => cases run_pure_inv h
      | ok q =>
        cases run_pure_inv h
        exact (chase_len hchase).trans hfirst
    case isFalse =>
      obtain ⟨o', t', -, h⟩ := run_bind_ok_inv h
      cases o <;> cases o' <;> cases run_pure_inv h

theorem resolveOr_len {r : Req} {a : Acc} {cause : Nat} {orig : Word} {va len : Nat} {s u : State} {p : Piece}
    (h : (resolveOr r a cause orig va len).run s = .ok [p] u) : p.len = len := by
  obtain ⟨o, t, hres, h⟩ := run_bind_ok_inv h
  cases o with
  | ok ps =>
    cases run_pure_inv h
    exact resolve_len hres
  | error e => cases e <;> cases h

/-- The vector registers and every hart's context are what they were. -/
def KeepsLanes (s t : State) : Prop := (∀ c q, t.vreg c q = s.vreg c q) ∧ KeepsContexts s t

theorem keepsLanes_composes : Composes KeepsLanes where
  refl s := ⟨fun _ _ => rfl, keepsContexts_composes.refl s⟩
  trans a b := ⟨fun c q => (b.1 c q).trans (a.1 c q), keepsContexts_composes.trans a.2 b.2⟩

theorem keepsLanes_of_eq {s t : State} (hcores : t.cores = s.cores) (hctx : KeepsContexts s t) : KeepsLanes s t := by
  refine ⟨fun c q => ?_, hctx⟩
  rw [State.vreg, State.core, hcores]
  rfl

theorem SideOnly.keepsLanes {s t : State} (h : SideOnly s t) : KeepsLanes s t := by
  refine ⟨fun c q => ?_, h.keepsContexts⟩
  have hvf := congrArg Core.vf (h.2 c)
  exact congrArg (Tbl.get 0 · q) hvf

theorem WritesHome.keepsLanes {s t : State} (h : WritesHome s t) : KeepsLanes s t := keepsLanes_of_eq h.cores h.ctx

theorem updSnap_ctx (s : State) (h : Nat) (f : Snap → Snap) : KeepsContexts s (s.updSnap h f) := by
  intro g
  unfold State.updSnap
  split
  · rw [State.ctx, State.updHart_eq, State.hart_setHart]
    split
    · subst_vars; rfl
    · rfl
  · rfl

theorem echo_keepsLanes (s : State) (h : Nat) (ps : List Piece) (v : Nat) : KeepsLanes s (s.echo h ps v) :=
  keepsLanes_of_eq (updSnap_cores s h _) (updSnap_ctx s h _)

/-- An element stored over one piece: its bytes are at home, and neither a register nor a context differs. -/
theorem putPieces_stores (L : Lane) (p : Piece) (v : Nat) (s : State) :
    KeepsLanes s (L.putPieces [p] v s) ∧ (L.putPieces [p] v s).mem = s.mem.writeBytes p.pa (toBytes p.len v) := by
  have hcounted := countHops_sideOnly s L.core [p]
  have hwritten := writePieces_writesHome (s.countHops L.core [p]) (some L.h) [p] v
  have hechoed := echo_keepsLanes ((s.countHops L.core [p]).writePieces (some L.h) [p] v) L.h [p] v
  obtain ⟨m, hdrop⟩ := dropL1_mmu (((s.countHops L.core [p]).writePieces (some L.h) [p] v).echo L.h [p] v) L.core p.pa p.len
  have hput : L.putPieces [p] v s = { ((s.countHops L.core [p]).writePieces (some L.h) [p] v).echo L.h [p] v with mmu := m } := hdrop
  rw [hput]
  refine ⟨keepsLanes_composes.trans (keepsLanes_composes.trans hcounted.keepsLanes hwritten.keepsLanes) hechoed, ?_⟩
  change (((s.countHops L.core [p]).writePieces (some L.h) [p] v).echo L.h [p] v).mem = _
  rw [echo_mem, State.writePieces, State.writePieces, writePa_mem, hcounted.mem]

/-- The store of an element over one piece. -/
theorem writeVa_run (L : Lane) {s u : State} {p : Piece} {ea len : Nat} (v : Nat)
    (h : (resolveOr (s.vecReqOf L.h) .store cVACC (word ea) ea len).run s = .ok [p] u) :
    ∃ t, (L.writeVa ea len v).run s = .ok [p] t ∧ KeepsLanes s t ∧ t.mem = s.mem.writeBytes p.pa (toBytes len v) := by
  have hside : SideOnly s u := by
    have hkeeps := resolveOr_keeps (r := s.vecReqOf L.h) rfl .store cVACC (word ea) ea len s
    unfold KeepsAt at hkeeps
    rwa [h] at hkeeps
  obtain ⟨hlanes, hmem⟩ := putPieces_stores L p v u
  obtain ⟨m, hbehind⟩ := markBehind_mmu (L.putPieces [p] v u) p
  rw [resolveOr_len h, hside.mem] at hmem
  have hrun : (L.writeVa ea len v).run s = .ok [p] (if L.ordered then (L.putPieces [p] v u).markBehind p else L.putPieces [p] v u) := by
    unfold Lane.writeVa
    rw [run_get_bind, run_bind_ok h]
    rfl
  refine ⟨_, hrun, ?_⟩
  split
  · rw [hbehind]
    exact ⟨keepsLanes_composes.trans hside.keepsLanes hlanes, hmem⟩
  · exact ⟨keepsLanes_composes.trans hside.keepsLanes hlanes, hmem⟩

/-! ### The drains (R231) -/

/-- An element of a drain that the mask leaves out does nothing. -/
theorem drain_masked {L : Lane} {m : Bool} (hm : MaskedOff L m) (f : Drain) (d : Nat) (a : BitVec 7) (s : State) :
    (L.drain f d a m).run s = .ok () s := by
  have hactive : ¬ L.active m = true := fun h => (active_iff L m).1 h hm
  unfold Lane.drain
  rw [if_neg hactive]
  rfl

/-- What an element of a drain does after its store: its events, and nothing where no tile has moved. -/
theorem drain_run {L : Lane} {m : Bool} (hm : ¬ MaskedOff L m) (f : Drain) (d : Nat) (a : BitVec 7) {s t : State} {p : Piece}
    (hstore : (L.writeVa (L.drainAddr s (s.anvil L.core).shape.ng f L.i) L.c.rs (drainRecord L s d)).run s = .ok [p] t) (hhops : p.hops = 0) :
    (L.drain f d a m).run s = .ok () (t.raise L.h L.e.seq L.i (drainCode L (drained L s d none)).2 (drainEvents L s d)) := by
  have hrewrite (addr : Nat → List (Nat × Nat)) (ea : Nat) (u : State) : (L.rewriteOpa a L.c.vl m addr ea [p]).run u = .ok () u := by
    simp only [Lane.rewriteOpa, hhops]
    rfl
  unfold Lane.drain
  rw [if_pos ((active_iff L m).2 hm), run_get_bind]
  refine (run_bind_ok hstore).trans ?_
  cases f with
  | indexed b => rfl
  | unit => exact hrewrite _ _ _
  | strided => exact hrewrite _ _ _

/-- The meaning of a drain and the address of its element. -/
theorem perform_drain {L : Lane} {s : State} {i : Instr} {d ea : Nat} {m : Bool} (h : drainForm L s i = some (d, m, ea)) :
    ∃ f a, L.perform i = L.drain f d a m ∧ ea = L.drainAddr s (s.anvil L.core).shape.ng f L.i := by
  cases i
  case mdrain => cases h; exact ⟨.unit, _, rfl, rfl⟩
  case mdrainS => cases h; exact ⟨.strided, _, rfl, rfl⟩
  case mdrainX => cases h; exact ⟨.indexed _, 0, rfl, rfl⟩
  -- no other word drains
  all_goals exact absurd h.symm (Option.some_ne_none _)

/-- An element of a drain stores its record and raises its events; no register differs. -/
theorem drain_stores {L : Lane} {s : State} {i : Instr} {d ea : Nat} {m : Bool} (hform : drainForm L s i = some (d, m, ea)) (hm : ¬ MaskedOff L m)
    {p : Piece} {u : State} (hres : (resolveOr (s.vecReqOf L.h) .store cVACC (word ea) ea L.c.rs).run s = .ok [p] u) (hhops : p.hops = 0) :
    ∃ t, (L.perform i).run s = .ok () t ∧ (∀ c q, t.vreg c q = s.vreg c q) ∧ (∀ h r, t.x h r = s.x h r) ∧
      t.mem = s.mem.writeBytes p.pa (toBytes L.c.rs (drainRecord L s d)) ∧
      Raised L s t (drainCode L (drained L s d none)).2 (drainEvents L s d) := by
  obtain ⟨f, a, hperform, rfl⟩ := perform_drain hform
  obtain ⟨t, hstore, ⟨hvreg, hctx⟩, hmem⟩ := writeVa_run L (drainRecord L s d) hres
  refine ⟨_, (congrArg (fun m : M Unit => m.run s) hperform).trans (drain_run hm f d a hstore hhops), fun c q => ?_, fun h r => ?_, ?_,
    raise_raised L (hctx L.h) _ _ _ _⟩
  · rw [raise_vreg, hvreg]
  · rw [raise_x, State.x, hctx]
    rfl
  · rw [raise_mem, hmem]

end Sys2Proof.Machine

open Sys2Proof Sys2Proof.Machine

/-- Settles O38: each event by what its meaning leaves, and a drain by the bytes of its record, whose codes fit their fields. -/
theorem coreEvents : Obligations.CoreEvents := by
  unfold Obligations.CoreEvents
  refine ⟨fun s c h rest u hin hgate hlast helem => ?_, fun s c h rest hr => remoteReply_latches hr,
    fun s c h j e w p pass hword hgrant hpass => layerPass_adds hword hgrant hpass, fun s c tid hrel hdone hjob => anvilFree_frees hrel hdone hjob,
    ?_, ?_, fun L s i d m ea hform => ⟨fun hm => ?_, fun hm p u hres hhops hmem => ?_⟩⟩
  · have hports : KeepsInboxes s u := by
      have hquiet := quiet_elementStep h (s.ctx h).vs s
      unfold KeepsAt at hquiet
      rwa [helem] at hquiet
    obtain ⟨hremote, hvs⟩ := delivered_hart s u c h
    refine ⟨_, exec_remoteBufferMessage hin hgate hlast helem, ?_, hremote, hvs, delivered_replies s u c h, delivered_mem s u c h⟩
    rw [delivered_inbox, hports, hin, List.erase_cons_head]
  · intro s c layer q hlayer limit back
    obtain ⟨t, hrun, hhot, hover, hothers⟩ := layerTempReport_reads s c layer q
    refine ⟨t, hrun, fun hq => ?_, fun hq hb => ?_, fun hq hb => ?_, ?_, hothers⟩
    · rw [hhot, Core.layerRead, anvilLimits_eq, if_pos hq, Nat.mod_eq_of_lt hlayer]
    · rw [hhot, Core.layerRead, anvilLimits_eq, if_neg (Nat.not_le.2 hq), if_pos hb, Nat.mod_eq_of_lt hlayer]
    · rw [hhot, Core.layerRead, anvilLimits_eq, if_neg (Nat.not_le.2 hq), if_neg (Nat.not_lt.2 hb)]
    · rw [hover, Core.layerRead, anvilLimits_eq, Nat.mod_eq_of_lt hlayer]
      split <;> rfl
  · intro s cl hp real
    refine ⟨_, exec_slewStep hp, ?_, ?_, fun k hk => ?_, rfl⟩
    · rw [State.cluster_updCluster, if_pos rfl, slewDown_eq]
      rfl
    · rw [State.cluster_updCluster, if_pos rfl]
      simp only [bit, decide_eq_true_eq]
      rfl
    · rw [State.cluster_updCluster, if_neg hk.symm]
  · obtain ⟨f, a, hperform, -⟩ := perform_drain hform
    rw [hperform]
    exact drain_masked hm f d a s
  · intro w v tan
    obtain ⟨t, hrun, hvreg, hx, hstored, hraised⟩ := drain_stores hform hm hres hhops
    refine ⟨t, hrun, hvreg, hx, fun k hk => ?_, sameMemBut_writeBytes hstored, ?_⟩
    · exact (holds_writeBytes hmem hstored k hk).trans (drainRecord_byte L s d hk)
    · simp only [drainEvents, bne_iff_ne, ne_eq, ite_not] at hraised
      exact hraised
end

section
/-! PROOFS. The matrix words at issue (R37, R216, R219 to R221, R233, R235): what they wait for, what they do to their core's Anvil, and their
place in the queue. -/

namespace Sys2Proof.Machine

open Sys2Proof

/-! ### Waits for older matrix words (R221, R233, R235) -/

theorem olderWords_subset {s : State} {h : Nat} {e : QEntry} (he : e ∈ s.olderWords h) : e ∈ (s.hart h).queue := by
  unfold State.olderWords at he
  split at he
  · cases he
  · next q hq =>
    split at he
    · cases he
    · rwa [hq]

/-- A multiplying word runs ahead (R37). -/
theorem runsAhead_of_isMmul {i : Instr} (h : isMmul i = true) : runsAhead i = true := by
  unfold isMmul at h
  split at h
  case h_11 => cases h
  all_goals rfl

/-- Of every instruction, loading a plane says no more than running ahead. -/
theorem runsAhead_or_isMlds (i : Instr) : (runsAhead i || isMlds i) = runsAhead i := by
  cases i <;> rfl

theorem runsAhead_of_isMlds {i : Instr} (h : isMlds i = true) : runsAhead i = true := by
  rw [← runsAhead_or_isMlds, h, Bool.or_true]

/-- An entry that does not run ahead is complete, or of no kind of word that does. -/
theorem not_kind_of_not_ahead {e : QEntry} (he : e.ahead = false) {p : Instr → Bool} (hp : ∀ i, p i = true → runsAhead i = true) :
    (!e.done && (e.instr.map p).getD false) = false := by
  unfold QEntry.ahead at he
  cases hi : e.instr with
  | none => simp
  | some i =>
    rw [hi] at he
    cases hk : p i with
    | false => simp [hk]
    | true =>
      have hdone : e.done = true := by simpa [hp i hk] using he
      simp [hdone]

section
variable {s : State} {h : Nat} (hfree : matrixFree s h)
include hfree

theorem needMatrixDone_run : (needMatrixDone h).run s = .ok () s := by
  have hnone : (s.olderWords h).any QEntry.ahead = false :=
    List.any_eq_false.2 fun e he => by simp [(hfree.1 e (olderWords_subset he)).1]
  unfold needMatrixDone
  rw [run_get_bind, hnone]
  rfl

theorem needShapeIdle_run : (needShapeIdle h).run s = .ok () s := by
  have hmmul : (s.olderWords h).any QEntry.mmul = false := List.any_eq_false.2 fun e he => by
    simp [QEntry.mmul, not_kind_of_not_ahead (hfree.1 e (olderWords_subset he)).1 fun _ => runsAhead_of_isMmul]
  have hdrain : (s.olderWords h).any (fun e => !e.done && (e.instr.map isDrain).getD false) = false := List.any_eq_false.2 fun e he => by
    obtain ⟨-, hd⟩ := hfree.1 e (olderWords_subset he)
    cases hdone : e.done with
    | true => simp
    | false => simp [hd hdone]
  unfold needShapeIdle
  rw [run_get_bind]
  dsimp only
  rw [hmmul, hdrain]
  rfl

theorem needPlaneFree_run : (needPlaneFree h).run s = .ok () s := by
  unfold needPlaneFree
  rw [run_get_bind]
  dsimp only
  rw [if_neg]
  · rfl
  · rw [Bool.not_eq_true, List.any_eq_false]
    intro x hx
    have hahead := (hfree.1 x.1 (List.fst_mem_of_mem_zipIdx hx)).1
    simp [QEntry.mmul, not_kind_of_not_ahead hahead fun _ => runsAhead_of_isMmul, not_kind_of_not_ahead hahead fun _ => runsAhead_of_isMlds]

end

/-! ### What the words do at issue -/

/-- What the action of a word of hart h at issue leaves of harts and memory: it has written x[d], and no more. -/
def Wrote (s u : State) (h : Nat) (d : BitVec 7) (v : Word) : Prop := u.harts = (s.setX h d v).harts ∧ u.mem = s.mem

theorem setX_mem (s : State) (h : Nat) (d : BitVec 7) (v : Word) : (s.setX h d v).mem = s.mem := by
  unfold State.setX
  split <;> rfl

theorem setX_cores (s : State) (h : Nat) (d : BitVec 7) (v : Word) : (s.setX h d v).cores = s.cores := by
  unfold State.setX
  split <;> rfl

theorem anvil_setX (s : State) (h : Nat) (d : BitVec 7) (v : Word) (c : Nat) : (s.setX h d v).anvil c = s.anvil c := by
  rw [State.anvil, State.core, setX_cores]
  rfl

theorem anvil_updAnvil (s : State) (c : Nat) (f : Anvil → Anvil) : (s.updAnvil c f).anvil c = f (s.anvil c) := by
  simp [State.updAnvil, State.anvil]

theorem wrote_setX (s : State) (h : Nat) (d : BitVec 7) (v : Word) : Wrote s (s.setX h d v) h d v := ⟨rfl, setX_mem s h d v⟩

/-- An action that changes an Anvil and then writes x[d] has done no more to harts and memory. -/
theorem wrote_updAnvil_setX (s : State) (c h : Nat) (f : Anvil → Anvil) (d : BitVec 7) (v : Word) :
    Wrote s ((s.updAnvil c f).setX h d v) h d v := by
  refine ⟨?_, setX_mem _ h d v⟩
  unfold State.setX
  split <;> rfl

theorem shapeOf_eq (r : Nat) : shapeOf r = granted r := by
  simp [shapeOf, granted, bits, reqSx, reqPs, reqSpn, reqFmt]

theorem grantWord_eq (s : State) (h r : Nat) :
    word (2 ^ 63 + (s.core (coreOf h)).avail * 2 ^ 56 + (granted r).grant) = grantWord s (coreOf h) r := by
  rw [grantWord, Shape.grant, ← Nat.add_assoc, ← Nat.add_assoc]

theorem run_modify (f : State → State) (s : State) : (modify f : M Unit).run s = .ok () (f s) := rfl

theorem ownsAnvil_eq {s : State} {h tid : Nat} (htask : (s.hart h).task = some tid) :
    s.ownsAnvil h = decide ((s.anvil (coreOf h)).owner = some tid) := by
  rw [State.ownsAnvil, htask]
  exact Bool.beq_eq_decide_eq _ _

theorem reqRel_word (w : Word) : reqRel w.toNat = w.msb := by
  rw [BitVec.msb_eq_decide, reqRel, bit]
  have := w.isLt
  congr 1
  simp only [eq_iff_iff]
  omega

/-- The state in which an mshape of task tid with request r has acted at issue (R216, R220). -/
def shapedBy (s : State) (h tid : Nat) (d : BitVec 7) (r : Nat) : State :=
  let c := coreOf h
  if reqRel r then
    if (s.anvil c).owner = some tid then
      (s.setX h d 0).updAnvil c (fun a => { a with owner := none, releasing := some tid, relDone := false })
    else s.setX h d 0
  else if (s.anvil c).owner = some tid then (s.updAnvil c (fun a => { a with shape := granted r })).setX h d (grantWord s c r)
  else if (s.anvil c).owner.isSome || (s.anvil c).releasing.isSome then s.setX h d 0
  else
    ((s.updAnvil c (fun _ => { Anvil.free with owner := some tid, shape := granted r })).setX h d (grantWord s c r)).updTask tid
      (fun t => { t with anvilCore := some c })

section
variable {s : State} {h tid : Nat} (htask : (s.hart h).task = some tid) {e : QEntry} (d : BitVec 7)
include htask

theorem ownsAnvil_setX (v : Word) : (s.setX h d v).ownsAnvil h = s.ownsAnvil h := by
  have htask' : ((s.setX h d v).hart h).task = some tid := by rw [setX_ctx]; exact htask
  rw [ownsAnvil_eq htask, ownsAnvil_eq htask', anvil_setX]

/-- Where no older word holds it up, and no release of its own task's, it acts. -/
theorem mshapeAct_run (hfree : matrixFree s h) (hrel : reqRel e.opA.toNat = true ∨ (s.anvil (coreOf h)).releasing ≠ some tid) :
    (mshapeAct h d e).run s = .ok () (shapedBy s h tid d e.opA.toNat) := by
  have howns := ownsAnvil_eq htask
  unfold mshapeAct shapedBy
  rw [run_get_bind]
  dsimp only
  by_cases howner : (s.anvil (coreOf h)).owner = some tid
  · cases hreq : reqRel e.opA.toNat with
    | true =>
      simp only [howns, howner, decide_true, if_true, htask]
      rw [run_bind_ok (needShapeIdle_run hfree), run_bind_ok (needMatrixDone_run hfree), run_modify, ownsAnvil_setX htask, howns, howner]
      simp only [decide_true, if_true]
    | false =>
      have hother : (s.anvil (coreOf h)).releasing ≠ some tid := hrel.resolve_left (by simp [hreq])
      simp only [howns, howner, decide_true, if_true, htask, Bool.false_eq_true, if_false]
      rw [run_bind_ok (needShapeIdle_run hfree)]
      simp only [beq_eq_false_iff_ne.2 hother, Bool.and_false, Bool.false_eq_true, if_false, shapeOf_eq, grantWord_eq, run_modify]
  · cases hreq : reqRel e.opA.toNat with
    | true =>
      simp only [howns, howner, decide_false, if_true, htask, Bool.false_eq_true, if_false, run_modify, ownsAnvil_setX htask]
    | false =>
      have hother : (s.anvil (coreOf h)).releasing ≠ some tid := hrel.resolve_left (by simp [hreq])
      simp only [howns, howner, decide_false, htask, Bool.false_eq_true, if_false, beq_eq_false_iff_ne.2 hother, Bool.and_false,
        shapeOf_eq, grantWord_eq]
      split <;> rfl
end

section
variable (s : State) (h tid : Nat) (d : BitVec 7) {r : Nat}

/-- A release writes 0, and gives up the Anvil of its own task alone (R216). -/
theorem shapedBy_releases (hrel : reqRel r = true) :
    Wrote s (shapedBy s h tid d r) h d 0 ∧
    (shapedBy s h tid d r).anvil (coreOf h) = if (s.anvil (coreOf h)).owner = some tid then
      { s.anvil (coreOf h) with owner := none, releasing := some tid, relDone := false } else s.anvil (coreOf h) := by
  unfold shapedBy
  dsimp only
  rw [if_pos hrel]
  split
  · exact ⟨wrote_setX s h d 0, by rw [anvil_updAnvil, anvil_setX]⟩
  · exact ⟨wrote_setX s h d 0, anvil_setX s h d 0 _⟩

variable (hrel : reqRel r = false)
include hrel

/-- A request of the owner reshapes its Anvil and leaves the tiles and planes (R220). -/
theorem shapedBy_reshapes (howner : (s.anvil (coreOf h)).owner = some tid) :
    Wrote s (shapedBy s h tid d r) h d (grantWord s (coreOf h) r) ∧
    (shapedBy s h tid d r).anvil (coreOf h) = { s.anvil (coreOf h) with shape := granted r } := by
  unfold shapedBy
  dsimp only
  rw [if_neg (by rw [hrel]; decide), if_pos howner]
  exact ⟨wrote_updAnvil_setX .., by rw [anvil_setX, anvil_updAnvil]⟩

/-- One for a free Anvil gets it empty. -/
theorem shapedBy_acquires (howner : (s.anvil (coreOf h)).owner = none) (hfree : (s.anvil (coreOf h)).releasing = none) :
    Wrote s (shapedBy s h tid d r) h d (grantWord s (coreOf h) r) ∧
    (shapedBy s h tid d r).anvil (coreOf h) = { Anvil.free with owner := some tid, shape := granted r } := by
  obtain ⟨hharts, hmem⟩ := wrote_updAnvil_setX s (coreOf h) h (fun _ => { Anvil.free with owner := some tid, shape := granted r }) d
    (grantWord s (coreOf h) r)
  unfold shapedBy
  dsimp only
  rw [if_neg (by rw [hrel]; decide), if_neg (by simp [howner]), if_neg (by simp [howner, hfree])]
  refine ⟨⟨(State.updTask_harts _ _ _).trans hharts, (State.updTask_mem _ _ _).trans hmem⟩, ?_⟩
  rw [State.anvil, State.updTask_at_core]
  exact (anvil_setX _ h d _ _).trans (anvil_updAnvil s _ _)

/-- One for an Anvil that another task holds or gives up is refused. -/
theorem shapedBy_refused (hown : (s.anvil (coreOf h)).owner ≠ some tid)
    (hheld : ((s.anvil (coreOf h)).owner.isSome || (s.anvil (coreOf h)).releasing.isSome) = true) :
    shapedBy s h tid d r = s.setX h d 0 := by
  unfold shapedBy
  dsimp only
  rw [if_neg (by rw [hrel]; decide), if_neg hown, if_pos hheld]

end

/-- The plane that an mlds fixes (R221). -/
def Anvil.freshPlane (a : Anvil) (j0 : Nat) : Plane :=
  { fmt := a.shape.fmt, spn := a.shape.spn, ps := a.shape.ps, sx := a.shape.sx, kg := a.shape.kg, ng := a.shape.ng, j0 := j0, weights := [] }

/-- An Anvil after an mlds at issue. -/
def Anvil.planeBegun (a : Anvil) (j0 : Nat) : Anvil :=
  { a.setPlane (a.loads % 2) (some (a.freshPlane j0)) with active := a.loads % 2, loads := a.loads + 1 }

theorem mldsAct_run {s : State} {h : Nat} (hfree : matrixFree s h) (e : QEntry) :
    (mldsAct h e).run s = .ok () (s.updAnvil (coreOf h) (fun a => a.planeBegun (bits e.opA.toNat 63 24))) := by
  unfold mldsAct
  rw [run_bind_ok (needPlaneFree_run hfree)]
  rfl

theorem setPlane_tiles (a : Anvil) (n : Nat) (p : Option Plane) : (a.setPlane n p).tiles = a.tiles := by
  unfold Anvil.setPlane
  split <;> rfl

theorem plane_setPlane (a : Anvil) (n : Nat) (p : Option Plane) : (a.setPlane n p).plane n = p := by
  unfold Anvil.setPlane Anvil.plane
  split <;> rfl

/-- The plane begun is the active one. -/
theorem planeBegun_activePlane (a : Anvil) (j0 : Nat) : (a.planeBegun j0).activePlane = some (a.freshPlane j0) :=
  plane_setPlane a (a.loads % 2) (some (a.freshPlane j0))

theorem mstatAct_run {s : State} {h : Nat} (hfree : matrixFree s h) (d : BitVec 7) (e : QEntry) :
    (mstatAct h d e).run s = .ok () (s.setX h d (word (s.mstat h))) := by
  unfold mstatAct
  rw [run_bind_ok (needMatrixDone_run hfree)]
  rfl

/-! ### Issue -/

/-- The issue of a queue word with K = 1 that fails no check and whose action completes. -/
theorem issueWith_next {i : Instr} {w : Nat} {done : Bool} {act : QEntry → M Unit} {s u : State} {v : VWord}
    (hv : vword (s.ctx s.turn) i = some v) (hk : v.k = true) (hwith : ∀ a, v.withOpA a i = v)
    (hb : issueBad s s.turn v (s.entryOf s.turn v w done).opA (s.entryOf s.turn v w done).opB i = false)
    (hq : (s.hart s.turn).queue.length < 32) (hact : (act (s.entryOf s.turn v w done)).run s = .ok () u) :
    issueWith i w done act s = .next (u.enqueue s.turn v.alone (s.entryOf s.turn v w done)) := by
  have hconvoy : s.convoyOk s.turn v = true := by simp [State.convoyOk, hk]
  have hroom : ¬ 32 ≤ (s.hart s.turn).queue.length := Nat.not_le.2 hq
  simp only [issueWith, hv, hwith, hconvoy, hb, hroom, Bool.not_true, Bool.false_eq_true, if_false, decide_false, State.finish]
  rw [run_bind_ok hact]
  rfl

section
variable {s u t : State} {h : Nat} {d : BitVec 7} {v : Word} (hu : Wrote s u h d v)
include hu

theorem Wrote.hart (g : Nat) : u.hart g = (s.setX h d v).hart g := by
  rw [State.hart, hu.1]
  rfl

/-- A word whose action has written x[d] has issued once the other harts and memory stand and its own context has moved past it. -/
theorem Wrote.issuedAlone (hmem : t.mem = u.mem) (hothers : ∀ g, g ≠ h → t.hart g = u.hart g)
    (hctx : t.ctx h = { issuedCtx (u.ctx h) with vs := (t.ctx h).vs }) : IssuedAlone s t h ∧ WritesX s t h d v := by
  have hctxu : u.ctx h = { s.ctx h with x := ((s.setX h d v).ctx h).x } := by
    rw [State.ctx, hu.hart, setX_ctx]
  have hpast := hctx
  rw [hctxu] at hpast
  refine ⟨⟨?_, ?_, fun b => ?_, fun g hg => ?_⟩, fun r => ?_⟩
  · rw [State.pc, hpast]; rfl
  · rw [hpast]; rfl
  · rw [hmem, hu.2]
  · rw [hothers g hg, hu.hart]
    exact (setX_onlyHart s h d v).2.2 g hg
  · have hregs : (t.ctx h).x = ((s.setX h d v).ctx h).x := by rw [hpast]; rfl
    have hx : t.x h r = (s.setX h d v).x h r := by rw [State.x, hregs, State.x]
    rw [hx, State.x_setX]
    simp

/-- One that is not complete stands behind the others in the queue, and what the action did to its core stands. -/
theorem Wrote.issuedBehind {i : Instr} {n : Nat} {w : VWord} (hn : encodeNat i = some n) :
    IssuedBehind s (u.enqueue h w.alone (s.entryOf h w n false)) h i (s.entryOf h w n false).opA ∧
    WritesX s (u.enqueue h w.alone (s.entryOf h w n false)) h d v ∧
    ∀ c, (u.enqueue h w.alone (s.entryOf h w n false)).anvil c = u.anvil c := by
  have hhart := enqueue_hart u h w.alone (e := s.entryOf h w n false) rfl
  obtain ⟨hrest, hcores⟩ := enqueue_rest u h w.alone (e := s.entryOf h w n false) rfl
  have hself := (hhart h).trans (if_pos rfl)
  have hqueue : (u.hart h).queue = (s.hart h).queue := by rw [hu.hart, setX_ctx]
  obtain ⟨halone, hwrites⟩ := hu.issuedAlone (t := u.enqueue h w.alone (s.entryOf h w n false)) (by rw [hrest.eq])
    (fun g hg => (hhart g).trans (if_neg hg.symm)) (by rw [State.ctx, hself]; rfl)
  refine ⟨⟨halone, s.entryOf h w n false, ?_, rfl, rfl, rfl, rfl, fun w' hw => ?_⟩, hwrites, fun c => ?_⟩
  · rw [hself, ← hqueue]; rfl
  · rw [encode, hn] at hw
    exact Option.some.inj hw
  · have hc := congrArg Core.anvil (hcores c)
    exact hc

end

/-- The issue of a word that stands in the queue until the gate releases it: what its action wrote and did to the Anvils stands. -/
theorem issueWith_behind {i : Instr} {n : Nat} {act : QEntry → M Unit} {s u : State} {w : VWord} {d : BitVec 7} {v : Word}
    (hw : vword (s.ctx s.turn) i = some w) (hk : w.k = true) (hwith : ∀ a, w.withOpA a i = w)
    (hb : issueBad s s.turn w (s.entryOf s.turn w n false).opA (s.entryOf s.turn w n false).opB i = false)
    (hq : (s.hart s.turn).queue.length < 32) (hn : encodeNat i = some n) (hact : (act (s.entryOf s.turn w n false)).run s = .ok () u)
    (hu : Wrote s u s.turn d v) :
    ∃ t, issueWith i n false act s = .next t ∧ IssuedBehind s t s.turn i (s.entryOf s.turn w n false).opA ∧ WritesX s t s.turn d v ∧
      ∀ c, t.anvil c = u.anvil c :=
  ⟨_, issueWith_next hw hk hwith hb hq hact, hu.issuedBehind hn⟩

theorem settle_ctx (t : Hart) : t.settle.ctx = { t.ctx with vs := t.settle.ctx.vs } := by
  unfold Hart.settle
  dsimp only
  split <;> rfl

/-- An entry that is complete at issue, of a word that multiplies nothing, changes its hart alone. -/
theorem enqueue_done (u : State) (h : Nat) (alone : Bool) {e : QEntry} {i : Instr} (he : e.done = true) (hi : e.instr = some i)
    (hm : isMmul i = false) : u.enqueue h alone e = u.setHart h (((u.hart h).entered alone e).settle) := by
  unfold State.enqueue
  simp only [he, hi, hm, Bool.false_and, Bool.false_eq_true, if_false, if_true, State.updHart_eq]
  rfl

theorem Wrote.issuedDone {s u : State} {h : Nat} {d : BitVec 7} {v : Word} (hu : Wrote s u h d v) (alone : Bool) {e : QEntry} {i : Instr}
    (he : e.done = true) (hi : e.instr = some i) (hm : isMmul i = false) :
    IssuedAlone s (u.enqueue h alone e) h ∧ WritesX s (u.enqueue h alone e) h d v ∧ ∀ c, (u.enqueue h alone e).core c = u.core c := by
  rw [enqueue_done u h alone he hi hm]
  obtain ⟨halone, hwrites⟩ := hu.issuedAlone (t := u.setHart h (((u.hart h).entered alone e).settle)) rfl
    (fun g hg => (State.hart_setHart ..).trans (if_neg hg.symm))
    (by rw [State.ctx_setHart, if_pos rfl]; exact settle_ctx _)
  exact ⟨halone, hwrites, fun _ => rfl⟩

/-- The word of an mstat decodes to it. -/
theorem decodeQueue_mstat (d : BitVec 7) : decodeQueue (wordR 0x38 6 true d.toNat 0 0) = some (.ok (.mstat true d)) := by
  obtain ⟨hmaj, hfn, hb, ha, hd', hk⟩ := Laws.wordR_fields (m := 0x38) (f := 6) (d := d.toNat) (a := 0) (b := 0) true (by decide) (by decide)
    (by decide) (by decide) d.isLt
  generalize wordR 0x38 6 true d.toNat 0 0 = n at *
  simp only [decodeQueue, hmaj, hfn, hb, ha, hd', hk]
  simp [dec38, chk]

/-- The entry of a word names what the word decodes to. -/
theorem entryOf_instr {n : Nat} {i : Instr} (hn : n < 2 ^ 32) (hdec : decodeQueue n = some (.ok i)) (s : State) (h : Nat) (v : VWord)
    (done : Bool) : (s.entryOf h v n done).instr = some i := by
  have hword : (s.entryOf h v n done).word.toNat = n := Nat.mod_eq_of_lt hn
  rw [QEntry.instr, hword, hdec]

theorem mstat_instr (s : State) (h : Nat) (v : VWord) (d : BitVec 7) (done : Bool) :
    (s.entryOf h v (wordR 0x38 6 true d.toNat 0 0) done).instr = some (.mstat true d) := by
  have hlt : wordR 0x38 6 true d.toNat 0 0 < 2 ^ 32 :=
    Laws.wordR_lt true (by decide) (by decide) (by decide) (by decide) d.isLt
  exact entryOf_instr hlt (decodeQueue_mstat d) s h v done

section
variable {s : State} (hfree : matrixFree s s.turn)
include hfree

theorem mstat_issues (d : BitVec 7) : ∃ t, exec (.mstat true d) s = .next t ∧ IssuedAlone s t s.turn ∧
    WritesX s t s.turn d (word (s.mstat s.turn)) ∧ t.core (coreOf s.turn) = s.core (coreOf s.turn) := by
  obtain ⟨halone, hwrites, hcores⟩ := (wrote_setX s s.turn d (word (s.mstat s.turn))).issuedDone (front .M true d).alone
    (e := s.entryOf s.turn (front .M true d) (wordR 0x38 6 true d.toNat 0 0) true) rfl (mstat_instr ..) rfl
  refine ⟨_, issueWith_next (i := .mstat true d) (v := front .M true d) rfl rfl (fun _ => rfl) rfl hfree.2 (mstatAct_run hfree d _), halone,
    hwrites, (hcores _).trans ?_⟩
  rw [State.core, setX_cores]
  rfl

/-- An mshape whose request is in order stands in the queue once it has acted. -/
theorem mshape_issues {tid : Nat} (htask : (s.hart s.turn).task = some tid) {a d : BitVec 7} (hbad : mshapeBad (s.x s.turn a).toNat = false)
    (hrel : reqRel (s.x s.turn a).toNat = true ∨ (s.anvil (coreOf s.turn)).releasing ≠ some tid) {v : Word} {k : Anvil}
    (hshaped : Wrote s (shapedBy s s.turn tid d (s.x s.turn a).toNat) s.turn d v ∧
      (shapedBy s s.turn tid d (s.x s.turn a).toNat).anvil (coreOf s.turn) = k) :
    ∃ t, exec (.mshape true d a) s = .next t ∧ IssuedBehind s t s.turn (.mshape true d a) (s.x s.turn a) ∧ WritesX s t s.turn d v ∧
      t.anvil (coreOf s.turn) = k := by
  obtain ⟨hwrote, hanvil⟩ := hshaped
  obtain ⟨t, hexec, hbehind, hwrites, hanvils⟩ := issueWith_behind (i := .mshape true d a) rfl rfl (fun _ => rfl) hbad hfree.2 rfl
    (mshapeAct_run htask d hfree hrel) hwrote
  exact ⟨t, hexec, hbehind, hwrites, (hanvils _).trans hanvil⟩

/-- mshape grants a free Anvil, empty, and reshapes its owner's (R216, R220). -/
theorem mshape_grants {tid : Nat} (htask : (s.hart s.turn).task = some tid) {a d : BitVec 7} (hbad : mshapeBad (s.x s.turn a).toNat = false)
    (hmsb : (s.x s.turn a).msb = false)
    (howner : (s.anvil (coreOf s.turn)).owner = none ∨ (s.anvil (coreOf s.turn)).owner = some tid)
    (hrel : (s.anvil (coreOf s.turn)).releasing = none) :
    ∃ t, exec (.mshape true d a) s = .next t ∧ IssuedBehind s t s.turn (.mshape true d a) (s.x s.turn a) ∧
      WritesX s t s.turn d (grantWord s (coreOf s.turn) (s.x s.turn a).toNat) ∧ (t.anvil (coreOf s.turn)).owner = some tid ∧
      (t.anvil (coreOf s.turn)).shape = granted (s.x s.turn a).toNat ∧
      (if (s.anvil (coreOf s.turn)).owner = none then (∀ k, Tbl.get 0 (t.anvil (coreOf s.turn)).tiles k = 0) ∧
        (t.anvil (coreOf s.turn)).plane0 = none ∧ (t.anvil (coreOf s.turn)).plane1 = none
       else { t.anvil (coreOf s.turn) with shape := (s.anvil (coreOf s.turn)).shape } = s.anvil (coreOf s.turn)) := by
  have hreq := (reqRel_word _).trans hmsb
  have hother : (s.anvil (coreOf s.turn)).releasing ≠ some tid := by rw [hrel]; exact nofun
  obtain hnone | hsome := howner
  · obtain ⟨t, hexec, hbehind, hwrites, hanvil⟩ :=
      mshape_issues hfree htask hbad (.inr hother) (shapedBy_acquires s s.turn tid d hreq hnone hrel)
    refine ⟨t, hexec, hbehind, hwrites, ?_⟩
    rw [if_pos hnone, hanvil]
    exact ⟨rfl, rfl, fun _ => rfl, rfl, rfl⟩
  · obtain ⟨t, hexec, hbehind, hwrites, hanvil⟩ :=
      mshape_issues hfree htask hbad (.inr hother) (shapedBy_reshapes s s.turn tid d hreq hsome)
    refine ⟨t, hexec, hbehind, hwrites, ?_⟩
    rw [if_neg (by rw [hsome]; exact nofun), hanvil]
    exact ⟨hsome, rfl, rfl⟩

/-- It answers 0 where another task holds the Anvil or one is releasing it. -/
theorem mshape_refused {tid : Nat} (htask : (s.hart s.turn).task = some tid) {a d : BitVec 7} (hbad : mshapeBad (s.x s.turn a).toNat = false)
    (hmsb : (s.x s.turn a).msb = false)
    (hheld : ((s.anvil (coreOf s.turn)).owner.isSome = true ∧ (s.anvil (coreOf s.turn)).owner ≠ some tid) ∨
      ((s.anvil (coreOf s.turn)).owner = none ∧ (s.anvil (coreOf s.turn)).releasing.isSome = true))
    (hrel : (s.anvil (coreOf s.turn)).releasing ≠ some tid) :
    ∃ t, exec (.mshape true d a) s = .next t ∧ IssuedBehind s t s.turn (.mshape true d a) (s.x s.turn a) ∧ WritesX s t s.turn d 0 ∧
      t.anvil (coreOf s.turn) = s.anvil (coreOf s.turn) := by
  obtain ⟨hown, hsome⟩ : (s.anvil (coreOf s.turn)).owner ≠ some tid ∧
      ((s.anvil (coreOf s.turn)).owner.isSome || (s.anvil (coreOf s.turn)).releasing.isSome) = true := by
    obtain ⟨hsome, hown⟩ | ⟨hnone, hsome⟩ := hheld
    · exact ⟨hown, by rw [hsome, Bool.true_or]⟩
    · exact ⟨by rw [hnone]; exact nofun, by rw [hsome, Bool.or_true]⟩
  have hrefused := shapedBy_refused s s.turn tid d ((reqRel_word _).trans hmsb) hown hsome
  exact mshape_issues hfree htask hbad (.inr hrel) ⟨hrefused ▸ wrote_setX s s.turn d 0, hrefused ▸ anvil_setX s s.turn d 0 _⟩

/-- A releasing one gives up the Anvil of its own task, and answers 0 (R216). -/
theorem mshape_releases {tid : Nat} (htask : (s.hart s.turn).task = some tid) {a d : BitVec 7} (hx : (s.x s.turn a).toNat = 2 ^ 63) :
    ∃ t, exec (.mshape true d a) s = .next t ∧ IssuedBehind s t s.turn (.mshape true d a) (s.x s.turn a) ∧ WritesX s t s.turn d 0 ∧
      (if (s.anvil (coreOf s.turn)).owner = some tid then (t.anvil (coreOf s.turn)).owner = none ∧
        (t.anvil (coreOf s.turn)).releasing = some tid ∧ (t.anvil (coreOf s.turn)).relDone = false
       else t.anvil (coreOf s.turn) = s.anvil (coreOf s.turn)) := by
  have hreq : reqRel (s.x s.turn a).toNat = true := by simp [hx, reqRel, bit]
  have hbad : mshapeBad (s.x s.turn a).toNat = false := by rw [mshapeBad, if_pos hreq, hx]; rfl
  obtain ⟨t, hexec, hbehind, hwrites, hanvil⟩ := mshape_issues hfree htask hbad (.inl hreq) (shapedBy_releases s s.turn tid d hreq)
  refine ⟨t, hexec, hbehind, hwrites, ?_⟩
  rw [hanvil]
  split
  · exact ⟨rfl, rfl, rfl⟩
  · rfl

theorem mlds_issues {a : BitVec 7} (hbad : ownIssueBad s s.turn (s.x s.turn a) 0 (.mlds true a) = false) :
    ∃ t, exec (.mlds true a) s = .next t ∧ IssuedBehind s t s.turn (.mlds true a) (s.x s.turn a) ∧ WritesX s t s.turn 0 0 ∧
      t.anvil (coreOf s.turn) = (s.anvil (coreOf s.turn)).planeBegun ((s.x s.turn a).toNat / 2 ^ 24) := by
  have hj0 : bits (s.x s.turn a).toNat 63 24 = (s.x s.turn a).toNat / 2 ^ 24 :=
    Nat.mod_eq_of_lt (by have := (s.x s.turn a).isLt; omega)
  have hwrote : Wrote s (s.updAnvil (coreOf s.turn) fun k => k.planeBegun (bits (s.x s.turn a).toNat 63 24)) s.turn 0 0 :=
    wrote_updAnvil_setX s (coreOf s.turn) s.turn (fun k => k.planeBegun (bits (s.x s.turn a).toNat 63 24)) 0 0
  obtain ⟨t, hexec, hbehind, hwrites, hanvils⟩ := issueWith_behind (i := .mlds true a) rfl rfl (fun _ => rfl) hbad hfree.2 rfl
    (mldsAct_run hfree _) hwrote
  refine ⟨t, hexec, hbehind, hwrites, ?_⟩
  rw [← hj0]
  exact (hanvils _).trans (anvil_updAnvil ..)

theorem mzero_issues {d : BitVec 4} (hown : s.ownsAnvil s.turn = true) (htile : (s.ctx s.turn).tileOk d.toNat = true) :
    ∃ t, exec (.mzero true d) s = .next t ∧ IssuedBehind s t s.turn (.mzero true d) 0 ∧ WritesX s t s.turn 0 0 ∧
      ∀ c, t.anvil c = s.anvil c := by
  have hbad : (!s.ownsAnvil s.turn || !(s.ctx s.turn).tileOk d.toNat) = false := by rw [hown, htile]; rfl
  exact issueWith_behind (i := .mzero true d) rfl rfl (fun _ => rfl) hbad hfree.2 rfl rfl (wrote_setX s s.turn 0 0)

end

end Sys2Proof.Machine
end

section
/-! PROOFS. The gate's cycle of a run-ahead word (R193, R197, R198, R216, R222, R232). -/

namespace Sys2Proof.Machine

open Sys2Proof

/-! ### What a cycle leaves before it releases a run-ahead word (R193, R198) -/

/-- Nothing differs but levels, event counters and since when convoys have been ready. -/
def GateNotes (s t : State) : Prop :=
  SameRest s t ∧
  (∃ r a : Nat → Nat, ∀ g, t.hart g = { s.hart g with readyAt := r g, aheadAt := a g }) ∧
  ∃ (n l : Nat → Nat) (e : Nat → Tbl Nat), ∀ c, t.core c = { s.core c with readyClock := n c, gustLevel := l c, ctr := e c }

theorem gateNotes_composes : Composes GateNotes where
  refl _ := ⟨rfl, ⟨_, _, fun _ => rfl⟩, _, _, _, fun _ => rfl⟩
  trans := by
    rintro s t u ⟨a1, ⟨_, _, a2⟩, _, _, _, a3⟩ ⟨b1, ⟨r, a, b2⟩, n, l, e, b3⟩
    exact ⟨a1.trans b1, ⟨r, a, fun g => by rw [b2, a2]⟩, n, l, e, fun c => by rw [b3, a3]⟩

theorem NotesReady.gateNotes {s t : State} (hn : NotesReady s t) : GateNotes s t := by
  obtain ⟨hrest, hharts, n, e, hcores⟩ := hn
  exact ⟨hrest, hharts, n, fun c => (s.core c).gustLevel, e, hcores⟩

theorem updLevel_gateNotes (s : State) (c : Nat) (f : Core → Nat) : GateNotes s (s.updCore c (fun k => { k with gustLevel := f k })) := by
  refine ⟨rfl, ⟨_, _, fun _ => rfl⟩, fun d => (s.core d).readyClock, fun d => if c = d then f (s.core d) else (s.core d).gustLevel,
    fun d => (s.core d).ctr, fun d => ?_⟩
  rw [State.core_updCore]
  by_cases hd : c = d
  · subst hd; simp
  · simp [hd]

/-- Pouring a charge in is no more. -/
theorem poured_gateNotes (s : State) (c charge : Nat) : GateNotes s (s.poured c charge) :=
  updLevel_gateNotes s c fun k => min (2 ^ 24 - 1) (k.gustLevel + charge)

section
variable {s t : State} (hn : GateNotes s t)
include hn

theorem GateNotes.ctx (g : Nat) : t.ctx g = s.ctx g := by
  obtain ⟨-, ⟨_, _, hh⟩, -⟩ := hn
  rw [State.ctx, hh]; rfl

theorem GateNotes.x (g : Nat) (r : BitVec 7) : t.x g r = s.x g r := by simp only [State.x, hn.ctx]

theorem GateNotes.mem : t.mem = s.mem := by rw [hn.1.eq]

theorem GateNotes.queue (g : Nat) : (t.hart g).queue = (s.hart g).queue := by
  obtain ⟨-, ⟨_, _, hh⟩, -⟩ := hn
  rw [hh]

theorem GateNotes.released (g : Nat) : (t.hart g).released = (s.hart g).released := by
  obtain ⟨-, ⟨_, _, hh⟩, -⟩ := hn
  rw [hh]

theorem GateNotes.task (g : Nat) : (t.hart g).task = (s.hart g).task := by
  obtain ⟨-, ⟨_, _, hh⟩, -⟩ := hn
  rw [hh]

theorem GateNotes.anvil (c : Nat) : t.anvil c = s.anvil c := by
  obtain ⟨-, -, _, _, _, hc⟩ := hn
  rw [State.anvil, hc]; rfl

theorem GateNotes.hartLno (h : Nat) : t.hartLno h = s.hartLno h := by
  have htask := hn.task
  have htasks : t.taskOf = s.taskOf := by rw [hn.1.eq]; rfl
  simp only [State.hartLno, State.hartTask, htask, htasks]

theorem GateNotes.buf (c lno : Nat) (k : BufKind) : t.buf c lno k = s.buf c lno k := by
  obtain ⟨-, -, _, _, _, hc⟩ := hn
  rw [State.buf, hc]; rfl

theorem GateNotes.planeOf (h n : Nat) : t.planeOf h n = s.planeOf h n := by
  simp only [State.planeOf, hn.anvil, hn.queue]

theorem GateNotes.interlock (c : Nat) : (t.core c).interlock = (s.core c).interlock := by
  obtain ⟨-, -, _, _, _, hc⟩ := hn
  rw [hc]

theorem GateNotes.unlanded (c : Nat) : (t.core c).unlanded = (s.core c).unlanded := by
  obtain ⟨-, -, _, _, _, hc⟩ := hn
  rw [hc]

theorem GateNotes.job (c : Nat) : (t.core c).job = (s.core c).job := by
  obtain ⟨-, -, _, _, _, hc⟩ := hn
  rw [hc]

theorem GateNotes.held (g : Nat) : (t.hart g).held = (s.hart g).held := by
  obtain ⟨-, ⟨_, _, hh⟩, -⟩ := hn
  rw [hh]

theorem GateNotes.matrixWord (c : Nat) : t.matrixWord c = s.matrixWord c := by
  unfold State.matrixWord
  rw [hn.job]
  cases (s.core c).job with
  | none => rfl
  | some j => dsimp only; rw [hn.queue, hn.anvil, hn.planeOf]

theorem GateNotes.matrixReady (c : Nat) : t.matrixReady c = s.matrixReady c := by
  unfold State.matrixReady
  rw [hn.matrixWord, hn.anvil, hn.interlock, hn.unlanded]
  cases s.matrixWord c with
  | none => rfl
  | some m =>
    obtain ⟨h, j, e, w, p⟩ := m
    dsimp only
    rw [hn.ctx, hn.queue]

/-- A run-ahead word is as ready as it was (R193). -/
theorem GateNotes.aheadReady (h : Nat) : t.aheadReady h = s.aheadReady h := by
  have hword : t.aheadWord h = s.aheadWord h := by rw [State.aheadWord, hn.queue]; rfl
  unfold State.aheadReady
  rw [hword, hn.ctx, hn.queue, hn.task, hn.held, hn.interlock, hn.job, hn.matrixReady]

end

/-- A ready run-ahead word that fits under the limit, or finds the bucket empty, is released; it pours no charge in (R197). -/
theorem gateScan_releaseAhead {s : State} {c h prio since : Nat} (hready : s.aheadReady h = true)
    (hfit : (s.core c).gustLevel ≤ gustLimit (s.core c).gustCfg prio ∨ (s.core c).gustLevel = 0) :
    s.gateScan c [⟨h, true, prio, since⟩] = (s.poured c 0).releaseAhead h := by
  simp [State.gateScan, State.poured, hready, hfit]

/-- A convoy with a run-ahead word waits for that word. -/
theorem gateReady_ahead {s : State} {h : Nat} {e : QEntry} {rest : List QEntry} (hq : (s.hart h).queue = e :: rest)
    (he : e.ahead = true) : s.gateReady h = false := by
  simp [State.gateReady, hq, firstConvoy, he]

/-- A cycle at which a run-ahead word is the one thing that is ready releases it. -/
theorem gustCycle_ahead {s : State} {c k : Nat} {e : QEntry} {rest : List QEntry} (hk : k < 4)
    (hother : ∀ j < 4, j ≠ k → (s.hart (4 * c + j)).queue = []) (hdbg : (s.hart (4 * c + k)).dbg = false)
    (hq : (s.hart (4 * c + k)).queue = e :: rest) (he : e.ahead = true) (hready : s.aheadReady (4 * c + k) = true)
    (hfit : ((s.leaked c).core c).gustLevel ≤ gustLimit (s.core c).gustCfg (s.ctx (4 * c + k)).prio ∨
      ((s.leaked c).core c).gustLevel = 0) :
    ∃ u, GateNotes s u ∧ (u.core c).gustLevel = min (2 ^ 24 - 1) ((s.leaked c).core c).gustLevel ∧
      exec (.gustCycle c) s = .next (u.releaseAhead (4 * c + k)) := by
  have hn := noted_notesReady (s.leaked c) c
  have hleak : GateNotes s (s.leaked c) := updLevel_gateNotes s c fun k => k.gustLevel - gustLeak k.gustCfg
  have hstop : ∀ j < 4, (s.leaked c).stopAtCp (4 * c + j) = none := fun j hj => stopAtCp_none <| by
    by_cases hjk : j = k
    · exact .inr (hjk ▸ hdbg)
    · exact .inl (hother j hj hjk)
  have hconvoys : (hartsOf c).filter (s.leaked c).convoyStands = [] := List.filter_eq_nil_iff.mpr fun h hh => by
    obtain ⟨j, hj, rfl⟩ := mem_hartsOf.mp hh
    have hnone : (s.leaked c).gateReady (4 * c + j) = false := by
      by_cases hjk : j = k
      · subst hjk; exact gateReady_ahead (s := s.leaked c) hq he
      · exact gateReady_empty (s := s.leaked c) (hother j hj hjk)
    simp [State.convoyStands, hnone]
  have hwords : (hartsOf c).filter (s.leaked c).aheadStands = [4 * c + k] := by
    refine filter_hartsOf_single hk ?_ fun j hj hjk => ?_
    · simp [State.aheadStands, hleak.aheadReady, hready, hstop k hk]
    · have hnone : (s.leaked c).aheadReady (4 * c + j) = false := aheadReady_none fun e he => by
        rw [show ((s.leaked c).hart (4 * c + j)).queue = [] from hother j hj hjk] at he
        cases he
      simp [State.aheadStands, hnone]
  have hcands : (s.leaked c).gateCands c =
      [⟨4 * c + k, true, (s.ctx (4 * c + k)).prio, (((s.leaked c).noted c).hart (4 * c + k)).aheadAt⟩] := by
    simp only [State.gateCands, hconvoys, hwords]
    rfl
  have hcfg : ((s.leaked c).core c).gustCfg = (s.core c).gustCfg := by simp [State.leaked]
  have hscan := gateScan_releaseAhead (s := (s.leaked c).noted c) (c := c) (since := (((s.leaked c).noted c).hart (4 * c + k)).aheadAt)
    ((hn.gateNotes.aheadReady _).trans ((hleak.aheadReady _).trans hready)) (by rw [hn.gustLevel, hn.gustCfg, hcfg]; exact hfit)
  refine ⟨_, gateNotes_composes.trans hleak (gateNotes_composes.trans hn.gateNotes (poured_gateNotes _ c 0)), ?_, ?_⟩
  · rw [State.poured, State.core_updCore, if_pos rfl, ← hn.gustLevel, Nat.add_zero]
  · rw [exec_gustCycle_unstopped fun h hh => by obtain ⟨j, hj, rfl⟩ := mem_hartsOf.mp hh; exact hstop j hj, hcands, hscan]

/-! ### The release (R193, R216, R222, R232) -/

/-- The state in which the gate has let the run-ahead word of hart h go (R193, R208). -/
def State.letGo (s : State) (h : Nat) : State := (s.updHart h (fun t => { t with aheadAt := 0 })).count (coreOf h) 2 1

theorem letGo_gateNotes (s : State) (h : Nat) : GateNotes s (s.letGo h) :=
  (notesReady_composes.trans (noteHart_notesReady s h Hart.readyAt fun _ => 0) (count_notesReady _ _ _ _)).gateNotes

theorem letGo_gustLevel (s : State) (h c : Nat) : ((s.letGo h).core c).gustLevel = (s.core c).gustLevel :=
  (notesReady_composes.trans (noteHart_notesReady s h Hart.readyAt fun _ => 0) (count_notesReady _ _ _ _)).gustLevel c

section
variable {s : State} {h : Nat} {e : QEntry} {rest : List QEntry} (hq : (s.hart h).queue = e :: rest) (he : e.ahead = true)
include hq he

theorem aheadWord_head : s.aheadWord h = some (0, e) := by
  simp [State.aheadWord, hq, he, List.findIdx_cons]

theorem releaseAhead_mlds {k : Bool} {a : BitVec 7} (hi : e.instr = some (.mlds k a)) :
    s.releaseAhead h = (((s.letGo h).loadPlane h 0 e).countConflicts (coreOf h)).completeAhead h := by
  simp only [State.releaseAhead, aheadWord_head hq he, hi]
  rfl

theorem releaseAhead_mzero {k : Bool} {d : BitVec 4} (hi : e.instr = some (.mzero k d)) :
    s.releaseAhead h = ((s.letGo h).zeroTiles h d.toNat).completeAhead h := by
  simp only [State.releaseAhead, aheadWord_head hq he, hi]
  rfl

theorem releaseAhead_mshape {k : Bool} {d a : BitVec 7} (hi : e.instr = some (.mshape k d a)) :
    s.releaseAhead h = (if reqRel e.opA.toNat then (s.letGo h).releaseShaped h else s.letGo h).completeAhead h := by
  simp only [State.releaseAhead, aheadWord_head hq he, hi]
  rfl

end

theorem dropDone_suffix (n : Nat) (q : List QEntry) : dropDone n q <:+ q := by
  induction n generalizing q with
  | zero => exact List.suffix_refl q
  | succ n ih =>
    cases q with
    | nil => exact List.suffix_refl []
    | cons e q =>
      rw [dropDone]
      split
      · exact (ih _).trans ((List.dropWhile_suffix _).trans (List.suffix_cons e q))
      · exact List.suffix_refl _

theorem settle_queue (t : Hart) : t.settle.queue = dropDone 33 t.queue := by
  unfold Hart.settle
  dsimp only
  split
  · next hlen => exact ((dropDone_suffix 33 t.queue).eq_of_length hlen).symm
  · rfl

/-- The word at the head of the queue of a hart without a released convoy completes: the convoys that have completed leave the queue. -/
theorem completeAhead_facts {s u v : State} {h : Nat} {e : QEntry} {rest : List QEntry} (hn : GateNotes s u) (hharts : v.harts = u.harts)
    (hmem : v.mem = u.mem) (hq : (s.hart h).queue = e :: rest) (he : e.ahead = true) (hrel : (s.hart h).released = false) :
    ((v.completeAhead h).hart h).queue = dropDone 33 ({ e with done := true } :: rest) ∧ (∀ g r, (v.completeAhead h).x g r = s.x g r) ∧
    (v.completeAhead h).mem = s.mem ∧ ∀ c, (v.completeAhead h).core c = v.core c := by
  have hhart : v.hart = u.hart := by funext g; rw [State.hart, hharts]; rfl
  have hqueue : (v.hart h).queue = e :: rest := by rw [hhart, hn.queue, hq]
  have hrel' : (v.hart h).released = false := by rw [hhart, hn.released, hrel]
  refine ⟨?_, fun g r => ?_, hmem.trans hn.mem, fun _ => rfl⟩
  · simp only [State.completeAhead, State.updHart_eq, State.hart_setHart, if_true, hrel', Bool.false_eq_true, if_false, settle_queue, hqueue,
      updFirst, he]
  · rw [← hn.x]
    refine (updHart_x (fun t => ?_) v h g r).trans ?_
    · dsimp only
      split
      · rfl
      · exact settle_x _
    · simp only [State.x, State.ctx, hhart]

/-! ### The weights of a plane (R222) -/

theorem b2n_bit (n i : Nat) : b2n (bit n i) = n / 2 ^ i % 2 := by
  rw [bit, ← Bool.beq_eq_decide_eq, Laws.b2n_beq_one (Nat.mod_lt _ Nat.two_pos)]

theorem weightCode_eq (p : Plane) (w : Memory) (off e : Nat) : weightCode p.shape w off e = storedCode p w off e := by
  unfold weightCode storedCode
  have hfmt : p.shape.fmt = p.fmt := rfl
  rw [hfmt]
  split
  · next hf => simp [hf]
  · next hf => simp [hf]
  · next hf => simp [hf]
  · next h0 h1 h2 =>
    have haddr : ∀ g, off + 16 * p.shape.ps * (e / 128) + e % 128 / 8 + 16 * g = off + 16 * p.ps * (e / 128) + 16 * g + e % 128 / 8 :=
      fun g => Nat.add_right_comm ..
    have hnp : ¬ p.fmt ≤ 2 := fun hle => by
      obtain h | h | h : p.fmt = 0 ∨ p.fmt = 1 ∨ p.fmt = 2 := by omega
      · exact h0 h
      · exact h1 h
      · exact h2 h
    rw [if_neg h0, if_neg hnp]
    simp only [b2n_bit, haddr]
    rfl

/-- A weight as it is read: its place, its code and the scale of its element. -/
theorem weightAt_reads (p : Plane) (c : Ctx) (w : Memory) (off e kk slice : Nat) :
    (weightAt p.shape c w off e kk slice).code = storedCode p w off e ∧
    (p.fmt ≠ 0 → (weightAt p.shape c w off e kk slice).scale = c.scaleExp e) :=
  ⟨weightCode_eq p w off e, fun hf => if_neg hf⟩

theorem planeWeights_loaded (p : Plane) (c : Ctx) (w : Memory) (off : Nat) :
    Loaded p { p with weights := planeWeights p.shape c w off } c w off := by
  refine ⟨_, rfl, fun hdense => ?_, fun hsparse => ?_⟩
  · have hlist : planeWeights p.shape c w off =
        (List.range (p.kg * p.ng)).map fun e => weightAt p.shape c w off e (e / p.ng) (e / p.ng / 64) := if_pos hdense
    rw [hlist]
    refine ⟨by rw [List.length_map, List.length_range], fun e he => ?_⟩
    rw [List.getElem?_map, List.getElem?_range he]
    exact ⟨_, rfl, rfl, rfl, rfl, weightAt_reads ..⟩
  · intro kept total index
    have hlist : planeWeights p.shape c w off = (List.range total).map fun e => weightAt p.shape c w off e
        (16 * (e / p.ng / kept) + (w.read (index + e / 2)).toNat / 16 ^ (e % 2) % 16) (e / p.ng / kept / (if p.spn = 1 then 8 else 16)) :=
      if_neg hsparse
    rw [hlist]
    refine ⟨by rw [List.length_map, List.length_range], fun e he => ?_⟩
    rw [List.getElem?_map, List.getElem?_range he]
    exact ⟨_, rfl, rfl, rfl, rfl, weightAt_reads ..⟩

/-! ### What the released word leaves of the Anvil -/

/-- An mlds reads its plane from the W allocation, and leaves the tiles. -/
theorem loadPlane_loads {s u : State} {h : Nat} (hn : GateNotes s u) {e : QEntry} {p : Plane}
    (hp : (s.anvil (coreOf h)).plane (s.planeOf h 0) = some p) :
    ∃ q, ((u.loadPlane h 0 e).anvil (coreOf h)).plane (s.planeOf h 0) = some q ∧
      ((u.loadPlane h 0 e).anvil (coreOf h)).tiles = (s.anvil (coreOf h)).tiles ∧
      Loaded p q (s.ctx h) (s.buf (coreOf h) (s.hartLno h) .w).data (e.opA.toNat % 2 ^ 24) := by
  refine ⟨_, ?_, ?_, planeWeights_loaded p _ _ _⟩
  · simp only [State.loadPlane, anvil_updAnvil, hn.planeOf, hn.ctx, hn.buf, hn.hartLno, hn.anvil, plane_setPlane, hp, bits_low]
    rfl
  · simp only [State.loadPlane, anvil_updAnvil, setPlane_tiles, hn.anvil]

theorem get_filter (t : Tbl Nat) (p : Nat → Bool) (k : Nat) : Tbl.get 0 (t.filter fun e => p e.1) k = if p k then Tbl.get 0 t k else 0 := by
  induction t with
  | nil => simp [Tbl.get]
  | cons e t ih =>
    obtain ⟨i, v⟩ := e
    by_cases hk : i = k
    · subst hk
      by_cases hp : p i
      · simp [hp, Tbl.get]
      · simp [hp, ih]
    · by_cases hp : p i
      · simp [hp, Tbl.get, hk, ih]
      · simp [hp, Tbl.get, hk, ih]

/-- An mzero clears the tiles of its group alone. -/
theorem zeroTiles_clears {s u : State} {h : Nat} (hn : GateNotes s u) (d n : Nat) :
    Tbl.get 0 ((u.zeroTiles h d).anvil (coreOf h)).tiles n =
      if d ≤ n / 4096 ∧ n / 4096 ≤ d + (s.ctx h).b then 0 else Tbl.get 0 (s.anvil (coreOf h)).tiles n := by
  simp only [State.zeroTiles, anvil_updAnvil, hn.ctx, hn.anvil]
  rw [get_filter _ fun t => decide (t / 4096 < d) || decide (d + (s.ctx h).b < t / 4096)]
  by_cases hin : d ≤ n / 4096 ∧ n / 4096 ≤ d + (s.ctx h).b
  · rw [if_pos hin, if_neg (by simpa using hin)]
  · rw [if_neg hin, if_pos]
    simp only [Bool.or_eq_true, decide_eq_true_eq]
    omega

/-- A releasing mshape marks the release of its task's Anvils as complete, and changes no more of a core. -/
theorem core_releaseShaped (s : State) (h c : Nat) : (s.releaseShaped h).core c =
    if (s.anvil c).releasing.isSome && (s.anvil c).releasing == (s.hart h).task then
      { s.core c with anvil := { s.anvil c with relDone := true } }
    else s.core c := by
  rw [State.core, State.releaseShaped, Tbl.get_map (fun e => by split <;> rfl) Core.reset s.cores c rfl]
  change (if (s.anvil c).releasing.isSome && (s.anvil c).releasing == (s.hart h).task then _ else _ : Nat × Core).2 = _
  split <;> rfl

theorem releaseShaped_gustLevel (s : State) (h c : Nat) : ((s.releaseShaped h).core c).gustLevel = (s.core c).gustLevel := by
  rw [core_releaseShaped]
  split <;> rfl

/-- Of an Anvil it changes whether its release is complete, and completes the release of its own task. -/
theorem anvil_releaseShaped (s : State) (h c : Nat) :
    { (s.releaseShaped h).anvil c with relDone := (s.anvil c).relDone } = s.anvil c ∧
    ((s.anvil c).releasing.isSome = true → (s.anvil c).releasing = (s.hart h).task → ((s.releaseShaped h).anvil c).relDone = true) := by
  rw [State.anvil, core_releaseShaped]
  split
  · exact ⟨rfl, fun _ _ => rfl⟩
  · next hother => exact ⟨rfl, fun hsome htask => absurd (by simp [hsome, htask.symm]) hother⟩

theorem countConflicts_gustLevel (s : State) (c d : Nat) : ((s.countConflicts c).core d).gustLevel = (s.core d).gustLevel :=
  (count_notesReady { s with fresh := s.fresh + 1 } c 8 _).gustLevel d

/-! ### Each released word (R193) -/

/-- What a cycle leaves that released hart h's run-ahead word e of core c: the word has completed, the bucket has drained, and no register
and no memory has changed. -/
def ReleasedAlone (s t : State) (c h : Nat) (e : QEntry) (rest : List QEntry) : Prop :=
  exec (.gustCycle c) s = .next t ∧ (t.hart h).queue = dropDone 33 ({ e with done := true } :: rest) ∧
  (t.core c).gustLevel = min (2 ^ 24 - 1) ((s.leaked c).core c).gustLevel ∧ (∀ g r, t.x g r = s.x g r) ∧ t.mem = s.mem

/-- The core of a hart by its place there. -/
theorem coreOf_hart {c k : Nat} (hk : k < 4) : coreOf (4 * c + k) = c := by
  unfold coreOf
  omega

theorem updAnvil_gustLevel (s : State) (c d : Nat) (f : Anvil → Anvil) : ((s.updAnvil c f).core d).gustLevel = (s.core d).gustLevel := by
  rw [State.updAnvil, State.core_updCore]
  split
  · subst_vars; rfl
  · rfl

section
variable {s : State} {c k : Nat} {e : QEntry} {rest : List QEntry} (hk : k < 4)
  (hother : ∀ j < 4, j ≠ k → (s.hart (4 * c + j)).queue = []) (hdbg : (s.hart (4 * c + k)).dbg = false)
  (hq : (s.hart (4 * c + k)).queue = e :: rest) (he : e.ahead = true) (hready : s.aheadReady (4 * c + k) = true)
  (hrel : (s.hart (4 * c + k)).released = false)
  (hfit : ((s.leaked c).core c).gustLevel ≤ gustLimit (s.core c).gustCfg (s.ctx (4 * c + k)).prio ∨
    ((s.leaked c).core c).gustLevel = 0)
include hk hother hdbg hq he hready hrel hfit

/-- A word whose release does f, which reaches no hart, no memory and no level, is released alone. -/
theorem gustCycle_releases {f : State → State}
    (hf : ∀ u : State, (u.hart (4 * c + k)).queue = e :: rest →
      u.releaseAhead (4 * c + k) = (f (u.letGo (4 * c + k))).completeAhead (4 * c + k))
    (hharts : ∀ u, (f u).harts = u.harts) (hmem : ∀ u, (f u).mem = u.mem)
    (hgust : ∀ u, ((f u).core c).gustLevel = (u.core c).gustLevel) :
    ∃ u t, GateNotes s u ∧ ReleasedAlone s t c (4 * c + k) e rest ∧ t.anvil c = (f u).anvil c := by
  obtain ⟨u, hn, hlevel, hexec⟩ := gustCycle_ahead hk hother hdbg hq he hready hfit
  have hlet := gateNotes_composes.trans hn (letGo_gateNotes u (4 * c + k))
  rw [hf u ((hn.queue _).trans hq)] at hexec
  obtain ⟨hqueue, hx, hmem', hcore⟩ := completeAhead_facts hlet (hharts _) (hmem _) hq he hrel
  refine ⟨_, _, hlet, ⟨hexec, hqueue, ?_, hx, hmem'⟩, congrArg Core.anvil (hcore c)⟩
  rw [hcore, hgust, letGo_gustLevel, hlevel]

theorem gustCycle_mlds {k' : Bool} {a : BitVec 7} {p : Plane} (hi : e.instr = some (.mlds k' a))
    (hp : (s.anvil c).plane (s.planeOf (4 * c + k) 0) = some p) :
    ∃ t q, ReleasedAlone s t c (4 * c + k) e rest ∧ (t.anvil c).plane (s.planeOf (4 * c + k) 0) = some q ∧
      (t.anvil c).tiles = (s.anvil c).tiles ∧
      Loaded p q (s.ctx (4 * c + k)) (s.buf c (s.hartLno (4 * c + k)) .w).data (e.opA.toNat % 2 ^ 24) := by
  have hcore := coreOf_hart (c := c) hk
  obtain ⟨u, t, hn, ht, hanvil⟩ := gustCycle_releases hk hother hdbg hq he hready hrel hfit
    (f := fun u => (u.loadPlane (4 * c + k) 0 e).countConflicts (coreOf (4 * c + k))) (fun u hu => releaseAhead_mlds hu he hi)
    (fun _ => rfl) (fun _ => rfl) (fun u => (countConflicts_gustLevel ..).trans (updAnvil_gustLevel ..))
  obtain ⟨q, hplane, htiles, hloaded⟩ := loadPlane_loads hn (h := 4 * c + k) (e := e) (p := p) (by rw [hcore]; exact hp)
  rw [hcore, anvil_countConflicts] at hanvil
  rw [hcore, ← hanvil] at hplane htiles
  rw [hcore] at hloaded
  exact ⟨t, q, ht, hplane, htiles, hloaded⟩

theorem gustCycle_mzero {k' : Bool} {d : BitVec 4} (hi : e.instr = some (.mzero k' d)) :
    ∃ t, ReleasedAlone s t c (4 * c + k) e rest ∧ ∀ n, Tbl.get 0 (t.anvil c).tiles n =
      if d.toNat ≤ n / 4096 ∧ n / 4096 ≤ d.toNat + (s.ctx (4 * c + k)).b then 0 else Tbl.get 0 (s.anvil c).tiles n := by
  obtain ⟨u, t, hn, ht, hanvil⟩ := gustCycle_releases hk hother hdbg hq he hready hrel hfit
    (f := fun u => u.zeroTiles (4 * c + k) d.toNat) (fun u hu => releaseAhead_mzero hu he hi)
    (fun _ => rfl) (fun _ => rfl) (fun u => updAnvil_gustLevel ..)
  refine ⟨t, ht, fun n => ?_⟩
  have hclears := zeroTiles_clears hn (h := 4 * c + k) d.toNat n
  rw [coreOf_hart hk] at hclears
  rw [hanvil, hclears]

theorem gustCycle_mshape {k' : Bool} {d a : BitVec 7} (hi : e.instr = some (.mshape k' d a)) :
    ∃ t, ReleasedAlone s t c (4 * c + k) e rest ∧ { t.anvil c with relDone := (s.anvil c).relDone } = s.anvil c ∧
      (e.opA.msb = true → (s.anvil c).releasing.isSome = true → (s.anvil c).releasing = (s.hart (4 * c + k)).task →
        (t.anvil c).relDone = true) := by
  have hletgo := fun (u : State) (hu : (u.hart (4 * c + k)).queue = e :: rest) =>
    releaseAhead_mshape hu he hi
  cases hmsb : e.opA.msb with
  | false =>
    obtain ⟨u, t, hn, ht, hanvil⟩ := gustCycle_releases hk hother hdbg hq he hready hrel hfit (f := id)
      (fun u hu => (hletgo u hu).trans (by rw [reqRel_word, hmsb]; rfl)) (fun _ => rfl) (fun _ => rfl) (fun _ => rfl)
    exact ⟨t, ht, by rw [hanvil, id_eq, hn.anvil], nofun⟩
  | true =>
    obtain ⟨u, t, hn, ht, hanvil⟩ := gustCycle_releases hk hother hdbg hq he hready hrel hfit (f := fun u => u.releaseShaped (4 * c + k))
      (fun u hu => (hletgo u hu).trans (by rw [reqRel_word, hmsb]; rfl)) (fun _ => rfl) (fun _ => rfl) (fun u => releaseShaped_gustLevel ..)
    obtain ⟨hkept, hmarks⟩ := anvil_releaseShaped u (4 * c + k) c
    rw [← hanvil, hn.anvil] at hkept hmarks
    rw [hn.task] at hmarks
    exact ⟨t, ht, hkept, fun _ => hmarks⟩

end

end Sys2Proof.Machine

open Sys2Proof Sys2Proof.Machine

/-- Settles O29. At issue no older word holds a matrix word up, so each acts once and takes its place in the queue; at the gate the word at
its head is the one candidate of the scan, and is released. -/
theorem matrixWordsAtIssue : Obligations.MatrixWordsAtIssue := by
  unfold Obligations.MatrixWordsAtIssue
  refine ⟨fun s hfree => ?_, fun s c k e rest hk hother => ?_⟩
  · intro h c
    refine ⟨fun d => mstat_issues hfree d, ?_, fun d a tid htask hx => mshape_releases hfree htask hx, fun a _ hbad => ?_,
      fun d hown htile => ?_⟩
    · intro d a tid htask hbad hmsb r
      exact ⟨fun howner hrel => mshape_grants hfree htask hbad hmsb (howner.imp_left And.left) hrel,
        fun hheld hrel => mshape_refused hfree htask hbad hmsb hheld hrel⟩
    · obtain ⟨t, hexec, hbehind, hwrites, hanvil⟩ := mlds_issues hfree hbad
      have hc : t.anvil c = (s.anvil c).planeBegun ((s.x h a).toNat / 2 ^ 24) := hanvil
      refine ⟨t, hexec, hbehind, hwrites, ?_⟩
      rw [hc]
      exact ⟨rfl, rfl, setPlane_tiles .., _, planeBegun_activePlane .., rfl, rfl, rfl, rfl, rfl, rfl⟩
    · obtain ⟨t, hexec, hbehind, hwrites, hanvil⟩ := mzero_issues hfree hown htile
      exact ⟨t, hexec, hbehind, hwrites, hanvil c⟩
  · intro h level hdbg hq he hready hrel hfit gone
    have hlevel : ((s.leaked c).core c).gustLevel = level := by simp [State.leaked, level]
    rw [← hlevel] at hfit
    have hgone : ∀ t, ReleasedAlone s t c h e rest → gone t := fun t ht => by
      unfold ReleasedAlone at ht
      rwa [hlevel] at ht
    refine ⟨fun k' a p hi hp => ?_, fun k' d hi => ?_, fun k' d a hi => ?_⟩
    · obtain ⟨t, q, ht, hplane⟩ := gustCycle_mlds hk hother hdbg hq he hready hrel hfit hi hp
      exact ⟨t, q, hgone t ht, hplane⟩
    · obtain ⟨t, ht, htiles⟩ := gustCycle_mzero hk hother hdbg hq he hready hrel hfit hi
      exact ⟨t, hgone t ht, fun n _ => htiles n⟩
    · obtain ⟨t, ht, hanvil⟩ := gustCycle_mshape hk hother hdbg hq he hready hrel hfit hi
      exact ⟨t, hgone t ht, hanvil⟩
end

section
/-! PROOFS. The copy sequencer and the indirect streams (R238 to R244, R353, R354): what cpl leaves of the copy program, the copy that cpgo
and cpv accept, and how a copy and a gather go on and end. -/

namespace Sys2Proof.Machine

open Sys2Proof

/-! ### The copy program (R238, R239) -/

/-- What cpl writes to register n of the copy program. -/
def Lane.copyRegValue (L : Lane) (n : Nat) : Nat :=
  L.e.opB.toNat % (if n ≤ 5 then 2 ^ 23 else 2 ^ 7) * 2 ^ 64 + L.e.opA.toNat

/-- A context with one register of its copy program replaced. -/
def Ctx.setCopyReg (c : Ctx) (n v : Nat) : Ctx := { c with cp := Tbl.set c.cp n v }

theorem perform_cpl (L : Lane) (s : State) (k : Bool) (n : BitVec 3) (a b : BitVec 7) :
    (L.perform (.cpl k n a b)).run s = .ok () (s.updCtx L.h (fun c => c.setCopyReg n.toNat (L.copyRegValue n.toNat))) := rfl

theorem copyReg_setCopyReg (c : Ctx) (n v j : Nat) : (c.setCopyReg n v).copyReg j = if n = j then v else c.copyReg j := Tbl.get_set _ _ _ _ _

/-- A level register holds COUNT, DSTR and SSTR as its two operands give them. -/
theorem copyLevel_setCopyReg (L : Lane) (c : Ctx) {n : Nat} (hn : n ≤ 5) :
    (c.setCopyReg n (L.copyRegValue n)).copyLevel n =
      (L.e.opB.toNat % 2 ^ 23, toS 32 (L.e.opA.toNat / 2 ^ 32), toS 32 (L.e.opA.toNat % 2 ^ 32)) := by
  have hcount : bits (L.copyRegValue n) 86 64 = L.e.opB.toNat % 2 ^ 23 := by simp only [bits, Lane.copyRegValue, if_pos hn]; omega
  have hdstr : bits (L.copyRegValue n) 63 32 = L.e.opA.toNat / 2 ^ 32 := by simp only [bits, Lane.copyRegValue, if_pos hn]; omega
  have hsstr : bits (L.copyRegValue n) 31 0 = L.e.opA.toNat % 2 ^ 32 := by simp only [bits, Lane.copyRegValue, if_pos hn]; omega
  simp only [Ctx.copyLevel, copyReg_setCopyReg, if_true, hcount, hdstr, hsstr]

/-- FROM and TO hold REM, CORE, space and base as its two operands give them. -/
theorem copyEnd_setCopyReg (L : Lane) (c : Ctx) (own : Nat) {n : Nat} (hn : 6 ≤ n) :
    let rem := decide (L.e.opB.toNat / 2 ^ 6 % 2 = 1)
    (c.setCopyReg n (L.copyRegValue n)).copyEnd own n =
      { rem := rem, core := if rem then own / 8 * 8 + L.e.opB.toNat / 8 % 8 else own, space := L.e.opB.toNat % 8, base := L.e.opA.toNat } := by
  have hlevel : ¬ n ≤ 5 := by omega
  have hrem : bit (L.copyRegValue n) 70 = decide (L.e.opB.toNat / 2 ^ 6 % 2 = 1) := by
    simp only [bit, Lane.copyRegValue, if_neg hlevel, decide_eq_decide]; omega
  have hcore : bits (L.copyRegValue n) 69 67 = L.e.opB.toNat / 8 % 8 := by simp only [bits, Lane.copyRegValue, if_neg hlevel]; omega
  have hspace : bits (L.copyRegValue n) 66 64 = L.e.opB.toNat % 8 := by simp only [bits, Lane.copyRegValue, if_neg hlevel]; omega
  have hbase : bits (L.copyRegValue n) 63 0 = L.e.opA.toNat := by simp only [bits, Lane.copyRegValue, if_neg hlevel]; omega
  simp only [Ctx.copyEnd, copyReg_setCopyReg, if_true, hrem, hcore, hspace, hbase]

/-! ### The end of a transfer (R243, R257, R353, R445) -/

/-- A decrement that reaches a cluster writes no memory (R257, R264). -/
theorem decHeld_mem (s : State) (cl lno c : Nat) : (s.decHeld cl lno c).mem = s.mem := by
  have hcreate : ∀ (u : State) dc, (u.createNamed cl dc).mem = u.mem := fun u dc => by
    unfold State.createNamed State.holdBarriers
    dsimp only
    split <;> rfl
  have hcounter : ∀ u : State, (u.decCounter cl c).mem = u.mem := fun u => by
    unfold State.decCounter
    split
    · rfl
    · split
      · exact hcreate _ _
      · rfl
  unfold State.decHeld State.decNow
  dsimp only
  split
  · split
    · exact hcounter _
    · rfl
  · rfl

/-- The core of a copy that completes is left as the decrement of its counter found it. -/
theorem endCopy_core (s : State) (c : Nat) (j : CopyJob) :
    (s.endCopy c j).core c =
      { s.core c with
        copies := (s.core c).copies.filter (fun x => x.ident != j.ident),
        interlock := (s.core c).interlock.filter (fun e => e.kind != 0 || e.ident != j.ident),
        unlanded := if j.dst.space = 4 then j.rows.foldl Tbl.del (s.core c).unlanded else (s.core c).unlanded } := by
  have hcore : ∀ u : State, (if j.dec then u.decHeld (u.homeCluster j.hart) j.lno j.cnt else u).core c = u.core c := fun u => by
    split
    · simp only [State.core, decHeld_cores]
    · rfl
  unfold State.endCopy
  dsimp only
  rw [hcore, State.core_updCore, if_pos rfl]

theorem endCopy_mem (s : State) (c : Nat) (j : CopyJob) : (s.endCopy c j).mem = s.mem := by
  unfold State.endCopy
  dsimp only
  split
  · exact decHeld_mem _ _ _ _
  · rfl

/-- A copy that completes leaves its core's list and frees its interlock entry (R243, R244). -/
theorem endCopy_frees (s : State) (c : Nat) (j : CopyJob) :
    (∀ x ∈ ((s.endCopy c j).core c).copies, x.ident ≠ j.ident) ∧
    ∀ e ∈ ((s.endCopy c j).core c).interlock, e.kind ≠ 0 ∨ e.ident ≠ j.ident := by
  rw [endCopy_core]
  constructor
  · intro x hx
    simpa using (List.mem_filter.mp hx).2
  · intro e he
    simpa using (List.mem_filter.mp he).2

/-- A decrement of a completion counter changes launches alone (R445). -/
theorem decCtr_others (s : State) (lno c : Nat) :
    (s.decCtr lno c).mem = s.mem ∧ (s.decCtr lno c).gathers = s.gathers ∧ ∀ d, (s.decCtr lno c).core d = s.core d := by
  unfold State.decCtr
  split
  · exact ⟨rfl, rfl, fun _ => rfl⟩
  · exact ⟨State.updLaunch_mem _ _ _, State.updLaunch_gathers _ _ _, State.updLaunch_at_core _ _ _⟩

theorem endGather_mem (s : State) (g : Gather) : (s.endGather g).mem = s.mem := (decCtr_others _ _ _).1

/-- A gather that completes leaves the list of gathers and frees its interlock entry (R353, R354). -/
theorem endGather_frees (s : State) (g : Gather) :
    (∀ x ∈ (s.endGather g).gathers, x.ident ≠ g.ident) ∧
    ∀ e ∈ ((s.endGather g).core (coreOf g.hart)).interlock, e.kind ≠ 1 ∨ e.ident ≠ g.ident := by
  unfold State.endGather
  obtain ⟨-, hgathers, hcore⟩ := decCtr_others (State.updCore { s with gathers := s.gathers.filter (fun x => x.ident != g.ident) } (coreOf g.hart)
    (fun k => { k with interlock := k.interlock.filter (fun (e : Interlock) => e.kind != 1 || e.ident != g.ident) })) g.lno g.lctr
  constructor
  · intro x hx
    rw [hgathers] at hx
    simpa using (List.mem_filter.mp hx).2
  · intro e he
    rw [hcore, State.core_updCore, if_pos rfl] at he
    simpa using (List.mem_filter.mp he).2

/-! ### Acceptance (R241 to R244) -/

/-- The core's part of an acceptance: the copy and its interlock entry are listed, and the rows that a group's copy reaches are no longer
landed. -/
def Core.accept (k : Core) (c : Nat) (j : CopyJob) (grouped : Bool) : Core :=
  { k with
    copies := k.copies ++ [j], interlock := k.interlock ++ [{ hart := j.hart, kind := 0, ident := j.ident, ivs := j.intervals c }],
    unlanded := if grouped then j.rows.foldl (fun t r => Tbl.set t r true) k.unlanded else k.unlanded }

/-- The state once a copy has been accepted, before a copy without a run completes. -/
def Lane.accepted (L : Lane) (s : State) (v : Option Nat) : State :=
  State.updCore { s with nextIdent := s.nextIdent + 1 } L.core (fun k => k.accept L.core (L.copyJob s v) v.isSome)

theorem accepted_core (L : Lane) (s : State) (v : Option Nat) :
    (L.accepted s v).core L.core = (s.core L.core).accept L.core (L.copyJob s v) v.isSome :=
  (State.core_updCore _ _ _ _).trans (if_pos rfl)

theorem accepted_core_ne (L : Lane) (s : State) (v : Option Nat) {c : Nat} (hc : c ≠ L.core) : (L.accepted s v).core c = s.core c :=
  (State.core_updCore _ _ _ _).trans (if_neg (Ne.symm hc))

theorem perform_copy {i : Instr} {v : Option Nat} (hi : copyGroup i = some v) (L : Lane) (s : State) :
    (L.perform i).run s = .ok () (if runsOf (L.copyJob s v).counts = 0 then (L.accepted s v).endCopy L.core (L.copyJob s v) else L.accepted s v) := by
  have haccept : L.perform i = L.copyAccept v := by
    cases i
    case cpgo | cpv => exact congrArg L.copyAccept (Option.some.inj hi)
    -- no other word starts a copy
    all_goals exact nomatch hi
  rw [haccept]
  rfl

/-- The copy takes each level, both ends and the run word from the program and its operands (R238, R241, R242). -/
theorem copyJob_fields (L : Lane) (s : State) (v : Option Nat) :
    (L.copyJob s v).run = L.e.opB.toNat % 2 ^ 16 ∧ (L.copyJob s v).xp = L.e.opB.toNat / 2 ^ 22 % 4 ∧
    (L.copyJob s v).counts = (List.range 6).map (fun l => (L.c.copyLevel l).1) ∧
    (L.copyJob s v).dstr = (List.range 6).map (fun l => (L.c.copyLevel l).2.1) ∧
    (L.copyJob s v).sstr = (List.range 6).map (fun l => (L.c.copyLevel l).2.2) := by
  refine ⟨?_, ?_, List.map_map, List.map_map, List.map_map⟩
  · simp only [Lane.copyJob, bits]; omega
  · simp only [Lane.copyJob, bits]; omega

/-- cpgo takes its counter from OPA. -/
theorem copyJob_counter (L : Lane) (s : State) :
    (L.copyJob s none).cnt = L.e.opA.toNat % 2 ^ 10 ∧ ((L.copyJob s none).dec = true ↔ L.e.opA.toNat / 2 ^ 63 % 2 = 1) := by
  simp [Lane.copyJob, bits_low, bit]

/-- cpv takes the length of its group from OPA, and decrements nothing. -/
theorem copyJob_group (L : Lane) (s : State) (v : Nat) :
    (L.copyJob s (some v)).group = L.c.phys v ∧ (L.copyJob s (some v)).nr = L.e.opA.toNat % 2 ^ 6 ∧ (L.copyJob s (some v)).dec = false := by
  simp [Lane.copyJob, bits_low]

/-- The bits after a list of keys has been set. -/
theorem get_foldl_set_true (rows : List Nat) (t : Tbl Bool) (r : Nat) :
    Tbl.get false (rows.foldl (fun t r => Tbl.set t r true) t) r = (Tbl.get false t r || rows.contains r) := by
  induction rows generalizing t with
  | nil => simp
  | cons k rows ih =>
    rw [List.foldl_cons, ih, Tbl.get_set, List.contains_cons]
    by_cases h : k = r
    · simp [h]
    · rw [if_neg h, beq_false_of_ne (Ne.symm h), Bool.false_or]

theorem accept_unlanded (k : Core) (c : Nat) (j : CopyJob) (grouped : Bool) (r : Nat) :
    Tbl.get false (k.accept c j grouped).unlanded r = (Tbl.get false k.unlanded r || (grouped && j.rows.contains r)) := by
  cases grouped
  · simp [Core.accept]
  · exact get_foldl_set_true _ _ _

/-! ### Runs and records (R240, R353) -/

/-- The run of a copy counts. -/
def Core.countRun (k : Core) (j : CopyJob) : Core :=
  { k with copies := k.copies.map (fun x => if x.ident = j.ident then { x with next := j.next + 1 } else x) }

theorem exec_copyRun {s u : State} {c i : Nat} {j : CopyJob} (hj : (s.core c).copies[i]? = some j) (hheld : j.held = false)
    (hfirst : j.next = 0 → ∀ e ∈ (s.core c).copies.take i, e.hart = j.hart → e.next ≠ 0)
    (hrun : (j.perform c j.next).run s = .ok (.ok ()) u) :
    exec (.copyRun c i) s = .next (if j.next + 1 = runsOf j.counts then (u.landRows c j j.next).endCopy c j
      else (u.landRows c j j.next).updCore c (fun k => k.countRun j)) := by
  have hmay : ¬ (j.held || (j.next == 0 && ((s.core c).copies.take i).any (fun e => e.hart == j.hart && e.next == 0))) = true := by
    simpa [hheld] using hfirst
  change execCopyRun c i s = _
  simp only [execCopyRun, hj, if_neg hmay, hrun]
  split <;> rfl

/-- Rows that land change no memory and no list of copies. -/
theorem landRows_others (s : State) (c : Nat) (j : CopyJob) (n : Nat) :
    (s.landRows c j n).mem = s.mem ∧ ((s.landRows c j n).core c).copies = (s.core c).copies := by
  unfold State.landRows
  split
  · exact ⟨rfl, rfl⟩
  · simp

theorem exec_gatherRecord {s u : State} {g : Nat} {j : Gather} (hj : s.gathers.find? (fun x => x.ident == g) = some j)
    (hheld : j.held = false) (hleft : j.next < gaCount j.block) (hrec : (j.perform j.next).run s = .ok (.ok ()) u) :
    exec (.gatherRecord g) s = .next (if j.next + 1 = gaCount j.block then u.endGather j
      else u.updGather g (fun x => { x with next := j.next + 1 })) := by
  change execGatherRecord g s = _
  simp only [execGatherRecord, hj, hheld, Bool.false_eq_true, if_false, if_neg (Nat.not_le.mpr hleft), hrec]

end Sys2Proof.Machine

open Sys2Proof Sys2Proof.Machine

/-- Settles O39: cpl replaces one register of its hart's program; an acceptance lists the copy, which ends at once where it has no run; a
run or record that completes counts, or ends its transfer. -/
theorem transferSteps : Obligations.TransferSteps := by
  unfold Obligations.TransferSteps
  refine ⟨fun L s k n a b own => ?_, fun L s i g hi => ?_, fun s c i j u hj hheld hfirst hrun => ?_, fun s g j u hj hheld hleft hrec => ?_⟩
  · obtain ⟨hothers, -, hharts⟩ := updCtx_onlyHart s L.h (fun c => c.setCopyReg n.toNat (L.copyRegValue n.toNat))
    have hctx := congrArg Hart.ctx (updCtx_hart s L.h (fun c => c.setCopyReg n.toNat (L.copyRegValue n.toNat)))
    refine ⟨_, perform_cpl L s k n a b, hothers, hharts, ?_, fun j hj => ?_, fun hn => ?_, fun hn => ?_⟩
    · rw [State.ctx, updCtx_hart]; rfl
    · rw [State.ctx, hctx, copyReg_setCopyReg, if_neg (Ne.symm hj)]
    · rw [State.ctx, hctx, copyLevel_setCopyReg L _ hn]
    · rw [State.ctx, hctx]; exact copyEnd_setCopyReg L _ own hn
  · obtain ⟨hlen, hxp, hcounts, hdstr, hsstr⟩ := copyJob_fields L s g
    refine ⟨⟨rfl, rfl, rfl, rfl, hlen, hxp, rfl, rfl, hcounts, hdstr, hsstr, ?_, ?_⟩, fun hruns => ?_, fun hruns => ?_⟩
    · rintro rfl
      exact copyJob_counter L s
    · rintro v rfl
      exact copyJob_group L s v
    · refine ⟨L.accepted s g, by rw [perform_copy hi, if_neg hruns], rfl, fun c => accepted_core_ne L s g, ?_, ?_, fun r => ?_, rfl, rfl⟩
      all_goals rw [accepted_core]
      · rfl
      · rfl
      · exact accept_unlanded _ _ _ _ _
    · exact ⟨(L.accepted s g).endCopy L.core (L.copyJob s g), by rw [perform_copy hi, if_pos hruns], endCopy_frees _ _ _⟩
  · obtain ⟨hmem, hcopies⟩ := landRows_others u c j j.next
    refine ⟨_, exec_copyRun hj hheld hfirst hrun, ?_, fun hmore => ?_, fun hlast => ?_⟩
    · split
      · rw [endCopy_mem, hmem]
      · exact hmem
    · rw [if_neg hmore, State.core_updCore, if_pos rfl, Core.countRun, hcopies]
    · rw [if_pos hlast]
      exact endCopy_frees _ _ _
  · refine ⟨_, exec_gatherRecord hj hheld hleft hrec, ?_, fun hmore => ?_, fun hlast => ?_⟩
    · split
      · exact endGather_mem u j
      · rfl
    · rw [if_neg hmore]; rfl
    · rw [if_pos hlast]
      exact endGather_frees u j
end

section
/-! PROOFS. The words of the cluster (R251 to R260): what a message leaves of its home cluster (R262, R264), and what a release with nothing to
wait for and an acquire leave. -/

namespace Sys2Proof.Machine

open Sys2Proof

/-! ### Meanings that stop or go on -/

/-- A meaning whose first part stops goes no further. -/
theorem run_bind_error {α β : Type} {m : M α} {f : α → M β} {s t : State} {e : Stop} (h : m.run s = .error e t) :
    (m >>= f).run s = .error e t := by
  simp only [bind, EStateM.bind, EStateM.run] at h ⊢
  rw [h]

/-- A check that finds no defect goes on. -/
theorem run_if_neg {α : Type} {c : Prop} [Decidable c] {m m' : M α} (hc : ¬ c) (s : State) :
    (if c then m else m').run s = m'.run s := by rw [if_neg hc]

/-! ### A message to a cluster (R262, R264) -/

theorem wakeCluster_cluster (s : State) (cl : Nat) :
    (s.wakeCluster cl).cluster cl = { s.cluster cl with gate := (s.cluster cl).gate.reached } := by
  rw [State.wakeCluster, State.cluster_updCluster, if_pos rfl]

theorem wakeCluster_counters (s : State) (cl : Nat) : ((s.wakeCluster cl).cluster cl).counters = (s.cluster cl).counters := by
  rw [wakeCluster_cluster]

/-- The home cluster that clusterHeld speaks of serves the message at once. -/
theorem clusterHeld.serves {s : State} (hheld : clusterHeld s) :
    (s.wakeCluster (s.homeCluster s.turn)).clusterServes (s.homeCluster s.turn) = true := by
  obtain ⟨-, hrunning | hentering | hunpowered⟩ := hheld
  all_goals rw [State.clusterServes, wakeCluster_cluster]
  · rw [hrunning]; rfl
  · rw [hentering]; rfl
  · simp [State.wakeCluster, hunpowered]

/-- A word whose home cluster serves it goes on, and its message has ended a gate entry there. -/
theorem needCluster_run {s : State} (hheld : clusterHeld s) :
    (needCluster s.turn).run s = .ok () (s.wakeCluster (s.homeCluster s.turn)) := by
  have hserves := hheld.serves
  obtain ⟨hlost, -⟩ := hheld
  unfold needCluster
  rw [run_get_bind]
  dsimp only
  rw [hlost, if_neg Bool.false_ne_true, run_bind_ok (run_modify _ _), run_get_bind, hserves]
  rfl

/-- A wait of the front marks its own hart and closes the open convoy there (R76). -/
theorem holdFront_hart (s : State) (h g : Nat) (w : WaitFor) :
    (s.holdFront h w).hart g = if h = g then { s.hart g with waiting := w, openConvoy := false } else s.hart g := by
  rw [State.holdFront, State.updHart_eq, State.hart_setHart]
  split
  · subst_vars; rfl
  · rfl

theorem holdFront_ctx (s : State) (h g : Nat) (w : WaitFor) : (s.holdFront h w).ctx g = s.ctx g := by
  rw [State.ctx, holdFront_hart]
  split <;> rfl

/-- The front holds where its message has reached the gated home cluster. -/
theorem waitsForWake_holdFront {s : State} (hgate : (s.cluster (s.homeCluster s.turn)).gate = .gated) :
    WaitsForWake s ((s.wakeCluster (s.homeCluster s.turn)).holdFront s.turn (.wake (s.homeCluster s.turn))) := by
  have hcluster : ((s.wakeCluster (s.homeCluster s.turn)).holdFront s.turn (.wake (s.homeCluster s.turn))).cluster (s.homeCluster s.turn) =
      { s.cluster (s.homeCluster s.turn) with gate := .waking } := (wakeCluster_cluster s _).trans (by rw [hgate]; rfl)
  unfold WaitsForWake
  dsimp only
  rw [hcluster, State.pc, holdFront_ctx, holdFront_hart, if_pos rfl]
  exact ⟨rfl, rfl, rfl, rfl, rfl, fun g r => by rw [State.x, holdFront_ctx]; rfl, rfl⟩

section
variable {s : State} (hlost : (s.cluster (s.homeCluster s.turn)).lost.contains (s.hartLno s.turn) = false)
  (hgate : (s.cluster (s.homeCluster s.turn)).gate = .gated) (hpowered : (s.tower (s.homeCluster s.turn / 8)).powered = true)
include hlost hgate hpowered

/-- A word whose home cluster is gated waits for it to wake. -/
theorem needCluster_waits : (needCluster s.turn).run s =
    .error (.wait (.wake (s.homeCluster s.turn))) (s.wakeCluster (s.homeCluster s.turn)) := by
  have hserves : (s.wakeCluster (s.homeCluster s.turn)).clusterServes (s.homeCluster s.turn) = false := by
    rw [State.clusterServes, wakeCluster_cluster, hgate, State.wakeCluster, State.updCluster_at_tower, hpowered]
    rfl
  unfold needCluster
  rw [run_get_bind]
  dsimp only
  rw [hlost, if_neg Bool.false_ne_true, run_bind_ok (run_modify _ _), run_get_bind, hserves]
  rfl

/-- A word of the scalar front that begins with a message to its gated home cluster waits, whatever it would do then. -/
theorem scalarWord_waitsForWake (w : Nat) (f : Unit → M Unit) :
    ∃ t, scalarWord true w s (needCluster s.turn >>= f) = .next t ∧ WaitsForWake s t := by
  have hstop := run_bind_error (f := f) (needCluster_waits hlost hgate hpowered)
  refine ⟨(s.wakeCluster (s.homeCluster s.turn)).holdFront s.turn (.wake (s.homeCluster s.turn)), ?_, ?_⟩
  · simp only [scalarWord, if_true, State.finish, hstop, State.stopped]
    rfl
  · exact waitsForWake_holdFront hgate
end

/-! ### The end of a word of the scalar front -/

theorem OnlyHart.clusters {s t : State} {h : Nat} (ho : OnlyHart s t h) : t.clusters = s.clusters := (congrArg State.clusters ho.1 :)
theorem OnlyHart.tasks {s t : State} {h : Nat} (ho : OnlyHart s t h) : t.tasks = s.tasks := (congrArg State.tasks ho.1 :)
theorem OnlyHart.mmu {s t : State} {h : Nat} (ho : OnlyHart s t h) : t.mmu = s.mmu := (congrArg State.mmu ho.1 :)

section
variable (u : State) (h : Nat) (d : BitVec 7) (v : Word)

/-- The state after retireWith: x[d] written and the word retired. -/
def State.retiredWith : State := (u.setX h d v).retire h

theorem retireWith_run : (retireWith h d v).run u = .ok () (u.retiredWith h d v) := rfl

theorem retiredWith_retires : RetiresWith u (u.retiredWith h d v) h d v (u.past h) := setX_retire u h d v

theorem retiredWith_cluster (cl : Nat) : (u.retiredWith h d v).cluster cl = u.cluster cl := by
  rw [State.cluster, (retiredWith_retires u h d v).1.clusters, State.cluster]

theorem retiredWith_tasks : (u.retiredWith h d v).tasks = u.tasks := (retiredWith_retires u h d v).1.tasks

theorem retiredWith_l1 (c : Nat) : (u.retiredWith h d v).l1 c = u.l1 c := by
  rw [State.l1, (retiredWith_retires u h d v).1.mmu, State.l1]

theorem retiredWith_bovf : ((u.retiredWith h d v).ctx h).bovf = (u.ctx h).bovf := by
  rw [State.ctx, (retiredWith_retires u h d v).2.1]
  rfl

end

/-- A word that has changed no more of harts and memory than the context of its own hart, and neither x nor PC there, completes. -/
theorem retiredWith_completes {s u : State} {d : BitVec 7} {v : Word} (hx : ∀ r, u.x s.turn r = s.x s.turn r)
    (hpc : u.pc s.turn = s.pc s.turn) (hmem : u.mem = s.mem) (hothers : ∀ g, g ≠ s.turn → u.hart g = s.hart g) :
    Completes s (u.retiredWith s.turn d v) d v := by
  obtain ⟨honly, hhart, hwrites⟩ := retiredWith_retires u s.turn d v
  obtain ⟨hrest, -, hharts⟩ := honly
  have htmem : (u.retiredWith s.turn d v).mem = u.mem := (congrArg State.mem hrest :)
  refine ⟨fun r => by rw [hwrites r, hx r], ?_, fun b => by rw [htmem, hmem], fun g hg => (hharts g hg).trans (hothers g hg)⟩
  rw [State.pc, State.ctx, hhart, ← hpc]
  rfl

/-- A word that has changed no hart and no memory completes. -/
theorem retiredWith_completes_of_harts {s u : State} {d : BitVec 7} {v : Word} (hharts : u.harts = s.harts) (hmem : u.mem = s.mem) :
    Completes s (u.retiredWith s.turn d v) d v := by
  have hhart : ∀ g, u.hart g = s.hart g := fun g => by rw [State.hart, hharts, State.hart]
  refine retiredWith_completes (fun r => ?_) ?_ hmem fun g _ => hhart g
  · rw [State.x, State.ctx, hhart, State.x, State.ctx]
  · rw [State.pc, State.ctx, hhart, State.pc, State.ctx]

/-! ### Releases and acquires (R125, R131, R189) -/

/-- An entry that a lookup finds stands in the table. -/
theorem Tbl.mem_of_find {α : Type} {t : Tbl α} {k : Nat} {v : α} (hfind : Tbl.find t k = some v) : (k, v) ∈ t := by
  induction t with
  | nil => cases hfind
  | cons e t ih =>
    obtain ⟨i, u⟩ := e
    rw [Tbl.find] at hfind
    split at hfind
    · subst_vars
      cases hfind
      exact List.mem_cons_self
    · exact List.mem_cons_of_mem _ (ih hfind)

/-- A task without a transfer in flight has no copy on any core (R245). -/
theorem copies_of_transfersDone {s : State} {tid : Nat} (hdone : s.transfersDone tid = true) (c : Nat) :
    ∀ j ∈ (s.core c).copies, j.task ≠ tid := by
  have hcores := List.all_eq_true.mp (Bool.and_eq_true_iff.mp hdone).1
  rw [State.core, Tbl.get_eq_find]
  cases hfind : Tbl.find s.cores c with
  | none => exact fun j hj => absurd hj List.not_mem_nil
  | some k => exact fun j hj => bne_iff_ne.mp (List.all_eq_true.mp (hcores _ (Tbl.mem_of_find hfind)) j hj)

/-- Nor has it a gather (R356). -/
theorem gathers_of_transfersDone {s : State} {tid : Nat} (hdone : s.transfersDone tid = true) : ∀ g ∈ s.gathers, g.task ≠ tid :=
  fun g hg => bne_iff_ne.mp (List.all_eq_true.mp (Bool.and_eq_true_iff.mp hdone).2 g hg)

/-- A release with nothing to wait for goes on at once. -/
theorem needRelease_run {s : State} {h : Nat} (hready : releaseReady s h) : (needRelease h).run s = .ok () s := by
  obtain ⟨hqueue, hdone⟩ := hready
  have hcopies : (s.core (coreOf h)).copies.filter (fun j => some j.task == (s.hart h).task) = [] :=
    List.filter_eq_nil_iff.mpr fun j hj htask => copies_of_transfersDone (hdone j.task (eq_of_beq htask).symm) _ j hj rfl
  have hgathers : s.gathers.filter (fun g => some g.task == (s.hart h).task && gaDsp g.block == 0) = [] :=
    List.filter_eq_nil_iff.mpr fun g hg hboth =>
      gathers_of_transfersDone (hdone g.task (eq_of_beq (Bool.and_eq_true_iff.mp hboth).1).symm) g hg rfl
  have hcopied : (copiesTranslate h).run s = .ok true s := by
    unfold copiesTranslate
    rw [run_get_bind, hcopies]
    rfl
  have hgathered : (gathersTranslate h).run s = .ok true s := by
    unfold gathersTranslate
    rw [run_get_bind, hgathers]
    rfl
  unfold needRelease
  rw [run_get_bind, hqueue]
  exact (run_bind_ok hcopied).trans ((run_bind_ok hgathered).trans rfl)

theorem releaseReady_wakeCluster {s : State} {h : Nat} (hready : releaseReady s h) (cl : Nat) : releaseReady (s.wakeCluster cl) h := hready

/-- Nothing but the caches differs. -/
def MmuOnly (s t : State) : Prop := ∃ m, t = { s with mmu := m }

theorem mmuOnly_composes : Composes MmuOnly where
  refl s := ⟨s.mmu, rfl⟩
  trans := by
    rintro s t u ⟨m, rfl⟩ ⟨n, rfl⟩
    exact ⟨n, rfl⟩

theorem dropBehind_mmuOnly (s : State) (c : Nat) : MmuOnly s (s.dropBehind c) := by
  unfold State.dropBehind
  split
  · exact mmuOnly_composes.refl s
  · exact ⟨_, rfl⟩

theorem clearL1_mmuOnly (s : State) (c : Nat) : MmuOnly s (s.clearL1 c) := by
  unfold State.clearL1
  split
  · exact mmuOnly_composes.refl s
  · exact ⟨_, rfl⟩

/-- An acquire changes caches, and what core-scope acquires were still to drop (R125, R286). -/
theorem acquire_eq (s : State) (h scope : Nat) : ∃ m cs, s.acquire h scope = { s with mmu := m, cores := cs } := by
  have hlines : MmuOnly s (if scope = 0 then
      ((s.core (coreOf h)).relLines.foldl (fun s n => s.dropL1 (coreOf h) (64 * n) 64) s).dropBehind (coreOf h)
      else s.clearL1 (coreOf h)) := by
    split
    · exact mmuOnly_composes.trans (foldl_composes mmuOnly_composes (fun u n => dropL1_mmu u _ _ _) _ s) (dropBehind_mmuOnly _ _)
    · exact clearL1_mmuOnly s _
  obtain ⟨m, hlines⟩ := hlines
  unfold State.acquire
  dsimp only
  rw [hlines]
  split
  · exact ⟨m, s.cores, rfl⟩
  · exact ⟨m, _, rfl⟩

/-- An acquire wider than the core leaves its L1 empty (R125). -/
theorem acquire_l1 (s : State) (h : Nat) {scope : Nat} (hwide : scope ≠ 0) : (s.acquire h scope).l1 (coreOf h) = [] := by
  obtain ⟨-, -, -, -, hl1⟩ := clearL1_leaves s (coreOf h)
  unfold State.acquire
  dsimp only
  rw [if_neg hwide]
  split
  · exact hl1
  · exact hl1

end Sys2Proof.Machine
end

section
/-! PROOFS. Barriers (R251 to R255): an arrival of the model is that of the spec, and what each barrier word leaves. -/

namespace Sys2Proof.Machine

open Sys2Proof

/-! ### Arrivals (R253) -/

/-- The barrier that an arrival counts on: its OV is cleared first where the operand asks for it. -/
def Barrier.cleared (b : Barrier) (clear : Bool) : Barrier := if clear then { b with ov := false } else b

theorem Barrier.cleared_eq (b : Barrier) (clear : Bool) : b.cleared clear = { b with ov := b.ov && !clear } := by
  cases clear <;> simp [Barrier.cleared]

/-- The model's arrival is R253's: refused where more than EXP would be carried over, else one phase on, or two where EXP is. -/
theorem arrive_cleared (b : Barrier) (e n : Nat) (clear : Bool) : (b.cleared clear).arrive e n = arrived b e n clear := by
  rw [Barrier.cleared_eq]
  obtain ⟨ph, cnt, exp, ov⟩ := b
  unfold Barrier.arrive arrived
  dsimp only
  have hexp : (if cnt = 0 then ({ ph, cnt, exp := e, ov := ov && !clear } : Barrier) else { ph, cnt, exp, ov := ov && !clear }) =
      { ph, cnt, exp := if cnt = 0 then e else exp, ov := ov && !clear } := by split <;> rfl
  rw [hexp]
  dsimp only
  generalize (if cnt = 0 then e else exp) = x
  generalize cnt + n = total
  by_cases hshort : total < x
  · simp only [hshort, if_true]
  by_cases hrefused : 2 * x < total
  · have hcarry : x < total - x := by omega
    simp only [hshort, hrefused, hcarry, if_true, if_false]
  have hcarry : ¬ x < total - x := by omega
  have hov : (0 < total - x) = (x < total) := by simp only [eq_iff_iff]; omega
  by_cases htwo : total = 2 * x
  · have hall : total - x = x := by omega
    have hph : ((ph + 1) % 65536 + 1) % 65536 = (ph + 2) % 2 ^ 16 := by omega
    rw [if_neg hshort, if_neg hcarry, if_neg hshort, if_neg hrefused, if_pos htwo, if_pos hall, hph]
    simp only [hov]
  · have hall : ¬ total - x = x := by omega
    rw [if_neg hshort, if_neg hcarry, if_neg hshort, if_neg hrefused, if_neg htwo, if_neg hall]
    simp only [hov]
    rfl

/-! ### bar.arrive -/

/-- A barrier replaced. -/
def State.setBarrier (s : State) (cl lno bar : Nat) (v : Barrier) : State :=
  s.updCluster cl (fun k => { k with bars := Tbl.set k.bars (barKey lno bar) v })

theorem bar_setBarrier (s : State) (cl lno bar : Nat) (v : Barrier) : ((s.setBarrier cl lno bar v).cluster cl).bar lno bar = v := by
  rw [State.setBarrier, State.cluster_updCluster, if_pos rfl]
  exact Tbl.get_set_self _ _ _ _

/-- A refused arrival is latched for the hart that made it. -/
def State.latchRefused (s : State) (h bar : Nat) (refused : Bool) : State :=
  if refused then s.updCtx h (fun c => { c with bovf := some bar }) else s

theorem run_latchRefused (u : State) (h bar : Nat) (refused : Bool) (m : M Unit) :
    (do if refused then modify (fun s => s.updCtx h (fun c => { c with bovf := some bar }))
        m : M Unit).run u = m.run (u.latchRefused h bar refused) := by
  cases refused <;> rfl

/-- The state in which bar.arrive has counted, before it writes x[d]. -/
def State.counted (s : State) (h bar : Nat) (r : Barrier × Bool) : State :=
  ((s.wakeCluster (s.homeCluster h)).setBarrier (s.homeCluster h) (s.hartLno h) bar r.1).latchRefused h bar r.2

theorem bit_63_eq_msb (w : Word) : bit w.toNat 63 = w.msb := reqRel_word w

section
variable {s : State} {a : BitVec 7} (hheld : clusterHeld s) (hbad : barWordBad (s.x s.turn a).toNat = false)
include hheld hbad

theorem exec_barArrive (d : BitVec 7) {b : BitVec 7} (hready : releaseReady s s.turn) (hexp : bits (s.x s.turn a).toNat 27 16 ≠ 0)
    (hpos : 1 ≤ (s.x s.turn b).toNat) (hmax : (s.x s.turn b).toNat ≤ 4095) {old : Barrier}
    (hold : (s.cluster (s.homeCluster s.turn)).bar (s.hartLno s.turn) (bits (s.x s.turn a).toNat 2 0) = old)
    (hfits : old.cnt = 0 ∨ old.exp = bits (s.x s.turn a).toNat 27 16) :
    exec (.barArrive true d a b) s =
      .next ((s.counted s.turn (bits (s.x s.turn a).toNat 2 0)
        (arrived old (bits (s.x s.turn a).toNat 27 16) (s.x s.turn b).toNat (s.x s.turn a).msb)).retiredWith s.turn d (word old.ph)) := by
  have hargs : ¬ (barWordBad (s.x s.turn a).toNat || bits (s.x s.turn a).toNat 27 16 == 0 || (s.x s.turn b).toNat == 0 ||
      decide (4095 < (s.x s.turn b).toNat)) = true := by
    simp only [hbad, Bool.false_or, Bool.or_eq_true, beq_iff_eq, decide_eq_true_eq]
    omega
  have hcur : (old.cleared (bit (s.x s.turn a).toNat 63)) = { old with ov := old.ov && !bit (s.x s.turn a).toNat 63 } := old.cleared_eq _
  have hmatch : ¬ ((old.cleared (bit (s.x s.turn a).toNat 63)).cnt != 0 &&
      (old.cleared (bit (s.x s.turn a).toNat 63)).exp != bits (s.x s.turn a).toNat 27 16) = true := by
    rw [hcur]
    simpa [imp_iff_not_or] using hfits
  have harrive := arrive_cleared old (bits (s.x s.turn a).toNat 27 16) (s.x s.turn b).toNat (bit (s.x s.turn a).toNat 63)
  have hph : (old.cleared (bit (s.x s.turn a).toNat 63)).ph = old.ph := by rw [hcur]
  rw [← bit_63_eq_msb, ← harrive, ← hph]
  subst hold
  change execBarArrive true d a b s = _
  unfold execBarArrive
  exact scalarWord_ok ((run_bind_ok (needCluster_run hheld)).trans ((run_if_neg hargs _).trans
    ((run_bind_ok (needRelease_run (releaseReady_wakeCluster hready _))).trans ((run_if_neg hmatch _).trans
    ((run_bind_ok (run_modify _ _)).trans ((run_latchRefused _ _ _ _ _).trans (retireWith_run _ _ _ _)))))))

/-! ### bar.wait -/

theorem exec_barWait (d : BitVec 7) {b : BitVec 7} {old : Barrier}
    (hold : (s.cluster (s.homeCluster s.turn)).bar (s.hartLno s.turn) (bits (s.x s.turn a).toNat 2 0) = old)
    (hpassed : phasePassed old.ph ((s.x s.turn b).toNat % 65536) = true) (hbovf : (s.ctx s.turn).bovf = none)
    (hguard : (s.ctx s.turn).guard = none) (hcopy : (s.ctx s.turn).copyFault = none) :
    exec (.barWait true d a b) s =
      .next (((s.wakeCluster (s.homeCluster s.turn)).acquire s.turn (bits (s.x s.turn a).toNat 61 59)).retiredWith s.turn d
        (word old.status)) := by
  subst hold
  change execBarWait true d a b s = _
  unfold execBarWait
  refine scalarWord_ok ((run_bind_ok (needCluster_run hheld)).trans ?_)
  simp only [hbad, hbovf, hguard, hcopy, hpassed, ite_self, Bool.not_true, Bool.false_eq_true, if_false]
  rfl
end

/-! ### What the barrier words leave -/

/-- The arrival changes the context of its hart, and there BOVF alone. -/
theorem counted_leaves (s : State) (h bar : Nat) (r : Barrier × Bool) :
    (s.counted h bar r).mem = s.mem ∧ (∀ g, g ≠ h → (s.counted h bar r).hart g = s.hart g) ∧
    (s.counted h bar r).ctx h = { s.ctx h with bovf := if r.2 then some bar else (s.ctx h).bovf } ∧
    ((s.counted h bar r).cluster (s.homeCluster h)).bar (s.hartLno h) bar = r.1 := by
  obtain ⟨v, refused⟩ := r
  have hbar := bar_setBarrier (s.wakeCluster (s.homeCluster h)) (s.homeCluster h) (s.hartLno h) bar v
  unfold State.counted State.latchRefused
  cases refused with
  | false => exact ⟨rfl, fun _ _ => rfl, rfl, hbar⟩
  | true =>
    simp only [if_true]
    refine ⟨rfl, fun g hg => (updCtx_onlyHart _ h _).2.2 g hg, ?_, hbar⟩
    rw [State.ctx, updCtx_hart]
    rfl

theorem counted_completes (s : State) (bar : Nat) (r : Barrier × Bool) (d : BitVec 7) (v : Word) :
    let t := (s.counted s.turn bar r).retiredWith s.turn d v
    Completes s t d v ∧ (t.cluster (s.homeCluster s.turn)).bar (s.hartLno s.turn) bar = r.1 ∧
      (t.ctx s.turn).bovf = if r.2 then some bar else (s.ctx s.turn).bovf := by
  obtain ⟨hmem, hothers, hctx, hbar⟩ := counted_leaves s s.turn bar r
  refine ⟨retiredWith_completes (fun r => by rw [State.x, hctx, State.x]) (by rw [State.pc, hctx, State.pc]) hmem hothers, ?_, ?_⟩
  · rw [retiredWith_cluster, hbar]
  · rw [retiredWith_bovf, hctx]

theorem acquired_completes (s : State) (cl lno bar scope : Nat) (d : BitVec 7) (v : Word) :
    let t := ((s.wakeCluster cl).acquire s.turn scope).retiredWith s.turn d v
    Completes s t d v ∧ (t.cluster cl).bar lno bar = (s.cluster cl).bar lno bar ∧ (scope ≠ 0 → t.l1 (coreOf s.turn) = []) := by
  have hl1 := acquire_l1 (s.wakeCluster cl) s.turn (scope := scope)
  obtain ⟨m, cs, hacquire⟩ := acquire_eq (s.wakeCluster cl) s.turn scope
  refine ⟨retiredWith_completes_of_harts (by rw [hacquire]; rfl) (by rw [hacquire]; rfl), ?_, fun hwide => ?_⟩
  · rw [retiredWith_cluster, hacquire]
    exact (congrArg (Cluster.bar · lno bar) (wakeCluster_cluster s cl)).trans rfl
  · rw [retiredWith_l1, hl1 hwide]

end Sys2Proof.Machine

open Sys2Proof Sys2Proof.Machine

/-- Settles O30: each word begins with a message to its home cluster, which a gated one makes wait; the model's count of an arrival is
R253's, and a wait that is over is an acquire. -/
theorem barrierWords : Obligations.BarrierWords := by
  unfold Obligations.BarrierWords
  refine ⟨fun s d a b hlost hgate hpowered => ?_, fun s d a b hheld hbad => ?_⟩
  · have hwaits := scalarWord_waitsForWake hlost hgate hpowered
    exact ⟨hwaits (wordR 0x3E 0 true d.toNat a.toNat b.toNat) _, hwaits (wordR 0x3E 1 true d.toNat a.toNat b.toNat) _,
      hwaits (wordR 0x3E 2 true d.toNat a.toNat b.toNat) _, hwaits (wordR 0x3E 3 true d.toNat a.toNat 0) _⟩
  · have hbar : bits (s.x s.turn a).toNat 2 0 = (s.x s.turn a).toNat % 8 := bits_low _ 2
    dsimp only
    rw [← hbar]
    refine ⟨fun hready hexp hpos hmax hfits => ?_, fun hpassed hbovf hguard hcopy => ?_⟩
    · exact ⟨_, exec_barArrive hheld hbad d hready hexp hpos hmax rfl hfits, counted_completes s _ _ d _⟩
    · exact ⟨_, exec_barWait hheld hbad d rfl hpassed hbovf hguard hcopy, acquired_completes s _ _ _ _ d _⟩
end

section
/-! PROOFS. Named tasks (R257 to R260): the lowest free counter, the record of a definition, and a counter that reaches zero. -/

namespace Sys2Proof.Machine

open Sys2Proof

/-! ### tsk.def -/

/-- The lowest free counter of a slice (R257). -/
theorem lowestFree_eq_some {held : Tbl DepCounter} {c : Nat} (hc : c < 1024) (hfree : Tbl.find held c = none)
    (hlower : ∀ k, k < c → (Tbl.find held k).isSome = true) :
    (List.range 1024).find? (fun k => (Tbl.find held k).isNone) = some c := by
  rw [List.find?_range_eq_some]
  exact ⟨by rw [hfree]; rfl, List.mem_range.mpr hc, fun k hk => by simp [hlower k hk]⟩

/-- A slice whose counters are all held has none free. -/
theorem lowestFree_eq_none {held : Tbl DepCounter} (hfull : ∀ k, k < 1024 → (Tbl.find held k).isSome = true) :
    (List.range 1024).find? (fun k => (Tbl.find held k).isNone) = none := by
  rw [List.find?_range_eq_none]
  exact fun k hk => by simp [hfull k hk]

/-- The counter that tsk.def sets up for hart h (R259). -/
def State.defined (s : State) (h n record : Nat) : DepCounter :=
  let cx := s.ctx h
  { lno := s.hartLno h, count := n, record := record, key := cx.key, pkey := cx.pkey, prio := cx.prio, prv := cx.prv }

/-- Counter c of a cluster is held from now on. -/
def State.holdCounter (s : State) (cl c : Nat) (dc : DepCounter) : State :=
  s.updCluster cl (fun k => { k with counters := Tbl.set k.counters c dc })

/-- The end of tsk.def on hart h: the counter that was found holds the definition and x[d] its number, or x[d] is all ones (R259). -/
def State.defineOn (u : State) (h cl : Nat) (d : BitVec 7) (dc : DepCounter) : Option Nat → State
  | none => u.retiredWith h d (word (2 ^ 64 - 1))
  | some c => (u.holdCounter cl c dc).retiredWith h d (word c)

theorem SideOnly.clusters {s t : State} (hside : SideOnly s t) : t.clusters = s.clusters := (congrArg State.clusters hside.1 :)

/-- The read of a record changes what a translation may change alone (R343). -/
theorem readHome_keeps {r : Req} (hr : r.keep = none) (cause : Nat) (orig : Word) (va len : Nat) :
    Keeps SideOnly (readHome r cause orig va len) := by
  have hstop : ∀ (a : Acc) (e : AccFault), Keeps SideOnly (stopAccess r a cause orig e : M PUnit) := fun a e => by
    unfold stopAccess
    split
    all_goals exact keeps_throw sideOnly_composes _
  unfold readHome
  refine keeps_bind sideOnly_composes (resolveOr_keeps hr _ _ _ _ _) fun ps => keeps_get_bind sideOnly_composes fun s => ?_
  split
  · exact keeps_bind sideOnly_composes (hstop _ _) (fun _ => keeps_pure sideOnly_composes _) s
  · exact keeps_pure sideOnly_composes _ s

section
variable {s u : State} {a b : BitVec 7} {record : Nat} {ps : List Piece}
  (hread : (readHome ((s.wakeCluster (s.homeCluster s.turn)).reqOf s.turn) cSACC (s.x s.turn a) (s.x s.turn a).toNat 64).run
    (s.wakeCluster (s.homeCluster s.turn)) = .ok (record, ps) u)
include hread

/-- The read of the record leaves harts, memory and the counters. -/
theorem definition_read : (u.countHops (coreOf s.turn) ps).harts = s.harts ∧ (u.countHops (coreOf s.turn) ps).mem = s.mem ∧
    ((u.countHops (coreOf s.turn) ps).cluster (s.homeCluster s.turn)).counters = (s.cluster (s.homeCluster s.turn)).counters := by
  have hside : SideOnly (s.wakeCluster (s.homeCluster s.turn)) u := by
    have hkeeps := readHome_keeps (r := (s.wakeCluster (s.homeCluster s.turn)).reqOf s.turn) rfl cSACC (s.x s.turn a)
      (s.x s.turn a).toNat 64 (s.wakeCluster (s.homeCluster s.turn))
    unfold KeepsAt at hkeeps
    rwa [hread] at hkeeps
  have hcounted := sideOnly_composes.trans hside (countHops_sideOnly u (coreOf s.turn) ps)
  refine ⟨hcounted.harts, hcounted.mem, ?_⟩
  rw [State.cluster, hcounted.clusters]
  exact wakeCluster_counters s _

variable (hheld : clusterHeld s) (halign : (s.x s.turn a).toNat % 64 = 0) (hspace : (s.x s.turn a).toNat < 2 ^ 56)
  (hpos : 1 ≤ (s.x s.turn b).toNat) (hmax : (s.x s.turn b).toNat ≤ 65535) (hgood : defBad record = false)
include hheld halign hspace hpos hmax hgood

/-- A definition whose record may be read and is sound takes the counter that is found free. -/
theorem exec_tskDef (d : BitVec 7) {o : Option Nat}
    (hfind : (List.range 1024).find? (fun k => (Tbl.find (s.cluster (s.homeCluster s.turn)).counters k).isNone) = o) :
    exec (.tskDef true d a b) s = .next ((u.countHops (coreOf s.turn) ps).defineOn s.turn (s.homeCluster s.turn) d
      (s.defined s.turn (s.x s.turn b).toNat record) o) := by
  have hargs : ¬ ((s.x s.turn a).toNat % 64 != 0 || bits (s.x s.turn a).toNat 63 56 != 0 || (s.x s.turn b).toNat == 0 ||
      decide (65535 < (s.x s.turn b).toNat)) = true := by
    have hhigh : bits (s.x s.turn a).toNat 63 56 = 0 := by rw [bits]; omega
    simp only [halign, hhigh, bne_self_eq_false, Bool.false_or, Bool.or_eq_true, beq_iff_eq, decide_eq_true_eq]
    omega
  have haddr : word (s.x s.turn a).toNat = s.x s.turn a := by rw [word, BitVec.ofNat_toNat, BitVec.setWidth_eq]
  have hread' : (readHome ((s.wakeCluster (s.homeCluster s.turn)).reqOf s.turn) cSACC (word (s.x s.turn a).toNat) (s.x s.turn a).toNat
      64).run (s.wakeCluster (s.homeCluster s.turn)) = .ok (record, ps) u := by rw [haddr]; exact hread
  have hsound : ¬ defBad record = true := by rw [hgood]; exact Bool.false_ne_true
  change execTskDef true d a b s = _
  unfold execTskDef
  refine scalarWord_ok ((run_bind_ok (needCluster_run hheld)).trans ((run_if_neg hargs _).trans
    ((run_get_bind _ _).trans ((run_bind_ok hread').trans ((run_bind_ok (run_modify _ _)).trans ((run_if_neg hsound _).trans ?_))))))
  dsimp only
  rw [hfind]
  cases o <;> rfl

end

theorem holdCounter_find (u : State) (cl c : Nat) (dc : DepCounter) : Tbl.find ((u.holdCounter cl c dc).cluster cl).counters c = some dc := by
  rw [State.holdCounter, State.cluster_updCluster, if_pos rfl]
  exact Tbl.find_set_self _ _ _

/-! ### tsk.dec -/

/-- A decrement that reaches the cluster of a counter that is held by its launch releases, then counts. -/
theorem exec_tskDec {s : State} {a : BitVec 7} (hheld : clusterHeld s) (hc : (s.x s.turn a).toNat < 1024) (hready : releaseReady s s.turn)
    {dc : DepCounter} (hfind : Tbl.find (s.cluster (s.homeCluster s.turn)).counters (s.x s.turn a).toNat = some dc)
    (hlno : dc.lno = s.hartLno s.turn) (d : BitVec 7) :
    exec (.tskDec true d a) s =
      .next (((s.wakeCluster (s.homeCluster s.turn)).decCounter (s.homeCluster s.turn) (s.x s.turn a).toNat).retiredWith s.turn d
        (word dc.count)) := by
  change execTskDec true d a s = _
  unfold execTskDec
  refine scalarWord_ok ((run_bind_ok (needCluster_run hheld)).trans ((run_if_neg (Nat.not_le.mpr hc) _).trans
    ((run_bind_ok (needRelease_run (releaseReady_wakeCluster hready _))).trans ?_)))
  dsimp only
  rw [hfind]
  dsimp only
  rw [hlno, if_neg (by simp)]
  exact (run_bind_ok (run_modify _ _)).trans (retireWith_run _ _ _ _)

/-- A named task becomes ready (R257, R261): it takes the next place among the tasks, and no hart, memory or counter differs. -/
theorem createNamed_leaves (s : State) (cl : Nat) (dc : DepCounter) :
    (s.createNamed cl dc).harts = s.harts ∧ (s.createNamed cl dc).mem = s.mem ∧
    ((s.createNamed cl dc).cluster cl).counters = (s.cluster cl).counters ∧
    ∃ k, Tbl.find (s.createNamed cl dc).tasks s.nextTask = some k ∧ k.st = .ready ∧ k.lno = dc.lno ∧ k.home = cl ∧ k.started = false := by
  have hcounters : ((s.holdBarriers dc.lno cl).cluster cl).counters = (s.cluster cl).counters := by
    unfold State.holdBarriers
    split
    · rfl
    · rw [State.cluster_updCluster, if_pos rfl]
  have hrest := holdBarriers_clustersOnly s dc.lno cl
  refine ⟨(congrArg State.harts hrest :), (congrArg State.mem hrest :), hcounters, ?_⟩
  have hnext : (s.holdBarriers dc.lno cl).nextTask = s.nextTask := (congrArg State.nextTask hrest :)
  rw [← hnext]
  exact ⟨_, Tbl.find_set_self _ _ _, rfl, rfl, rfl, rfl⟩

section
variable {s : State} {cl c : Nat} {dc : DepCounter} (hfind : Tbl.find (s.cluster cl).counters c = some dc)
include hfind

/-- A count above one falls by one (R260). -/
theorem decCounter_falls (hmore : 2 ≤ dc.count) : s.decCounter cl c = s.holdCounter cl c { dc with count := dc.count - 1 } := by
  unfold State.decCounter
  rw [hfind]
  dsimp only
  rw [if_neg (by omega)]
  rfl

/-- A count that reaches zero frees its counter, and its task is created. -/
theorem decCounter_frees (hlast : dc.count ≤ 1) :
    s.decCounter cl c = (s.updCluster cl (fun k => { k with counters := Tbl.del k.counters c })).createNamed cl dc := by
  unfold State.decCounter
  rw [hfind]
  exact if_pos hlast

theorem decCounter_leaves : (s.decCounter cl c).harts = s.harts ∧ (s.decCounter cl c).mem = s.mem := by
  by_cases hlast : dc.count ≤ 1
  · obtain ⟨hharts, hmem, -⟩ := createNamed_leaves (s.updCluster cl (fun k => { k with counters := Tbl.del k.counters c })) cl dc
    rw [decCounter_frees hfind hlast]
    exact ⟨hharts, hmem⟩
  · rw [decCounter_falls hfind (by omega)]
    exact ⟨rfl, rfl⟩

theorem decCounter_falls_find (hmore : 2 ≤ dc.count) :
    Tbl.find ((s.decCounter cl c).cluster cl).counters c = some { dc with count := dc.count - 1 } := by
  rw [decCounter_falls hfind hmore, holdCounter_find]

theorem decCounter_frees_find (hlast : dc.count ≤ 1) : Tbl.find ((s.decCounter cl c).cluster cl).counters c = none ∧
    ∃ k, Tbl.find (s.decCounter cl c).tasks s.nextTask = some k ∧ k.st = .ready ∧ k.lno = dc.lno ∧ k.home = cl ∧ k.started = false := by
  obtain ⟨-, -, hcounters, htask⟩ := createNamed_leaves (s.updCluster cl (fun k => { k with counters := Tbl.del k.counters c })) cl dc
  rw [decCounter_frees hfind hlast]
  refine ⟨?_, htask⟩
  rw [hcounters, State.cluster_updCluster, if_pos rfl]
  exact Tbl.find_del _ _

end

end Sys2Proof.Machine

open Sys2Proof Sys2Proof.Machine

/-- Settles O31: a definition holds the counter that the search finds, or none; a decrement replaces the counter, or frees it for the task
that it makes ready. -/
theorem namedTaskWords : Obligations.NamedTaskWords := by
  unfold Obligations.NamedTaskWords
  refine fun s d a b hheld => ⟨?_, ?_⟩
  · rintro n record ps u halign hspace rfl hpos hmax s' hread hgood
    obtain ⟨hharts, hmem, hcounters⟩ := definition_read hread
    have hexec := fun {o} => exec_tskDef (o := o) hread hheld halign hspace hpos hmax hgood d
    refine ⟨fun c hc hfree hlower => ?_, fun hfull => ?_⟩
    · refine ⟨_, s.defined s.turn (s.x s.turn b).toNat record, hexec (lowestFree_eq_some hc hfree hlower),
        retiredWith_completes_of_harts hharts hmem, ?_, rfl, rfl, rfl, rfl, rfl⟩
      rw [State.defineOn, retiredWith_cluster, holdCounter_find]
    · refine ⟨_, hexec (lowestFree_eq_none hfull), retiredWith_completes_of_harts hharts hmem, ?_⟩
      rw [State.defineOn, retiredWith_cluster, hcounters]
  · rintro c dc rfl hc hready hfind hlno
    have hfind' : Tbl.find ((s.wakeCluster (s.homeCluster s.turn)).cluster (s.homeCluster s.turn)).counters (s.x s.turn a).toNat = some dc := by
      rw [wakeCluster_counters, hfind]
    obtain ⟨hharts, hmem⟩ := decCounter_leaves hfind'
    refine ⟨_, exec_tskDec hheld hc hready hfind hlno d, retiredWith_completes_of_harts hharts hmem, fun hmore => ?_, fun hlast => ?_⟩
    · rw [retiredWith_cluster, decCounter_falls_find hfind' hmore]
    · rw [retiredWith_cluster, retiredWith_tasks, ← hlno]
      exact decCounter_frees_find hfind' hlast
end

section
/-! PROOFS. Power (R263 to R268): gate entry and wakes, lane-group LDOs, and the sample of the Dewpoint loop. -/

namespace Sys2Proof.Machine

open Sys2Proof

/-! ### Gate entry (R263, R264) -/

/-- A cluster that begins gate entry changes no core. -/
theorem enterCluster_core (s : State) (cl c : Nat) : (s.enterCluster cl).core c = s.core c := by
  unfold State.enterCluster
  split <;> rfl

theorem gidle_eq (k : Cluster) : k.gidle = k.pgcfg / 2 ^ 32 % 2 ^ 32 := rfl

section
variable {s : State} {c : Nat} (hmay : s.mayGate c = true)
include hmay

/-- A running core that has been idle long enough begins gate entry. -/
theorem exec_coreGate (hrunning : (s.core c).gate = .running)
    (hidle : (s.cluster (clusterOf c)).pgcfg / 2 ^ 32 % 2 ^ 32 ≤ (s.core c).idle) :
    exec (.coreGate c) s = .next (s.updCore c (fun k => { k with gate := .entering })) := by
  change execCoreGate c s = _
  unfold execCoreGate
  rw [hrunning]
  simp only [hmay, gidle_eq, hidle, decide_true, Bool.and_true, if_true]

/-- The entry of a core whose conditions still hold gates it. -/
theorem exec_gateEntryComplete_core (hentering : (s.core c).gate = .entering) :
    exec (.gateEntryComplete (.core c)) s =
      .next ((s.updCore c (fun k => { k with gate := .gated })).enterCluster (clusterOf c)) := by
  change execGateEntryComplete (.core c) s = _
  simp only [execGateEntryComplete, hentering, hmay, bne_self_eq_false, Bool.not_true, Bool.false_eq_true, if_false]

end

/-- The entry of a cluster ends with it gated where its conditions still hold, and running where they do not. -/
theorem exec_gateEntryComplete_cluster {s : State} {cl : Nat} (hentering : (s.cluster cl).gate = .entering) :
    exec (.gateEntryComplete (.cluster cl)) s =
      .next (s.updCluster cl (fun k => { k with gate := if s.mayGateCluster cl then .gated else .running })) := by
  change execGateEntryComplete (.cluster cl) s = _
  simp only [execGateEntryComplete, hentering, bne_self_eq_false, Bool.false_eq_true, if_false]

/-! ### Wakes (R264) -/

theorem exec_wakeComplete_core {s : State} {c : Nat} (hwaking : (s.core c).gate = .waking) :
    exec (.wakeComplete (.core c)) s = .next (s.updCore c (fun k => { k with gate := .running })) := by
  change execWakeComplete (.core c) s = _
  simp only [execWakeComplete, hwaking, beq_self_eq_true, if_true]

/-- The cluster runs, with no message at its port any more. -/
def State.awake (s : State) (cl : Nat) : State := s.updCluster cl (fun k => { k with gate := .running, port := [] })

theorem awake_cluster (s : State) (cl : Nat) : (s.awake cl).cluster cl = { s.cluster cl with gate := .running, port := [] } := by
  rw [State.awake, State.cluster_updCluster, if_pos rfl]

/-- The later of two entries at one key stands. -/
theorem Tbl.set_set {α : Type} (t : Tbl α) (k : Nat) (u v : α) : Tbl.set (Tbl.set t k u) k v = Tbl.set t k v := by
  induction t with
  | nil => simp [Tbl.set]
  | cons e t ih =>
    obtain ⟨i, w⟩ := e
    by_cases hbefore : k < i
    · simp [Tbl.set, hbefore]
    · by_cases hat : k = i
      · simp [Tbl.set, hat]
      · simp [Tbl.set, hbefore, hat, ih]

/-- Two changes of a cluster are one. -/
theorem updCluster_updCluster (s : State) (cl : Nat) (f g : Cluster → Cluster) :
    (s.updCluster cl f).updCluster cl g = s.updCluster cl (fun k => g (f k)) := by
  rw [State.updCluster, State.cluster_updCluster, if_pos rfl, State.updCluster, State.updCluster, Tbl.set_set]

/-- The wake of a cluster ends with the messages that stood at its port performed in their order. -/
theorem exec_wakeComplete_cluster {s : State} {cl : Nat} (hwaking : (s.cluster cl).gate = .waking) :
    exec (.wakeComplete (.cluster cl)) s =
      .next ((s.cluster cl).port.foldl (fun t m => t.decNow cl m.1 m.2) (s.awake cl)) := by
  change execWakeComplete (.cluster cl) s = _
  simp only [execWakeComplete, hwaking, beq_self_eq_true, if_true, State.servePort, updCluster_updCluster, State.cluster_updCluster]
  rfl

/-- A decrement held at the port is performed where its launch holds the counter (R243, R257). -/
theorem decNow_of_held {s : State} {cl lno c : Nat} {dc : DepCounter} (hfind : Tbl.find (s.cluster cl).counters c = some dc)
    (hlno : dc.lno = lno) : s.decNow cl lno c = s.decCounter cl c := by
  have hholds : s.holdsCounter cl lno c = true := by
    unfold State.holdsCounter
    rw [hfind]
    exact beq_iff_eq.mpr hlno
  rw [State.decNow, hholds, if_pos rfl]

/-! ### Lane-group LDOs (R266) -/

theorem exec_ldoSettle (s : State) (c g : Nat) :
    exec (.ldoSettle c g) s = .next (s.updCore c (fun k => { k with settling := k.settling.filter (· != g) })) := rfl

/-! ### The Dewpoint loop (R267, R268) -/

/-- VCODE moves by one step, between its bounds (R267). -/
theorem nextVcode_eq {p : Nat} (hon : p % 2 = 1) (v mm : Nat) :
    nextVcode p v mm =
      if mm + p / 2 ^ 36 % 64 < p / 2 ^ 42 % 64 then min (p / 2 ^ 56 % 256) (v + 1)
      else if p / 2 ^ 42 % 64 + p / 2 ^ 36 % 64 < mm then max (p / 2 ^ 48 % 256) (v - 1) else v := by
  have hbit : bit p 0 = true := by simp [bit, hon]
  rw [nextVcode, hbit]
  rfl

/-- A cluster after the sample of a least margin, where `low` says that a monitor reads below EMERG outside the sample (log 103). -/
def Cluster.sampled (k : Cluster) (mm : Nat) (low : Bool) : Cluster :=
  { k with vcode := nextVcode k.dpcfg k.vcode mm, mm := mm % 64,
           emergency := decide (mm < dpEmerg k.dpcfg) || (decide (0 < dpEmerg k.dpcfg) && low) }

theorem exec_dewpointSample (s : State) (cl mm : Nat) :
    exec (.dewpointSample cl mm) s =
      .next (State.updCluster { s with fresh := s.fresh + 1 } cl (fun k => k.sampled mm (Config.monitorLow s.fresh cl))) := rfl

/-- The clock is stretched where the margin or a monitor is below EMERG (R267). -/
theorem sampled_emergency (k : Cluster) (mm : Nat) (low : Bool) :
    (k.sampled mm low).emergency = true ↔ mm < k.dpcfg / 2 ^ 30 % 64 ∨ 0 < k.dpcfg / 2 ^ 30 % 64 ∧ low = true := by
  have hemerg : dpEmerg k.dpcfg = k.dpcfg / 2 ^ 30 % 64 := rfl
  simp only [Cluster.sampled, hemerg, Bool.or_eq_true, Bool.and_eq_true, decide_eq_true_eq]

end Sys2Proof.Machine

open Sys2Proof Sys2Proof.Machine

/-- Settles O32: each event changes one core or one cluster, as its equation above says. -/
theorem powerEvents : Obligations.PowerEvents := by
  unfold Obligations.PowerEvents
  refine fun s => ⟨fun c hrunning hmay hidle => ?_, fun c hentering hmay => ?_, fun cl hentering hmay => ?_, fun c hwaking => ?_,
    fun cl hwaking hport => ?_, fun cl lno c dc hwaking hport hfind hlno hmore => ?_, fun c g => ?_, fun cl mm hmm hon => ?_⟩
  · exact ⟨_, exec_coreGate hmay hrunning hidle, by simp, fun k hk => by simp [Ne.symm hk]⟩
  · exact ⟨_, exec_gateEntryComplete_core hmay hentering, by simp [enterCluster_core]⟩
  · exact ⟨_, exec_gateEntryComplete_cluster hentering, by simp [hmay], rfl⟩
  · exact ⟨_, exec_wakeComplete_core hwaking, by simp, rfl⟩
  · refine ⟨_, exec_wakeComplete_cluster hwaking, ?_⟩
    rw [hport]
    exact ⟨by rw [List.foldl_nil, awake_cluster, ← hport], rfl, rfl, fun k hk => by simp [State.awake, Ne.symm hk]⟩
  · have hawake : Tbl.find ((s.awake cl).cluster cl).counters c = some dc := by rw [awake_cluster]; exact hfind
    refine ⟨_, exec_wakeComplete_cluster hwaking, ?_⟩
    rw [hport, List.foldl_cons, List.foldl_nil, decNow_of_held hawake hlno]
    refine ⟨?_, ?_, decCounter_falls_find hawake hmore, ?_⟩
    all_goals rw [decCounter_falls hawake hmore]
    · simp [State.holdCounter, awake_cluster]
    · simp [State.holdCounter, awake_cluster]
    · rfl
  · exact ⟨_, exec_ldoSettle s c g, fun k => by simp, fun k hk => by simp [Ne.symm hk]⟩
  · have hcluster : ∀ k, (State.updCluster { s with fresh := s.fresh + 1 } cl (fun k => k.sampled mm (Config.monitorLow s.fresh cl))).cluster k =
        if cl = k then (s.cluster cl).sampled mm (Config.monitorLow s.fresh cl) else s.cluster k := fun k => State.cluster_updCluster _ _ _ _
    dsimp only
    refine ⟨_, exec_dewpointSample s cl mm, ?_⟩
    rw [hcluster, if_pos rfl, sampled_emergency]
    exact ⟨Nat.mod_eq_of_lt hmm, Or.inl, id, nextVcode_eq hon _ mm, fun k hk => by rw [hcluster, if_neg (Ne.symm hk)]⟩
end

section
/-! PROOFS. The words that the spec writes out (R184, R251 to R259). -/

open Sys2Proof Sys2Proof.Machine

/-- Settles O3: the decoder evaluated on each of the five words. -/
theorem specWordsDecode : Obligations.SpecWordsDecode := by
  unfold Obligations.SpecWordsDecode
  exact ⟨rfl, rfl, rfl, rfl, rfl⟩
end

section
/-! PROOFS. Memory in canonical form (R276): what it means that a meaning or a step keeps it so, and the rules that the proofs below share. -/

namespace Sys2Proof.Machine

open Sys2Proof

/-! ### What is kept -/

/-- Memory stands in its canonical form. -/
def Canonical (s : State) : Prop := s.mem.wf = true

/-- The change from s to t leaves a canonical memory canonical. -/
def KeepsCanonical (s t : State) : Prop := Canonical s → Canonical t

theorem keepsCanonical_composes : Composes KeepsCanonical where
  refl _ := id
  trans a b h := b (a h)

/-- However the meaning ends, memory stays canonical. -/
def Neat {α : Type} (m : M α) : Prop := Keeps KeepsCanonical m

/-- The next state, where there is one, has a canonical memory. -/
def CanonicalNext (o : Out1) : Prop := ∀ t, o = .next t → Canonical t

/-- The same of a state that may be absent. -/
def CanonicalSome (o : Option State) : Prop := ∀ t, o = some t → Canonical t

section
variable {α β : Type} {s t : State}

/-! ### States -/

theorem canonical_of_mem (h : Canonical s) (e : t.mem = s.mem) : Canonical t := by
  unfold Canonical
  rw [e]
  exact h

theorem canonical_withMem {m : Memory} (h : m.wf = true) : Canonical { s with mem := m } := h

theorem canonical_ite {c : Prop} [Decidable c] (hs : Canonical s) (ht : Canonical t) : Canonical (if c then s else t) := by
  split
  · exact hs
  · exact ht

theorem canonical_ite_fst {c : Prop} [Decidable c] {p q : State × α} (hp : Canonical p.1) (hq : Canonical q.1) :
    Canonical (if c then p else q).1 := by
  split
  · exact hp
  · exact hq

theorem canonical_ite_snd {c : Prop} [Decidable c] {p q : α × State} (hp : Canonical p.2) (hq : Canonical q.2) :
    Canonical (if c then p else q).2 := by
  split
  · exact hp
  · exact hq

theorem canonical_foldl {f : State → α → State} (hf : ∀ s a, Canonical s → Canonical (f s a)) (l : List α) (hs : Canonical s) :
    Canonical (l.foldl f s) := by
  induction l generalizing s with
  | nil => exact hs
  | cons a l ih => exact ih (hf s a hs)

theorem canonical_foldl_fst {f : State × β → α → State × β} (hf : ∀ p a, Canonical p.1 → Canonical (f p a).1) (l : List α)
    {p : State × β} (hp : Canonical p.1) : Canonical (l.foldl f p).1 := by
  induction l generalizing p with
  | nil => exact hp
  | cons a l ih => exact ih (hf p a hp)

/-! ### Next states, and states that may be absent -/

theorem canonicalNext_next (h : Canonical s) : CanonicalNext (.next s) := by
  rintro t ⟨⟩
  exact h

theorem canonicalNext_ite {c : Prop} [Decidable c] {o p : Out1} (ho : CanonicalNext o) (hp : CanonicalNext p) :
    CanonicalNext (if c then o else p) := by
  split
  · exact ho
  · exact hp

theorem canonicalSome_some (h : Canonical s) : CanonicalSome (some s) := by
  rintro t ⟨⟩
  exact h

theorem canonicalSome_none : CanonicalSome none := by
  rintro t ⟨⟩

theorem canonicalSome_ite {c : Prop} [Decidable c] {o p : Option State} (ho : CanonicalSome o) (hp : CanonicalSome p) :
    CanonicalSome (if c then o else p) := by
  split
  · exact ho
  · exact hp

theorem canonicalSome_map {f : α → State} (hf : ∀ a, Canonical (f a)) (o : Option α) : CanonicalSome (o.map f) := by
  cases o
  · exact canonicalSome_none
  · exact canonicalSome_some (hf _)

theorem canonicalSome_mapState {f : State → State} {o : Option State} (ho : CanonicalSome o) (hf : ∀ s, Canonical s → Canonical (f s)) :
    CanonicalSome (o.map f) := by
  cases o with
  | none => exact canonicalSome_none
  | some s => exact canonicalSome_some (hf s (ho s rfl))

theorem canonical_getD {o : Option State} (ho : CanonicalSome o) (hs : Canonical s) : Canonical (o.getD s) := by
  cases o with
  | none => exact hs
  | some t => exact ho t rfl

/-! ### Meanings -/

theorem neat_pure (a : α) : Neat (pure a : M α) := keeps_pure keepsCanonical_composes a

theorem neat_throw (e : Stop) : Neat (throw e : M α) := keeps_throw keepsCanonical_composes e

theorem neat_trapM (cause : Nat) (val : Word) : Neat (trapM cause val : M α) := neat_throw _

theorem neat_waitM (w : WaitFor) : Neat (waitM w : M α) := neat_throw _

theorem neat_bind {m : M α} {f : α → M β} (hm : Neat m) (hf : ∀ a, Neat (f a)) : Neat (m >>= f) :=
  keeps_bind keepsCanonical_composes hm hf

/-- A meaning that begins by looking at the state may take it to be canonical. -/
theorem neat_get_bind {f : State → M β} (hf : ∀ s, Canonical s → Neat (f s)) : Neat (get >>= f) :=
  keeps_get_bind keepsCanonical_composes fun s => by
    by_cases hs : Canonical s
    · exact hf s hs s
    · unfold KeepsAt
      split <;> exact fun h => absurd h hs

theorem neat_set (h : Canonical s) : Neat (set s : M PUnit) := fun _ _ => h

theorem neat_modify {f : State → State} (hf : ∀ s, Canonical s → Canonical (f s)) : Neat (modify f) := keeps_modify hf

theorem neat_modifyGet {f : State → α × State} (hf : ∀ s, Canonical s → Canonical (f s).2) : Neat (modifyGet f : M α) := fun s hs => hf s hs

theorem neat_ite {c : Prop} [Decidable c] {m m' : M α} (h : Neat m) (h' : Neat m') : Neat (if c then m else m') := by
  split
  · exact h
  · exact h'

/-- A meaning that a check may stop first. -/
theorem neat_guard {c : Prop} [Decidable c] {m : M Unit} {f : Unit → M β} (hm : Neat m) (hf : ∀ u, Neat (f u)) :
    Neat (if c then m >>= f else f ()) := neat_ite (neat_bind hm hf) (hf ())

theorem neat_forM {f : α → M PUnit} (hf : ∀ a, Neat (f a)) (l : List α) : Neat (l.forM f) := by
  induction l with
  | nil => exact neat_pure _
  | cons a l ih => exact neat_bind (hf a) fun _ => ih

theorem neat_mapM {f : α → M β} (hf : ∀ a, Neat (f a)) (l : List α) : Neat (l.mapM f) := by
  induction l with
  | nil => rw [List.mapM_nil]; exact neat_pure _
  | cons a l ih => rw [List.mapM_cons]; exact neat_bind (hf a) fun _ => neat_bind ih fun _ => neat_pure _

theorem neat_allM {f : α → M Bool} (hf : ∀ a, Neat (f a)) (l : List α) : Neat (l.allM f) := by
  induction l with
  | nil => exact neat_pure _
  | cons a l ih =>
    refine neat_bind (hf a) fun b => ?_
    cases b
    · exact neat_pure _
    · exact ih

/-! ### The runs of a meaning -/

theorem Neat.ok {m : M α} {a : α} (hm : Neat m) (hs : Canonical s) (h : m.run s = .ok a t) : Canonical t := by
  have hrun := hm s
  rw [KeepsAt, h] at hrun
  exact hrun hs

theorem Neat.error {m : M α} {e : Stop} (hm : Neat m) (hs : Canonical s) (h : m.run s = .error e t) : Canonical t := by
  have hrun := hm s
  rw [KeepsAt, h] at hrun
  exact hrun hs

theorem canonical_runM {m : M α} (hm : Neat m) (hs : Canonical s) : Canonical (s.runM m) := by
  unfold State.runM
  split
  · next hrun => exact hm.ok hs hrun
  · exact hs

theorem canonical_evalM {m : M α} {d : α} (hm : Neat m) (hs : Canonical s) : Canonical (s.evalM d m).2 := by
  unfold State.evalM
  split
  · next hrun => exact hm.ok hs hrun
  · exact hs

theorem canonical_tryM {m : M α} (hm : Neat m) (hs : Canonical s) : Canonical (s.tryM m).2 := by
  unfold State.tryM
  split
  · next hrun => exact hm.ok hs hrun
  · exact hs

end

end Sys2Proof.Machine
end

section
/-! PROOFS. Memory stays canonical through the units of the state, translation, and reads and writes at home (R276, R333 to R351). -/

namespace Sys2Proof.Machine

open Sys2Proof

/-! ### The units of the state -/

theorem canonical_setHart {s : State} {h : Nat} {v : Hart} (hs : Canonical s) : Canonical (s.setHart h v) := hs

theorem canonical_updHart {s : State} {h : Nat} {f : Hart → Hart} (hs : Canonical s) : Canonical (s.updHart h f) := canonical_setHart hs

theorem canonical_updCtx {s : State} {h : Nat} {f : Ctx → Ctx} (hs : Canonical s) : Canonical (s.updCtx h f) := canonical_setHart hs

theorem canonical_updCore {s : State} {c : Nat} {f : Core → Core} (hs : Canonical s) : Canonical (s.updCore c f) := hs

theorem canonical_updCluster {s : State} {cl : Nat} {f : Cluster → Cluster} (hs : Canonical s) : Canonical (s.updCluster cl f) := hs

theorem canonical_updTower {s : State} {t : Nat} {f : Tower → Tower} (hs : Canonical s) : Canonical (s.updTower t f) := hs

theorem canonical_updLaunch {s : State} {n : Nat} {f : Launch → Launch} (hs : Canonical s) : Canonical (s.updLaunch n f) := by
  unfold State.updLaunch
  split <;> exact hs

theorem canonical_updTask {s : State} {tid : Nat} {f : Task → Task} (hs : Canonical s) : Canonical (s.updTask tid f) := by
  unfold State.updTask
  split <;> exact hs

theorem canonical_updTile {s : State} {t : Nat} {f : TileMark → TileMark} (hs : Canonical s) : Canonical (s.updTile t f) := hs

theorem canonical_setX {s : State} {h : Nat} {r : BitVec 7} {v : Word} (hs : Canonical s) : Canonical (s.setX h r v) :=
  canonical_ite hs (canonical_updCtx hs)

theorem canonical_count {s : State} {c n k : Nat} (hs : Canonical s) : Canonical (s.count c n k) := canonical_updCore hs

theorem canonical_countConflicts {s : State} {c : Nat} (hs : Canonical s) : Canonical (s.countConflicts c) := canonical_count hs

theorem canonical_send {s : State} {k : OutKind} {d : List Nat} (hs : Canonical s) : Canonical (s.send k d) := hs

theorem canonical_msi {s : State} {v : Nat} (hs : Canonical s) : Canonical (s.msi v) := canonical_ite hs (canonical_ite hs (canonical_send hs))

theorem canonical_withLog {s : State} {log flash : List Health} {next : Nat} (hs : Canonical s) :
    Canonical { s with log := log, flashLog := flash, nextLog := next } := hs

theorem canonical_logHealth {s : State} {cls unit lno code addr info : Nat} (hs : Canonical s) :
    Canonical (s.logHealth cls unit lno code addr info) :=
  canonical_ite (canonical_msi (canonical_withLog hs)) (canonical_withLog hs)

theorem neat_drawM : Neat drawM := neat_modifyGet fun _ hs => hs

theorem neat_drawN {n : Nat} : Neat (drawN n) := neat_modifyGet fun _ hs => hs

theorem neat_forN {n : Nat} {f : Nat → M Unit} (hf : ∀ k, Neat (f k)) : Neat (forN n f) := neat_forM hf _

theorem canonical_keepSide {s t : State} (hs : Canonical s) : Canonical (keepSide s t) := hs

/-! ### The slice of a tower -/

theorem canonical_giveSlice {s : State} {tw lno : Nat} {p : Partial} (hs : Canonical s) : Canonical (s.giveSlice tw lno p) := canonical_updTower hs

/-! ### Translation, and memory at its homes -/

/-- Bytes written one behind the other keep the form. -/
theorem wf_foldl_write {α : Type} {a : α → Nat} {v : α → Byte} (l : List α) {m : Memory} (h : m.wf = true) :
    (l.foldl (fun m e => m.write (a e) (v e)) m).wf = true := by
  induction l generalizing m with
  | nil => exact h
  | cons e l ih => exact ih (Memory.wf_write h _ _)

/-- Bytes that move when a zone boundary moves are written where they come to stand (R412). -/
theorem canonical_rezone {s t : State} {pa : Nat} (hs : Canonical s) : Canonical (s.rezone t pa) := wf_foldl_write _ (wf_foldl_write _ hs)

theorem canonical_logConflict {s : State} {lno va : Nat} {es : List TlbEntry} (hs : Canonical s) : Canonical (s.logConflict lno va es) :=
  canonical_logHealth hs

/-- A walk reads the page tables and fills translation caches (R333 to R345). -/
theorem neat_walkFill {r : Req} {va : Nat} : Neat (walkFill r va) := by
  unfold walkFill
  refine neat_get_bind fun _ _ => ?_
  split
  all_goals
    dsimp only
    split
    · exact neat_pure _
    · exact neat_pure _
    · exact neat_bind neat_drawM fun _ => neat_bind (neat_modify fun _ ht => ht) fun _ => neat_pure _

theorem neat_lookShared {r : Req} {va : Nat} : Neat (lookShared r va) := by
  unfold lookShared
  refine neat_get_bind fun _ hs => ?_
  dsimp only
  split
  · exact neat_pure _
  · exact neat_walkFill
  · refine neat_bind ?_ fun _ => neat_guard (neat_throw _) fun _ => neat_walkFill
    refine neat_set ?_
    refine canonical_logConflict ?_
    split <;> exact hs

theorem neat_lookEntry {r : Req} {va : Nat} : Neat (lookEntry r va) := by
  unfold lookEntry
  split
  · refine neat_get_bind fun _ hs => ?_
    extract_lets l looked
    have hlooked : ∀ u, Neat (looked u) := by
      intro u
      refine neat_bind neat_lookShared fun _ => ?_
      split
      · exact neat_bind neat_drawM fun _ => neat_bind (neat_modify fun _ ht => ht) fun _ => neat_pure _
      · exact neat_pure _
    split
    · exact neat_pure _
    · exact neat_ite (neat_bind (neat_set (canonical_logConflict hs)) fun _ => neat_guard (neat_throw _) hlooked)
        (neat_bind (neat_set (canonical_count hs)) hlooked)
  · exact neat_lookShared

theorem neat_req_keeps {r : Req} {e : TlbEntry} : Neat (r.keeps e) := by
  unfold Req.keeps
  split
  · exact neat_modify fun _ hs => canonical_updHart hs
  · exact neat_pure _

theorem canonical_unpin {s : State} {all : Bool} {va : Nat} (hs : Canonical s) : Canonical (s.unpin all va) := canonical_ite hs hs

theorem neat_translate {r : Req} {a : Acc} {va : Nat} : Neat (translate r a va) := by
  unfold translate
  refine neat_ite (neat_pure _) (neat_get_bind fun _ _ => ?_)
  split
  · exact neat_pure _
  · refine neat_bind neat_lookEntry fun _ => ?_
    split
    · exact neat_pure _
    · exact neat_pure _
    · refine neat_get_bind fun _ _ => neat_ite ?_ (neat_pure _)
      refine neat_ite (neat_get_bind fun _ _ => ?_) (neat_bind neat_req_keeps fun _ => neat_pure _)
      refine neat_ite (neat_bind neat_req_keeps fun _ => neat_pure _) (neat_bind neat_drawM fun _ => neat_ite ?_ (neat_pure _))
      exact neat_bind (neat_modify fun _ ht => ht) fun _ => neat_bind neat_req_keeps fun _ => neat_pure _

/-- A drift mark leads to another mark or to a home, at most as often as there is fuel (R306 to R313). -/
theorem neat_chase {r : Req} {a : Acc} {len fuel : Nat} : ∀ {va hops : Nat}, Neat (chase r a va len hops fuel) := by
  induction fuel with
  | zero => exact fun {_ _} => neat_pure _
  | succ n ih =>
    intro va hops
    unfold chase
    refine neat_bind neat_translate fun o => ?_
    split
    · exact neat_pure _
    · exact neat_pure _
    · refine neat_get_bind fun _ _ => neat_ite (neat_pure _) (neat_ite (neat_pure _) (neat_ite (neat_pure _) ?_))
      split
      · exact ih
      · exact neat_guard (neat_waitM _) fun _ => neat_pure _

theorem neat_resolve {r : Req} {a : Acc} {va len : Nat} : Neat (resolve r a va len) := by
  unfold resolve
  refine neat_ite (neat_pure _) ?_
  refine neat_bind neat_chase fun _ => ?_
  refine neat_ite (neat_pure _) ?_
  refine neat_bind neat_chase fun _ => ?_
  split <;> exact neat_pure _

theorem canonical_breakResv {s : State} {own : Option Nat} {pa len : Nat} (hs : Canonical s) : Canonical (s.breakResv own pa len) :=
  canonical_ite hs hs

/-- The one write at a physical address (R276). -/
theorem canonical_writePa {s : State} {own : Option Nat} {pa : Nat} {bs : List Byte} (hs : Canonical s) : Canonical (s.writePa own pa bs) :=
  writePa_wf hs own pa bs

theorem canonical_writePieces {s : State} {own : Option Nat} {ps : List Piece} {v : Nat} (hs : Canonical s) :
    Canonical (s.writePieces own ps v) :=
  writePieces_wf hs own ps v

theorem canonical_setL1 {s : State} {c : Nat} {l : List L1Line} (hs : Canonical s) : Canonical (s.setL1 c l) := hs

theorem canonical_dropL1 {s : State} {c pa len : Nat} (hs : Canonical s) : Canonical (s.dropL1 c pa len) := canonical_ite hs (canonical_setL1 hs)

theorem canonical_markBehind {s : State} {p : Piece} (hs : Canonical s) : Canonical (s.markBehind p) := canonical_ite hs hs

theorem canonical_dropBehind {s : State} {c : Nat} (hs : Canonical s) : Canonical (s.dropBehind c) := canonical_ite hs (canonical_setL1 hs)

theorem canonical_noteRead {s : State} {h : Nat} {ps : List Piece} (hs : Canonical s) : Canonical (s.noteRead h ps) := canonical_updHart hs

theorem canonical_drainReads {s : State} {h : Nat} (hs : Canonical s) : Canonical (s.drainReads h) := by
  have hlines : Canonical ((s.hart h).vlines.foldl (fun s n => s.dropL1 (coreOf h) (64 * n) 64) s) :=
    canonical_foldl (fun _ _ ht => canonical_dropL1 ht) _ hs
  exact canonical_updHart (canonical_ite hlines (canonical_dropBehind hlines))

theorem canonical_releaseReads {s : State} {h : Nat} (hs : Canonical s) : Canonical (s.releaseReads h) := canonical_updCore hs

theorem canonical_clearL1 {s : State} {c : Nat} (hs : Canonical s) : Canonical (s.clearL1 c) := canonical_ite hs (canonical_setL1 hs)

theorem canonical_acquire {s : State} {h scope : Nat} (hs : Canonical s) : Canonical (s.acquire h scope) := by
  unfold State.acquire
  extract_lets c t
  have ht : Canonical t :=
    canonical_ite (canonical_dropBehind (canonical_foldl (fun _ _ ht => canonical_dropL1 ht) _ hs)) (canonical_clearL1 hs)
  exact canonical_ite ht (canonical_updCore ht)

theorem canonical_updSnap {s : State} {h : Nat} {f : Snap → Snap} (hs : Canonical s) : Canonical (s.updSnap h f) := by
  unfold State.updSnap
  split
  · exact canonical_updHart hs
  · exact hs

/-- A write that a convoy in flight sees is made in its own copy of memory (R274). -/
theorem canonical_echo {s : State} {h : Nat} {ps : List Piece} {v : Nat} (hs : Canonical s) : Canonical (s.echo h ps v) := canonical_updSnap hs

theorem canonical_snapSwitch {s : State} {src dst : Nat} (hs : Canonical s) : Canonical (s.snapSwitch src dst) := canonical_ite hs hs

theorem canonical_countHops {s : State} {c : Nat} {ps : List Piece} (hs : Canonical s) : Canonical (s.countHops c ps) :=
  canonical_ite (canonical_count hs) hs

theorem neat_stopAccess {α : Type} {r : Req} {a : Acc} {cause : Nat} {orig : Word} {f : AccFault} : Neat (stopAccess r a cause orig f : M α) := by
  unfold stopAccess
  split
  · exact neat_trapM _ _
  · exact neat_throw _
  · exact neat_trapM _ _
  · exact neat_throw _

theorem neat_resolveOr {r : Req} {a : Acc} {cause : Nat} {orig : Word} {va len : Nat} : Neat (resolveOr r a cause orig va len) := by
  unfold resolveOr
  refine neat_bind neat_resolve fun _ => ?_
  split
  · exact neat_pure _
  · exact neat_stopAccess

theorem neat_readHome {r : Req} {cause : Nat} {orig : Word} {va len : Nat} : Neat (readHome r cause orig va len) :=
  neat_bind neat_resolveOr fun _ => neat_get_bind fun _ _ => neat_guard neat_stopAccess fun _ => neat_pure _

end Sys2Proof.Machine
end

section
/-! PROOFS. Memory stays canonical through records, frames, stops and ends of tasks, and the words of the scalar front (R25 to R49, R123 to R126). -/

namespace Sys2Proof.Machine

open Sys2Proof

/-! ### The operations that meanings share -/

theorem canonical_retireTo {s : State} {h : Nat} {pc : Word} (hs : Canonical s) : Canonical (s.retireTo h pc) :=
  canonical_count (canonical_setHart hs)

theorem canonical_retire {s : State} {h : Nat} (hs : Canonical s) : Canonical (s.retire h) := canonical_retireTo hs

theorem canonical_holdFront {s : State} {h : Nat} {w : WaitFor} (hs : Canonical s) : Canonical (s.holdFront h w) := canonical_updHart hs

theorem canonical_holdStop {s : State} {h : Nat} {w : WaitFor} (hs : Canonical s) : Canonical (s.holdStop h w) := canonical_updHart hs

theorem neat_ringPut {r : Req} {ring logn size rec : Nat} : Neat (ringPut r ring logn size rec) := by
  unfold ringPut
  refine neat_bind neat_resolve fun _ => ?_
  split
  · exact neat_pure _
  · refine neat_get_bind fun _ _ => ?_
    refine neat_ite (neat_pure _) ?_
    refine neat_ite ?_ (neat_bind (neat_modify fun _ ht => canonical_writePa ht) fun _ => neat_pure _)
    refine neat_bind neat_resolve fun _ => ?_
    split
    · exact neat_pure _
    · exact neat_bind (neat_modify fun _ ht => canonical_writePieces (canonical_writePa ht)) fun _ => neat_pure _

theorem canonical_requestPage {s : State} {lno : Nat} {p : PageAddr} {need : Nat} {w : Waiter} (hs : Canonical s) :
    Canonical (s.requestPage lno p need w) := by
  unfold State.requestPage
  split
  · exact hs
  · exact canonical_ite hs hs

theorem canonical_logError {s : State} {lno rec : Nat} (hs : Canonical s) : Canonical (s.logError lno rec) := canonical_logHealth hs

theorem neat_flushList {lno : Nat} {rs : List ErrRec} : Neat (flushList lno rs) := by
  induction rs with
  | nil => exact neat_pure _
  | cons r rs ih =>
    unfold flushList
    refine neat_get_bind fun s _ => ?_
    split
    · exact neat_pure _
    · refine neat_bind neat_ringPut fun o => ?_
      split
      · exact neat_bind (neat_modify fun _ hs => canonical_updLaunch hs) fun _ => ih
      · exact neat_modify fun _ hs => canonical_requestPage (canonical_updLaunch hs)
      · exact neat_bind (neat_modify fun _ hs => canonical_updLaunch (canonical_logError hs)) fun _ => ih

theorem canonical_flushErrors {s : State} {lno : Nat} (hs : Canonical s) : Canonical (s.flushErrors lno) := by
  unfold State.flushErrors
  split
  · exact canonical_ite hs (canonical_runM neat_flushList hs)
  · exact hs

theorem canonical_errorRecord {s : State} {lno cause : Nat} {ev pc cp : Word} {vs task va info : Nat} (hs : Canonical s) :
    Canonical (s.errorRecord lno cause ev pc cp vs task va info) := by
  unfold State.errorRecord
  split
  · exact hs
  · exact canonical_ite (canonical_logError (canonical_updLaunch hs)) (canonical_flushErrors (canonical_updLaunch (canonical_updLaunch hs)))

theorem canonical_launchRecord {s : State} {lno cause : Nat} {ev : Word} {va info : Nat} (hs : Canonical s) :
    Canonical (s.launchRecord lno cause ev va info) :=
  canonical_errorRecord hs

theorem neat_closeStrip {lno hart groups : Nat} {c : Ctx} {fin : Bool} : Neat (closeStrip lno hart groups c fin) := by
  unfold closeStrip
  refine neat_get_bind fun _ _ => ?_
  split
  · exact neat_pure _
  · refine neat_ite (neat_pure _) ?_
    refine neat_bind neat_ringPut fun _ => ?_
    split <;> exact neat_pure _

theorem canonical_nextStrip {s : State} {h : Nat} (hs : Canonical s) : Canonical (s.nextStrip h) :=
  canonical_updCtx (canonical_evalM neat_closeStrip hs)

theorem canonical_putFields {s : State} {base : Nat} {fs : List (Nat × Nat × Nat)} (hs : Canonical s) : Canonical (s.putFields base fs) :=
  putFields_wf hs base fs

theorem canonical_saveFrame {s : State} {h : Nat} {cp : Word} {dump : List QEntry} (hs : Canonical s) : Canonical (s.saveFrame h cp dump) :=
  canonical_putFields (canonical_putFields hs)

theorem canonical_retarget {s : State} {c : Nat} (hs : Canonical s) : Canonical (s.retarget c) :=
  canonical_foldl (fun _ _ ht => canonical_updHart ht) _ hs

theorem canonical_landConvoy {s : State} {h : Nat} (hs : Canonical s) : Canonical (s.landConvoy h) := canonical_updCore (canonical_updHart hs)

theorem canonical_withdraw {s : State} {h : Nat} (hs : Canonical s) : Canonical (s.withdraw h) := canonical_ite hs (canonical_updHart hs)

theorem canonical_stopHart {s : State} {h : Nat} (hs : Canonical s) : Canonical (s.stopHart h) :=
  canonical_count (canonical_updHart (canonical_landConvoy (canonical_withdraw hs)))

theorem canonical_preciseStop {s : State} {h : Nat} (hs : Canonical s) : Canonical (s.preciseStop h).1 :=
  canonical_updCore (canonical_updHart (canonical_stopHart hs))

theorem canonical_holdBarriers {s : State} {lno cl : Nat} (hs : Canonical s) : Canonical (s.holdBarriers lno cl) :=
  canonical_ite hs (canonical_updCluster hs)

theorem canonical_loseOwed {s : State} {lno tw : Nat} {c : Ctx} (hs : Canonical s) : Canonical (s.loseOwed lno tw c) := by
  unfold State.loseOwed
  refine canonical_ite hs ?_
  split
  · exact canonical_giveSlice hs
  · exact hs

theorem canonical_sealEnd {s : State} {lno : Nat} (hs : Canonical s) : Canonical (s.sealEnd lno) := by
  unfold State.sealEnd
  split
  · exact canonical_ite hs hs
  · exact hs

theorem canonical_releaseAnvil {s : State} {tid : Nat} (hs : Canonical s) : Canonical (s.releaseAnvil tid) := hs

theorem canonical_latchRecords {s : State} {lno t : Nat} {c : Ctx} {cp : Word} (hs : Canonical s) : Canonical (s.latchRecords lno t c cp) := by
  unfold State.latchRecords
  extract_lets guarded copied
  have hguarded : Canonical guarded := by
    unfold guarded
    split
    · exact canonical_errorRecord hs
    · exact hs
  have hcopied : Canonical copied := by
    unfold copied
    split
    · exact canonical_errorRecord hguarded
    · exact hguarded
  split
  · exact canonical_errorRecord hcopied
  · exact hcopied

theorem canonical_decCtr {s : State} {lno c : Nat} (hs : Canonical s) : Canonical (s.decCtr lno c) := canonical_ite hs (canonical_updLaunch hs)

theorem canonical_withCores {s : State} {cores' : Tbl Core} (hs : Canonical s) :
    Canonical { s with cores := cores' } := hs

theorem canonical_dropTransfers {s : State} {tid : Nat} {on : Option Nat} (hs : Canonical s) : Canonical (s.dropTransfers tid on) :=
  canonical_ite hs (canonical_foldl (fun _ _ ht => canonical_decCtr ht) _ (canonical_withCores hs))

theorem canonical_answer {s : State} {st len : Nat} (hs : Canonical s) : Canonical (s.answer st len) := canonical_msi hs

theorem canonical_command {s : State} {code : Nat} {recovery : Bool} {act : State → State × Option (Nat × Nat)} (hs : Canonical s)
    (hact : ∀ a, Canonical a → Canonical (act a).1) : Canonical (s.command code recovery act) := by
  unfold State.command
  refine canonical_ite hs ?_
  refine canonical_ite (canonical_answer hs) ?_
  dsimp only
  split
  · exact canonical_answer (hact _ hs)
  · exact hact _ hs

theorem canonical_prunePages {s : State} (hs : Canonical s) : Canonical s.prunePages := canonical_ite hs hs

theorem canonical_withTasks {s : State} {tasks' : Tbl Task} (hs : Canonical s) :
    Canonical { s with tasks := tasks' } := hs

/-- A task's end writes records alone: of its latched faults, and of its open strip (R48, R209, R374). -/
theorem canonical_endTask {s : State} {tid : Nat} {c : Ctx} {cp : Word} {on : Option Nat} (hs : Canonical s) : Canonical (s.endTask tid c cp on) := by
  unfold State.endTask
  split
  · exact hs
  · extract_lets freed hart closed latched owed dropped vacated
    have hclosed : Canonical closed := canonical_ite (canonical_evalM neat_closeStrip (canonical_releaseAnvil hs)) (canonical_releaseAnvil hs)
    have hdropped : Canonical dropped := canonical_dropTransfers (canonical_withTasks (canonical_loseOwed (canonical_latchRecords hclosed)))
    have hvacated : Canonical vacated := by
      unfold vacated
      split
      · exact canonical_retarget (canonical_setHart (canonical_updCore hdropped))
      · exact hdropped
    exact canonical_prunePages (canonical_sealEnd (canonical_updLaunch hvacated))

theorem canonical_terminateAt {s : State} {h cause : Nat} {val cp : Word} (hs : Canonical s) : Canonical (s.terminateAt h cause val cp) := by
  unfold State.terminateAt
  refine canonical_ite (canonical_holdStop hs) ?_
  split
  · exact hs
  · split
    · exact hs
    · exact canonical_endTask (canonical_errorRecord hs)

theorem canonical_terminate {s : State} {h cause : Nat} {val : Word} (hs : Canonical s) : Canonical (s.terminate h cause val) :=
  canonical_terminateAt hs

theorem canonical_terminateTask {s : State} {tid cause : Nat} {val : Word} {va info : Nat} (hs : Canonical s) :
    Canonical (s.terminateTask tid cause val va info) := by
  unfold State.terminateTask
  split
  · exact hs
  · refine canonical_ite (canonical_endTask (canonical_errorRecord hs)) ?_
    split
    · exact canonical_ite (canonical_endTask (canonical_errorRecord hs)) (canonical_endTask (canonical_errorRecord hs))
    · exact canonical_endTask (canonical_errorRecord hs)

theorem canonical_trapEntry {s : State} {h cause : Nat} {val : Word} (hs : Canonical s) : Canonical (s.trapEntry h cause val) := by
  unfold State.trapEntry
  refine canonical_ite (canonical_holdStop hs) (canonical_ite (canonical_terminate hs) (canonical_updCtx ?_))
  have hput : ∀ fs, Canonical ((s.preciseStop h).1.putFields ((s.preciseStop h).1.ctx h).frm fs) := fun _ =>
    canonical_putFields (canonical_preciseStop hs)
  split
  · exact canonical_updTask (hput _)
  · exact hput _

theorem canonical_swapOut {s : State} {h : Nat} {st : TaskState} {wake : Wake} (hs : Canonical s) : Canonical (s.swapOut h st wake) := by
  unfold State.swapOut
  split
  · exact hs
  · exact canonical_retarget (canonical_setHart (canonical_updTask (canonical_saveFrame (canonical_updCtx (canonical_preciseStop (canonical_ite
      (canonical_putFields hs) hs))))))

theorem canonical_pageFault {s : State} {h : Nat} {p : PageAddr} {need : Nat} (hs : Canonical s) : Canonical (s.pageFault h p need) := by
  unfold State.pageFault
  refine canonical_ite (canonical_holdStop hs) ?_
  refine canonical_ite (canonical_holdStop hs) ?_
  split
  · exact hs
  · exact canonical_requestPage (canonical_swapOut hs)

/-- However a meaning stops, what goes on is a handler, a page fault, an end or a wait. -/
theorem canonical_stopped {s t : State} {h : Nat} {stop : Stop} (hs : Canonical s) (ht : Canonical t) : Canonical (s.stopped t h stop) := by
  unfold State.stopped
  split
  · exact canonical_ite (canonical_holdStop (canonical_keepSide hs)) (canonical_trapEntry (canonical_ite ht (canonical_keepSide hs)))
  · exact canonical_pageFault (canonical_keepSide hs)
  · exact canonical_keepSide hs
  · exact canonical_terminate (canonical_keepSide hs)
  · exact canonical_holdFront (canonical_keepSide hs)

theorem canonicalNext_finish {s : State} {h : Nat} {m : M Unit} (hs : Canonical s) (hm : Neat m) : CanonicalNext (s.finish h m) := by
  unfold State.finish
  split
  · next hrun => exact canonicalNext_next (hm.ok hs hrun)
  · next hrun => exact canonicalNext_next (canonical_stopped hs (hm.error hs hrun))

/-- A scalar word either ends in the state of its meaning or is undone (R44, R48). -/
theorem canonicalNext_scalarWord {k : Bool} {w : Nat} {s : State} {m : M Unit} (hs : Canonical s) (hm : Neat m) :
    CanonicalNext (scalarWord k w s m) :=
  canonicalNext_ite (canonicalNext_finish hs hm) (canonicalNext_next (canonical_trapEntry hs))

theorem canonicalNext_alu {k : Bool} {w : Nat} {d : BitVec 7} {v : Word} {s : State} (hs : Canonical s) : CanonicalNext (alu k w d v s) :=
  canonicalNext_ite (canonicalNext_next (canonical_retire (canonical_setX hs))) (canonicalNext_next (canonical_trapEntry hs))

theorem canonicalNext_supervisor {w : Nat} {s : State} {o : Out1} (hs : Canonical s) (ho : CanonicalNext o) : CanonicalNext (supervisor w s o) :=
  canonicalNext_ite ho (canonicalNext_next (canonical_trapEntry hs))

theorem neat_needEmpty {h : Nat} : Neat (needEmpty h) := neat_get_bind fun _ _ => neat_ite (neat_waitM _) (neat_pure _)

theorem neat_needAlone {h : Nat} : Neat (needAlone h) := neat_get_bind fun _ _ => neat_ite (neat_waitM _) (neat_pure _)

theorem neat_retireWith {h : Nat} {d : BitVec 7} {v : Word} : Neat (retireWith h d v) := neat_modify fun _ hs => canonical_retire (canonical_setX hs)

theorem canonical_reissue {s : State} {h : Nat} {es : List QEntry} {isOpen : Bool} {vs : Nat} (hs : Canonical s) :
    Canonical (s.reissue h es isOpen vs) := by
  unfold State.reissue
  dsimp only
  split
  · exact canonical_updCore (canonical_updHart hs)
  · exact canonical_updHart hs

theorem canonical_trapReturn {s : State} {h : Nat} (hs : Canonical s) : Canonical (s.trapReturn h) :=
  canonical_ite (canonical_reissue (canonical_retireTo (canonical_retarget (canonical_updCtx hs)))) (canonical_terminateAt (canonical_retarget
    (canonical_updCtx hs)))

/-! ### The issue of a queue word -/

theorem canonical_enqueue {s : State} {h : Nat} {alone : Bool} {e : QEntry} (hs : Canonical s) : Canonical (s.enqueue h alone e) := by
  unfold State.enqueue
  dsimp only
  split
  · exact canonical_ite (canonical_updCore (canonical_updHart hs)) (canonical_updHart hs)
  · exact canonical_updHart hs

theorem canonical_stallFull {s : State} {h : Nat} {k : Bool} (hs : Canonical s) : Canonical (s.stallFull h k) := canonical_updHart hs

/-- A queue word changes at issue what it does on the scalar front, and the queue (R36, R41). -/
theorem canonicalNext_issueWith {i : Instr} {w : Nat} {done : Bool} {act : QEntry → M Unit} {s : State} (hact : ∀ e, Neat (act e))
    (hs : Canonical s) : CanonicalNext (issueWith i w done act s) := by
  unfold issueWith
  dsimp only
  split
  · exact canonicalNext_next hs
  · refine canonicalNext_ite (canonicalNext_next (canonical_trapEntry hs)) ?_
    refine canonicalNext_ite (canonicalNext_next (canonical_trapEntry hs)) ?_
    refine canonicalNext_ite (canonicalNext_next (canonical_stallFull hs)) ?_
    exact canonicalNext_finish hs (neat_bind (hact _) fun _ => neat_modify fun _ ht => canonical_enqueue ht)

theorem neat_frontAct {h : Nat} {i : Instr} {act : QEntry → M Unit} {e : QEntry} (hact : ∀ e, Neat (act e)) : Neat (frontAct h i act e) :=
  neat_bind neat_needAlone fun _ => neat_guard (neat_trapM _ _) fun _ => hact _

theorem canonicalNext_issueFront {i : Instr} {w : Nat} {act : QEntry → M Unit} {s : State} (hact : ∀ e, Neat (act e)) (hs : Canonical s) :
    CanonicalNext (issueFront i w act s) :=
  canonicalNext_issueWith (fun _ => neat_frontAct fun _ => hact _) hs

theorem neat_noAct {e : QEntry} : Neat (noAct e) := neat_pure _

theorem canonicalNext_issue {i : Instr} {w : Nat} {s : State} (hs : Canonical s) : CanonicalNext (issue i w s) :=
  canonicalNext_issueWith (fun _ => neat_noAct) hs

/-! ### Scalar loads and stores -/

theorem neat_scalarResolve {h : Nat} {a : Acc} {ea : Word} {w : Nat} : Neat (scalarResolve h a ea w) := by
  unfold scalarResolve
  exact neat_guard (neat_trapM _ _) fun _ => neat_get_bind fun _ _ => neat_bind neat_resolveOr fun _ => neat_bind (neat_modify fun _ ht =>
    canonical_countHops ht) fun _ => neat_pure _

theorem neat_rewriteBase {h : Nat} {a : BitVec 7} {ea : Word} {ps : List Piece} : Neat (rewriteBase h a ea ps) := by
  unfold rewriteBase
  split
  · exact neat_get_bind fun _ _ => neat_ite (neat_modify fun _ ht => canonical_setX ht) (neat_pure _)
  · exact neat_pure _

theorem neat_plainRead {h : Nat} {ea : Word} {p : Piece} : Neat (plainRead h ea p) := by
  unfold plainRead
  refine neat_get_bind fun _ _ => ?_
  dsimp only
  split
  · exact neat_get_bind fun _ ht => neat_guard (neat_throw _) fun _ => neat_ite (neat_pure _) (neat_bind (neat_set (canonical_setL1 ht)) fun _ =>
      neat_pure _)
  · exact neat_bind neat_drawM fun _ => neat_ite (neat_pure _) (neat_get_bind fun _ ht => neat_guard (neat_throw _) fun _ => neat_ite (neat_pure _)
      (neat_bind (neat_set (canonical_setL1 ht)) fun _ => neat_pure _))

theorem canonicalNext_scalarLoad {k : Bool} {w : Nat} {d a : BitVec 7} {i : BitVec 11} {width : Nat} {signed : Bool} {s : State}
    (hs : Canonical s) : CanonicalNext (scalarLoad k w d a i width signed s) := by
  unfold scalarLoad
  refine canonicalNext_scalarWord hs ?_
  refine neat_bind neat_scalarResolve fun _ => ?_
  dsimp only
  split
  · exact neat_bind neat_plainRead fun _ => neat_bind neat_rewriteBase fun _ => neat_retireWith
  · exact neat_bind (neat_pure _) fun _ => neat_bind neat_rewriteBase fun _ => neat_retireWith

theorem canonicalNext_scalarStore {k : Bool} {w : Nat} {a b : BitVec 7} {i : BitVec 11} {width : Nat} {s : State} (hs : Canonical s) :
    CanonicalNext (scalarStore k w a b i width s) := by
  refine canonicalNext_scalarWord hs (neat_bind neat_scalarResolve fun _ => neat_bind (neat_modify fun _ ht => canonical_foldl (fun _ _ hu =>
    canonical_dropL1 hu) _ (canonical_writePieces ht)) fun _ => ?_)
  exact neat_bind neat_rewriteBase fun _ => neat_modify fun _ ht => canonical_retire ht

end Sys2Proof.Machine
end

section
/-! PROOFS. Memory stays canonical through the elements of vector words (R144 to R187, R202 to R207). -/

namespace Sys2Proof.Machine

open Sys2Proof

/-! ### Events -/

theorem canonical_raise {s : State} {h seq i : Nat} {v t : Ev} (hs : Canonical s) : Canonical (s.raise h seq i v t) :=
  canonical_ite hs (canonical_updCtx hs)

/-! ### Elements -/

theorem canonical_updVreg {s : State} {core p : Nat} {f : Nat → Nat} (hs : Canonical s) : Canonical (s.updVreg core p f) := canonical_updCore hs

theorem canonical_putElem {s : State} {core : Nat} {c : Ctx} {vw r i v : Nat} {t : Nat → Nat} (hs : Canonical s) :
    Canonical (s.putElem core c vw r i v t) :=
  canonical_updVreg hs

theorem neat_write {L : Lane} {d : BitVec 7} {j v : Nat} {t : Nat → Nat} : Neat (L.write d j v t) := neat_modify fun _ hs => canonical_putElem hs

theorem neat_raise {L : Lane} {v t : Ev} : Neat (L.raise v t) := neat_modify fun _ hs => canonical_raise hs

/-! ### Words of majors 0x20 to 0x2E -/

/-- A meaning that reaches no further than the words of majors 0x20 to 0x2E leaves memory as it is. -/
theorem Lane.Completes.neat {L : Lane} {m : M Unit} (h : L.Completes m) : Neat m := by
  intro s
  obtain ⟨t, hrun, hrest, -⟩ := h s
  unfold KeepsAt
  rw [hrun]
  exact fun hs => canonical_of_mem hs hrest.mem

theorem neat_arith {L : Lane} {i : Instr} : Neat (L.arith i) := (completes_arith i).neat

/-! ### Words of majors 0x30 to 0x35 -/

theorem neat_load {L : Lane} {d : BitVec 7} {rec' : Nat} : Neat (L.load d rec') := neat_write

theorem neat_rewriteOpa {L : Lane} {a : BitVec 7} {n : Nat} {m : Bool} {addr : Nat → List (Nat × Nat)} {ea : Nat} {ps : List Piece} :
    Neat (L.rewriteOpa a n m addr ea ps) := by
  unfold Lane.rewriteOpa
  split
  · exact neat_get_bind fun _ _ => neat_ite (neat_modify fun _ ht => canonical_ite (canonical_setX (canonical_updHart ht)) (canonical_updHart ht))
      (neat_pure _)
  · exact neat_pure _

theorem neat_readVa {L : Lane} {ea len : Nat} : Neat (L.readVa ea len) :=
  neat_get_bind fun _ _ => neat_bind neat_readHome fun _ => neat_bind (neat_modify fun _ ht => canonical_noteRead (canonical_countHops ht)) fun _ =>
    neat_pure _

theorem canonical_putPieces {L : Lane} {ps : List Piece} {v : Nat} {s : State} (hs : Canonical s) : Canonical (L.putPieces ps v s) :=
  canonical_foldl (fun _ _ ht => canonical_dropL1 ht) _ (canonical_echo (canonical_writePieces (canonical_countHops hs)))

theorem neat_writeVa {L : Lane} {ea len v : Nat} : Neat (L.writeVa ea len v) := by
  refine neat_get_bind fun _ _ => neat_bind neat_resolveOr fun _ => ?_
  refine neat_bind ?_ fun _ => ?_
  · exact neat_modify fun _ ht => canonical_ite (canonical_foldl (fun _ _ hu => canonical_markBehind hu) _ (canonical_putPieces ht))
      (canonical_putPieces ht)
  · exact neat_pure _

theorem neat_loadVa {L : Lane} {f : Form} {d a : BitVec 7} {m : Bool} : Neat (L.loadVa f d a m) :=
  neat_ite (neat_get_bind fun _ _ => neat_bind neat_readVa fun _ => neat_bind neat_load fun _ => neat_ite neat_rewriteOpa (neat_pure _)) (neat_pure _)

theorem neat_storeVa {L : Lane} {f : Form} {d a : BitVec 7} {m : Bool} : Neat (L.storeVa f d a m) :=
  neat_ite (neat_get_bind fun _ _ => neat_bind neat_writeVa fun _ => neat_ite neat_rewriteOpa (neat_pure _)) (neat_pure _)

theorem neat_storeUnordered {L : Lane} {d b : BitVec 7} {m : Bool} : Neat (L.storeUnordered d b m) :=
  neat_ite (neat_get_bind fun _ _ => neat_bind neat_resolveOr fun _ => neat_bind neat_drawN fun _ => neat_get_bind fun _ _ => neat_modify fun _ hu =>
    canonical_updHart (canonical_putPieces hu)) (neat_pure _)

theorem canonical_updBuf {s : State} {core lno : Nat} {k : BufKind} {f : Buf → Buf} (hs : Canonical s) : Canonical (s.updBuf core lno k f) :=
  canonical_updCore hs

theorem canonical_putBuf {s : State} {h core lno : Nat} {k : BufKind} {f : Buf → Buf} (hs : Canonical s) : Canonical (s.putBuf h core lno k f) :=
  canonical_updSnap (canonical_updBuf hs)

theorem neat_touchGuard {L : Lane} {p : Place} {len : Nat} : Neat (L.touchGuard p len) :=
  neat_modify fun _ hs => canonical_ite (canonical_updCtx (canonical_count hs)) (canonical_updHart (canonical_count hs))

theorem neat_needFull {p : Place} {len : Nat} : Neat (needFull p len) := by
  unfold needFull
  refine neat_get_bind fun _ _ => ?_
  dsimp only
  split
  · exact neat_waitM _
  · exact neat_pure _

theorem neat_markGranules {L : Lane} {p : Place} {len : Nat} {m full was : Bool} {offOf : Nat → Nat} :
    Neat (L.markGranules p len m full was offOf) :=
  neat_modify fun _ hs => canonical_updBuf hs

theorem neat_loadBuf {L : Lane} {k : BufKind} {d : BitVec 7} {r : Bool} {xp fe : Nat} {m : Bool} : Neat (L.loadBuf k d r xp fe m) := by
  unfold Lane.loadBuf
  refine neat_get_bind fun _ _ => ?_
  refine neat_ite ?_ (neat_pure _)
  split
  · exact neat_trapM _ _
  · exact neat_guard neat_needFull fun _ => neat_ite (neat_bind neat_touchGuard fun _ => neat_load) neat_load

theorem neat_storeBuf {L : Lane} {k : BufKind} {d : BitVec 7} {r m : Bool} : Neat (L.storeBuf k d r m) := by
  unfold Lane.storeBuf
  refine neat_get_bind fun _ _ => ?_
  refine neat_ite ?_ (neat_pure _)
  split
  · exact neat_trapM _ _
  · exact neat_touchGuard
  · exact neat_modify fun _ ht => canonical_putBuf ht

theorem neat_markWord {L : Lane} {was : Bool} {i : Instr} : Neat (L.markWord was i) := by
  unfold Lane.markWord
  refine neat_get_bind fun _ _ => ?_
  dsimp only
  split
  case h_7 => exact neat_pure _
  all_goals exact neat_ite neat_markGranules (neat_pure _)

/-- A vector atomic acts on a buffer, or at home (R179, R206). -/
theorem neat_atomic {L : Lane} {op : VAtomic} {d b : BitVec 7} {m : Bool} : Neat (L.atomic op d b m) := by
  have hacquire : ∀ {c : Prop} [Decidable c] {h scope : Nat}, Neat (if c then modify (fun s => s.acquire h scope) else pure ()) :=
    neat_ite (neat_modify fun _ ht => canonical_acquire ht) (neat_pure _)
  refine neat_ite (neat_get_bind fun _ _ => neat_guard (neat_trapM _ _) fun _ => neat_ite ?aperture ?home) hacquire
  case aperture =>
    refine neat_guard (neat_trapM _ _) fun _ => neat_ite ?guard ?buffer
    case guard => exact neat_bind neat_touchGuard fun _ => neat_bind neat_write fun _ => hacquire
    case buffer =>
      exact neat_bind (neat_modify fun _ ht => canonical_putBuf ht) fun _ => neat_bind neat_write fun _ => neat_bind neat_raise fun _ => hacquire
  case home =>
    refine neat_bind neat_resolveOr fun _ => neat_get_bind fun _ _ => neat_guard (neat_throw _) fun _ => ?_
    exact neat_bind (neat_modify fun _ ht => canonical_putPieces ht) fun _ => neat_bind neat_write fun _ => neat_bind neat_raise fun _ => hacquire

theorem neat_setHandle {L : Lane} {a : BitVec 5} {n : Nat} : Neat (L.setHandle a n) := neat_modify fun _ hs => canonical_updCtx hs

theorem neat_streamLoad {L : Lane} {d : BitVec 7} {a : BitVec 5} {m bind : Bool} : Neat (L.streamLoad d a m bind) :=
  neat_ite (neat_bind neat_readVa fun _ => neat_bind neat_load fun _ => neat_ite neat_setHandle (neat_pure _)) (neat_ite neat_setHandle (neat_pure _))

theorem neat_streamStore {L : Lane} {d : BitVec 7} {a : BitVec 5} {m : Bool} : Neat (L.streamStore d a m) :=
  neat_ite (neat_get_bind fun _ _ => neat_bind neat_writeVa fun _ => neat_ite neat_setHandle (neat_pure _)) (neat_ite neat_setHandle (neat_pure _))

theorem neat_streamUnbind {L : Lane} {d : BitVec 7} {a : BitVec 5} : Neat (L.streamUnbind d a) :=
  neat_get_bind fun _ _ => neat_bind neat_writeVa fun _ => neat_ite neat_setHandle (neat_pure _)

theorem neat_handleSet {L : Lane} {a : BitVec 5} : Neat (L.handleSet a) :=
  neat_ite (neat_bind neat_readVa fun _ => neat_guard (neat_trapM _ _) fun _ => neat_setHandle) (neat_pure _)

theorem neat_scaleLoad {L : Lane} {a : BitVec 7} : Neat (L.scaleLoad a) :=
  neat_ite (neat_bind neat_readVa fun _ => neat_bind (neat_modify fun _ hs => canonical_updCtx hs) fun _ => neat_rewriteOpa) (neat_pure _)

theorem neat_resolveParts {L : Lane} {parts : List (Nat × Nat)} : Neat (L.resolveParts parts) := by
  unfold Lane.resolveParts
  refine neat_get_bind fun _ _ => ?_
  refine neat_bind (neat_mapM (fun _ => neat_bind neat_resolve fun _ => neat_pure _) _) fun _ => ?_
  dsimp only
  split
  · exact neat_stopAccess
  · refine neat_get_bind fun _ _ => ?_
    split
    · exact neat_stopAccess
    · exact neat_bind (neat_modify fun _ hu => canonical_foldl (fun _ _ hv => canonical_noteRead (canonical_countHops hv)) _ hu) fun _ => neat_pure _

theorem neat_loadNp {L : Lane} {d a : BitVec 7} {p q : Nat} {m : Bool} : Neat (L.loadNp d a p q m) := by
  unfold Lane.loadNp
  refine neat_ite ?_ (neat_pure _)
  refine neat_bind neat_resolveParts fun _ => ?_
  refine neat_get_bind fun _ _ => ?_
  refine neat_bind neat_write fun _ => ?_
  refine neat_bind neat_raise fun _ => ?_
  split
  · exact neat_ite neat_rewriteOpa (neat_pure _)
  · exact neat_pure _

theorem neat_memory {L : Lane} {i : Instr} : Neat (L.memory i) := by
  unfold Lane.memory
  split
  case h_1 | h_2 | h_3 => exact neat_loadVa
  case h_4 | h_5 | h_6 | h_7 => exact neat_storeVa
  case h_8 => exact neat_storeUnordered
  case h_9 | h_10 | h_11 => exact neat_loadBuf
  case h_12 | h_13 | h_14 => exact neat_storeBuf
  case h_31 | h_33 => exact neat_streamLoad
  case h_32 => exact neat_streamStore
  case h_34 => exact neat_streamUnbind
  case h_35 => exact neat_handleSet
  case h_36 => exact neat_scaleLoad
  case h_37 => exact neat_loadNp
  case h_38 => exact neat_pure _
  all_goals exact neat_atomic

end Sys2Proof.Machine
end

section
/-! PROOFS. Memory stays canonical through the Anvil, releases, scalar atomics and branches (R118 to R131, R215 to R235, R269). -/

namespace Sys2Proof.Machine

open Sys2Proof

/-! ### The Anvil -/

theorem canonical_updAnvil {s : State} {c : Nat} {f : Anvil → Anvil} (hs : Canonical s) : Canonical (s.updAnvil c f) := canonical_updCore hs

theorem neat_needShapeIdle {h : Nat} : Neat (needShapeIdle h) :=
  neat_get_bind fun _ _ => neat_guard (neat_waitM _) fun _ => neat_ite (neat_waitM _) (neat_pure _)

theorem neat_needMatrixDone {h : Nat} : Neat (needMatrixDone h) := neat_get_bind fun _ _ => neat_ite (neat_waitM _) (neat_pure _)

theorem neat_mshapeAct {h : Nat} {d : BitVec 7} {e : QEntry} : Neat (mshapeAct h d e) := by
  unfold mshapeAct
  refine neat_get_bind fun s _ => ?_
  extract_lets c r av me grant free granted asked
  clear_value me
  have hgranted : ∀ u, Neat (granted u) := by
    intro u
    refine neat_ite (neat_modify fun _ ht => canonical_setX (canonical_updAnvil ht)) ?_
    refine neat_ite (neat_modify fun _ ht => canonical_setX ht) (neat_modify fun _ ht => ?_)
    dsimp only
    split
    · exact canonical_updTask (canonical_setX (canonical_updAnvil ht))
    · exact canonical_setX (canonical_updAnvil ht)
  have hasked : ∀ u, Neat (asked u) := fun _ =>
    neat_ite (neat_modify fun _ ht => canonical_ite (canonical_updAnvil (canonical_setX ht)) (canonical_setX ht)) (neat_guard (neat_waitM _) hgranted)
  exact neat_ite (neat_bind neat_needShapeIdle fun _ => neat_guard neat_needMatrixDone hasked) (hasked ())

theorem neat_needPlaneFree {h : Nat} : Neat (needPlaneFree h) := neat_get_bind fun _ _ => neat_ite (neat_waitM _) (neat_pure _)

theorem neat_mldsAct {h : Nat} {e : QEntry} : Neat (mldsAct h e) :=
  neat_bind neat_needPlaneFree fun _ => neat_modify fun _ hs => canonical_updAnvil hs

theorem canonical_loadPlane {s : State} {h n : Nat} {e : QEntry} (hs : Canonical s) : Canonical (s.loadPlane h n e) := canonical_updAnvil hs

theorem canonical_zeroTiles {s : State} {h d : Nat} (hs : Canonical s) : Canonical (s.zeroTiles h d) := canonical_updAnvil hs

theorem canonical_releaseShaped {s : State} {h : Nat} (hs : Canonical s) : Canonical (s.releaseShaped h) := hs

theorem neat_mstatAct {h : Nat} {d : BitVec 7} {e : QEntry} : Neat (mstatAct h d e) :=
  neat_bind neat_needMatrixDone fun _ => neat_modify fun _ hs => canonical_setX hs

theorem canonical_runPass {s : State} {h : Nat} {w : Mmul} {opA : Word} {acts : Memory} {p : Plane} {mg : Nat} {pass : Nat × List (Nat × Nat)}
    (hs : Canonical s) : Canonical (s.runPass h w opA acts p mg pass) :=
  canonical_updAnvil hs

theorem canonical_clearTangents {s : State} {h : Nat} {w : Mmul} {p : Plane} {mg : Nat} (hs : Canonical s) :
    Canonical (s.clearTangents h w p mg) :=
  canonical_ite hs (canonical_updAnvil hs)

theorem canonical_grantPass {s : State} {c : Nat} (hs : Canonical s) : Canonical (s.grantPass c) := canonical_updCore (canonical_updCluster hs)

theorem canonical_endMatrix {s : State} {c h : Nat} {j : MatrixJob} {w : Mmul} {p : Plane} (hs : Canonical s) :
    Canonical (s.endMatrix c h j w p) :=
  canonical_updCore (canonical_updHart hs)

theorem canonical_grantNow {s : State} {c : Nat} (hs : Canonical s) : Canonical (s.grantNow c) :=
  canonical_ite hs (canonical_grantPass (canonical_updCluster hs))

theorem canonical_requestPass {s : State} {c : Nat} (hs : Canonical s) : Canonical (s.requestPass c) := canonical_grantNow (canonical_updCluster hs)

theorem canonical_endPass {s : State} {c : Nat} {layers : List Nat} (hs : Canonical s) : Canonical (s.endPass c layers) := canonical_updCluster hs

theorem canonicalNext_execLayerPass {c : Nat} {s : State} (hs : Canonical s) : CanonicalNext (execLayerPass c s) := by
  unfold execLayerPass
  split
  · exact canonicalNext_next hs
  · refine canonicalNext_ite (canonicalNext_next hs) ?_
    extract_lets plan mg cleared acts
    have hcleared : Canonical cleared := canonical_ite (canonical_clearTangents hs) hs
    split
    · exact canonicalNext_next (canonical_endMatrix hcleared)
    · extract_lets ran settled j' counted
      have hcounted : Canonical counted := canonical_count (canonical_count (canonical_ite (canonical_countConflicts (canonical_runPass hcleared))
        (canonical_runPass hcleared)))
      split
      · exact canonicalNext_next (canonical_endMatrix (canonical_endPass hcounted))
      · exact canonicalNext_ite (canonicalNext_next (canonical_updCore hcounted))
          (canonicalNext_next (canonical_requestPass (canonical_updCore (canonical_endPass hcounted))))

theorem canonical_grantPending {cl n a : Nat} {l : List (Nat × Nat)} {s : State} (hs : Canonical s) : Canonical (s.grantPending cl n a l) := by
  fun_induction State.grantPending with
  | case1 | case2 => exact hs
  | case3 s n a t c rest hword ih => exact ih (canonical_updCluster hs)
  | case4 s n a t c rest hosts hword hnone ih => exact ih hs
  | case5 => exact hs
  | case6 s n a t c rest hosts hword hsome need hfits u ih => exact ih (canonical_grantPass (canonical_updCluster hs))

theorem canonicalNext_execSlewStep {cl : Nat} {s : State} (hs : Canonical s) : CanonicalNext (execSlewStep cl s) :=
  canonicalNext_next (canonical_grantPending (canonical_updCluster hs))

theorem canonicalNext_execAnvilFree {c : Nat} {s : State} (hs : Canonical s) : CanonicalNext (execAnvilFree c s) := by
  unfold execAnvilFree
  refine canonicalNext_ite (canonicalNext_next hs) ?_
  refine canonicalNext_next ?_
  refine canonical_withTasks ?_
  split
  · exact canonical_updTask (canonical_updAnvil hs)
  · exact canonical_updAnvil hs

theorem canonical_layerReport {s : State} {c layer t : Nat} (hs : Canonical s) : Canonical (s.layerReport c layer t) :=
  canonical_grantNow (canonical_updCore hs)

theorem canonicalNext_execLayerTempReport {c layer t : Nat} {s : State} (hs : Canonical s) : CanonicalNext (execLayerTempReport c layer t s) :=
  canonicalNext_next (canonical_layerReport hs)

theorem neat_drain {L : Lane} {f : Drain} {d : Nat} {a : BitVec 7} {m : Bool} : Neat (L.drain f d a m) := by
  unfold Lane.drain
  refine neat_ite ?_ (neat_pure _)
  refine neat_get_bind fun _ _ => ?_
  refine neat_bind neat_writeVa fun _ => ?_
  refine neat_bind neat_raise fun _ => ?_
  split
  · exact neat_pure _
  · exact neat_rewriteOpa

theorem neat_drainWord {L : Lane} {i : Instr} : Neat (L.drainWord i) := by
  unfold Lane.drainWord
  split
  · exact neat_drain
  · exact neat_drain
  · exact neat_drain
  · exact neat_pure _

/-! ### The checks of a copy run -/

theorem neat_checkPart {j : CopyJob} {c : Nat} {e : CopyEnd} {a : Acc} {off : Int} {len : Nat} : Neat (j.checkPart c e a off len) := by
  unfold CopyJob.checkPart
  refine neat_ite (neat_bind neat_resolve fun o => ?_) (neat_ite (neat_pure _) (neat_get_bind fun _ _ => neat_pure _))
  split
  · exact neat_get_bind fun _ _ => neat_ite (neat_pure _) (neat_pure _)
  · exact neat_pure _

theorem neat_checkParts {j : CopyJob} {c : Nat} {e : CopyEnd} {a : Acc} {ps : List (Int × Nat)} : Neat (j.checkParts c e a ps) := by
  induction ps with
  | nil => exact neat_pure _
  | cons p ps ih =>
    refine neat_bind neat_checkPart fun x => ?_
    split
    · exact neat_pure _
    · refine neat_bind ih fun xs => ?_
      split <;> exact neat_pure _

/-! ### The destination of a gather -/

theorem neat_gatherDest {r : Req} {g : Gather} {d : Int} {n : Nat} : Neat (gatherDest r g d n) :=
  neat_ite (neat_pure _) (neat_ite neat_resolve (neat_get_bind fun _ _ => neat_pure _))

/-! ### Releases -/

theorem neat_storeTranslates {r : Req} {a : Acc} {ea len : Nat} : Neat (storeTranslates r a ea len) :=
  neat_ite (neat_pure _) (neat_bind neat_resolve fun _ => neat_pure _)

theorem neat_translates {L : Lane} {i : Instr} : Neat (L.translates i) := by
  unfold Lane.translates
  refine neat_get_bind fun _ _ => ?_
  dsimp only
  split
  case h_1 | h_2 | h_3 | h_4 | h_5 | h_6 | h_7 | h_8 | h_9 | h_10 => exact neat_storeTranslates
  case h_11 | h_12 | h_13 | h_30 => exact neat_pure _
  all_goals exact neat_ite (neat_pure _) (neat_ite (neat_pure _) neat_storeTranslates)

theorem neat_entryTranslates {h n : Nat} {e : QEntry} : Neat (entryTranslates h n e) := by
  unfold entryTranslates
  refine neat_get_bind fun _ _ => ?_
  dsimp only
  split
  · exact neat_pure _
  · refine neat_ite (neat_pure _) ?_
    split
    · exact neat_pure _
    · exact neat_pure _
    · exact neat_pure _
    · exact neat_ite (neat_pure _) (neat_ite (neat_pure _) (neat_allM (fun _ => neat_ite neat_translates (neat_pure _)) _))

theorem neat_copyJob_translates {j : CopyJob} {c : Nat} : Neat (j.translates c) :=
  neat_ite (neat_pure _) (neat_allM (fun _ => neat_allM (fun _ => neat_bind neat_resolve fun _ => neat_pure _) _) _)

theorem neat_copiesTranslate {h : Nat} : Neat (copiesTranslate h) := neat_get_bind fun _ _ => neat_allM (fun _ => neat_copyJob_translates) _

theorem neat_gathersTranslate {h : Nat} : Neat (gathersTranslate h) :=
  neat_get_bind fun _ _ => neat_allM (fun _ => neat_allM (fun _ => neat_bind neat_gatherDest fun _ => neat_pure _) _) _

theorem neat_needRelease {h : Nat} : Neat (needRelease h) := by
  refine neat_get_bind fun _ _ => neat_bind (neat_allM (fun _ => neat_entryTranslates) _) fun _ => ?_
  refine neat_guard (neat_waitM _) fun _ => neat_bind neat_copiesTranslate fun _ => ?_
  exact neat_guard (neat_waitM _) fun _ => neat_bind neat_gathersTranslate fun _ => neat_ite (neat_waitM _) (neat_pure _)

/-! ### Scalar atomics -/

theorem neat_orderByte {w : Nat} {base : Word} : Neat (orderByte w base) := neat_guard (neat_trapM _ _) fun _ => neat_pure _

theorem canonicalNext_scalarAtomic {k : Bool} {wd : Nat} {d a b : BitVec 7} {w : Nat} {signed : Bool} {op : Nat → Nat → Nat → Bool × Nat}
    {sat : Nat → Nat → Nat → Bool} {s : State} (hs : Canonical s) : CanonicalNext (scalarAtomic k wd d a b w signed op sat s) := by
  refine canonicalNext_scalarWord hs (neat_bind neat_orderByte fun _ => neat_guard (neat_trapM _ _) fun _ => ?_)
  refine neat_guard neat_needRelease fun _ => neat_bind neat_scalarResolve fun _ => neat_get_bind fun _ _ => ?_
  refine neat_guard (neat_throw _) fun _ => ?_
  refine neat_bind ?_ fun _ => ?_
  · exact neat_modify fun _ hu => canonical_foldl (fun _ _ hv => canonical_dropL1 hv) _ (canonical_ite (canonical_writePieces hu) (canonical_foldl
      (fun _ _ hv => canonical_breakResv hv) _ hu))
  · exact neat_guard (neat_modify fun _ hu => canonical_updCtx hu) fun _ => neat_bind neat_rewriteBase fun _ => neat_guard (neat_modify fun _ hu =>
      canonical_acquire hu) fun _ => neat_retireWith

theorem canonicalNext_loadReserve {k : Bool} {wd : Nat} {d a : BitVec 7} {w : Nat} {s : State} (hs : Canonical s) :
    CanonicalNext (loadReserve k wd d a w s) := by
  refine canonicalNext_scalarWord hs (neat_bind neat_orderByte fun _ => neat_guard (neat_trapM _ _) fun _ => ?_)
  refine neat_guard neat_needRelease fun _ => neat_bind neat_scalarResolve fun _ => neat_get_bind fun _ _ => ?_
  refine neat_guard (neat_throw _) fun _ => neat_bind (neat_modify fun _ hu => canonical_updHart (canonical_dropL1 hu)) fun _ => ?_
  exact neat_bind neat_rewriteBase fun _ => neat_guard (neat_modify fun _ hu => canonical_acquire hu) fun _ => neat_retireWith

theorem canonicalNext_storeConditional {k : Bool} {wd : Nat} {d a b : BitVec 7} {w : Nat} {s : State} (hs : Canonical s) :
    CanonicalNext (storeConditional k wd d a b w s) := by
  refine canonicalNext_scalarWord hs (neat_bind neat_orderByte fun _ => neat_guard (neat_trapM _ _) fun _ => ?_)
  refine neat_guard neat_needRelease fun _ => neat_bind neat_scalarResolve fun _ => neat_get_bind fun _ _ => ?_
  refine neat_bind (neat_modify fun _ hu => canonical_updHart (canonical_ite (canonical_dropL1 (canonical_writePieces hu)) hu)) fun _ => ?_
  exact neat_bind neat_rewriteBase fun _ => neat_guard (neat_modify fun _ hu => canonical_acquire hu) fun _ => neat_retireWith

/-! ### Branches and jumps -/

theorem canonicalNext_branch {k : Bool} {w : Nat} {taken : Bool} {o : BitVec 11} {s : State} (hs : Canonical s) :
    CanonicalNext (branch k w taken o s) :=
  canonicalNext_ite (canonicalNext_next (canonical_retireTo hs)) (canonicalNext_next (canonical_trapEntry hs))

theorem canonicalNext_execJal {k : Bool} {o : BitVec 25} {s : State} (hs : Canonical s) : CanonicalNext (execJal k o s) :=
  canonicalNext_ite (canonicalNext_next (canonical_retireTo (canonical_setX hs))) (canonicalNext_next (canonical_trapEntry hs))

theorem canonicalNext_execJalr {k : Bool} {d a : BitVec 7} {i : BitVec 11} {s : State} (hs : Canonical s) : CanonicalNext (execJalr k d a i s) :=
  canonicalNext_ite (canonicalNext_next (canonical_retireTo (canonical_setX hs))) (canonicalNext_next (canonical_trapEntry hs))

end Sys2Proof.Machine
end

section
/-! PROOFS. Memory stays canonical through the start of tasks, the cluster, copies, and Drift (R239 to R268, R307 to R328, R361 to R373). -/

namespace Sys2Proof.Machine

open Sys2Proof

/-! ### Which task a hart takes -/

theorem canonical_allocate {s : State} {lno c : Nat} (hs : Canonical s) : Canonical (s.allocate lno c) := by
  unfold State.allocate
  split
  · exact hs
  · exact canonical_ite hs (canonical_updCore hs)

theorem neat_writeBlock {lno tower r t home : Nat} : Neat (writeBlock lno tower r t home) := by
  unfold writeBlock
  refine neat_ite (neat_pure _) ?_
  refine neat_get_bind fun _ _ => ?_
  refine neat_bind neat_resolve fun _ => ?_
  split
  · exact neat_bind (neat_modify fun _ ht => canonical_writePieces ht) fun _ => neat_pure _
  · exact neat_pure _

theorem canonical_install {s : State} {h tid : Nat} {c : Ctx} (hs : Canonical s) : Canonical (s.install h tid c) := by
  unfold State.install
  exact canonical_retarget (canonical_acquire (canonical_updTask (canonical_setHart hs)))

theorem canonical_startTask {s : State} {h tid : Nat} (hs : Canonical s) : Canonical (s.startTask h tid) := by
  unfold State.startTask
  split
  · exact hs
  · split
    · dsimp only
      split
      · exact canonical_ite_snd (canonical_allocate hs) (canonical_tryM neat_writeBlock (canonical_allocate hs))
      · exact canonical_install (canonical_ite_snd (canonical_allocate hs) (canonical_tryM neat_writeBlock (canonical_allocate hs)))
      · exact canonical_requestPage (canonical_updTask (canonical_ite_snd (canonical_allocate hs) (canonical_tryM neat_writeBlock (canonical_allocate
          hs))))
      · exact canonical_terminateTask (canonical_ite_snd (canonical_allocate hs) (canonical_tryM neat_writeBlock (canonical_allocate hs)))
    · exact hs

theorem canonical_loadRegion {s : State} {c f vbase vcount : Nat} (hs : Canonical s) : Canonical (s.loadRegion c f vbase vcount) :=
  canonical_updCore hs

theorem canonical_loadAnvil {s : State} {c tid f : Nat} {t : Task} (hs : Canonical s) : Canonical (s.loadAnvil c tid f t) := by
  unfold State.loadAnvil
  split
  · exact hs
  · exact canonical_updTask (canonical_updCore hs)

theorem canonical_resumeTask {s : State} {h tid : Nat} (hs : Canonical s) : Canonical (s.resumeTask h tid) := by
  unfold State.resumeTask
  split
  · exact hs
  · split
    · refine canonical_ite (canonical_terminateTask hs) ?_
      refine canonical_ite ?_ ?_
      · exact canonical_reissue (canonical_install (canonical_loadAnvil (canonical_loadRegion (canonical_allocate hs))))
      · exact canonical_terminateAt (canonical_install (canonical_loadAnvil (canonical_loadRegion (canonical_allocate hs))))
    · exact hs

theorem canonical_bindNew {s : State} {lno : Nat} {placed : List (Nat × Nat × Nat)} (hs : Canonical s) : Canonical (s.bindNew lno placed) := by
  unfold State.bindNew
  refine canonical_updLaunch ?_
  refine canonical_foldl (fun _ _ ht => ?_) _ hs
  split
  · exact canonical_holdBarriers ht
  · exact canonical_holdBarriers ht
  · exact ht

theorem canonical_rebind {s : State} {t : Task} (hs : Canonical s) : Canonical (s.rebind t) := by
  unfold State.rebind
  refine canonical_ite hs ?_
  split
  · split
    · exact canonical_bindNew hs
    · exact hs
  · exact hs

theorem canonical_withTasksNextTask {s : State} {tasks' : Tbl Task} {nextTask' : Nat} (hs : Canonical s) :
    Canonical { s with tasks := tasks', nextTask := nextTask' } := hs

theorem canonical_take {s : State} {h : Nat} {k : Cand} (hs : Canonical s) : Canonical (s.take h k) := by
  unfold State.take
  split
  · split
    · exact hs
    · split
      · exact hs
      · exact canonical_startTask (canonical_updLaunch (canonical_withTasksNextTask (canonical_bindNew (canonical_holdBarriers hs))))
  · split
    · exact hs
    · refine canonical_ite (canonical_updTask (canonical_rebind hs)) ?_
      refine canonical_ite (canonical_resumeTask (canonical_rebind hs)) ?_
      refine canonical_startTask ?_
      split
      · exact canonical_rebind hs
      · exact canonical_updTask (canonical_rebind hs)

/-! ### The cluster -/

theorem canonical_wakeCluster {s : State} {cl : Nat} (hs : Canonical s) : Canonical (s.wakeCluster cl) := canonical_updCluster hs

theorem canonical_wakeCore {s : State} {c : Nat} (hs : Canonical s) : Canonical (s.wakeCore c) := canonical_wakeCluster (canonical_updCore hs)

theorem neat_needCluster {h : Nat} : Neat (needCluster h) :=
  neat_get_bind fun _ _ => neat_guard (neat_throw _) fun _ => neat_bind (neat_modify fun _ ht => canonical_wakeCluster ht) fun _ => neat_get_bind
    fun _ _ => neat_ite (neat_waitM _) (neat_pure _)

theorem canonicalNext_execBarArrive {k : Bool} {d a b : BitVec 7} {s : State} (hs : Canonical s) : CanonicalNext (execBarArrive k d a b s) := by
  unfold execBarArrive
  extract_lets w h x n exp cl lno bar setBar old cur r retired arrived checked
  refine canonicalNext_scalarWord hs (neat_bind neat_needCluster fun _ => ?_)
  have hset : ∀ v, Neat (setBar v) := fun _ => neat_modify fun _ ht => canonical_updCluster ht
  have harrived : ∀ u, Neat (arrived u) := fun _ =>
    neat_bind (hset _) fun _ => neat_guard (neat_modify fun _ ht => canonical_updCtx ht) fun _ => neat_retireWith
  have hchecked : ∀ u, Neat (checked u) := fun _ =>
    neat_bind neat_needRelease fun _ => neat_ite (neat_bind (hset _) fun _ => neat_bind (neat_throw _) harrived) (harrived ())
  exact neat_guard (neat_trapM _ _) hchecked

theorem canonicalNext_execBarWait {k : Bool} {d a b : BitVec 7} {s : State} (hs : Canonical s) : CanonicalNext (execBarWait k d a b s) := by
  unfold execBarWait
  extract_lets w h x cl lno bar p v passed copied waited guarded awaited
  refine canonicalNext_scalarWord hs (neat_bind neat_needCluster fun _ => ?_)
  have hstop : ∀ {f : Ctx → Ctx} {e : Stop} {resume : Unit → M Unit}, (∀ u, Neat (resume u)) →
      Neat (modify (fun t : State => t.updCtx h f) >>= fun _ => throw e >>= resume) :=
    fun hresume => neat_bind (neat_modify fun _ ht => canonical_updCtx ht) fun _ => neat_bind (neat_throw _) hresume
  have hpassed : ∀ u, Neat (passed u) := fun _ => neat_bind (neat_modify fun _ ht => canonical_acquire ht) fun _ => neat_retireWith
  have hcopied : ∀ u, Neat (copied u) := by
    intro u
    unfold copied
    split
    · exact hstop hpassed
    · exact hpassed ()
  have hwaited : ∀ u, Neat (waited u) := fun _ => neat_guard (neat_waitM _) hcopied
  have hguarded : ∀ u, Neat (guarded u) := by
    intro u
    unfold guarded
    split
    · exact hstop hwaited
    · exact hwaited ()
  have hawaited : ∀ u, Neat (awaited u) := by
    intro u
    unfold awaited
    split
    · exact hstop hguarded
    · exact hguarded ()
  exact neat_guard (neat_trapM _ _) hawaited

theorem canonicalNext_execTskDef {k : Bool} {d a b : BitVec 7} {s : State} (hs : Canonical s) : CanonicalNext (execTskDef k d a b s) := by
  refine canonicalNext_scalarWord hs (neat_bind neat_needCluster fun _ => neat_guard (neat_trapM _ _) fun _ => neat_get_bind fun _ _ => neat_bind
    neat_readHome fun _ => neat_bind (neat_modify fun _ ht => canonical_countHops ht) fun _ => neat_guard (neat_trapM _ _) fun _ => ?_)
  dsimp only
  split
  · exact neat_retireWith
  · exact neat_bind (neat_modify fun _ ht => canonical_updCluster ht) fun _ => neat_retireWith

theorem canonical_createNamed {s : State} {cl : Nat} {dc : DepCounter} (hs : Canonical s) : Canonical (s.createNamed cl dc) :=
  canonical_withTasksNextTask (canonical_holdBarriers hs)

theorem canonical_decCounter {s : State} {cl c : Nat} (hs : Canonical s) : Canonical (s.decCounter cl c) := by
  unfold State.decCounter
  split
  · exact hs
  · exact canonical_ite (canonical_createNamed (canonical_updCluster hs)) (canonical_updCluster hs)

theorem canonical_decNow {s : State} {cl lno c : Nat} (hs : Canonical s) : Canonical (s.decNow cl lno c) := canonical_ite (canonical_decCounter hs) hs

theorem canonical_decHeld {s : State} {cl lno c : Nat} (hs : Canonical s) : Canonical (s.decHeld cl lno c) :=
  canonical_ite (canonical_decNow (canonical_wakeCluster hs)) (canonical_updCluster (canonical_wakeCluster hs))

theorem canonical_servePort {s : State} {cl : Nat} (hs : Canonical s) : Canonical (s.servePort cl) :=
  canonical_foldl (fun _ _ ht => canonical_decNow ht) _ (canonical_updCluster hs)

theorem canonicalNext_execTskDec {k : Bool} {d a : BitVec 7} {s : State} (hs : Canonical s) : CanonicalNext (execTskDec k d a s) := by
  unfold execTskDec
  refine canonicalNext_scalarWord hs ?_
  refine neat_bind neat_needCluster fun _ => ?_
  refine neat_guard (neat_trapM _ _) fun _ => ?_
  refine neat_bind neat_needRelease fun _ => ?_
  dsimp only
  split
  · exact neat_guard (neat_trapM _ _) fun _ => neat_bind (neat_modify fun _ ht => canonical_decCounter ht) fun _ => neat_retireWith
  · exact neat_trapM _ _

theorem canonical_enterCluster {s : State} {cl : Nat} (hs : Canonical s) : Canonical (s.enterCluster cl) := canonical_ite (canonical_updCluster hs) hs

theorem canonicalNext_execCoreGate {c : Nat} {s : State} (hs : Canonical s) : CanonicalNext (execCoreGate c s) := by
  unfold execCoreGate
  refine canonicalNext_next ?_
  split
  · exact canonical_ite (canonical_updCore hs) hs
  · exact canonical_enterCluster hs
  · exact hs

theorem canonicalNext_execGateEntryComplete {unit : GateUnit} {s : State} (hs : Canonical s) : CanonicalNext (execGateEntryComplete unit s) := by
  unfold execGateEntryComplete
  split
  · exact canonicalNext_ite (canonicalNext_next hs) (canonicalNext_ite (canonicalNext_next (canonical_updCore hs)) (canonicalNext_next
      (canonical_enterCluster (canonical_updCore hs))))
  · exact canonicalNext_ite (canonicalNext_next hs) (canonicalNext_next (canonical_updCluster hs))

theorem canonicalNext_execWakeComplete {unit : GateUnit} {s : State} (hs : Canonical s) : CanonicalNext (execWakeComplete unit s) := by
  unfold execWakeComplete
  refine canonicalNext_next ?_
  split
  · exact canonical_ite (canonical_updCore hs) hs
  · exact canonical_ite (canonical_servePort (canonical_updCluster hs)) hs

theorem canonicalNext_execLdoSettle {c g : Nat} {s : State} (hs : Canonical s) : CanonicalNext (execLdoSettle c g s) :=
  canonicalNext_next (canonical_updCore hs)

theorem canonicalNext_execDewpointSample {cl mm : Nat} {s : State} (hs : Canonical s) : CanonicalNext (execDewpointSample cl mm s) :=
  canonicalNext_next (canonical_updCluster hs)

/-! ### Copies -/

theorem neat_copyLoad {L : Lane} {n : Nat} : Neat (L.copyLoad n) := neat_modify fun _ hs => canonical_updCtx hs

theorem canonical_endCopy {s : State} {c : Nat} {j : CopyJob} (hs : Canonical s) : Canonical (s.endCopy c j) :=
  canonical_ite (canonical_decHeld (canonical_updCore hs)) (canonical_updCore hs)

theorem neat_copyAccept {L : Lane} {v : Option Nat} : Neat (L.copyAccept v) :=
  neat_get_bind fun _ _ => neat_modify fun _ ht => canonical_ite (canonical_endCopy (canonical_updCore ht)) (canonical_updCore ht)

theorem canonical_copyJob_touchGuards {j : CopyJob} {e : CopyEnd} {off len : Nat} {s : State} (hs : Canonical s) :
    Canonical (j.touchGuards e off len s) :=
  canonical_ite hs (canonical_foldl (fun _ _ ht => canonical_ite (canonical_updCtx (canonical_count ht)) (canonical_count ht)) _ hs)

theorem canonical_copyJob_writePart {j : CopyJob} {c off : Nat} {bs : List Byte} {ps : List Piece} {s : State} (hs : Canonical s) :
    Canonical (j.writePart c off bs ps s) := by
  refine canonical_ite (canonical_foldl (fun _ _ ht => canonical_dropL1 ht) _ (canonical_echo (canonical_writePieces hs))) ?_
  exact canonical_ite (canonical_foldl (fun _ _ ht => canonical_updVreg ht) _ hs) (canonical_putBuf (canonical_countConflicts hs))

theorem canonical_landRows {s : State} {c : Nat} {j : CopyJob} {n : Nat} (hs : Canonical s) : Canonical (s.landRows c j n) :=
  canonical_ite hs (canonical_updCore hs)

theorem neat_copyJob_perform {j : CopyJob} {c n : Nat} : Neat (j.perform c n) := by
  unfold CopyJob.perform
  refine neat_bind neat_checkPart fun _ => ?_
  split
  · exact neat_pure _
  · refine neat_bind neat_checkParts fun _ => ?_
    split
    · exact neat_pure _
    · refine neat_get_bind fun _ _ => ?_
      refine neat_bind ?_ fun _ => ?_
      · exact neat_modify fun _ ht => canonical_foldl (fun _ _ hu => canonical_copyJob_writePart (canonical_copyJob_touchGuards hu)) _
          (canonical_copyJob_touchGuards (canonical_noteRead (canonical_foldl (fun _ _ hu => canonical_countHops hu) _ (canonical_ite ht
          (canonical_countConflicts ht)))))
      · exact neat_pure _

theorem neat_copyJob_partialRun {j : CopyJob} {c n : Nat} : Neat (j.partialRun c n) := by
  unfold CopyJob.partialRun
  refine neat_bind neat_drawN fun _ => ?_
  refine neat_forM (fun _ => ?_) _
  refine neat_forN fun _ => ?_
  refine neat_ite ?_ (neat_pure _)
  refine neat_bind neat_checkPart fun _ => ?_
  split
  · exact neat_pure _
  · refine neat_bind neat_checkPart fun _ => ?_
    split
    · exact neat_pure _
    · exact neat_modify fun _ hs => canonical_copyJob_writePart (canonical_noteRead hs)

theorem canonical_latchCopy {s : State} {h tid : Nat} {ev : Word} (hs : Canonical s) : Canonical (s.latchCopy h tid ev) :=
  canonical_ite (canonical_updCtx hs) hs

theorem canonicalNext_execCopyRun {c i : Nat} {s : State} (hs : Canonical s) : CanonicalNext (execCopyRun c i s) := by
  unfold execCopyRun
  split
  · exact canonicalNext_next hs
  · refine canonicalNext_ite (canonicalNext_next hs) ?_
    split
    · exact canonicalNext_next (canonical_keepSide hs)
    · split
      · next hrun =>
        have ht := neat_copyJob_perform.ok hs hrun
        exact canonicalNext_ite (canonicalNext_next (canonical_endCopy (canonical_landRows ht))) (canonicalNext_next (canonical_updCore
          (canonical_landRows ht)))
      · next hrun => exact canonicalNext_next (canonical_requestPage (canonical_updCore (neat_copyJob_perform.ok hs hrun)))
      · next hrun => exact canonicalNext_next (canonical_terminateTask (canonical_endCopy (neat_copyJob_perform.ok hs hrun)))
      · next hrun =>
        have ht := neat_copyJob_perform.ok hs hrun
        exact canonicalNext_next (canonical_endCopy (canonical_latchCopy (canonical_runM neat_copyJob_partialRun ht)))

theorem neat_copyWord {L : Lane} {i : Instr} : Neat (L.copyWord i) := by
  unfold Lane.copyWord
  split
  · exact neat_copyLoad
  · exact neat_copyAccept
  · exact neat_copyAccept
  · exact neat_pure _

/-! ### Drift -/

theorem canonical_acceptMove {s : State} {home lno cluster issuer : Nat} {q : MoveReq} {src dst : TlbEntry} (hs : Canonical s) :
    Canonical (s.acceptMove home lno cluster issuer q src dst) :=
  canonical_updTile (canonical_updTile (canonical_updTower hs))

theorem neat_dmoveAct {h : Nat} {d : BitVec 7} {e : QEntry} : Neat (dmoveAct h d e) := by
  unfold dmoveAct
  refine neat_get_bind fun _ _ => ?_
  refine neat_bind neat_readHome fun _ => ?_
  refine neat_bind (neat_modify fun _ ht => canonical_countHops ht) fun _ => ?_
  refine neat_guard (neat_trapM _ _) fun _ => ?_
  refine neat_bind neat_lookEntry fun _ => ?_
  split
  · exact neat_modify fun _ ht => canonical_setX ht
  · refine neat_bind neat_lookEntry fun _ => ?_
    split
    · exact neat_modify fun _ ht => canonical_setX ht
    · split
      · exact neat_trapM _ _
      · exact neat_trapM _ _
      · refine neat_get_bind fun _ _ => ?_
        refine neat_guard (neat_trapM _ _) fun _ => ?_
        refine neat_get_bind fun _ _ => ?_
        refine neat_guard (neat_trapM _ _) fun _ => ?_
        refine neat_modify fun _ hv => ?_
        dsimp only
        split
        · exact canonical_setX (canonical_acceptMove hv)
        · exact canonical_setX hv

theorem neat_fixAddr {r : Req} {cause : Nat} {orig : Word} {a : Nat} : Neat (fixAddr r cause orig a) := by
  unfold fixAddr
  refine neat_ite (neat_pure _) ?_
  refine neat_bind neat_chase fun _ => ?_
  split
  · exact neat_pure _
  · exact neat_stopAccess

theorem neat_dfixAct {h : Nat} {d : BitVec 7} {e : QEntry} : Neat (dfixAct h d e) :=
  neat_get_bind fun _ _ => neat_bind neat_fixAddr fun _ => neat_modify fun _ ht => canonical_setX ht

theorem neat_fixIndex {L : Lane} {d b : BitVec 7} : Neat (L.fixIndex d b) :=
  neat_get_bind fun _ _ => neat_guard (neat_trapM _ _) fun _ => neat_bind neat_fixAddr fun _ => neat_ite (neat_modify fun _ ht => canonical_putElem
    ht) neat_raise

theorem neat_dackAct {h : Nat} {d : BitVec 7} {e : QEntry} : Neat (dackAct h d e) := neat_modify fun _ hs => canonical_setX (canonical_updCtx hs)

theorem canonical_sweep {s : State} {lno hz : Nat} (hs : Canonical s) : Canonical (s.sweep lno hz) := hs

theorem neat_dsweepAct {h : Nat} {d : BitVec 7} {e : QEntry} : Neat (dsweepAct h d e) :=
  neat_get_bind fun _ _ => neat_guard (neat_waitM _) fun _ => neat_modify fun _ ht => canonical_setX (canonical_sweep ht)

theorem neat_dstatAct {h : Nat} {d : BitVec 7} {e : QEntry} : Neat (dstatAct h d e) := by
  unfold dstatAct
  refine neat_get_bind fun _ _ => ?_
  dsimp only
  split
  · exact neat_modify fun _ ht => canonical_setX ht
  · exact neat_modify fun _ ht => canonical_setX ht
  · exact neat_modify fun _ ht => canonical_setX ht
  · exact neat_modify fun _ ht => canonical_setX ht
  · refine neat_ite (neat_modify fun _ ht => canonical_setX ht) ?_
    refine neat_bind neat_translate fun _ => ?_
    split
    · exact neat_trapM _ _
    · exact neat_throw _
    · exact neat_modify fun _ ht => canonical_setX ht
  · refine neat_ite (neat_modify fun _ ht => canonical_setX ht) ?_
    refine neat_bind neat_translate fun _ => ?_
    split
    · exact neat_trapM _ _
    · exact neat_throw _
    · exact neat_modify fun _ ht => canonical_setX ht
  · exact neat_modify fun _ ht => canonical_setX ht

theorem canonical_updMove {s : State} {tw n : Nat} {m : Move} (hs : Canonical s) : Canonical (s.updMove tw n m) := canonical_updTower hs

theorem canonical_withPoison {s : State} {poison' : Tbl Bool} (hs : Canonical s) :
    Canonical { s with poison := poison' } := hs

theorem canonicalNext_execDriftCopyLine {tw n : Nat} {s : State} (hs : Canonical s) : CanonicalNext (execDriftCopyLine tw n s) := by
  unfold execDriftCopyLine
  split
  · exact canonicalNext_next hs
  · exact canonicalNext_ite (canonicalNext_next hs) (canonicalNext_next (canonical_ite (canonical_withPoison (canonical_writePa (canonical_updMove
      hs))) (canonical_writePa (canonical_updMove hs))))

theorem canonical_repend {s : State} (hs : Canonical s) : Canonical s.repend := hs

theorem canonical_sweepEnded {s : State} (hs : Canonical s) : Canonical s.sweepEnded := hs

theorem canonical_dropTile {s : State} {tile : Nat} (hs : Canonical s) : Canonical (s.dropTile tile) := hs

theorem canonical_withHarts {s : State} {harts' : Tbl Hart} (hs : Canonical s) :
    Canonical { s with harts := harts' } := hs

theorem canonicalNext_execSwitch {tw n : Nat} {s : State} (hs : Canonical s) : CanonicalNext (execSwitch tw n s) := by
  unfold execSwitch
  split
  · exact canonicalNext_next hs
  · refine canonicalNext_ite (canonicalNext_next hs) ?_
    exact canonicalNext_next (canonical_repend (canonical_updMove (canonical_withHarts (canonical_snapSwitch (canonical_dropTile (canonical_updTile
      (canonical_foldl (fun _ _ ht => canonical_writePa ht) _ (canonical_updTile hs))))))))

theorem canonicalNext_execChainCompression {tw n : Nat} {s : State} (hs : Canonical s) : CanonicalNext (execChainCompression tw n s) := by
  unfold execChainCompression
  split
  · exact canonicalNext_next hs
  · exact canonicalNext_ite (canonicalNext_next hs) (canonicalNext_next (canonical_sweepEnded (canonical_ite (canonical_decHeld (canonical_repend
      (canonical_updMove hs))) (canonical_repend (canonical_updMove hs)))))

end Sys2Proof.Machine
end

section
/-! PROOFS. Memory stays canonical through the system words, and through the commit of a convoy (R32 to R39, R130 to R142, R193 to R214). -/

namespace Sys2Proof.Machine

open Sys2Proof

/-! ### System words -/

theorem neat_needDrained {h : Nat} : Neat (needDrained h) := by
  unfold needDrained
  refine neat_bind neat_needEmpty fun _ => ?_
  refine neat_get_bind fun _ _ => ?_
  split
  · exact neat_ite (neat_waitM _) (neat_pure _)
  · exact neat_pure _

theorem neat_reportCopyFault {h : Nat} : Neat (reportCopyFault h) := by
  unfold reportCopyFault
  refine neat_get_bind fun _ hs => ?_
  split
  · exact neat_bind (neat_set (canonical_updCtx hs)) fun _ => neat_throw _
  · exact neat_pure _

theorem canonicalNext_execVdrain {k : Bool} {s : State} (hs : Canonical s) : CanonicalNext (execVdrain k s) :=
  canonicalNext_scalarWord hs (neat_bind neat_needDrained fun _ => neat_bind neat_reportCopyFault fun _ => neat_modify fun _ ht => canonical_retire
    (canonical_drainReads ht))

theorem canonicalNext_execFenceAcq {k : Bool} {c : BitVec 3} {s : State} (hs : Canonical s) : CanonicalNext (execFenceAcq k c s) :=
  canonicalNext_scalarWord hs (neat_modify fun _ ht => canonical_retire (canonical_acquire ht))

theorem canonicalNext_execFenceRel {k : Bool} {c : BitVec 3} {s : State} (hs : Canonical s) : CanonicalNext (execFenceRel k c s) :=
  canonicalNext_scalarWord hs (neat_bind neat_needRelease fun _ => neat_modify fun _ ht => canonical_retire ht)

theorem canonicalNext_execFence {k : Bool} {c : BitVec 3} {s : State} (hs : Canonical s) : CanonicalNext (execFence k c s) :=
  canonicalNext_scalarWord hs (neat_bind neat_needRelease fun _ => neat_modify fun _ ht => canonical_retire (canonical_acquire ht))

theorem canonicalNext_execTrap {k : Bool} {a : BitVec 7} {s : State} (hs : Canonical s) : CanonicalNext (execTrap k a s) :=
  canonicalNext_scalarWord hs (neat_trapM _ _)

theorem neat_needClean {pa len : Nat} : Neat (needClean pa len) := neat_get_bind fun _ _ => neat_ite (neat_throw _) (neat_pure _)

theorem canonicalNext_execTret {k : Bool} {s : State} (hs : Canonical s) : CanonicalNext (execTret k s) := by
  refine canonicalNext_ite (canonicalNext_next (canonical_trapEntry hs)) ?_
  exact canonicalNext_scalarWord hs (neat_bind neat_needEmpty fun _ => neat_bind neat_needClean fun _ => neat_modify fun _ ht => canonical_trapReturn
    ht)

theorem canonical_contrailStop {s : State} {h why : Nat} (hs : Canonical s) : Canonical (s.contrailStop h why) :=
  canonical_updHart (canonical_stopHart hs)

theorem canonicalNext_execEbrk {k : Bool} {s : State} (hs : Canonical s) : CanonicalNext (execEbrk k s) :=
  canonicalNext_scalarWord hs (neat_ite (neat_guard (neat_waitM _) fun _ => neat_set (canonical_contrailStop hs)) (neat_trapM _ _))

theorem canonicalNext_execYield {k : Bool} {s : State} (hs : Canonical s) : CanonicalNext (execYield k s) :=
  canonicalNext_scalarWord hs (neat_ite (neat_guard (neat_waitM _) fun _ => neat_set (canonical_swapOut (canonical_retire hs))) (neat_set
    (canonical_updHart (canonical_retire hs))))

theorem canonicalNext_execHalt {k : Bool} {s : State} (hs : Canonical s) : CanonicalNext (execHalt k s) :=
  canonicalNext_supervisor hs (canonicalNext_scalarWord hs (neat_bind neat_needDrained fun _ => neat_modify fun _ ht => canonical_updHart
    (canonical_swapOut (canonical_retire ht))))

theorem canonical_withMemFresh {s : State} {m : Memory} {n : Nat} (h : m.wf = true) : Canonical { s with mem := m, fresh := n } := h

/-- The destination of an aborted move holds free bytes (R308, log 28), written like any others. -/
theorem canonical_spoilTile {s : State} {tile : Nat} (hs : Canonical s) : Canonical (s.spoilTile tile) := by
  unfold State.spoilTile
  exact canonical_withMemFresh (Memory.wf_writeBytes hs _ _)

theorem canonical_unmapTile {s : State} {va : Nat} (hs : Canonical s) : Canonical (s.unmapTile va) :=
  canonical_foldl (fun _ _ ht => canonical_spoilTile ht) _ hs

theorem canonicalNext_execTlbinv {k : Bool} {a : BitVec 7} {s : State} (hs : Canonical s) : CanonicalNext (execTlbinv k a s) := by
  refine canonicalNext_supervisor hs (canonicalNext_scalarWord hs (neat_guard (neat_trapM _ _) fun _ => ?_))
  refine neat_guard (neat_waitM _) fun _ => ?_
  exact neat_modify fun _ ht => canonical_retire (canonical_ite (canonical_unpin ht) (canonical_unmapTile (canonical_unpin ht)))

theorem neat_needDispatched {h : Nat} : Neat (needDispatched h) := neat_get_bind fun _ _ => neat_ite (neat_waitM _) (neat_pure _)

theorem canonicalNext_execRdcyc {k : Bool} {d : BitVec 7} {s : State} (hs : Canonical s) : CanonicalNext (execRdcyc k d s) :=
  canonicalNext_scalarWord hs (neat_bind neat_needDispatched fun _ => neat_retireWith)

theorem canonicalNext_execRdtime {k : Bool} {d : BitVec 7} {s : State} (hs : Canonical s) : CanonicalNext (execRdtime k d s) :=
  canonicalNext_scalarWord hs (neat_bind neat_needDispatched fun _ => neat_retireWith)

theorem canonicalNext_execRdctr {k : Bool} {d : BitVec 7} {n : BitVec 4} {s : State} (hs : Canonical s) : CanonicalNext (execRdctr k d n s) :=
  canonicalNext_scalarWord hs (neat_bind neat_needDispatched fun _ => neat_retireWith)

theorem canonicalNext_execCget {k : Bool} {d : BitVec 7} {c : BitVec 8} {s : State} (hs : Canonical s) : CanonicalNext (execCget k d c s) := by
  refine canonicalNext_ite (canonicalNext_next (canonical_trapEntry hs)) ?_
  refine canonicalNext_scalarWord hs ?_
  exact neat_guard neat_needEmpty fun _ => neat_ite (neat_guard (neat_trapM _ _) fun _ => neat_bind neat_needClean fun _ => neat_retireWith)
    neat_retireWith

theorem canonicalNext_execCset {k : Bool} {a : BitVec 7} {c : BitVec 8} {s : State} (hs : Canonical s) : CanonicalNext (execCset k a c s) := by
  refine canonicalNext_ite (canonicalNext_next (canonical_trapEntry hs)) ?_
  refine canonicalNext_ite (canonicalNext_next (canonical_trapEntry hs)) ?_
  refine canonicalNext_scalarWord hs (neat_guard neat_needEmpty fun _ => neat_ite ?_ (neat_modify fun _ ht => canonical_retire (canonical_updCtx ht)))
  exact neat_guard (neat_trapM _ _) fun _ => neat_modify fun _ ht => canonical_retire (canonical_writePa ht)

theorem canonicalNext_execVcfg {k : Bool} {d a : BitVec 7} {s : State} (hs : Canonical s) : CanonicalNext (execVcfg k d a s) :=
  canonicalNext_scalarWord hs (neat_bind neat_needEmpty fun _ => neat_guard (neat_trapM _ _) fun _ => neat_bind (neat_modify fun _ ht =>
    canonical_updCtx ht) fun _ => neat_retireWith)

theorem canonicalNext_execVgrant {k : Bool} {d a : BitVec 7} {s : State} (hs : Canonical s) : CanonicalNext (execVgrant k d a s) :=
  canonicalNext_scalarWord hs (neat_bind neat_needEmpty fun _ => neat_bind (neat_modify fun _ ht => canonical_retarget (canonical_updCtx
    (canonical_nextStrip ht))) fun _ => neat_retireWith)

theorem canonicalNext_execWbase {k : Bool} {a : BitVec 7} {s : State} (hs : Canonical s) : CanonicalNext (execWbase k a s) :=
  canonicalNext_scalarWord hs (neat_bind neat_needEmpty fun _ => neat_guard (neat_trapM _ _) fun _ => neat_modify fun _ ht => canonical_retire
    (canonical_updCtx ht))

/-! ### Convoys -/

theorem neat_perform {L : Lane} {i : Instr} : Neat (L.perform i) := by
  unfold Lane.perform
  split
  · exact neat_fixIndex
  · exact neat_drainWord
  · exact neat_drainWord
  · exact neat_drainWord
  · exact neat_copyWord
  · exact neat_copyWord
  · exact neat_copyWord
  · split
    · exact neat_arith
    · exact neat_arith
    · exact neat_memory
    · exact neat_memory
    · exact neat_pure _

theorem neat_needLanded {core : Nat} {rows : List Nat} : Neat (needLanded core rows) := neat_get_bind fun _ _ => neat_ite (neat_waitM _) (neat_pure _)

theorem canonical_markDone {s : State} {h n : Nat} (hs : Canonical s) : Canonical (s.markDone h n) := canonical_updHart hs

theorem neat_needTransfers {L : Lane} {i : Instr} : Neat (needTransfers L i) := neat_get_bind fun _ _ => neat_ite (neat_waitM _) (neat_pure _)

theorem neat_memberStep {h i n older : Nat} : Neat (memberStep h i n older) := by
  unfold memberStep
  refine neat_get_bind fun _ _ => ?_
  split
  · exact neat_pure _
  · refine neat_ite (neat_pure _) ?_
    dsimp only
    split
    · exact neat_pure _
    · split
      · exact neat_pure _
      · refine neat_ite ?_ ?_
        · exact neat_bind neat_perform fun _ => neat_bind (neat_modify fun _ ht => canonical_markDone ht) fun _ => neat_pure _
        · exact neat_ite (neat_bind neat_needTransfers fun _ => neat_bind neat_needLanded fun _ => neat_bind neat_perform fun _ => neat_bind
            (neat_modify fun _ ht => canonical_count ht) fun _ => neat_pure _) (neat_pure _)

theorem neat_memberMarks {h i n : Nat} {was : Option Bool} : Neat (memberMarks h i n was) := by
  unfold memberMarks
  refine neat_get_bind fun _ _ => ?_
  split
  · split
    · exact neat_markWord
    · exact neat_pure _
  · exact neat_pure _

/-- One element of every member, then the full-empty bits (R37, R178). -/
theorem neat_elementStep {h i : Nat} : Neat (elementStep h i) :=
  neat_get_bind fun _ _ => neat_bind (neat_mapM (fun _ => neat_memberStep) _) fun _ => neat_forM (fun _ => neat_memberMarks) _

theorem neat_firstChecks {h span : Nat} : Neat (firstChecks h span) := by
  unfold firstChecks
  refine neat_get_bind fun _ _ => ?_
  refine neat_forM (fun _ => ?_) _
  split
  · refine neat_ite ?_ (neat_pure _)
    split <;> exact neat_ite (neat_trapM _ _) (neat_pure _)
  · exact neat_pure _

theorem canonical_openMembersOf {h span : Nat} {l : List (QEntry × Nat)} {s : State} (hs : Canonical s) :
    Canonical (s.openMembersOf h span l).1 := by
  fun_induction State.openMembersOf with
  | case1 | case6 => exact hs
  | case2 s e n rest hnone ih => exact ih hs
  | case3 s e n rest w hword hdone ih => exact ih hs
  | case4 s e n rest w hword c hdone g hcopy L ih => exact ih (canonical_markDone (canonical_runM neat_copyAccept hs))
  | case5 s e n rest w hword c hdone hcopy hreleases hside ih => exact ih (canonical_releaseReads hs)
  | case7 s e n rest w hword c hdone hcopy hreleases ih => exact ih hs

theorem canonical_takeSnap {s : State} {h : Nat} (hs : Canonical s) : Canonical (s.takeSnap h) := canonical_ite hs (canonical_updHart hs)

theorem canonical_endConvoy {s : State} {h : Nat} (hs : Canonical s) : Canonical (s.endConvoy h) := canonical_updHart (canonical_landConvoy hs)

theorem canonical_committed {s : State} {h i : Nat} (hs : Canonical s) : Canonical (s.committed h i) := canonical_updHart hs

theorem canonical_vectorStop {s t : State} {h : Nat} {stop : Stop} (hs : Canonical s) (ht : Canonical t) : Canonical (s.vectorStop t h stop) := by
  unfold State.vectorStop
  split
  · dsimp only
    split
    · exact canonical_count (canonical_updHart (canonical_keepSide hs))
    · exact canonical_count (canonical_updHart (canonical_keepSide hs))
    · exact canonical_count (canonical_updHart (canonical_keepSide hs))
    · exact canonical_updHart (canonical_keepSide hs)
  · exact canonical_ite (canonical_stopHart (canonical_keepSide hs)) hs
  · exact canonical_stopped hs ht

theorem canonical_sendRemote {s : State} {h : Nat} {cs : List Nat} (hs : Canonical s) : Canonical (s.sendRemote h cs) :=
  canonical_foldl (fun _ _ ht => canonical_wakeCore (canonical_count (canonical_updCore ht))) _ (canonical_updHart hs)

/-- The elements of a convoy, from one on, until one does not complete (R37, R38). -/
theorem canonical_commitFrom {h span n : Nat} {s : State} (hs : Canonical s) : Canonical (s.commitFrom h span n) := by
  induction n generalizing s with
  | zero => exact canonical_ite (canonical_endConvoy hs) hs
  | succ n ih =>
    unfold State.commitFrom
    refine canonical_ite (canonical_endConvoy hs) ?_
    dsimp only
    split
    · next hrun =>
      split
      · exact canonical_ite (canonical_contrailStop hs) hs
      · exact ih (canonical_committed (neat_elementStep.ok hs hrun))
      · exact canonical_sendRemote (canonical_keepSide hs)
    · next hrun =>
      split
      · exact canonical_ite (canonical_contrailStop hs) hs
      · exact canonical_sendRemote (canonical_keepSide hs)
      · exact canonical_vectorStop hs (neat_elementStep.error hs hrun)
    · next hrun => exact canonical_vectorStop hs (neat_elementStep.error hs hrun)

theorem canonical_commitEmpty {s : State} {h : Nat} (hs : Canonical s) : Canonical (s.commitEmpty h) := by
  unfold State.commitEmpty
  split
  · next hrun => exact canonical_endConvoy (neat_elementStep.ok hs hrun)
  · next hrun => exact canonical_vectorStop hs (neat_elementStep.error hs hrun)

theorem canonical_commitGroup {s : State} {h : Nat} (hs : Canonical s) : Canonical (s.commitGroup h) := by
  unfold State.commitGroup
  dsimp only
  split
  · next e hchecks =>
    refine canonical_vectorStop hs ?_
    split at hchecks
    · split at hchecks
      · cases hchecks
      · next hrun =>
        cases hchecks
        exact neat_firstChecks.error hs hrun
    · cases hchecks
  · have hopened : Canonical (if (s.hart h).ctx.vs = (s.hart h).startVs then
        s.openMembersOf h (convoySpan (s.hart h).ctx (firstConvoy (s.hart h).queue)) (firstConvoy (s.hart h).queue).zipIdx else (s, true)).1 :=
      canonical_ite_fst (canonical_openMembersOf hs) hs
    refine canonical_ite (canonical_vectorStop hopened hopened) ?_
    have hbegun := canonical_ite (c := (s.hart h).ctx.vs = (s.hart h).startVs) (canonical_takeSnap (h := h) hopened) hopened
    exact canonical_ite (canonical_commitEmpty hbegun) (canonical_commitFrom (canonical_ite (canonical_countConflicts (canonical_count hbegun))
      (canonical_count hbegun)))

theorem canonicalNext_execConvoyCommit {h : Nat} {s : State} (hs : Canonical s) : CanonicalNext (execConvoyCommit h s) :=
  canonicalNext_ite (canonicalNext_next hs) (canonicalNext_next (canonical_commitGroup hs))

theorem canonicalSome_deliver {s : State} {c h : Nat} (hs : Canonical s) : CanonicalSome (s.deliver c h) := by
  unfold State.deliver
  refine canonicalSome_ite (canonicalSome_some (canonical_updCore hs)) ?_
  split
  · next hrun =>
    have ht := neat_elementStep.ok hs hrun
    exact canonicalSome_some (canonical_updCore (canonical_committed (canonical_updHart (canonical_updCore (canonical_countConflicts (canonical_count
      ht))))))
  · exact canonicalSome_none
  · next hrun =>
    have ht := neat_elementStep.error hs hrun
    exact canonicalSome_some (canonical_vectorStop (canonical_updHart (canonical_updCore hs)) (canonical_updHart (canonical_updCore ht)))

theorem canonical_waitAtBank {s : State} {h : Nat} (hs : Canonical s) : Canonical (s.waitAtBank h) := by
  unfold State.waitAtBank
  split
  · next hrun => exact canonical_updHart (canonical_vectorStop hs (neat_elementStep.error hs hrun))
  · exact hs

theorem canonical_deliverFirst {c : Nat} {l : List Nat} {s : State} (hs : Canonical s) : Canonical (s.deliverFirst c l) := by
  induction l generalizing s with
  | nil => exact hs
  | cons h rest ih =>
    unfold State.deliverFirst
    split
    · next heq => exact canonicalSome_deliver hs _ heq
    · exact ih (canonical_waitAtBank hs)

theorem canonicalNext_execRemoteBufferMessage {c : Nat} {s : State} (hs : Canonical s) : CanonicalNext (execRemoteBufferMessage c s) :=
  canonicalNext_ite (canonicalNext_next hs) (canonicalNext_next (canonical_deliverFirst hs))

theorem canonicalNext_execRemoteReply {c : Nat} {s : State} (hs : Canonical s) : CanonicalNext (execRemoteReply c s) := by
  unfold execRemoteReply
  split
  · exact canonicalNext_next hs
  · exact canonicalNext_next (canonical_ite (canonical_endConvoy (canonical_updHart (canonical_updCore hs))) (canonical_updHart (canonical_updCore
      hs)))

theorem canonical_releaseConvoy {s : State} {h : Nat} (hs : Canonical s) : Canonical (s.releaseConvoy h) :=
  canonical_ite (canonical_commitGroup (canonical_updCore (canonical_count (canonical_updHart hs)))) (canonical_updCore (canonical_count
    (canonical_updHart hs)))

theorem canonical_releaseMatrix {s : State} {c : Nat} (hs : Canonical s) : Canonical (s.releaseMatrix c) :=
  canonical_requestPass (canonical_updCore hs)

theorem canonical_completeAhead {s : State} {h : Nat} (hs : Canonical s) : Canonical (s.completeAhead h) := canonical_updHart hs

theorem canonical_releaseAhead {s : State} {h : Nat} (hs : Canonical s) : Canonical (s.releaseAhead h) := by
  unfold State.releaseAhead
  split
  · exact hs
  · dsimp only
    split
    · exact canonical_completeAhead (canonical_countConflicts (canonical_loadPlane (canonical_count (canonical_updHart hs))))
    · exact canonical_completeAhead (canonical_zeroTiles (canonical_count (canonical_updHart hs)))
    · exact canonical_completeAhead (canonical_ite (canonical_releaseShaped (canonical_count (canonical_updHart hs))) (canonical_count
        (canonical_updHart hs)))
    · exact canonical_releaseMatrix (canonical_count (canonical_updHart hs))

theorem canonical_gateScan {c : Nat} {l : List GateCand} {s : State} (hs : Canonical s) : Canonical (s.gateScan c l) := by
  induction l generalizing s with
  | nil => exact hs
  | cons x rest ih =>
    exact canonical_ite (ih hs) (canonical_ite (ih (canonical_ite (canonical_releaseAhead (canonical_updCore hs))
      (canonical_releaseConvoy (canonical_updCore hs)))) (canonical_count hs))

theorem canonical_markReady {s : State} {c : Nat} {ready ahead : Nat → Bool} (hs : Canonical s) : Canonical (s.markReady c ready ahead) :=
  canonical_foldl (fun _ _ ht => canonical_updHart ht) _ (canonical_updCore hs)

theorem canonicalNext_execGustCycle {c : Nat} {s : State} (hs : Canonical s) : CanonicalNext (execGustCycle c s) := by
  unfold execGustCycle
  refine canonicalNext_next ?_
  refine canonical_foldl (fun _ _ ht => ?_) _ (canonical_gateScan (canonical_ite (canonical_count (canonical_markReady (canonical_updCore hs)))
    (canonical_markReady (canonical_updCore hs))))
  split
  · exact canonical_ite (canonical_contrailStop ht) ht
  · exact ht

end Sys2Proof.Machine
end

section
/-! PROOFS. Memory stays canonical through the network engine and its links (R352 to R356, R437 to R454). -/

namespace Sys2Proof.Machine

open Sys2Proof

/-! ### Communicators and runs of Jetstream -/

theorem canonical_updComm {s : State} {n : Nat} {f : Comm → Comm} (hs : Canonical s) : Canonical (s.updComm n f) := hs

theorem canonical_updJgraph {s : State} {gid : Nat} {f : JetGraph → JetGraph} (hs : Canonical s) : Canonical (s.updJgraph gid f) := hs

theorem canonical_updJet {s : State} {gid run : Nat} {f : JetRun → JetRun} (hs : Canonical s) : Canonical (s.updJet gid run f) := hs

theorem canonical_closeRun {s : State} {gid run : Nat} (hs : Canonical s) : Canonical (s.closeRun gid run) := by
  unfold State.closeRun
  split
  · exact hs
  · exact canonical_ite (canonical_updJgraph hs) hs

theorem canonical_stopRun {s : State} {gid run : Nat} (hs : Canonical s) : Canonical (s.stopRun gid run) := by
  unfold State.stopRun
  split
  · exact hs
  · exact canonical_ite hs (canonical_closeRun (canonical_updComm (canonical_updJet hs)))

theorem canonical_failRun {s : State} {gid run status va : Nat} (hs : Canonical s) : Canonical (s.failRun gid run status va) := by
  unfold State.failRun
  split
  · exact hs
  · exact canonical_ite hs (canonical_stopRun (canonical_launchRecord hs))

theorem canonical_pageFailRun {s : State} {gid run va gen : Nat} (hs : Canonical s) : Canonical (s.pageFailRun gid run va gen) := by
  unfold State.pageFailRun
  split
  · exact hs
  · exact canonical_ite hs (canonical_stopRun (canonical_launchRecord hs))

/-! ### Work requests and gathers -/

theorem neat_peerEntry {n : Nat} : Neat (peerEntry n) := by
  unfold peerEntry
  refine neat_bind neat_drawM fun _ => ?_
  refine neat_get_bind fun _ hs => ?_
  dsimp only
  split
  · exact neat_ite (neat_pure _) (neat_guard (neat_throw _) fun _ => neat_bind (neat_set hs) fun _ => neat_pure _)
  · exact neat_guard (neat_throw _) fun _ => neat_bind (neat_set hs) fun _ => neat_pure _

theorem neat_endpointEntry {n : Nat} : Neat (endpointEntry n) := by
  unfold endpointEntry
  refine neat_bind neat_drawM fun _ => ?_
  refine neat_get_bind fun _ hs => ?_
  dsimp only
  split
  · exact neat_ite (neat_pure _) (neat_bind (neat_set hs) fun _ => neat_pure _)
  · exact neat_bind (neat_set hs) fun _ => neat_pure _

theorem canonicalNext_execNetsync {s : State} (hs : Canonical s) : CanonicalNext (execNetsync s) :=
  canonicalNext_next (canonical_command hs fun _ ht => ht)

theorem neat_nwrAct {h n : Nat} {e : QEntry} : Neat (nwrAct h n e) := neat_modify fun _ hs => canonical_updCtx hs

theorem neat_gatherBlock {h w : Nat} {wd : Word} : Neat (gatherBlock h w wd) :=
  neat_get_bind fun _ _ => neat_bind neat_readHome fun _ => neat_bind (neat_modify fun _ ht => canonical_countHops ht) fun _ => neat_guard (neat_trapM
    _ _) fun _ => neat_guard (neat_waitM _) fun _ => neat_pure _

theorem neat_postCount {lno : Nat} : Neat (postCount lno) :=
  neat_get_bind fun _ hs => neat_bind (neat_set (canonical_updLaunch hs)) fun _ => neat_pure _

theorem canonical_postGather {s : State} {h w block seq : Nat} (hs : Canonical s) : Canonical (s.postGather h w block seq) := canonical_updCore hs

theorem canonical_postWork {s : State} {h w peerE seq : Nat} (hs : Canonical s) : Canonical (s.postWork h w peerE seq) := hs

theorem neat_npostAct {h : Nat} {d : BitVec 7} {e : QEntry} : Neat (npostAct h d e) := by
  unfold npostAct
  refine neat_get_bind fun s _ => ?_
  extract_lets wd w lno answer granted checked
  have hanswer : ∀ n, Neat (answer n) := fun _ => neat_modify fun _ ht => canonical_setX ht
  have hgranted : ∀ block, Neat (granted block) := by
    intro block
    refine neat_bind neat_needRelease fun _ => ?_
    extract_lets sent
    have hsent : ∀ p, Neat (sent p) := fun p => neat_ite (hanswer _) (neat_ite (hanswer _) (neat_bind neat_postCount fun _ =>
      neat_bind (neat_modify fun _ ht => canonical_ite (canonical_postGather ht) (canonical_postWork ht)) fun _ => hanswer _))
    exact neat_ite (neat_bind (neat_pure _) hsent) (neat_bind neat_peerEntry hsent)
  exact neat_guard (neat_trapM _ _) fun _ => neat_ite (neat_bind neat_gatherBlock hgranted) (neat_bind (neat_pure _) hgranted)

theorem canonical_setCtr {s : State} {lno c : Nat} {v : Word} (hs : Canonical s) : Canonical (s.setCtr lno c v) := canonical_updLaunch hs

theorem neat_nwaitAct {h : Nat} {d : BitVec 7} {e : QEntry} : Neat (nwaitAct h d e) :=
  neat_get_bind fun _ _ => neat_guard (neat_waitM _) fun _ => neat_modify fun _ ht => canonical_setX (canonical_acquire ht)

theorem neat_nctrAct {h : Nat} {d : BitVec 7} {e : QEntry} : Neat (nctrAct h d e) :=
  neat_get_bind fun _ _ => neat_modify fun _ ht => canonical_setX (canonical_ite ht (canonical_setCtr ht))

theorem neat_gatherRead {g : Gather} {va : Int} {n : Nat} : Neat (gatherRead g va n) := by
  unfold gatherRead
  refine neat_ite (neat_pure _) ?_
  refine neat_bind neat_resolve fun _ => ?_
  split
  · exact neat_pure _
  · exact neat_get_bind fun _ hs => neat_ite (neat_pure _) (neat_guard (neat_set (canonical_noteRead hs)) fun _ => neat_pure _)

theorem canonical_gather_put {g : Gather} {off : Nat} {bs : List Byte} {ps : List Piece} {s : State} (hs : Canonical s) :
    Canonical (g.put off bs ps s) :=
  canonical_ite (canonical_foldl (fun _ _ ht => canonical_dropL1 ht) _ (canonical_writePieces hs)) (canonical_updBuf (canonical_countConflicts
    (canonical_copyJob_touchGuards hs)))

theorem neat_gather_perform {g : Gather} {i : Nat} : Neat (g.perform i) := by
  unfold Gather.perform
  refine neat_bind neat_gatherRead fun _ => ?_
  split
  · exact neat_pure _
  · refine neat_bind (neat_ite (neat_pure _) neat_gatherRead) fun _ => ?_
    split
    · exact neat_pure _
    · refine neat_bind neat_gatherDest fun _ => ?_
      split
      · exact neat_pure _
      · exact neat_bind (neat_modify fun _ hs => canonical_gather_put hs) fun _ => neat_pure _

theorem neat_gather_partialRecord {g : Gather} {i : Nat} : Neat (g.partialRecord i) := by
  unfold Gather.partialRecord
  refine neat_bind neat_gatherRead fun _ => ?_
  split
  · exact neat_pure _
  · refine neat_bind neat_drawN fun _ => ?_
    refine neat_forN fun _ => ?_
    refine neat_ite ?_ (neat_pure _)
    refine neat_bind (neat_ite (neat_pure _) neat_gatherRead) fun _ => ?_
    split
    · exact neat_pure _
    · refine neat_bind neat_gatherDest fun _ => ?_
      split
      · exact neat_pure _
      · exact neat_get_bind fun _ _ => neat_ite (neat_modify fun _ ht => canonical_gather_put ht) (neat_pure _)

theorem canonical_endGather {s : State} {g : Gather} (hs : Canonical s) : Canonical (s.endGather g) := canonical_decCtr (canonical_updCore hs)

theorem canonical_updGather {s : State} {ident : Nat} {f : Gather → Gather} (hs : Canonical s) : Canonical (s.updGather ident f) := hs

theorem canonicalNext_execGatherRecord {g : Nat} {s : State} (hs : Canonical s) : CanonicalNext (execGatherRecord g s) := by
  unfold execGatherRecord
  split
  · exact canonicalNext_next hs
  · refine canonicalNext_ite (canonicalNext_next hs) ?_
    refine canonicalNext_ite (canonicalNext_next (canonical_endGather hs)) ?_
    split
    · exact canonicalNext_next (canonical_keepSide hs)
    · split
      · next hrun =>
        have ht := neat_gather_perform.ok hs hrun
        exact canonicalNext_next (canonical_ite (canonical_endGather ht) (canonical_updGather ht))
      · next hrun => exact canonicalNext_next (canonical_requestPage (canonical_updGather (neat_gather_perform.ok hs hrun)))
      · next hrun => exact canonicalNext_next (canonical_terminateTask (canonical_endGather (neat_gather_perform.ok hs hrun)))
      · next hrun =>
        have ht := neat_gather_perform.ok hs hrun
        exact canonicalNext_next (canonical_endGather (canonical_latchCopy (canonical_runM neat_gather_partialRecord ht)))

/-! ### Packets and flits -/

theorem canonical_setDelivery {s : State} {rod : Bool} {peer : Nat} {d : Delivery} (hs : Canonical s) : Canonical (s.setDelivery rod peer d) :=
  canonical_ite hs hs

theorem canonical_setBenlar {s : State} {n : Nat} {p : BenlarPort} (hs : Canonical s) : Canonical (s.setBenlar n p) := hs

theorem canonical_setEth {s : State} {n : Nat} {p : EthPort} (hs : Canonical s) : Canonical (s.setEth n p) := hs

theorem canonical_putFlit {s : State} {port dst src vc type : Nat} {payload : List Byte} (hs : Canonical s) :
    Canonical (s.putFlit port dst src vc type payload) :=
  canonical_send (canonical_setBenlar hs)

theorem canonical_putMessage {s : State} {port dst vc len : Nat} {msg : List Nat} (hs : Canonical s) :
    Canonical (s.putMessage port dst vc len msg) := by
  refine canonical_foldl_fst ?_ _ ?_
  · intro _ _ hp
    exact canonical_putFlit hp
  · exact hs

theorem canonical_putArea {s : State} {pa : Nat} {bs : List Byte} (hs : Canonical s) : Canonical (s.putArea pa bs) :=
  canonical_ite hs (canonical_writePa hs)

theorem canonical_keepFrame {s : State} {port : Nat} {o : Out} (hs : Canonical s) : Canonical (s.keepFrame port o) :=
  canonical_setEth (canonical_putArea (canonical_putArea hs))

theorem canonical_putFrame {s : State} {port : Nat} {o : Out} (hs : Canonical s) : Canonical (s.putFrame port o) :=
  canonical_send (canonical_ite (canonical_keepFrame hs) hs)

theorem canonicalSome_emit {s : State} {r : Route} {o : Out} (hs : Canonical s) : CanonicalSome (s.emit r o) := by
  unfold State.emit
  refine canonicalSome_map (fun _ => ?_) _
  refine canonical_ite (canonical_putMessage hs) ?_
  refine canonical_putFrame ?_
  refine canonical_ite ?_ hs
  split
  · exact canonical_setEth hs
  · exact hs

theorem canonicalSome_sendPacket {s : State} {rod : Bool} {peer p : Nat} {spray : Bool} {tc : Nat} {origin : Origin} {req : Nat}
    {b : PacketBody} (hs : Canonical s) : CanonicalSome (s.sendPacket rod peer p spray tc origin req b) :=
  canonicalSome_mapState (canonicalSome_ite (canonicalSome_emit hs) canonicalSome_none) fun _ ht => canonical_setDelivery ht

theorem canonical_resend {s : State} {rod : Bool} {peer : Nat} {f : InFlight} (hs : Canonical s) : Canonical (s.resend rod peer f) := by
  unfold State.resend
  split
  · exact hs
  · next hrun => exact canonical_setDelivery ((canonicalSome_emit hs) _ hrun)

theorem canonical_updWork {s : State} {lno seq : Nat} {f : WorkReq → WorkReq} (hs : Canonical s) : Canonical (s.updWork lno seq f) := hs

theorem canonical_endWork {s : State} {r : WorkReq} (hs : Canonical s) : Canonical (s.endWork r) := canonical_decCtr (canonical_setDelivery hs)

theorem canonical_failWork {s : State} {r : WorkReq} {status : Nat} (hs : Canonical s) : Canonical (s.failWork r status) :=
  canonical_endWork (canonical_launchRecord hs)

theorem canonical_partDone {s : State} {lno seq k : Nat} (hs : Canonical s) : Canonical (s.partDone lno seq k) := by
  unfold State.partDone
  split
  · exact hs
  · exact canonical_ite (canonical_endWork hs) (canonical_updWork hs)

theorem canonical_holdWork {s : State} {r : WorkReq} {p : PageAddr} {need : Nat} (hs : Canonical s) : Canonical (s.holdWork r p need) :=
  canonical_requestPage (canonical_updWork hs)

theorem canonical_withNetTurn {s : State} {netTurn' : Nat} (hs : Canonical s) :
    Canonical { s with netTurn := netTurn' } := hs

theorem canonical_sendPart {s : State} {r : WorkReq} {b : PacketBody} (hs : Canonical s) : Canonical (s.sendPart r b) := by
  unfold State.sendPart
  split
  · exact hs
  · next hrun => exact canonical_withNetTurn (canonical_updWork ((canonicalSome_sendPacket hs) _ hrun))

theorem canonicalNext_execPacketSend {s : State} (hs : Canonical s) : CanonicalNext (execPacketSend s) := by
  unfold execPacketSend
  split
  · exact canonicalNext_next hs
  · refine canonicalNext_ite (canonicalNext_next (canonical_sendPart hs)) ?_
    dsimp only
    split
    · exact canonicalNext_next (canonical_keepSide hs)
    · next hrun => exact canonicalNext_next (canonical_holdWork (neat_resolve.ok hs hrun))
    · next hrun => exact canonicalNext_next (canonical_failWork (neat_resolve.ok hs hrun))
    · next hrun =>
      have ht := neat_resolve.ok hs hrun
      exact canonicalNext_ite (canonicalNext_next (canonical_failWork (canonical_terminateTask ht))) (canonicalNext_next (canonical_sendPart ht))

theorem canonical_acknowledge {s : State} {rod : Bool} {peer : Nat} {nak : Option (Nat × Nat)} (hs : Canonical s) :
    Canonical (s.acknowledge rod peer nak) :=
  canonical_getD (canonicalSome_emit (canonical_evalM neat_peerEntry hs)) (canonical_evalM neat_peerEntry hs)

theorem canonical_accepted {s : State} {pkt : Packet} (hs : Canonical s) : Canonical (s.accepted pkt) :=
  canonical_acknowledge (canonical_setDelivery hs)

theorem canonical_forgetRx {s : State} {pkt : Packet} (hs : Canonical s) : Canonical (s.forgetRx pkt) := canonical_setDelivery hs

theorem canonical_refusePacket {s : State} {pkt : Packet} {status : Nat} (hs : Canonical s) : Canonical (s.refusePacket pkt status) :=
  canonical_acknowledge (canonical_ite hs (canonical_forgetRx hs))

theorem canonical_countRx {s : State} {pkt : Packet} {len n : Nat} (hs : Canonical s) : Canonical (s.countRx pkt len n).2 :=
  canonical_ite_snd (canonical_forgetRx hs) (canonical_setDelivery hs)

theorem canonical_entryFor {s : State} {pkt : Packet} {rep : Nat} (hs : Canonical s) : Canonical (s.entryFor pkt rep).2 := by
  unfold State.entryFor
  split
  · exact hs
  · exact canonical_setDelivery (canonical_evalM neat_endpointEntry hs)

theorem canonical_endpointFor {s : State} {pkt : Packet} {rep roff len : Nat} (hs : Canonical s) : Canonical (s.endpointFor pkt rep roff len).2 :=
  canonical_entryFor hs

theorem canonical_targetFault {s : State} {pkt : Packet} {lno need : Nat} {f : AccFault} (hs : Canonical s) :
    Canonical (s.targetFault pkt lno need f) := by
  unfold State.targetFault
  split
  · exact canonical_requestPage (canonical_refusePacket hs)
  · exact canonical_refusePacket hs

theorem canonical_placeWrite {s : State} {pkt : Packet} {rep roff len off rctr : Nat} {data : List Byte} (hs : Canonical s) :
    Canonical (s.placeWrite pkt rep roff len off rctr data) := by
  unfold State.placeWrite
  dsimp only
  split
  · exact canonical_refusePacket (canonical_endpointFor hs)
  · split
    · exact canonical_refusePacket (canonical_tryM neat_resolve (canonical_endpointFor hs))
    · exact canonical_targetFault (canonical_tryM neat_resolve (canonical_endpointFor hs))
    · exact canonical_accepted (canonical_ite (canonical_decCtr (canonical_countRx (canonical_writePieces (canonical_tryM neat_resolve
        (canonical_endpointFor hs))))) (canonical_countRx (canonical_writePieces (canonical_tryM neat_resolve (canonical_endpointFor hs)))))

theorem canonical_serveRead {s : State} {pkt : Packet} {rep roff len off n : Nat} (hs : Canonical s) :
    Canonical (s.serveRead pkt rep roff len off n) := by
  unfold State.serveRead
  dsimp only
  split
  · exact canonical_refusePacket (canonical_endpointFor hs)
  · split
    · exact canonical_refusePacket (canonical_tryM neat_resolve (canonical_endpointFor hs))
    · exact canonical_targetFault (canonical_tryM neat_resolve (canonical_endpointFor hs))
    · refine canonical_ite (canonical_refusePacket (canonical_tryM neat_resolve (canonical_endpointFor hs))) ?_
      split
      · exact hs
      · next hrun =>
        exact canonical_accepted (canonical_countRx ((canonicalSome_sendPacket (canonical_evalM neat_peerEntry (canonical_tryM neat_resolve
          (canonical_endpointFor hs)))) _ hrun))

theorem canonical_placeRead {s : State} {pkt : Packet} {off : Nat} {data : List Byte} (hs : Canonical s) : Canonical (s.placeRead pkt off data) := by
  unfold State.placeRead
  split
  · exact canonical_accepted hs
  · refine canonical_ite (canonical_accepted hs) ?_
    dsimp only
    split
    · exact canonical_refusePacket (canonical_tryM neat_resolve hs)
    · exact canonical_holdWork (canonical_refusePacket (canonical_tryM neat_resolve hs))
    · exact canonical_accepted (canonical_failWork (canonical_tryM neat_resolve hs))
    · exact canonical_accepted (canonical_partDone (canonical_writePieces (canonical_tryM neat_resolve hs)))

theorem canonicalNext_takePacket {s : State} {pkt : Packet} (hs : Canonical s) : CanonicalNext (s.takePacket pkt) := by
  unfold State.takePacket
  refine canonicalNext_ite (canonicalNext_next (canonical_acknowledge (canonical_setDelivery hs))) ?_
  refine canonicalNext_ite (canonicalNext_next (canonical_acknowledge (canonical_setDelivery hs))) ?_
  refine canonicalNext_ite (canonicalNext_next (canonical_setDelivery hs)) ?_
  split
  · exact canonicalNext_next (canonical_placeWrite (canonical_setDelivery hs))
  · exact canonicalNext_next (canonical_serveRead (canonical_setDelivery hs))
  · exact canonicalNext_next (canonical_placeRead (canonical_setDelivery hs))
  · exact canonicalNext_next (canonical_setDelivery hs)

theorem canonicalNext_execTransportPacket {pkt : Packet} {s : State} (hs : Canonical s) : CanonicalNext (execTransportPacket pkt s) :=
  canonicalNext_ite (canonicalNext_takePacket hs) (canonicalNext_next hs)

theorem canonical_ackedPacket {s : State} {f : InFlight} (hs : Canonical s) : Canonical (s.ackedPacket f) := by
  unfold State.ackedPacket
  split
  · split
    · exact canonical_ite hs (canonical_partDone hs)
    · exact hs
  · exact hs

theorem canonical_refused {s : State} {rod : Bool} {peer psn status : Nat} (hs : Canonical s) : Canonical (s.refused rod peer psn status) := by
  unfold State.refused
  dsimp only
  split
  · exact hs
  · refine canonical_ite (canonical_setDelivery hs) ?_
    refine canonical_ite (canonical_resend hs) ?_
    split
    · split
      · exact canonical_failWork hs
      · exact hs
    · exact canonical_failRun hs
    · exact canonical_setDelivery hs

theorem canonical_measured {s : State} {rod : Bool} {peer : Nat} {done : List InFlight} (hs : Canonical s) :
    Canonical (s.measured rod peer done) :=
  canonical_ite hs (canonical_setDelivery hs)

theorem canonical_takeSack {s : State} {peer : Nat} {rod : Bool} {base bitmap : Nat} {nak : Option (Nat × Nat)} (hs : Canonical s) :
    Canonical (s.takeSack peer rod base bitmap nak) := by
  unfold State.takeSack
  refine canonical_foldl (fun _ _ ht => canonical_resend ht) _ ?_
  split
  · exact canonical_refused (canonical_foldl (fun _ _ ht => canonical_ackedPacket ht) _ (canonical_measured (canonical_setDelivery hs)))
  · exact canonical_foldl (fun _ _ ht => canonical_ackedPacket ht) _ (canonical_measured (canonical_setDelivery hs))

theorem canonicalNext_execSack {peer : Nat} {rod : Bool} {base bitmap : Nat} {nak : Option (Nat × Nat)} {s : State} (hs : Canonical s) :
    CanonicalNext (execSack peer rod base bitmap nak s) :=
  canonicalNext_next (canonical_ite (canonical_takeSack hs) hs)

theorem canonicalNext_execRetransmissionTimeout {peer : Nat} {rod : Bool} {psn : Nat} {s : State} (hs : Canonical s) :
    CanonicalNext (execRetransmissionTimeout peer rod psn s) := by
  unfold execRetransmissionTimeout
  split
  · exact canonicalNext_next (canonical_ite (canonical_resend hs) hs)
  · exact canonicalNext_next hs

theorem canonicalNext_execNakRetransmit {peer : Nat} {rod : Bool} {psn : Nat} {s : State} (hs : Canonical s) :
    CanonicalNext (execNakRetransmit peer rod psn s) := by
  unfold execNakRetransmit
  split
  · exact canonicalNext_next (canonical_ite (canonical_resend hs) hs)
  · exact canonicalNext_next hs

theorem canonical_failPeer {s : State} {peer : Nat} (hs : Canonical s) : Canonical (s.failPeer peer) :=
  canonical_ite (canonical_setDelivery (canonical_setDelivery (canonical_foldl (fun _ _ ht => canonical_failWork ht) _ hs))) hs

theorem canonical_failRank {s : State} {key : Nat} (hs : Canonical s) : Canonical (s.failRank key) := by
  unfold State.failRank
  refine canonical_ite hs ?_
  refine canonical_setDelivery ?_
  refine canonical_foldl (fun _ _ ht => ?_) _ hs
  split
  · exact canonical_failRun ht
  · exact ht

theorem canonicalNext_execPeerTimeout {peer : Nat} {s : State} (hs : Canonical s) : CanonicalNext (execPeerTimeout peer s) :=
  canonicalNext_next (canonical_ite (canonical_failPeer hs) (canonical_failRank hs))

theorem canonical_linkAck {s : State} {port n : Nat} (hs : Canonical s) : Canonical (s.linkAck port n) :=
  canonical_ite (canonical_foldl (fun _ _ ht => canonical_send ht) _ (canonical_setBenlar hs)) (canonical_setBenlar hs)

theorem canonical_putCredit {s : State} {port vc n : Nat} (hs : Canonical s) : Canonical (s.putCredit port vc n) :=
  canonical_ite hs (canonical_send hs)

theorem canonical_takeCredit {s : State} {port n : Nat} {flit : List Byte} (hs : Canonical s) : Canonical (s.takeCredit port n flit) :=
  canonical_ite (canonical_setBenlar hs) hs

theorem canonical_passOn {s : State} {port : Nat} {flit : List Byte} (hs : Canonical s) : Canonical (s.passOn port flit) := by
  unfold State.passOn
  dsimp only
  split
  · exact canonical_putCredit (canonical_setBenlar hs)
  · exact canonical_ite (canonical_putFlit (canonical_putCredit (canonical_setBenlar hs))) hs

theorem canonical_passAll {s : State} (hs : Canonical s) : Canonical s.passAll :=
  canonical_foldl (fun _ _ ht => canonical_foldl (fun _ _ hu => canonical_passOn hu) _ ht) _ hs

theorem canonical_withAgenda {s : State} {agenda' : List Instr} (hs : Canonical s) :
    Canonical { s with agenda := agenda' } := hs

theorem canonical_joinFlit {s : State} {port n : Nat} {flit : List Byte} (hs : Canonical s) : Canonical (s.joinFlit port n flit) := by
  unfold State.joinFlit
  dsimp only
  split
  · exact canonical_withAgenda (canonical_setBenlar (canonical_putCredit hs))
  · exact canonical_setBenlar (canonical_putCredit hs)

theorem canonical_takeFlit {s : State} {port n : Nat} {flit : List Byte} (hs : Canonical s) : Canonical (s.takeFlit port n flit) :=
  canonical_ite (canonical_putCredit (canonical_logHealth hs)) (canonical_ite (canonical_joinFlit hs) (canonical_setBenlar hs))

theorem canonicalNext_execBenlarFlit {port : Nat} {flit : List (BitVec 8)} {s : State} (hs : Canonical s) :
    CanonicalNext (execBenlarFlit port flit s) := by
  refine canonicalNext_ite (canonicalNext_next hs) ?_
  refine canonicalNext_ite (canonicalNext_next (canonical_passAll (canonical_takeCredit (canonical_linkAck hs)))) ?_
  refine canonicalNext_ite ?_ (canonicalNext_next (canonical_putCredit (canonical_takeCredit (canonical_linkAck hs))))
  exact canonicalNext_next (canonical_passAll (canonical_takeFlit (canonical_setBenlar (canonical_takeCredit (canonical_linkAck hs)))))

theorem canonicalNext_execBenlarLinkLoss {port : Nat} {s : State} (hs : Canonical s) : CanonicalNext (execBenlarLinkLoss port s) :=
  canonicalNext_next (canonical_setBenlar hs)

end Sys2Proof.Machine
end

section
/-! PROOFS. Memory stays canonical through Jetstream, firmware, Sounding, launches and the scheduler (R358 to R397, R427 to R431, R457 to R477). -/

namespace Sys2Proof.Machine

open Sys2Proof

/-! ### Jetstream -/

theorem canonical_clearRings {s : State} {e : Nat} (hs : Canonical s) : Canonical (s.clearRings e) :=
  canonical_foldl (fun _ _ ht => canonical_writePa ht) _ hs

theorem canonical_withRudComms {s : State} {rud' : Tbl Delivery} {comms' : Tbl Comm} (hs : Canonical s) :
    Canonical { s with rud := rud', comms := comms' } := hs

theorem canonical_acceptComm {s : State} {n : Nat} (hs : Canonical s) : Canonical (s.acceptComm n) :=
  canonical_withRudComms (canonical_ite (canonical_clearRings hs) hs)

theorem canonicalNext_execCommsync {s : State} (hs : Canonical s) : CanonicalNext (execCommsync s) :=
  canonicalNext_next (canonical_command hs fun _ ht => canonical_ite_fst ht (canonical_ite_fst ht (canonical_foldl (fun _ _ hu => canonical_acceptComm
    hu) _ ht)))

theorem neat_jetOwned {h n : Nat} {wd : Word} : Neat (jetOwned h n wd) := neat_get_bind fun _ _ => neat_ite (neat_trapM _ _) (neat_pure _)

theorem neat_readUnits {h n : Nat} : ∀ {va : Nat}, Neat (readUnits h va n) := by
  induction n with
  | zero => exact fun {_} => neat_pure _
  | succ n ih =>
    exact fun {_} => neat_get_bind fun _ _ => neat_bind neat_readHome fun _ => neat_bind (neat_modify fun _ hs => canonical_countHops hs) fun _ =>
      neat_bind ih fun _ => neat_pure _

theorem neat_cgfree {h x : Nat} {wd : Word} : Neat (cgfree h x wd) := by
  unfold cgfree
  refine neat_get_bind fun _ hs => ?_
  split
  · exact neat_pure _
  · exact neat_bind neat_jetOwned fun _ => neat_ite (neat_pure _) (neat_ite (neat_pure _) (neat_bind (neat_set (canonical_updJgraph hs)) fun _ =>
      neat_pure _))

theorem neat_cgimage {h x : Nat} {wd : Word} : Neat (cgimage h x wd) := by
  unfold cgimage
  refine neat_bind neat_readUnits fun _ => ?_
  refine neat_guard (neat_trapM _ _) fun _ => ?_
  refine neat_bind neat_readUnits fun _ => ?_
  refine neat_guard (neat_trapM _ _) fun _ => ?_
  refine neat_get_bind fun _ hs => ?_
  refine neat_ite (neat_pure _) ?_
  refine neat_bind neat_jetOwned fun _ => ?_
  refine neat_guard (neat_trapM _ _) fun _ => ?_
  split
  · exact neat_pure _
  · exact neat_ite (neat_pure _) (neat_bind (neat_set (canonical_updJgraph hs)) fun _ => neat_pure _)

theorem neat_cgloadAct {h : Nat} {d : BitVec 7} {e : QEntry} : Neat (cgloadAct h d e) :=
  neat_ite (neat_bind neat_cgfree fun _ => neat_modify fun _ hs => canonical_setX hs) (neat_bind neat_cgimage fun _ => neat_modify fun _ hs =>
    canonical_setX hs)

theorem canonical_withJetsNextRun {s : State} {jets' : List JetRun} {nextRun' : Nat} (hs : Canonical s) :
    Canonical { s with jets := jets', nextRun := nextRun' } := hs

theorem canonical_startRun {s : State} {h gid : Nat} {g : JetGraph} {block : Nat} (hs : Canonical s) : Canonical (s.startRun h gid g block) :=
  canonical_withJetsNextRun (canonical_updJgraph (canonical_updComm hs))

theorem neat_cgrunAct {h : Nat} {d : BitVec 7} {e : QEntry} : Neat (cgrunAct h d e) := by
  unfold cgrunAct
  refine neat_bind neat_needRelease fun _ => ?_
  refine neat_bind neat_readUnits fun _ => ?_
  refine neat_guard (neat_trapM _ _) fun _ => ?_
  refine neat_get_bind fun _ hs => ?_
  dsimp only
  split
  · exact neat_modify fun _ ht => canonical_setX ht
  · refine neat_bind neat_jetOwned fun _ => neat_ite (neat_modify fun _ ht => canonical_setX ht) ?_
    refine neat_ite (neat_modify fun _ ht => canonical_setX ht) ?_
    exact neat_ite (neat_modify fun _ ht => canonical_setX ht) (neat_bind (neat_set (canonical_startRun hs)) fun _ => neat_modify fun _ ht =>
      canonical_setX ht)

theorem neat_cgwaitAct {h : Nat} {d : BitVec 7} {e : QEntry} : Neat (cgwaitAct h d e) := by
  unfold cgwaitAct
  refine neat_get_bind fun _ _ => ?_
  dsimp only
  split
  · exact neat_modify fun _ ht => canonical_setX (canonical_acquire ht)
  · refine neat_bind neat_jetOwned fun _ => ?_
    split
    · exact neat_ite (neat_modify fun _ ht => canonical_setX ht) (neat_waitM _)
    · exact neat_modify fun _ ht => canonical_setX (canonical_acquire ht)

theorem neat_cgstatAct {h : Nat} {d : BitVec 7} {e : QEntry} : Neat (cgstatAct h d e) := by
  unfold cgstatAct
  refine neat_get_bind fun _ _ => ?_
  dsimp only
  split
  · split
    · exact neat_bind neat_jetOwned fun _ => neat_modify fun _ ht => canonical_setX ht
    · exact neat_modify fun _ ht => canonical_setX ht
  · exact neat_bind neat_jetOwned fun _ => neat_modify fun _ ht => canonical_setX ht
  · exact neat_bind neat_jetOwned fun _ => neat_modify fun _ ht => canonical_setX ht
  · exact neat_bind neat_jetOwned fun _ => neat_modify fun _ ht => canonical_setX ht

theorem neat_jetResolve {q : Req} {len : Nat} {l : List (Nat × Acc)} : Neat (jetResolve q len l) := by
  induction l with
  | nil => exact neat_pure _
  | cons x rest ih =>
    refine neat_bind neat_resolve fun o => ?_
    split
    · exact neat_pure _
    · refine neat_bind ih fun o => ?_
      split <;> exact neat_pure _

theorem neat_lineStack {q : Req} {va : Nat} : Neat (lineStack q va) := by
  unfold lineStack
  refine neat_bind neat_chase fun _ => ?_
  split
  · exact neat_pure _
  · exact neat_bind neat_lookEntry fun _ => neat_get_bind fun _ _ => neat_pure _

theorem neat_rredStacks {q : Req} {l : List Nat} : Neat (rredStacks q l) := by
  induction l with
  | nil => exact neat_pure _
  | cons va rest ih => exact neat_bind ih fun _ => neat_bind neat_lineStack fun _ => neat_pure _

theorem canonical_tryOp {s : State} {c gid run n : Nat} (hs : Canonical s) : Canonical (s.tryOp c gid run n).2 := by
  unfold State.tryOp
  dsimp only
  split
  · exact hs
  · refine canonical_ite_snd hs ?_
    split
    · exact canonical_tryM neat_jetResolve hs
    · exact canonical_requestPage (canonical_tryM neat_jetResolve hs)
    · exact canonical_failRun (canonical_tryM neat_jetResolve hs)
    · split
      · exact canonical_failRun (canonical_tryM neat_jetResolve hs)
      · refine canonical_ite_snd ?_ (canonical_tryM neat_jetResolve hs)
        refine canonical_ite_snd (canonical_evalM neat_rredStacks (canonical_tryM neat_jetResolve hs)) ?_
        exact canonical_evalM neat_rredStacks (canonical_tryM neat_jetResolve hs)

theorem canonical_withJetTurnEngines {s : State} {turn : Tbl (Nat × Nat)} {engines : Tbl ChunkEngine} (hs : Canonical s) :
    Canonical { s with jetTurn := turn, engines := engines } := hs

theorem canonical_startFirst {e : Nat} {l : List (Nat × Nat × Nat × Nat)} {s : State} (hs : Canonical s) : Canonical (s.startFirst e l) := by
  induction l generalizing s with
  | nil => exact hs
  | cons x rest ih =>
    obtain ⟨c, gid, run, n⟩ := x
    unfold State.startFirst
    dsimp only
    split
    · exact ih (canonical_tryOp hs)
    · exact canonical_withJetTurnEngines (canonical_updJet (canonical_tryOp hs))

theorem canonicalNext_execChunkStart {s : State} (hs : Canonical s) : CanonicalNext (execChunkStart s) := by
  unfold execChunkStart
  split
  · exact canonicalNext_next hs
  · exact canonicalNext_next (canonical_startFirst hs)

theorem canonical_sendJet {s : State} {comm ch : Nat} {origin : Origin} {kind : OutKind} {payload : List Nat} {len : Nat} (hs : Canonical s) :
    Canonical (s.sendJet comm ch origin kind payload len) :=
  canonical_setDelivery (canonical_getD (canonicalSome_ite (canonicalSome_emit hs) canonicalSome_none) hs)

theorem canonical_sendLines {s : State} {comm ch gid run c : Nat} {wire : List Byte} (hs : Canonical s) :
    Canonical (s.sendLines comm ch gid run c wire) :=
  canonical_foldl (fun _ _ ht => canonical_sendJet ht) _ hs

theorem canonical_freeSlot {s : State} {comm ch : Nat} {origin : Origin} {c : Nat} (hs : Canonical s) : Canonical (s.freeSlot comm ch origin c) :=
  canonical_sendJet (canonical_updComm hs)

theorem canonical_opEffect {s : State} {j : JetRun} {n : Nat} {ps : List (List Piece)} (hs : Canonical s) : Canonical (s.opEffect j n ps) := by
  unfold State.opEffect
  dsimp only
  split
  · refine canonical_updComm ?_
    refine canonical_updJet ?_
    refine canonical_sendLines ?_
    split
    · exact canonical_writePieces hs
    · exact hs
  · split
    · exact canonical_writePieces hs
    · exact hs
  · split
    · exact canonical_writePieces hs
    · exact hs
  · exact canonical_updComm (canonical_updJet (canonical_sendJet hs))
  · exact canonical_decCtr hs
  · exact hs

theorem canonical_withEngines {s : State} {engines' : Tbl ChunkEngine} (hs : Canonical s) :
    Canonical { s with engines := engines' } := hs

theorem canonical_completeOp {s : State} {e : Nat} {j : JetRun} {n : Nat} (hs : Canonical s) : Canonical (s.completeOp e j n) :=
  canonical_closeRun (canonical_withEngines (canonical_updJet (canonical_ite (canonical_freeSlot hs) hs)))

theorem canonical_unstart {s : State} {e : Nat} {j : JetRun} {n : Nat} (hs : Canonical s) : Canonical (s.unstart e j n) :=
  canonical_closeRun (canonical_withEngines (canonical_updJet hs))

theorem canonicalNext_execChunkEnd {e : Nat} {s : State} (hs : Canonical s) : CanonicalNext (execChunkEnd e s) := by
  unfold execChunkEnd
  split
  · exact canonicalNext_next hs
  · split
    · exact canonicalNext_next hs
    · refine canonicalNext_ite (canonicalNext_next (canonical_ite (canonical_completeOp hs) hs)) ?_
      dsimp only
      split
      · exact canonicalNext_next (canonical_tryM neat_jetResolve hs)
      · refine canonicalNext_next ?_
        split
        · exact canonical_unstart (canonical_failRun (canonical_tryM neat_jetResolve hs))
        · exact canonical_completeOp (canonical_opEffect (canonical_tryM neat_jetResolve hs))
      · exact canonicalNext_next (canonical_requestPage (canonical_unstart (canonical_tryM neat_jetResolve hs)))
      · exact canonicalNext_next (canonical_unstart (canonical_failRun (canonical_tryM neat_jetResolve hs)))

theorem neat_adderLine {j : JetRun} {n r k : Nat} {wire : List Byte} : Neat (adderLine j n r k wire) := by
  unfold adderLine
  dsimp only
  split
  · exact neat_pure _
  · refine neat_bind neat_resolve fun _ => ?_
    split
    · exact neat_pure _
    · refine neat_bind neat_resolve fun _ => ?_
      split
      · exact neat_pure _
      · exact neat_get_bind fun _ hs => neat_ite (neat_pure _) (neat_bind (neat_set (canonical_writePieces hs)) fun _ => neat_pure _)

theorem canonicalNext_execAdderLine {e : Nat} {s : State} (hs : Canonical s) : CanonicalNext (execAdderLine e s) := by
  unfold execAdderLine
  split
  · exact canonicalNext_next hs
  · split
    · exact canonicalNext_next hs
    · refine canonicalNext_ite (canonicalNext_next hs) ?_
      dsimp only
      split
      · exact canonicalNext_next (canonical_unstart (canonical_failRun hs))
      · exact canonicalNext_next (canonical_tryM neat_adderLine hs)
      · exact canonicalNext_next (canonical_withEngines (canonical_tryM neat_adderLine hs))
      · exact canonicalNext_next (canonical_requestPage (canonical_tryM neat_adderLine hs))
      · exact canonicalNext_next (canonical_unstart (canonical_failRun (canonical_tryM neat_adderLine hs)))

theorem canonical_ackJet {s : State} {peer comm lane chunk line status : Nat} (hs : Canonical s) :
    Canonical (s.ackJet peer comm lane chunk line status) :=
  canonical_getD (canonicalSome_emit hs) hs

theorem canonical_takeLine {s : State} {comm peer lane chunk line : Nat} {data : List (BitVec 8)} (hs : Canonical s) :
    Canonical (s.takeLine comm peer lane chunk line data) := by
  unfold State.takeLine
  split
  · exact hs
  · exact canonical_ite (canonical_ackJet hs) (canonical_ite hs (canonical_ackJet (canonical_writePa hs)))

theorem canonicalNext_execChunkLine {comm peer lane chunk line : Nat} {data : List (BitVec 8)} {s : State} (hs : Canonical s) :
    CanonicalNext (execChunkLine comm peer lane chunk line data s) :=
  canonicalNext_next (canonical_ite (canonical_takeLine hs) hs)

theorem canonical_takeChunkCredit {s : State} {comm peer lane chunk : Nat} (hs : Canonical s) :
    Canonical (s.takeChunkCredit comm peer lane chunk) := by
  unfold State.takeChunkCredit
  split
  · exact hs
  · exact canonical_ackJet (canonical_updComm hs)

theorem canonicalNext_execCredit {comm peer lane chunk : Nat} {s : State} (hs : Canonical s) :
    CanonicalNext (execCredit comm peer lane chunk s) :=
  canonicalNext_next (canonical_ite (canonical_takeChunkCredit hs) hs)

theorem canonical_countDup {s : State} {comm : Nat} (hs : Canonical s) : Canonical (s.countDup comm) := by
  unfold State.countDup
  split
  · exact canonical_updJet hs
  · exact hs

theorem canonical_takeReduce {s : State} {comm peer lane chunk tag off fmt : Nat} {half : Bool} {scale : Nat} {data : List (BitVec 8)}
    (hs : Canonical s) : Canonical (s.takeReduce comm peer lane chunk tag off fmt half scale data) := by
  unfold State.takeReduce
  split
  · exact hs
  · refine canonical_ite (canonical_ackJet hs) ?_
    split
    · exact canonical_ackJet (canonical_freeSlot (canonical_countDup hs))
    · refine canonical_ite (canonical_ackJet hs) ?_
      dsimp only
      split
      · exact canonical_tryM neat_resolve hs
      · exact canonical_requestPage (canonical_tryM neat_resolve hs)
      · exact canonical_ackJet (canonical_tryM neat_resolve hs)
      · exact canonical_ite (canonical_ackJet (canonical_tryM neat_resolve hs)) (canonical_ackJet (canonical_freeSlot (canonical_updComm
          (canonical_writePieces (canonical_tryM neat_resolve hs)))))

theorem canonicalNext_execRstrArrive {comm peer lane chunk tag off fmt : Nat} {half : Bool} {scale : Nat} {data : List (BitVec 8)} {s : State}
    (hs : Canonical s) : CanonicalNext (execRstrArrive comm peer lane chunk tag off fmt half scale data s) :=
  canonicalNext_next (canonical_ite (canonical_takeReduce hs) hs)

theorem canonicalNext_execJetstreamTimeout {gid run op : Nat} {s : State} (hs : Canonical s) :
    CanonicalNext (execJetstreamTimeout gid run op s) := by
  unfold execJetstreamTimeout
  split
  · exact canonicalNext_next hs
  · exact canonicalNext_next (canonical_ite (canonical_failRun hs) hs)

/-! ### Firmware and package reset -/

/-- A package that is reset lists no byte. -/
theorem canonical_packageReset {s : State} {fatal : Option Nat} : Canonical (s.packageReset fatal) := rfl

theorem canonicalNext_execPackageReset {s : State} : CanonicalNext (execPackageReset s) := canonicalNext_next canonical_packageReset

theorem canonicalNext_execPowerLoss {s : State} : CanonicalNext (execPowerLoss s) := canonicalNext_next canonical_packageReset

theorem canonicalSome_respond {s : State} {bs : List Byte} (hs : Canonical s) : CanonicalSome (s.respond bs) :=
  canonicalSome_ite (canonicalSome_some hs) (canonicalSome_ite (canonicalSome_some (canonical_writePa hs)) canonicalSome_none)

theorem canonical_reply {s : State} {bs : List Byte} (hs : Canonical s) : Canonical (s.reply bs).1 := by
  unfold State.reply
  split
  · next hrun => exact (canonicalSome_respond hs) _ hrun
  · exact hs

theorem canonicalNext_execFwstage {s : State} (hs : Canonical s) : CanonicalNext (execFwstage s) :=
  canonicalNext_next (canonical_ite canonical_packageReset (canonical_command hs fun _ ht => canonical_ite_fst ht (canonical_ite_fst ht
    (canonical_ite_fst ht ht))))

theorem canonicalNext_execFwapply {s : State} (hs : Canonical s) : CanonicalNext (execFwapply s) :=
  canonicalNext_next (canonical_command hs fun _ ht => canonical_ite_fst ht (canonical_ite_fst ht ht))

/-! ### Sounding -/

theorem canonical_setSnd {s : State} {lno : Nat} {d : Sounding} (hs : Canonical s) : Canonical (s.setSnd lno d) := hs

theorem canonicalNext_execSndClaim {k : Bool} {d : BitVec 7} {s : State} (hs : Canonical s) : CanonicalNext (execSndClaim k d s) := by
  unfold execSndClaim
  refine canonicalNext_scalarWord hs ?_
  dsimp only
  split
  · exact neat_trapM _ _
  · exact neat_guard (neat_trapM _ _) fun _ => neat_bind (neat_modify fun _ ht => canonical_updCtx (canonical_setSnd ht)) fun _ => neat_retireWith

theorem canonicalNext_execSndGive {k : Bool} {d a : BitVec 7} {s : State} (hs : Canonical s) : CanonicalNext (execSndGive k d a s) := by
  unfold execSndGive
  refine canonicalNext_scalarWord hs ?_
  dsimp only
  split
  · exact neat_trapM _ _
  · refine neat_guard (neat_trapM _ _) fun _ => neat_guard (neat_set (canonical_setSnd hs)) fun _ => ?_
    refine neat_ite ?_ (neat_bind (neat_modify fun _ ht => canonical_updCtx ht) fun _ => neat_retireWith)
    exact neat_bind (neat_modify fun _ ht => canonical_updCtx (canonical_giveSlice ht)) fun _ => neat_retireWith

theorem canonicalNext_execSndStat {k : Bool} {d a b : BitVec 7} {s : State} (hs : Canonical s) : CanonicalNext (execSndStat k d a b s) := by
  unfold execSndStat
  refine canonicalNext_scalarWord hs ?_
  dsimp only
  split
  · exact neat_trapM _ _
  · split
    case h_2 => exact neat_guard (neat_trapM _ _) fun _ => neat_retireWith
    case h_8 => exact neat_trapM _ _
    all_goals exact neat_retireWith

theorem canonicalNext_execSoundingSliceForward {tw lno : Nat} {s : State} (hs : Canonical s) :
    CanonicalNext (execSoundingSliceForward tw lno s) := by
  unfold execSoundingSliceForward
  dsimp only
  split
  · exact canonicalNext_next hs
  · exact canonicalNext_ite (canonicalNext_next hs) (canonicalNext_next (canonical_updTower hs))

theorem canonical_sndDone {s : State} {lno : Nat} (hs : Canonical s) : Canonical (s.sndDone lno) := by
  unfold State.sndDone
  split
  · exact canonical_updLaunch (canonical_setSnd hs)
  · exact hs

theorem canonical_sndDrop {s : State} {lno addr : Nat} (hs : Canonical s) : Canonical (s.sndDrop lno addr) :=
  canonical_sndDone (canonical_launchRecord hs)

theorem canonical_sndWrite {s : State} {lno : Nat} (hs : Canonical s) : Canonical (s.sndWrite lno) := by
  unfold State.sndWrite
  split
  · dsimp only
    split
    · exact canonical_ite (canonical_sndDone (canonical_writePa hs)) (canonical_sndDrop hs)
    · split
      · exact canonical_tryM neat_resolve hs
      · exact canonical_sndDone (canonical_writePieces (canonical_tryM neat_resolve hs))
      · exact canonical_requestPage (canonical_setSnd (canonical_tryM neat_resolve hs))
      · exact canonical_sndDrop (canonical_tryM neat_resolve hs)
  · exact hs

theorem canonical_sndFinish {s : State} {lno : Nat} (hs : Canonical s) : Canonical (s.sndFinish lno) := by
  unfold State.sndFinish
  split
  · exact canonical_ite (canonical_sndWrite (canonical_setSnd hs)) hs
  · exact hs

theorem canonicalNext_execSoundingMerge {lno : Nat} {s : State} (hs : Canonical s) : CanonicalNext (execSoundingMerge lno s) := by
  unfold execSoundingMerge
  split
  · exact canonicalNext_next hs
  · split
    · exact canonicalNext_next (canonical_sndFinish hs)
    · exact canonicalNext_next (canonical_sndFinish (canonical_setSnd (canonical_updTower hs)))

/-! ### Launches -/

theorem canonical_admitLaunch {s : State} {a : Admit} (hs : Canonical s) : Canonical (s.admitLaunch a).2 := by
  unfold State.admitLaunch
  refine canonical_ite_snd hs ?_
  split
  · exact hs
  · exact canonical_ite (canonical_setSnd hs) hs

theorem canonical_updGraph {s : State} {g : Nat} {f : GraphSlot → GraphSlot} (hs : Canonical s) : Canonical (s.updGraph g f) := hs

theorem canonical_runGraph {s : State} {g comp vec queue parent : Nat} (hs : Canonical s) : Canonical (s.runGraph g comp vec queue parent).2 :=
  canonical_ite_snd hs (canonical_ite_snd hs (canonical_updGraph hs))

theorem canonicalNext_execLnch {k : Bool} {d a b : BitVec 7} {s : State} (hs : Canonical s) : CanonicalNext (execLnch k d a b s) := by
  refine canonicalNext_scalarWord hs (neat_guard (neat_trapM _ _) fun _ => neat_bind neat_needRelease fun _ => ?_)
  refine neat_ite ?_ (neat_get_bind fun _ ht => neat_bind (neat_set (canonical_runGraph ht)) fun _ => neat_retireWith)
  refine neat_get_bind fun _ _ => neat_bind neat_readHome fun _ => neat_bind (neat_modify fun _ hu => canonical_countHops hu) fun _ => ?_
  exact neat_guard (neat_trapM _ _) fun _ => neat_get_bind fun _ hu => neat_bind (neat_set (canonical_admitLaunch hu)) fun _ => neat_retireWith

theorem canonicalNext_execLwait {k : Bool} {d a b : BitVec 7} {s : State} (hs : Canonical s) : CanonicalNext (execLwait k d a b s) := by
  unfold execLwait
  refine canonicalNext_scalarWord hs ?_
  refine neat_guard (neat_trapM _ _) fun _ => ?_
  refine neat_guard (neat_trapM _ _) fun _ => ?_
  split
  · exact neat_ite neat_retireWith (neat_waitM _)
  · exact neat_bind (neat_modify fun _ ht => canonical_acquire ht) fun _ => neat_retireWith

/-! ### The scheduler -/

theorem canonicalNext_execTaskDispatch {h : Nat} {s : State} (hs : Canonical s) : CanonicalNext (execTaskDispatch h s) := by
  unfold execTaskDispatch
  refine canonicalNext_ite (canonicalNext_next hs) ?_
  split
  · exact canonicalNext_next hs
  · exact canonicalNext_next (canonical_ite (canonical_take (canonical_wakeCore hs)) (canonical_wakeCore hs))

theorem canonicalNext_execPreemption {h : Nat} {s : State} (hs : Canonical s) : CanonicalNext (execPreemption h s) :=
  canonicalNext_next (canonical_ite (canonical_swapOut hs) hs)

theorem canonicalNext_execAgeWindowExpiry {tid : Nat} {s : State} (hs : Canonical s) : CanonicalNext (execAgeWindowExpiry tid s) := by
  unfold execAgeWindowExpiry
  split
  · exact canonicalNext_next (canonical_ite (canonical_updTask hs) hs)
  · exact canonicalNext_next hs

theorem canonicalNext_execSpinBudgetExpiry {h : Nat} {s : State} (hs : Canonical s) : CanonicalNext (execSpinBudgetExpiry h s) := by
  unfold execSpinBudgetExpiry
  split
  · exact canonicalNext_next hs
  · exact canonicalNext_ite (canonicalNext_next hs) (canonicalNext_next (canonical_swapOut hs))

theorem canonicalNext_execWake {tid : Nat} {s : State} (hs : Canonical s) : CanonicalNext (execWake tid s) := by
  unfold execWake
  split
  · exact canonicalNext_next (canonical_ite (canonical_updTask hs) hs)
  · exact canonicalNext_next hs

theorem canonicalNext_execTaskEnd {h : Nat} {s : State} (hs : Canonical s) : CanonicalNext (execTaskEnd h s) := by
  unfold execTaskEnd
  split
  · exact canonicalNext_next hs
  · exact canonicalNext_ite (canonicalNext_next hs) (canonicalNext_ite (canonicalNext_next (canonical_holdFront hs)) (canonicalNext_next
      (canonical_endTask hs)))

end Sys2Proof.Machine
end

section
/-! PROOFS. Memory stays canonical through faults of the package, the launch queues and the mailbox (R375 to R383, R401 to R419). -/

namespace Sys2Proof.Machine

open Sys2Proof

/-! ### Health -/

theorem canonical_saveAnvil {s : State} {tid : Nat} {a : Anvil} (hs : Canonical s) : Canonical (s.saveAnvil tid a) := by
  unfold State.saveAnvil
  split
  · exact hs
  · refine canonical_updTask ?_
    split
    · exact canonical_putFields hs
    · exact hs

theorem canonical_loseAnvils {s : State} {tw : Nat} (hs : Canonical s) : Canonical (s.loseAnvils tw) := hs

theorem canonical_saveAnvils {s : State} {tw : Nat} (hs : Canonical s) : Canonical (s.saveAnvils tw) := by
  unfold State.saveAnvils
  refine canonical_loseAnvils ?_
  refine canonical_foldl (fun _ _ ht => ?_) _ hs
  split
  · exact canonical_saveAnvil ht
  · exact ht

theorem canonical_withLaunchesTasks {s : State} {launches' : Tbl Launch} {tasks' : Tbl Task} (hs : Canonical s) :
    Canonical { s with launches := launches', tasks := tasks' } := hs

theorem canonical_migrate {s : State} {tw : Nat} {holders : List Nat} (hs : Canonical s) : Canonical (s.migrate tw holders) :=
  canonical_foldl (fun _ _ ht => canonical_ite (canonical_updTask (canonical_updTask ht)) ht) _ (canonical_withLaunchesTasks (canonical_foldl
    (fun _ _ ht => canonical_launchRecord ht) _ hs))

theorem canonical_stopTasks {s : State} {tw : Nat} (hs : Canonical s) : Canonical (s.stopTasks tw) :=
  canonical_foldl (fun _ _ ht => canonical_ite (canonical_swapOut ht) ht) _ hs

theorem canonical_cutCompute {s : State} {tw : Nat} (hs : Canonical s) : Canonical (s.cutCompute tw) :=
  canonical_updTower (canonical_foldl (fun _ _ ht => canonical_updCore ht) _ hs)

theorem canonical_powerOff {s : State} {tw : Nat} (hs : Canonical s) : Canonical (s.powerOff tw) :=
  canonical_updTower (canonical_migrate (canonical_foldl (fun _ _ ht => canonical_servePort ht) _ (canonical_cutCompute hs)))

theorem canonical_checkPkghot {s : State} (hs : Canonical s) : Canonical s.checkPkghot := by
  unfold State.checkPkghot
  split
  · exact hs
  · exact canonical_ite hs (canonical_logHealth hs)

theorem canonical_considerShelter {s : State} (hs : Canonical s) : Canonical s.considerShelter := by
  unfold State.considerShelter
  refine canonical_ite (canonical_checkPkghot hs) ?_
  split
  · exact canonical_checkPkghot hs
  · exact canonical_ite (canonical_powerOff (canonical_logHealth (canonical_updTower (canonical_checkPkghot hs)))) (canonical_logHealth
      (canonical_updTower (canonical_checkPkghot hs)))

theorem canonical_trip {s : State} {tw temp : Nat} (hs : Canonical s) : Canonical (s.trip tw temp) := by
  unfold State.trip
  refine canonical_powerOff ?_
  refine canonical_loseAnvils ?_
  refine canonical_foldl (fun _ _ ht => ?_) _ (canonical_logHealth (canonical_updTower hs))
  split
  · exact canonical_terminateTask ht
  · exact ht

theorem canonical_logicFault {s : State} {tw : Nat} (hs : Canonical s) : Canonical (s.logicFault tw) := by
  unfold State.logicFault
  refine canonical_ite hs ?_
  refine canonical_migrate ?_
  refine canonical_cutCompute ?_
  refine canonical_loseAnvils ?_
  refine canonical_foldl (fun _ _ ht => canonical_updCluster ht) _ ?_
  refine canonical_foldl (fun _ _ ht => ?_) _ (canonical_updTower (canonical_foldl (fun _ _ ht => canonical_launchRecord ht) _ (canonical_logHealth
    hs)))
  split
  · exact canonical_terminateTask ht
  · exact ht

theorem canonical_withLayerFlash {s : State} {layerFlash' : Tbl Nat} (hs : Canonical s) :
    Canonical { s with layerFlash := layerFlash' } := hs

theorem canonical_mapOutLayer {s : State} {c layer : Nat} (hs : Canonical s) : Canonical (s.mapOutLayer c layer) :=
  canonical_ite (canonical_logicFault (canonical_withLayerFlash (canonical_logHealth (canonical_updCore hs)))) (canonical_withLayerFlash
    (canonical_logHealth (canonical_updCore hs)))

theorem canonical_withCeCount {s : State} {ceCount' : Nat} (hs : Canonical s) :
    Canonical { s with ceCount := ceCount' } := hs

theorem canonical_corrected {s : State} {unit addr : Nat} (hs : Canonical s) : Canonical (s.corrected unit addr) :=
  canonical_ite (canonical_logHealth hs) (canonical_withCeCount hs)

theorem canonicalNext_execSensorReading {sensor : Sensor} {t : Nat} {s : State} (hs : Canonical s) :
    CanonicalNext (execSensorReading sensor t s) := by
  unfold execSensorReading
  split
  · exact canonicalNext_next hs
  · extract_lets sensed reported
    have hreported : Canonical reported := by
      unfold reported
      split
      · exact canonical_layerReport (canonical_updTower hs)
      · exact canonical_updTower hs
    exact canonicalNext_next (canonical_considerShelter (canonical_ite (canonical_trip hreported) hreported))

theorem canonicalNext_execShelterPowerOff {tw : Nat} {s : State} (hs : Canonical s) : CanonicalNext (execShelterPowerOff tw s) := by
  refine canonicalNext_ite (canonicalNext_next hs) ?_
  refine canonicalNext_ite (canonicalNext_next (canonical_considerShelter (canonical_trip hs))) ?_
  refine canonicalNext_ite (canonicalNext_next (canonical_stopTasks hs)) ?_
  exact canonicalNext_next (canonical_considerShelter (canonical_powerOff (canonical_saveAnvils (canonical_stopTasks hs))))

theorem canonicalNext_execShelterBoundExpiry {tw : Nat} {s : State} (hs : Canonical s) : CanonicalNext (execShelterBoundExpiry tw s) :=
  canonicalNext_ite (canonicalNext_next hs) (canonicalNext_next (canonical_considerShelter (canonical_trip hs)))

theorem canonical_applied {s : State} {tw : Nat} (hs : Canonical s) : Canonical (s.applied tw) := by
  unfold State.applied
  split
  · exact hs
  · exact canonical_ite hs (canonical_ite hs hs)

theorem canonical_loadFirmware {s : State} {tw : Nat} (hs : Canonical s) : Canonical (s.loadFirmware tw) := canonical_ite (canonical_updTower hs) hs

theorem canonicalNext_execShelterReturn {tw : Nat} {pass : Bool} {s : State} (hs : Canonical s) : CanonicalNext (execShelterReturn tw pass s) :=
  canonicalNext_ite (canonicalNext_next hs) (canonicalNext_next (canonical_applied (canonical_ite (canonical_updTower (canonical_loadFirmware hs))
    (canonical_logicFault (canonical_loadFirmware hs)))))

theorem canonical_withFw {s : State} {fw' : Firmware} (hs : Canonical s) :
    Canonical { s with fw := fw' } := hs

theorem canonicalNext_execSelfTest {tw : Nat} {pass : Bool} {faulty : List (Nat × Nat)} {s : State} (hs : Canonical s) :
    CanonicalNext (execSelfTest tw pass faulty s) := by
  unfold execSelfTest
  refine canonicalNext_ite (canonicalNext_next hs) ?_
  extract_lets tested mapped passed
  have hmapped : Canonical mapped := canonical_foldl (fun _ _ ht => canonical_ite (canonical_mapOutLayer ht) ht) _ (canonical_updTower hs)
  have hpassed : Canonical passed := canonical_ite hmapped (canonical_logicFault hmapped)
  exact canonicalNext_next (canonical_ite hpassed (canonical_withFw hpassed))

theorem canonicalNext_execWatchdogExpiry {tw : Nat} {s : State} (hs : Canonical s) : CanonicalNext (execWatchdogExpiry tw s) :=
  canonicalNext_next (canonical_logicFault hs)

theorem canonicalNext_execParityError {unit : Pipeline} {replaysFail : Bool} {s : State} (hs : Canonical s) :
    CanonicalNext (execParityError unit replaysFail s) := by
  unfold execParityError
  refine canonicalNext_ite (canonicalNext_next (canonical_corrected hs)) ?_
  split
  · refine canonicalNext_next ?_
    refine canonical_mapOutLayer ?_
    split
    · split
      · exact canonical_ite (canonical_terminateTask hs) hs
      · exact hs
    · exact hs
  · exact canonicalNext_next (canonical_logicFault hs)

theorem canonicalNext_execFatalFault {tw : Nat} {s : State} : CanonicalNext (execFatalFault tw s) := canonicalNext_next canonical_packageReset

theorem canonical_readerOf {s : State} {l : List Nat} (hs : Canonical s) : Canonical (s.readerOf l).2 := hs

theorem canonical_endUncorr {r : Option Nat × State} (hr : Canonical r.2) : Canonical (endUncorr r) := by
  unfold endUncorr
  split
  · exact canonical_terminateTask hr
  · exact hr

theorem canonical_poisonLine {s : State} {line : Nat} (hs : Canonical s) : Canonical (s.poisonLine line) := hs

theorem canonical_dropTranslation {s : State} {c : Nat} (hs : Canonical s) : Canonical (s.dropTranslation c) := hs

theorem canonicalNext_execEccError {site : Storage} {corrected : Bool} {s : State} (hs : Canonical s) :
    CanonicalNext (execEccError site corrected s) := by
  unfold execEccError
  split
  · exact canonicalNext_ite (canonicalNext_next (canonical_corrected hs)) (canonicalNext_next (canonical_endUncorr (canonical_readerOf
      (canonical_logHealth hs))))
  · exact canonicalNext_ite (canonicalNext_next (canonical_corrected hs)) (canonicalNext_next (canonical_endUncorr (canonical_readerOf
      (canonical_logHealth hs))))
  · exact canonicalNext_ite (canonicalNext_next (canonical_corrected hs)) (canonicalNext_next (canonical_endUncorr (canonical_readerOf
      (canonical_logHealth hs))))
  · exact canonicalNext_ite (canonicalNext_next (canonical_corrected hs)) (canonicalNext_next (canonical_endUncorr (canonical_readerOf
      (canonical_logHealth hs))))
  · exact canonicalNext_ite (canonicalNext_next (canonical_corrected hs)) (canonicalNext_next (canonical_endUncorr (canonical_logHealth hs)))
  · exact canonicalNext_ite (canonicalNext_next (canonical_corrected hs)) (canonicalNext_next (canonical_endUncorr (canonical_logHealth hs)))
  · exact canonicalNext_next (canonical_ite hs (canonical_dropTranslation hs))
  · exact canonicalNext_next (canonical_ite hs (canonical_setL1 hs))
  · exact canonicalNext_next (canonical_ite hs (canonical_poisonLine (canonical_logHealth hs)))
  · exact canonicalNext_next (canonical_ite hs (canonical_poisonLine (canonical_logHealth hs)))

theorem canonicalNext_execPatrolScrub {line : Nat} {s : State} (hs : Canonical s) : CanonicalNext (execPatrolScrub line s) :=
  canonicalNext_next (canonical_ite hs (canonical_withMem (Memory.wf_writeBytes hs _ _)))

theorem canonical_withCtLost {s : State} {ctLost' : Nat} (hs : Canonical s) :
    Canonical { s with ctLost := ctLost' } := hs

theorem canonical_withCtWrittenCtNext {s : State} {ctWritten' : Nat} {ctNext' : Nat} (hs : Canonical s) :
    Canonical { s with ctWritten := ctWritten', ctNext := ctNext' } := hs

theorem canonicalNext_execContrailSample {h : Nat} {s : State} (hs : Canonical s) : CanonicalNext (execContrailSample h s) := by
  refine canonicalNext_ite (canonicalNext_next hs) ?_
  refine canonicalNext_ite (canonicalNext_next (canonical_withCtLost (canonical_updHart hs))) ?_
  exact canonicalNext_next (canonical_withCtWrittenCtNext (canonical_writePa (canonical_updHart hs)))

/-! ### Launch queues -/

theorem canonical_setQueue {s : State} {q : Nat} {k : LaunchQueue} (hs : Canonical s) : Canonical (s.setQueue q k) := hs

theorem canonicalNext_execDoorbell {q : Nat} {v : BitVec 64} {s : State} (hs : Canonical s) : CanonicalNext (execDoorbell q v s) :=
  canonicalNext_ite (canonicalNext_next hs) (canonicalNext_ite (canonicalNext_next (canonical_logHealth (canonical_setQueue hs))) (canonicalNext_next
    (canonical_setQueue hs)))

theorem canonical_withServed {s : State} {served' : Tbl Nat} (hs : Canonical s) :
    Canonical { s with served := served' } := hs

theorem canonical_popQueue {s : State} {q : Nat} (hs : Canonical s) : Canonical (s.popQueue q) := canonical_withServed (canonical_setQueue hs)

theorem canonical_complete {s : State} {comp off v : Nat} (hs : Canonical s) : Canonical (s.complete comp off v) :=
  canonical_ite hs (canonical_writePa hs)

theorem canonical_signal {s : State} {vec : Nat} (hs : Canonical s) : Canonical (s.signal vec) := canonical_ite hs (canonical_msi hs)

theorem canonical_answerEntry {s : State} {q e w : Nat} (hs : Canonical s) : Canonical (s.answerEntry q e w) :=
  canonical_popQueue (canonical_signal (canonical_complete hs))

theorem canonicalNext_serve {s : State} {q kind : Nat} {act : Nat → Nat × State} (hs : Canonical s) (hact : ∀ a, Canonical (act a).2) :
    CanonicalNext (s.serve q kind act) := by
  unfold State.serve
  split
  · exact canonicalNext_next hs
  · exact canonicalNext_ite (canonicalNext_next hs) (canonicalNext_next (canonical_answerEntry (hact _)))

theorem canonicalNext_execBadrecEntry {q : Nat} {s : State} (hs : Canonical s) : CanonicalNext (execBadrecEntry q s) := by
  unfold execBadrecEntry
  split
  · exact canonicalNext_next hs
  · exact canonicalNext_ite (canonicalNext_next (canonical_answerEntry hs)) (canonicalNext_next hs)

theorem canonicalNext_execLaunch {q : Nat} {s : State} (hs : Canonical s) : CanonicalNext (execLaunch q s) := by
  unfold execLaunch
  refine canonicalNext_serve hs fun _ => ?_
  split
  · exact hs
  · exact canonical_ite_snd hs (canonical_admitLaunch hs)

theorem canonical_putGraph {s : State} {e : Nat} {busy : Bool} (hs : Canonical s) : Canonical (s.putGraph e busy).2 := by
  unfold State.putGraph
  refine canonical_ite_snd hs ?_
  refine canonical_ite_snd hs ?_
  split
  · exact hs
  · exact canonical_updGraph hs

theorem canonicalNext_execGedit {q : Nat} {s : State} (hs : Canonical s) : CanonicalNext (execGedit q s) :=
  canonicalNext_serve hs fun _ => canonical_ite_snd hs (canonical_putGraph hs)

theorem canonicalNext_execGrun {q : Nat} {s : State} (hs : Canonical s) : CanonicalNext (execGrun q s) :=
  canonicalNext_serve hs fun _ => canonical_ite_snd hs (canonical_runGraph hs)

theorem canonicalNext_execGfree {q : Nat} {s : State} (hs : Canonical s) : CanonicalNext (execGfree q s) :=
  canonicalNext_serve hs fun _ => canonical_ite_snd hs (canonical_ite_snd hs (canonical_updGraph hs))

theorem canonical_freeCounters {s : State} {lno : Nat} (hs : Canonical s) : Canonical (s.freeCounters lno) :=
  canonical_foldl (fun _ _ ht => canonical_foldl (fun _ _ hu => canonical_launchRecord (canonical_updCluster hu)) _ ht) _ hs

theorem canonical_killLaunch {s : State} {lno : Nat} (hs : Canonical s) : Canonical (s.killLaunch lno) := by
  exact canonical_prunePages (canonical_sealEnd (canonical_freeCounters (canonical_foldl (fun _ _ ht => canonical_stopRun ht) _ (canonical_foldl
    (fun _ _ ht => canonical_terminateTask ht) _ (canonical_updLaunch (canonical_foldl (fun _ _ ht => canonical_errorRecord ht) _ hs))))))

theorem canonicalNext_execKill {q : Nat} {s : State} (hs : Canonical s) : CanonicalNext (execKill q s) :=
  canonicalNext_serve hs fun _ => canonical_ite_snd (canonical_killLaunch hs) hs

theorem canonical_freeLaunch {s : State} {lno : Nat} (hs : Canonical s) : Canonical (s.freeLaunch lno) := canonical_sweep hs

theorem canonical_endNode {s : State} {gid gen node errors : Nat} (hs : Canonical s) : Canonical (s.endNode gid gen node errors) := by
  unfold State.endNode
  dsimp only
  split
  · exact hs
  · exact canonical_ite (canonical_updGraph hs) (canonical_signal (canonical_complete (canonical_complete (canonical_updGraph hs))))

theorem canonicalNext_execLaunchEnd {lno : Nat} {s : State} (hs : Canonical s) : CanonicalNext (execLaunchEnd lno s) := by
  unfold execLaunchEnd
  dsimp only
  split
  · exact canonicalNext_next (canonical_flushErrors hs)
  · refine canonicalNext_ite (canonicalNext_next (canonical_flushErrors hs)) ?_
    split
    · exact canonicalNext_next (canonical_freeCounters (canonical_flushErrors hs))
    · refine canonicalNext_ite (canonicalNext_next (canonical_freeCounters (canonical_flushErrors hs))) ?_
      split
      · exact canonicalNext_next (canonical_endNode (canonical_prunePages (canonical_updLaunch (canonical_freeLaunch (canonical_freeCounters
          (canonical_flushErrors hs))))))
      · exact canonicalNext_next (canonical_signal (canonical_complete (canonical_complete (canonical_prunePages (canonical_updLaunch
          (canonical_freeLaunch (canonical_freeCounters (canonical_flushErrors hs))))))))

theorem canonicalNext_execGraphNodeLaunch {gid gen node : Nat} {s : State} (hs : Canonical s) :
    CanonicalNext (execGraphNodeLaunch gid gen node s) := by
  unfold execGraphNodeLaunch
  dsimp only
  split
  · exact canonicalNext_ite (canonicalNext_next hs) (canonicalNext_ite (canonicalNext_next hs) (canonicalNext_next (canonical_updGraph
      (canonical_admitLaunch hs))))
  · exact canonicalNext_next hs

/-! ### The mailbox -/

theorem canonical_grantAll {s : State} {cl : Nat} (hs : Canonical s) : Canonical (s.grantAll cl) :=
  canonical_ite hs (canonical_foldl (fun _ _ ht => canonical_grantNow ht) _ (canonical_updCluster hs))

theorem canonical_writeReg {s : State} {code unit raw : Nat} (hs : Canonical s) : Canonical (s.writeReg code unit raw).1 := by
  unfold State.writeReg
  dsimp only
  repeat' refine canonical_ite_fst ?_ ?_
  any_goals exact hs
  · exact canonical_grantAll (canonical_updCluster hs)
  · exact canonical_rezone hs
  · exact canonical_rezone hs

theorem canonical_withArgs {s : State} {code unit v : Nat} (hs : Canonical s) : Canonical (s.withArgs code unit v) := hs

theorem canonical_regw {s : State} (hs : Canonical s) : Canonical s.regw.1 := canonical_ite_fst hs (canonical_writeReg hs)

theorem canonicalNext_execRegr {s : State} (hs : Canonical s) : CanonicalNext (execRegr s) :=
  canonicalNext_next (canonical_command hs fun _ ht => canonical_ite_fst ht (canonical_reply ht))

theorem canonicalNext_execRegw {s : State} (hs : Canonical s) : CanonicalNext (execRegw s) :=
  canonicalNext_next (canonical_command hs fun _ ht => canonical_regw ht)

theorem canonicalNext_execThcfgWrite {v : BitVec 64} {s : State} (hs : Canonical s) : CanonicalNext (execThcfgWrite v s) :=
  canonicalNext_next (canonical_command (canonical_withArgs hs) fun _ ht => canonical_regw ht)

theorem canonicalNext_execPrimeZoneWrite {ceiling : Bool} {tw n : Nat} {v : BitVec 64} {s : State} (hs : Canonical s) :
    CanonicalNext (execPrimeZoneWrite ceiling tw n v s) :=
  canonicalNext_next (canonical_command (canonical_ite (canonical_withArgs hs) (canonical_withArgs hs)) fun _ ht => canonical_regw ht)

theorem canonicalNext_execFpoolWrite {v : BitVec 64} {s : State} (hs : Canonical s) : CanonicalNext (execFpoolWrite v s) :=
  canonicalNext_next (canonical_command (canonical_withArgs hs) fun _ ht => canonical_regw ht)

theorem canonicalNext_execJscfgWrite {v : BitVec 64} {s : State} (hs : Canonical s) : CanonicalNext (execJscfgWrite v s) :=
  canonicalNext_next (canonical_command (canonical_withArgs hs) fun _ ht => canonical_regw ht)

theorem canonicalNext_execSummary {s : State} (hs : Canonical s) : CanonicalNext (execSummary s) :=
  canonicalNext_next (canonical_command hs fun _ ht => canonical_ite_fst ht (canonical_reply ht))

theorem canonicalNext_execLogread {s : State} (hs : Canonical s) : CanonicalNext (execLogread s) :=
  canonicalNext_next (canonical_command hs fun _ ht => canonical_reply ht)

theorem canonical_enterService {s : State} {tw step : Nat} (hs : Canonical s) : Canonical (s.enterService tw step) :=
  canonical_logHealth (canonical_updTower hs)

theorem canonical_drainService {s : State} {tw : Nat} (hs : Canonical s) : Canonical (s.drainService tw).1 := by
  unfold State.drainService
  dsimp only
  refine canonical_ite_fst (canonical_stopTasks hs) ?_
  dsimp only
  exact canonical_considerShelter (canonical_updTower (canonical_migrate (canonical_saveAnvils (canonical_stopTasks hs))))

theorem canonicalNext_execService {s : State} (hs : Canonical s) : CanonicalNext (execService s) := by
  unfold execService
  refine canonicalNext_next ?_
  refine canonical_command hs fun _ ht => ?_
  refine canonical_ite_fst ?_ (canonical_ite_fst ht (canonical_ite_fst ht (canonical_ite_fst ht (canonical_drainService (canonical_enterService
    ht)))))
  split
  · exact canonical_drainService ht
  · exact ht

theorem canonicalNext_execResume {s : State} (hs : Canonical s) : CanonicalNext (execResume s) :=
  canonicalNext_next (canonical_command hs fun _ ht => canonical_ite_fst ht (canonical_ite_fst ht (canonical_updTower ht)))

theorem canonicalNext_execTdump {s : State} (hs : Canonical s) : CanonicalNext (execTdump s) := by
  unfold execTdump
  dsimp only
  refine canonicalNext_next ?_
  refine canonical_command hs fun _ ht => ?_
  refine canonical_ite_fst ht ?_
  split
  · exact ht
  · refine canonical_ite_fst ?_ ?_
    · refine canonical_ite_fst ?_ ht
      split
      · exact canonical_ite_fst (canonical_reply (canonical_swapOut ht)) (canonical_swapOut ht)
      · exact canonical_swapOut ht
    · split
      · exact canonical_ite_fst (canonical_reply ht) ht
      · exact ht

theorem canonicalNext_execDbgset {s : State} (hs : Canonical s) : CanonicalNext (execDbgset s) :=
  canonicalNext_next (canonical_command hs fun _ ht => canonical_ite_fst ht (canonical_foldl (fun _ _ hu => canonical_updHart hu) _ ht))

theorem canonical_goOn {s : State} {h : Nat} (hs : Canonical s) : Canonical (s.goOn h) := by
  unfold State.goOn
  dsimp only
  split
  · exact hs
  · exact canonical_ite (canonical_retire (canonical_reissue (canonical_updHart hs))) (canonical_reissue (canonical_updHart hs))

theorem canonicalNext_execDbggo {s : State} (hs : Canonical s) : CanonicalNext (execDbggo s) :=
  canonicalNext_next (canonical_command hs fun _ ht => canonical_ite_fst ht (canonical_foldl (fun _ _ hu => canonical_goOn hu) _ ht))

theorem canonicalNext_execHarton {s : State} (hs : Canonical s) : CanonicalNext (execHarton s) :=
  canonicalNext_next (canonical_command hs fun _ ht => canonical_ite_fst ht (canonical_ite_fst ht (canonical_foldl (fun _ _ hu => canonical_updHart
    hu) _ ht)))

theorem canonicalNext_execBadcmd {code : Nat} {s : State} (hs : Canonical s) : CanonicalNext (execBadcmd code s) :=
  canonicalNext_next (canonical_ite hs (canonical_command hs fun _ ht => ht))

theorem canonicalNext_execFirmwareTowerApply {tw : Nat} {pass : Bool} {s : State} (hs : Canonical s) :
    CanonicalNext (execFirmwareTowerApply tw pass s) := by
  unfold execFirmwareTowerApply
  refine canonicalNext_ite (canonicalNext_next hs) ?_
  split
  · exact canonicalNext_next (canonical_applied hs)
  · exact canonicalNext_next (canonical_applied hs)
  · exact canonicalNext_next hs
  · exact canonicalNext_next (canonical_ite (canonical_applied hs) (canonical_ite hs (canonical_drainService (canonical_enterService hs))))
  · refine canonicalNext_ite (canonicalNext_next (canonical_drainService hs)) ?_
    refine canonicalNext_ite (canonicalNext_next (canonical_considerShelter hs)) ?_
    exact canonicalNext_next (canonical_applied (canonical_ite (canonical_updTower (canonical_loadFirmware hs)) (canonical_logicFault
      (canonical_loadFirmware hs))))

theorem canonicalNext_mailbox {s : State} {code : Nat} (hs : Canonical s) : CanonicalNext (s.mailbox code) := by
  unfold State.mailbox
  split
  · exact canonicalNext_execSummary hs
  · exact canonicalNext_execLogread hs
  · exact canonicalNext_execRegr hs
  · exact canonicalNext_execRegw hs
  · exact canonicalNext_execService hs
  · exact canonicalNext_execResume hs
  · exact canonicalNext_execTdump hs
  · exact canonicalNext_execDbgset hs
  · exact canonicalNext_execDbggo hs
  · exact canonicalNext_execHarton hs
  · exact canonicalNext_execFwstage hs
  · exact canonicalNext_execFwapply hs
  · exact canonicalNext_execNetsync hs
  · exact canonicalNext_execCommsync hs
  · exact canonicalNext_execBadcmd hs

theorem canonical_writeQueue {s : State} {q off v : Nat} (hs : Canonical s) : Canonical (s.writeQueue q off v) := by
  unfold State.writeQueue
  dsimp only
  split
  · exact canonical_setQueue hs
  · exact canonical_setQueue hs
  · exact hs

theorem canonical_withPba {s : State} {pba' : Nat} (hs : Canonical s) :
    Canonical { s with pba := pba' } := hs

theorem canonical_writeMsix {s : State} {k n : Nat} (hs : Canonical s) : Canonical (s.writeMsix k n) :=
  canonical_ite (canonical_msi (canonical_withPba hs)) hs

theorem canonical_writeConfig {s : State} {off v : Nat} (hs : Canonical s) : Canonical (s.writeConfig off v) := by
  unfold State.writeConfig
  split <;> exact hs

theorem canonicalNext_execRegisterWrite {off : Nat} {v : BitVec 64} {s : State} (hs : Canonical s) : CanonicalNext (execRegisterWrite off v s) := by
  refine canonicalNext_ite (canonicalNext_next hs) ?_
  refine canonicalNext_ite (canonicalNext_ite (canonicalNext_next hs) (canonicalNext_mailbox hs)) ?_
  refine canonicalNext_ite (canonicalNext_next hs) ?_
  refine canonicalNext_ite (canonicalNext_next hs) ?_
  refine canonicalNext_ite (canonicalNext_next (canonical_writeMsix hs)) ?_
  refine canonicalNext_ite (canonicalNext_ite (canonicalNext_execDoorbell hs) (canonicalNext_next (canonical_writeQueue hs))) ?_
  exact canonicalNext_next (canonical_writeConfig hs)

end Sys2Proof.Machine
end

section
/-! PROOFS. Memory stays canonical through a scan, the frames and requests of the host, and page requests (R192, R348 to R351, R421 to R442). -/

namespace Sys2Proof.Machine

open Sys2Proof

/-! ### The fetch, the engines and the scan -/

theorem neat_fetchWord {h : Nat} : Neat (fetchWord h) := by
  unfold fetchWord
  refine neat_get_bind fun _ _ => ?_
  refine neat_guard (neat_trapM _ _) fun _ => ?_
  refine neat_bind neat_translate fun _ => ?_
  split
  · exact neat_trapM _ _
  · exact neat_throw _
  · exact neat_get_bind fun _ _ => neat_guard (neat_trapM _ _) fun _ => neat_guard (neat_throw _) fun _ => neat_pure _

theorem canonicalNext_execInstructionFetchFault {h : Nat} {s : State} (hs : Canonical s) : CanonicalNext (execInstructionFetchFault h s) := by
  unfold execInstructionFetchFault
  split
  · next hrun hrun => exact canonicalNext_next (canonical_stopped hs (Neat.error neat_fetchWord hs hrun))
  · exact canonicalNext_next hs

theorem canonicalNext_execNotAnInstruction {w : BitVec 32} {s : State} (hs : Canonical s) : CanonicalNext (execNotAnInstruction w s) :=
  canonicalNext_next (canonical_trapEntry hs)

theorem canonical_coreClock {s : State} {c n : Nat} (hs : Canonical s) : Canonical (s.coreClock c n) := canonical_updCore (canonical_count hs)

theorem canonical_clock {s : State} {cl k : Nat} (hs : Canonical s) : Canonical (s.clock cl k) :=
  canonical_ite hs (canonical_withHarts (canonical_foldl (fun _ _ ht => canonical_ite (canonical_coreClock ht) ht) _ (canonical_updCluster hs)))

theorem canonical_pass {s : State} {c : Nat} (hs : Canonical s) : Canonical (s.pass c) := canonical_clock hs

theorem canonical_idle {s : State} (hs : Canonical s) : Canonical s.idle := canonical_foldl (fun _ _ ht => canonical_clock ht) _ hs

theorem canonical_orStay {s : State} {o : Out1} (hs : Canonical s) (ho : CanonicalNext o) : Canonical (orStay s o) := by
  unfold orStay
  split
  · exact ho _ rfl
  · exact hs

theorem canonical_wakeHome {s : State} {h : Nat} (hs : Canonical s) : Canonical (s.wakeHome h) := by
  unfold State.wakeHome
  split
  · exact canonical_orStay hs (canonicalNext_execWakeComplete hs)
  · exact hs

/-- What the engines do while a hart waits, one after the other (log 8). -/
theorem canonical_enginesGo {s : State} {h : Nat} (hs : Canonical s) : Canonical (s.enginesGo h) := by
  unfold State.enginesGo
  extract_lets c go cluster woken replied committed passed slewed freed copied gathered drifted
  have hgo : ∀ {t : State} {f : State → Out1}, Canonical t → (∀ {u}, Canonical u → CanonicalNext (f u)) → Canonical (go t f) :=
    fun ht hf => canonical_orStay ht (hf ht)
  have hwoken : Canonical woken := canonical_foldl (fun _ _ ht =>
    canonical_ite ht (hgo (hgo ht canonicalNext_execWakeComplete) canonicalNext_execRemoteBufferMessage)) _ hs
  have hreplied : Canonical replied := canonical_wakeHome (hgo hwoken canonicalNext_execRemoteReply)
  have hpassed : Canonical passed := hgo (hgo hreplied canonicalNext_execConvoyCommit) canonicalNext_execLayerPass
  have hslewed : Canonical slewed := canonical_ite hpassed (hgo hpassed canonicalNext_execSlewStep)
  have hcopied : Canonical copied := hgo (hgo hslewed canonicalNext_execAnvilFree) canonicalNext_execCopyRun
  have hgathered : Canonical gathered := by
    unfold gathered
    split
    · exact hgo hcopied canonicalNext_execGatherRecord
    · exact hcopied
  have hdrifted : Canonical drifted := canonical_foldl (fun _ _ ht => canonical_foldl (fun _ _ hu =>
    hgo (hgo (hgo hu canonicalNext_execDriftCopyLine) canonicalNext_execSwitch) canonicalNext_execChainCompression) _ ht) _ hgathered
  exact hgo hdrifted canonicalNext_execGustCycle

theorem neat_reissueAct {h : Nat} {e : QEntry} {i : Instr} : Neat (reissueAct h e i) := by
  unfold reissueAct
  split
  · exact neat_mstatAct
  · exact neat_frontAct fun _ => neat_dmoveAct
  · exact neat_frontAct fun _ => neat_dfixAct
  · exact neat_frontAct fun _ => neat_dackAct
  · exact neat_dsweepAct
  · exact neat_frontAct fun _ => neat_dstatAct
  · exact neat_frontAct fun _ => neat_nwrAct
  · exact neat_frontAct fun _ => neat_npostAct
  · exact neat_frontAct fun _ => neat_nwaitAct
  · exact neat_frontAct fun _ => neat_nctrAct
  · exact neat_frontAct fun _ => neat_cgloadAct
  · exact neat_frontAct fun _ => neat_cgrunAct
  · exact neat_frontAct fun _ => neat_cgwaitAct
  · exact neat_frontAct fun _ => neat_cgstatAct
  · exact neat_pure _

theorem neat_map_getD {α : Type} {f : α → M Unit} (hf : ∀ a, Neat (f a)) (o : Option α) : Neat ((o.map f).getD (pure ())) := by
  cases o
  · exact neat_pure _
  · exact hf _

theorem canonical_reissueFront {s : State} {h : Nat} {e : QEntry} (hs : Canonical s) : Canonical (s.reissueFront h e) := by
  have hact := neat_map_getD (fun i => neat_reissueAct (h := h) (e := e) (i := i)) e.instr
  unfold State.reissueFront
  refine canonical_ite (canonical_updHart hs) ?_
  split
  · next hrun => exact canonical_updHart (canonical_markDone (hact.ok hs hrun))
  · exact canonical_updHart (canonical_keepSide hs)
  · next hrun => exact canonical_stopped hs (hact.error hs hrun)

theorem canonical_setPc {s : State} {h : Nat} {pc : Word} (hs : Canonical s) : Canonical (s.setPc h pc) := canonical_updCtx hs

/-- Two words that change places are both performed (R277). -/
theorem canonicalSome_swapped {s : State} {ex : Instr → State → Out1} {h : Nat} {w : Word32} (hs : Canonical s)
    (hex : ∀ i t, Canonical t → CanonicalNext (ex i t)) : CanonicalSome (s.swapped ex h w) := by
  unfold State.swapped
  refine canonicalSome_ite canonicalSome_none ?_
  split
  · next hsecond =>
    have hfetched := neat_fetchWord.ok (canonical_setPc hs) hsecond
    refine canonicalSome_ite canonicalSome_none ?_
    split
    · split
      · next hfirst =>
        have hdone := hex _ _ hfetched _ hfirst
        refine canonicalSome_ite canonicalSome_none ?_
        split
        · next hlast =>
          have hboth := hex _ _ (canonical_setPc (canonical_orStay hdone (canonicalNext_execSwitch hdone))) _ hlast
          exact canonicalSome_ite canonicalSome_none (canonicalSome_some (canonical_setPc hboth))
        · exact canonicalSome_none
      · exact canonicalSome_none
    · exact canonicalSome_none
  · exact canonicalSome_none

/-- A hart that is offered its word: a reissued word, the end of its task, a fetch fault, the word's meaning, or a stop. -/
theorem canonicalNext_runHart {s : State} {ex : Instr → State → Out1} {h : Nat} (hs : Canonical s)
    (hex : ∀ i t, Canonical t → CanonicalNext (ex i t)) : CanonicalNext (s.runHart ex h) := by
  unfold State.runHart
  split
  · exact canonicalNext_next (canonical_reissueFront hs)
  · refine canonicalNext_ite (canonicalNext_execTaskEnd hs) ?_
    split
    · exact canonicalNext_execInstructionFetchFault hs
    · next w t hfetch =>
      have ht := neat_fetchWord.ok hs hfetch
      have hword : CanonicalNext (match decode w with | .ok i => ex i t | .error _ => execNotAnInstruction w t) := by
        split
        · exact hex _ _ ht
        · exact canonicalNext_execNotAnInstruction ht
      dsimp only
      split
      · split
        · next hswap => exact canonicalNext_next (canonicalSome_swapped ht hex _ hswap)
        · exact hword
      · exact canonicalNext_ite hword
          (canonicalNext_ite (canonicalNext_next (canonical_contrailStop ht)) (canonicalNext_next (canonical_holdStop ht)))

theorem canonicalNext_scan {ex : Instr → State → Out1} (hex : ∀ i s, Canonical s → CanonicalNext (ex i s)) {c : Nat} {l : List Nat} {s : State}
    (hs : Canonical s) : CanonicalNext (s.scan ex c l) := by
  induction l generalizing s with
  | nil => exact canonicalNext_next hs
  | cons h rest ih =>
    unfold State.scan
    refine canonicalNext_ite (ih hs) ?_
    have hoffered : CanonicalNext (({ s with turn := h } : State).runHart ex h) := canonicalNext_runHart hs hex
    split
    · next hrun =>
      have ht := hoffered _ hrun
      exact canonicalNext_ite (canonicalNext_next (canonical_updCore ht)) (ih ht)
    · exact hoffered

theorem canonical_serveWaits {s : State} {l : List Nat} (hs : Canonical s) : Canonical (s.serveWaits l) :=
  canonical_foldl (fun _ _ ht => canonical_enginesGo ht) _ hs

/-! ### Ethernet frames -/

theorem canonical_pause {s : State} {port : Nat} {classes : List (Nat × Nat)} (hs : Canonical s) : Canonical (s.pause port classes) :=
  canonical_setEth hs

theorem canonicalNext_handUp {s : State} {port : Nat} {msg : Carried} (hs : Canonical s) : CanonicalNext (s.handUp port msg) := by
  unfold State.handUp
  split
  · exact canonicalNext_next hs
  · exact canonicalNext_takePacket hs
  · exact canonicalNext_next (canonical_takeSack hs)
  · exact canonicalNext_next (canonical_takeLine hs)
  · exact canonicalNext_next (canonical_takeChunkCredit hs)
  · exact canonicalNext_next (canonical_takeReduce hs)
  · exact canonicalNext_next (canonical_pause hs)

theorem canonicalSome_openFrame {s : State} {port key pn : Nat} {frame : List (BitVec 8)} (hs : Canonical s) :
    CanonicalSome (s.openFrame port key pn frame).1 := by
  unfold State.openFrame
  dsimp only
  split
  · exact canonicalSome_some hs
  · split
    · exact canonicalSome_none
    · split
      · exact canonicalSome_none
      · exact canonicalSome_some (canonical_setEth hs)

theorem canonical_openFrame {s : State} {port key pn : Nat} {frame : List (BitVec 8)} (hs : Canonical s) :
    Canonical (s.openFrame port key pn frame).2 := by
  unfold State.openFrame
  dsimp only
  refine canonical_ite_snd hs ?_
  split
  · exact canonical_setEth hs
  · exact canonical_ite_snd (canonical_setEth hs) (canonical_setEth hs)

theorem canonical_tellRetry {s : State} {port n : Nat} {again : Bool} (hs : Canonical s) : Canonical (s.tellRetry port n again) := canonical_send hs

theorem canonical_retryTaken {s : State} {port n : Nat} (hs : Canonical s) : Canonical (s.retryTaken port n) := canonical_setEth hs

theorem canonical_retryAgain {s : State} {port n : Nat} (hs : Canonical s) : Canonical (s.retryAgain port n) :=
  canonical_foldl (fun _ _ ht => canonical_send ht) _ (canonical_retryTaken hs)

theorem canonicalNext_execEthernetFrame {port key pn : Nat} {frame : List (BitVec 8)} {pkt : FrameBody} {s : State} (hs : Canonical s) :
    CanonicalNext (execEthernetFrame port key pn frame pkt s) := by
  unfold execEthernetFrame
  extract_lets e on above
  have habove : ∀ {t}, Canonical t → CanonicalNext (above t) := by
    intro t ht
    unfold above
    dsimp only
    split
    · next hopen => exact canonicalNext_handUp (canonicalSome_openFrame ht _ hopen)
    · exact canonicalNext_next (canonical_openFrame ht)
  refine canonicalNext_ite (canonicalNext_next (canonical_ite (canonical_tellRetry hs) hs)) ?_
  split
  · exact habove hs
  · exact canonicalNext_next (canonical_ite (canonical_retryTaken hs) hs)
  · exact canonicalNext_next (canonical_ite (canonical_retryAgain hs) hs)
  · exact canonicalNext_ite (habove hs) (canonicalNext_ite (habove (canonical_tellRetry (canonical_setEth hs)))
      (canonicalNext_next (canonical_tellRetry hs)))

/-! ### The host -/

theorem canonicalNext_execHostMemAccess {write : Bool} {o len : Nat} {data : List (BitVec 8)} {s : State} (hs : Canonical s) :
    CanonicalNext (execHostMemAccess write o len data s) :=
  canonicalNext_ite (canonicalNext_next hs) (canonicalNext_ite (canonicalNext_next (canonical_ite (canonical_writePa hs) hs)) (canonicalNext_ite
    (canonicalNext_next hs) (canonicalNext_next (canonical_send hs))))

theorem canonicalNext_execHostSnoop {line : Nat} {data : List (BitVec 8)} {s : State} (hs : Canonical s) :
    CanonicalNext (execHostSnoop line data s) :=
  canonicalNext_ite (canonicalNext_next hs) (canonicalNext_next (canonical_writePa (canonical_send hs)))

theorem canonical_spdmAnswer {s : State} {code : Nat} {args body : List Nat} (hs : Canonical s) : Canonical (s.spdmAnswer code args body) :=
  canonical_send hs

theorem canonical_spdmRefuse {s : State} (hs : Canonical s) : Canonical s.spdmRefuse := canonical_send hs

theorem canonical_spdmWith {s : State} {slot : Nat} {act : List Byte → State} (hs : Canonical s) (hact : ∀ a, Canonical (act a)) :
    Canonical (s.spdmWith slot act) := by
  unfold State.spdmWith
  split
  · exact canonical_ite (hact _) (canonical_spdmRefuse hs)
  · exact canonical_spdmRefuse hs

theorem canonicalNext_execGetVersion {s : State} (hs : Canonical s) : CanonicalNext (execGetVersion s) :=
  canonicalNext_next (canonical_ite (canonical_spdmRefuse hs) (canonical_spdmAnswer hs))

theorem canonicalNext_execGetCapabilities {flags : Nat} {s : State} (hs : Canonical s) : CanonicalNext (execGetCapabilities flags s) :=
  canonicalNext_next (canonical_ite (canonical_spdmAnswer hs) (canonical_spdmRefuse hs))

theorem canonicalNext_execNegotiateAlgorithms {offer : Nat} {s : State} (hs : Canonical s) : CanonicalNext (execNegotiateAlgorithms offer s) :=
  canonicalNext_next (canonical_ite (canonical_spdmAnswer hs) (canonical_spdmRefuse hs))

theorem canonicalNext_execGetDigests {s : State} (hs : Canonical s) : CanonicalNext (execGetDigests s) :=
  canonicalNext_next (canonical_spdmWith hs fun _ => canonical_spdmWith hs fun _ => canonical_spdmAnswer hs)

theorem canonicalNext_execGetCertificate {slot off len : Nat} {s : State} (hs : Canonical s) :
    CanonicalNext (execGetCertificate slot off len s) :=
  canonicalNext_next (canonical_spdmWith hs fun _ => canonical_spdmAnswer hs)

theorem canonicalNext_execChallenge {slot nonce : Nat} {s : State} (hs : Canonical s) : CanonicalNext (execChallenge slot nonce s) :=
  canonicalNext_next (canonical_spdmWith hs fun _ => canonical_spdmAnswer hs)

theorem canonicalNext_execGetMeasurements {slot index nonce : Nat} {s : State} (hs : Canonical s) :
    CanonicalNext (execGetMeasurements slot index nonce s) :=
  canonicalNext_next (canonical_ite (canonical_spdmRefuse hs) (canonical_spdmWith hs fun _ => canonical_spdmAnswer hs))

theorem canonicalNext_execKeyExchange {slot key : Nat} {s : State} (hs : Canonical s) : CanonicalNext (execKeyExchange slot key s) :=
  canonicalNext_next (canonical_spdmWith hs fun _ => canonical_spdmAnswer hs)

theorem canonicalNext_execFinish {mac : Nat} {s : State} (hs : Canonical s) : CanonicalNext (execFinish mac s) :=
  canonicalNext_ite (canonicalNext_next (canonical_spdmRefuse hs)) (canonicalNext_next (canonical_ite (canonical_spdmAnswer hs) (canonical_spdmRefuse
    hs)))

theorem canonicalNext_execEndSession {s : State} (hs : Canonical s) : CanonicalNext (execEndSession s) :=
  canonicalNext_next (canonical_ite (canonical_spdmAnswer hs) (canonical_spdmRefuse hs))

theorem canonicalNext_execKeyset {port an sak ssci salt : Nat} {s : State} (hs : Canonical s) :
    CanonicalNext (execKeyset port an sak ssci salt s) :=
  canonicalNext_ite (canonicalNext_next (canonical_spdmRefuse hs)) (canonicalNext_next (canonical_send (canonical_setEth hs)))

/-! ### Page requests -/

theorem canonicalNext_execPageRequest {s : State} (hs : Canonical s) : CanonicalNext (execPageRequest s) := by
  unfold execPageRequest
  split
  · exact canonicalNext_ite (canonicalNext_next hs) (canonicalNext_next (canonical_send hs))
  · exact canonicalNext_next hs

theorem canonical_freeSlotK {s : State} {k : Nat} (hs : Canonical s) : Canonical (s.freeSlotK k) := hs

theorem canonical_resumeWaiter {s : State} {w : Waiter} (hs : Canonical s) : Canonical (s.resumeWaiter w) := by
  unfold State.resumeWaiter
  split
  · exact canonical_updTask hs
  · exact canonical_updTask hs
  · exact canonical_updCore hs
  · exact canonical_updGather hs
  · exact hs
  · exact canonical_updWork hs
  · exact hs
  · exact hs
  · exact canonical_flushErrors (canonical_updLaunch hs)
  · split
    · exact canonical_sndWrite (canonical_setSnd hs)
    · exact hs

theorem canonical_dropError {s : State} {lno : Nat} (hs : Canonical s) : Canonical (s.dropError lno) := by
  unfold State.dropError
  split
  · split
    · exact canonical_flushErrors (canonical_updLaunch (canonical_logError hs))
    · exact canonical_updLaunch hs
  · exact hs

theorem canonical_failWaiter {s : State} {lno gen va : Nat} {w : Waiter} (hs : Canonical s) : Canonical (s.failWaiter lno gen va w) := by
  unfold State.failWaiter
  split
  · exact canonical_terminateTask hs
  · exact canonical_terminateTask hs
  · split
    · exact canonical_terminateTask hs
    · exact hs
  · split
    · exact canonical_terminateTask hs
    · exact hs
  · exact canonical_pageFailRun hs
  · split
    · exact canonical_failWork hs
    · exact hs
  · exact canonical_acknowledge (canonical_launchRecord hs)
  · exact canonical_ackJet (canonical_launchRecord hs)
  · exact canonical_dropError hs
  · split
    · exact canonical_sndDrop hs
    · exact hs

theorem canonical_failSlot {s : State} {k : Nat} (hs : Canonical s) : Canonical (s.failSlot k) := by
  unfold State.failSlot
  split
  · exact hs
  · exact canonical_foldl (fun _ _ ht => canonical_failWaiter ht) _ (canonical_freeSlotK hs)

theorem canonical_prgResponse {s : State} {k : Nat} {act : PageReq → State} (hs : Canonical s) (hact : ∀ a, Canonical (act a)) :
    Canonical (s.prgResponse k act) := by
  unfold State.prgResponse
  refine canonical_ite (canonical_freeSlotK hs) ?_
  split
  · exact canonical_logHealth hs
  · exact hact _

theorem canonical_withPageWait {s : State} {pageWait' : List PageReq} (hs : Canonical s) :
    Canonical { s with pageWait := pageWait' } := hs

theorem canonical_withMmu {s : State} {mmu' : Mmu} (hs : Canonical s) :
    Canonical { s with mmu := mmu' } := hs

theorem canonicalNext_execPrgSuccess {slot : Nat} {s : State} (hs : Canonical s) : CanonicalNext (execPrgSuccess slot s) := by
  exact canonicalNext_next (canonical_prgResponse hs fun _ => canonical_ite (canonical_ite (canonical_failSlot hs) (canonical_withPageWait
    (canonical_freeSlotK hs))) (canonical_foldl (fun _ _ ht => canonical_resumeWaiter ht) _ (canonical_freeSlotK (canonical_ite (canonical_withMmu hs)
    hs))))

theorem canonicalNext_execPrgInvalidRequest {slot : Nat} {s : State} (hs : Canonical s) : CanonicalNext (execPrgInvalidRequest slot s) :=
  canonicalNext_next (canonical_prgResponse hs fun _ => canonical_failSlot hs)

theorem canonical_withPrgEnabled {s : State} {prgEnabled' : Bool} (hs : Canonical s) :
    Canonical { s with prgEnabled := prgEnabled' } := hs

theorem canonicalNext_execPrgResponseFailure {slot : Nat} {s : State} (hs : Canonical s) : CanonicalNext (execPrgResponseFailure slot s) :=
  canonicalNext_next (canonical_prgResponse hs fun _ => canonical_withPrgEnabled (canonical_failSlot hs))

theorem canonicalNext_execAtsInvalidate {page : Nat} {s : State} (hs : Canonical s) : CanonicalNext (execAtsInvalidate page s) :=
  canonicalNext_next (canonical_send hs)

/-! ### Scalar FP32 words -/

theorem canonicalNext_fpWrite {k : Bool} {w : Nat} {d : BitVec 7} {r : Nat × Ev} {s : State} (hs : Canonical s) :
    CanonicalNext (fpWrite k w d r s) :=
  canonicalNext_ite (canonicalNext_next (canonical_retire (canonical_updCtx (canonical_setX hs)))) (canonicalNext_next (canonical_trapEntry hs))

end Sys2Proof.Machine
end

section
/-! PROOFS. Every meaning, and so every step, keeps memory canonical (R276). -/

namespace Sys2Proof.Machine

open Sys2Proof

/-! ### Every meaning -/

/-- A word is one of the shared meanings; an event is answered by the lemma of its own. -/
theorem canonicalNext_exec {s : State} (hs : Canonical s) (i : Instr) : CanonicalNext (exec i s) := by
  unfold exec
  cases i
  case vadd | vsub | vmul | vdiv | vmin | vmax | vaddVx | vsubVx | vmulVx | vdivVx | vminVx | vmaxVx | vfma | vfms | vfnma | vfnms | vfmaVx |
    vfmsVx | vfnmaVx | vfnmsVx | vsqrt | vrsqrt | vexp | vlog | vtanh | vsigmoid | vfloor | vround | vabs | vneg | vrelu | vmov | veq | vne | vlt |
    vle | veqVx | vneVx | vltVx | vleVx | vsel | qand | qor | qxor | qsub | qnot | qcpy | viadd | visub | vimul | vimulh | vimin | vimax | vidiv |
    virem | vand | vor | vxor | vsll | vsrl | vsra | viaddVx | vimulVx | vandVx | vorVx | vxorVx | vsllVx | vsrlVx | vsraVx | vcvtTo | vcvtFrom |
    vredsum | vredmax | vredmin | vredand | vredor | vredxor | vid | vslideup | vslidedn | vshuf | vcompress | vbcast | vhail | vbern | vseed | vtclr
    | vtget | vtset | vfgu | vld | vlds | vldx | vst | vstU | vsts | vstx | vstxU | vldw | vstw | vlda | vsta | vldc | vstc | vaadd | vaswap | vamax
    | vamin | vamaxn | vaminn | vaand | vaor | vaaddO | vaswapO | vamaxO | vaminO | vamaxnO | vaminnO | vaandO | vaorO | vsld | vsst | vbind |
    vunbind | hset | vscl | vldnp | mzero | mmulBf16 | mmulE4m3 | mmulE5m2 | mmulNp4 | mmulNp2 | mmulSpBf16 | mmulSpE4m3 | mmulSpE5m2 | mmulSpNp4 |
    mmulSpNp2 | mdrain | mdrainS | mdrainX | cpl | cpgo | cpv | vdfix =>
    exact canonicalNext_issue hs
  case mshape => exact canonicalNext_issueWith (fun _ => neat_mshapeAct) hs
  case mlds => exact canonicalNext_issueWith (fun _ => neat_mldsAct) hs
  case mstat => exact canonicalNext_issueWith (fun _ => neat_mstatAct) hs
  case dmove => exact canonicalNext_issueFront (fun _ => neat_dmoveAct) hs
  case dfix => exact canonicalNext_issueFront (fun _ => neat_dfixAct) hs
  case dsweep => exact canonicalNext_issueWith (fun _ => neat_dsweepAct) hs
  case dack => exact canonicalNext_issueFront (fun _ => neat_dackAct) hs
  case dstat => exact canonicalNext_issueFront (fun _ => neat_dstatAct) hs
  case nwr => exact canonicalNext_issueFront (fun _ => neat_nwrAct) hs
  case npost => exact canonicalNext_issueFront (fun _ => neat_npostAct) hs
  case nwait => exact canonicalNext_issueFront (fun _ => neat_nwaitAct) hs
  case nctr => exact canonicalNext_issueFront (fun _ => neat_nctrAct) hs
  case cgload => exact canonicalNext_issueFront (fun _ => neat_cgloadAct) hs
  case cgrun => exact canonicalNext_issueFront (fun _ => neat_cgrunAct) hs
  case cgwait => exact canonicalNext_issueFront (fun _ => neat_cgwaitAct) hs
  case cgstat => exact canonicalNext_issueFront (fun _ => neat_cgstatAct) hs
  case add | sub | and | or | xor | sll | srl | sra | slt | sltn | seq | sne | mul | mulh | mulhn | div | divn | rem | remn | addi | andi | ori |
    xori | slti | sltni | slli | srli | srai | lim | apc =>
    exact canonicalNext_alu hs
  case fadd | fsub | fmul | fdiv | ffma | fsqrt | fmin | fmax | feq | flt | fle | fcvtI | fcvtN | fcvtFi | fcvtFn => exact canonicalNext_fpWrite hs
  case jalr => exact canonicalNext_execJalr hs
  case beq | bne | blt | bge | bltn | bgen => exact canonicalNext_branch hs
  case jal => exact canonicalNext_execJal hs
  case ld64 | ld32 | ld32n | ld16 | ld16n | ld8 | ld8n => exact canonicalNext_scalarLoad hs
  case st64 | st32 | st16 | st8 => exact canonicalNext_scalarStore hs
  case lrx | lrx32 => exact canonicalNext_loadReserve hs
  case scx | scx32 => exact canonicalNext_storeConditional hs
  case aswap | aadd | aand | aor | axor | amax | amin | amaxn | aminn | acas | ainc | afab | aswap32 | aadd32 | aand32 | aor32 | axor32 | amax32 |
    amin32 | amaxn32 | aminn32 | acas32 | ainc32 | afab32 =>
    exact canonicalNext_scalarAtomic hs
  case halt => exact canonicalNext_execHalt hs
  case yield => exact canonicalNext_execYield hs
  case tlbinv => exact canonicalNext_execTlbinv hs
  case rdcyc => exact canonicalNext_execRdcyc hs
  case rdtime => exact canonicalNext_execRdtime hs
  case rdctr => exact canonicalNext_execRdctr hs
  case vdrain => exact canonicalNext_execVdrain hs
  case fenceAcq => exact canonicalNext_execFenceAcq hs
  case fenceRel => exact canonicalNext_execFenceRel hs
  case fence => exact canonicalNext_execFence hs
  case trap => exact canonicalNext_execTrap hs
  case tret => exact canonicalNext_execTret hs
  case ebrk => exact canonicalNext_execEbrk hs
  case cget => exact canonicalNext_execCget hs
  case cset => exact canonicalNext_execCset hs
  case vcfg => exact canonicalNext_execVcfg hs
  case vgrant => exact canonicalNext_execVgrant hs
  case wbase => exact canonicalNext_execWbase hs
  case barArrive => exact canonicalNext_execBarArrive hs
  case barWait => exact canonicalNext_execBarWait hs
  case tskDef => exact canonicalNext_execTskDef hs
  case tskDec => exact canonicalNext_execTskDec hs
  case lnch => exact canonicalNext_execLnch hs
  case lwait => exact canonicalNext_execLwait hs
  case sndClaim => exact canonicalNext_execSndClaim hs
  case sndGive => exact canonicalNext_execSndGive hs
  case sndStat => exact canonicalNext_execSndStat hs
  case convoyCommit => exact canonicalNext_execConvoyCommit hs
  case gustCycle => exact canonicalNext_execGustCycle hs
  case remoteBufferMessage => exact canonicalNext_execRemoteBufferMessage hs
  case remoteReply => exact canonicalNext_execRemoteReply hs
  case layerPass => exact canonicalNext_execLayerPass hs
  case anvilFree => exact canonicalNext_execAnvilFree hs
  case layerTempReport => exact canonicalNext_execLayerTempReport hs
  case slewStep => exact canonicalNext_execSlewStep hs
  case copyRun => exact canonicalNext_execCopyRun hs
  case gatherRecord => exact canonicalNext_execGatherRecord hs
  case driftCopyLine => exact canonicalNext_execDriftCopyLine hs
  case switch => exact canonicalNext_execSwitch hs
  case chainCompression => exact canonicalNext_execChainCompression hs
  case taskDispatch => exact canonicalNext_execTaskDispatch hs
  case preemption => exact canonicalNext_execPreemption hs
  case ageWindowExpiry => exact canonicalNext_execAgeWindowExpiry hs
  case spinBudgetExpiry => exact canonicalNext_execSpinBudgetExpiry hs
  case wake => exact canonicalNext_execWake hs
  case taskEnd => exact canonicalNext_execTaskEnd hs
  case launchEnd => exact canonicalNext_execLaunchEnd hs
  case graphNodeLaunch => exact canonicalNext_execGraphNodeLaunch hs
  case soundingSliceForward => exact canonicalNext_execSoundingSliceForward hs
  case soundingMerge => exact canonicalNext_execSoundingMerge hs
  case packageReset => exact canonicalNext_execPackageReset
  case selfTest => exact canonicalNext_execSelfTest hs
  case powerLoss => exact canonicalNext_execPowerLoss
  case summary => exact canonicalNext_execSummary hs
  case logread => exact canonicalNext_execLogread hs
  case regr => exact canonicalNext_execRegr hs
  case regw => exact canonicalNext_execRegw hs
  case thcfgWrite => exact canonicalNext_execThcfgWrite hs
  case primeZoneWrite => exact canonicalNext_execPrimeZoneWrite hs
  case fpoolWrite => exact canonicalNext_execFpoolWrite hs
  case jscfgWrite => exact canonicalNext_execJscfgWrite hs
  case service => exact canonicalNext_execService hs
  case resume => exact canonicalNext_execResume hs
  case tdump => exact canonicalNext_execTdump hs
  case dbgset => exact canonicalNext_execDbgset hs
  case dbggo => exact canonicalNext_execDbggo hs
  case harton => exact canonicalNext_execHarton hs
  case fwstage => exact canonicalNext_execFwstage hs
  case fwapply => exact canonicalNext_execFwapply hs
  case firmwareTowerApply => exact canonicalNext_execFirmwareTowerApply hs
  case netsync => exact canonicalNext_execNetsync hs
  case commsync => exact canonicalNext_execCommsync hs
  case doorbell => exact canonicalNext_execDoorbell hs
  case launch => exact canonicalNext_execLaunch hs
  case gdef => exact canonicalNext_serve hs fun _ => canonical_putGraph hs
  case gedit => exact canonicalNext_execGedit hs
  case grun => exact canonicalNext_execGrun hs
  case gfree => exact canonicalNext_execGfree hs
  case kill => exact canonicalNext_execKill hs
  case registerWrite => exact canonicalNext_execRegisterWrite hs
  case hostMemAccess => exact canonicalNext_execHostMemAccess hs
  case hostSnoop => exact canonicalNext_execHostSnoop hs
  case atsInvalidate => exact canonicalNext_execAtsInvalidate hs
  case pageRequest => exact canonicalNext_execPageRequest hs
  case prgSuccess => exact canonicalNext_execPrgSuccess hs
  case prgInvalidRequest => exact canonicalNext_execPrgInvalidRequest hs
  case prgResponseFailure => exact canonicalNext_execPrgResponseFailure hs
  case getVersion => exact canonicalNext_execGetVersion hs
  case getCapabilities => exact canonicalNext_execGetCapabilities hs
  case negotiateAlgorithms => exact canonicalNext_execNegotiateAlgorithms hs
  case getDigests => exact canonicalNext_execGetDigests hs
  case getCertificate => exact canonicalNext_execGetCertificate hs
  case challenge => exact canonicalNext_execChallenge hs
  case getMeasurements => exact canonicalNext_execGetMeasurements hs
  case keyExchange => exact canonicalNext_execKeyExchange hs
  case finish => exact canonicalNext_execFinish hs
  case endSession => exact canonicalNext_execEndSession hs
  case keyset => exact canonicalNext_execKeyset hs
  case sensorReading => exact canonicalNext_execSensorReading hs
  case shelterPowerOff => exact canonicalNext_execShelterPowerOff hs
  case shelterBoundExpiry => exact canonicalNext_execShelterBoundExpiry hs
  case shelterReturn => exact canonicalNext_execShelterReturn hs
  case watchdogExpiry => exact canonicalNext_execWatchdogExpiry hs
  case parityError => exact canonicalNext_execParityError hs
  case fatalFault => exact canonicalNext_execFatalFault
  case eccError => exact canonicalNext_execEccError hs
  case patrolScrub => exact canonicalNext_execPatrolScrub hs
  case contrailSample => exact canonicalNext_execContrailSample hs
  case dewpointSample => exact canonicalNext_execDewpointSample hs
  case coreGate => exact canonicalNext_execCoreGate hs
  case gateEntryComplete => exact canonicalNext_execGateEntryComplete hs
  case wakeComplete => exact canonicalNext_execWakeComplete hs
  case ldoSettle => exact canonicalNext_execLdoSettle hs
  case benlarFlit => exact canonicalNext_execBenlarFlit hs
  case benlarLinkLoss => exact canonicalNext_execBenlarLinkLoss hs
  case ethernetFrame => exact canonicalNext_execEthernetFrame hs
  case packetSend => exact canonicalNext_execPacketSend hs
  case transportPacket => exact canonicalNext_execTransportPacket hs
  case sack => exact canonicalNext_execSack hs
  case retransmissionTimeout => exact canonicalNext_execRetransmissionTimeout hs
  case peerTimeout => exact canonicalNext_execPeerTimeout hs
  case nakRetransmit => exact canonicalNext_execNakRetransmit hs
  case chunkStart => exact canonicalNext_execChunkStart hs
  case chunkEnd => exact canonicalNext_execChunkEnd hs
  case chunkLine => exact canonicalNext_execChunkLine hs
  case credit => exact canonicalNext_execCredit hs
  case adderLine => exact canonicalNext_execAdderLine hs
  case rstrArrive => exact canonicalNext_execRstrArrive hs
  case jetstreamTimeout => exact canonicalNext_execJetstreamTimeout hs
  case notAnInstruction => exact canonicalNext_execNotAnInstruction hs
  case instructionFetchFault => exact canonicalNext_execInstructionFetchFault hs
  case badcmd => exact canonicalNext_execBadcmd hs
  case badrecEntry => exact canonicalNext_execBadrecEntry hs

/-! ### The step -/

theorem canonicalNext_step {s : State} (hs : Canonical s) : CanonicalNext (step s) := by
  obtain ⟨i, rest, -, h⟩ | ⟨-, -, h⟩ | ⟨c, -, -, h⟩ := step_cases s
  · rw [h]; exact canonicalNext_ite (canonicalNext_exec (canonical_withAgenda hs) i) (canonicalNext_next (canonical_withAgenda hs))
  · rw [h]; exact canonicalNext_next (canonical_idle hs)
  · rw [h]; exact canonicalNext_scan (fun i _ ht => canonicalNext_exec ht i) (canonical_serveWaits (canonical_pass hs))

end Sys2Proof.Machine

open Sys2Proof Sys2Proof.Machine

/-- Settles O6: every part of a step keeps memory canonical, by the lemma that says so of each function that the step is made of; memory is
written by `Memory.write` alone. -/
theorem memoryStaysCanonical : Obligations.MemoryStaysCanonical := by
  unfold Obligations.MemoryStaysCanonical
  exact fun s t hs h => canonicalNext_step hs t h
end
